-- ==== Sys2Proof/Word.lean ====
section
/-! DEFINITION. The word types of the SK-64 (00 R11-R13): bytes, 64-bit registers, 512-bit lines,
and the two containers the state is made of, tables by number and byte memories. -/

namespace Sys2Proof

/-- A byte (R13). -/
abbrev Byte := BitVec 8
/-- A control-core register, a narrow token's data, an MMIO register. -/
abbrev Word := BitVec 64
/-- A 64-byte line, a wide token's data, a vector register (R13). -/
abbrev Line := BitVec 512

/-- A table by number: pairs of a number and an entry. What an unlisted number holds is said where the
table is read. -/
abbrev Tab (α : Type) := List (Nat × α)

/-- A byte memory: listed bytes by rising address, no byte listed that holds zero. An unlisted byte
reads zero (log 3). -/
abbrev Mem := List Host.Cell

end Sys2Proof
end

