-- ==== Sys2Proof/Machine/Tab.lean ====
section
/-! DEFINITION. The two containers of the state: tables by number, and byte memories in canonical form. -/

namespace Sys2Proof.Machine

/-- The entry of a table; d where none is listed. -/
def tget {α : Type} (d : α) (t : Tab α) (i : Nat) : α :=
  match t with
  | [] => d
  | (j, x) :: r => if j = i then x else tget d r i

/-- Sets an entry, keeping the keys rising. -/
def tins {α : Type} (t : Tab α) (i : Nat) (x : α) : Tab α :=
  match t with
  | [] => [(i, x)]
  | (j, y) :: r => if i < j then (i, x) :: (j, y) :: r else if i = j then (i, x) :: r else (j, y) :: tins r i x

/-- Removes an entry. -/
def tdel {α : Type} (t : Tab α) (i : Nat) : Tab α := t.filter fun p => p.1 != i

/-- Whether a table lists a number. -/
def thas {α : Type} (t : Tab α) (i : Nat) : Bool := t.any fun p => p.1 == i

/-- Sets an entry, or removes it where it is the default: equal tables are equal data. -/
def tput {α : Type} [DecidableEq α] (d : α) (t : Tab α) (i : Nat) (x : α) : Tab α :=
  if x = d then tdel t i else tins t i x

/-- Changes an entry. -/
def tmod {α : Type} (d : α) (t : Tab α) (i : Nat) (f : α → α) : Tab α := tins t i (f (tget d t i))

/-- Changes element i of a list; nothing beyond its end. -/
def lmod {α : Type} (l : List α) (i : Nat) (f : α → α) : List α :=
  match l, i with
  | [], _ => []
  | x :: r, 0 => f x :: r
  | x :: r, n + 1 => x :: lmod r n f

/-- The byte at an address; zero where none is listed (log 3). -/
def mget (m : Mem) (a : Nat) : Byte :=
  match m with
  | [] => 0
  | c :: r => if c.1 = a then c.2 else mget r a

/-- Writes a byte and keeps the canonical form: rising addresses, no zero byte listed. -/
def mput (m : Mem) (a : Nat) (v : Byte) : Mem :=
  match m with
  | [] => if v = 0 then [] else [(a, v)]
  | c :: r =>
    if a < c.1 then (if v = 0 then c :: r else (a, v) :: c :: r)
    else if a = c.1 then (if v = 0 then r else (a, v) :: r)
    else c :: mput r a v

/-- The canonical form from a lower bound on: rising addresses at or above lo, no zero byte listed. -/
def wfFrom (lo : Nat) (m : Mem) : Bool :=
  match m with
  | [] => true
  | c :: r => decide (lo ≤ c.1) && decide (c.2 ≠ 0) && wfFrom (c.1 + 1) r

/-- The canonical form of a byte memory. -/
def memWf (m : Mem) : Bool := wfFrom 0 m

/-- n bytes from an address, as a little-endian number (R13). -/
def mgetN (m : Mem) (a : Nat) : Nat → Nat
  | 0 => 0
  | n + 1 => (mget m a).toNat + 256 * mgetN m (a + 1) n

/-- Writes n bytes of a number from an address, least significant first (R13). -/
def mputN (m : Mem) (a : Nat) : Nat → Nat → Mem
  | 0, _ => m
  | n + 1, v => mputN (mput m a (BitVec.ofNat 8 v)) (a + 1) n (v / 256)

/-- Writes the bytes of a 64-byte line whose mask bits are set; n bytes remain (R74). -/
def mputMask (m : Mem) (a : Nat) (mask v : Nat) : Nat → Mem
  | 0 => m
  | n + 1 => mputMask (if mask % 2 = 1 then mput m a (BitVec.ofNat 8 v) else m) (a + 1) (mask / 2) (v / 256) n

/-- The 64-byte line at an address (R13). -/
def lineAt (m : Mem) (a : Nat) : Line := BitVec.ofNat 512 (mgetN m a 64)

/-- Writes a 64-byte line. -/
def putLine (m : Mem) (a : Nat) (v : Line) : Mem := mputN m a 64 v.toNat

/-- Removes every byte from lo up to hi, so that they read zero: a scrub (R42). -/
def mclear (m : Mem) (lo hi : Nat) : Mem := m.filter fun c => !(decide (lo ≤ c.1) && decide (c.1 < hi))

/-- Bytes of a list, least significant first, as a number. -/
def bytesNat : List Byte → Nat
  | [] => 0
  | b :: r => b.toNat + 256 * bytesNat r

/-- n bytes of a number, least significant first. -/
def natBytes : Nat → Nat → List Byte
  | 0, _ => []
  | n + 1, v => BitVec.ofNat 8 v :: natBytes n (v / 256)

/-- Field of n bits at lo of a number. -/
def fld (v lo n : Nat) : Nat := v / 2 ^ lo % 2 ^ n

/-- Bit i of a number. -/
def bit (v i : Nat) : Bool := v / 2 ^ i % 2 == 1

/-- The number with its field of n bits at lo set to x. -/
def setFld (v lo n x : Nat) : Nat := v - fld v lo n * 2 ^ lo + (x % 2 ^ n) * 2 ^ lo

/-- A Bool as a bit. -/
def b2n (b : Bool) : Nat := if b then 1 else 0

/-- The index of the first set bit below n, if any. -/
def firstBit (v : Nat) (n : Nat) : Option Nat := (List.range n).find? fun i => bit v i

/-- CRC-16 of one bit (R75: polynomial 0x1021, no reflection). -/
def crcBit (c : Nat) (b : Bool) : Nat :=
  let top : Bool := bit c 15
  let c := c * 2 % 65536
  if top != b then Nat.xor c 0x1021 else c

/-- CRC-16 of a byte, most significant bit first (R75). -/
def crcByte (c : Nat) (b : Nat) : Nat := [7, 6, 5, 4, 3, 2, 1, 0].foldl (fun c i => crcBit c (bit b i)) c

/-- CRC-16 of a byte list, initial value 0xFFFF (R75). -/
def crc16 (l : List Byte) : Nat := l.foldl (fun c b => crcByte c b.toNat) 0xFFFF

/-- The line check (R75): over the 64 data bytes and then FMT and SCALE of the tag. -/
def lineCheck (data : Line) (tag : BitVec 16) : BitVec 16 := BitVec.ofNat 16 (crc16 (natBytes 64 data.toNat ++ natBytes 2 tag.toNat))

/-- The line check of a line of zeros with FMT 0x00 and SCALE 0x00, as a scrub leaves it (R42, R73, R77). -/
def zeroCheck : BitVec 16 := 0xD5B6

end Sys2Proof.Machine
end

