-- ==== Sys2Proof/Syntax.lean ====
section
/-! DEFINITION. The instructions of the SK-64: one constructor for each row of spec/opcode_table.json. The
first rows are control-core words (08 R208), the middle rows fabric slots (08 R227), the others the
events and host actions the table lists, each one whole step (95). -/

namespace Sys2Proof

/-- A fabric slot word without its opcode (08 R227). The fields stand from the most significant down. -/
structure Slot where
  inmask : BitVec 16
  outmask : BitVec 16
  predreq : BitVec 4
  predmask : BitVec 4
  kindc : BitVec 3
  lvlc : BitVec 3
  brk : BitVec 1
  valid : BitVec 1
  dst : BitVec 8
  a : BitVec 8
  b : BitVec 8
  c : BitVec 8
  fmt : BitVec 4
  rnd : BitVec 3
  sat : BitVec 1
  pwe : BitVec 1
  pwn : BitVec 1
  pwi : BitVec 2
  md : BitVec 10
  imm : BitVec 16
  deriving DecidableEq, Repr

/-- Who asks for a register or configuration access: the host through physical function p's BARs
(vf 0) or through virtual function vf of p, supervisor software of partition p (a copy), or the
management processor of p (01 R26-R28, 23 R490). -/
inductive Requester where
  | host (pf vf : Nat)
  | agent (part : Nat)
  | mgmt (part : Nat)
  deriving DecidableEq, Repr

/-- One constructor per row of the opcode table. An element is named by key = 100 * core + element number
(01 R36); a queue by its operand selector (08 R230); a region by its number rid. -/
inductive Instr where
  /-- Writes A + B modulo 2^64 to xd (R253). -/
  | add (d a b : BitVec 5) (p q : BitVec 1)
  /-- Writes A - B modulo 2^64 to xd (R253). -/
  | sub (d a b : BitVec 5) (p q : BitVec 1)
  /-- Writes the bitwise and of A and B to xd (R253). -/
  | and (d a b : BitVec 5) (p q : BitVec 1)
  /-- Writes the bitwise or of A and B to xd (R253). -/
  | or (d a b : BitVec 5) (p q : BitVec 1)
  /-- Writes the bitwise xor of A and B to xd (R253). -/
  | xor (d a b : BitVec 5) (p q : BitVec 1)
  /-- Shifts A left by B[5:0] and writes the result to xd (R253). -/
  | sll (d a b : BitVec 5) (p q : BitVec 1)
  /-- Shifts A right logically by B[5:0] and writes the result to xd (R253). -/
  | srl (d a b : BitVec 5) (p q : BitVec 1)
  /-- Shifts A right arithmetically by B[5:0] and writes the result to xd (R253). -/
  | sra (d a b : BitVec 5) (p q : BitVec 1)
  /-- Writes 1 to xd if A < B signed, and 0 otherwise (R253). -/
  | slt (d a b : BitVec 5) (p q : BitVec 1)
  /-- Writes 1 to xd if A < B unsigned, and 0 otherwise (R253). -/
  | sltu (d a b : BitVec 5) (p q : BitVec 1)
  /-- Writes the signed minimum of A and B to xd (R253). -/
  | min (d a b : BitVec 5) (p q : BitVec 1)
  /-- Writes the signed maximum of A and B to xd (R253). -/
  | max (d a b : BitVec 5) (p q : BitVec 1)
  /-- Writes the unsigned minimum of A and B to xd (R253). -/
  | minu (d a b : BitVec 5) (p q : BitVec 1)
  /-- Writes the unsigned maximum of A and B to xd (R253). -/
  | maxu (d a b : BitVec 5) (p q : BitVec 1)
  /-- Writes sext32(A + B) to xd (R253). -/
  | addw (d a b : BitVec 5) (p q : BitVec 1)
  /-- Writes sext32(A - B) to xd (R253). -/
  | subw (d a b : BitVec 5) (p q : BitVec 1)
  /-- Writes sext32 of A[31:0] shifted left by B[4:0] to xd (R253). -/
  | sllw (d a b : BitVec 5) (p q : BitVec 1)
  /-- Writes sext32 of A[31:0] shifted right logically by B[4:0] to xd (R253). -/
  | srlw (d a b : BitVec 5) (p q : BitVec 1)
  /-- Writes sext32 of A[31:0] shifted right arithmetically by B[4:0] to xd (R253). -/
  | sraw (d a b : BitVec 5) (p q : BitVec 1)
  /-- Writes the low 64 bits of A times B to xd (R253). -/
  | mul (d a b : BitVec 5) (p q : BitVec 1)
  /-- Writes the high 64 bits of the signed product of A and B to xd (R253). -/
  | mulh (d a b : BitVec 5) (p q : BitVec 1)
  /-- Writes the high 64 bits of the unsigned product of A and B to xd (R253). -/
  | mulhu (d a b : BitVec 5) (p q : BitVec 1)
  /-- Writes the high 64 bits of signed A times unsigned B to xd (R253). -/
  | mulhsu (d a b : BitVec 5) (p q : BitVec 1)
  /-- Writes the signed quotient of A by B, rounded toward zero, with the defined results for division by zero and overflow (R254). -/
  | div (d a b : BitVec 5) (p q : BitVec 1)
  /-- Writes the unsigned quotient of A by B, or all ones when B is 0 (R254). -/
  | divu (d a b : BitVec 5) (p q : BitVec 1)
  /-- Writes the signed remainder of A by B, with the sign of the dividend (R254). -/
  | rem (d a b : BitVec 5) (p q : BitVec 1)
  /-- Writes the unsigned remainder of A by B (R254). -/
  | remu (d a b : BitVec 5) (p q : BitVec 1)
  /-- Writes the number of leading zero bits of A to xd (R253). -/
  | clz (d a b : BitVec 5) (p q : BitVec 1)
  /-- Writes the number of trailing zero bits of A to xd (R253). -/
  | ctz (d a b : BitVec 5) (p q : BitVec 1)
  /-- Writes the number of one bits of A to xd (R253). -/
  | popc (d a b : BitVec 5) (p q : BitVec 1)
  /-- Writes A with its bytes reversed to xd (R253). -/
  | bswap (d a b : BitVec 5) (p q : BitVec 1)
  /-- Waits if xd is owed, then clears the full bit of xd and leaves its value (R262). -/
  | feClr (d a b : BitVec 5) (p q : BitVec 1)
  /-- Writes the full bit of xa to xd, without blocking or trapping (R262). -/
  | feTst (d a b : BitVec 5) (p q : BitVec 1)
  /-- Waits for xa to fill, or traps with EMPTYREG when xa is empty and marked with ! (R262). -/
  | feWait (d a b : BitVec 5) (p q : BitVec 1)
  /-- Reads xa, empties it unless it is x0, and writes the value to xd (R262). -/
  | feTake (d a b : BitVec 5) (p q : BitVec 1)
  /-- Waits until some register selected by the mask in xa is full, then writes the mask of the full selected registers to xd (R262). -/
  | feAny (d a b : BitVec 5) (p q : BitVec 1)
  /-- Traps with KIND 1 and CODE n, with tepc set to its own address (R270). -/
  | trap (d a b : BitVec 5) (p q : BitVec 1)
  /-- Returns from a trap: restores PC, MODE and IE from tepc and tstat and clears TA (R272). -/
  | tret (d a b : BitVec 5) (p q : BitVec 1)
  /-- Waits until evpend and evmask have a common set bit (R268). -/
  | wfe (d a b : BitVec 5) (p q : BitVec 1)
  /-- Traps with KIND 0 and CODE BREAK (R270). -/
  | brk (d a b : BitVec 5) (p q : BitVec 1)
  /-- Writes A plus the sign-extended immediate to xd (R255). -/
  | addi (d a : BitVec 5) (p : BitVec 1) (i : BitVec 15)
  /-- Writes A and the sign-extended immediate to xd (R255). -/
  | andi (d a : BitVec 5) (p : BitVec 1) (i : BitVec 15)
  /-- Writes A or the sign-extended immediate to xd (R255). -/
  | ori (d a : BitVec 5) (p : BitVec 1) (i : BitVec 15)
  /-- Writes A xor the sign-extended immediate to xd (R255). -/
  | xori (d a : BitVec 5) (p : BitVec 1) (i : BitVec 15)
  /-- Writes 1 to xd if A is below the immediate, signed (R255). -/
  | slti (d a : BitVec 5) (p : BitVec 1) (i : BitVec 15)
  /-- Writes 1 to xd if A is below the sign-extended immediate, unsigned (R255). -/
  | sltiu (d a : BitVec 5) (p : BitVec 1) (i : BitVec 15)
  /-- Shifts A left by an immediate amount (R256). -/
  | slli (d a : BitVec 5) (p : BitVec 1) (z s : BitVec 6)
  /-- Shifts A right logically by an immediate amount (R256). -/
  | srli (d a : BitVec 5) (p : BitVec 1) (z s : BitVec 6)
  /-- Shifts A right arithmetically by an immediate amount (R256). -/
  | srai (d a : BitVec 5) (p : BitVec 1) (z s : BitVec 6)
  /-- Shifts A[31:0] left by an immediate amount and sign-extends the result (R256). -/
  | slliw (d a : BitVec 5) (p : BitVec 1) (z s : BitVec 6)
  /-- Shifts A[31:0] right logically by an immediate amount and sign-extends the result (R256). -/
  | srliw (d a : BitVec 5) (p : BitVec 1) (z s : BitVec 6)
  /-- Shifts A[31:0] right arithmetically by an immediate amount and sign-extends the result (R256). -/
  | sraiw (d a : BitVec 5) (p : BitVec 1) (z s : BitVec 6)
  /-- Writes the sign-extended 21-bit immediate shifted left by 12 to xd (R257). -/
  | lui (d : BitVec 5) (i : BitVec 21)
  /-- Writes PC plus four times the sign-extended immediate, modulo 2^16, to xd (R257). -/
  | pcadd (d : BitVec 5) (i : BitVec 21)
  /-- Loads a sign-extended byte from data SRAM (R258). -/
  | lb (d a : BitVec 5) (p : BitVec 1) (i : BitVec 15)
  /-- Loads a sign-extended halfword from data SRAM (R258). -/
  | lh (d a : BitVec 5) (p : BitVec 1) (i : BitVec 15)
  /-- Loads a sign-extended word from data SRAM (R258). -/
  | lw (d a : BitVec 5) (p : BitVec 1) (i : BitVec 15)
  /-- Loads a doubleword from data SRAM (R258). -/
  | ld (d a : BitVec 5) (p : BitVec 1) (i : BitVec 15)
  /-- Loads a zero-extended byte from data SRAM (R258). -/
  | lbu (d a : BitVec 5) (p : BitVec 1) (i : BitVec 15)
  /-- Loads a zero-extended halfword from data SRAM (R258). -/
  | lhu (d a : BitVec 5) (p : BitVec 1) (i : BitVec 15)
  /-- Loads a zero-extended word from data SRAM (R258). -/
  | lwu (d a : BitVec 5) (p : BitVec 1) (i : BitVec 15)
  /-- Stores the low byte of xd to data SRAM (R258). -/
  | sb (d a : BitVec 5) (p q : BitVec 1) (i : BitVec 14)
  /-- Stores the low halfword of xd to data SRAM (R258). -/
  | sh (d a : BitVec 5) (p q : BitVec 1) (i : BitVec 14)
  /-- Stores the low word of xd to data SRAM (R258). -/
  | sw (d a : BitVec 5) (p q : BitVec 1) (i : BitVec 14)
  /-- Stores the doubleword xd to data SRAM (R258). -/
  | sd (d a : BitVec 5) (p q : BitVec 1) (i : BitVec 14)
  /-- Branches when A equals B (R259). -/
  | beq (a b : BitVec 5) (p q : BitVec 1) (o : BitVec 14)
  /-- Branches when A differs from B (R259). -/
  | bne (a b : BitVec 5) (p q : BitVec 1) (o : BitVec 14)
  /-- Branches when A < B signed (R259). -/
  | blt (a b : BitVec 5) (p q : BitVec 1) (o : BitVec 14)
  /-- Branches when A >= B signed (R259). -/
  | bge (a b : BitVec 5) (p q : BitVec 1) (o : BitVec 14)
  /-- Branches when A < B unsigned (R259). -/
  | bltu (a b : BitVec 5) (p q : BitVec 1) (o : BitVec 14)
  /-- Branches when A >= B unsigned (R259). -/
  | bgeu (a b : BitVec 5) (p q : BitVec 1) (o : BitVec 14)
  /-- Jumps by a signed word offset, modulo 2^16 (R260). -/
  | j (d : BitVec 5) (o : BitVec 21)
  /-- Writes the return address to xd and jumps by a signed word offset (R260). -/
  | jal (d : BitVec 5) (o : BitVec 21)
  /-- Writes the return address to xd and jumps to A plus the immediate, trapping with MISALIGN on an unaligned target (R260). -/
  | jalr (d a : BitVec 5) (p : BitVec 1) (i : BitVec 15)
  /-- Reads a CSR into xd and writes A to it (R263). -/
  | csrrw (d a : BitVec 5) (p : BitVec 1) (c : BitVec 12)
  /-- Reads a CSR into xd and sets the bits of A in it (R263). -/
  | csrrs (d a : BitVec 5) (p : BitVec 1) (c : BitVec 12)
  /-- Reads a CSR into xd and clears the bits of A in it, the only instruction that clears evpend bits (R263). -/
  | csrrc (d a : BitVec 5) (p : BitVec 1) (c : BitVec 12)
  /-- An instruction word with a reserved major, fn, engine or cmd traps with ILLOP and has no effect (R212). -/
  | illegalInstruction (w : BitVec 32)
  /-- Each region's injection bucket refills every 16 device ticks (R482). -/
  | bucketRefill (rid : Nat)
  /-- At the lease end time the region's elements switch back to the launch spine (R484). -/
  | leaseExpiry (rid : Nat)
  /-- At T - H the sequencer checks the NEW plane and closes it to frame writes (R404). -/
  | swapCheck (rid : Nat)
  /-- At T the swap binds NEW as successor and ends OLD's edge streams, or refuses (R404). -/
  | swapTick (rid : Nat)
  /-- Device time reaching a record's NOTBEFORE lets the launch start (R388). -/
  | notbeforeReached (part idx : Nat)
  /-- Acceptance counters clear at each tile cycle with t mod 32 = 0 (R133). -/
  | quotaWindowClear (key : Nat)
  /-- Appends the descriptor value as a narrow token with level L to the log of source port vinP (R284). -/
  | inject (a : BitVec 5) (p : BitVec 1) (l : BitVec 3) (n : BitVec 4)
  /-- Appends the end mark of the bound context to the port log of vinP and unbinds the port (R285). -/
  | vend (a : BitVec 5) (p : BitVec 1) (n : BitVec 4)
  /-- Pops the next data token of sink port voutP into the reply register, or discards it (R286). -/
  | rdout (r a : BitVec 5) (p : BitVec 1) (n : BitVec 4)
  /-- Binds or unbinds accumulator accJ to a sink port and resets it to the identity of its operation (R287). -/
  | accrst (a : BitVec 5) (p : BitVec 1) (j : BitVec 3)
  /-- Writes the value of accumulator accJ to the reply register (R287). -/
  | rdacc (r a : BitVec 5) (p : BitVec 1) (j : BitVec 3)
  /-- Binds source port vinP with a context, direction, channel tag and edge settings (R283). -/
  | vbind (a : BitVec 5) (p : BitVec 1) (n : BitVec 4)
  /-- Asks the round controller for an early edge of a context (R295). -/
  | rmark (a : BitVec 5) (p : BitVec 1)
  /-- Owes a reply that fills when round N of a context commits, or at once or with all ones as the rule gives (R296). -/
  | wcommit (r a : BitVec 5) (p : BitVec 1)
  /-- Waits until every earlier command has completed for plane-scope memories (R294). -/
  | fencePl (a : BitVec 5) (p : BitVec 1)
  /-- Waits until every earlier command has completed for region-scope memories (R294). -/
  | fenceRg (a : BitVec 5) (p : BitVec 1)
  /-- Waits until every earlier command has completed for partition-scope memories (R294). -/
  | fencePt (a : BitVec 5) (p : BitVec 1)
  /-- Waits until every earlier command has completed for system-scope memories (R294). -/
  | fenceSy (a : BitVec 5) (p : BitVec 1)
  /-- Waits until every earlier copy into device memory has completed (R293). -/
  | drainDm (a : BitVec 5) (p : BitVec 1)
  /-- Waits until every earlier copy into scratchpad has completed (R293). -/
  | drainSp (a : BitVec 5) (p : BitVec 1)
  /-- Waits until every earlier copy into host memory has completed (R293). -/
  | drainHm (a : BitVec 5) (p : BitVec 1)
  /-- Waits until earlier copies into this core's SRAM, invalidations and configuration-path writes have completed (R293). -/
  | drainCf (a : BitVec 5) (p : BitVec 1)
  /-- Writes a constant register of a compute-tile plane over the configuration network, at once or pending the next round entry (R303). -/
  | kwr (a : BitVec 5) (p : BitVec 1)
  /-- Starts a two-level bulk copy on an AG node's command stream (R289). -/
  | copy (r a : BitVec 5) (p : BitVec 1) (n : BitVec 4)
  /-- Replaces the configuration frames of one AG stream, at once or at the next round entry (R291). -/
  | sbind (r a : BitVec 5) (p : BitVec 1) (n : BitVec 4)
  /-- Runs FLRES for a context in an AG node's firn tile (R292). -/
  | aflush (r a : BitVec 5) (p : BitVec 1) (n : BitVec 4)
  /-- Atomically adds an operand to a scratchpad field of a memory tile and replies with the old value (R298). -/
  | amoAddCmd (r a : BitVec 5) (p : BitVec 1) (n : BitVec 4)
  /-- Atomic signed minimum on a scratchpad field, replying with the old value (R298). -/
  | amoMinCmd (r a : BitVec 5) (p : BitVec 1) (n : BitVec 4)
  /-- Atomic signed maximum on a scratchpad field, replying with the old value (R298). -/
  | amoMaxCmd (r a : BitVec 5) (p : BitVec 1) (n : BitVec 4)
  /-- Atomic and on a scratchpad field, replying with the old value (R298). -/
  | amoAndCmd (r a : BitVec 5) (p : BitVec 1) (n : BitVec 4)
  /-- Atomic or on a scratchpad field, replying with the old value (R298). -/
  | amoOrCmd (r a : BitVec 5) (p : BitVec 1) (n : BitVec 4)
  /-- Atomic xor on a scratchpad field, replying with the old value (R298). -/
  | amoXorCmd (r a : BitVec 5) (p : BitVec 1) (n : BitVec 4)
  /-- Atomic exchange on a scratchpad field, replying with the old value (R298). -/
  | amoXchgCmd (r a : BitVec 5) (p : BitVec 1) (n : BitVec 4)
  /-- Atomic compare-and-swap on a scratchpad field, which writes even when it fails (R298). -/
  | amoCasCmd (r a : BitVec 5) (p : BitVec 1) (n : BitVec 4)
  /-- Asks the sequencer to swap the region from context OLD to NEW at a device tick, checking at arrival (R404). -/
  | swap (r a : BitVec 5) (p : BitVec 1)
  /-- Revokes the drift context in a plane of the issuing core's region (R300). -/
  | revoke (r a : BitVec 5) (p : BitVec 1)
  /-- Relends a revoked drift context of the region (R300). -/
  | relend (r a : BitVec 5) (p : BitVec 1)
  /-- Asks the hub for a thaw lease on spine S7 for the region, replying with its end time or 0 (R484). -/
  | lease (r a : BitVec 5) (p : BitVec 1)
  /-- Ends a held thaw lease at once (R301). -/
  | leaseEnd (a : BitVec 5) (p : BitVec 1)
  /-- Submits a launch record as a child launch into the function's child queue (R302). -/
  | launch (r a : BitVec 5) (p : BitVec 1)
  /-- Invalidates cached translations covering one virtual address of a function (R65). -/
  | xinvVa (a : BitVec 5) (p : BitVec 1)
  /-- Invalidates every cached translation of a function (R65). -/
  | xinvFn (a : BitVec 5) (p : BitVec 1)
  /-- Invalidates every cached translation of the partition (R65). -/
  | xinvPart (a : BitVec 5) (p : BitVec 1)
  /-- Takes an event trap between instructions or in place of a wait when IE is set, TA is clear and an enabled event is pending (R269). -/
  | eventTrap (core : Nat)
  /-- Sets the TIMER event when device time reaches tcmp (R267). -/
  | timerEvent (core : Nat)
  /-- A reply or rdout token lands in an owed register, setting F, clearing O and setting FILL (R248). -/
  | registerFill (idx : Nat)
  /-- A narrow token reaching the control core enters a sink port, is combined into a bound accumulator, or is popped as a mark or discarded as STRAY (R286). -/
  | sinkArrival (core sel : Nat)
  /-- A source port emits its next logged token, and an edge port its round mark, as permits allow (R284). -/
  | vinPortEmit (core port : Nat)
  /-- Float lane add (R318). -/
  | vaddF (w : Slot)
  /-- Float lane subtract (R318). -/
  | vsubF (w : Slot)
  /-- Float lane multiply (R318). -/
  | vmulF (w : Slot)
  /-- Float fused multiply-add with one rounding (R318). -/
  | vfma (w : Slot)
  /-- Float fused multiply-subtract with one rounding (R318). -/
  | vfms (w : Slot)
  /-- Float z minus x times y with one rounding (R318). -/
  | vfnma (w : Slot)
  /-- Float lane minimum (R318). -/
  | vminF (w : Slot)
  /-- Float lane maximum (R318). -/
  | vmaxF (w : Slot)
  /-- Float lane absolute value (R318). -/
  | vabsF (w : Slot)
  /-- Float lane negation (R318). -/
  | vnegF (w : Slot)
  /-- Rounds float lanes to integral values under rnd (R318). -/
  | vrnd (w : Slot)
  /-- Integer lane add, wrapped or saturated (R319). -/
  | vaddI (w : Slot)
  /-- Integer lane subtract (R319). -/
  | vsubI (w : Slot)
  /-- Integer lane multiply (R319). -/
  | vmulI (w : Slot)
  /-- Integer lane multiply-accumulate (R319). -/
  | vmac (w : Slot)
  /-- Integer lane minimum (R319). -/
  | vminI (w : Slot)
  /-- Integer lane maximum (R319). -/
  | vmaxI (w : Slot)
  /-- Integer lane absolute value (R319). -/
  | vabsI (w : Slot)
  /-- Integer lane negation (R319). -/
  | vnegI (w : Slot)
  /-- Integer lane shift left (R319). -/
  | vshl (w : Slot)
  /-- Logical lane shift right (R319). -/
  | vshr (w : Slot)
  /-- Rounding arithmetic lane shift right (R319). -/
  | vsra (w : Slot)
  /-- Bitwise and (R319). -/
  | vand (w : Slot)
  /-- Bitwise or (R319). -/
  | vor (w : Slot)
  /-- Bitwise xor (R319). -/
  | vxor (w : Slot)
  /-- Bitwise and-not (R319). -/
  | vandn (w : Slot)
  /-- Complex INT16 add (R320). -/
  | vcadd (w : Slot)
  /-- Complex INT16 subtract (R320). -/
  | vcsub (w : Slot)
  /-- Complex INT16 multiply with a rounding shift (R320). -/
  | vcmul (w : Slot)
  /-- Complex INT16 multiply-accumulate with one rounding shift (R320). -/
  | vcmac (w : Slot)
  /-- Complex multiply by the conjugate with a rounding shift (R320). -/
  | vcmulc (w : Slot)
  /-- Complex multiply-accumulate by the conjugate (R320). -/
  | vcmacc (w : Slot)
  /-- Complex conjugate (R320). -/
  | vconj (w : Slot)
  /-- Complex rounding shift right (R320). -/
  | vcshr (w : Slot)
  /-- Multiplies complex lanes by j^k exactly (R320). -/
  | vcrot (w : Slot)
  /-- Lane compare equal (R321). -/
  | vcmpeq (w : Slot)
  /-- Lane compare not equal (R321). -/
  | vcmpne (w : Slot)
  /-- Lane compare less than (R321). -/
  | vcmplt (w : Slot)
  /-- Lane compare less or equal (R321). -/
  | vcmple (w : Slot)
  /-- Lane compare greater than (R321). -/
  | vcmpgt (w : Slot)
  /-- Lane compare greater or equal (R321). -/
  | vcmpge (w : Slot)
  /-- Selects lanes of a or b by lanes of c (R321). -/
  | vsel (w : Slot)
  /-- Clamps lanes between two bounds (R321). -/
  | vclamp (w : Slot)
  /-- Converts lanes between formats with placement by part (R322). -/
  | vcvt (w : Slot)
  /-- Multiplies float lanes by the SCALE of the source queue's header latch (R323). -/
  | vsclL (w : Slot)
  /-- Multiplies float lanes by an immediate E8M0 scale (R323). -/
  | vsclI (w : Slot)
  /-- Forwards a token, preceded by a burst header from the source latch when it differs from OHDR (R324). -/
  | vhdrF (w : Slot)
  /-- Forwards a token, preceded by a burst header of a set format and scale when it differs from OHDR (R324). -/
  | vhdrS (w : Slot)
  /-- Correctly rounded FP32 reciprocal (R325). -/
  | vrcp (w : Slot)
  /-- Correctly rounded FP32 reciprocal square root (R325). -/
  | vrsqrt (w : Slot)
  /-- Correctly rounded FP32 power of two (R325). -/
  | vexp2 (w : Slot)
  /-- Correctly rounded FP32 base-2 logarithm (R325). -/
  | vlog2 (w : Slot)
  /-- Tree sum of lanes into lane 0 (R326). -/
  | vrsum (w : Slot)
  /-- Tree maximum of lanes into lane 0 (R326). -/
  | vrmax (w : Slot)
  /-- Tree minimum of lanes into lane 0 (R326). -/
  | vrmin (w : Slot)
  /-- Tree dot product of two vectors into lane 0 (R326). -/
  | vrdot (w : Slot)
  /-- Broadcasts one lane to every lane (R327). -/
  | vrep (w : Slot)
  /-- Permutes lanes of a by indices in b (R327). -/
  | vperm (w : Slot)
  /-- Permutes lanes of a and b by indices in c (R327). -/
  | vperm2 (w : Slot)
  /-- Rotates lanes by an immediate (R327). -/
  | vrot (w : Slot)
  /-- Interleaves the low halves of a and b (R327). -/
  | vzipl (w : Slot)
  /-- Interleaves the high halves of a and b (R327). -/
  | vziph (w : Slot)
  /-- Takes the even lanes of a and b (R327). -/
  | vuzpe (w : Slot)
  /-- Takes the odd lanes of a and b (R327). -/
  | vuzpo (w : Slot)
  /-- Inserts lane 0 of b into lane j of a (R327). -/
  | vins (w : Slot)
  /-- Extracts lane j into lane 0 (R327). -/
  | vext (w : Slot)
  /-- Bit-reverses lane order within blocks of 2^m lanes (R327). -/
  | vbitrev (w : Slot)
  /-- Radix-2 butterflies between lanes h apart (R328). -/
  | vbfly (w : Slot)
  /-- Complex radix-2 butterflies with twiddle factors (R329). -/
  | vbflyt (w : Slot)
  /-- Fills part of an operand-buffer half from local store or from a row source (R341). -/
  | mload (w : Slot)
  /-- Clears an accumulator and sets its type (R347). -/
  | mzero (w : Slot)
  /-- Sets the band scales of an accumulator (R347). -/
  | mband (w : Slot)
  /-- Drains two accumulator rows, applying band scales, to a register, queue or local store (R348). -/
  | mdrain (w : Slot)
  /-- Emits an accumulator's status word, optionally clearing flags (R347). -/
  | mstat (w : Slot)
  /-- Rank-1 BF16 matrix update into an accumulator (R344). -/
  | mmaBf16 (w : Slot)
  /-- Rank-1 FP16 matrix update into an accumulator (R344). -/
  | mmaFp16 (w : Slot)
  /-- Rank-2 FP8 matrix update into an accumulator (R344). -/
  | mmaFp8 (w : Slot)
  /-- Rank-4 FP4 matrix update with band capture (R344). -/
  | mmaFp4 (w : Slot)
  /-- Rank-2 INT8 matrix update into an INT32 accumulator (R344). -/
  | mmaI8 (w : Slot)
  /-- Forwards a token (R360). -/
  | pass (w : Slot)
  /-- Pops a token and emits nothing (R360). -/
  | drop (w : Slot)
  /-- Shifts a stream through a line of n tokens (R361). -/
  | delay (w : Slot)
  /-- Forwards a token to one of two destinations by a control bit (R360). -/
  | steer (w : Slot)
  /-- Forwards a token only when its masked CTAG matches (R360). -/
  | filt (w : Slot)
  /-- Forwards a token to several output queues in one firing (R360). -/
  | repl (w : Slot)
  /-- Forwards the input head whose sequence number is next (R362). -/
  | mergeO (w : Slot)
  /-- Forwards one of two inputs chosen by a control token (R362). -/
  | mergeC (w : Slot)
  /-- Forwards either input, alternating when both are ready (R361). -/
  | mergeU (w : Slot)
  /-- Sorted-key join emitting unmatched srcA tokens (R362). -/
  | joinLt (w : Slot)
  /-- Sorted-key join emitting matched pairs (R362). -/
  | joinEq (w : Slot)
  /-- Sorted-key join emitting unmatched srcB tokens (R362). -/
  | joinGt (w : Slot)
  /-- One level of a counter chain emitting chain and index tokens (R363). -/
  | cnt (w : Slot)
  /-- Forwards a data token with LVL taken from a chain token (R364). -/
  | lastm (w : Slot)
  /-- Forwards a token with a computed CTAG (R366). -/
  | tagset (w : Slot)
  /-- Checks a token's CTAG against an expected tag, raising TAGCHK on mismatch (R366). -/
  | tagchk (w : Slot)
  /-- Compares local and twin tokens, forwarding on match and replaying or raising TWINMIS on mismatch (R468). -/
  | cmpx (w : Slot)
  /-- Emits and zeroes a register when a token ends an iteration at the given level (R365). -/
  | accRst (w : Slot)
  /-- Loads 64 bytes from the tile's local store (R369). -/
  | lsld (w : Slot)
  /-- Stores 64 or 8 bytes into the tile's local store, journalled (R369). -/
  | lsst (w : Slot)
  /-- Memory-tile slot that reads a line or 8 bytes of scratchpad and replies (R373). -/
  | ldSlot (w : Slot)
  /-- Memory-tile slot that writes scratchpad and optionally acknowledges (R373). -/
  | stSlot (w : Slot)
  /-- Reads 16 elements at lane addresses into one reply (R373). -/
  | gather (w : Slot)
  /-- Writes 16 elements to lane addresses (R373). -/
  | scatter (w : Slot)
  /-- Slot atomic add on scratchpad (R374). -/
  | amoAddSlot (w : Slot)
  /-- Slot atomic signed minimum on scratchpad (R374). -/
  | amoMinSlot (w : Slot)
  /-- Slot atomic signed maximum on scratchpad (R374). -/
  | amoMaxSlot (w : Slot)
  /-- Slot atomic and on scratchpad (R374). -/
  | amoAndSlot (w : Slot)
  /-- Slot atomic or on scratchpad (R374). -/
  | amoOrSlot (w : Slot)
  /-- Slot atomic xor on scratchpad (R374). -/
  | amoXorSlot (w : Slot)
  /-- Slot atomic exchange on scratchpad (R374). -/
  | amoXchgSlot (w : Slot)
  /-- Slot atomic compare-and-swap on scratchpad (R374). -/
  | amoCasSlot (w : Slot)
  /-- Opens an ordered section on a queue and emits a grant with the entry record (R375). -/
  | osecB (w : Slot)
  /-- Closes an ordered section, whose result is emitted at retirement (R375). -/
  | osecE (w : Slot)
  /-- Memory-tile fence that fires once every earlier request of its plane has performed (R376). -/
  | fenceM (w : Slot)
  /-- Receives a home accumulate on a sender port and accepts, refuses or stalls it (R378). -/
  | hrecv (w : Slot)
  /-- Sends a home accumulate, merging any matching firn entry (R377). -/
  | hacc (w : Slot)
  /-- Flushes every firn entry of the context with flush priority (R140). -/
  | flres (w : Slot)
  /-- The oldest section with its osec.e performs its buffered writes and emits its result (R169). -/
  | sectionRetire (key plane dom : Nat)
  /-- An ordered request whose PRED matches LAST(d) passes to its bank and advances LAST(d) (R165). -/
  | domainSequence (key plane dom : Nat)
  /-- A bank takes the next request of its request queue into its pipeline, where the access performs (R103). -/
  | bankAccept (key bank : Nat)
  /-- A refused accumulate returns to its sender's firn tile (R138). -/
  | bounceArrival (key sel : Nat)
  /-- A memory tile sends coalesced acceptance credits when the count reaches 8, after 8 cycles, or when it has no place (R135). -/
  | creditSend (key idx : Nat)
  /-- An acceptance credit subtracts its count from OUT (R138). -/
  | creditArrival (idx : Nat)
  /-- A token entering an input queue has its CHECK and KIND checked (R187). -/
  | tokenArrival (key sel : Nat)
  /-- A switch routes a token by the route table of its context (R182). -/
  | switchRoute (key : Nat) (wide : Bool) (dir src : Nat)
  /-- A receiver returns a slot permit to the sender when a buffer slot empties (R185). -/
  | permitReturn (key sel : Nat)
  /-- A burst header at a queue head loads the header latch and is popped (R94). -/
  | burstHeaderArrival (key sel : Nat)
  /-- An AG node issues one access of a ready stream, translating, holding or sending it (R116). -/
  | streamAccess (key : Nat)
  /-- A read line returns to a stream, which emits it with any burst header and keeps it in the replay side (R96). -/
  | streamReadReturn (key idx : Nat)
  /-- A walker walks the page tables for a refill request and returns a leaf or a fault (R60). -/
  | walk (die idx : Nat)
  /-- A walk result fills a stream's translation entry, or raises XLATE or PROT (R54). -/
  | refillReturn (die idx : Nat)
  /-- An invalidation completes, clearing BUSY and restarting walks of streams waiting on XLATE (R66). -/
  | invalidationComplete (part idx : Nat)
  /-- An element near a capacity bound asks the round controller for an early round edge (R121). -/
  | earlyEdgeRequest (key plane : Nat)
  /-- An element enters the next round when marks stand at every non-back-edge input, flushing its firn tile and forwarding the mark (R195). -/
  | roundEntry (key plane : Nat)
  /-- An element handles an end mark, fires end slots, forwards it and makes the plane retiring (R195). -/
  | endMark (key plane : Nat)
  /-- The round controller signals non-edge sources and input-less elements to emit or enter the next round (R198). -/
  | nonedgeSignal (rid plane : Nat)
  /-- A round commits when every element has passed the next mark, firn tiles have flushed and no fault is pending (R111). -/
  | roundCommit (rid plane : Nat)
  /-- A fault discards the uncommitted rounds of the context, gates the region and posts a report (R411). -/
  | roundDiscard (rid : Nat)
  /-- The gate signal reaches an element, which stops issuing and has its clock gated (R411). -/
  | gateSignalArrival (key : Nat)
  /-- After a replay cause the region restarts the same round from the replay sides and port logs (R416). -/
  | replay (rid : Nat)
  /-- An element cancels and reissues the operations of its open staging window (R413). -/
  | timingError (key : Nat)
  /-- A picked slot with BRK stops the region with BREAK instead of issuing (R425). -/
  | breakpointStop (key plane slot : Nat)
  /-- An idle count reaching 4096 raises QUIESCE (R423). -/
  | quiesceDetect (rid plane : Nat)
  /-- After the last round commits, the region is swept for tokens of the retiring plane (R424). -/
  | retirementSweep (rid plane : Nat)
  /-- The launch fetcher reads and checks the record at a queue's head, accepting or refusing it (R392). -/
  | launchFetch (part fn q : Nat)
  /-- The partition scheduler tries candidates in order and places the first it can (R396). -/
  | schedulerDecision (part : Nat)
  /-- A batch candidate waiting 1 ms ranks as interactive (R396). -/
  | batchPromotion (part idx : Nat)
  /-- The loader applies one frame of a graph image to the loading planes (R217). -/
  | planeLoadFrame (idx : Nat)
  /-- The start token binds plane n in a core and starts its control core when CCSTART is set (R398). -/
  | startTokenArrival (core : Nat)
  /-- REVOKE reaches an element, which stops drift issue and parks the drift plane in a reserve bank (R407). -/
  | revokeArrival (key plane : Nat)
  /-- RELEND switches the reserve banks back and drift issue resumes (R408). -/
  | relendArrival (key plane : Nat)
  /-- At an owner round edge the hub withdraws a lend set, which returns one edge later (R409). -/
  | lendWithdraw (rid : Nat)
  /-- A distributor sends a numbered record to the replica with the least estimate (R402). -/
  | distributorSend (key plane : Nat)
  /-- Every 64 cycles a replica samples its queue and reports the stage priority (R403). -/
  | stageSample (key plane : Nat)
  /-- The region is gated, its state written into save slots, and its cores freed (R429). -/
  | preemption (rid : Nat)
  /-- A saved launch is written back into a free region and its clocks restarted (R436). -/
  | restoreSavedLaunch (part idx : Nat)
  /-- The hub finishes scrubbing reassigned cores and channel groups, and the new EN takes effect (R42). -/
  | scrubComplete (part : Nat)
  /-- The crevasse audit pauses a link group and checks permit counts, raising PERMIT on mismatch (R474). -/
  | auditVisit (core row : Nat)
  /-- Patrol reads a line, correcting, tabling or poisoning as it finds (R473). -/
  | patrolRead (kind addr found : Nat)
  /-- Every 1 us a spine's CUR moves one step toward MULT (R480). -/
  | spineStep (n : Nat)
  /-- A supply droop stretches a spine's cycles for at most 1 us (R481). -/
  | droopStretch (core : Nat)
  /-- The hub sends LEASEEND notice, shortening a lease to 20 us (R484). -/
  | leaseRevoke
  /-- Mailbox command that writes PART_CFGn, resetting affected partitions first with FORCE 1 (R40). -/
  | partset (pf : Nat)
  /-- Mailbox command returning part, firmware and boot information (R497). -/
  | getinfo (pf : Nat)
  /-- Mailbox command returning the failing-unit list (R497). -/
  | getfail (pf : Nat)
  /-- Mailbox command that writes a spine's target multiplier (R497). -/
  | spineset (pf : Nat)
  /-- Mailbox command that reads, verifies and stores a firmware image (R500). -/
  | fwstage (pf : Nat)
  /-- Mailbox command raising a fused SVN floor to the running image's SVN (R497). -/
  | svnlock (pf : Nat)
  /-- Mailbox command that sets a partition's owner-key slot (R497). -/
  | ownerkey (pf : Nat)
  /-- Mailbox command returning a signed attestation report (R502). -/
  | attest (pf : Nat)
  /-- Mailbox command that restarts the device from its boot ROM (R504). -/
  | devreset (pf : Nat)
  /-- A GO with an unassigned OP ends with RESULT 1 (R496). -/
  | mailboxUnknownOp (pf : Nat)
  /-- Writing REQ puts the partition into reset through the ordered reset steps (R494). -/
  | prstReq (part : Nat)
  /-- Writing REL releases the partition from reset and boots its firmware (R495). -/
  | prstRel (part : Nat)
  /-- A management processor watchdog expires and puts the partition into reset (R494). -/
  | watchdogExpiry (part : Nat)
  /-- Partition firmware verification ends, setting STATE 2 or 3 (R495). -/
  | partitionBootDone (part : Nat)
  /-- Power-up runs boot ROM, hub image check and self-test, ending ready or safe (R504). -/
  | powerUp
  /-- A power or clock fault puts the device in the safe state (R505). -/
  | powerClockFault
  /-- XINV_CMD with OP 0 starts an invalidation by address (R69). -/
  | xinvCmdVa (part : Nat) (v : BitVec 64)
  /-- XINV_CMD with OP 1 starts an invalidation of a function (R69). -/
  | xinvCmdFn (part : Nat) (v : BitVec 64)
  /-- XINV_CMD with OP 2 starts an invalidation of the partition (R69). -/
  | xinvCmdPart (part : Nat) (v : BitVec 64)
  /-- XINV_CMD with OP 3 is refused and sets ERR (R69). -/
  | xinvCmdReserved (part : Nat) (v : BitVec 64)
  /-- Writing TAIL of a launch-queue doorbell submits records and acts as a system-scope acquire (R385). -/
  | lqdbWrite (part fn q : Nat) (tail : BitVec 32)
  /-- Writing 1 to LQERR.V clears it and advances HEAD past the refused record (R386). -/
  | lqerrClear (part fn q : Nat)
  /-- Writing an event doorbell adds the value to the event counter (R387). -/
  | evdbWrite (part fn e : Nat) (v : BitVec 64)
  /-- Restarts a stopped region or relends a faulted drift context (R428). -/
  | rcmdResume (part page : Nat) (v : BitVec 64)
  /-- Discards every uncommitted round, flushes tokens and frees the region (R428). -/
  | rcmdAbort (part page : Nat) (v : BitVec 64)
  /-- Discards stray tokens of a retiring plane, retiring its context (R445). -/
  | rcmdPurge (part page : Nat) (v : BitVec 64)
  /-- Saves a launch as a pre-emption and returns it to its queue (R428). -/
  | rcmdSave (part page : Nat) (v : BitVec 64)
  /-- RCMD with OP 0 or 5 to 15 sets RSTAT CODE 6 (R427). -/
  | rcmdRefusedOp (part page : Nat) (v : BitVec 64)
  /-- Starts a preload of the image at PLIMG into a plane of a placed launch's region (R440). -/
  | plcmdWrite (part : Nat) (v : BitVec 64)
  /-- A configuration-path write to configuration space, refused while busy or running (R38). -/
  | configSpaceWrite (req : Requester) (core addr : Nat) (v : BitVec 256)
  /-- A CSR write through the core window, accepted only while the core is halted or stopped (R273). -/
  | coreWindowCsrWrite (req : Requester) (core csr : Nat) (v : BitVec 64)
  /-- Writing STATE 0 while halted resumes the core from tepc (R273). -/
  | ccstatResume (req : Requester) (core : Nat)
  /-- Loads the device-time counter at the next period when all partitions are in reset (R506). -/
  | dtsetWrite (v : BitVec 64)
  /-- Replaces the remaining slew of device time (R506). -/
  | dtadjWrite (v : BitVec 64)
  /-- Sets the device-time trim from the next period (R506). -/
  | dtfreqWrite (v : BitVec 64)
  /-- A rising edge of PPSIN captures the counter and advances the edge count (R506). -/
  | ppsinEdge
  /-- A write to an MMIO register that has no row of its own (R25). -/
  | registerWrite (req : Requester) (off size : Nat) (v : BitVec 64)
  /-- A host CXL.mem read of partition memory, poisoned on owner mismatch (R23). -/
  | cxlMemRead (part off : Nat)
  /-- A host CXL.mem write of partition memory, dropped on owner mismatch or partial poisoned write (R23). -/
  | cxlMemWrite (part off : Nat) (mask : BitVec 64) (v : BitVec 512)
  /-- An inbound peer access treated as a host access of the covering partition (R508). -/
  | peerInboundAccess (part : Nat) (write : Bool) (off : Nat) (mask : BitVec 64) (v : BitVec 512)
  /-- A device access to a host-cached line waits for a back-invalidate snoop response (R489). -/
  | backInvalidate (addr : Nat)
  /-- SPDM GET_VERSION over DOE (R503). -/
  | getVersion (pf : Nat)
  /-- SPDM GET_CAPABILITIES over DOE (R503). -/
  | getCapabilities (pf : Nat)
  /-- SPDM NEGOTIATE_ALGORITHMS over DOE (R503). -/
  | negotiateAlgorithms (pf algs : Nat)
  /-- SPDM GET_DIGESTS over DOE (R503). -/
  | getDigests (pf : Nat)
  /-- SPDM GET_CERTIFICATE over DOE (R503). -/
  | getCertificate (pf off len : Nat)
  /-- SPDM CHALLENGE over DOE (R503). -/
  | challenge (pf : Nat) (nonce : BitVec 256)
  /-- SPDM GET_MEASUREMENTS returning MREG0 to MREG3 signed with the alias key (R503). -/
  | getMeasurements (pf index : Nat) (nonce : BitVec 256)
  /-- Each oscillator period advances the device-time counter by 1, or by 0 or 2 in a slew period, and applies a pending DTSET load (R506). -/
  | deviceTimePeriod
  /-- A read of PPSCAP fixes which capture a following PPSSEQ read reports (R506). -/
  | ppscapRead
  /-- A host write of VF Enable and NumVFs in a PF's SR-IOV capability enables virtual functions, or leaves VF Enable at 0 when NumVFs exceeds TotalVFs (R490). -/
  | vfEnableWrite (pf n : Nat) (en : Bool)
  /-- The host commits the HDM decoder of a PF, after which CXL.mem accesses it covers reach partition memory instead of returning poisoned all ones or being dropped (R491). -/
  | hdmDecoderCommit (pf : Nat)
  /-- Loss of supply ends all device state, including the safe state, until the next power-up (R505). -/
  | powerDown
  deriving DecidableEq, Repr, Inhabited

/-- The class of a unit that a self-test finds failing, in the order of its number from 1 (23 R504). -/
inductive UnitClass where
  | computeTile | memoryTile | agNode | controlCore | switch | hbmChannel | dieLink | hubBlock
  deriving DecidableEq, Repr, Inhabited

/-- A failing unit (23 R504): its class, its core, global channel or link number, its element number, bank or lane, and a detail of the test. -/
structure FailUnit where
  cls : UnitClass
  number : Nat
  elem : Nat
  bank : BitVec 8
  detail : BitVec 32
  deriving DecidableEq, Repr, Inhabited

/-- Issue class of a slot (08 R235). -/
inductive IssueClass where
  | vector | matrix | movement | memory | hrecv
  deriving DecidableEq, Repr

/-- A word that an error comes into (21 R470-R472, R476; log 29): a word of a scratchpad bank or a local store, of a plane's register by selector, of
an input queue, a link, the replay side, the firn tile, a bank's journal (bank 6: the local store's), a control core's SRAM, a walker's cache, a
configuration or route frame, the hold side, an HBM line, or the hub's own SRAM. -/
inductive UpsetAt where
  | bank (key word : Nat)
  | lstore (key word : Nat)
  | reg (key plane sel word : Nat)
  | queue (key sel pos : Nat)
  | wire (key sel pos : Nat)
  | replay (key pos : Nat)
  | firn (key pos : Nat)
  | journal (key bank pos : Nat)
  | coreWord (core word : Nat)
  | walker (die pos : Nat)
  | frame (key plane n : Nat)
  | route (key plane : Nat)
  | hold (key pos : Nat)
  | line (pa : Nat)
  | hub
  deriving DecidableEq, Repr, Inhabited

/-- What may happen next (log 1): a control core executes at its PC, an element's arbiter issues one slot of a
class, one of the table's events or host actions, an element begins its next tile cycle (log 2), or an error comes into a word: found 1 a bit that
its access corrects, 2 two bits, 3 a data bit that only the check value over the data shows (log 29). -/
inductive Action where
  | core (n : Nat)
  | issue (key : Nat) (cls : IssueClass)
  | event (i : Instr)
  | tileCycle (key : Nat)
  | upset (at_ : UpsetAt) (found bit : Nat)
  deriving DecidableEq, Repr, Inhabited

end Sys2Proof
end

