-- ==== Sys2Proof/Machine/SlotCheck.lean ====
section
/-! DEFINITION. The load checks of a slot (08 R228-R236; 11 R307, R314, R318-R329; 12 R340-R348; 13 R355-R378) and the
reading of its selectors and masks. -/

namespace Sys2Proof.Machine

/-- The opcode (R235) and the slot of a fabric operation; none for any other instruction. -/
def slotParts (i : Instr) : Option (Nat × Slot) :=
  match i with
  | .vaddF w => some (0x000, w)
  | .vsubF w => some (0x001, w)
  | .vmulF w => some (0x002, w)
  | .vfma w => some (0x003, w)
  | .vfms w => some (0x004, w)
  | .vfnma w => some (0x005, w)
  | .vminF w => some (0x006, w)
  | .vmaxF w => some (0x007, w)
  | .vabsF w => some (0x008, w)
  | .vnegF w => some (0x009, w)
  | .vrnd w => some (0x00A, w)
  | .vaddI w => some (0x020, w)
  | .vsubI w => some (0x021, w)
  | .vmulI w => some (0x022, w)
  | .vmac w => some (0x023, w)
  | .vminI w => some (0x024, w)
  | .vmaxI w => some (0x025, w)
  | .vabsI w => some (0x026, w)
  | .vnegI w => some (0x027, w)
  | .vshl w => some (0x028, w)
  | .vshr w => some (0x029, w)
  | .vsra w => some (0x02A, w)
  | .vand w => some (0x02B, w)
  | .vor w => some (0x02C, w)
  | .vxor w => some (0x02D, w)
  | .vandn w => some (0x02E, w)
  | .vcadd w => some (0x040, w)
  | .vcsub w => some (0x041, w)
  | .vcmul w => some (0x042, w)
  | .vcmac w => some (0x043, w)
  | .vcmulc w => some (0x044, w)
  | .vcmacc w => some (0x045, w)
  | .vconj w => some (0x046, w)
  | .vcshr w => some (0x047, w)
  | .vcrot w => some (0x048, w)
  | .vcmpeq w => some (0x050, w)
  | .vcmpne w => some (0x051, w)
  | .vcmplt w => some (0x052, w)
  | .vcmple w => some (0x053, w)
  | .vcmpgt w => some (0x054, w)
  | .vcmpge w => some (0x055, w)
  | .vsel w => some (0x056, w)
  | .vclamp w => some (0x057, w)
  | .vcvt w => some (0x060, w)
  | .vsclL w => some (0x061, w)
  | .vsclI w => some (0x062, w)
  | .vhdrF w => some (0x063, w)
  | .vhdrS w => some (0x064, w)
  | .vrcp w => some (0x070, w)
  | .vrsqrt w => some (0x071, w)
  | .vexp2 w => some (0x072, w)
  | .vlog2 w => some (0x073, w)
  | .vrsum w => some (0x078, w)
  | .vrmax w => some (0x079, w)
  | .vrmin w => some (0x07A, w)
  | .vrdot w => some (0x07B, w)
  | .vrep w => some (0x080, w)
  | .vperm w => some (0x081, w)
  | .vperm2 w => some (0x082, w)
  | .vrot w => some (0x083, w)
  | .vzipl w => some (0x084, w)
  | .vziph w => some (0x085, w)
  | .vuzpe w => some (0x086, w)
  | .vuzpo w => some (0x087, w)
  | .vins w => some (0x088, w)
  | .vext w => some (0x089, w)
  | .vbitrev w => some (0x08A, w)
  | .vbfly w => some (0x08B, w)
  | .vbflyt w => some (0x08C, w)
  | .mload w => some (0x100, w)
  | .mzero w => some (0x101, w)
  | .mband w => some (0x102, w)
  | .mdrain w => some (0x103, w)
  | .mstat w => some (0x104, w)
  | .mmaBf16 w => some (0x108, w)
  | .mmaFp16 w => some (0x109, w)
  | .mmaFp8 w => some (0x10A, w)
  | .mmaFp4 w => some (0x10B, w)
  | .mmaI8 w => some (0x10C, w)
  | .pass w => some (0x200, w)
  | .drop w => some (0x201, w)
  | .delay w => some (0x202, w)
  | .steer w => some (0x203, w)
  | .filt w => some (0x204, w)
  | .repl w => some (0x205, w)
  | .mergeO w => some (0x206, w)
  | .mergeC w => some (0x207, w)
  | .mergeU w => some (0x208, w)
  | .joinLt w => some (0x209, w)
  | .joinEq w => some (0x20A, w)
  | .joinGt w => some (0x20B, w)
  | .cnt w => some (0x20C, w)
  | .lastm w => some (0x20D, w)
  | .tagset w => some (0x20E, w)
  | .tagchk w => some (0x20F, w)
  | .cmpx w => some (0x210, w)
  | .accRst w => some (0x211, w)
  | .lsld w => some (0x220, w)
  | .lsst w => some (0x221, w)
  | .ldSlot w => some (0x300, w)
  | .stSlot w => some (0x301, w)
  | .gather w => some (0x302, w)
  | .scatter w => some (0x303, w)
  | .amoAddSlot w => some (0x304, w)
  | .amoMinSlot w => some (0x305, w)
  | .amoMaxSlot w => some (0x306, w)
  | .amoAndSlot w => some (0x307, w)
  | .amoOrSlot w => some (0x308, w)
  | .amoXorSlot w => some (0x309, w)
  | .amoXchgSlot w => some (0x30A, w)
  | .amoCasSlot w => some (0x30B, w)
  | .osecB w => some (0x30C, w)
  | .osecE w => some (0x30D, w)
  | .fenceM w => some (0x30E, w)
  | .hrecv w => some (0x30F, w)
  | .hacc w => some (0x310, w)
  | .flres w => some (0x311, w)
  | _ => none

/-- What a slot's fields may hold, by opcode: formats, whether rnd, sat and PWE are used, the selector classes of dst, srcA,
srcB and srcC, and the bits of the modifiers and of imm that its family defines. -/
structure OpInfo where
  fmts : Nat
  rnd : Bool
  sat : Bool
  pwe : Bool
  dst : Nat
  a : Nat
  b : Nat
  c : Nat
  md : Nat
  imm : Nat
  deriving DecidableEq, Repr

/-- The class of a selector (R230), one bit each: v 1, k 2, a 4, wide in 8, wide out 16, narrow in 32, narrow out 64,
m 128, p 256, zero 512, lane 1024, wid 2048, round 4096, immediate 8192; 0 for a reserved selector. -/
def selKind (s : Nat) : Nat :=
  if s < 0x10 then 1 else if s < 0x18 then 2 else if s < 0x20 then 4 else if s < 0x30 then 8
  else if s < 0x40 then 16 else if s < 0x48 then 32 else if s < 0x50 then 64 else if s < 0x54 then 128
  else if s < 0x58 then 0 else if s < 0x5C then 256 else if s < 0x60 then 0 else if s = 0x60 then 512
  else if s = 0x61 then 1024 else if s = 0x62 then 2048 else if s = 0x63 then 4096
  else if s < 0x80 then 0 else if s < 0x100 then 8192 else 0

/-- The rows of 11 R318-R328, 12 R340-R348 and 13 R355-R378; none for a reserved opcode (R235). -/
def opInfo (op : Nat) : Option OpInfo :=
  match op with
  | 0x000 => some ⟨0x0E0, true, true, true, 0x0355, 0x3F2F, 0x3F2F, 0x0000, 0x000, 0x0000⟩
  | 0x001 => some ⟨0x0E0, true, true, true, 0x0355, 0x3F2F, 0x3F2F, 0x0000, 0x000, 0x0000⟩
  | 0x002 => some ⟨0x0E0, true, true, true, 0x0355, 0x3F2F, 0x3F2F, 0x0000, 0x000, 0x0000⟩
  | 0x003 => some ⟨0x0E0, true, true, true, 0x0355, 0x3F2F, 0x3F2F, 0x3F2F, 0x000, 0x0000⟩
  | 0x004 => some ⟨0x0E0, true, true, true, 0x0355, 0x3F2F, 0x3F2F, 0x3F2F, 0x000, 0x0000⟩
  | 0x005 => some ⟨0x0E0, true, true, true, 0x0355, 0x3F2F, 0x3F2F, 0x3F2F, 0x000, 0x0000⟩
  | 0x006 => some ⟨0x0E0, false, true, true, 0x0355, 0x3F2F, 0x3F2F, 0x0000, 0x000, 0x0000⟩
  | 0x007 => some ⟨0x0E0, false, true, true, 0x0355, 0x3F2F, 0x3F2F, 0x0000, 0x000, 0x0000⟩
  | 0x008 => some ⟨0x0E0, false, true, true, 0x0355, 0x3F2F, 0x0000, 0x0000, 0x000, 0x0000⟩
  | 0x009 => some ⟨0x0E0, false, true, true, 0x0355, 0x3F2F, 0x0000, 0x0000, 0x000, 0x0000⟩
  | 0x00A => some ⟨0x0E0, true, true, true, 0x0355, 0x3F2F, 0x0000, 0x0000, 0x000, 0x0000⟩
  | 0x020 => some ⟨0x80E, false, true, true, 0x0355, 0x3F2F, 0x3F2F, 0x0000, 0x000, 0x0000⟩
  | 0x021 => some ⟨0x80E, false, true, true, 0x0355, 0x3F2F, 0x3F2F, 0x0000, 0x000, 0x0000⟩
  | 0x022 => some ⟨0x80E, false, true, true, 0x0355, 0x3F2F, 0x3F2F, 0x0000, 0x000, 0x0000⟩
  | 0x023 => some ⟨0x80E, false, true, true, 0x0355, 0x3F2F, 0x3F2F, 0x3F2F, 0x000, 0x0000⟩
  | 0x024 => some ⟨0x80E, false, false, true, 0x0355, 0x3F2F, 0x3F2F, 0x0000, 0x000, 0x0000⟩
  | 0x025 => some ⟨0x80E, false, false, true, 0x0355, 0x3F2F, 0x3F2F, 0x0000, 0x000, 0x0000⟩
  | 0x026 => some ⟨0x80E, false, true, true, 0x0355, 0x3F2F, 0x0000, 0x0000, 0x000, 0x0000⟩
  | 0x027 => some ⟨0x80E, false, true, true, 0x0355, 0x3F2F, 0x0000, 0x0000, 0x000, 0x0000⟩
  | 0x028 => some ⟨0x80E, false, true, true, 0x0355, 0x3F2F, 0x3F2F, 0x0000, 0x000, 0x0000⟩
  | 0x029 => some ⟨0x80E, false, false, true, 0x0355, 0x3F2F, 0x3F2F, 0x0000, 0x000, 0x0000⟩
  | 0x02A => some ⟨0x80E, true, false, true, 0x0355, 0x3F2F, 0x3F2F, 0x0000, 0x000, 0x0000⟩
  | 0x02B => some ⟨0xBFF, false, false, true, 0x0355, 0x3F2F, 0x3F2F, 0x0000, 0x000, 0x0000⟩
  | 0x02C => some ⟨0xBFF, false, false, true, 0x0355, 0x3F2F, 0x3F2F, 0x0000, 0x000, 0x0000⟩
  | 0x02D => some ⟨0xBFF, false, false, true, 0x0355, 0x3F2F, 0x3F2F, 0x0000, 0x000, 0x0000⟩
  | 0x02E => some ⟨0xBFF, false, false, true, 0x0355, 0x3F2F, 0x3F2F, 0x0000, 0x000, 0x0000⟩
  | 0x040 => some ⟨0x010, false, true, true, 0x0355, 0x3F2F, 0x3F2F, 0x0000, 0x000, 0x0000⟩
  | 0x041 => some ⟨0x010, false, true, true, 0x0355, 0x3F2F, 0x3F2F, 0x0000, 0x000, 0x0000⟩
  | 0x042 => some ⟨0x010, true, true, true, 0x0355, 0x3F2F, 0x3F2F, 0x0000, 0x000, 0x001F⟩
  | 0x044 => some ⟨0x010, true, true, true, 0x0355, 0x3F2F, 0x3F2F, 0x0000, 0x000, 0x001F⟩
  | 0x043 => some ⟨0x010, true, true, true, 0x0355, 0x3F2F, 0x3F2F, 0x3F2F, 0x000, 0x001F⟩
  | 0x045 => some ⟨0x010, true, true, true, 0x0355, 0x3F2F, 0x3F2F, 0x3F2F, 0x000, 0x001F⟩
  | 0x046 => some ⟨0x010, false, true, true, 0x0355, 0x3F2F, 0x0000, 0x0000, 0x000, 0x0000⟩
  | 0x047 => some ⟨0x010, true, true, true, 0x0355, 0x3F2F, 0x0000, 0x0000, 0x000, 0x001F⟩
  | 0x048 => some ⟨0x010, false, true, true, 0x0355, 0x3F2F, 0x0000, 0x0000, 0x000, 0x0003⟩
  | 0x050 => some ⟨0x8EE, false, false, true, 0x0355, 0x3F2F, 0x3F2F, 0x0000, 0x000, 0x0000⟩
  | 0x051 => some ⟨0x8EE, false, false, true, 0x0355, 0x3F2F, 0x3F2F, 0x0000, 0x000, 0x0000⟩
  | 0x052 => some ⟨0x8EE, false, false, true, 0x0355, 0x3F2F, 0x3F2F, 0x0000, 0x000, 0x0000⟩
  | 0x053 => some ⟨0x8EE, false, false, true, 0x0355, 0x3F2F, 0x3F2F, 0x0000, 0x000, 0x0000⟩
  | 0x054 => some ⟨0x8EE, false, false, true, 0x0355, 0x3F2F, 0x3F2F, 0x0000, 0x000, 0x0000⟩
  | 0x055 => some ⟨0x8EE, false, false, true, 0x0355, 0x3F2F, 0x3F2F, 0x0000, 0x000, 0x0000⟩
  | 0x056 => some ⟨0xBFF, false, false, true, 0x0355, 0x3F2F, 0x3F2F, 0x3F2F, 0x000, 0x0000⟩
  | 0x057 => some ⟨0x8EE, false, false, true, 0x0355, 0x3F2F, 0x3F2F, 0x3F2F, 0x000, 0x0000⟩
  | 0x060 => some ⟨0xBFE, true, true, true, 0x0355, 0x3F2F, 0x3F2F, 0x0000, 0x03F, 0x0000⟩
  | 0x061 => some ⟨0x0E0, true, true, true, 0x0355, 0x0008, 0x0000, 0x0000, 0x000, 0x0000⟩
  | 0x062 => some ⟨0x0E0, true, true, true, 0x0355, 0x3F2F, 0x0000, 0x0000, 0x000, 0x00FF⟩
  | 0x063 => some ⟨0x001, false, false, true, 0x0010, 0x0008, 0x0000, 0x0000, 0x000, 0x0000⟩
  | 0x064 => some ⟨0xFFF, false, false, true, 0x0010, 0x0008, 0x0000, 0x0000, 0x000, 0x00FF⟩
  | 0x070 => some ⟨0x080, true, true, true, 0x0355, 0x3F2F, 0x0000, 0x0000, 0x000, 0x0000⟩
  | 0x071 => some ⟨0x080, true, true, true, 0x0355, 0x3F2F, 0x0000, 0x0000, 0x000, 0x0000⟩
  | 0x072 => some ⟨0x080, true, true, true, 0x0355, 0x3F2F, 0x0000, 0x0000, 0x000, 0x0000⟩
  | 0x073 => some ⟨0x080, true, true, true, 0x0355, 0x3F2F, 0x0000, 0x0000, 0x000, 0x0000⟩
  | 0x078 => some ⟨0x8EE, true, true, true, 0x0355, 0x3F2F, 0x0000, 0x0000, 0x000, 0x0000⟩
  | 0x079 => some ⟨0x8EE, false, false, true, 0x0355, 0x3F2F, 0x0000, 0x0000, 0x000, 0x0000⟩
  | 0x07A => some ⟨0x8EE, false, false, true, 0x0355, 0x3F2F, 0x0000, 0x0000, 0x000, 0x0000⟩
  | 0x07B => some ⟨0x8EE, true, true, true, 0x0355, 0x3F2F, 0x3F2F, 0x0000, 0x000, 0x0000⟩
  | 0x080 => some ⟨0xBFF, false, false, true, 0x0355, 0x3F2F, 0x0000, 0x0000, 0x000, 0x003F⟩
  | 0x081 => some ⟨0xBFF, false, false, true, 0x0355, 0x3F2F, 0x3F2F, 0x0000, 0x000, 0x0000⟩
  | 0x082 => some ⟨0xBFF, false, false, true, 0x0355, 0x3F2F, 0x3F2F, 0x3F2F, 0x000, 0x0000⟩
  | 0x083 => some ⟨0xBFF, false, false, true, 0x0355, 0x3F2F, 0x0000, 0x0000, 0x000, 0x003F⟩
  | 0x084 => some ⟨0xBFF, false, false, true, 0x0355, 0x3F2F, 0x3F2F, 0x0000, 0x000, 0x0000⟩
  | 0x085 => some ⟨0xBFF, false, false, true, 0x0355, 0x3F2F, 0x3F2F, 0x0000, 0x000, 0x0000⟩
  | 0x086 => some ⟨0xBFF, false, false, true, 0x0355, 0x3F2F, 0x3F2F, 0x0000, 0x000, 0x0000⟩
  | 0x087 => some ⟨0xBFF, false, false, true, 0x0355, 0x3F2F, 0x3F2F, 0x0000, 0x000, 0x0000⟩
  | 0x088 => some ⟨0xBFF, false, false, true, 0x0355, 0x3F2F, 0x3F2F, 0x0000, 0x000, 0x003F⟩
  | 0x089 => some ⟨0xBFF, false, false, true, 0x0355, 0x3F2F, 0x0000, 0x0000, 0x000, 0x003F⟩
  | 0x08A => some ⟨0xBFF, false, false, true, 0x0355, 0x3F2F, 0x0000, 0x0000, 0x000, 0x0007⟩
  | 0x08B => some ⟨0x09C, true, true, true, 0x0355, 0x3F2F, 0x0000, 0x0000, 0x001, 0x000F⟩
  | 0x08C => some ⟨0x010, true, true, true, 0x0355, 0x3F2F, 0x3F2F, 0x0000, 0x001, 0x000F⟩
  | 0x100 => some ⟨0xF62, false, false, false, 0x0000, 0x000D, 0x0000, 0x0000, 0x03F, 0xFFEF⟩
  | 0x101 => some ⟨0x088, false, false, false, 0x0080, 0x0000, 0x0000, 0x0000, 0x000, 0x0000⟩
  | 0x102 => some ⟨0x001, false, false, false, 0x0080, 0x0026, 0x0000, 0x0000, 0x000, 0x0000⟩
  | 0x103 => some ⟨0x088, true, true, true, 0x0211, 0x0080, 0x0004, 0x0000, 0x003, 0x0003⟩
  | 0x104 => some ⟨0x001, false, false, true, 0x0041, 0x0080, 0x0000, 0x0000, 0x001, 0x0000⟩
  | 0x108 => some ⟨0x040, false, false, false, 0x0080, 0x0000, 0x0000, 0x0004, 0x3FF, 0x001F⟩
  | 0x109 => some ⟨0x020, false, false, false, 0x0080, 0x0000, 0x0000, 0x0004, 0x3FF, 0x001F⟩
  | 0x10A => some ⟨0x300, false, false, false, 0x0080, 0x0000, 0x0000, 0x0004, 0x3FF, 0x001F⟩
  | 0x10B => some ⟨0x400, false, false, false, 0x0080, 0x0000, 0x0000, 0x0004, 0x3FF, 0x001F⟩
  | 0x10C => some ⟨0x802, false, true, false, 0x0080, 0x0000, 0x0000, 0x0004, 0x3FF, 0x001F⟩
  | 0x200 => some ⟨0x001, false, false, true, 0x0050, 0x3F2F, 0x0000, 0x0000, 0x000, 0x0000⟩
  | 0x201 => some ⟨0x001, false, false, true, 0x0200, 0x0028, 0x0000, 0x0000, 0x000, 0x0000⟩
  | 0x202 => some ⟨0x001, false, false, true, 0x0050, 0x0028, 0x0000, 0x0000, 0x000, 0x000F⟩
  | 0x203 => some ⟨0x001, false, false, true, 0x0250, 0x0028, 0x212F, 0x0000, 0x000, 0x00FF⟩
  | 0x204 => some ⟨0x001, false, false, true, 0x0050, 0x0028, 0x0000, 0x0000, 0x000, 0xFFFF⟩
  | 0x205 => some ⟨0x001, false, false, true, 0x0050, 0x012F, 0x0000, 0x0000, 0x000, 0xFFFF⟩
  | 0x206 => some ⟨0x001, false, false, true, 0x0250, 0x0028, 0x0028, 0x0228, 0x000, 0x0000⟩
  | 0x207 => some ⟨0x001, false, false, true, 0x0250, 0x0028, 0x0028, 0x0028, 0x000, 0x0000⟩
  | 0x208 => some ⟨0x001, false, false, true, 0x0250, 0x0028, 0x0028, 0x0000, 0x000, 0x0000⟩
  | 0x209 => some ⟨0x001, false, false, true, 0x0250, 0x0028, 0x0028, 0x0000, 0x000, 0x0000⟩
  | 0x20A => some ⟨0x001, false, false, true, 0x0250, 0x0028, 0x0028, 0x0000, 0x000, 0x00FF⟩
  | 0x20B => some ⟨0x001, false, false, true, 0x0250, 0x0028, 0x0028, 0x0000, 0x000, 0x0000⟩
  | 0x20C => some ⟨0x001, false, false, true, 0x0240, 0x0220, 0x2006, 0x0000, 0x000, 0x0FFF⟩
  | 0x20D => some ⟨0x001, false, false, true, 0x0050, 0x0028, 0x0020, 0x0000, 0x000, 0x0000⟩
  | 0x20E => some ⟨0x001, false, false, true, 0x0050, 0x0028, 0x3F2F, 0x0000, 0x000, 0x00FF⟩
  | 0x20F => some ⟨0x001, false, false, true, 0x0250, 0x0028, 0x3F2F, 0x0000, 0x000, 0xFFFF⟩
  | 0x210 => some ⟨0x001, false, false, true, 0x0050, 0x0028, 0x0028, 0x0000, 0x000, 0x0000⟩
  | 0x211 => some ⟨0x001, false, false, true, 0x0250, 0x0028, 0x0005, 0x0000, 0x000, 0x0007⟩
  | 0x220 => some ⟨0xFFF, false, false, true, 0x0055, 0x2026, 0x0000, 0x0000, 0x003, 0xFFFF⟩
  | 0x221 => some ⟨0xFFF, false, false, true, 0x0200, 0x2026, 0x002F, 0x0000, 0x003, 0xFFFF⟩
  | 0x300 => some ⟨0xFFF, false, false, false, 0x0250, 0x0028, 0x0000, 0x0000, 0x1FF, 0xFFFF⟩
  | 0x301 => some ⟨0xFFF, false, false, false, 0x0240, 0x0028, 0x2228, 0x0000, 0x1FF, 0xFFFF⟩
  | 0x302 => some ⟨0xBFE, false, false, false, 0x0010, 0x0008, 0x0000, 0x0000, 0x0FF, 0xFFFF⟩
  | 0x303 => some ⟨0xBFE, false, false, false, 0x0240, 0x0008, 0x0008, 0x0000, 0x0FF, 0xFFFF⟩
  | 0x304 => some ⟨0x009, false, false, false, 0x0240, 0x0028, 0x2020, 0x0000, 0x0FF, 0xFFFF⟩
  | 0x305 => some ⟨0x009, false, false, false, 0x0240, 0x0028, 0x2020, 0x0000, 0x0FF, 0xFFFF⟩
  | 0x306 => some ⟨0x009, false, false, false, 0x0240, 0x0028, 0x2020, 0x0000, 0x0FF, 0xFFFF⟩
  | 0x307 => some ⟨0x009, false, false, false, 0x0240, 0x0028, 0x2020, 0x0000, 0x0FF, 0xFFFF⟩
  | 0x308 => some ⟨0x009, false, false, false, 0x0240, 0x0028, 0x2020, 0x0000, 0x0FF, 0xFFFF⟩
  | 0x309 => some ⟨0x009, false, false, false, 0x0240, 0x0028, 0x2020, 0x0000, 0x0FF, 0xFFFF⟩
  | 0x30A => some ⟨0x009, false, false, false, 0x0240, 0x0028, 0x2020, 0x0000, 0x0FF, 0xFFFF⟩
  | 0x30B => some ⟨0x009, false, false, false, 0x0240, 0x0028, 0x2020, 0x2020, 0x0FF, 0xFFFF⟩
  | 0x30C => some ⟨0x001, false, false, false, 0x0250, 0x0028, 0x0000, 0x0000, 0x0F0, 0xFFFF⟩
  | 0x30D => some ⟨0x001, false, false, false, 0x0250, 0x0028, 0x0000, 0x0000, 0x000, 0x0000⟩
  | 0x30E => some ⟨0x001, false, false, false, 0x0250, 0x0028, 0x0000, 0x0000, 0x00C, 0x0000⟩
  | 0x30F => some ⟨0x001, false, false, false, 0x0010, 0x0008, 0x0000, 0x0000, 0x000, 0x00FF⟩
  | 0x310 => some ⟨0x09C, false, false, true, 0x0010, 0x0026, 0x0009, 0x0000, 0x03F, 0x0000⟩
  | 0x311 => some ⟨0x001, false, false, true, 0x0010, 0x0000, 0x0000, 0x0000, 0x000, 0x0000⟩
  | _ => none

/-- Issue class of an opcode (R235; hrecv stands apart, R378). -/
def opClass (op : Nat) : IssueClass :=
  if op < 0x100 then .vector else if op < 0x200 then .matrix else if op < 0x300 then .movement
  else if op = 0x30F then .hrecv else if op < 0x310 then .memory else .movement

/-- Whether an opcode may stand in a memory-tile slot (mt) or a compute-tile slot (R235, R355). -/
def opLegalIn (mt : Bool) (op : Nat) : Bool :=
  if mt then (decide (0x200 ≤ op ∧ op ≤ 0x210) || decide (0x300 ≤ op ∧ op ≤ 0x30F))
  else decide (op < 0x300) || decide (0x310 ≤ op)

/-- The value of the mask allowed contains the class of the selector; an unused operand must be 0 (R229). -/
def selOk (allowed s : Nat) : Bool :=
  if allowed = 0 then s == 0 else (Nat.land allowed (selKind s)) != 0

/-- Selectors that a memory tile reserves (R230). -/
def selMtOk (s : Nat) : Bool := (Nat.land (selKind s) (1 + 2 + 4 + 128 + 256)) == 0

/-- Number of lanes of a format (R307). -/
def laneCount (fmt : Nat) : Nat :=
  match fmt with
  | 2 => 32 | 3 => 16 | 4 => 16 | 5 => 32 | 6 => 32 | 7 => 16 | _ => 64

/-- Element width in bits for vcvt (R322). -/
def cvtBits (fmt : Nat) : Nat :=
  match fmt with
  | 2 => 16 | 3 => 32 | 4 => 16 | 5 => 16 | 6 => 16 | 7 => 32 | _ => 8

/-- Steps of an mma form (R343). -/
def mmaSteps (op : Nat) : Nat := if op = 0x10B then 24 else 32

/-- Pairs of ACOP and FMT (R130). -/
def acopOk (acop fmt : Nat) : Bool :=
  match acop with
  | 0 => fmt == 2 || fmt == 3 || fmt == 4 || fmt == 7
  | 1 => fmt == 3 || fmt == 7
  | 2 => fmt == 3 || fmt == 7
  | _ => false

/-- An output queue selector, or 0x60. -/
def outOrZero (s : Nat) : Bool := selOk (16 + 64 + 512) s

/-- A selector an operation reads as a lane source under formats that no immediate can take (R231). -/
def immSelOk (fmt s : Nat) : Bool := !(decide (0x80 ≤ s) && decide (8 ≤ fmt))

/-- The checks that single operations make beyond their row. -/
def opExtra (op : Nat) (w : Slot) : Bool :=
  let fmt := w.fmt.toNat
  let md := w.md.toNat
  let imm := w.imm.toNat
  let a := w.a.toNat
  let b := w.b.toNat
  let c := w.c.toNat
  let d := w.dst.toNat
  match op with
  | 0x060 =>
    let sf := md % 16
    let p := md / 16 % 4
    let ws := cvtBits sf
    let wd := cvtBits fmt
    bit 0xBFE sf && sf != fmt && immSelOk sf a &&
      (if wd < ws then decide (p < ws / wd) && immSelOk fmt b
       else if ws < wd then decide (p < wd / ws) && b == 0
       else p == 0 && b == 0)
  | 0x078 => isFltFmt fmt || w.rnd == 0
  | 0x07B => isFltFmt fmt || w.rnd == 0
  | 0x080 => decide (imm < laneCount fmt)
  | 0x083 => decide (imm < laneCount fmt)
  | 0x088 => decide (imm < laneCount fmt)
  | 0x089 => decide (imm < laneCount fmt)
  | 0x08A => imm != 0 && decide (2 ^ imm ≤ laneCount fmt)
  | 0x08B => decide (2 ^ imm * 2 ≤ laneCount fmt)
  | 0x08C => decide (2 ^ imm * 2 ≤ laneCount fmt)
  | 0x100 =>
    let t := md / 4 % 4
    let ls := selKind a == 4
    let inc := bit md 4
    let lsc := bit md 5
    (!ls || a % 2 == 0) && t != 3 && (t == 0 || ls) && (!inc || ls) && (!lsc || (selKind a == 8 && imm / 256 == 0)) &&
      (t != 2 || fmt == 5 || fmt == 6) && (t != 1 || fmt == 1 || fmt == 8 || fmt == 9 || fmt == 11) &&
      (if ls then (if t == 0 then fld imm 5 3 == 0 else decide (fld imm 5 3 < 4)) else true) && imm % 16 != 0
  | 0x103 =>
    let ls := bit md 0
    (if ls then d == 0x60 && b % 2 == 0 && selKind b == 4 else (Nat.land (selKind d) 17) != 0 && b == 0) &&
      (fmt == 7 || (w.rnd == 0 && w.sat == 0))
  | 0x108 => mmaOk op w
  | 0x109 => mmaOk op w
  | 0x10A => mmaOk op w
  | 0x10B => mmaOk op w
  | 0x10C => mmaOk op w
  | 0x202 => decide (1 ≤ imm) && decide (imm ≤ 8)
  | 0x203 => outOrZero imm
  | 0x204 => Nat.land (imm % 256) (imm / 256) == imm % 256
  | 0x20A => outOrZero imm
  | 0x20C => outOrZero (imm % 256) && selKind (imm % 256) != 16 && decide (1 ≤ fld imm 8 3) && decide (fld imm 8 3 ≤ 6) &&
      (decide (b < 0x80) || (decide (0x81 ≤ b) && decide (b ≤ 0xBF)))
  | 0x210 => selKind a == selKind b
  | 0x211 => decide (1 ≤ imm) && decide (imm ≤ 6)
  | 0x220 => pairOk w
  | 0x221 => pairOk w
  | 0x300 => memOk w && (!bit md 8 || selKind d == 16)
  | 0x301 => memOk w && (!bit md 8 || selKind b == 8)
  | 0x302 => memOk w
  | 0x303 => memOk w
  | 0x30C => fld md 4 2 != 0
  | 0x30F => selKind imm == 64
  | 0x310 => acopOk (md % 4) fmt && c == 0
  | _ => if decide (0x304 ≤ op) && decide (op ≤ 0x30B) then memOk w else true
where
  /-- A class F format. -/
  isFltFmt (fmt : Nat) : Bool := fmt == 5 || fmt == 6 || fmt == 7
  /-- The mma fields (R343). -/
  mmaOk (op : Nat) (w : Slot) : Bool :=
    let md := w.md.toNat
    let rs := bit md 6
    decide (md % 8 < 6) && decide (md / 8 % 8 < 6) && (!bit md 7 || rs) && (!bit md 8 || decide (md % 8 < 4)) &&
      (!bit md 9 || decide (md / 8 % 8 < 4)) &&
      (if rs then selKind w.c.toNat == 4 && w.imm.toNat == 0 else w.c.toNat == 0 && decide (w.imm.toNat < mmaSteps op))
  /-- The address pair of lsld and lsst (R368). -/
  pairOk (w : Slot) : Bool :=
    if bit w.md.toNat 0 then selKind w.a.toNat == 4 && w.a.toNat % 2 == 0 else !bit w.md.toNat 1
  /-- The sequencing fields (R371): PRED is used when SMODE is not 0. -/
  memOk (w : Slot) : Bool := fld w.md.toNat 4 2 != 0 || (fld w.md.toNat 6 2 == 0 && w.imm.toNat == 0)

/-- Whether the optional operand c of an opcode may be left at 0: mma steps and cmpless forms (R343). -/
def optZero (op s : Nat) : Bool := (decide (0x108 ≤ op ∧ op ≤ 0x10C) || op == 0x103) && s == 0

/-- The optional srcB of vcvt may be 0 (R322). -/
def optZeroB (op s : Nat) : Bool := (op == 0x060 || op == 0x103) && s == 0

/-- The checks of a valid slot that depend on the slot alone (R229-R232, R314, R356). -/
def slotNow (mt : Bool) (op : Nat) (w : Slot) : Bool :=
  match opInfo op with
  | none => false
  | some f =>
    opLegalIn mt op && bit f.fmts w.fmt.toNat && decide (w.rnd.toNat ≤ 4) && (f.rnd || w.rnd == 0) &&
      (f.sat || w.sat == 0) && (f.pwe || w.pwe == 0) && (w.pwe == 1 || (w.pwn == 0 && w.pwi == 0)) &&
      decide (w.kindc.toNat ≤ 1) && (w.predreq &&& ~~~w.predmask) == 0 &&
      selOk f.dst w.dst.toNat && selOk f.a w.a.toNat && (selOk f.b w.b.toNat || optZeroB op w.b.toNat) &&
      (selOk f.c w.c.toNat || optZero op w.c.toNat) &&
      Nat.land w.md.toNat (1023 - f.md) == 0 && Nat.land w.imm.toNat (65535 - f.imm) == 0 &&
      ((decide (0x100 ≤ op) && op != 0x301) || op == 0x060 || (immSelOk w.fmt.toNat w.a.toNat && immSelOk w.fmt.toNat w.b.toNat && immSelOk w.fmt.toNat w.c.toNat)) &&
      (!mt || (w.predmask == 0 && w.pwe == 0 && (f.dst == 0 || selMtOk w.dst.toNat) && (f.a == 0 || selMtOk w.a.toNat) &&
        (f.b == 0 || selMtOk w.b.toNat) && (f.c == 0 || selMtOk w.c.toNat))) &&
      opExtra op w

/-- What the checks that depend on other frames look at (R217, R228). -/
structure SlotEnv where
  drift : Bool
  repl : Bool
  amask : Nat
  deriving DecidableEq, Repr

/-- The queue selectors a mask names: base 0x20 for inputs, 0x30 for outputs (R228). -/
def maskQueues (drift : Bool) (wide narrow mask : Nat) : List Nat :=
  (List.range 16).filterMap fun i =>
    if bit mask i then
      some (if 12 ≤ i then narrow + 2 * (i - 12) + b2n drift
        else if drift then wide + 4 * i + 3 else wide + 4 * (i / 3) + i % 3)
    else none

/-- Input queues of a mask. -/
def inQueues (drift : Bool) (mask : Nat) : List Nat := maskQueues drift 0x20 0x40 mask
/-- Output queues of a mask. -/
def outQueues (drift : Bool) (mask : Nat) : List Nat := maskQueues drift 0x30 0x48 mask

/-- Whether a queue selector's VC is legal for a plane (R183). -/
def vcOk (drift : Bool) (s : Nat) : Bool :=
  if s < 0x40 then (s % 4 == 3) == drift else (s % 2 == 1) == drift

/-- A queue selector of the input side. -/
def isInSel (s : Nat) : Bool := (Nat.land (selKind s) 40) != 0
/-- A queue selector of the output side. -/
def isOutSel (s : Nat) : Bool := (Nat.land (selKind s) 80) != 0

/-- Output queues that an operation names in imm, beside dst (R360, R362, R363, R378). -/
def extraOuts (drift : Bool) (op : Nat) (w : Slot) : List Nat :=
  let imm := w.imm.toNat
  match op with
  | 0x203 => [imm % 256].filter isOutSel
  | 0x205 => outQueues drift imm
  | 0x20A => [imm % 256].filter isOutSel
  | 0x20C => [imm % 256].filter isOutSel
  | 0x30F => [imm % 256].filter isOutSel
  | _ => []

/-- The data sources of an operation whose narrow data may not reach a wide queue (R182). That srcC of merge.o is one of them is the model's choice: R182
lists srcA and srcB, and R362 forwards srcC too (log 47). -/
def dataSources (op : Nat) (w : Slot) : List Nat :=
  let a := w.a.toNat
  let b := w.b.toNat
  if op < 0x100 then [a, b, w.c.toNat]
  else if op = 0x206 then [a, b, w.c.toNat]
  else if (0x207 ≤ op ∧ op ≤ 0x20B) ∨ op = 0x210 then [a, b]
  else if op = 0x200 ∨ op = 0x202 ∨ op = 0x203 ∨ op = 0x204 ∨ op = 0x205 ∨ op = 0x20D ∨ op = 0x20E ∨ op = 0x20F then [a]
  else []

/-- Operand fields that hold a selector for this opcode. -/
def usedSels (op : Nat) (w : Slot) : List Nat :=
  match opInfo op with
  | none => []
  | some f =>
    (if f.dst = 0 then [] else [w.dst.toNat]) ++ (if f.a = 0 then [] else [w.a.toNat]) ++
      (if f.b = 0 then [] else [w.b.toNat]) ++ (if f.c = 0 then [] else [w.c.toNat])

/-- The checks of a valid slot against its plane (R182, R183, R220, R228, R230, R236, R340, R343, R367, R368). -/
def slotLate (env : SlotEnv) (op : Nat) (w : Slot) : Bool :=
  let ins := inQueues env.drift w.inmask.toNat
  let outs := outQueues env.drift w.outmask.toNat
  let extra := extraOuts env.drift op w
  let sels := usedSels op w
  (!env.drift || (Nat.land (Nat.lor w.inmask.toNat w.outmask.toNat) 0x0FF0) == 0) &&
    sels.all (fun s => !isInSel s || (vcOk env.drift s && ins.contains s)) &&
    sels.all (fun s => !isOutSel s || (vcOk env.drift s && outs.contains s)) &&
    extra.all (fun s => vcOk env.drift s) &&
    sels.all (fun s => selKind s != 128 || bit env.amask (s - 0x50)) &&
    (!(dataSources op w).any (fun s => selKind s == 32) || (op == 0x205 && env.repl) ||
      !(w.dst.toNat :: extra).any (fun s => selKind s == 16)) &&
    (op != 0x205 || (!env.drift || Nat.land w.imm.toNat 0x0FF0 == 0) && !extra.contains w.dst.toNat) &&
    (!env.drift || (op != 0x100 && op != 0x220 && op != 0x221 && op != 0x210 &&
      !((decide (0x108 ≤ op) && decide (op ≤ 0x10C)) && (decide (w.md.toNat % 8 < 4) || decide (w.md.toNat / 8 % 8 < 4)))))

/-- A slot that would pass every load check in some plane of some element: the well-formed slots. -/
def slotWf (op : Nat) (w : Slot) : Bool :=
  w.valid == 1 && (slotNow false op w || slotNow true op w) &&
    (slotLate ⟨false, true, 15⟩ op w || slotLate ⟨true, true, 15⟩ op w)

end Sys2Proof.Machine
end

