-- ==== Sys2Proof/Decode.lean ====
section
/-! DEFINITION. Decoding, total on any bytes: control-core words (08 R208-R212), slot words (08 R227, R235), and the
encoder of both, from the same tables. A word that no row of R210 assigns is the row ILLEGAL_INSTRUCTION. -/

namespace Sys2Proof

/-- Bits [lo + n - 1 : lo] of the number w (R12). -/
def bitsAt (w lo n : Nat) : BitVec n := BitVec.ofNat n (w / 2 ^ lo)

/-- The word no row assigns (R212 step 1, R247). -/
def badWord (w : Nat) : Instr := .illegalInstruction (BitVec.ofNat 32 w)

/-- Major 0x00 by fn (R253). -/
def decMajor0 (w : Nat) : Instr :=
  match w % 512 with
  | 0x000 => .add (bitsAt w 21 5) (bitsAt w 16 5) (bitsAt w 11 5) (bitsAt w 10 1) (bitsAt w 9 1)
  | 0x001 => .sub (bitsAt w 21 5) (bitsAt w 16 5) (bitsAt w 11 5) (bitsAt w 10 1) (bitsAt w 9 1)
  | 0x002 => .and (bitsAt w 21 5) (bitsAt w 16 5) (bitsAt w 11 5) (bitsAt w 10 1) (bitsAt w 9 1)
  | 0x003 => .or (bitsAt w 21 5) (bitsAt w 16 5) (bitsAt w 11 5) (bitsAt w 10 1) (bitsAt w 9 1)
  | 0x004 => .xor (bitsAt w 21 5) (bitsAt w 16 5) (bitsAt w 11 5) (bitsAt w 10 1) (bitsAt w 9 1)
  | 0x005 => .sll (bitsAt w 21 5) (bitsAt w 16 5) (bitsAt w 11 5) (bitsAt w 10 1) (bitsAt w 9 1)
  | 0x006 => .srl (bitsAt w 21 5) (bitsAt w 16 5) (bitsAt w 11 5) (bitsAt w 10 1) (bitsAt w 9 1)
  | 0x007 => .sra (bitsAt w 21 5) (bitsAt w 16 5) (bitsAt w 11 5) (bitsAt w 10 1) (bitsAt w 9 1)
  | 0x008 => .slt (bitsAt w 21 5) (bitsAt w 16 5) (bitsAt w 11 5) (bitsAt w 10 1) (bitsAt w 9 1)
  | 0x009 => .sltu (bitsAt w 21 5) (bitsAt w 16 5) (bitsAt w 11 5) (bitsAt w 10 1) (bitsAt w 9 1)
  | 0x00A => .min (bitsAt w 21 5) (bitsAt w 16 5) (bitsAt w 11 5) (bitsAt w 10 1) (bitsAt w 9 1)
  | 0x00B => .max (bitsAt w 21 5) (bitsAt w 16 5) (bitsAt w 11 5) (bitsAt w 10 1) (bitsAt w 9 1)
  | 0x00C => .minu (bitsAt w 21 5) (bitsAt w 16 5) (bitsAt w 11 5) (bitsAt w 10 1) (bitsAt w 9 1)
  | 0x00D => .maxu (bitsAt w 21 5) (bitsAt w 16 5) (bitsAt w 11 5) (bitsAt w 10 1) (bitsAt w 9 1)
  | 0x010 => .addw (bitsAt w 21 5) (bitsAt w 16 5) (bitsAt w 11 5) (bitsAt w 10 1) (bitsAt w 9 1)
  | 0x011 => .subw (bitsAt w 21 5) (bitsAt w 16 5) (bitsAt w 11 5) (bitsAt w 10 1) (bitsAt w 9 1)
  | 0x015 => .sllw (bitsAt w 21 5) (bitsAt w 16 5) (bitsAt w 11 5) (bitsAt w 10 1) (bitsAt w 9 1)
  | 0x016 => .srlw (bitsAt w 21 5) (bitsAt w 16 5) (bitsAt w 11 5) (bitsAt w 10 1) (bitsAt w 9 1)
  | 0x017 => .sraw (bitsAt w 21 5) (bitsAt w 16 5) (bitsAt w 11 5) (bitsAt w 10 1) (bitsAt w 9 1)
  | 0x020 => .mul (bitsAt w 21 5) (bitsAt w 16 5) (bitsAt w 11 5) (bitsAt w 10 1) (bitsAt w 9 1)
  | 0x021 => .mulh (bitsAt w 21 5) (bitsAt w 16 5) (bitsAt w 11 5) (bitsAt w 10 1) (bitsAt w 9 1)
  | 0x022 => .mulhu (bitsAt w 21 5) (bitsAt w 16 5) (bitsAt w 11 5) (bitsAt w 10 1) (bitsAt w 9 1)
  | 0x023 => .mulhsu (bitsAt w 21 5) (bitsAt w 16 5) (bitsAt w 11 5) (bitsAt w 10 1) (bitsAt w 9 1)
  | 0x024 => .div (bitsAt w 21 5) (bitsAt w 16 5) (bitsAt w 11 5) (bitsAt w 10 1) (bitsAt w 9 1)
  | 0x025 => .divu (bitsAt w 21 5) (bitsAt w 16 5) (bitsAt w 11 5) (bitsAt w 10 1) (bitsAt w 9 1)
  | 0x026 => .rem (bitsAt w 21 5) (bitsAt w 16 5) (bitsAt w 11 5) (bitsAt w 10 1) (bitsAt w 9 1)
  | 0x027 => .remu (bitsAt w 21 5) (bitsAt w 16 5) (bitsAt w 11 5) (bitsAt w 10 1) (bitsAt w 9 1)
  | 0x030 => .clz (bitsAt w 21 5) (bitsAt w 16 5) (bitsAt w 11 5) (bitsAt w 10 1) (bitsAt w 9 1)
  | 0x031 => .ctz (bitsAt w 21 5) (bitsAt w 16 5) (bitsAt w 11 5) (bitsAt w 10 1) (bitsAt w 9 1)
  | 0x032 => .popc (bitsAt w 21 5) (bitsAt w 16 5) (bitsAt w 11 5) (bitsAt w 10 1) (bitsAt w 9 1)
  | 0x033 => .bswap (bitsAt w 21 5) (bitsAt w 16 5) (bitsAt w 11 5) (bitsAt w 10 1) (bitsAt w 9 1)
  | _ => badWord w

/-- Major 0x01 by fn (R261). -/
def decMajor1 (w : Nat) : Instr :=
  match w % 512 with
  | 0x000 => .feClr (bitsAt w 21 5) (bitsAt w 16 5) (bitsAt w 11 5) (bitsAt w 10 1) (bitsAt w 9 1)
  | 0x001 => .feTst (bitsAt w 21 5) (bitsAt w 16 5) (bitsAt w 11 5) (bitsAt w 10 1) (bitsAt w 9 1)
  | 0x002 => .feWait (bitsAt w 21 5) (bitsAt w 16 5) (bitsAt w 11 5) (bitsAt w 10 1) (bitsAt w 9 1)
  | 0x003 => .feTake (bitsAt w 21 5) (bitsAt w 16 5) (bitsAt w 11 5) (bitsAt w 10 1) (bitsAt w 9 1)
  | 0x004 => .feAny (bitsAt w 21 5) (bitsAt w 16 5) (bitsAt w 11 5) (bitsAt w 10 1) (bitsAt w 9 1)
  | 0x010 => .trap (bitsAt w 21 5) (bitsAt w 16 5) (bitsAt w 11 5) (bitsAt w 10 1) (bitsAt w 9 1)
  | 0x011 => .tret (bitsAt w 21 5) (bitsAt w 16 5) (bitsAt w 11 5) (bitsAt w 10 1) (bitsAt w 9 1)
  | 0x012 => .wfe (bitsAt w 21 5) (bitsAt w 16 5) (bitsAt w 11 5) (bitsAt w 10 1) (bitsAt w 9 1)
  | 0x013 => .brk (bitsAt w 21 5) (bitsAt w 16 5) (bitsAt w 11 5) (bitsAt w 10 1) (bitsAt w 9 1)
  | _ => badWord w

/-- Major 0x0A by imm[14:12] (R256). -/
def decShift (w : Nat) : Instr :=
  match w / 4096 % 8 with
  | 0 => .slli (bitsAt w 21 5) (bitsAt w 16 5) (bitsAt w 15 1) (bitsAt w 6 6) (bitsAt w 0 6)
  | 1 => .srli (bitsAt w 21 5) (bitsAt w 16 5) (bitsAt w 15 1) (bitsAt w 6 6) (bitsAt w 0 6)
  | 2 => .srai (bitsAt w 21 5) (bitsAt w 16 5) (bitsAt w 15 1) (bitsAt w 6 6) (bitsAt w 0 6)
  | 3 => .slliw (bitsAt w 21 5) (bitsAt w 16 5) (bitsAt w 15 1) (bitsAt w 6 6) (bitsAt w 0 6)
  | 4 => .srliw (bitsAt w 21 5) (bitsAt w 16 5) (bitsAt w 15 1) (bitsAt w 6 6) (bitsAt w 0 6)
  | 5 => .sraiw (bitsAt w 21 5) (bitsAt w 16 5) (bitsAt w 15 1) (bitsAt w 6 6) (bitsAt w 0 6)
  | _ => badWord w

/-- Major 0x30 by imm[14:12] (R263). -/
def decCsr (w : Nat) : Instr :=
  match w / 4096 % 8 with
  | 1 => .csrrw (bitsAt w 21 5) (bitsAt w 16 5) (bitsAt w 15 1) (bitsAt w 0 12)
  | 2 => .csrrs (bitsAt w 21 5) (bitsAt w 16 5) (bitsAt w 15 1) (bitsAt w 0 12)
  | 3 => .csrrc (bitsAt w 21 5) (bitsAt w 16 5) (bitsAt w 15 1) (bitsAt w 0 12)
  | _ => badWord w

/-- Engine 32, the round controller (R282). A command without a reply needs a zero reply field (R279). -/
def decRctl (w : Nat) : Instr :=
  if w % 512 < 0x70 then if w / 2 ^ 21 % 32 = 0 then .inject (bitsAt w 16 5) (bitsAt w 15 1) (bitsAt w 4 3) (bitsAt w 0 4) else badWord w
  else match w % 512 / 16 with
  | 8 => if w / 2 ^ 21 % 32 = 0 then .vend (bitsAt w 16 5) (bitsAt w 15 1) (bitsAt w 0 4) else badWord w
  | 9 => .rdout (bitsAt w 21 5) (bitsAt w 16 5) (bitsAt w 15 1) (bitsAt w 0 4)
  | 10 => if w % 16 < 8 then if w / 2 ^ 21 % 32 = 0 then .accrst (bitsAt w 16 5) (bitsAt w 15 1) (bitsAt w 0 3) else badWord w else .rdacc (bitsAt w 21 5) (bitsAt w 16 5) (bitsAt w 15 1) (bitsAt w 0 3)
  | 11 => if w / 2 ^ 21 % 32 = 0 then .vbind (bitsAt w 16 5) (bitsAt w 15 1) (bitsAt w 0 4) else badWord w
  | _ => match w % 512 with
    | 0x0C0 => if w / 2 ^ 21 % 32 = 0 then .rmark (bitsAt w 16 5) (bitsAt w 15 1) else badWord w
    | 0x0C1 => .wcommit (bitsAt w 21 5) (bitsAt w 16 5) (bitsAt w 15 1)
    | 0x0D0 => if w / 2 ^ 21 % 32 = 0 then .fencePl (bitsAt w 16 5) (bitsAt w 15 1) else badWord w
    | 0x0D1 => if w / 2 ^ 21 % 32 = 0 then .fenceRg (bitsAt w 16 5) (bitsAt w 15 1) else badWord w
    | 0x0D2 => if w / 2 ^ 21 % 32 = 0 then .fencePt (bitsAt w 16 5) (bitsAt w 15 1) else badWord w
    | 0x0D3 => if w / 2 ^ 21 % 32 = 0 then .fenceSy (bitsAt w 16 5) (bitsAt w 15 1) else badWord w
    | 0x0E0 => if w / 2 ^ 21 % 32 = 0 then .drainDm (bitsAt w 16 5) (bitsAt w 15 1) else badWord w
    | 0x0E1 => if w / 2 ^ 21 % 32 = 0 then .drainSp (bitsAt w 16 5) (bitsAt w 15 1) else badWord w
    | 0x0E2 => if w / 2 ^ 21 % 32 = 0 then .drainHm (bitsAt w 16 5) (bitsAt w 15 1) else badWord w
    | 0x0E3 => if w / 2 ^ 21 % 32 = 0 then .drainCf (bitsAt w 16 5) (bitsAt w 15 1) else badWord w
    | 0x100 => if w / 2 ^ 21 % 32 = 0 then .kwr (bitsAt w 16 5) (bitsAt w 15 1) else badWord w
    | _ => badWord w

/-- Engines 0-15, AG nodes (R282). -/
def decAg (w : Nat) : Instr :=
  match w % 512 with
  | 0x000 => .copy (bitsAt w 21 5) (bitsAt w 16 5) (bitsAt w 15 1) (bitsAt w 9 4)
  | 0x001 => .sbind (bitsAt w 21 5) (bitsAt w 16 5) (bitsAt w 15 1) (bitsAt w 9 4)
  | 0x002 => .aflush (bitsAt w 21 5) (bitsAt w 16 5) (bitsAt w 15 1) (bitsAt w 9 4)
  | _ => badWord w

/-- Engines 16-31, memory tiles (R282). -/
def decMt (w : Nat) : Instr :=
  match w % 512 with
  | 0x000 => .amoAddCmd (bitsAt w 21 5) (bitsAt w 16 5) (bitsAt w 15 1) (bitsAt w 9 4)
  | 0x001 => .amoMinCmd (bitsAt w 21 5) (bitsAt w 16 5) (bitsAt w 15 1) (bitsAt w 9 4)
  | 0x002 => .amoMaxCmd (bitsAt w 21 5) (bitsAt w 16 5) (bitsAt w 15 1) (bitsAt w 9 4)
  | 0x003 => .amoAndCmd (bitsAt w 21 5) (bitsAt w 16 5) (bitsAt w 15 1) (bitsAt w 9 4)
  | 0x004 => .amoOrCmd (bitsAt w 21 5) (bitsAt w 16 5) (bitsAt w 15 1) (bitsAt w 9 4)
  | 0x005 => .amoXorCmd (bitsAt w 21 5) (bitsAt w 16 5) (bitsAt w 15 1) (bitsAt w 9 4)
  | 0x006 => .amoXchgCmd (bitsAt w 21 5) (bitsAt w 16 5) (bitsAt w 15 1) (bitsAt w 9 4)
  | 0x007 => .amoCasCmd (bitsAt w 21 5) (bitsAt w 16 5) (bitsAt w 15 1) (bitsAt w 9 4)
  | _ => badWord w

/-- Engine 33, the sequencer (R282). -/
def decSeq (w : Nat) : Instr :=
  match w % 512 with
  | 0x000 => .swap (bitsAt w 21 5) (bitsAt w 16 5) (bitsAt w 15 1)
  | 0x001 => .revoke (bitsAt w 21 5) (bitsAt w 16 5) (bitsAt w 15 1)
  | 0x002 => .relend (bitsAt w 21 5) (bitsAt w 16 5) (bitsAt w 15 1)
  | _ => badWord w

/-- Engine 34, the hub (R282). -/
def decHub (w : Nat) : Instr :=
  match w % 512 with
  | 0x000 => .lease (bitsAt w 21 5) (bitsAt w 16 5) (bitsAt w 15 1)
  | 0x001 => if w / 2 ^ 21 % 32 = 0 then .leaseEnd (bitsAt w 16 5) (bitsAt w 15 1) else badWord w
  | 0x002 => .launch (bitsAt w 21 5) (bitsAt w 16 5) (bitsAt w 15 1)
  | 0x040 => if w / 2 ^ 21 % 32 = 0 then .xinvVa (bitsAt w 16 5) (bitsAt w 15 1) else badWord w
  | 0x041 => if w / 2 ^ 21 % 32 = 0 then .xinvFn (bitsAt w 16 5) (bitsAt w 15 1) else badWord w
  | 0x042 => if w / 2 ^ 21 % 32 = 0 then .xinvPart (bitsAt w 16 5) (bitsAt w 15 1) else badWord w
  | _ => badWord w

/-- Major 0x38 by engine (R211); engines 35-63 are reserved. -/
def decCommand (w : Nat) : Instr :=
  if w / 512 % 64 < 16 then decAg w
  else if w / 512 % 64 < 32 then decMt w
  else match w / 512 % 64 with
  | 32 => decRctl w
  | 33 => decSeq w
  | 34 => decHub w
  | _ => badWord w

/-- A control-core word by major opcode (R210). -/
def decodeWord (w : Nat) : Instr :=
  match w / 2 ^ 26 % 64 with
  | 0x00 => decMajor0 w
  | 0x01 => decMajor1 w
  | 0x04 => .addi (bitsAt w 21 5) (bitsAt w 16 5) (bitsAt w 15 1) (bitsAt w 0 15)
  | 0x05 => .andi (bitsAt w 21 5) (bitsAt w 16 5) (bitsAt w 15 1) (bitsAt w 0 15)
  | 0x06 => .ori (bitsAt w 21 5) (bitsAt w 16 5) (bitsAt w 15 1) (bitsAt w 0 15)
  | 0x07 => .xori (bitsAt w 21 5) (bitsAt w 16 5) (bitsAt w 15 1) (bitsAt w 0 15)
  | 0x08 => .slti (bitsAt w 21 5) (bitsAt w 16 5) (bitsAt w 15 1) (bitsAt w 0 15)
  | 0x09 => .sltiu (bitsAt w 21 5) (bitsAt w 16 5) (bitsAt w 15 1) (bitsAt w 0 15)
  | 0x0A => decShift w
  | 0x0C => .lui (bitsAt w 21 5) (bitsAt w 0 21)
  | 0x0D => .pcadd (bitsAt w 21 5) (bitsAt w 0 21)
  | 0x10 => .lb (bitsAt w 21 5) (bitsAt w 16 5) (bitsAt w 15 1) (bitsAt w 0 15)
  | 0x11 => .lh (bitsAt w 21 5) (bitsAt w 16 5) (bitsAt w 15 1) (bitsAt w 0 15)
  | 0x12 => .lw (bitsAt w 21 5) (bitsAt w 16 5) (bitsAt w 15 1) (bitsAt w 0 15)
  | 0x13 => .ld (bitsAt w 21 5) (bitsAt w 16 5) (bitsAt w 15 1) (bitsAt w 0 15)
  | 0x14 => .lbu (bitsAt w 21 5) (bitsAt w 16 5) (bitsAt w 15 1) (bitsAt w 0 15)
  | 0x15 => .lhu (bitsAt w 21 5) (bitsAt w 16 5) (bitsAt w 15 1) (bitsAt w 0 15)
  | 0x16 => .lwu (bitsAt w 21 5) (bitsAt w 16 5) (bitsAt w 15 1) (bitsAt w 0 15)
  | 0x18 => .sb (bitsAt w 21 5) (bitsAt w 16 5) (bitsAt w 15 1) (bitsAt w 14 1) (bitsAt w 0 14)
  | 0x19 => .sh (bitsAt w 21 5) (bitsAt w 16 5) (bitsAt w 15 1) (bitsAt w 14 1) (bitsAt w 0 14)
  | 0x1A => .sw (bitsAt w 21 5) (bitsAt w 16 5) (bitsAt w 15 1) (bitsAt w 14 1) (bitsAt w 0 14)
  | 0x1B => .sd (bitsAt w 21 5) (bitsAt w 16 5) (bitsAt w 15 1) (bitsAt w 14 1) (bitsAt w 0 14)
  | 0x20 => .beq (bitsAt w 21 5) (bitsAt w 16 5) (bitsAt w 15 1) (bitsAt w 14 1) (bitsAt w 0 14)
  | 0x21 => .bne (bitsAt w 21 5) (bitsAt w 16 5) (bitsAt w 15 1) (bitsAt w 14 1) (bitsAt w 0 14)
  | 0x22 => .blt (bitsAt w 21 5) (bitsAt w 16 5) (bitsAt w 15 1) (bitsAt w 14 1) (bitsAt w 0 14)
  | 0x23 => .bge (bitsAt w 21 5) (bitsAt w 16 5) (bitsAt w 15 1) (bitsAt w 14 1) (bitsAt w 0 14)
  | 0x24 => .bltu (bitsAt w 21 5) (bitsAt w 16 5) (bitsAt w 15 1) (bitsAt w 14 1) (bitsAt w 0 14)
  | 0x25 => .bgeu (bitsAt w 21 5) (bitsAt w 16 5) (bitsAt w 15 1) (bitsAt w 14 1) (bitsAt w 0 14)
  | 0x28 => .j (bitsAt w 21 5) (bitsAt w 0 21)
  | 0x29 => .jal (bitsAt w 21 5) (bitsAt w 0 21)
  | 0x2A => .jalr (bitsAt w 21 5) (bitsAt w 16 5) (bitsAt w 15 1) (bitsAt w 0 15)
  | 0x30 => decCsr w
  | 0x38 => decCommand w
  | _ => badWord w

/-- What the bytes at a program counter decode to: four bytes, least significant first (R13, R33). -/
inductive Decoded where
  | instr (i : Instr) (rest : List Byte)
  | tooFewBytes
  deriving DecidableEq, Repr

/-- Decodes the first four bytes of a list, and gives the rest. -/
def decodeBytes : List Byte → Decoded
  | b0 :: b1 :: b2 :: b3 :: rest =>
    .instr (decodeWord (b0.toNat + 256 * b1.toNat + 65536 * b2.toNat + 16777216 * b3.toNat)) rest
  | _ => .tooFewBytes

/-- The fields of a slot word (R227), the opcode apart. -/
def slotOf (w : Nat) : Slot where
  inmask := bitsAt w 112 16
  outmask := bitsAt w 96 16
  predreq := bitsAt w 92 4
  predmask := bitsAt w 88 4
  kindc := bitsAt w 85 3
  lvlc := bitsAt w 82 3
  brk := bitsAt w 81 1
  valid := bitsAt w 80 1
  dst := bitsAt w 62 8
  a := bitsAt w 54 8
  b := bitsAt w 46 8
  c := bitsAt w 38 8
  fmt := bitsAt w 34 4
  rnd := bitsAt w 31 3
  sat := bitsAt w 30 1
  pwe := bitsAt w 29 1
  pwn := bitsAt w 28 1
  pwi := bitsAt w 26 2
  md := bitsAt w 16 10
  imm := bitsAt w 0 16

/-- The operation of an opcode (R235); none for a reserved opcode, which is FRAMEINV at load. -/
def opcodeInstr (op : Nat) (w : Slot) : Option Instr :=
  match op with
  | 0x000 => some (.vaddF w)
  | 0x001 => some (.vsubF w)
  | 0x002 => some (.vmulF w)
  | 0x003 => some (.vfma w)
  | 0x004 => some (.vfms w)
  | 0x005 => some (.vfnma w)
  | 0x006 => some (.vminF w)
  | 0x007 => some (.vmaxF w)
  | 0x008 => some (.vabsF w)
  | 0x009 => some (.vnegF w)
  | 0x00A => some (.vrnd w)
  | 0x020 => some (.vaddI w)
  | 0x021 => some (.vsubI w)
  | 0x022 => some (.vmulI w)
  | 0x023 => some (.vmac w)
  | 0x024 => some (.vminI w)
  | 0x025 => some (.vmaxI w)
  | 0x026 => some (.vabsI w)
  | 0x027 => some (.vnegI w)
  | 0x028 => some (.vshl w)
  | 0x029 => some (.vshr w)
  | 0x02A => some (.vsra w)
  | 0x02B => some (.vand w)
  | 0x02C => some (.vor w)
  | 0x02D => some (.vxor w)
  | 0x02E => some (.vandn w)
  | 0x040 => some (.vcadd w)
  | 0x041 => some (.vcsub w)
  | 0x042 => some (.vcmul w)
  | 0x043 => some (.vcmac w)
  | 0x044 => some (.vcmulc w)
  | 0x045 => some (.vcmacc w)
  | 0x046 => some (.vconj w)
  | 0x047 => some (.vcshr w)
  | 0x048 => some (.vcrot w)
  | 0x050 => some (.vcmpeq w)
  | 0x051 => some (.vcmpne w)
  | 0x052 => some (.vcmplt w)
  | 0x053 => some (.vcmple w)
  | 0x054 => some (.vcmpgt w)
  | 0x055 => some (.vcmpge w)
  | 0x056 => some (.vsel w)
  | 0x057 => some (.vclamp w)
  | 0x060 => some (.vcvt w)
  | 0x061 => some (.vsclL w)
  | 0x062 => some (.vsclI w)
  | 0x063 => some (.vhdrF w)
  | 0x064 => some (.vhdrS w)
  | 0x070 => some (.vrcp w)
  | 0x071 => some (.vrsqrt w)
  | 0x072 => some (.vexp2 w)
  | 0x073 => some (.vlog2 w)
  | 0x078 => some (.vrsum w)
  | 0x079 => some (.vrmax w)
  | 0x07A => some (.vrmin w)
  | 0x07B => some (.vrdot w)
  | 0x080 => some (.vrep w)
  | 0x081 => some (.vperm w)
  | 0x082 => some (.vperm2 w)
  | 0x083 => some (.vrot w)
  | 0x084 => some (.vzipl w)
  | 0x085 => some (.vziph w)
  | 0x086 => some (.vuzpe w)
  | 0x087 => some (.vuzpo w)
  | 0x088 => some (.vins w)
  | 0x089 => some (.vext w)
  | 0x08A => some (.vbitrev w)
  | 0x08B => some (.vbfly w)
  | 0x08C => some (.vbflyt w)
  | 0x100 => some (.mload w)
  | 0x101 => some (.mzero w)
  | 0x102 => some (.mband w)
  | 0x103 => some (.mdrain w)
  | 0x104 => some (.mstat w)
  | 0x108 => some (.mmaBf16 w)
  | 0x109 => some (.mmaFp16 w)
  | 0x10A => some (.mmaFp8 w)
  | 0x10B => some (.mmaFp4 w)
  | 0x10C => some (.mmaI8 w)
  | 0x200 => some (.pass w)
  | 0x201 => some (.drop w)
  | 0x202 => some (.delay w)
  | 0x203 => some (.steer w)
  | 0x204 => some (.filt w)
  | 0x205 => some (.repl w)
  | 0x206 => some (.mergeO w)
  | 0x207 => some (.mergeC w)
  | 0x208 => some (.mergeU w)
  | 0x209 => some (.joinLt w)
  | 0x20A => some (.joinEq w)
  | 0x20B => some (.joinGt w)
  | 0x20C => some (.cnt w)
  | 0x20D => some (.lastm w)
  | 0x20E => some (.tagset w)
  | 0x20F => some (.tagchk w)
  | 0x210 => some (.cmpx w)
  | 0x211 => some (.accRst w)
  | 0x220 => some (.lsld w)
  | 0x221 => some (.lsst w)
  | 0x300 => some (.ldSlot w)
  | 0x301 => some (.stSlot w)
  | 0x302 => some (.gather w)
  | 0x303 => some (.scatter w)
  | 0x304 => some (.amoAddSlot w)
  | 0x305 => some (.amoMinSlot w)
  | 0x306 => some (.amoMaxSlot w)
  | 0x307 => some (.amoAndSlot w)
  | 0x308 => some (.amoOrSlot w)
  | 0x309 => some (.amoXorSlot w)
  | 0x30A => some (.amoXchgSlot w)
  | 0x30B => some (.amoCasSlot w)
  | 0x30C => some (.osecB w)
  | 0x30D => some (.osecE w)
  | 0x30E => some (.fenceM w)
  | 0x30F => some (.hrecv w)
  | 0x310 => some (.hacc w)
  | 0x311 => some (.flres w)
  | _ => none

/-- Decodes a 128-bit slot word (R227, R235). -/
def decodeSlot (w : Nat) : Option Instr := opcodeInstr (w / 2 ^ 70 % 1024) (slotOf w)

/-- Encodes a slot and its opcode as a slot word (R227). -/
def slotWord (op : Nat) (s : Slot) : Nat :=
  s.inmask.toNat * 2 ^ 112 + s.outmask.toNat * 2 ^ 96 + s.predreq.toNat * 2 ^ 92 + s.predmask.toNat * 2 ^ 88
    + s.kindc.toNat * 2 ^ 85 + s.lvlc.toNat * 2 ^ 82 + s.brk.toNat * 2 ^ 81 + s.valid.toNat * 2 ^ 80
    + op * 2 ^ 70 + s.dst.toNat * 2 ^ 62 + s.a.toNat * 2 ^ 54 + s.b.toNat * 2 ^ 46 + s.c.toNat * 2 ^ 38
    + s.fmt.toNat * 2 ^ 34 + s.rnd.toNat * 2 ^ 31 + s.sat.toNat * 2 ^ 30 + s.pwe.toNat * 2 ^ 29
    + s.pwn.toNat * 2 ^ 28 + s.pwi.toNat * 2 ^ 26 + s.md.toNat * 2 ^ 16 + s.imm.toNat

/-- The slot word of a fabric operation; none for any other instruction. -/
def encodeSlot (i : Instr) : Option Nat := (Machine.slotParts i).map fun p => slotWord p.1 p.2

/-- A-format fields (R208). -/
def encA {w0 w1 w2 w3 w4 : Nat} (base : Nat) (f0 : BitVec w0) (f1 : BitVec w1) (f2 : BitVec w2) (f3 : BitVec w3) (f4 : BitVec w4) : Nat :=
  base + f0.toNat * 2 ^ 21 + f1.toNat * 2 ^ 16 + f2.toNat * 2 ^ 11 + f3.toNat * 2 ^ 10 + f4.toNat * 2 ^ 9

/-- I-format fields, and those of a CSR instruction or of a command with a reply and a number. -/
def encI {w0 w1 w2 w3 : Nat} (base : Nat) (f0 : BitVec w0) (f1 : BitVec w1) (f2 : BitVec w2) (f3 : BitVec w3) : Nat :=
  base + f0.toNat * 2 ^ 21 + f1.toNat * 2 ^ 16 + f2.toNat * 2 ^ 15 + f3.toNat

/-- Shift fields (R256). -/
def encShift {w0 w1 w2 w3 w4 : Nat} (base : Nat) (f0 : BitVec w0) (f1 : BitVec w1) (f2 : BitVec w2) (f3 : BitVec w3) (f4 : BitVec w4) : Nat :=
  base + f0.toNat * 2 ^ 21 + f1.toNat * 2 ^ 16 + f2.toNat * 2 ^ 15 + f3.toNat * 2 ^ 6 + f4.toNat

/-- U- and J-format fields. -/
def encU {w0 w1 : Nat} (base : Nat) (f0 : BitVec w0) (f1 : BitVec w1) : Nat :=
  base + f0.toNat * 2 ^ 21 + f1.toNat

/-- S- and B-format fields. -/
def encB {w0 w1 w2 w3 w4 : Nat} (base : Nat) (f0 : BitVec w0) (f1 : BitVec w1) (f2 : BitVec w2) (f3 : BitVec w3) (f4 : BitVec w4) : Nat :=
  base + f0.toNat * 2 ^ 21 + f1.toNat * 2 ^ 16 + f2.toNat * 2 ^ 15 + f3.toNat * 2 ^ 14 + f4.toNat

/-- Fields of inject. -/
def encInject {w0 w1 w2 w3 : Nat} (base : Nat) (f0 : BitVec w0) (f1 : BitVec w1) (f2 : BitVec w2) (f3 : BitVec w3) : Nat :=
  base + f0.toNat * 2 ^ 16 + f1.toNat * 2 ^ 15 + f2.toNat * 2 ^ 4 + f3.toNat

/-- Fields of a command with a number and no reply. -/
def encCmdN {w0 w1 w2 : Nat} (base : Nat) (f0 : BitVec w0) (f1 : BitVec w1) (f2 : BitVec w2) : Nat :=
  base + f0.toNat * 2 ^ 16 + f1.toNat * 2 ^ 15 + f2.toNat

/-- Fields of a command without a reply. -/
def encCmd {w0 w1 : Nat} (base : Nat) (f0 : BitVec w0) (f1 : BitVec w1) : Nat :=
  base + f0.toNat * 2 ^ 16 + f1.toNat * 2 ^ 15

/-- Fields of a command with a reply. -/
def encReply {w0 w1 w2 : Nat} (base : Nat) (f0 : BitVec w0) (f1 : BitVec w1) (f2 : BitVec w2) : Nat :=
  base + f0.toNat * 2 ^ 21 + f1.toNat * 2 ^ 16 + f2.toNat * 2 ^ 15

/-- Fields of a command to an AG node or memory tile. -/
def encEngine {w0 w1 w2 w3 : Nat} (base : Nat) (f0 : BitVec w0) (f1 : BitVec w1) (f2 : BitVec w2) (f3 : BitVec w3) : Nat :=
  base + f0.toNat * 2 ^ 21 + f1.toNat * 2 ^ 16 + f2.toNat * 2 ^ 15 + f3.toNat * 2 ^ 9

/-- The word of a control-core instruction (R208-R211); none for an instruction that has no word. -/
def encodeWord (i : Instr) : Option Nat :=
  match i with
  | .add d a b p q => some (encA 0x00000000 d a b p q)
  | .sub d a b p q => some (encA 0x00000001 d a b p q)
  | .and d a b p q => some (encA 0x00000002 d a b p q)
  | .or d a b p q => some (encA 0x00000003 d a b p q)
  | .xor d a b p q => some (encA 0x00000004 d a b p q)
  | .sll d a b p q => some (encA 0x00000005 d a b p q)
  | .srl d a b p q => some (encA 0x00000006 d a b p q)
  | .sra d a b p q => some (encA 0x00000007 d a b p q)
  | .slt d a b p q => some (encA 0x00000008 d a b p q)
  | .sltu d a b p q => some (encA 0x00000009 d a b p q)
  | .min d a b p q => some (encA 0x0000000A d a b p q)
  | .max d a b p q => some (encA 0x0000000B d a b p q)
  | .minu d a b p q => some (encA 0x0000000C d a b p q)
  | .maxu d a b p q => some (encA 0x0000000D d a b p q)
  | .addw d a b p q => some (encA 0x00000010 d a b p q)
  | .subw d a b p q => some (encA 0x00000011 d a b p q)
  | .sllw d a b p q => some (encA 0x00000015 d a b p q)
  | .srlw d a b p q => some (encA 0x00000016 d a b p q)
  | .sraw d a b p q => some (encA 0x00000017 d a b p q)
  | .mul d a b p q => some (encA 0x00000020 d a b p q)
  | .mulh d a b p q => some (encA 0x00000021 d a b p q)
  | .mulhu d a b p q => some (encA 0x00000022 d a b p q)
  | .mulhsu d a b p q => some (encA 0x00000023 d a b p q)
  | .div d a b p q => some (encA 0x00000024 d a b p q)
  | .divu d a b p q => some (encA 0x00000025 d a b p q)
  | .rem d a b p q => some (encA 0x00000026 d a b p q)
  | .remu d a b p q => some (encA 0x00000027 d a b p q)
  | .clz d a b p q => some (encA 0x00000030 d a b p q)
  | .ctz d a b p q => some (encA 0x00000031 d a b p q)
  | .popc d a b p q => some (encA 0x00000032 d a b p q)
  | .bswap d a b p q => some (encA 0x00000033 d a b p q)
  | .feClr d a b p q => some (encA 0x04000000 d a b p q)
  | .feTst d a b p q => some (encA 0x04000001 d a b p q)
  | .feWait d a b p q => some (encA 0x04000002 d a b p q)
  | .feTake d a b p q => some (encA 0x04000003 d a b p q)
  | .feAny d a b p q => some (encA 0x04000004 d a b p q)
  | .trap d a b p q => some (encA 0x04000010 d a b p q)
  | .tret d a b p q => some (encA 0x04000011 d a b p q)
  | .wfe d a b p q => some (encA 0x04000012 d a b p q)
  | .brk d a b p q => some (encA 0x04000013 d a b p q)
  | .addi d a p i => some (encI 0x10000000 d a p i)
  | .andi d a p i => some (encI 0x14000000 d a p i)
  | .ori d a p i => some (encI 0x18000000 d a p i)
  | .xori d a p i => some (encI 0x1C000000 d a p i)
  | .slti d a p i => some (encI 0x20000000 d a p i)
  | .sltiu d a p i => some (encI 0x24000000 d a p i)
  | .slli d a p z s => some (encShift 0x28000000 d a p z s)
  | .srli d a p z s => some (encShift 0x28001000 d a p z s)
  | .srai d a p z s => some (encShift 0x28002000 d a p z s)
  | .slliw d a p z s => some (encShift 0x28003000 d a p z s)
  | .srliw d a p z s => some (encShift 0x28004000 d a p z s)
  | .sraiw d a p z s => some (encShift 0x28005000 d a p z s)
  | .lui d i => some (encU 0x30000000 d i)
  | .pcadd d i => some (encU 0x34000000 d i)
  | .lb d a p i => some (encI 0x40000000 d a p i)
  | .lh d a p i => some (encI 0x44000000 d a p i)
  | .lw d a p i => some (encI 0x48000000 d a p i)
  | .ld d a p i => some (encI 0x4C000000 d a p i)
  | .lbu d a p i => some (encI 0x50000000 d a p i)
  | .lhu d a p i => some (encI 0x54000000 d a p i)
  | .lwu d a p i => some (encI 0x58000000 d a p i)
  | .sb d a p q i => some (encB 0x60000000 d a p q i)
  | .sh d a p q i => some (encB 0x64000000 d a p q i)
  | .sw d a p q i => some (encB 0x68000000 d a p q i)
  | .sd d a p q i => some (encB 0x6C000000 d a p q i)
  | .beq a b p q o => some (encB 0x80000000 a b p q o)
  | .bne a b p q o => some (encB 0x84000000 a b p q o)
  | .blt a b p q o => some (encB 0x88000000 a b p q o)
  | .bge a b p q o => some (encB 0x8C000000 a b p q o)
  | .bltu a b p q o => some (encB 0x90000000 a b p q o)
  | .bgeu a b p q o => some (encB 0x94000000 a b p q o)
  | .j d o => some (encU 0xA0000000 d o)
  | .jal d o => some (encU 0xA4000000 d o)
  | .jalr d a p i => some (encI 0xA8000000 d a p i)
  | .csrrw d a p c => some (encI 0xC0001000 d a p c)
  | .csrrs d a p c => some (encI 0xC0002000 d a p c)
  | .csrrc d a p c => some (encI 0xC0003000 d a p c)
  | .inject a p l n => some (encInject 0xE0004000 a p l n)
  | .vend a p n => some (encCmdN 0xE0004080 a p n)
  | .rdout r a p n => some (encI 0xE0004090 r a p n)
  | .accrst a p j => some (encCmdN 0xE00040A0 a p j)
  | .rdacc r a p j => some (encI 0xE00040A8 r a p j)
  | .vbind a p n => some (encCmdN 0xE00040B0 a p n)
  | .rmark a p => some (encCmd 0xE00040C0 a p)
  | .wcommit r a p => some (encReply 0xE00040C1 r a p)
  | .fencePl a p => some (encCmd 0xE00040D0 a p)
  | .fenceRg a p => some (encCmd 0xE00040D1 a p)
  | .fencePt a p => some (encCmd 0xE00040D2 a p)
  | .fenceSy a p => some (encCmd 0xE00040D3 a p)
  | .drainDm a p => some (encCmd 0xE00040E0 a p)
  | .drainSp a p => some (encCmd 0xE00040E1 a p)
  | .drainHm a p => some (encCmd 0xE00040E2 a p)
  | .drainCf a p => some (encCmd 0xE00040E3 a p)
  | .kwr a p => some (encCmd 0xE0004100 a p)
  | .copy r a p n => some (encEngine 0xE0000000 r a p n)
  | .sbind r a p n => some (encEngine 0xE0000001 r a p n)
  | .aflush r a p n => some (encEngine 0xE0000002 r a p n)
  | .amoAddCmd r a p n => some (encEngine 0xE0002000 r a p n)
  | .amoMinCmd r a p n => some (encEngine 0xE0002001 r a p n)
  | .amoMaxCmd r a p n => some (encEngine 0xE0002002 r a p n)
  | .amoAndCmd r a p n => some (encEngine 0xE0002003 r a p n)
  | .amoOrCmd r a p n => some (encEngine 0xE0002004 r a p n)
  | .amoXorCmd r a p n => some (encEngine 0xE0002005 r a p n)
  | .amoXchgCmd r a p n => some (encEngine 0xE0002006 r a p n)
  | .amoCasCmd r a p n => some (encEngine 0xE0002007 r a p n)
  | .swap r a p => some (encReply 0xE0004200 r a p)
  | .revoke r a p => some (encReply 0xE0004201 r a p)
  | .relend r a p => some (encReply 0xE0004202 r a p)
  | .lease r a p => some (encReply 0xE0004400 r a p)
  | .leaseEnd a p => some (encCmd 0xE0004401 a p)
  | .launch r a p => some (encReply 0xE0004402 r a p)
  | .xinvVa a p => some (encCmd 0xE0004440 a p)
  | .xinvFn a p => some (encCmd 0xE0004441 a p)
  | .xinvPart a p => some (encCmd 0xE0004442 a p)
  | .illegalInstruction w => some w.toNat
  | _ => none

/-- The instruction a table row's word stands for: a 32-bit control-core word, a 128-bit slot word, bit 0 the least
significant bit of the first byte (R13); none for any other length and for a reserved slot opcode. -/
def decodeTableWord (nbits w : Nat) : Option Instr :=
  if nbits = 32 then some (decodeWord (w % 2 ^ 32))
  else if nbits = 128 then decodeSlot (w % 2 ^ 128)
  else none

end Sys2Proof
end

