-- ==== Sys2Proof/Config.lean ====
section
/-! DEFINITION. What one device fixes and the spec leaves open: every name here is opaque, so nothing can
be proved about its value beyond its type. A free value is one of these applied to the counter
State.free or to the operands it depends on. -/

namespace Sys2Proof

/-- Which agent acts when no action is on the agenda (log 1). -/
opaque Config.schedule : Nat → Action
/-- Control-core cycles an instruction takes beyond the first (R251 binds nothing; log 5). -/
opaque Config.extraCycles : Nat → Nat
/-- A data value the spec leaves open: data that goes with a poison mark (R76), of a lost word (log 22). -/
opaque Config.freeLine : Nat → BitVec 512
/-- A choice among alternatives for which the spec gives no order (R50, R119; logs 13, 14). -/
opaque Config.choice : Nat → Nat
/-- The set of a walker's leaf cache that an entry falls into, by its tag (R58; log 71). -/
opaque Config.leafSet : Nat → Nat
/-- The entry that leaves a full set of a walker's cache: by die and number of the insertion (R58; log 71). -/
opaque Config.evict : Nat → Nat → Nat
/-- The fused secret of the device, from which its identity key and the alias keys are derived (R501; log 6). -/
opaque Config.deviceSecret : BitVec 512
/-- Seed of the device identity key pair, derived from the fused secret (R501; log 6). -/
opaque Config.identitySeed : BitVec 512 → BitVec 256
/-- Seed of an alias key pair, derived from the secret of the last DICE layer (R501; log 6). -/
opaque Config.aliasSeed : BitVec 512 → BitVec 256
/-- The certificate of the device identity key, signed by Garlosy (R501; log 7). -/
opaque Config.deviceCert : BitVec 256 → List (BitVec 8)
/-- Fused SHA-512 digest of Garlosy key k (R499; log 10). -/
opaque Config.fuseDigest : Nat → BitVec 512
/-- Fused revocation bits of the four keys (R499; log 10). -/
opaque Config.fuseRevoked : BitVec 4
/-- Fused SVN floor of KIND 1 and 2 as shipped (R499; log 10). -/
opaque Config.fuseFloor : Nat → BitVec 32
/-- Flash contents as shipped: 0 hub copy A, 1 hub copy B, 2 + p the slot of partition p (R500; log 10). -/
opaque Config.flash : Nat → List (BitVec 8)
/-- Digest of the boot ROM (R501, MREG0; log 10). -/
opaque Config.bootRomDigest : BitVec 512
/-- The failing units that the self-test of a power-up finds; none when all passes (R504; log 18). -/
opaque Config.selfTest : Nat → List FailUnit
/-- Part code and stepping, the first word GETINFO returns (R497; log 7). -/
opaque Config.partCode : BitVec 64
/-- Where the 64 bytes of a GETINFO reply hold its items, in the order R497 lists them: part code and stepping, hub VERSION and SVN, partition
VERSION and SVN, BOOTSTAT. The spec gives no layout (log 7). -/
opaque Config.infoReply : List (BitVec 64) → BitVec 512
/-- Whether the hub's power estimate stays below the package cap with a boost added (R484; log 17). -/
opaque Config.leaseFits : Nat → Bool
/-- Energy in microjoules that a number of activities is charged at a reckoning (R486 estimates; log 17). -/
opaque Config.energy : Nat → Nat → BitVec 64
/-- Contents of an SPDM message the spec does not give (R503; log 7). -/
opaque Config.spdmBody : Nat → Nat → List (BitVec 8)
/-- Bits of the integer i in a lane format that cannot hold it exactly (R308 says "exactly"; log 28). -/
opaque Config.laneIndex : Nat → Nat → Nat

end Sys2Proof
end

