-- ==== Sys2Proof/Machine/State.lean ====
section
/-! DEFINITION. The state of the SK-64 as plain data, and the state after reset. The reset value of each field is its
default below; where the spec gives none the log entry is named. Tables list only what differs from the
default said where they are read (zero, empty or none unless noted). -/

namespace Sys2Proof.Machine

/-- Why the machine stops: it has no cause. What the spec calls a fault is taken inside the machine, as a trap of a control core
(09 R271), a stop or discard of a region (15 R411), or the safe state (23 R505), each a next state. Safe: no step ends a run. -/
inductive Fault where
  deriving DecidableEq, Repr

/-- Why an instruction has no meaning. -/
inductive Refusal where
  /-- Raised by an arm of exec whose instruction has no meaning yet; none is left. Safe. -/
  | notModelled (mnemonic : String)
  deriving DecidableEq, Repr

/-- A token: data and sideband (07 R186). A narrow token's data is in bits [63:0]. -/
structure Token where
  data : Line := 0
  ctag : Byte := 0
  lvl : BitVec 3 := 0
  kind : BitVec 3 := 0
  ctx : BitVec 2 := 0
  check : BitVec 16 := 0
  /-- Beat of a two-beat packet: 1 and 2 the request word and addend of a bounce, which the hardware knows by its route (13 R379), 3 and 4 those
  of an accumulate on its way home (05 R129); 0 for every other token. -/
  bnc : BitVec 3 := 0
  /-- An acceptance credit: its destination element, carried beside the sideband (13 R379). -/
  dest : Option (Nat × Nat) := none
  /-- Model's note of the element whose output queue it left last: the party that a request's release waits on (06 R159; log 46). -/
  sent : Option Nat := none
  /-- It came over a twin channel, and so holds no permit of a link (21 R467). -/
  twin : Bool := false
  /-- The queue or buffer word that holds it has an uncorrectable error (R471; log 29). -/
  bad : Bool := false
  deriving DecidableEq, Repr, Inhabited

/-- A fault waiting at the round controller, with what its report tells (07 R203-R204, 15 R419-R420). x and y are the
absolute element key's place; the region's origin is taken off in the report. -/
structure FaultRec where
  cause : Nat
  key : Nat
  slot : Option Nat := none
  qsel : Option Nat := none
  stream : Option Nat := none
  round : BitVec 32 := 0
  info0 : Word := 0
  info1 : Word := 0
  deriving DecidableEq, Repr, Inhabited

/-! ### Control core (09, 10) -/

/-- A context at a source port (R197, R198): its round there, the tokens that it has emitted in it, and the tokens of the log that leave before a
mark which the round controller has ordered. -/
structure VinCtx where
  count : Nat := 0
  round : BitVec 32 := 0
  markAt : Option Nat := none
  deriving DecidableEq, Repr, Inhabited

/-- A source port (R283-R285, R199): tokens emitted in uncommitted rounds with their round and binding value, tokens not yet emitted with
theirs, and the contexts that use the port, each with its own rounds (R205). -/
structure Vin where
  bind : Option Word := none
  kept : List (BitVec 32 × Word × Token) := []
  queue : List (Word × Token) := []
  ctxs : Tab VinCtx := []
  deriving DecidableEq, Repr, Inhabited

/-- A sink port (R286, R418): its tokens with their rounds, the rdouts waiting (reply registers, 0 for none), the latest mark number of each
context, the delivered counts DLV by context and round, and the replay tokens still to drop. -/
structure Sink where
  toks : List (BitVec 32 × Token) := []
  waiting : List Nat := []
  mark : Tab (BitVec 32) := []
  dlv : List (Nat × BitVec 32 × Nat) := []
  drop : List (Nat × BitVec 32 × Nat) := []
  deriving DecidableEq, Repr, Inhabited

/-- An accumulator (R287): its value and its binding value (EN, OP, PORT). -/
structure Acc where
  val : Word := 0
  bind : Option Word := none
  deriving DecidableEq, Repr, Inhabited

/-- A command not yet completed (R280, R281, R293): its number, the memories it writes or reads, bit 0 scratchpad and local
store, 1 data SRAM, 2 device memory, 3 host memory, 4 configuration, 5 counts for drain.dm, 6 for drain.sp, 7 for
drain.hm, 8 for drain.cf; and whether it holds one of the 8 hub places. -/
structure Outst where
  id : Nat
  mems : BitVec 9
  hub : Bool := false
  deriving DecidableEq, Repr, Inhabited

/-- A control core (09 R248-R275). Registers not listed hold zero; x0 is never listed. -/
structure CC where
  x : Tab Word := []
  full : BitVec 32 := 0xFFFFFFFF
  owed : BitVec 32 := 0
  pc : BitVec 16 := 0
  tstat : BitVec 6 := 0
  tvec : Word := 0
  tepc : Word := 0
  tcause : Word := 0
  tval : Word := 0
  tscr : Word := 0
  evpend : BitVec 6 := 0
  evmask : BitVec 6 := 0
  tcmp : Word := 0xFFFFFFFFFFFFFFFF
  cycle : Word := 0
  instret : Word := 0
  /-- ccstat: SKIND, SCODE, STATE (R273). -/
  skind : BitVec 2 := 0
  scode : BitVec 8 := 0
  state : BitVec 2 := 0
  /-- The core has been started by a launch and not torn down (R274). -/
  started : Bool := false
  isram : Mem := []
  dsram : Mem := []
  accs : Tab Acc := []
  vins : Tab Vin := []
  sinks : Tab Sink := []
  outs : List Outst := []
  /-- Model's number of the next command. -/
  nextId : Nat := 1
  /-- Reply register of the pending acquire (R281). -/
  acq : Option Nat := none
  /-- wcommit replies owed: register, context, round (R296). -/
  wcs : List (Nat × Nat × BitVec 32) := []
  /-- The round of each context that the core has entered (R286). -/
  rounds : Tab (BitVec 32) := []
  /-- 64-bit words of its SRAMs with an uncorrectable error: the byte address / 8 of the instruction SRAM, and 2^32 more of the data SRAM (21 R471;
  log 29). -/
  bad : List Nat := []
  deriving DecidableEq, Repr, Inhabited

/-! ### Planes (07, 08, 11-13) -/

/-- Plane states (07 R190), in the order of PSTATE.STATE (15 R434). -/
inductive PSt where
  | empty | loading | incomplete | loaded | bound | retiring
  deriving DecidableEq, Repr, Inhabited

/-- State of one slot (13 R361-R363; 15 R433): delay line, merge.u pointer, merge.o NEXT, cnt IDX and DONE, firings in the
round, age (R401), and whether a kind 1 slot has fired for the end mark that stands (R192). -/
structure SlotSt where
  line : Option (List Token) := none
  ptr : Bool := false
  next : BitVec 16 := 0
  idx : BitVec 32 := 0
  done : Bool := false
  fired : Nat := 0
  age : Option Nat := none
  endFired : Bool := false
  /-- A kind 1 slot: its predicate condition in the cycle in which the end mark stood at the head of every input (R192). -/
  endPred : Option Bool := none
  /-- cmpx: the copy of the srcA head has been sent on the twin channel (R467; log 11). -/
  twinSent : Bool := false
  deriving DecidableEq, Repr, Inhabited

/-- A matrix accumulator (12 R334, R349). Cells not listed hold zero; cell (i, j) is number 8 i + j. -/
structure MAcc where
  cells : Tab (BitVec 32) := []
  int : Bool := false
  ba : BitVec 16 := 0x3F80
  bb : BitVec 16 := 0x3F80
  cap : Bool := false
  ue : Bool := false
  bandmis : Bool := false
  nanf : Bool := false
  satf : Bool := false
  /-- UOP, UROW, UWORD, UELEM of the first error, in the layout of bits [23:10] (R349). -/
  log : BitVec 14 := 0
  deriving DecidableEq, Repr, Inhabited

/-- A half of an operand buffer (12 R335-R336). -/
structure Half where
  rows : Tab Line := []
  /-- FMT in [7:0] and SCALE in [15:8] of each row. -/
  tags : Tab (BitVec 16) := []
  /-- Error marks: one bit per 64-bit word of each row, word w of row r at 8 r + w. -/
  marks : BitVec 64 := 0
  fill : BitVec 32 := 0
  full : Bool := false
  count : BitVec 4 := 0
  owner : Option Nat := none
  deriving DecidableEq, Repr, Inhabited

/-- A fill of a half from local store in progress (12 R337, R341): the half, plane and READERS, the reads not yet served with the bank of each
line they take and the fill bits they give, and the fill bits given once all are served. A drain to the local store, which ranks with the fills
(R348), stands here with no half. -/
structure LsFill where
  half : Option Nat
  plane : Nat
  readers : Nat
  reads : List (List Nat × BitVec 32)
  mask : BitVec 32 := 0
  deriving DecidableEq, Repr, Inhabited

/-- A memory request of a memory tile (04 R103, R117, 05 R129, 13 R371): a slot's access, a lane of a gather or scatter, an accumulate,
an atomic command, or a line that an AG node reads or writes. -/
structure MemReq where
  /-- 0 slot, 1 atomic command, 2 accumulate, 3 and 4 a stream's read and store, 5 and 6 a copy's read and write. -/
  src : Nat := 0
  plane : Nat := 0
  slot : Nat := 0
  /-- The slot opcode: 0x300 read, 0x301 write, 0x302, 0x303 lanes, 0x304-0x30B atomics, 0x310 accumulate. -/
  op : Nat := 0
  fmt : Nat := 0
  /-- Physical bank and line (R107), and the scratchpad address. -/
  bank : Nat := 0
  line : Nat := 0
  addr : BitVec 32 := 0
  /-- Bytes of the access: 64, 8, or the lane's. -/
  size : Nat := 64
  data : Line := 0
  cmp : Word := 0
  /-- Tag written: FMT in [7:0], SCALE in [15:8]; none keeps the tag. -/
  tag : Option (BitVec 16) := none
  /-- Reply queue selector, 0x60 for none, and the reply's LVL, CTAG; HDR (R373). -/
  reply : Nat := 0x60
  lvl : BitVec 3 := 0
  ctag : Byte := 0
  hdr : Bool := false
  /-- Ordering attribute, SMODE, DOM, PRED (R371). -/
  ord : BitVec 4 := 0
  smode : BitVec 2 := 0
  dom : Nat := 0
  pred : BitVec 16 := 0
  /-- Gather or scatter group and lane (R373); of a stream's read, which of its lines. -/
  grp : Nat := 0
  lane : Nat := 0
  /-- Accumulate: operation, flush, credit request, sender place and port (R129, R133). -/
  acop : Nat := 0
  fl : Bool := false
  cr : Bool := false
  sx : Nat := 0
  sy : Nat := 0
  port : Nat := 0
  /-- Command: its core, number and reply register. A stream's access or a copy's: its node and number. -/
  key : Nat := 0
  id : Nat := 0
  reg : Nat := 0
  /-- The input queue it came by and its round. -/
  queue : Nat := 0
  round : BitVec 32 := 0
  /-- CHECK of the token that an osec.b popped (13 R357). -/
  check : BitVec 16 := 0
  /-- A body access of an ordered section, with the run of the section it belongs to (06 R167, R168). -/
  sec : Bool := false
  run : Nat := 0
  /-- Model's number of the request at its tile: those that fired before a fence.m became pending are its earlier ones (13 R376). -/
  no : Nat := 0
  deriving DecidableEq, Repr, Inhabited

/-- A firn entry with its number and V, or an accumulate in the flush sender (05 R136, R139). -/
structure FirnE where
  n : Nat := 0
  v : Bool := true
  ctx : Nat := 0
  addr : BitVec 32 := 0
  acop : Nat := 0
  fmt : Nat := 0
  data : Line := 0
  /-- Flush accumulates: CR (R140). -/
  cr : Bool := false
  /-- A word of the entry has an uncorrectable error (R471; log 29). -/
  bad : Bool := false
  deriving DecidableEq, Repr, Inhabited

/-- A translation a stream, walker cache or fetch holds (02 R54, R58): partition, function, first address, size as a power of
two, and the leaf word. -/
structure TEnt where
  part : Nat := 0
  fn : Nat := 0
  va : Nat := 0
  lg : Nat := 0
  leaf : Word := 0
  /-- An entry of a walker's cache with an uncorrectable error (R471; log 29). -/
  bad : Bool := false
  deriving DecidableEq, Repr, Inhabited

/-- What the hub holds for one thing that it does through a function's tables (02 R57, R58): a translation entry, the function and address whose walk
it has asked for, a walk that ended in a fault (function and address, cause, subcode, level), and the lines that it has read so far. -/
structure HubX where
  tent : Option TEnt := none
  out : Option (Nat × Nat) := none
  bad : Option ((Nat × Nat) × Nat × Nat × Nat) := none
  lines : List ((Nat × Nat) × Line) := []
  deriving DecidableEq, Repr, Inhabited

/-- A report that the hub has still to write into a function's fault ring: its 64 bytes, and the region whose cores then see RFAULT (15 R421). -/
structure RepOut where
  line : Line
  rid : Option Nat := none
  x : HubX := {}
  deriving DecidableEq, Repr, Inhabited

/-- A stream's checkpoint at the start of a round (04 R118). -/
structure SCkpt where
  round : BitVec 32
  pos : Nat
  latch : Option (BitVec 32)
  hdr : Option (BitVec 16)
  /-- Elements read and tokens formed but not yet emitted (R100). -/
  block : List Line := []
  btag : BitVec 16 := 0
  tiles : List (Line × BitVec 16) := []
  skip : Nat := 0
  bseen : BitVec 32 := 0xFFFFFFFF
  deriving DecidableEq, Repr, Inhabited

/-- State of one AG stream (04 R115-R120, 03 R95-R96). -/
structure StreamSt where
  /-- Linear index of the next access to issue. -/
  pos : Nat := 0
  /-- The number of its accesses before the swap that ended the stream (R404); none where no swap has. -/
  last : Option Nat := none
  /-- Format latch; none stands for the frame's own (R95). -/
  latch : Option (BitVec 32) := none
  /-- Tag of the last header emitted; none before the first (R96). -/
  hdr : Option (BitVec 16) := none
  tent : Option TEnt := none
  /-- Waiting on a refill (1) or on XLATE (2); 0 neither. -/
  wait : Nat := 0
  /-- The address whose walk has ended in XLATE, and that no invalidation has covered since (02 R62). -/
  xva : Option Nat := none
  /-- Tokens emitted in the present round, and the count at which its mark leaves (R197). -/
  count : Nat := 0
  markAt : Option Nat := none
  /-- Kept tokens still to be emitted again after a discard (R120). -/
  again : List Token := []
  /-- Elements of the block being read (R100). -/
  block : List Line := []
  /-- The end mark of a swap is still owed (R198, R404). -/
  endDue : Bool := false
  /-- Transposed tokens with their line tag, waiting to be emitted (R100), and the tag of the block being read. -/
  tiles : List (Line × BitVec 16) := []
  btag : BitVec 16 := 0
  /-- Tokens of the block already emitted when it had to be read again, and the committed round when its first element was read (R111, R162). -/
  skip : Nat := 0
  bseen : BitVec 32 := 0xFFFFFFFF
  /-- Physical line and route of an access's first line, translated while its second waits on a refill (R55). -/
  half : Option (Nat × Nat) := none
  /-- The round of the tokens it emits, and its checkpoints at the start of uncommitted rounds (R118, R197). -/
  round : BitVec 32 := 0
  ckpts : List SCkpt := []
  deriving DecidableEq, Repr, Inhabited

/-- A distributor's round state (14 R402): its sequence, estimates by replica, tokens left of the record, and the chosen replica. -/
structure Distr where
  seq : BitVec 16 := 0
  est : Tab Nat := []
  left : Nat := 0
  dst : Nat := 0
  deriving DecidableEq, Repr, Inhabited

/-- The state of a plane that a discard restores (07 R200): registers, latches, slot states, rounds. -/
structure PRun where
  v : Tab Line := []
  k : Tab Word := []
  a : Tab (BitVec 32) := []
  p : BitVec 4 := 0
  cwid : Word := 0
  round : BitVec 32 := 0
  /-- Header latches by input selector, FMT in [7:0], SCALE in [15:8]; 0x7F00 where not listed (R93). -/
  hdr : Tab (BitVec 16) := []
  /-- OHDR by wide output selector, likewise (R312). -/
  ohdr : Tab (BitVec 16) := []
  slots : Tab SlotSt := []
  m : Tab MAcc := []
  last : Tab (BitVec 16) := []
  domq : Tab (List MemReq) := []
  /-- fence.m slots pending, oldest first, with the number that the tile's next request had (R376). -/
  fences : List (Nat × Nat) := []
  /-- An acquire whose reply has not been formed: its slot (R374), and the domain that it waits in or has passed, if one orders it (R150). -/
  acq : Option Nat := none
  acqDom : Option Nat := none
  flush : List FirnE := []
  streams : Tab StreamSt := []
  /-- Number of the latest mark popped on each back-edge queue (R196). -/
  bmark : Tab (BitVec 32) := []
  /-- Distributors by the place of their stage among the plane's (R402). -/
  dists : Tab Distr := []
  deriving DecidableEq, Repr, Inhabited

/-- A checkpoint at round entry (R200, R351). -/
structure Ckpt where
  round : BitVec 32
  run : PRun
  halves : Tab Half
  fills : List LsFill := []
  /-- What kwr and sbind changed as the round began, and the frames and stream states that sbind replaced (R305). -/
  kwr : Tab (Word × Nat × Nat) := []
  sbind : Tab (List (Nat × BitVec 256) × Nat × Nat) := []
  oldF : List (Nat × BitVec 256) := []
  oldS : Tab StreamSt := []
  deriving DecidableEq, Repr, Inhabited

/-- Which image a plane's words came from, and the north-west core of the rectangle it was loaded into (14 R397, 15 R415, R419; log 56). -/
structure ImgId where
  fn : Nat
  image : Word
  w : Nat
  h : Nat
  x0 : Nat
  y0 : Nat
  imageid : Word
  deriving DecidableEq, Repr, Inhabited

/-- A stage entry as an element holds it: the words of R390, whether the element is its distributor or a replica, and a replica's stage priority
(R403). -/
structure StageE where
  w0 : Word
  w1 : Word
  w2 : Word
  w3 : Word
  dist : Bool := false
  prio : Nat := 0
  deriving DecidableEq, Repr, Inhabited

/-- One plane of an element (07 R178, R190; 15 R434). -/
structure Plane where
  st : PSt := .empty
  frames : Tab (BitVec 256) := []
  nfr : Nat := 0
  img : Option ImgId := none
  /-- Frames that kwr or sbind wrote: they have no image copy (R415). -/
  patched : List Nat := []
  /-- Frames whose parity check fails (R472; log 29). -/
  bad : List Nat := []
  revoked : Bool := false
  succ : Bool := false
  brkskip : Bool := false
  /-- The slot or stream that a breakpoint stopped, whose next firing BRKSKIP is for (R425). -/
  brkslot : Nat := 0
  cround : BitVec 32 := 0xFFFFFFFF
  run : PRun := {}
  ckpts : List Ckpt := []
  /-- The round the controller has told an element with no input to enter, and the context's end (R195, R459). -/
  told : Option (BitVec 32) := none
  /-- Pending and waiting kwr values by register, with core and command number (R303). -/
  kwr : Tab (Word × Nat × Nat) := []
  /-- Pending sbind frames by stream, and the core and number of their commands (R291). -/
  sbind : Tab (List (Nat × BitVec 256) × Nat × Nat) := []
  /-- The stages that the element takes part in (R390), and its tile cycle at bind, from which R403 counts. -/
  stages : List StageE := []
  cyc0 : Nat := 0
  deriving DecidableEq, Repr, Inhabited

/-! ### Elements -/

/-- Network state of an element position (07 R180-R185; 15 R435). Queues are named by their selectors. -/
structure Net where
  rx : Tab (List Token) := []
  wire : Tab (List Token) := []
  outq : Tab (List Token) := []
  /-- Permits used of each output selector: the sender holds the slot count less these (R185). -/
  used : Tab Nat := []
  /-- Permits on their way back, by output selector. -/
  owed : Tab Nat := []
  /-- Permits restored above the slot count (15 R435). -/
  extra : Tab Nat := []
  arbw : Tab Nat := []
  arbn : Tab Nat := []
  routes : Tab (BitVec 256) := []
  /-- Beats of bounces that the switch has taken out for the element's firn tile, by input selector (13 R379). -/
  bin : Tab (List Token) := []
  /-- Outputs that have sent the first beat of a two-beat packet: 256 times its context, plus the source whose second beat goes next (log 70). -/
  pair : Tab Nat := []
  /-- Planes whose route-table frame fails its parity check (R472; log 29). -/
  badRoutes : List Nat := []
  /-- Outputs whose permit counts are reset once the discard that PERMIT asks for has flushed its contexts (21 R474). -/
  resets : List Nat := []
  backlog : List (Nat × BitVec 32 × Nat × Token) := []
  deriving DecidableEq, Repr, Inhabited

/-- A journal entry (04 R109, 21 R470): line, old data and tag with its CHECK, context, round, and whether a word of it has an uncorrectable
error (R471; log 29). -/
structure JEnt where
  line : Nat
  old : Line
  tag : BitVec 16
  check : BitVec 16 := 0
  ctx : Nat
  round : BitVec 32
  bad : Bool := false
  deriving DecidableEq, Repr, Inhabited

/-- A section in flight (06 R166-R170): queue, plane, domain, entry record, grant queue, signatures and buffered writes,
the osec.e result and its queue once it has arrived, runs still to be thrown away, opening round, the number of its present run, and the replies of
scatters that its retirement sends (13 R373). -/
structure Sect where
  queue : Nat
  plane : Nat
  dom : Nat
  entry : Token
  grant : Nat
  /-- Read and write signatures: bank and h(l) of each bit set (R167). -/
  reads : List (Nat × Nat) := []
  wsig : List (Nat × Nat) := []
  writes : List MemReq := []
  result : Option (Token × Nat) := none
  squashed : Nat := 0
  /-- Grants still to be emitted again (R168). -/
  due : Nat := 0
  round : BitVec 32 := 0
  run : Nat := 0
  replies : List (Nat × BitVec 3 × Line) := []
  deriving DecidableEq, Repr, Inhabited

/-- A gather or scatter in progress (13 R373): its request with the addresses as data, the lanes left to perform, the reply
so far or the elements to write, and the lanes that no bank's queue has taken yet. -/
structure Group where
  req : MemReq
  left : Nat
  out : Line
  wait : List MemReq := []
  deriving DecidableEq, Repr, Inhabited

/-- Memory-tile storage shared by the planes (04 R102-R111, 05 R133-R135, 06 R166). -/
structure MtSt where
  /-- Bank b line l at byte 32768 b + 64 l. -/
  data : Mem := []
  /-- Tags FMT, SCALE by line number 512 b + l; zero where not listed. -/
  tags : Tab (BitVec 16) := []
  /-- CHECK of the tags by line number; that of a zero line with a zero tag where not listed (03 R77). -/
  checks : Tab (BitVec 16) := []
  bankq : Tab (List MemReq) := []
  /-- Entries of each bank's request queue at the start of the tile cycle (R103, R134). -/
  start : Tab Nat := []
  /-- Input queue that a bank last took from; 0xFF, before in.n0, where not listed (R103). -/
  rr : Tab Nat := []
  /-- Banks b whose request queue has taken a request in the present tile cycle (R103), 32 + b where the pipeline has accepted one (R102), and
  64 + 16 plane + slot of each hrecv slot that has fired in it (R400). -/
  took : List Nat := []
  jr : Tab (List JEnt) := []
  /-- Accepted accumulates by 17 b + port, and whether a new window has begun and they are still to be cleared (05 R133). -/
  accepted : Tab Nat := []
  qdue : Bool := false
  /-- Pending credits: sender x, y, context, count, and the credit queue of the first (R135, R378). -/
  credits : List (Nat × Nat × Nat × Nat × Nat) := []
  groups : Tab Group := []
  nextGrp : Nat := 1
  nextReq : Nat := 1
  sects : List Sect := []
  /-- Requests that have come over the configuration path, oldest first (04 R103, R117). -/
  cfgq : List MemReq := []
  /-- Credits that wait for a place in their output queue cq (R135, R379). -/
  crq : List (Nat × Token) := []
  /-- Banks with an access performed in an uncommitted round: bank, context, round (R163). -/
  touch : List (Nat × Nat × BitVec 32) := []
  /-- 64-bit words (byte address / 8) whose SECDED shows an uncorrectable error (R471, R473; log 29). -/
  bad : List Nat := []
  deriving DecidableEq, Repr, Inhabited

/-- Compute-tile storage shared by the planes (04 R113, 12 R335, 14 R407). -/
structure CtSt where
  ls : Mem := []
  jr : List JEnt := []
  halves : Tab Half := []
  fills : List LsFill := []
  /-- Banks that the second line of an unaligned lsld or lsst has still to take (R113). -/
  lsq : List Nat := []
  /-- Reserve banks: plane and its parked state. -/
  reserve : List (Nat × PRun) := []
  /-- 64-bit words of the local store with an uncorrectable error (R341, R471; log 29). -/
  bad : List Nat := []
  deriving DecidableEq, Repr, Inhabited

/-- A held store (04 R119). -/
structure Held where
  /-- Model's number of the entry at its node (02 R66). -/
  no : Nat := 0
  pa : Nat
  va : Nat
  fn : Nat
  route : Nat := 0
  /-- Translation covered by an invalidation while the region stands stopped (02 R67), and whether its new walk has ended in XLATE, which is
  reported once for each walk (R62). -/
  stale : Bool := false
  xwait : Bool := false
  mask : BitVec 64
  data : Line
  tag : BitVec 16
  /-- CRC-16 over address, mask, data, FMT and SCALE, made as the store enters the hold side (21 R470). -/
  check : BitVec 16 := 0
  /-- A word of the entry has an uncorrectable error (21 R471; log 29). -/
  bad : Bool := false
  stream : Nat
  ctx : Nat
  round : BitVec 32
  deriving DecidableEq, Repr, Inhabited

/-- A read in flight of an AG node: stream, plane, iteration, and what it will return (04 R116, 15 R429). -/
structure ReadOut where
  /-- Model's number of the read at its node (02 R66). -/
  no : Nat := 0
  stream : Nat
  plane : Nat
  pos : Nat
  /-- Function and address it was translated from, its one or two physical lines, and its bytes (R55). -/
  fn : Nat := 0
  va : Nat := 0
  pas : List Nat := []
  size : Nat := 64
  line : Option Line := none
  tag : BitVec 16 := 0
  /-- Its number at the node, the lines that have come from banks (R117), and the last committed round when it performed (R162). -/
  id : Nat := 0
  parts : List (Nat × Line × BitVec 16) := []
  seen : BitVec 32 := 0xFFFFFFFF
  deriving DecidableEq, Repr, Inhabited

/-- A command in an AG node's inbox (10 R280): core, number, reply register, cmd, operand, block, lines done. -/
structure AgCmd where
  core : Nat
  id : Nat
  reg : Nat
  cmd : Nat
  d : Word
  block : Mem
  /-- The core was in supervisor mode (02 R48). -/
  sup : Bool := false
  /-- It has been started, and what it replies once it has finished (R173, R290). -/
  on : Bool := false
  fin : Option Word := none
  /-- Lines done, the line and tag read and not yet written, the status code, and the wait on a refill (1), XLATE (2) or a bank (3). -/
  pos : Nat := 0
  line : Option (Line × BitVec 16) := none
  code : Nat := 0
  wait : Nat := 0
  deriving DecidableEq, Repr, Inhabited

/-- AG-node storage shared by the planes (04 R119-R120, 10 R280). -/
structure AgSt where
  hold : List Held := []
  /-- Kept tokens: stream, plane, round, token. -/
  replay : List (Nat × Nat × BitVec 32 × Token) := []
  reads : List ReadOut := []
  inbox : List AgCmd := []
  /-- Last pair (4 stream + plane) that issued; 32 the command stream (R116). -/
  ring : Nat := 0
  /-- Translation entry of the command stream (02 R57). -/
  tent : Option TEnt := none
  /-- Number of the next scratchpad access, read or held store, and by 8 plane + stream the lines of stores sent to a bank and not performed (04 R117). -/
  nextId : Nat := 1
  spw : Tab Nat := []
  /-- Storage of the 128 KiB stream buffer as configuration space addresses it (08 R226). -/
  buf : Mem := []
  deriving DecidableEq, Repr, Inhabited

/-- A register or local-store write of the present tile cycle (08 R234). -/
inductive PendW where
  | v (plane reg : Nat) (x : Line)
  | a (plane reg : Nat) (x : BitVec 32)
  | p (plane reg : Nat) (x : Bool)
  | ls (plane : Nat) (round : BitVec 32) (rot addr mask : Nat) (x : Line)
  deriving DecidableEq, Repr, Inhabited

/-- One element position, named by key 100 core + 10 y + x (01 R36): a switch with what stands at it. -/
structure Elem where
  net : Net := {}
  planes : Tab Plane := []
  mt : MtSt := {}
  ct : CtSt := {}
  ag : AgSt := {}
  firn : List FirnE := []
  /-- HELD of plane c, under c, and OUT, under 4 + c, as written through configuration space since the last restart (05 R139). -/
  heldW : Tab Nat := []
  /-- OUT by context (05 R136). -/
  out : Tab Nat := []
  /-- The gate signal has arrived and the clock is gated (15 R411). -/
  gated : Bool := false
  powerGated : Bool := false
  spine : Nat := 0
  dbg : Word := 0
  /-- Present tile cycle, classes that have issued in it, and its writes, oldest first (log 2). -/
  cyc : Nat := 0
  issued : List IssueClass := []
  /-- Register words with an uncorrectable error: plane, selector, 64-bit word (R331, R350, R471; log 29). -/
  badReg : List (Nat × Nat × Nat) := []
  pend : List (IssueClass × PendW) := []
  /-- Input queues that a firing has popped in the present tile cycle: what stands at their heads was not there at its start (R192, R103). -/
  popd : List Nat := []
  /-- Plane and tile cycle of the operations that have issued in an open staging window, and of those of a timing error that issue again
  (15 R413). -/
  opens : List (Nat × Nat) := []
  terr : List (Nat × Nat) := []
  deriving DecidableEq, Repr, Inhabited

/-! ### Regions (14, 15) -/

/-- A launch record (14 R388), 128 bytes, with who submitted it and where it came from. -/
structure Launch where
  lrec : BitVec 1024
  part : Nat
  fn : Nat
  /-- Queue 0-7, 8 for the child queue; index of the record. -/
  queue : Nat
  index : BitVec 32
  seq : BitVec 32
  /-- Tick since which a batch record has been a candidate (R396). -/
  since : Option Word := none
  /-- A batch record that ranks as interactive (R396). -/
  promoted : Bool := false
  /-- Save number from which it returns (15 R436). -/
  saved : Option Nat := none
  /-- Binding and stage entries read at acceptance, 128 and 256 bits (R389, R390). -/
  binds : List Nat := []
  stages : List Nat := []
  deriving DecidableEq, Repr, Inhabited

/-- A pending swap (14 R404): reply core, number and register, check result. -/
structure Swap where
  old : Nat
  new : Nat
  tick : Word
  core : Nat
  id : Nat
  reg : Nat
  checked : Option Bool := none
  /-- The swap has happened and OLD has not yet returned to loaded. -/
  done : Bool := false
  relend : List Nat := []
  deriving DecidableEq, Repr, Inhabited

/-- A context as its region's round controllers keep it (07 R194-R205; 15 R433 type 13). -/
structure RCtx where
  drift : Bool := false
  round : BitVec 32 := 0
  cround : BitVec 32 := 0xFFFFFFFF
  /-- Iteration vectors of open rounds. -/
  ivs : List (BitVec 32 × Word) := []
  /-- Edge-group counts u of round uRound, by group; the launch's round length elsewhere (R197). -/
  u : Tab Nat := []
  uRound : Option (BitVec 32) := none
  /-- The round whose early edge has been signalled (R121). -/
  earlyDone : Option (BitVec 32) := none
  halvings : Nat := 0
  capDiscards : Nat := 0
  idle : Nat := 0
  /-- An early-edge request of a control core waits (R295). -/
  early : Bool := false
  faults : List FaultRec := []
  /-- Rounds once replayed for UNCORR or PERMIT, and once for a twin mismatch (R204). -/
  replayed : List (BitVec 32) := []
  twreplayed : List (BitVec 32) := []
  /-- A STRAY of the context has been reported, and the retirement sweep has reported what it found (R424, R428). -/
  stray : Bool := false
  swept : Bool := false
  retired : Bool := false
  deriving DecidableEq, Repr, Inhabited

/-- A placed launch: its rectangle, planes and stop state. A drift launch names the region it stands in. -/
structure Region where
  launch : Launch
  x0 : Nat
  y0 : Nat
  w : Nat
  h : Nat
  plane : Nat
  /-- Owner region of a drift launch. -/
  owner : Option Nat := none
  twin : Option Nat := none
  /-- The start token has left; its arrival is owed to these cores. -/
  startDue : List Nat := []
  started : Bool := false
  ctxs : Tab RCtx := []
  /-- Cause of the present stop (R410), its context, and whether rounds were discarded. -/
  stop : Option Nat := none
  stopCtx : Nat := 0
  /-- Gate signals still on their way to elements (R411), what the stop is for (0 nothing, 1 a discard, 2 a stop without
  discard, 3 a pre-emption, 4 the region stands stopped), and whether a replay's restart is pending (R429). -/
  gates : List Nat := []
  phase : Nat := 0
  restart : Bool := false
  /-- A cause that stops the region has been applied while it was being saved: it stays stopped when it returns (R410, R429). -/
  stays : Bool := false
  /-- Device time when its clocks were last all gated (R431). -/
  gateAt : Word := 0
  swap : Option Swap := none
  /-- The tick at which the lease was granted, the core that asked, and its end tick (22 R484). -/
  lease : Option Word := none
  /-- The number of its grant, among all granted (R484). -/
  leaseNo : Nat := 0
  leaseCore : Nat := 0
  leaseEnd : Option Word := none
  /-- Injection bucket (22 R482): its level, its capacity, and the refill tick last taken, divided by 16. -/
  bucket : Nat := 0
  bcap : Nat := 0
  bfill : Nat := 0
  /-- A drift launch: lent or revoked, elements that a REVOKE (1) or RELEND (2) message has yet to reach, and the reply it owes
  (core, command, register) (R300, R407). -/
  lent : Bool := false
  msgs : List Nat := []
  msgKind : Nat := 0
  msgReply : Option (Nat × Nat × Nat) := none
  /-- Messages to send once those have arrived: kind and reply owed, oldest first. -/
  later : List (Nat × Option (Nat × Nat × Nat)) := []
  /-- Revoked by its own fault (R412), or waiting for a pending swap to end before it is relent (R408). -/
  ownFault : Bool := false
  relendDue : Bool := false
  /-- A drift context of another function stands in the region, or has stood there since its lend set last returned (04 R127, 14 R409). -/
  foreign : Bool := false
  /-- A save command waits to take effect (R428). -/
  saveDue : Bool := false
  withdraw : Option (BitVec 32) := none
  /-- What the hub has read for the rescan of its planes (R415). -/
  rx : HubX := {}
  deriving DecidableEq, Repr, Inhabited

/-- A command accepted by the hub or the sequencer whose reply is owed, or a load or preload in progress. -/
structure Load where
  part : Nat
  /-- The region being loaded, none for a preload (16 R439). -/
  rid : Option Nat
  fn : Nat
  image : Word
  x0 : Nat
  y0 : Nat
  w : Nat
  h : Nat
  plane : Nat
  /-- Next frame, groups read, the open group's header and data frames left (R217). -/
  k : Nat := 0
  groups : Nat := 0
  hdr : BitVec 256 := 0
  left : Nat := 0
  img : BitVec 256 := 0
  cold : Bool := true
  wait : Nat := 0
  /-- Frames that the image has named: key, space, frame; and whether this frame's read failed once (R217, R438). -/
  named : List (Nat × Nat × Nat) := []
  again : Bool := false
  /-- IMAGEID of the header that it has read (08 R214). -/
  imageid : Word := 0
  /-- The walk of its present frame (02 R58). -/
  x : HubX := {}
  deriving DecidableEq, Repr, Inhabited

/-- One link group of the crevasse audit (21 R474, R475): device time of its last visit, the tile cycles of the visit under way, whether a visit that
is due waits for an idle window, and the tile cycles since an owner token last moved on it. -/
structure Audit where
  last : Word := 0
  cyc : Option Nat := none
  pend : Bool := false
  quiet : Nat := 0
  deriving DecidableEq, Repr, Inhabited

/-- The whole fabric. -/
structure Fab where
  elems : Tab Elem := []
  ccs : Tab CC := []
  regions : Tab Region := []
  nextRid : Nat := 1
  /-- Number of the next lease (22 R484). -/
  nextLease : Nat := 1
  /-- Function that last used each core, 32 part + fn + 1; 0 for none (04 R127). -/
  lastUser : Tab Nat := []
  /-- Replies on their way: core, register, value (09 R248). -/
  fills : List (Nat × Nat × Word) := []
  /-- Credits and bounces on the configuration path or as system messages: kind (0 credit, 1 bounce), key, context, count, entry. -/
  creds : List (Nat × Nat × Nat × Nat × FirnE) := []
  loads : List Load := []
  /-- Tokens of the twin region's streams by comparator (21 R466). -/
  twins : List (Nat × Nat × Token) := []
  /-- Link groups by 10 core + row (21 R474). -/
  audits : Tab Audit := []
  deriving DecidableEq, Repr, Inhabited

/-! ### Memories (01, 02, 03, 15) -/

/-- A walk request (02 R56-R59): the key of the node and its stream, 8 for the command stream, 9 for a place of the hub, 16 + i for a held store of
stream i that is translated again (R67); plane, partition, function and address. -/
structure Walk where
  key : Nat
  stream : Nat
  plane : Nat
  part : Nat
  fn : Nat
  va : Nat
  /-- The requester's region was launched in the deadline class; the walk has been started (R59). -/
  dl : Bool := false
  started : Bool := false
  /-- Answer: the entry, or a fault's cause, subcode and level. -/
  ans : Option (TEnt ⊕ (Nat × Nat × Nat)) := none
  deriving DecidableEq, Repr, Inhabited

/-- A walker with its caches (02 R58). -/
structure Walker where
  queue : List Walk := []
  leaves : List TEnt := []
  tables : List TEnt := []
  /-- Partition whose walk was started last outside the deadline class (R59). -/
  rr : Nat := 3
  /-- Model's count of entries put into the caches. -/
  ins : Nat := 0
  deriving DecidableEq, Repr, Inhabited

/-- Device, host and peer memory. -/
structure MemSys where
  hbm : Mem := []
  /-- Tags FMT in [7:0], SCALE in [15:8] by line number. -/
  tags : Tab (BitVec 16) := []
  /-- CHECK of the tags by line number; that of a zero line with a zero tag where not listed (03 R73). -/
  checks : Tab (BitVec 16) := []
  poison : List Nat := []
  /-- Lines with an error that the stack's own ECC cannot correct (03 R76). -/
  bad : List Nat := []
  /-- Lines whose second failure has set POISON and whose report to function 0 has not been posted (03 R76). -/
  lost : List Nat := []
  /-- Owner by channel group; 0xFF where not listed (log 3). -/
  owner : Tab Nat := []
  /-- Failed-line tables by stack, oldest first (15 R414). -/
  failed : Tab (List Nat) := []
  /-- Snoop filters by stack: lines the host may hold (23 R489). -/
  snoop : Tab (List Nat) := []
  host : Mem := []
  /-- Peer writes sent: address, mask, data, in posting order (23 R508). -/
  peer : List (Nat × BitVec 64 × Line) := []
  walkers : Tab Walker := []
  deriving DecidableEq, Repr, Inhabited

/-! ### Hub, partitions (01, 02, 14, 15, 16, 21, 22, 23) -/

/-- An invalidation in progress (02 R64-R66): kind 0 address, 1 function, 2 partition; issuing core and command. -/
structure Inval where
  kind : Nat
  fn : Nat
  va : Nat
  core : Option Nat
  id : Nat
  /-- Once it has reached the nodes: the stores of its function that they then held, and the reads that had been translated through an entry that it
  covers, each by AG key and number (R66). -/
  held : Option (List (Nat × Nat)) := none
  reads : List (Nat × Nat) := []
  deriving DecidableEq, Repr, Inhabited

/-- A child launch waiting (14 R394). -/
structure Child where
  addr : Word
  core : Nat
  id : Nat
  reg : Nat
  cls : Nat
  index : BitVec 32
  deriving DecidableEq, Repr, Inhabited

/-- A saved launch (15 R429-R436): its region as it stood, its slots, when and why. Its elements and cores stand in the fabric's tables
under core numbers from base on, in order of the region core number; 64 and above name no core of the device. -/
structure Saved where
  region : Region
  base : Nat
  slots : List Nat
  reason : Nat
  dtime : Word
  corrupt : Bool := false
  loads : List Load := []
  /-- The save of the twin region (R466). -/
  partner : Option Nat := none
  deriving DecidableEq, Repr, Inhabited

/-- One partition's share of the hub. Tables by function f, queue 8 f + q or event 64 f + e hold zero where not listed. -/
structure Part where
  cfg : Word := 0
  scrub : Option Word := none
  prstCause : BitVec 8 := 0
  prstState : BitVec 2 := 0
  mbLen : BitVec 16 := 0
  mbOp : BitVec 8 := 0
  mbRlen : BitVec 16 := 0
  mbResult : BitVec 8 := 0
  mbBusy : Bool := false
  mbuf : Mem := []
  ptroot : Tab Word := []
  lqcfg : Tab Word := []
  lqhead : Tab (BitVec 32) := []
  lqtail : Tab (BitVec 32) := []
  lqerr : Tab Word := []
  events : Tab Word := []
  seq : Tab (BitVec 32) := []
  children : Tab (List Child) := []
  childIdx : Tab (BitVec 32) := []
  accepted : List Launch := []
  /-- Launch queues (9 f + q) that wait on XLATE, with the address (R62, R395). -/
  fwait : Tab Nat := []
  /-- The translation entry of each launch queue, 9 f + q, and what its fetcher has read of a record (02 R57). -/
  qx : Tab HubX := []
  /-- Reports still to be written, by function, oldest first (15 R421). -/
  posts : Tab (List RepOut) := []
  rrLast : Tab Nat := []
  xbusy : Bool := false
  xerr : Bool := false
  invals : List Inval := []
  frcfg : Tab Word := []
  frhead : Tab (BitVec 32) := []
  frtail : Tab (BitVec 32) := []
  frdrop : Tab (BitVec 32) := []
  rcode : Tab Nat := []
  rbusy : Tab Bool := []
  savecfg : Word := 0
  slotsUsed : List Nat := []
  saved : Tab Saved := []
  nextSave : Nat := 1
  plimg : Word := 0
  plcode : Nat := 0
  plnfr : Nat := 0
  plbusy : Bool := false
  metcfg : Word := 0x8000000010000300
  stretch : BitVec 32 := 0
  leases : BitVec 16 := 0
  lrevoke : BitVec 16 := 0
  energy : Word := 0
  rascfg : Word := 0x8000000000000000
  /-- RASSTAT counters by number (21 R477). -/
  ras : Tab Nat := []
  /-- Device time at which the present patrol pass began, and what it has read: kind and address of PATROL_READ (21 R473, R477). -/
  ptick : Word := 0
  pseen : List (Nat × Nat) := []
  numVfs : Nat := 0
  vfen : Bool := false
  hdm : Bool := false
  mreg : Tab Line := []
  bootSvn : BitVec 32 := 0
  bootVer : Word := 0
  doe : List Byte := []
  spdm : Nat := 0
  deriving DecidableEq, Repr, Inhabited

/-- The hub. -/
structure Hub where
  parts : Tab Part := []
  partCode : Nat := 0
  partOf : Nat := 0
  overhead : Word := 0
  /-- Partition that each core last belonged to, plus one (01 R42). -/
  coreOwner : Tab Nat := []
  /-- Device-wide corrections, in the hub's own SRAM (21 R476). -/
  corrected : Nat := 0
  /-- Activities that have not been charged yet, by account: 0 to 3 the partitions, 4 OVERHEAD (22 R486; log 17). -/
  acts : Tab Nat := []
  deriving DecidableEq, Repr, Inhabited

/-- Device time and the spines (22 R478-R479, 23 R506). -/
structure Clk where
  dtime : Word := 0
  trim : BitVec 32 := 0
  offset : BitVec 32 := 0
  phase : Nat := 0
  load : Option Word := none
  ppscap : Word := 0
  ppsseq : BitVec 32 := 0
  ppslatched : BitVec 32 := 0
  /-- SPFREQ.MULT and CUR by spine; 76, and 92 for S7, where not listed. -/
  mult : Tab Nat := []
  cur : Tab Nat := []
  deriving DecidableEq, Repr, Inhabited

/-- Bring-up and security (23 R497-R505). -/
structure Sec where
  supply : Bool := true
  stage : BitVec 8 := 0
  code : BitVec 8 := 0
  ready : Bool := false
  nfail : Nat := 0
  failing : List Word := []
  /-- Fuses blown since shipment: revocation bits and SVN floors raised. -/
  revoked : BitVec 4 := 0
  floors : Tab (BitVec 32) := []
  /-- Flash slots written since shipment; the shipped contents where not listed. -/
  flash : Tab (List Byte) := []
  hubCopy : Option Nat := none
  ownerKeys : Tab (BitVec 256) := []
  powerUps : Nat := 0
  deriving DecidableEq, Repr, Inhabited

/-- Where the present action runs: core, element key, plane and slot. -/
structure Site where
  core : Nat := 0
  key : Nat := 0
  plane : Nat := 0
  slot : Nat := 0
  deriving DecidableEq, Repr, Inhabited

/-- The machine. agenda, turn and free are the model's own (log 1): the actions that come next, the number of actions taken
from Config.schedule, and the number of free values taken. resp is the last answer given to the host: a read's data. -/
structure State where
  site : Site := {}
  agenda : List Action := []
  turn : Nat := 0
  free : Nat := 0
  resp : List Word := []
  clk : Clk := {}
  sec : Sec := {}
  hub : Hub := {}
  mem : MemSys := {}
  fab : Fab := {}
  deriving DecidableEq, Repr, Inhabited

/-- The machine right after reset: every field at its default (23 R504; log 27). -/
def State.reset : State := {}

end Sys2Proof.Machine
end

