-- ==== Sys2Proof/Machine/Ops.lean ====
section
/-! DEFINITION. The named operations over the state: lifting a part's change to the machine, places of elements and
regions, registers with full and owed bits, events, fills, trap entry and return. -/

namespace Sys2Proof.Machine

/-- The outcome of a step. -/
abbrev Out := Host.Outcome State Fault Refusal

/-- A change of the fabric alone. -/
def onFab (s : State) (f : Fab → Fab) : Out := .next { s with fab := f s.fab }
/-- A change of the hub alone. -/
def onHub (s : State) (f : Hub → Hub) : Out := .next { s with hub := f s.hub }
/-- A change of the clocks alone. -/
def onClk (s : State) (f : Clk → Clk) : Out := .next { s with clk := f s.clk }
/-- A change of bring-up state alone. -/
def onSec (s : State) (f : Sec → Sec) : Out := .next { s with sec := f s.sec }
/-- A change of the memories alone. -/
def onMem (s : State) (f : MemSys → MemSys) : Out := .next { s with mem := f s.mem }

/-! ### Places (00 R7-R8, 01 R30, R36) -/

/-- Core of an element key. -/
def keyCore (key : Nat) : Nat := key / 100
/-- Core-local x of an element key. -/
def keyX (key : Nat) : Nat := key % 10
/-- Core-local y of an element key. -/
def keyY (key : Nat) : Nat := key % 100 / 10
/-- Device-wide element column. -/
def gx (key : Nat) : Nat := keyCore key % 8 * 10 + keyX key
/-- Device-wide element row. -/
def gy (key : Nat) : Nat := keyCore key / 8 * 10 + keyY key
/-- The key at a device-wide place. -/
def keyAt (x y : Nat) : Nat := 100 * (y / 10 * 8 + x / 10) + y % 10 * 10 + x % 10

/-- What stands at an element position (00 R5). -/
inductive EKind where
  | compute | memory | ag | core | config | round | linkHub
  deriving DecidableEq, Repr

/-- The kind of an element key (00 R5). -/
def kindOf (key : Nat) : EKind :=
  let x := keyX key
  let y := keyY key
  if 1 ≤ x ∧ x ≤ 8 then (if 1 ≤ y ∧ y ≤ 8 then .compute else .ag)
  else if 1 ≤ y ∧ y ≤ 8 then .memory
  else if x = 0 then (if y = 0 then .core else .round)
  else if y = 0 then .config else .linkHub

/-- Whether an element has plane spaces: compute tiles, memory tiles and AG nodes (01 R37). -/
def hasPlanes (key : Nat) : Bool :=
  match kindOf key with
  | .compute => true | .memory => true | .ag => true | _ => false

/-- Whether an element holds a firn tile (05 R129). -/
def hasFirn (key : Nat) : Bool :=
  match kindOf key with
  | .compute => true | .ag => true | _ => false

/-- Key of memory tile of local number t of a core (01 R30). -/
def mtKey (core t : Nat) : Nat := 100 * core + (t % 8 + 1) * 10 + (if t < 8 then 0 else 9)
/-- Key of AG node of local number n of a core (08 R211). -/
def agKey (core n : Nat) : Nat := 100 * core + (if n < 8 then 0 else 90) + (n % 8 + 1)
/-- Local number of a memory-tile key. -/
def mtLocal (key : Nat) : Nat := keyY key - 1 + (if keyX key = 0 then 0 else 8)
/-- Fabric die of a core (00 R7). -/
def dieOf (core : Nat) : Nat := core % 8 / 4 + 2 * (core / 32)

/-- The neighbour key in direction d (0 n, 1 e, 2 s, 3 w); none off the device. -/
def neighbour (key d : Nat) : Option Nat :=
  let x := gx key
  let y := gy key
  match d with
  | 0 => if y = 0 then none else some (keyAt x (y - 1))
  | 1 => if x = 79 then none else some (keyAt (x + 1) y)
  | 2 => if y = 79 then none else some (keyAt x (y + 1))
  | _ => if x = 0 then none else some (keyAt (x - 1) y)

/-- The direction a neighbour's token arrives from: the opposite one. -/
def opposite (d : Nat) : Nat := (d + 2) % 4

/-- Whether the link from key toward d crosses a die boundary (15 R435 DIE). -/
def crossesDie (key d : Nat) : Bool :=
  match neighbour key d with
  | none => false
  | some k => dieOf (keyCore k) != dieOf (keyCore key)

/-- Buffer slots per VC of the link toward d (07 R180). -/
def linkSlots (key d : Nat) : Nat := if crossesDie key d then 16 else 4

/-! ### Elements, planes, cores -/

/-- The element of a key. -/
def elemOf (f : Fab) (key : Nat) : Elem := tget {} f.elems key
/-- Changes an element. -/
def modElem (f : Fab) (key : Nat) (g : Elem → Elem) : Fab := { f with elems := tmod {} f.elems key g }
/-- A plane of an element. -/
def planeOf (e : Elem) (n : Nat) : Plane := tget {} e.planes n
/-- Changes a plane of an element. -/
def modPlane (e : Elem) (n : Nat) (g : Plane → Plane) : Elem := { e with planes := tmod {} e.planes n g }
/-- Changes the run state of a plane of an element. -/
def modRun (e : Elem) (n : Nat) (g : PRun → PRun) : Elem := modPlane e n fun p => { p with run := g p.run }
/-- A slot or stream of a plane has fired or issued: BRKSKIP is spent where it was for this one (R425). -/
def brkDone (p : Plane) (n : Nat) : Plane := if p.brkslot = n then { p with brkskip := false } else p
/-- The control core n. -/
def ccOf (f : Fab) (n : Nat) : CC := tget {} f.ccs n
/-- Changes a control core. -/
def modCc (f : Fab) (n : Nat) (g : CC → CC) : Fab := { f with ccs := tmod {} f.ccs n g }

/-- PLANECTL.DRIFT of a plane's frames, by element kind (R179, R219, R221, R222). -/
def planeCtl (key : Nat) (p : Plane) : Nat :=
  match kindOf key with
  | .compute => (tget 0 p.frames 8).toNat % 2 ^ 64
  | .memory => (tget 0 p.frames 4).toNat % 2 ^ 64
  | .ag => (tget 0 p.frames 24).toNat % 2 ^ 64
  | _ => 0

/-- PLANECTL.DRIFT. -/
def isDrift (key : Nat) (p : Plane) : Bool := bit (planeCtl key p) 4
/-- PLANECTL.FN. -/
def planeFn (key : Nat) (p : Plane) : Nat := fld (planeCtl key p) 5 5

/-! ### Regions (14) -/

/-- Whether a core lies in a region's rectangle. -/
def inRect (r : Region) (core : Nat) : Bool :=
  decide (r.x0 ≤ core % 8 ∧ core % 8 < r.x0 + r.w ∧ r.y0 ≤ core / 8 ∧ core / 8 < r.y0 + r.h)

/-- Cores of a region in row-major order (01 R30). -/
def regionCores (r : Region) : List Nat :=
  (List.range (r.w * r.h)).map fun i => (r.y0 + i / r.w) * 8 + r.x0 + i % r.w

/-- Element keys of a region, by region core number and then element number. -/
def regionKeys (r : Region) : List Nat := (regionCores r).flatMap fun c => (List.range 100).map fun e => 100 * c + e

/-- Elements of a region with planes. -/
def planeKeys (r : Region) : List Nat := (regionKeys r).filter hasPlanes

/-- The owner region of a core, with its number (01 R46). -/
def regionOf (f : Fab) (core : Nat) : Option (Nat × Region) :=
  f.regions.find? fun q => q.2.owner.isNone && inRect q.2 core

/-- Changes a region. -/
def modRegion (f : Fab) (rid : Nat) (g : Region → Region) : Fab :=
  { f with regions := f.regions.map fun q => if q.1 = rid then (q.1, g q.2) else q }

/-- A region by number. -/
def region? (f : Fab) (rid : Nat) : Option Region := (f.regions.find? fun q => q.1 == rid).map fun q => q.2

/-- A context of a region. -/
def ctxOf (r : Region) (n : Nat) : RCtx := tget {} r.ctxs n
/-- Changes a context of a region. -/
def modCtx (r : Region) (n : Nat) (g : RCtx → RCtx) : Region := { r with ctxs := tmod {} r.ctxs n g }

/-- The launch that a context belongs to: a drift launch in that plane, else the region's own (R405). -/
def launchOf (f : Fab) (rid n : Nat) (r : Region) : Nat × Region :=
  match f.regions.find? fun q => q.2.owner == some rid && q.2.plane == n with
  | some q => q
  | none => (rid, r)

/-- Fields of a launch record (R388): bits lo to lo + n - 1 of the record, byte 0 in bits [7:0]. -/
def recFld (l : Launch) (lo n : Nat) : Nat := fld l.lrec.toNat lo n

/-- CLASS of a launch. -/
def lClass (l : Launch) : Nat := recFld l 8 4
/-- ROUNDLEN of a launch. -/
def lRoundLen (l : Launch) : Nat := recFld l 192 32
/-- IMAGE of a launch. -/
def lImage (l : Launch) : Word := BitVec.ofNat 64 (recFld l 64 64)

/-- Region-relative place of a key: x, y (R8). -/
def relPlace (r : Region) (key : Nat) : Nat × Nat := (gx key - 10 * r.x0, gy key - 10 * r.y0)

/-- The key at a region-relative place; none outside the region (R8). -/
def relKey (r : Region) (x y : Nat) : Option Nat :=
  if x < 10 * r.w ∧ y < 10 * r.h then some (keyAt (10 * r.x0 + x) (10 * r.y0 + y)) else none

/-- The region core number of a core (R30). -/
def regionCoreNo (r : Region) (core : Nat) : Nat := (core / 8 - r.y0) * r.w + (core % 8 - r.x0)

/-- The core of a region core number. -/
def coreOfNo (r : Region) (q : Nat) : Nat := (r.y0 + q / r.w) * 8 + r.x0 + q % r.w

/-! ### Partitions -/

/-- A partition's share of the hub. -/
def partOf (h : Hub) (p : Nat) : Part := tget {} h.parts p
/-- Changes a partition's share of the hub. -/
def modPart (h : Hub) (p : Nat) (g : Part → Part) : Hub := { h with parts := tmod {} h.parts p g }

/-- Whether a partition is enabled, and running under PRST.STATE 2 is asked separately. -/
def partEn (p : Part) : Bool := bit p.cfg.toNat 63
/-- CGMASK (R40). -/
def cgMask (p : Part) : Nat := fld p.cfg.toNat 32 16
/-- VFCNT (R40). -/
def vfCnt (p : Part) : Nat := fld p.cfg.toNat 48 5

/-- Whether a core lies in a PART_CFG value's rectangle. -/
def inCfg (v : Word) (core : Nat) : Bool :=
  let c := v.toNat
  decide (fld c 0 3 ≤ core % 8 ∧ core % 8 ≤ fld c 0 3 + fld c 6 3 ∧ fld c 3 3 ≤ core / 8 ∧ core / 8 ≤ fld c 3 3 + fld c 9 3)

/-- The enabled partition that owns a core. -/
def corePart (h : Hub) (core : Nat) : Option Nat :=
  (List.range 4).find? fun p => partEn (partOf h p) && inCfg (partOf h p).cfg core

/-- Capacity of a region's injection bucket under its partition's METCFG (22 R482, R485). -/
def bucketCap (p : Part) (r : Region) : Nat := fld p.metcfg.toNat 16 16 * (r.w * r.h)

/-- The bucket of a region is full at bind and at restore (22 R482). -/
def fillBucket (s : State) (rid : Nat) : State :=
  { s with fab := modRegion s.fab rid fun r =>
      let c := bucketCap (partOf s.hub r.launch.part) r
      { r with bucket := c, bcap := c, bfill := s.clk.dtime.toNat / 16 } }

/-! ### Registers of a control core (09 R248) -/

/-- Whether a register is full; x0 always is. -/
def isFull (c : CC) (r : Nat) : Bool := r == 0 || c.full.getLsbD r
/-- Whether a register is owed a fill; x0 never is. -/
def isOwed (c : CC) (r : Nat) : Bool := r != 0 && c.owed.getLsbD r
/-- The value of a register; x0 reads zero. -/
def rget (c : CC) (r : Nat) : Word := if r = 0 then 0 else tget 0 c.x r
/-- Writes a register and makes it full; x0 discards the write. -/
def rset (c : CC) (r : Nat) (v : Word) : CC :=
  if r = 0 then c else { c with x := tput 0 c.x r v, full := c.full ||| (1#32 <<< r) }
/-- Empties a register and leaves its value; x0 stays full (R262). -/
def rclear (c : CC) (r : Nat) : CC := if r = 0 then c else { c with full := c.full &&& ~~~(1#32 <<< r) }
/-- Owes a fill to a register: empty and owed (R278). -/
def rowe (c : CC) (r : Nat) : CC :=
  if r = 0 then c else { c with full := c.full &&& ~~~(1#32 <<< r), owed := c.owed ||| (1#32 <<< r) }
/-- A fill lands: value, full, no longer owed, FILL set; a register that owes nothing takes nothing (R248, R306). -/
def rfill (c : CC) (r : Nat) (v : Word) : CC :=
  if isOwed c r then
    { rset c r v with owed := c.owed &&& ~~~(1#32 <<< r), evpend := c.evpend ||| 1, acq := if c.acq = some r then none else c.acq }
  else c
/-- The program counter moved past the instruction (R33). -/
def adv (c : CC) : CC := { c with pc := c.pc + 4 }

/-! ### Mode, events, traps (09 R265-R272) -/

/-- SUPOK (R265). -/
def ccSupok (c : CC) : Bool := c.tstat.getLsbD 5
/-- TA. -/
def ccTa (c : CC) : Bool := c.tstat.getLsbD 4
/-- PIE. -/
def ccPie (c : CC) : Bool := c.tstat.getLsbD 3
/-- IE. -/
def ccIe (c : CC) : Bool := c.tstat.getLsbD 2
/-- PMODE. -/
def ccPmode (c : CC) : Bool := c.tstat.getLsbD 1
/-- MODE: true for supervisor (R252). -/
def ccMode (c : CC) : Bool := c.tstat.getLsbD 0

/-- A tstat value from its fields. -/
def mkTstat (supok ta pie ie pmode mode : Bool) : BitVec 6 :=
  BitVec.ofNat 6 (32 * b2n supok + 16 * b2n ta + 8 * b2n pie + 4 * b2n ie + 2 * b2n pmode + b2n mode)

/-- Guarded access is refused: user mode with SUPOK (R252). -/
def guardedPriv (c : CC) : Bool := ccSupok c && !ccMode c

/-- Trap entry with TA clear (R271): tepc, tcause {KIND, CODE}, tval, PMODE, PIE, IE, TA, MODE and PC. -/
def trapEntry (c : CC) (kind code : Nat) (val : Word) (epc : BitVec 16) : CC :=
  { c with
    tepc := epc.setWidth 64
    tcause := BitVec.ofNat 64 (kind * 16384 + code)
    tval := val
    tstat := mkTstat (ccSupok c) true (ccIe c) false (ccMode c) (ccSupok c)
    pc := c.tvec.setWidth 16
    state := 0 }

/-- A trap while TA is set: the core halts with the second cause in ccstat; the first trap's registers stay (R271). -/
def doubleTrap (c : CC) (kind code : Nat) : CC :=
  { c with skind := BitVec.ofNat 2 kind, scode := BitVec.ofNat 8 code, state := 2 }

/-- Return from a trap (R272): PC, MODE, IE; TA cleared. MODE never rises above SUPOK. -/
def trapReturn (c : CC) : CC :=
  { c with
    pc := c.tepc.setWidth 16
    tstat := mkTstat (ccSupok c) false (ccPie c) (ccPie c) (ccPmode c) (ccPmode c && ccSupok c)
    state := 0 }

/-- Sets bits of evpend (R267). -/
def setEv (c : CC) (m : BitVec 6) : CC := { c with evpend := c.evpend ||| m }

/-- Sets an event in every control core of a region (R267, R421). -/
def regionEvent (f : Fab) (r : Region) (m : BitVec 6) : Fab :=
  (regionCores r).foldl (fun f c => modCc f c fun cc => setEv cc m) f

/-- Puts a reply on its way (R279); no reply register, no reply. -/
def sendFill (f : Fab) (core reg : Nat) (v : Word) : Fab :=
  if reg = 0 then f else { f with fills := f.fills ++ [(core, reg, v)] }

/-- A command of a core completes (R280). -/
def cmdDone (f : Fab) (core id : Nat) : Fab := modCc f core fun c => { c with outs := c.outs.filter fun o => o.id != id }

/-- A command completes with its reply. -/
def cmdReply (f : Fab) (core id reg : Nat) (v : Word) : Fab := sendFill (cmdDone f core id) core reg v

/-- Advances an event counter of a function by v (14 R387). -/
def addEvent (p : Part) (fn e : Nat) (v : Word) : Part :=
  { p with events := tput 0 p.events (64 * fn + e) (tget 0 p.events (64 * fn + e) + v) }

/-- The value 2^64 wait test: V satisfies W when (V - W) mod 2^64 < 2^63 (R387). -/
def evSat (v w : Word) : Bool := decide ((v - w).toNat < 2 ^ 63)

/-- A fault is raised for a context of the region of a core: it waits at the round controller (07 R204). A context that is not bound
gets a record for its report alone. -/
def raiseFault (f : Fab) (core ctx : Nat) (x : FaultRec) : Fab :=
  match regionOf f core with
  | none => f
  | some (rid, _) => modRegion f rid fun r =>
      if thas r.ctxs ctx then modCtx r ctx fun c => { c with faults := c.faults ++ [x] }
      else { r with ctxs := tins r.ctxs ctx { retired := true, faults := [x] } }

/-- Takes a free value's number: the counter advances (log 22). -/
def takeFree (s : State) : Nat × State := (s.free, { s with free := s.free + 1 })

/-- Journals a local-store line before its first write in a round of a context (R109, R110). -/
def lsJournal (c : CtSt) (ctx : Nat) (round : BitVec 32) (line : Nat) : CtSt :=
  if c.jr.any fun j => j.line == line && j.ctx == ctx && j.round == round then c
  else { c with jr := c.jr ++ [{ line := line, old := lineAt c.ls (64 * line), tag := 0, ctx := ctx, round := round }] }

/-- The plane of an element, or of its region where the element has none. -/
def planeHome (f : Fab) (key n : Nat) : Plane :=
  if hasPlanes key then planeOf (elemOf f key) n
  else match regionOf f (keyCore key) with
    | none => {}
    | some (_, r) => match (planeKeys r).head? with
      | some k => planeOf (elemOf f k) n
      | none => {}

/-- The configuration address of byte off of a frame (R36). -/
def cfgAddr (key space idx off : Nat) : Word := BitVec.ofNat 64 (key % 100 * 2 ^ 21 + space * 2 ^ 18 + idx * 32 + off)

/-- A word of a bound or retiring plane's route table fails its parity check at a switch (R472). -/
def badRoute (f : Fab) (key n : Nat) : Bool :=
  (elemOf f key).net.badRoutes.contains n && ((planeHome f key n).st == .bound || (planeHome f key n).st == .retiring)

end Sys2Proof.Machine
end

