-- ==== Sys2Proof/Machine/Memory.lean ====
section
/-! DEFINITION. Device memory with its line tags, host memory, page-table walks and the hub's own accesses (01 R21-R25,
02 R47-R62, 03 R73-R77, 15 R414). -/

namespace Sys2Proof.Machine

/-! ### Device physical space (R21, R22) -/

/-- Bytes of a channel group. -/
def groupBytes : Nat := 0x240000000
/-- Channel group of an HBM address. -/
def groupOf (pa : Nat) : Nat := pa / groupBytes
/-- Whether an address lies in HBM. -/
def inHbm (pa : Nat) : Bool := decide (pa < 16 * groupBytes)
/-- Whether an address lies in MMIO. -/
def inMmio (pa : Nat) : Bool := decide (0x7F0000000000 ≤ pa ∧ pa < 0x800000000000)
/-- Whether an address lies in the host window. -/
def inHost (pa : Nat) : Bool := decide (0x800000000000 ≤ pa ∧ pa < 0x1000000000000)
/-- Stack of an HBM address (R22). -/
def stackOf (pa : Nat) : Nat := groupOf pa / 4
/-- Channel of an HBM address within its group, from its group offset (R22). -/
def channelOf (pa : Nat) : Nat := Nat.xor (pa % groupBytes / 2 ^ 8 % 8) (pa % groupBytes / 2 ^ 14 % 8)
/-- Global channel number of an HBM address (R22). -/
def globalChannel (pa : Nat) : Nat := 8 * groupOf pa + channelOf pa
/-- The 64-byte line base of an address. -/
def lineBase (a : Nat) : Nat := a / 64 * 64

/-! ### Lines of device memory (R23, R73-R76, R414) -/

/-- What a device agent's access to an HBM line gives. -/
inductive HRes where
  | ok | prot | uncorr | poison
  deriving DecidableEq, Repr

/-- Tag FMT, SCALE of an HBM line. -/
def hbmTag (m : MemSys) (pa : Nat) : BitVec 16 := tget 0 m.tags (pa / 64)

/-- CHECK of an HBM line as it is stored (R73). -/
def hbmCheck (m : MemSys) (pa : Nat) : BitVec 16 := tget zeroCheck m.checks (pa / 64)

/-- What a read of an HBM line meets (R76, R78): a mismatch of CHECK, an error that ECC cannot correct, or a reserved FMT. -/
def hbmBad (m : MemSys) (pa : Nat) : Bool :=
  m.bad.contains (pa / 64) || decide (12 ≤ (hbmTag m pa).toNat % 256) || hbmCheck m pa != lineCheck (lineAt m.hbm (lineBase pa)) (hbmTag m pa)

/-- A device access to a line that the host may hold: the back-invalidate snoop is answered first (R489, log 19). -/
def snoopClear (m : MemSys) (pa : Nat) : MemSys :=
  { m with snoop := tput [] m.snoop (stackOf pa) ((tget [] m.snoop (stackOf pa)).filter fun l => l != pa / 64) }

/-- Adds a line to its stack's failed-line table of 32 entries, the oldest leaving a full one (R414). -/
def failedAdd (m : MemSys) (pa : Nat) : MemSys :=
  let t := tget [] m.failed (stackOf pa) ++ [pa / 64]
  { m with failed := tins m.failed (stackOf pa) (if 32 < t.length then t.drop 1 else t) }

/-- Removes a line from its stack's failed-line table. -/
def failedDel (m : MemSys) (pa : Nat) : MemSys :=
  { m with failed := tput [] m.failed (stackOf pa) ((tget [] m.failed (stackOf pa)).filter fun l => l != pa / 64) }

/-- Meets an uncorrectable error on a line (R76, R414): the first failure enters the table, the second sets POISON and is reported to function 0
of the owner. -/
def hbmFail (m : MemSys) (pa : Nat) : MemSys × HRes :=
  if (tget [] m.failed (stackOf pa)).contains (pa / 64) then
    ({ failedDel m pa with poison := (pa / 64) :: m.poison, lost := m.lost ++ [pa / 64] }, .poison)
  else (failedAdd m pa, .uncorr)

/-- A read of the line at pa by a device agent of partition part: owner, POISON, CHECK, in that order (R23, R76); a reserved FMT in the
tag reads as an uncorrectable error (R78). -/
def hbmRead (m : MemSys) (part pa : Nat) : MemSys × HRes × Line × BitVec 16 :=
  if tget 0xFF m.owner (groupOf pa) ≠ part then (m, .prot, 0, 0)
  else
    let m := snoopClear m pa
    if m.poison.contains (pa / 64) then (m, .poison, 0, 0)
    else if hbmBad m pa then
      let q := hbmFail m pa
      (q.1, q.2, 0, 0)
    else (m, .ok, lineAt m.hbm (lineBase pa), hbmTag m pa)

/-- Writes bytes of a line whose owner check has passed: POISON rules, tag, CHECK, failed-line table (R74, R414). -/
def hbmPut (m : MemSys) (pa mask : Nat) (data : Line) (tag : Option (BitVec 16)) : MemSys × HRes :=
  let full : Bool := mask == 2 ^ 64 - 1
  if m.poison.contains (pa / 64) && !full then (m, .poison)
  else
    let m := { m with hbm := mputMask m.hbm (lineBase pa) mask data.toNat 64 }
    let m := match tag with
      | some t => { m with tags := tput 0 m.tags (pa / 64) t }
      | none => m
    let m := { m with checks := tput zeroCheck m.checks (pa / 64) (lineCheck (lineAt m.hbm (lineBase pa)) (hbmTag m pa)) }
    if full then
      ({ failedDel m pa with poison := m.poison.filter fun l => l != pa / 64, bad := m.bad.filter fun l => l != pa / 64 }, .ok)
    else (m, .ok)

/-- A write of bytes of the line at pa by a device agent of partition part. -/
def hbmWrite (m : MemSys) (part pa mask : Nat) (data : Line) (tag : Option (BitVec 16)) : MemSys × HRes :=
  if tget 0xFF m.owner (groupOf pa) ≠ part then (m, .prot) else hbmPut (snoopClear m pa) pa mask data tag

/-! ### Page-table entries (R47-R52) -/

/-- V of an entry. -/
def pteV (e : Nat) : Bool := bit e 0
/-- T of an entry. -/
def pteT (e : Nat) : Bool := bit e 1
/-- RD, WR, AT, SUP, ROUTE, SPAN, ADDR of a leaf. -/
def pteRd (e : Nat) : Bool := bit e 2
/-- WR. -/
def pteWr (e : Nat) : Bool := bit e 3
/-- AT. -/
def pteAt (e : Nat) : Bool := bit e 4
/-- ROUTE. -/
def pteRoute (e : Nat) : Nat := fld e 5 2
/-- SUP. -/
def pteSup (e : Nat) : Bool := bit e 7
/-- SPAN. -/
def pteSpan (e : Nat) : Nat := fld e 10 2
/-- ADDR as a byte address. -/
def pteAddr (e : Nat) : Nat := fld e 12 36 * 4096

/-- Size of a leaf page as a power of two (R47). -/
def pageLg (level span : Nat) : Nat := 12 + 9 * level + (if span = 1 then 4 else 0)

/-- MMIO that a device agent of a partition may reach, by offset: the hub common block, whose device-time registers every agent may read (R506), its own
block and the windows of its cores (R26, R28, R52). -/
def mmioOk (h : Hub) (part off : Nat) : Bool :=
  if off < 0x1000000 then true
  else if 0x100000000 ≤ off ∧ off < 0x500000000 then off / 2 ^ 32 - 1 == part
  else if 0x1000000000 ≤ off ∧ off < 0x1000000000 + 64 * 0x20000000 then
    corePart h ((off - 0x1000000000) / 0x20000000) == some part
  else false

/-- Whether a channel group lies in a partition (R39). -/
def groupIn (h : Hub) (part g : Nat) : Bool := decide (g < 16) && bit (cgMask (partOf h part)) g

/-- A leaf against its ROUTE (R52): none when it may be used, else the PROT subcode. A page of HBM may reach into several channel
groups; the group of the address translated is the one that counts (R45). -/
def leafRoute (h : Hub) (part lg va e : Nat) : Option Nat :=
  let a := pteAddr e
  let z := a + 2 ^ lg - 1
  if pteRoute e = 0 then
    if inHbm a ∧ inHbm z then (if groupIn h part (groupOf (a + va % 2 ^ lg)) then none else some 10)
    else if inMmio a ∧ inMmio z then
      if !pteSup e then some 9
      else if mmioOk h part (a - 0x7F0000000000) && mmioOk h part (z - 0x7F0000000000) then none else some 10
    else some 9
  else if inHost a ∧ inHost z then none else some 9

/-- The translation information word (R61). -/
def tInfo (sub lvl fn va : Nat) : Word := BitVec.ofNat 64 (sub * 2 ^ 60 + lvl * 2 ^ 57 + fn * 2 ^ 52 + va % 2 ^ 52)

/-- How a walk ends (R60): a leaf, or a fault: its cause code (5 XLATE, 6 PROT, 11 UNCORR, 12 POISON), subcode (for the last two the
physical address of the entry) and level. -/
inductive WRes where
  | leaf (e : TEnt)
  | fault (cause sub lvl : Nat)
  deriving DecidableEq, Repr

/-- One level of a walk with the entry read (R49, R51, R60): the next table, or the end. -/
def walkEntry (h : Hub) (part fn va level e : Nat) : Nat ⊕ WRes :=
  if !pteV e then .inr (.fault 5 0 level)
  else if pteT e then
    if level = 0 ∨ fld e 2 10 ≠ 0 ∨ e / 2 ^ 48 ≠ 0 then .inr (.fault 6 2 level)
    else if !(inHbm (pteAddr e) && groupIn h part (groupOf (pteAddr e))) then .inr (.fault 6 4 level)
    else .inl (pteAddr e)
  else
    let lg := pageLg level (pteSpan e)
    if 3 ≤ level ∨ 2 ≤ pteSpan e ∨ pteRoute e = 3 ∨ e / 2 ^ 48 ≠ 0 ∨ fld e 8 2 ≠ 0 then .inr (.fault 6 2 level)
    else if pteAddr e % 2 ^ lg ≠ 0 then .inr (.fault 6 3 level)
    else match leafRoute h part lg va e with
      | some sub => .inr (.fault 6 sub level)
      | none => .inr (.leaf { part := part, fn := fn, va := va / 2 ^ lg * 2 ^ lg, lg := lg, leaf := BitVec.ofNat 64 e })

/-- Index of an address at a walk level (R47). -/
def walkIndex (va level : Nat) : Nat := if level = 4 then fld va 48 4 else fld va (12 + 9 * level) 9

/-- A table entry's cache record: its level in lg, the address range it serves from va (R58). -/
def tblEnt (part fn va level e : Nat) : TEnt :=
  let lg := 12 + 9 * level
  { part := part, fn := fn, va := va / 2 ^ lg * 2 ^ lg, lg := lg, leaf := BitVec.ofNat 64 e }

/-- Walks from a table at a level down; the fuel is the level plus one. Table entries come from the walker's cache where it holds
them; entries read are gathered for it (R58, R60). -/
def walkFrom (h : Hub) (cache : List TEnt) (part fn va : Nat) : Nat → MemSys → Nat → List TEnt → MemSys × WRes × List TEnt
  | 0, m, _, acc => (m, .fault 6 2 0, acc)
  | level + 1, m, table, acc =>
    let pa := table + 8 * walkIndex va level
    let key := tblEnt part fn va level 0
    let hit := cache.find? fun c => c.part == part && c.fn == fn && c.lg == key.lg && c.va == key.va
    let r : MemSys × HRes × Nat := match hit with
      | some c => (m, HRes.ok, c.leaf.toNat)
      | none =>
        let q := hbmRead m part pa
        (q.1, q.2.1, fld q.2.2.1.toNat (8 * (pa % 64)) 64)
    match r.2.1 with
    | .ok =>
      match walkEntry h part fn va level r.2.2 with
      | .inl t => walkFrom h cache part fn va level r.1 t (tblEnt part fn va level r.2.2 :: acc)
      | .inr w => (r.1, w, acc)
    | .prot => (r.1, .fault 6 11 level, acc)
    | .uncorr => (r.1, .fault 11 pa level, acc)
    | .poison => (r.1, .fault 12 pa level, acc)

/-- A whole walk (R51, R53, R60). -/
def walkVa (h : Hub) (cache : List TEnt) (m : MemSys) (part fn va : Nat) : MemSys × WRes × List TEnt :=
  let p := partOf h part
  let root := (tget 0 p.ptroot fn).toNat
  let base := fld root 7 41 * 128
  if !bit root 63 ∨ vfCnt p < fn then (m, .fault 6 12 7, [])
  else if !(inHbm base && groupIn h part (groupOf base)) then (m, .fault 6 4 7, [])
  else walkFrom h cache part fn va 5 m base []

/-! ### Walker caches (R58) -/

/-- The tag of a cached entry as a number: partition, function, page and page size (R58). -/
def entTag (e : TEnt) : Nat := ((e.part * 32 + e.fn) * 2 ^ 52 + e.va) * 64 + e.lg

/-- Drops the entry of a list that a free choice names. -/
def dropOne (l mates : List TEnt) (n : Nat) : List TEnt :=
  match mates[n % mates.length]? with
  | some v => l.filter fun x => entTag x != entTag v
  | none => l

/-- Puts a leaf into the leaf cache of 4096 entries, 8-way: the set by the tag, and which entry leaves a full set, are free (log 71). -/
def leafPut (die : Nat) (k : Walker) (e : TEnt) : Walker :=
  let l := k.leaves.filter fun x => entTag x != entTag e
  let set (x : TEnt) : Nat := Config.leafSet (entTag x) % 512
  let mates := if l.length < 8 then [] else l.filter fun x => set x == set e
  { k with leaves := e :: (if mates.length < 8 then l else dropOne l mates (Config.evict die k.ins)), ins := k.ins + 1 }

/-- Puts a table entry into the table-entry cache of 512 entries. -/
def tablePut (die : Nat) (k : Walker) (e : TEnt) : Walker :=
  let l := k.tables.filter fun x => entTag x != entTag e
  { k with tables := e :: (if l.length < 512 then l else dropOne l l (Config.evict die k.ins)), ins := k.ins + 1 }

/-- Whether a translation entry covers an address of a function (R54). -/
def tCovers (e : TEnt) (part fn va : Nat) : Bool :=
  e.part == part && e.fn == fn && decide (e.va ≤ va ∧ va < e.va + 2 ^ e.lg)

/-- The device physical address that an entry gives. -/
def tPa (e : TEnt) (va : Nat) : Nat := pteAddr e.leaf.toNat + (va - e.va)

/-- The address that a held leaf gives lies in a channel group of the partition, where the leaf maps HBM (R52): a page may reach into several
groups. -/
def leafGroup (h : Hub) (e : TEnt) (va : Nat) : Bool :=
  pteRoute e.leaf.toNat != 0 || !inHbm (tPa e va) || groupIn h e.part (groupOf (tPa e va))

/-- The check of an access to an address against its entry (R52, R54 step 3): kind 0 read, 1 write, 2 atomic; sup for a supervisor copy. -/
def tCheck (h : Hub) (e : TEnt) (va kind : Nat) (sup : Bool) : Option Nat :=
  let l := e.leaf.toNat
  if kind ≠ 1 ∧ !pteRd l then some 5
  else if kind ≠ 0 ∧ !pteWr l then some 6
  else if kind = 2 ∧ !pteAt l then some 7
  else if pteSup l ∧ !sup then some 8
  else if kind ≠ 1 ∧ pteRoute l = 2 then some 9
  else if !leafGroup h e va then some 10
  else none

/-- One walk by a die's walker (R58, R60): a leaf it holds, checked for the address's channel group (R52), or a walk of the tables, whose entries
and leaf its caches take. A cached entry on the path with an uncorrectable error is dropped first, and the walk made from memory (R471). -/
def walkerRun (h : Hub) (m : MemSys) (die part fn va : Nat) : MemSys × WRes :=
  let k := tget {} m.walkers die
  let k : Walker := { k with leaves := k.leaves.filter fun e => !(e.bad && tCovers e part fn va), tables := k.tables.filter fun e => !(e.bad && tCovers e part fn va) }
  let m := { m with walkers := tins m.walkers die k }
  match k.leaves.find? fun e => tCovers e part fn va with
  | some e => (m, if leafGroup h e va then .leaf e else .fault 6 10 ((e.lg - 12) / 9))
  | none =>
    let r := walkVa h k.tables m part fn va
    let k := r.2.2.foldr (fun t k => tablePut die k t) k
    let k := match r.2.1 with
      | .leaf e => leafPut die k e
      | .fault _ _ _ => k
    ({ r.1 with walkers := tins r.1.walkers die k }, r.2.1)

/-! ### Accesses by physical address and route -/

/-- A line read by a device agent through a leaf: HBM, or the host window; MMIO registers take no 64-byte access (R24, R25). -/
def lineRead (m : MemSys) (part pa : Nat) : MemSys × HRes × Line × BitVec 16 :=
  if inHbm pa then hbmRead m part pa
  else (m, .ok, lineAt m.host (lineBase pa - 0x800000000000), 0x7F00)

/-- A line write by a device agent through a leaf of the given route. -/
def lineWrite (m : MemSys) (part pa route mask : Nat) (data : Line) (tag : BitVec 16) : MemSys × HRes :=
  if inHbm pa then hbmWrite m part pa mask data (some tag)
  else if route = 2 then ({ m with peer := m.peer ++ [(lineBase pa - 0x800000000000, BitVec.ofNat 64 mask, data)] }, .ok)
  else ({ m with host := mputMask m.host (lineBase pa - 0x800000000000) mask data.toNat 64 }, .ok)

/-! ### Walk requests (R58, R59) -/

/-- Walks of a walker in flight (R58). -/
def walksOut (k : Walker) : Nat := k.queue.countP fun w => w.started && w.ans.isNone

/-- The request that a walker starts next (R59): the oldest of the deadline class; else the oldest of the next partition round-robin. -/
def walkNext (k : Walker) : Option Nat :=
  let idle (w : Walk) : Bool := !w.started && w.ans.isNone
  (k.queue.findIdx? fun w => idle w && w.dl).orElse fun _ =>
    ([1, 2, 3, 4].find? fun d => k.queue.any fun w => idle w && w.part == (k.rr + d) % 4).bind fun d =>
      k.queue.findIdx? fun w => idle w && w.part == (k.rr + d) % 4

/-- Starts the next walk while fewer than 64 are in flight (R58, R59). -/
def startWalk (k : Walker) : Walker :=
  if 64 ≤ walksOut k then k
  else match walkNext k with
  | none => k
  | some i => match k.queue[i]? with
    | none => k
    | some w => { k with queue := lmod k.queue i fun w => { w with started := true }, rr := if w.dl then k.rr else w.part }

/-- Starts walks until none may start. -/
def startWalks (k : Walker) : Walker := (List.range 64).foldl (fun k _ => startWalk k) k

/-- A request enters a walker's queue (R58). -/
def walkAsk (m : MemSys) (die : Nat) (w : Walk) : MemSys :=
  { m with walkers := tmod {} m.walkers die fun k => startWalk { k with queue := k.queue ++ [w] } }

/-- The place of a request in a walker's queue, by its requester. -/
def walkAt (m : MemSys) (die : Nat) (w : Walk) : Option Nat :=
  (tget {} m.walkers die).queue.findIdx? fun x => x.key == w.key && x.stream == w.stream && x.plane == w.plane

/-- Takes a request out of a walker's queue. -/
def walkDrop (m : MemSys) (die idx : Nat) : MemSys := { m with walkers := tmod {} m.walkers die fun k => { k with queue := k.queue.eraseIdx idx } }

/-- The hub's requests hold a key that no element has. -/
def hubKey : Nat := 10 ^ 9

/-- A request is one of the hub's (R58). -/
def hubWalk (w : Walk) : Bool := w.stream == 9

/-- A walk request of the hub. -/
def hubReq (part fn va : Nat) : Walk := { key := hubKey, stream := 9, plane := 0, part := part, fn := fn, va := va }

/-- The walker of FD0 has one of its 64 places for the hub free (R58). -/
def hubPlace (m : MemSys) : Bool := decide ((tget {} m.walkers 0).queue.countP hubWalk < 64)

/-! ### The hub's accesses (R57, R421; log 31) -/

/-- The result of a hub access through a function's tables: done, a cause with its information word, or the wait for a walk. -/
inductive HubRes where
  | ok (line : Line)
  | fault (cause : Nat) (info : Word)
  /-- It waits for a walk. -/
  | wait
  deriving DecidableEq, Repr

/-- A memory-node result as a cause code (R203). -/
def hresCause : HRes → Nat
  | .ok => 0
  | .prot => 6
  | .uncorr => 11
  | .poison => 12

/-- The information word of a walk's fault for an access kind (R61, R420). -/
def walkInfo (c sub lvl fn va kind : Nat) : Word :=
  if 11 ≤ c then BitVec.ofNat 64 sub else tInfo (if c = 5 then kind else sub) lvl fn va

/-- What translating an address for the hub gives. -/
inductive HubAns where
  | ok (e : TEnt)
  | fault (cause : Nat) (info : Word)
  | wait
  deriving DecidableEq, Repr

/-- Translates one address for the hub through the entry that it holds, or asks the walker of FD0 for a walk and waits for its answer (R57, R58). -/
def hubXlate (h : Hub) (m : MemSys) (x : HubX) (part fn va kind : Nat) : MemSys × HubX × HubAns :=
  if 2 ^ 52 ≤ va then (m, x, .fault 6 (tInfo 1 7 fn va))
  else match x.tent.filter fun e => tCovers e part fn va with
  | some e => (m, x, match tCheck h e va kind false with
    | some sub => .fault 6 (tInfo sub 7 fn va)
    | none => .ok e)
  | none => match x.bad.filter fun b => b.1 == (fn, va) with
    | some b => (m, { x with bad := none }, .fault b.2.1 (walkInfo b.2.1 b.2.2.1 b.2.2.2 fn va kind))
    | none =>
      if x.out.isSome ∨ !hubPlace m then (m, x, .wait)
      else (walkAsk m 0 (hubReq part fn va), { x with out := some (fn, va) }, .wait)

/-- The answer of a walk reaches what the hub does at that address. -/
def hubTake (w : Walk) (a : TEnt ⊕ (Nat × Nat × Nat)) (x : HubX) : HubX :=
  if x.out ≠ some (w.fn, w.va) then x
  else match a with
  | .inl e => { x with out := none, tent := some e }
  | .inr c => { x with out := none, bad := some ((w.fn, w.va), c) }

/-- Reads the line that an entry gives for a virtual address. -/
def hubLine (m : MemSys) (e : TEnt) (part fn va : Nat) : MemSys × HubRes :=
  let r := lineRead m part (tPa e va)
  match r.2.1 with
  | .ok => (r.1, .ok r.2.2.1)
  | .prot => (r.1, .fault 6 (tInfo 11 7 fn va))
  | x => (r.1, .fault (hresCause x) (BitVec.ofNat 64 (tPa e va)))

/-- Reads the line at a virtual address for the hub, unless it has been read already for the same purpose. -/
def hubRead (h : Hub) (m : MemSys) (x : HubX) (part fn va : Nat) : MemSys × HubX × HubRes :=
  match x.lines.find? fun q => q.1 == (fn, va / 64) with
  | some q => (m, x, .ok q.2)
  | none =>
    let q := hubXlate h m x part fn va 0
    match q.2.2 with
    | .wait => (q.1, q.2.1, .wait)
    | .fault c i => (q.1, q.2.1, .fault c i)
    | .ok e =>
      let r := hubLine q.1 e part fn va
      match r.2 with
      | .ok d => (r.1, { q.2.1 with lines := ((fn, va / 64), d) :: q.2.1.lines }, .ok d)
      | z => (r.1, q.2.1, z)

/-- Writes a whole line at a virtual address for the hub, with tag FMT 0x00 and SCALE 0x7F (R421); a peer's page takes none, since only held stores
and copies go to a peer (R508; log 79). -/
def hubWrite (h : Hub) (m : MemSys) (x : HubX) (part fn va : Nat) (data : Line) : MemSys × HubX × HubRes :=
  let q := hubXlate h m x part fn va 1
  match q.2.2 with
  | .wait => (q.1, q.2.1, .wait)
  | .fault c i => (q.1, q.2.1, .fault c i)
  | .ok e =>
    if pteRoute e.leaf.toNat = 2 then (q.1, q.2.1, .fault 6 (tInfo 9 7 fn va))
    else
      let r := lineWrite q.1 part (tPa e va) (pteRoute e.leaf.toNat) (2 ^ 64 - 1) data 0x7F00
      match r.2 with
      | .ok => (r.1, q.2.1, .ok 0)
      | .prot => (r.1, q.2.1, .fault 6 (tInfo 11 7 fn va))
      | z => (r.1, q.2.1, .fault (hresCause z) (BitVec.ofNat 64 (tPa e va)))

/-- Reads n lines from a virtual address for the hub, as one number with the first byte lowest. -/
def hubReadN (h : Hub) (part fn : Nat) : Nat → MemSys → HubX → Nat → MemSys × HubX × (Nat ⊕ HubRes)
  | 0, m, x, _ => (m, x, .inl 0)
  | n + 1, m, x, va =>
    let q := hubRead h m x part fn va
    match q.2.2 with
    | .ok d =>
      let r := hubReadN h part fn n q.1 q.2.1 (va + 64)
      match r.2.2 with
      | .inl v => (r.1, r.2.1, .inl (d.toNat + 2 ^ 512 * v))
      | .inr e => (r.1, r.2.1, .inr e)
    | z => (q.1, q.2.1, .inr z)

end Sys2Proof.Machine
end

