-- ==== Sys2Proof/Machine/Report.lean ====
section
/-! DEFINITION. Fault reports: their words and the fault ring (15 R419-R422). -/

namespace Sys2Proof.Machine

/-- What a report says of its fault besides the context (R419): cause, effect, place and information. -/
structure Rep where
  cause : Nat
  effect : Nat
  more : Nat := 0
  both : Bool := false
  key : Option Nat := none
  slot : Option Nat := none
  qsel : Option Nat := none
  stream : Option Nat := none
  round : BitVec 32 := 0
  info0 : Word := 0
  info1 : Word := 0
  deriving DecidableEq, Repr

/-- IMAGEID of the image in a plane of a region (R419 word 7); of a plane that is being loaded, that of the header which the load has read (R214). -/
def imageIdOf (f : Fab) (r : Region) (n : Nat) : Word :=
  match f.loads.find? fun l => l.plane == n && l.k != 0 && decide (l.x0 = r.x0 ∧ l.y0 = r.y0 ∧ l.w = r.w ∧ l.h = r.h) with
  | some l => l.imageid
  | none => match ((planeKeys r).find? fun k => (planeOf (elemOf f k) n).img.isSome).bind fun k => (planeOf (elemOf f k) n).img with
  | some i => i.imageid
  | none => 0

/-- The 64 bytes of a report (R419). -/
def repLine (part fn seq ctx : Nat) (drift : Bool) (x y : Nat) (iv imageid dtime : Word) (p : Rep) : Line :=
  let opt (o : Option Nat) : Nat := o.getD 0
  let w0 := 2 ^ 63 + p.cause % 256 * 2 ^ 48 + p.effect * 2 ^ 45 + ctx % 4 * 2 ^ 43 + b2n drift * 2 ^ 42 + fn % 32 * 2 ^ 37 +
    part % 4 * 2 ^ 35 + min p.more 0xFFFF * 2 ^ 16
  let w1 := x % 128 * 2 ^ 57 + y % 128 * 2 ^ 50 + opt p.slot % 16 * 2 ^ 46 + b2n p.slot.isSome * 2 ^ 45 + opt p.qsel % 256 * 2 ^ 37 +
    b2n p.qsel.isSome * 2 ^ 36 + opt p.stream % 8 * 2 ^ 33 + b2n p.stream.isSome * 2 ^ 32 + seq % 2 ^ 32
  let w3 := p.round.toNat * 2 ^ 32 + b2n p.both * 2 ^ 31
  BitVec.ofNat 512 (packWords [w0, w1, iv.toNat, w3, p.info0.toNat, p.info1.toNat, dtime.toNat, imageid.toNat])
where
  /-- 64-bit words side by side, the first lowest. -/
  packWords : List Nat → Nat
    | [] => 0
    | x :: r => x % 2 ^ 64 + 2 ^ 64 * packWords r

/-- Adds 1 to DROPS, saturating (R422). -/
def dropReport (h : Hub) (part fn : Nat) : Hub :=
  modPart h part fun q =>
    let d := tget 0 q.frdrop fn
    { q with frdrop := tput 0 q.frdrop fn (if d = 0xFFFFFFFF then d else d + 1) }

/-- The reports of a function that the hub has still to write. -/
def setPosts (h : Hub) (part fn : Nat) (l : List RepOut) : Hub := modPart h part fun q => { q with posts := tput [] q.posts fn l }

/-- The hub has done with a report: every control core of its region sees RFAULT (R421). -/
def repDone (s : State) (rid : Option Nat) : State := match rid.bind fun n => region? s.fab n with
  | none => s
  | some r => { s with fab := regionEvent s.fab r 32 }

/-- The hub's turn at the oldest report of a function: it is dropped, or written at TAIL, which then advances, or it waits for its translation
(R421, R422). -/
def postNext (s : State) (part fn : Nat) : State :=
  let q := partOf s.hub part
  let cfg := (tget 0 q.frcfg fn).toNat
  let n := 2 ^ fld cfg 52 4
  let tail := tget 0 q.frtail fn
  match tget [] q.posts fn with
  | [] => s
  | p :: rest =>
    let go (m : MemSys) (h : Hub) : State := repDone { s with mem := m, hub := setPosts h part fn rest } p.rid
    if !bit cfg 63 ∨ (tail - tget 0 q.frhead fn).toNat = n then go s.mem (dropReport s.hub part fn)
    else
      let r := hubWrite s.hub s.mem p.x part fn (fld cfg 6 46 * 64 + 64 * (tail.toNat % n)) p.line
      match r.2.2 with
      | .wait => { s with mem := r.1, hub := setPosts s.hub part fn ({ p with x := r.2.1 } :: rest) }
      | .fault _ _ => go r.1 (dropReport s.hub part fn)
      | .ok _ => go r.1 (modPart s.hub part fun q => { q with frtail := tput 0 q.frtail fn (tail + 1) })

/-- The hub's turn at the reports of a function. -/
def postRun (s : State) (part fn : Nat) : State := (tget [] (partOf s.hub part).posts fn).foldl (fun s _ => postNext s part fn) s

/-- Posts a report line for a function, with the region whose cores see RFAULT (R421). -/
def postLine (s : State) (part fn : Nat) (rid : Option Nat) (line : Line) : State :=
  postRun { s with hub := setPosts s.hub part fn (tget [] (partOf s.hub part).posts fn ++ [{ line := line, rid := rid }]) } part fn

/-- A report for function 0 of the partition that owns a line whose second failure set POISON (R76, R414, R473). -/
def poisonReport (s : State) (part pa : Nat) : State :=
  postLine s part 0 none (repLine part 0 0 0 false 0 0 0 0 s.clk.dtime { cause := 0x0C, effect := 4, info0 := BitVec.ofNat 64 pa })

/-- Posts the reports of the lines whose second failure some requester has met (R76). -/
def poisonPost (s : State) : State :=
  s.mem.lost.foldl (fun s l => poisonReport s (tget 0xFF s.mem.owner (groupOf (64 * l))) (64 * l)) { s with mem := { s.mem with lost := [] } }

/-- Posts a report for a context of the region of a core; every control core of the region then sees RFAULT (R421). The rounds'
iteration vector is that of the round named. -/
def postReport (s : State) (core ctx : Nat) (p : Rep) : State :=
  match regionOf s.fab core with
  | none => s
  | some (rid, r) =>
    let l := (launchOf s.fab rid ctx r).2
    let c := ctxOf r ctx
    let iv := ((c.ivs.find? fun q => q.1 == p.round).map fun q => q.2).getD 0
    let xy := match p.key with
      | some k => relPlace r k
      | none => (0, 0)
    let line := repLine l.launch.part l.launch.fn l.launch.seq.toNat ctx l.owner.isSome xy.1 xy.2 iv (imageIdOf s.fab r ctx) s.clk.dtime p
    postLine s l.launch.part l.launch.fn (some rid) line

/-- The report of a context's fault (R419, R420). -/
def repOf (x : FaultRec) (effect more : Nat) (both : Bool) : Rep :=
  { cause := x.cause, effect := effect, more := more, both := both, key := some x.key, slot := x.slot, qsel := x.qsel,
    stream := x.stream, round := x.round, info0 := x.info0, info1 := x.info1 }

/-- The halt report of a control core (R271, R420): CAUSE is the second trap's code when that trap is a fault, else 0. -/
def haltReport (s : State) (core : Nat) : State :=
  match regionOf s.fab core with
  | none => s
  | some (_, r) =>
    let c := ccOf s.fab core
    postReport s core r.plane
      { cause := if c.skind = 0 then c.scode.toNat else 0, effect := 5, key := some (100 * core), info0 := c.tepc
        info1 := BitVec.ofNat 64 (c.skind.toNat * 2 ^ 16 + c.scode.toNat * 2 ^ 8 + c.state.toNat) }

end Sys2Proof.Machine
end

