-- ==== Sys2Proof/Machine/Operands.lean ====
section
/-! DEFINITION. How a control-core instruction reads its sources, waits, completes and traps (08 R209, R212; 09 R249-R251). -/

namespace Sys2Proof.Machine

/-- How an instruction of a control core ends: it completes in a state, waits, traps (R251), or reads a word that is lost, with the fault that this
raises (21 R471). -/
inductive CRes where
  | done (s : State)
  | wait
  | lost (s : State)
  | trap (kind code : Nat) (val : Word)
  deriving DecidableEq, Repr

/-- The control core of the present site. -/
def cc (s : State) : CC := ccOf s.fab s.site.core

/-- Replaces the control core of the present site. -/
def setCc (s : State) (c : CC) : State := { s with fab := { s.fab with ccs := tins s.fab.ccs s.site.core c } }

/-- A source field is marked by its w bit. -/
def wbit (w : BitVec 1) : Bool := w == 1

/-- The source check of R249: a marked empty source traps with EMPTYREG, an unmarked one waits. -/
def srcCheck (c : CC) (srcs : List (Nat × Bool)) (k : CRes) : CRes :=
  match srcs.find? fun p => p.2 && !isFull c p.1 with
  | some p => .trap 0 2 (BitVec.ofNat 64 p.1)
  | none => if srcs.any fun p => !isFull c p.1 then .wait else k

/-- Waits while the destination is owed, then completes with the core changed (R250). -/
def toDest (s : State) (c : CC) (d : Nat) (c' : CC) : CRes := if isOwed c d then .wait else .done (setCc s c')

/-- The control-core cycles a step takes: at least one, the rest free (R251, log 5). -/
def ccTick (free : Nat) (c : CC) : CC := { c with cycle := c.cycle + 1 + BitVec.ofNat 64 (Config.extraCycles free) }

/-- The state after a completed instruction: instret and cycle count, the core runs (R264, R273). -/
def ccDone (s : State) : State :=
  let c := cc s
  { setCc s { ccTick s.free c with instret := c.instret + 1, state := 0 } with free := s.free + 1 }

/-- The state of a core that waits: nothing but its run state and the cycle count changes (R251, R273). -/
def ccWait (s : State) : State :=
  { setCc s { ccTick s.free (cc s) with state := 1 } with free := s.free + 1 }

/-- The state after a trap, or after the halt of a second trap (R271). -/
def ccTrap (s : State) (kind code : Nat) (val : Word) (epc : BitVec 16) : State :=
  let c := ccTick s.free (cc s)
  if ccTa c then haltReport { setCc s (doubleTrap c kind code) with free := s.free + 1 } s.site.core
  else { setCc s (trapEntry c kind code val epc) with free := s.free + 1 }

/-- Ends an instruction of the control core at the present site (R251). -/
def ccFinish (s : State) (r : CRes) : Out :=
  match r with
  | .done t => .next (ccDone t)
  | .wait => .next (ccWait s)
  | .lost t => .next (ccWait t)
  | .trap kind code val => .next (ccTrap s kind code val (cc s).pc)

/-- An uncorrectable error in a word that a control core reads is UNCORR of the round that the core has entered in its region's lowest owner context,
once while it waits there (21 R471; log 29). -/
def coreUncorr (f : Fab) (core : Nat) : Fab :=
  match regionOf f core with
  | none => f
  | some (_, r) => match r.ctxs.find? fun c => !c.2.retired && !c.2.drift with
    | none => f
    | some (n, c) =>
      if c.faults.any fun x => x.cause == 0x0B && x.key == 100 * core then f
      else raiseFault f core n { cause := 0x0B, key := 100 * core, round := tget 0 (ccOf f core).rounds n, info1 := 3 }

/-- Words of a control core's data SRAM that n bytes from an address touch, as its error marks name them. -/
def dsramWords (a n : Nat) : List Nat := (List.range ((a + n + 7) / 8 - a / 8)).map fun i => 2 ^ 32 + a / 8 + i

/-- A read of n bytes of the data SRAM: an uncorrectable word among them is a fault, and the instruction makes no change (21 R471). -/
def sramRead (s : State) (a n : Nat) (k : Nat → CRes) : CRes :=
  if (cc s).bad.any fun w => (dsramWords a n).contains w then .lost { s with fab := coreUncorr s.fab s.site.core }
  else k (mgetN (cc s).dsram a n)

/-- The core after a write of n bytes of its data SRAM: a word written whole is good again. -/
def sramWrite (c : CC) (a n v : Nat) : CC :=
  { c with dsram := mputN c.dsram a n v, bad := c.bad.filter fun w => !(decide (8 ≤ n) && (dsramWords a n).contains w) }

/-- Sign-extends the low bits of a field to 64 bits. -/
def sx {n : Nat} (i : BitVec n) : Word := i.signExtend 64

/-- An instruction word's command fields, for tval (R266, R278). -/
def cmdWord (r a : BitVec 5) (p : BitVec 1) (eng cmd : Nat) : Word :=
  BitVec.ofNat 64 (0x38 * 2 ^ 26 + r.toNat * 2 ^ 21 + a.toNat * 2 ^ 16 + p.toNat * 2 ^ 15 + eng * 512 + cmd)

end Sys2Proof.Machine
end

