-- ==== Sys2Proof/Machine/CoreInt.lean ====
section
/-! DEFINITION. Integer and logic instructions of the control core (09 R253-R257). -/

namespace Sys2Proof.Machine

/-- sext32 of the low 32 bits (R253). -/
def sext32 (v : Word) : Word := (v.setWidth 32).signExtend 64

/-- A register-register form: both sources are read, the result goes to xd, the PC moves on (R249, R253). -/
def ccAlu (s : State) (d a b : BitVec 5) (p q : BitVec 1) (f : Word → Word → Word) : Out :=
  let c := cc s
  ccFinish s (srcCheck c [(a.toNat, wbit p), (b.toNat, wbit q)]
    (toDest s c d.toNat (adv (rset c d.toNat (f (rget c a.toNat) (rget c b.toNat))))))

/-- A unary or immediate form: one source (R253, R255, R256). -/
def ccAlu1 (s : State) (d a : BitVec 5) (p : BitVec 1) (f : Word → Word) : Out :=
  let c := cc s
  ccFinish s (srcCheck c [(a.toNat, wbit p)] (toDest s c d.toNat (adv (rset c d.toNat (f (rget c a.toNat))))))

/-- A form with no source (R257). -/
def ccAlu0 (s : State) (d : BitVec 5) (v : Word) : Out :=
  let c := cc s
  ccFinish s (toDest s c d.toNat (adv (rset c d.toNat v)))

/-- A Bool as a 64-bit number. -/
def ofBool64 (b : Bool) : Word := if b then 1 else 0

/-- Signed quotient (R254). -/
def divS (x y : Word) : Word :=
  if y = 0 then BitVec.allOnes 64 else BitVec.ofInt 64 (x.toInt.tdiv y.toInt)
/-- Unsigned quotient (R254). -/
def divU (x y : Word) : Word := if y = 0 then BitVec.allOnes 64 else BitVec.ofNat 64 (x.toNat / y.toNat)
/-- Signed remainder (R254). -/
def remS (x y : Word) : Word := if y = 0 then x else BitVec.ofInt 64 (x.toInt.tmod y.toInt)
/-- Unsigned remainder (R254). -/
def remU (x y : Word) : Word := if y = 0 then x else BitVec.ofNat 64 (x.toNat % y.toNat)
/-- High half of a product (R253). -/
def hiMul (x y : Int) : Word := BitVec.ofInt 64 (x * y / 2 ^ 64)
/-- Number of leading zeros (R253). -/
def clz64 (v : Word) : Word := BitVec.ofNat 64 (if v = 0 then 64 else 63 - Nat.log2 v.toNat)
/-- Number of trailing zeros (R253). -/
def ctz64 (v : Word) : Word := BitVec.ofNat 64 ((firstBit v.toNat 64).getD 64)
/-- Number of ones (R253). -/
def popc64 (v : Word) : Word := BitVec.ofNat 64 ((List.range 64).countP fun i => bit v.toNat i)
/-- Bytes reversed (R253). -/
def bswap64 (v : Word) : Word := BitVec.ofNat 64 (bytesNat (natBytes 8 v.toNat).reverse)
/-- The low six bits as a shift amount. -/
def sh6 (v : Word) : Nat := v.toNat % 64
/-- The low five bits as a shift amount. -/
def sh5 (v : Word) : Nat := v.toNat % 32
/-- Arithmetic shift of the low 32 bits, sign-extended (R253). -/
def sraw32 (v : Word) (n : Nat) : Word := ((v.setWidth 32).sshiftRight n).signExtend 64
/-- Logical shift of the low 32 bits, sign-extended (R253). -/
def srlw32 (v : Word) (n : Nat) : Word := ((v.setWidth 32) >>> n).signExtend 64

/-- add: A + B (R253). -/
def execAdd (d a b : BitVec 5) (p q : BitVec 1) (s : State) : Out := ccAlu s d a b p q fun x y => x + y

/-- sub: A - B (R253). -/
def execSub (d a b : BitVec 5) (p q : BitVec 1) (s : State) : Out := ccAlu s d a b p q fun x y => x - y

/-- and: A and B (R253). -/
def execAnd (d a b : BitVec 5) (p q : BitVec 1) (s : State) : Out := ccAlu s d a b p q fun x y => x &&& y

/-- or: A or B (R253). -/
def execOr (d a b : BitVec 5) (p q : BitVec 1) (s : State) : Out := ccAlu s d a b p q fun x y => x ||| y

/-- xor: A xor B (R253). -/
def execXor (d a b : BitVec 5) (p q : BitVec 1) (s : State) : Out := ccAlu s d a b p q fun x y => x ^^^ y

/-- sll: A << B[5:0] (R253). -/
def execSll (d a b : BitVec 5) (p q : BitVec 1) (s : State) : Out := ccAlu s d a b p q fun x y => x <<< sh6 y

/-- srl: A >> B[5:0] (R253). -/
def execSrl (d a b : BitVec 5) (p q : BitVec 1) (s : State) : Out := ccAlu s d a b p q fun x y => x >>> sh6 y

/-- sra: A >> B[5:0], arithmetic (R253). -/
def execSra (d a b : BitVec 5) (p q : BitVec 1) (s : State) : Out := ccAlu s d a b p q fun x y => x.sshiftRight (sh6 y)

/-- slt: A < B signed (R253). -/
def execSlt (d a b : BitVec 5) (p q : BitVec 1) (s : State) : Out := ccAlu s d a b p q fun x y => ofBool64 (x.slt y)

/-- sltu: A < B unsigned (R253). -/
def execSltu (d a b : BitVec 5) (p q : BitVec 1) (s : State) : Out := ccAlu s d a b p q fun x y => ofBool64 (x.ult y)

/-- min: signed minimum (R253). -/
def execMin (d a b : BitVec 5) (p q : BitVec 1) (s : State) : Out := ccAlu s d a b p q fun x y => if x.slt y then x else y

/-- max: signed maximum (R253). -/
def execMax (d a b : BitVec 5) (p q : BitVec 1) (s : State) : Out := ccAlu s d a b p q fun x y => if x.slt y then y else x

/-- minu: unsigned minimum (R253). -/
def execMinu (d a b : BitVec 5) (p q : BitVec 1) (s : State) : Out := ccAlu s d a b p q fun x y => if x.ult y then x else y

/-- maxu: unsigned maximum (R253). -/
def execMaxu (d a b : BitVec 5) (p q : BitVec 1) (s : State) : Out := ccAlu s d a b p q fun x y => if x.ult y then y else x

/-- addw: sext32(A + B) (R253). -/
def execAddw (d a b : BitVec 5) (p q : BitVec 1) (s : State) : Out := ccAlu s d a b p q fun x y => sext32 (x + y)

/-- subw: sext32(A - B) (R253). -/
def execSubw (d a b : BitVec 5) (p q : BitVec 1) (s : State) : Out := ccAlu s d a b p q fun x y => sext32 (x - y)

/-- sllw: sext32(A << B[4:0]) (R253). -/
def execSllw (d a b : BitVec 5) (p q : BitVec 1) (s : State) : Out := ccAlu s d a b p q fun x y => sext32 (x <<< sh5 y)

/-- srlw: sext32(A[31:0] >> B[4:0]) (R253). -/
def execSrlw (d a b : BitVec 5) (p q : BitVec 1) (s : State) : Out := ccAlu s d a b p q fun x y => srlw32 x (sh5 y)

/-- sraw: sext32(A[31:0] >> B[4:0]), arithmetic (R253). -/
def execSraw (d a b : BitVec 5) (p q : BitVec 1) (s : State) : Out := ccAlu s d a b p q fun x y => sraw32 x (sh5 y)

/-- mul: low half of the product (R253). -/
def execMul (d a b : BitVec 5) (p q : BitVec 1) (s : State) : Out := ccAlu s d a b p q fun x y => x * y

/-- mulh: high half, both signed (R253). -/
def execMulh (d a b : BitVec 5) (p q : BitVec 1) (s : State) : Out := ccAlu s d a b p q fun x y => hiMul x.toInt y.toInt

/-- mulhu: high half, both unsigned (R253). -/
def execMulhu (d a b : BitVec 5) (p q : BitVec 1) (s : State) : Out := ccAlu s d a b p q fun x y => hiMul x.toNat y.toNat

/-- mulhsu: high half, A signed, B unsigned (R253). -/
def execMulhsu (d a b : BitVec 5) (p q : BitVec 1) (s : State) : Out := ccAlu s d a b p q fun x y => hiMul x.toInt y.toNat

/-- div: signed quotient (R254) (R253). -/
def execDiv (d a b : BitVec 5) (p q : BitVec 1) (s : State) : Out := ccAlu s d a b p q fun x y => divS x y

/-- divu: unsigned quotient (R254) (R253). -/
def execDivu (d a b : BitVec 5) (p q : BitVec 1) (s : State) : Out := ccAlu s d a b p q fun x y => divU x y

/-- rem: signed remainder (R254) (R253). -/
def execRem (d a b : BitVec 5) (p q : BitVec 1) (s : State) : Out := ccAlu s d a b p q fun x y => remS x y

/-- remu: unsigned remainder (R254) (R253). -/
def execRemu (d a b : BitVec 5) (p q : BitVec 1) (s : State) : Out := ccAlu s d a b p q fun x y => remU x y

/-- clz: leading zeros of A; b is not read (R253). -/
def execClz (d a _b : BitVec 5) (p _q : BitVec 1) (s : State) : Out := ccAlu1 s d a p fun x => clz64 x

/-- ctz: trailing zeros of A; b is not read (R253). -/
def execCtz (d a _b : BitVec 5) (p _q : BitVec 1) (s : State) : Out := ccAlu1 s d a p fun x => ctz64 x

/-- popc: one bits of A; b is not read (R253). -/
def execPopc (d a _b : BitVec 5) (p _q : BitVec 1) (s : State) : Out := ccAlu1 s d a p fun x => popc64 x

/-- bswap: A with its bytes reversed; b is not read (R253). -/
def execBswap (d a _b : BitVec 5) (p _q : BitVec 1) (s : State) : Out := ccAlu1 s d a p fun x => bswap64 x

/-- addi: A + I (R255). -/
def execAddi (d a : BitVec 5) (p : BitVec 1) (i : BitVec 15) (s : State) : Out := ccAlu1 s d a p fun x => x + sx i

/-- andi: A and I (R255). -/
def execAndi (d a : BitVec 5) (p : BitVec 1) (i : BitVec 15) (s : State) : Out := ccAlu1 s d a p fun x => x &&& sx i

/-- ori: A or I (R255). -/
def execOri (d a : BitVec 5) (p : BitVec 1) (i : BitVec 15) (s : State) : Out := ccAlu1 s d a p fun x => x ||| sx i

/-- xori: A xor I (R255). -/
def execXori (d a : BitVec 5) (p : BitVec 1) (i : BitVec 15) (s : State) : Out := ccAlu1 s d a p fun x => x ^^^ sx i

/-- slti: A < I signed (R255). -/
def execSlti (d a : BitVec 5) (p : BitVec 1) (i : BitVec 15) (s : State) : Out := ccAlu1 s d a p fun x => ofBool64 (x.slt (sx i))

/-- sltiu: A < I unsigned (R255). -/
def execSltiu (d a : BitVec 5) (p : BitVec 1) (i : BitVec 15) (s : State) : Out := ccAlu1 s d a p fun x => ofBool64 (x.ult (sx i))

/-- slli: A << s; imm[11:6] is ignored (R256). -/
def execSlli (d a : BitVec 5) (p : BitVec 1) (_z t : BitVec 6) (s : State) : Out := ccAlu1 s d a p fun x => x <<< t.toNat

/-- srli: A >> s; imm[11:6] is ignored (R256). -/
def execSrli (d a : BitVec 5) (p : BitVec 1) (_z t : BitVec 6) (s : State) : Out := ccAlu1 s d a p fun x => x >>> t.toNat

/-- srai: A >> s, arithmetic; imm[11:6] is ignored (R256). -/
def execSrai (d a : BitVec 5) (p : BitVec 1) (_z t : BitVec 6) (s : State) : Out := ccAlu1 s d a p fun x => x.sshiftRight t.toNat

/-- slliw: sext32(A << s[4:0]); imm[11:6] is ignored (R256). -/
def execSlliw (d a : BitVec 5) (p : BitVec 1) (_z t : BitVec 6) (s : State) : Out := ccAlu1 s d a p fun x => sext32 (x <<< (t.toNat % 32))

/-- srliw: sext32(A[31:0] >> s[4:0]); imm[11:6] is ignored (R256). -/
def execSrliw (d a : BitVec 5) (p : BitVec 1) (_z t : BitVec 6) (s : State) : Out := ccAlu1 s d a p fun x => srlw32 x (t.toNat % 32)

/-- sraiw: sext32(A[31:0] >> s[4:0]), arithmetic; imm[11:6] is ignored (R256). -/
def execSraiw (d a : BitVec 5) (p : BitVec 1) (_z t : BitVec 6) (s : State) : Out := ccAlu1 s d a p fun x => sraw32 x (t.toNat % 32)

/-- lui: sext(imm) << 12 (R257). -/
def execLui (d : BitVec 5) (i : BitVec 21) (s : State) : Out := ccAlu0 s d (sx i <<< 12)

/-- pcadd: (PC + 4 sext(imm)) mod 2^16 (R257). -/
def execPcadd (d : BitVec 5) (i : BitVec 21) (s : State) : Out :=
  ccAlu0 s d (((cc s).pc + 4 * (sx i).setWidth 16).setWidth 64)

end Sys2Proof.Machine
end

