-- ==== Sys2Proof/Machine/CoreMem.lean ====
section
/-! DEFINITION. Loads, stores, branches and jumps of the control core (09 R258-R260). -/

namespace Sys2Proof.Machine

/-- The address checks of R258: PROT before MISALIGN. -/
def sramCheck (e : Word) (width : Nat) (k : CRes) : CRes :=
  if 2 ^ 17 ≤ e.toNat then .trap 0 6 e
  else if e.toNat % width ≠ 0 then .trap 0 3 e
  else k

/-- A load: it waits for a pending acquire (R281), checks, reads the data SRAM and writes xd (R258). -/
def ccLoad (s : State) (d a : BitVec 5) (p : BitVec 1) (i : BitVec 15) (width : Nat) (f : Nat → Word) : Out :=
  let c := cc s
  let e := rget c a.toNat + sx i
  ccFinish s (srcCheck c [(a.toNat, wbit p)]
    (if c.acq.isSome then .wait
    else sramCheck e width (sramRead s e.toNat width fun v => toDest s c d.toNat (adv (rset c d.toNat (f v))))))

/-- A store: register d is the data source (R209, R258). -/
def ccStore (s : State) (d a : BitVec 5) (p q : BitVec 1) (i : BitVec 14) (width : Nat) : Out :=
  let c := cc s
  let e := rget c a.toNat + sx i
  ccFinish s (srcCheck c [(a.toNat, wbit p), (d.toNat, wbit q)]
    (if c.acq.isSome then .wait
    else sramCheck e width (.done (setCc s (adv (sramWrite c e.toNat width (rget c d.toNat).toNat))))))

/-- A branch (R259). -/
def ccBranch (s : State) (a b : BitVec 5) (p q : BitVec 1) (o : BitVec 14) (f : Word → Word → Bool) : Out :=
  let c := cc s
  ccFinish s (srcCheck c [(a.toNat, wbit p), (b.toNat, wbit q)]
    (.done (setCc s (if f (rget c a.toNat) (rget c b.toNat) then { c with pc := c.pc + 4 * (sx o).setWidth 16 } else adv c))))

/-- lb: xd takes sext(byte) (R258). -/
def execLb (d a : BitVec 5) (p : BitVec 1) (i : BitVec 15) (s : State) : Out := ccLoad s d a p i 1 fun v => sx (BitVec.ofNat 8 v)

/-- lh: xd takes sext(halfword) (R258). -/
def execLh (d a : BitVec 5) (p : BitVec 1) (i : BitVec 15) (s : State) : Out := ccLoad s d a p i 2 fun v => sx (BitVec.ofNat 16 v)

/-- lw: xd takes sext(word) (R258). -/
def execLw (d a : BitVec 5) (p : BitVec 1) (i : BitVec 15) (s : State) : Out := ccLoad s d a p i 4 fun v => sx (BitVec.ofNat 32 v)

/-- ld: xd takes doubleword (R258). -/
def execLd (d a : BitVec 5) (p : BitVec 1) (i : BitVec 15) (s : State) : Out := ccLoad s d a p i 8 fun v => BitVec.ofNat 64 v

/-- lbu: xd takes zext(byte) (R258). -/
def execLbu (d a : BitVec 5) (p : BitVec 1) (i : BitVec 15) (s : State) : Out := ccLoad s d a p i 1 fun v => BitVec.ofNat 64 v

/-- lhu: xd takes zext(halfword) (R258). -/
def execLhu (d a : BitVec 5) (p : BitVec 1) (i : BitVec 15) (s : State) : Out := ccLoad s d a p i 2 fun v => BitVec.ofNat 64 v

/-- lwu: xd takes zext(word) (R258). -/
def execLwu (d a : BitVec 5) (p : BitVec 1) (i : BitVec 15) (s : State) : Out := ccLoad s d a p i 4 fun v => BitVec.ofNat 64 v

/-- sb: stores the low 1 bytes of xd (R258). -/
def execSb (d a : BitVec 5) (p q : BitVec 1) (i : BitVec 14) (s : State) : Out := ccStore s d a p q i 1

/-- sh: stores the low 2 bytes of xd (R258). -/
def execSh (d a : BitVec 5) (p q : BitVec 1) (i : BitVec 14) (s : State) : Out := ccStore s d a p q i 2

/-- sw: stores the low 4 bytes of xd (R258). -/
def execSw (d a : BitVec 5) (p q : BitVec 1) (i : BitVec 14) (s : State) : Out := ccStore s d a p q i 4

/-- sd: stores the low 8 bytes of xd (R258). -/
def execSd (d a : BitVec 5) (p q : BitVec 1) (i : BitVec 14) (s : State) : Out := ccStore s d a p q i 8

/-- beq: branches when A = B (R259). -/
def execBeq (a b : BitVec 5) (p q : BitVec 1) (o : BitVec 14) (s : State) : Out := ccBranch s a b p q o fun x y => x == y

/-- bne: branches when A ≠ B (R259). -/
def execBne (a b : BitVec 5) (p q : BitVec 1) (o : BitVec 14) (s : State) : Out := ccBranch s a b p q o fun x y => x != y

/-- blt: branches when A < B signed (R259). -/
def execBlt (a b : BitVec 5) (p q : BitVec 1) (o : BitVec 14) (s : State) : Out := ccBranch s a b p q o fun x y => x.slt y

/-- bge: branches when A ≥ B signed (R259). -/
def execBge (a b : BitVec 5) (p q : BitVec 1) (o : BitVec 14) (s : State) : Out := ccBranch s a b p q o fun x y => !x.slt y

/-- bltu: branches when A < B unsigned (R259). -/
def execBltu (a b : BitVec 5) (p q : BitVec 1) (o : BitVec 14) (s : State) : Out := ccBranch s a b p q o fun x y => x.ult y

/-- bgeu: branches when A ≥ B unsigned (R259). -/
def execBgeu (a b : BitVec 5) (p q : BitVec 1) (o : BitVec 14) (s : State) : Out := ccBranch s a b p q o fun x y => !x.ult y

/-- j: jumps; d is ignored (R260). -/
def execJ (_d : BitVec 5) (o : BitVec 21) (s : State) : Out :=
  let c := cc s
  ccFinish s (.done (setCc s { c with pc := c.pc + 4 * (sx o).setWidth 16 }))

/-- jal: writes PC + 4 to xd and jumps (R260). -/
def execJal (d : BitVec 5) (o : BitVec 21) (s : State) : Out :=
  let c := cc s
  ccFinish s (toDest s c d.toNat { rset c d.toNat ((c.pc + 4).setWidth 64) with pc := c.pc + 4 * (sx o).setWidth 16 })

/-- jalr: the target T must be word-aligned, else MISALIGN with TVAL T (R260). -/
def execJalr (d a : BitVec 5) (p : BitVec 1) (i : BitVec 15) (s : State) : Out :=
  let c := cc s
  let t := (rget c a.toNat + sx i).setWidth 16
  ccFinish s (srcCheck c [(a.toNat, wbit p)]
    (if t.toNat % 4 ≠ 0 then .trap 0 3 (t.setWidth 64)
    else toDest s c d.toNat { rset c d.toNat ((c.pc + 4).setWidth 64) with pc := t }))

end Sys2Proof.Machine
end

