-- ==== Sys2Proof/Machine/CoreCtl.lean ====
section
/-! DEFINITION. Full/empty instructions, traps, CSRs and the events of a control core (09 R261-R275). -/

namespace Sys2Proof.Machine

/-- The A-format word of a major 0x01 instruction, for tval (R266). -/
def fmtA1Word (d a b : BitVec 5) (p q : BitVec 1) (fn : Nat) : Word :=
  BitVec.ofNat 64 (2 ^ 26 + d.toNat * 2 ^ 21 + a.toNat * 2 ^ 16 + b.toNat * 2 ^ 11 + p.toNat * 2 ^ 10 + q.toNat * 512 + fn)

/-- fe.clr: waits while xd is owed, then empties it (R262). -/
def execFeClr (d _a _b : BitVec 5) (_p _q : BitVec 1) (s : State) : Out :=
  let c := cc s
  ccFinish s (toDest s c d.toNat (adv (rclear c d.toNat)))

/-- fe.tst: 1 when xa is full; it neither waits for nor traps on xa (R262). -/
def execFeTst (d a _b : BitVec 5) (_p _q : BitVec 1) (s : State) : Out :=
  let c := cc s
  ccFinish s (toDest s c d.toNat (adv (rset c d.toNat (ofBool64 (isFull c a.toNat)))))

/-- fe.wait: waits for xa (R262). -/
def execFeWait (_d a _b : BitVec 5) (p _q : BitVec 1) (s : State) : Out :=
  let c := cc s
  ccFinish s (srcCheck c [(a.toNat, wbit p)] (.done (setCc s (adv c))))

/-- fe.take: reads xa and empties it, then writes xd (R262). -/
def execFeTake (d a _b : BitVec 5) (p _q : BitVec 1) (s : State) : Out :=
  let c := cc s
  ccFinish s (srcCheck c [(a.toNat, wbit p)]
    (toDest s c d.toNat (adv (rset (rclear c a.toNat) d.toNat (rget c a.toNat)))))

/-- fe.any: waits until a register selected by the mask is full, then writes which are (R262). -/
def execFeAny (d a _b : BitVec 5) (p _q : BitVec 1) (s : State) : Out :=
  let c := cc s
  let m := (rget c a.toNat).setWidth 32
  let hit := m &&& (c.full ||| 1)
  ccFinish s (srcCheck c [(a.toNat, wbit p)]
    (if m ≠ 0 ∧ hit = 0 then .wait else toDest s c d.toNat (adv (rset c d.toNat (hit.setWidth 64)))))

/-- trap n: KIND 1, CODE n (R270). -/
def execTrap (_d _a b : BitVec 5) (_p _q : BitVec 1) (s : State) : Out :=
  ccFinish s (.trap 1 b.toNat (b.setWidth 64))

/-- tret: guarded; returns from the trap (R272). -/
def execTret (d a b : BitVec 5) (p q : BitVec 1) (s : State) : Out :=
  let c := cc s
  ccFinish s (if guardedPriv c then .trap 0 4 (fmtA1Word d a b p q 0x011) else .done (setCc s (trapReturn c)))

/-- wfe: completes when an unmasked event is pending, and waits otherwise (R268). -/
def execWfe (_d _a _b : BitVec 5) (_p _q : BitVec 1) (s : State) : Out :=
  let c := cc s
  ccFinish s (if c.evpend &&& c.evmask ≠ 0 then .done (setCc s (adv c)) else .wait)

/-- brk: KIND 0, CODE BREAK (R270). -/
def execBrk (_d _a _b : BitVec 5) (_p _q : BitVec 1) (s : State) : Out := ccFinish s (.trap 0 0x0F 0)

/-! ### CSRs -/

/-- CSRs marked G (R264). -/
def csrGuarded (n : Nat) : Bool := n ≤ 5 || (0x10 ≤ n && n ≤ 0x12)
/-- CSRs marked RO (R264). -/
def csrRo (n : Nat) : Bool := n == 0x20 || n == 0x21 || (0x30 ≤ n && n ≤ 0x32) || (0x40 ≤ n && n ≤ 0x42)

/-- coreid (R272). A core of no region names its partition and the function whose image it last ran. -/
def coreidOf (s : State) (core : Nat) : Word :=
  match regionOf s.fab core with
  | none => BitVec.ofNat 64 ((corePart s.hub core).getD 0 * 2 ^ 22 + (tget 0 s.fab.lastUser core - 1) % 32 * 2 ^ 16 + core / 8 * 8 + core % 8)
  | some (_, r) =>
    BitVec.ofNat 64 (r.launch.part * 2 ^ 22 + r.launch.fn * 2 ^ 16 + regionCoreNo r core * 2 ^ 8 + core / 8 * 8 + core % 8)

/-- regshape (R272). Of a core that belongs to no region, read through the window, it is zero, as is RCORE of coreid: R272 defines both by a region
(log 79). -/
def regshapeOf (s : State) (core : Nat) : Word :=
  match regionOf s.fab core with
  | none => 0
  | some (_, r) => BitVec.ofNat 64 (r.y0 * 2 ^ 11 + r.x0 * 2 ^ 8 + (r.h - 1) * 8 + (r.w - 1))

/-- ccstat with a given STATE (R273). -/
def ccstatOf (c : CC) (st : Nat) : Word := BitVec.ofNat 64 (c.skind.toNat * 2 ^ 16 + c.scode.toNat * 2 ^ 8 + st)

/-- The value of a CSR of a core; st is the STATE that ccstat shows (R264-R273). -/
def csrGet (s : State) (core n st : Nat) : Word :=
  let c := ccOf s.fab core
  match n with
  | 0x000 => c.tstat.setWidth 64
  | 0x001 => c.tvec
  | 0x002 => c.tepc
  | 0x003 => c.tcause
  | 0x004 => c.tval
  | 0x005 => c.tscr
  | 0x010 => c.evpend.setWidth 64
  | 0x011 => c.evmask.setWidth 64
  | 0x012 => c.tcmp
  | 0x020 => (c.full ||| 1).setWidth 64
  | 0x021 => (c.owed &&& 0xFFFFFFFE).setWidth 64
  | 0x030 => c.cycle
  | 0x031 => c.instret
  | 0x032 => s.clk.dtime
  | 0x040 => coreidOf s core
  | 0x041 => regshapeOf s core
  | 0x042 => ccstatOf c st
  | _ => 0

/-- A tstat write: TA, PIE, IE as written, PMODE only with SUPOK; SUPOK and MODE stay (R265). -/
def tstatWrite (c : CC) (v : Word) : BitVec 6 :=
  mkTstat (ccSupok c) (v.getLsbD 4) (v.getLsbD 3) (v.getLsbD 2) (v.getLsbD 1 && ccSupok c) (ccMode c)

/-- A write of a writable CSR; reserved and read-only fields keep their value (R14, R264). -/
def csrPut (c : CC) (n : Nat) (v : Word) : CC :=
  match n with
  | 0x000 => { c with tstat := tstatWrite c v }
  | 0x001 => { c with tvec := v &&& 0xFFFC }
  | 0x002 => { c with tepc := v &&& 0xFFFC }
  | 0x003 => { c with tcause := v &&& 0xC0FF }
  | 0x004 => { c with tval := v }
  | 0x005 => { c with tscr := v }
  | 0x010 => { c with evpend := v.setWidth 6 }
  | 0x011 => { c with evmask := v.setWidth 6 }
  | 0x012 => { c with tcmp := v }
  | _ => c

/-- A CSR instruction: op 1 write, 2 set, 3 clear (R263). -/
def ccCsr (s : State) (op : Nat) (d a : BitVec 5) (p : BitVec 1) (n : BitVec 12) : Out :=
  let c := cc s
  let word : Word := BitVec.ofNat 64 (0x30 * 2 ^ 26 + d.toNat * 2 ^ 21 + a.toNat * 2 ^ 16 + p.toNat * 2 ^ 15 + op * 2 ^ 12 + n.toNat)
  let wr : Bool := op == 1 || a != 0
  let old := csrGet s s.site.core n.toNat 0
  let x := rget c a.toNat
  let new := match op with
    | 1 => x
    | 2 => old ||| x
    | _ => old &&& ~~~x
  ccFinish s
    (if !csrGuarded n.toNat && !csrRo n.toNat then .trap 0 1 word
    else if wr && (csrRo n.toNat || (n == 0x010 && op != 3)) then .trap 0 1 word
    else if csrGuarded n.toNat && guardedPriv c then .trap 0 4 word
    else srcCheck c [(a.toNat, wbit p)]
      (toDest s c d.toNat (adv (rset (if wr then csrPut c n.toNat new else c) d.toNat old))))

/-- csrrw (R263). -/
def execCsrrw (d a : BitVec 5) (p : BitVec 1) (c : BitVec 12) (s : State) : Out := ccCsr s 1 d a p c
/-- csrrs (R263). -/
def execCsrrs (d a : BitVec 5) (p : BitVec 1) (c : BitVec 12) (s : State) : Out := ccCsr s 2 d a p c
/-- csrrc (R263). -/
def execCsrrc (d a : BitVec 5) (p : BitVec 1) (c : BitVec 12) (s : State) : Out := ccCsr s 3 d a p c

/-! ### Events of a control core -/

/-- Whether a word is a supervisor-only command of the opcode map, whatever its reply field (R212, R282). -/
def supervisorWord (w : Nat) : Bool :=
  w / 2 ^ 26 == 0x38 && (w % 2 ^ 15 == 32 * 512 + 0x100 || w % 2 ^ 15 == 34 * 512 + 0x40 || w % 2 ^ 15 == 34 * 512 + 0x41 ||
    w % 2 ^ 15 == 34 * 512 + 0x42)

/-- A word that no row assigns traps with ILLOP; a supervisor-only command whose reply field is wrong meets PRIV first in
user mode (R212, R278). -/
def execIllegalInstruction (w : BitVec 32) (s : State) : Out :=
  ccFinish s (.trap 0 (if supervisorWord w.toNat && !ccMode (cc s) then 4 else 1) (w.setWidth 64))

/-- The event trap is due: IE set, TA clear, an unmasked event pending, and the core neither halted nor stopped (R269). -/
def eventDue (c : CC) : Bool :=
  c.started && ccIe c && !ccTa c && c.evpend &&& c.evmask != 0 && c.state.toNat < 2

/-- The core waits in a wfe at its PC (R268): an event that now stands has come since the wait began, as both the wfe and the trap test it in every
cycle (R269). -/
def inWfe (c : CC) : Bool :=
  let w := mgetN c.isram c.pc.toNat 4
  c.state == 1 && w / 2 ^ 26 == 1 && w % 512 == 0x12

/-- EVENT_TRAP: the lowest unmasked pending event traps between two instructions, TEPC the next one's address; a wfe that waits, whose condition the
same event meets in the same cycle, completes first (R269). Nothing happens while the trap is not due. -/
def execEventTrap (core : Nat) (s : State) : Out :=
  let c := ccOf s.fab core
  if eventDue c then
    let code := (firstBit (c.evpend &&& c.evmask).toNat 6).getD 0
    let c := if inWfe c then { adv c with instret := c.instret + 1 } else c
    let val := BitVec.ofNat 64 (c.evpend.toNat + c.evmask.toNat * 2 ^ 32)
    onFab s fun f => { f with ccs := tins f.ccs core (trapEntry c 2 code val c.pc) }
  else .next s

/-- The timer condition holds in a core that has control-core cycles: started, its clock not gated (R267, R275). -/
def timerOn (s : State) (core : Nat) : Bool :=
  let c := ccOf s.fab core
  c.started && !(elemOf s.fab (100 * core)).gated && decide (c.tcmp.toNat ≤ s.clk.dtime.toNat)

/-- TIMER is due: its condition holds and the bit is clear (R267). -/
def timerDue (s : State) (core : Nat) : Bool := timerOn s core && !(ccOf s.fab core).evpend.getLsbD 3

/-- TIMER_EVENT: sets TIMER while dtime ≥ tcmp, in every control-core cycle (R267). -/
def execTimerEvent (core : Nat) (s : State) : Out :=
  if timerOn s core then onFab s fun f => modCc f core fun c => setEv c 8 else .next s

/-- REGISTER_FILL: reply number idx of those on their way lands (R248). Replies of a core that has none in that place do
nothing; one for a core whose clock is gated stays a token (R275). -/
def execRegisterFill (idx : Nat) (s : State) : Out :=
  onFab s fun f =>
    match f.fills[idx]? with
    | none => f
    | some (core, reg, v) => if (elemOf f (100 * core)).gated then f else modCc { f with fills := f.fills.eraseIdx idx } core fun c => rfill c reg v

end Sys2Proof.Machine
end

