-- ==== Sys2Proof/Machine/Commands.lean ====
section
/-! DEFINITION. Stream commands: issue rules and every command of the map (10 R277-R303). -/

namespace Sys2Proof.Machine

/-! ### Tokens (07 R186) -/

/-- Bytes of a sideband that CHECK covers: [23:16], then [31:24] (R186). -/
def sideBytes (t : Token) : List Byte :=
  [BitVec.ofNat 8 (t.lvl.toNat * 32 + t.kind.toNat * 4 + t.ctx.toNat), t.ctag]

/-- CHECK of a token on the wide or the narrow network (R186). -/
def tokCheck (wide : Bool) (t : Token) : BitVec 16 :=
  BitVec.ofNat 16 (crc16 (natBytes (if wide then 64 else 8) t.data.toNat ++ sideBytes t))

/-- A token with its CHECK computed. -/
def stamp (wide : Bool) (t : Token) : Token := { t with check := tokCheck wide t }

/-! ### Sinks and accumulators (R286, R287, R418) -/

/-- The accumulator bound to a port, if any. -/
def accOfPort (c : CC) (port : Nat) : Option Nat :=
  (List.range 8).find? fun j => match (tget {} c.accs j).bind with
    | some v => fld v.toNat 0 4 == port
    | none => false

/-- An accumulator's operation on a token's data (R287). -/
def accStep (op : Nat) (x y : Word) : Word :=
  match op with
  | 0 => x + y
  | 1 => x + 1
  | 2 => if x.slt y then y else x
  | _ => if y.slt x then y else x

/-- Identity of an accumulator's operation (R287). -/
def accIdentity (op : Nat) : Word :=
  match op with
  | 2 => 0x8000000000000000
  | 3 => 0x7FFFFFFFFFFFFFFF
  | _ => 0

/-- Counts a delivery of context c in round r (R418). -/
def dlvAdd (l : List (Nat × BitVec 32 × Nat)) (c : Nat) (r : BitVec 32) : List (Nat × BitVec 32 × Nat) :=
  if l.any fun e => e.1 == c && e.2.1 == r then l.map fun e => if e.1 == c && e.2.1 == r then (c, r, e.2.2 + 1) else e
  else l ++ [(c, r, 1)]

/-- Serves one token of a sink: to the bound accumulator, else to the first waiting rdout (R286, R287). The second part is
the reply it fills. -/
def serveOne (c : CC) (port : Nat) : Option (CC × Nat × Word) :=
  let k := tget {} c.sinks port
  match k.toks with
  | [] => none
  | (r, t) :: rest =>
    let k' := { k with toks := rest, dlv := dlvAdd k.dlv t.ctx.toNat r }
    match accOfPort c port with
    | some j =>
      let x := tget {} c.accs j
      let op := fld (x.bind.getD 0).toNat 5 2
      some ({ c with
        accs := tins c.accs j { x with val := accStep op x.val (t.data.setWidth 64) }
        sinks := tins c.sinks port k' }, 0, 0)
    | none =>
      match k.waiting with
      | [] => none
      | reg :: ws => some ({ c with sinks := tins c.sinks port { k' with waiting := ws } }, reg, t.data.setWidth 64)

/-- Serves a sink until it has nothing to give or no taker; a sink holds at most 8 tokens. -/
def serveSink (n : Nat) (c : CC) (port : Nat) : CC × List (Nat × Word) :=
  match n with
  | 0 => (c, [])
  | n + 1 =>
    match serveOne c port with
    | none => (c, [])
    | some (c', reg, v) =>
      let q := serveSink n c' port
      (q.1, if reg = 0 then q.2 else (reg, v) :: q.2)

/-- Serves a sink of a core and sends the replies. -/
def serveCore (f : Fab) (core port : Nat) : Fab :=
  let q := serveSink 9 (ccOf f core) port
  q.2.foldl (fun f e => sendFill f core e.1 e.2) (modCc f core fun _ => q.1)

/-! ### Issue (R278-R281) -/

/-- Checks common to every command, in the order of R278: reply, state, descriptor; then it waits for its reply register, for a
pending acquire and for its queue. The descriptor's value goes to the body. -/
def ccCmd (s : State) (word : Word) (reg : Nat) (req bad : Bool) (desc : Option (Nat × Bool)) (wait : Bool)
    (body : Word → CRes) : Out :=
  let c := cc s
  ccFinish s
    (if req && reg == 0 then .trap 0 1 word
    else if bad then .trap 0 1 word
    else srcCheck c desc.toList
      (if isOwed c reg || c.acq.isSome || wait then .wait
      else body (match desc with
        | some p => rget c p.1
        | none => 0)))

/-- Reads a block of n bytes at D of the data SRAM (R278): PROT, then MISALIGN, then the snapshot. -/
def withBlock (s : State) (d : Word) (n : Nat) (k : Nat → CRes) : CRes :=
  if 2 ^ 17 ≤ d.toNat ∨ 2 ^ 17 < d.toNat + n then .trap 0 6 d
  else if d.toNat % 32 ≠ 0 then .trap 0 3 d
  else sramRead s d.toNat n k

/-- The command's number and the core after issue: the reply register is owed, the PC moves on, the command is outstanding with
the memories it touches (R278, R280). -/
def issued (c : CC) (reg : Nat) (mems : BitVec 9) (hub : Bool) : CC :=
  { rowe (adv c) reg with nextId := c.nextId + 1, outs := c.outs ++ [{ id := c.nextId, mems := mems, hub := hub }] }

/-- A command that completes at issue without a number. -/
def quick (s : State) (reg : Nat) : State := setCc s (adv (rowe (cc s) reg))

/-- A change of the fabric after issue. -/
def thenFab (s : State) (g : Fab → Fab) : CRes := .done { s with fab := g s.fab }

/-- The scratchpad, SRAM, device and host memories that a scope covers (R157). -/
def scopeMems (sc : Nat) : BitVec 9 :=
  match sc with
  | 0 => 0b0001
  | 1 => 0b0011
  | 2 => 0b0111
  | _ => 0b1111

/-- Some earlier command of the core touches one of these memories and has not completed (R281, R293, R294). -/
def owing (c : CC) (m : BitVec 9) : Bool := c.outs.any fun o => o.mems &&& m != 0

/-- A release with this ordering attribute must wait (R281). -/
def relWait (c : CC) (ord : Nat) : Bool := bit ord 1 && owing c (scopeMems (ord / 4 % 4))

/-- Whether 8 hub commands of the core are outstanding (R280). -/
def hubFull (c : CC) : Bool := decide (8 ≤ (c.outs.countP fun o => o.hub))

/-- The owner region of the present core. -/
def myRegion (s : State) : Option (Nat × Region) := regionOf s.fab s.site.core

/-- Whether a context of a region is bound or retiring. -/
def ctxLive (r : Region) (n : Nat) : Bool := thas r.ctxs n && !(ctxOf r n).retired

/-- A context is bound in a region: it has not retired and none of its planes is retiring (R190). -/
def ctxBoundAll (f : Fab) (r : Region) (n : Nat) : Bool :=
  ctxLive r n && (planeKeys r).all fun k => (planeOf (elemOf f k) n).st != .retiring

/-! ### Round controller: ports (R283-R287) -/

/-- The check of a vin binding value (R283). -/
def vbindOk (v : Word) : Bool :=
  let n := v.toNat
  fld n 33 31 == 0 && fld n 19 5 == 0 && fld n 4 4 == 0 && fld n 2 2 != 0 && fld n 2 2 != 3 &&
    (!bit n 32 || fld n 24 8 != 0)

/-- A source port of the present core. -/
def vinOf (c : CC) (p : Nat) : Vin := tget {} c.vins p

/-- A context at a source port. -/
def vinCtx (v : Vin) (c : Nat) : VinCtx := tget {} v.ctxs c

/-- The binding value that the next token of a context goes out under: of its first token in the log, else that the port is bound with; none where
the context does not use the port. -/
def vinWord (v : Vin) (c : Nat) : Option Word :=
  ((v.queue.find? fun q => q.1.toNat % 4 == c).map fun q => q.1).orElse fun _ => v.bind.filter fun w => w.toNat % 4 == c

/-- The head of the log leaves a port: what stood behind it comes one token nearer. -/
def vinStep (v : Vin) : Vin :=
  { v with queue := v.queue.drop 1, ctxs := v.ctxs.map fun q => (q.1, { q.2 with markAt := q.2.markAt.map fun n => n - 1 }) }

/-- The log without some of its tokens; an ordered mark keeps its place among those left. -/
def vinKeep (keep : Word × Token → Bool) (v : Vin) : Vin :=
  { v with queue := v.queue.filter keep
           ctxs := v.ctxs.map fun q => (q.1, { q.2 with markAt := q.2.markAt.map fun n => ((v.queue.take n).filter keep).length }) }

/-- The core of the twin region partnered with a core (21 R464), when the core's region is the primary. -/
def twinCore (f : Fab) (core : Nat) : Option Nat :=
  match regionOf f core with
  | none => none
  | some (rid, r) => match r.twin.bind fun t => (region? f t).map fun g => (t, g) with
    | some (t, g) => if rid < t then some (coreOfNo g (regionCoreNo r core)) else none
    | none => none

/-- Changes a source port of a core, and the partnered port of a twin region (R465). -/
def vinBoth (f : Fab) (core port : Nat) (g : Vin → Vin) : Fab :=
  let one (f : Fab) (n : Nat) : Fab := modCc f n fun c => { c with vins := tmod {} c.vins port g }
  match twinCore f core with
  | none => one f core
  | some n => one (one f core) n

/-- inject: the descriptor's value becomes a narrow token of the port's log; a full log waits (R284, R199). -/
def execInject (a : BitVec 5) (p : BitVec 1) (l : BitVec 3) (n : BitVec 4) (s : State) : Out :=
  let c := cc s
  let v := vinOf c n.toNat
  let b := (v.bind.getD 0).toNat
  ccCmd s (cmdWord 0 a p 32 (16 * l.toNat + n.toNat)) 0 false v.bind.isNone (some (a.toNat, wbit p))
    (decide (64 ≤ v.kept.length + v.queue.length))
    fun d =>
      let t := stamp false { data := d.setWidth 512, ctag := BitVec.ofNat 8 (fld b 8 8), lvl := l, ctx := BitVec.ofNat 2 b }
      let s := setCc s (adv c)
      thenFab s fun f => vinBoth f s.site.core n.toNat fun v => { v with queue := v.queue ++ [(v.bind.getD 0, t)] }

/-- vend: the end mark of the bound context enters the log and the port is unbound (R285). Its data, the number of the last
round, is written when the port emits it (R188). -/
def execVend (a : BitVec 5) (p : BitVec 1) (n : BitVec 4) (s : State) : Out :=
  let c := cc s
  let v := vinOf c n.toNat
  let t := stamp false { kind := 3, ctx := BitVec.ofNat 2 (v.bind.getD 0).toNat }
  ccCmd s (cmdWord 0 a p 32 (0x80 + n.toNat)) 0 false v.bind.isNone none (decide (64 ≤ v.kept.length + v.queue.length))
    fun _ =>
      let s := setCc s (adv c)
      thenFab s fun f => vinBoth f s.site.core n.toNat fun v => { v with queue := v.queue ++ [(v.bind.getD 0, t)], bind := none }

/-- rdout: waits on the sink for its next data token; a ninth rdout of a port waits to issue (R286). -/
def execRdout (r a : BitVec 5) (p : BitVec 1) (n : BitVec 4) (s : State) : Out :=
  let c := cc s
  let k := tget {} c.sinks n.toNat
  ccCmd s (cmdWord r a p 32 (0x90 + n.toNat)) r.toNat false (accOfPort c n.toNat).isSome none (decide (8 ≤ k.waiting.length))
    fun _ =>
      let s := setCc s { adv (rowe c r.toNat) with sinks := tins c.sinks n.toNat { k with waiting := k.waiting ++ [r.toNat] } }
      thenFab s fun f => serveCore f s.site.core n.toNat

/-- accrst: binds or unbinds an accumulator and resets it; tokens standing in the port's sink are combined (R287). -/
def execAccrst (a : BitVec 5) (p : BitVec 1) (j : BitVec 3) (s : State) : Out :=
  let c := cc s
  let word := cmdWord 0 a p 32 (0xA0 + j.toNat)
  ccCmd s word 0 false false (some (a.toNat, wbit p)) false fun d =>
    let n := d.toNat
    let en := bit n 7
    let port := n % 16
    let taken := match accOfPort c port with
      | some k => k != j.toNat
      | none => false
    if n / 256 ≠ 0 ∨ bit n 4 ∨ (en && taken) ∨ (tget {} c.sinks port).waiting ≠ [] then .trap 0 1 word
    else
      let x : Acc := if en then { val := accIdentity (fld n 5 2), bind := some d } else {}
      let s := setCc s (adv { c with accs := tins c.accs j.toNat x })
      thenFab s fun f => serveCore f s.site.core port

/-- rdacc: replies with the accumulator as it stands (R287). -/
def execRdacc (r a : BitVec 5) (p : BitVec 1) (j : BitVec 3) (s : State) : Out :=
  ccCmd s (cmdWord r a p 32 (0xA8 + j.toNat)) r.toNat true false none false fun _ =>
    thenFab (quick s r.toNat) fun f => sendFill f s.site.core r.toNat (tget {} (cc s).accs j.toNat).val

/-- vbind: binds an unbound source port (R283). A context that comes to the port anew starts there in its region's next round to commit (log
50). -/
def execVbind (a : BitVec 5) (p : BitVec 1) (n : BitVec 4) (s : State) : Out :=
  let c := cc s
  let v := vinOf c n.toNat
  let word := cmdWord 0 a p 32 (0xB0 + n.toNat)
  ccCmd s word 0 false v.bind.isSome (some (a.toNat, wbit p)) false fun d =>
    if !vbindOk d then .trap 0 1 word
    else
      let round := match myRegion s with
        | some (_, r) => (ctxOf r (d.toNat % 4)).cround + 1
        | none => 0
      let s := setCc s (adv c)
      thenFab s fun f => vinBoth f s.site.core n.toNat fun v =>
        { v with bind := some d, ctxs := if (vinWord v (d.toNat % 4)).isSome then v.ctxs else tins v.ctxs (d.toNat % 4) { round := round } }

/-! ### Round controller: rounds, fences, drains (R293-R296) -/

/-- Asks for an early edge of a bound context; a request of a round whose early edge has been signalled merges into the first (R121, R295), and an
owner's core asks none of a drift context (R306). -/
def earlyEdge (f : Fab) (core ctx : Nat) : Fab :=
  match regionOf f core with
  | none => f
  | some (rid, r) => if ctxBoundAll f r ctx && !(ctxOf r ctx).drift && (ctxOf r ctx).earlyDone != some (ctxOf r ctx).round then
      modRegion f rid fun r => modCtx r ctx fun x => { x with early := true } else f

/-- rmark (R295). -/
def execRmark (a : BitVec 5) (p : BitVec 1) (s : State) : Out :=
  let word := cmdWord 0 a p 32 0x0C0
  ccCmd s word 0 false false (some (a.toNat, wbit p)) false fun d =>
    if d.toNat / 4 ≠ 0 then .trap 0 1 word
    else thenFab (quick s 0) fun f => earlyEdge f s.site.core (d.toNat % 4)

/-- The reply of a wcommit, when it is due (R296). -/
def wcReply (r : Option Region) (ctx : Nat) (n : BitVec 32) : Option Word :=
  match r with
  | none => some (BitVec.allOnes 64)
  | some r =>
    if !ctxLive r ctx then some (BitVec.allOnes 64)
    else if ((ctxOf r ctx).cround - n).toNat < 2 ^ 31 then some (n.setWidth 64)
    else none

/-- Fills every wcommit of a core that is due. -/
def wcSettle (f : Fab) (core : Nat) : Fab :=
  let r := (regionOf f core).map fun q => q.2
  let c := ccOf f core
  let due := c.wcs.filterMap fun w => (wcReply r w.2.1 w.2.2).map fun v => (w.1, v)
  let f := modCc f core fun c => { c with wcs := c.wcs.filter fun w => (wcReply r w.2.1 w.2.2).isNone }
  due.foldl (fun f e => sendFill f core e.1 e.2) f

/-- wcommit: its reply fills when round N of the context commits, or the context retires first (R296). -/
def execWcommit (r a : BitVec 5) (p : BitVec 1) (s : State) : Out :=
  let c := cc s
  let word := cmdWord r a p 32 0x0C1
  ccCmd s word r.toNat true false (some (a.toNat, wbit p)) false fun d =>
    if fld d.toNat 2 30 ≠ 0 then .trap 0 1 word
    else
      let s := setCc s { adv (rowe c r.toNat) with wcs := c.wcs ++ [(r.toNat, d.toNat % 4, BitVec.ofNat 32 (d.toNat / 2 ^ 32))] }
      thenFab s fun f => wcSettle f s.site.core

/-- A fence at a scope: waits for every earlier command in the memories it covers (R294). -/
def ccFence (s : State) (sc : Nat) : Out :=
  ccCmd s 0 0 false false none (owing (cc s) (scopeMems sc)) fun _ => .done (quick s 0)

/-- fence.pl (R294). -/
def execFencePl (_a : BitVec 5) (_p : BitVec 1) (s : State) : Out := ccFence s 0
/-- fence.rg (R294). -/
def execFenceRg (_a : BitVec 5) (_p : BitVec 1) (s : State) : Out := ccFence s 1
/-- fence.pt (R294). -/
def execFencePt (_a : BitVec 5) (_p : BitVec 1) (s : State) : Out := ccFence s 2
/-- fence.sy: also waits for host memory and peer writes (R157, R294). -/
def execFenceSy (_a : BitVec 5) (_p : BitVec 1) (s : State) : Out := ccFence s 3

/-- A drain: waits for every earlier command of its kind (R172, R293). -/
def ccDrain (s : State) (m : BitVec 9) : Out :=
  ccCmd s 0 0 false false none (owing (cc s) m) fun _ => .done (quick s 0)

/-- drain.dm (R293). -/
def execDrainDm (_a : BitVec 5) (_p : BitVec 1) (s : State) : Out := ccDrain s 0x020
/-- drain.sp (R293). -/
def execDrainSp (_a : BitVec 5) (_p : BitVec 1) (s : State) : Out := ccDrain s 0x040
/-- drain.hm (R293). -/
def execDrainHm (_a : BitVec 5) (_p : BitVec 1) (s : State) : Out := ccDrain s 0x080
/-- drain.cf: also waits for invalidations and kwr writes (R293). -/
def execDrainCf (_a : BitVec 5) (_p : BitVec 1) (s : State) : Out := ccDrain s 0x100

/-! ### kwr (R303) -/

/-- Register k of a register frame (R218). -/
def kFrame (k : Nat) : Nat := 10 + k / 4

/-- Writes constant register k into a plane's register frame (R218, R303). -/
def kwrFrame (p : Plane) (k : Nat) (v : Word) : Plane :=
  let old := (tget 0 p.frames (kFrame k)).toNat
  { p with
    frames := tput 0 p.frames (kFrame k) (BitVec.ofNat 256 (setFld old (64 * (k % 4)) 64 v.toNat))
    patched := if p.patched.contains (kFrame k) then p.patched else kFrame k :: p.patched }

/-- Plane n is the NEW plane of a pending swap of the region whose check has run (R303, R404). -/
def swapHeld (r : Region) (n : Nat) : Bool :=
  match r.swap with
  | some w => w.new == n && w.checked.isSome && !w.done
  | none => false

/-- Settles a plane's kwr writes by its state: frame writes are made, pending ones stay, those of an emptied plane are dropped
when drop holds (R303). The second part lists the commands that count as sent for drain.cf. -/
def kwrSettle (p : Plane) (held : Bool) : Plane × List (Nat × Nat) :=
  match p.st with
  | .bound => (p, p.kwr.map fun e => (e.2.2.1, e.2.2.2))
  | .loaded => if held then (p, []) else
      ({ p.kwr.foldl (fun p e => kwrFrame p e.1 e.2.1) p with kwr := [] }, p.kwr.map fun e => (e.2.2.1, e.2.2.2))
  | .empty =>
      ({ p.kwr.foldl (fun p e => kwrFrame p e.1 e.2.1) p with kwr := [] }, p.kwr.map fun e => (e.2.2.1, e.2.2.2))
  | _ => (p, [])

/-- Settles the kwr writes of a plane of an element and completes their commands. -/
def kwrRun (f : Fab) (key plane : Nat) : Fab :=
  let held := match regionOf f (keyCore key) with
    | some (_, r) => swapHeld r plane
    | none => false
  let q := kwrSettle (planeOf (elemOf f key) plane) held
  q.2.foldl (fun f e => cmdDone f e.1 e.2) (modElem f key fun e => modPlane e plane fun _ => q.1)

/-- kwr: supervisor-only; writes one constant register of a compute tile of the region (R303). -/
def execKwr (a : BitVec 5) (p : BitVec 1) (s : State) : Out :=
  let c := cc s
  let word := cmdWord 0 a p 32 0x100
  if !ccMode c then ccFinish s (.trap 0 4 word)
  else ccCmd s word 0 false false (some (a.toNat, wbit p)) false fun d => withBlock s d 32 fun b =>
    let key := match myRegion s with
      | some (_, r) => relKey r (fld b 0 7) (fld b 7 7)
      | none => none
    match key with
    | none => .trap 0 1 word
    | some key =>
      if fld b 19 45 ≠ 0 ∨ fld b 128 128 ≠ 0 ∨ kindOf key ≠ .compute then .trap 0 1 word
      else
        let n := fld b 14 2
        let k := fld b 16 3
        let old := tget (0, 0, 0) (planeOf (elemOf s.fab key) n).kwr k
        let s := setCc s (issued c 0 0x100 false)
        thenFab s fun f =>
          let f := cmdDone f old.2.1 old.2.2
          let f := modElem f key fun e => modPlane e n fun q =>
            { q with kwr := tins q.kwr k (BitVec.ofNat 64 (fld b 64 64), s.site.core, c.nextId) }
          kwrRun f key n

/-! ### AG nodes: copy, sbind, aflush (R288-R292) -/

/-- A scratchpad address's place: mtile, bank, line (R29), or none where it breaks R31. -/
def spPlace (r : Region) (addr : Nat) : Option (Nat × Nat × Nat) :=
  if addr / 2 ^ 28 = 0 ∧ fld addr 15 3 < 6 ∧ fld addr 18 10 < 16 * (r.w * r.h) then
    some (fld addr 18 10, fld addr 15 3, fld addr 6 9)
  else none

/-- A legal format latch: reserved zero, MODE 0 or 1, FMT below 0x0C (R95). -/
def latchOk (l : Nat) : Bool := fld l 18 14 == 0 && decide (fld l 16 2 < 2) && decide (fld l 0 8 < 12)

/-- Field of a copy block. -/
def copySrc (b i0 i1 : Nat) : Nat := (fld b 0 64 + wrapSx 40 (fld b 192 40) i1 + 64 * i0) % 2 ^ 64
where
  /-- i times a sign-extended stride modulo 2^64. -/
  wrapSx (w v i : Nat) : Nat :=
    (i * (if bit v (w - 1) then 2 ^ 64 + v - 2 ^ w else v)) % 2 ^ 64

/-- Destination address of a copy (R289). -/
def copyDst (b i0 i1 : Nat) : Nat := (fld b 64 64 + copySrc.wrapSx 40 (fld b 256 40) i1 + 64 * i0) % 2 ^ 64

/-- Counts and spaces of a copy block (R288). -/
def copyCnt0 (b : Nat) : Nat := fld b 128 32
/-- Rows. -/
def copyCnt1 (b : Nat) : Nat := fld b 160 32
/-- Source space. -/
def copySsp (b : Nat) : Nat := fld b 320 2
/-- Destination space. -/
def copyDsp (b : Nat) : Nat := fld b 322 2
/-- Ordering attribute. -/
def copyOrd (b : Nat) : Nat := fld b 324 4

/-- Whether the 64 bytes at an address leave the limits of their space (R288 step 2). -/
def spaceProt (r : Region) (sp a : Nat) : Bool :=
  match sp with
  | 0 => decide (2 ^ 52 < a + 64)
  | 1 => decide (2 ^ 32 < a + 64) || (spPlace r a).isNone || (spPlace r (a + 63)).isNone
  | _ => decide (2 ^ 17 < a + 64)

/-- The four corner lines of a side of the nest (R288). -/
def corners (b : Nat) (f : Nat → Nat → Nat → Nat) : List Nat :=
  [f b 0 0, f b (copyCnt0 b - 1) 0, f b 0 (copyCnt1 b - 1), f b (copyCnt0 b - 1) (copyCnt1 b - 1)]

/-- The memories a copy side touches (R157, R172). -/
def spaceMems (sp : Nat) : BitVec 9 :=
  match sp with
  | 0 => 0b1100
  | 1 => 0b0001
  | _ => 0b0010

/-- The drains that cover a copy's destination (R293). -/
def drainMems (sp : Nat) : BitVec 9 :=
  match sp with
  | 0 => 0x0A0
  | 1 => 0x040
  | _ => 0x100

/-- Puts a command into an AG node's inbox (R280). -/
def agPush (f : Fab) (key : Nat) (x : AgCmd) : Fab :=
  modElem f key fun e => { e with ag := { e.ag with inbox := e.ag.inbox ++ [x] } }

/-- The inbox of an AG node holds 64 commands (R280). -/
def inboxFull (f : Fab) (key : Nat) : Bool := decide (64 ≤ (elemOf f key).ag.inbox.length)

/-- copy: the value checks of R288, then the command goes to the node's inbox (R289). -/
def execCopy (r a : BitVec 5) (p : BitVec 1) (n : BitVec 4) (s : State) : Out :=
  let c := cc s
  let key := agKey s.site.core n.toNat
  let word := cmdWord r a p n.toNat 0
  let reg : Region := match myRegion s with
    | some q => q.2
    | none => default
  ccCmd s word r.toNat false false (some (a.toNat, wbit p)) (inboxFull s.fab key) fun d => withBlock s d 64 fun b =>
    let srcs := corners b copySrc
    let dsts := corners b copyDst
    let addrs := (srcs.map fun x => (copySsp b, x)) ++ (dsts.map fun x => (copyDsp b, x))
    if relWait c (copyOrd b) then .wait
    else if fld b 232 24 ≠ 0 ∨ fld b 296 24 ≠ 0 ∨ fld b 330 6 ≠ 0 ∨ fld b 368 16 ≠ 0 ∨ fld b 384 128 ≠ 0 ∨
        copyCnt0 b = 0 ∨ copyCnt1 b = 0 ∨ copySsp b = 3 ∨ copyDsp b = 3 ∨ (copySsp b = 2 ∧ copyDsp b = 2) ∨
        bit (copyOrd b) 0 ∨ !latchOk (fld b 336 32) then .trap 0 1 word
    else match addrs.find? fun x => spaceProt reg x.1 x.2 with
    | some x => .trap 0 6 (BitVec.ofNat 64 x.2)
    | none => match addrs.find? fun x => x.2 % 64 != 0 with
      | some x => .trap 0 3 (BitVec.ofNat 64 x.2)
      | none =>
        let mems := spaceMems (copySsp b) ||| spaceMems (copyDsp b) ||| drainMems (copyDsp b)
        thenFab (setCc s (issued c r.toNat mems false)) fun f =>
          agPush f key { core := s.site.core, id := c.nextId, reg := r.toNat, cmd := 0, d := d, block := mputN [] 0 64 b, sup := ccMode c }

/-- sbind: reserved fields are checked at issue; the node answers the rest (R291). -/
def execSbind (r a : BitVec 5) (p : BitVec 1) (n : BitVec 4) (s : State) : Out :=
  let c := cc s
  let key := agKey s.site.core n.toNat
  let word := cmdWord r a p n.toNat 1
  ccCmd s word r.toNat true false (some (a.toNat, wbit p)) (inboxFull s.fab key) fun d => withBlock s d 128 fun b =>
    if bit b 3 ∨ fld b 6 2 ≠ 0 ∨ fld b 11 245 ≠ 0 then .trap 0 1 word
    else thenFab (setCc s (issued c r.toNat 0 false)) fun f =>
      agPush f key { core := s.site.core, id := c.nextId, reg := r.toNat, cmd := 1, d := d, block := mputN [] 0 128 b }

/-- aflush: runs FLRES for a context in the node's firn tile (R292). -/
def execAflush (r a : BitVec 5) (p : BitVec 1) (n : BitVec 4) (s : State) : Out :=
  let c := cc s
  let key := agKey s.site.core n.toNat
  let word := cmdWord r a p n.toNat 2
  ccCmd s word r.toNat false false (some (a.toNat, wbit p)) (inboxFull s.fab key) fun d =>
    if d.toNat / 4 ≠ 0 then .trap 0 1 word
    else thenFab (setCc s (issued c r.toNat 1 false)) fun f =>
      agPush f key { core := s.site.core, id := c.nextId, reg := r.toNat, cmd := 2, d := d, block := [] }

/-! ### Memory-tile atomics (R297, R298) -/

/-- Atomic commands of a core that hold a place of a memory tile's command queue: those not performed (R280). -/
def amoWaiting (f : Fab) (core key : Nat) : Nat :=
  let mine (q : MemReq) : Bool := q.src == 1 && q.key == core && q.queue == key
  (memKeys core).foldl (fun n k =>
    let m := (elemOf f k).mt
    n + m.cfgq.countP mine + m.bankq.foldl (fun n b => n + b.2.countP mine) 0) 0
where
  /-- Memory tiles of a core. -/
  memKeys (core : Nat) : List Nat := (List.range 16).map (mtKey core)

/-- An atomic command: the value checks of R297, then the tile's command queue. Its physical place is found when the queue
hands it to a bank (R107). -/
def ccAmo (s : State) (op : Nat) (r a : BitVec 5) (p : BitVec 1) (n : BitVec 4) : Out :=
  let c := cc s
  let key := mtKey s.site.core n.toNat
  let word := cmdWord r a p (16 + n.toNat) op
  let wait := decide (16 ≤ amoWaiting s.fab s.site.core key)
  ccCmd s word r.toNat false false (some (a.toNat, wbit p)) wait fun d => withBlock s d 32 fun b =>
    let addr := fld b 0 32
    let ord := fld b 32 4
    let size := if bit b 38 then 8 else 4
    let place := match myRegion s with
      | some (_, g) => (spPlace g addr).filter fun (q : Nat × Nat × Nat) => q.1 == 16 * regionCoreNo g s.site.core + n.toNat
      | none => none
    if bit ord 0 && r == 0 then .trap 0 1 word
    else if relWait c ord then .wait
    else if fld b 39 25 ≠ 0 ∨ fld b 192 64 ≠ 0 then .trap 0 1 word
    else if place.isNone then .trap 0 6 (BitVec.ofNat 64 addr)
    else if addr % size ≠ 0 then .trap 0 3 (BitVec.ofNat 64 addr)
    else
      let c' := issued c r.toNat 1 false
      let c' := if bit ord 0 then { c' with acq := some r.toNat } else c'
      let q : MemReq :=
        { src := 1, plane := fld b 36 2, op := 0x304 + op, addr := BitVec.ofNat 32 addr, size := size, key := s.site.core
          data := BitVec.ofNat 512 (fld b 64 64), cmp := BitVec.ofNat 64 (fld b 128 64), id := c.nextId, reg := r.toNat, queue := key }
      thenFab (setCc s c') fun f => modElem f key fun e => { e with mt := { e.mt with cfgq := e.mt.cfgq ++ [q] } }

/-- amo.add (R298). -/
def execAmoAddCmd (r a : BitVec 5) (p : BitVec 1) (n : BitVec 4) (s : State) : Out := ccAmo s 0 r a p n
/-- amo.min (R298). -/
def execAmoMinCmd (r a : BitVec 5) (p : BitVec 1) (n : BitVec 4) (s : State) : Out := ccAmo s 1 r a p n
/-- amo.max (R298). -/
def execAmoMaxCmd (r a : BitVec 5) (p : BitVec 1) (n : BitVec 4) (s : State) : Out := ccAmo s 2 r a p n
/-- amo.and (R298). -/
def execAmoAndCmd (r a : BitVec 5) (p : BitVec 1) (n : BitVec 4) (s : State) : Out := ccAmo s 3 r a p n
/-- amo.or (R298). -/
def execAmoOrCmd (r a : BitVec 5) (p : BitVec 1) (n : BitVec 4) (s : State) : Out := ccAmo s 4 r a p n
/-- amo.xor (R298). -/
def execAmoXorCmd (r a : BitVec 5) (p : BitVec 1) (n : BitVec 4) (s : State) : Out := ccAmo s 5 r a p n
/-- amo.xchg (R298). -/
def execAmoXchgCmd (r a : BitVec 5) (p : BitVec 1) (n : BitVec 4) (s : State) : Out := ccAmo s 6 r a p n
/-- amo.cas (R298). -/
def execAmoCasCmd (r a : BitVec 5) (p : BitVec 1) (n : BitVec 4) (s : State) : Out := ccAmo s 7 r a p n

/-! ### Sequencer (R299, R300) -/

/-- The swap horizon in device ticks (R299). -/
def swapHorizon : Nat := 984

/-- Device time has reached the time at which a swap's check is made, one horizon before its tick (R299, R404, R507). -/
def horizonCome (now tick : Word) : Bool := decide (tick.toNat ≤ now.toNat + swapHorizon)

/-- swap: replies 2 and 3 at arrival, with SWAPREF; otherwise the swap is pending (R299, R404). -/
def execSwap (r a : BitVec 5) (p : BitVec 1) (s : State) : Out :=
  let c := cc s
  let word := cmdWord r a p 33 0
  ccCmd s word r.toNat false false (some (a.toNat, wbit p)) (hubFull c) fun d => withBlock s d 32 fun b =>
    let old := fld b 0 2
    let new := fld b 4 2
    let tick : Word := BitVec.ofNat 64 (fld b 64 64)
    if fld b 2 2 ≠ 0 ∨ fld b 6 58 ≠ 0 ∨ fld b 128 128 ≠ 0 ∨ old = new then .trap 0 1 word
    else match myRegion s with
    | none => .done (quick s 0)
    | some (rid, g) =>
      let s' := setCc s (issued c r.toNat 0 (r != 0))
      let refuse (code : Word) := thenFab s' fun f => regionEvent (cmdReply f s.site.core c.nextId r.toNat code) g 16
      if !(ctxBoundAll s.fab g old) ∨ (ctxOf g old).drift ∨ g.swap.isSome then refuse 3
      else if tick.toNat < s.clk.dtime.toNat + swapHorizon then refuse 2
      else
        let w : Swap := { old := old, new := new, tick := tick, core := s.site.core, id := c.nextId, reg := r.toNat }
        thenFab s' fun f => modRegion f rid fun g => { g with swap := some w }

/-- The drift launch in a plane of a region, if any (R300, R406). -/
def driftIn (f : Fab) (rid n : Nat) : Option (Nat × Region) :=
  f.regions.find? fun q => q.2.owner == some rid && q.2.plane == n

/-- Sends REVOKE (1) or RELEND (2) to every element of a drift launch's region, after the messages that are still on their way (R407, R408). -/
def sendDrift (f : Fab) (did kind : Nat) (reply : Option (Nat × Nat × Nat)) : Fab :=
  modRegion f did fun g =>
    if g.msgs.isEmpty then { g with lent := kind == 2, msgs := planeKeys g, msgKind := kind, msgReply := reply }
    else { g with lent := kind == 2, later := g.later ++ [(kind, reply)] }

/-- revoke and relend: reply 1 without a drift context, 2 when already so; otherwise the message goes out (R300, R407, R408). One for a context that its
own fault has revoked waits until its function resumes it (R412), and one for a restored context until it runs again. -/
def ccDrift (s : State) (kind cmd : Nat) (r a : BitVec 5) (p : BitVec 1) : Out :=
  let c := cc s
  let word := cmdWord r a p 33 cmd
  ccCmd s word r.toNat false false (some (a.toNat, wbit p)) (hubFull c) fun d =>
    if d.toNat / 4 ≠ 0 then .trap 0 1 word
    else
      let s' := setCc s (issued c r.toNat 0 (r != 0))
      let answer (v : Word) := thenFab s' fun f => cmdReply f s.site.core c.nextId r.toNat v
      match myRegion s with
      | none => answer 1
      | some (rid, g) => match driftIn s.fab rid (d.toNat % 4) with
        | none => answer 1
        | some (did, x) =>
          if x.restart ∨ (kind = 2 ∧ x.ownFault) then
            thenFab s' fun f => modRegion f did fun x => { x with later := x.later ++ [(kind, some (s.site.core, c.nextId, r.toNat))] }
          else if x.lent = (kind == 2) then answer 2
          else if kind = 2 ∧ g.swap.isSome then
            thenFab s' fun f => cmdReply (modRegion f did fun x => { x with relendDue := true }) s.site.core c.nextId r.toNat 0
          else thenFab s' fun f => sendDrift f did kind (some (s.site.core, c.nextId, r.toNat))

/-- revoke (R300). -/
def execRevoke (r a : BitVec 5) (p : BitVec 1) (s : State) : Out := ccDrift s 1 1 r a p
/-- relend (R300). -/
def execRelend (r a : BitVec 5) (p : BitVec 1) (s : State) : Out := ccDrift s 2 2 r a p

/-! ### Hub (R301, R302, R64, R65) -/

/-- Every element of a region selects a spine (R484, R398). -/
def selectSpine (f : Fab) (r : Region) (n : Nat) : Fab :=
  (regionKeys r).foldl (fun f k => modElem f k fun e => { e with spine := n }) f

/-- A lease ends: the elements return to the launch's spine (R484). -/
def endLease (f : Fab) (rid : Nat) : Fab :=
  match region? f rid with
  | none => f
  | some r => selectSpine (modRegion f rid fun r => { r with leaseEnd := none }) r (recFld r.launch 20 3)

/-- lease: DUR 1 to 983,040; refused with 0 when the core or region holds one, when LEN is 0, or when the hub's estimate does not
fit (R301, R484; log 17). -/
def execLease (r a : BitVec 5) (p : BitVec 1) (s : State) : Out :=
  let c := cc s
  let word := cmdWord r a p 34 0
  ccCmd s word r.toNat true false (some (a.toNat, wbit p)) (hubFull c) fun d =>
    if d.toNat = 0 ∨ 983040 < d.toNat then .trap 0 1 word
    else
      let s' := setCc s (issued c r.toNat 0 true)
      match myRegion s with
      | none => thenFab s' fun f => cmdReply f s.site.core c.nextId r.toNat 0
      | some (rid, g) =>
        let pt := partOf s.hub g.launch.part
        if g.leaseEnd.isSome ∨ !bit pt.metcfg.toNat 63 ∨ !Config.leaseFits s.free then
          thenFab { s' with free := s.free + 1 } fun f => cmdReply f s.site.core c.nextId r.toNat 0
        else
          let e := s.clk.dtime + d
          let s'' := { s' with free := s.free + 1, hub := modPart s.hub g.launch.part fun q => { q with leases := q.leases + 1 } }
          thenFab s'' fun f =>
            let f := modRegion { f with nextLease := f.nextLease + 1 } rid fun g =>
              { g with leaseEnd := some e, leaseCore := s.site.core, lease := some s.clk.dtime, leaseNo := f.nextLease }
            cmdReply (selectSpine f g 7) s.site.core c.nextId r.toNat e

/-- lease.end: ends the core's own lease; no effect without one (R301). -/
def execLeaseEnd (_a : BitVec 5) (_p : BitVec 1) (s : State) : Out :=
  ccCmd s 0 0 false false none (hubFull (cc s)) fun _ =>
    match myRegion s with
    | none => .done (quick s 0)
    | some (rid, g) =>
      if g.leaseEnd.isSome ∧ g.leaseCore = s.site.core then thenFab (quick s 0) fun f => endLease f rid
      else .done (quick s 0)

/-- launch: the record's address enters the function's child queue (R302, R394). -/
def execLaunch (r a : BitVec 5) (p : BitVec 1) (s : State) : Out :=
  let c := cc s
  ccCmd s (cmdWord r a p 34 2) r.toNat false false (some (a.toNat, wbit p)) (hubFull c) fun d =>
    if 2 ^ 52 ≤ d.toNat then .trap 0 6 d
    else if d.toNat % 64 ≠ 0 then .trap 0 3 d
    else
      let s' := setCc s (issued c r.toNat 0 true)
      match myRegion s with
      | none => .done s'
      | some (_, g) =>
        let fn := g.launch.fn
        .done { s' with hub := modPart s.hub g.launch.part fun (q : Part) =>
          let ix := tget 0 q.childIdx fn
          let x : Child := ⟨d, s.site.core, c.nextId, r.toNat, lClass g.launch, ix⟩
          { q with children := tins q.children fn (tget [] q.children fn ++ [x]), childIdx := tins q.childIdx fn (ix + 1) } }

/-- An invalidation command: supervisor-only, 8 outstanding per core (R64, R65). -/
def ccXinv (s : State) (kind cmd : Nat) (a : BitVec 5) (p : BitVec 1) : Out :=
  let c := cc s
  let word := cmdWord 0 a p 34 cmd
  let part := match corePart s.hub s.site.core with
    | some n => n
    | none => 0
  let pt := partOf s.hub part
  if !ccMode c then ccFinish s (.trap 0 4 word)
  else ccCmd s word 0 false false (some (a.toNat, wbit p)) false fun d =>
    let n := d.toNat
    let bad : Bool := match kind with
      | 0 => fld n 52 12 != 0 || fld n 5 7 != 0 || decide (vfCnt pt < n % 32)
      | 1 => n / 32 != 0 || decide (vfCnt pt < n % 32)
      | _ => n != 0
    if bad then .trap 0 1 word
    else if 8 ≤ (pt.invals.countP fun i => i.core == some s.site.core) then .wait
    else
      let x : Inval := { kind := kind, fn := n % 32, va := fld n 12 40 * 4096, core := some s.site.core, id := c.nextId }
      .done { setCc s (issued c 0 0x100 false) with hub := modPart s.hub part fun q => { q with invals := q.invals ++ [x] } }

/-- xinv.va (R64). -/
def execXinvVa (a : BitVec 5) (p : BitVec 1) (s : State) : Out := ccXinv s 0 0x040 a p
/-- xinv.fn (R64). -/
def execXinvFn (a : BitVec 5) (p : BitVec 1) (s : State) : Out := ccXinv s 1 0x041 a p
/-- xinv.part (R64). -/
def execXinvPart (a : BitVec 5) (p : BitVec 1) (s : State) : Out := ccXinv s 2 0x042 a p

end Sys2Proof.Machine
end

