-- ==== Sys2Proof/Machine/Float.lean ====
section
/-! DEFINITION. Number formats and arithmetic (03 R78-R92, 11 R315-R316): exact values, one rounding, the element
formats, XF expansion, and the integer fit. -/

namespace Sys2Proof.Machine

/-- An exact value of a float format: m * 2^e with a sign (zero keeps its sign), an infinity, or NaN (R80). -/
inductive FVal where
  | nan
  | inf (neg : Bool)
  | fin (neg : Bool) (m : Nat) (e : Int)
  deriving DecidableEq, Repr

/-- Number of bits of a positive number; 0 for 0. -/
def bitLen (n : Nat) : Nat := if n = 0 then 0 else Nat.log2 n + 1

/-- Magnitude m / 2^s rounded to an integer under mode rnd (R87), for a value of the given sign. -/
def roundMag (rnd : Nat) (neg : Bool) (m s : Nat) : Nat :=
  let q := m / 2 ^ s
  let r := m % 2 ^ s
  let half := 2 ^ (s - 1)
  let up : Bool :=
    if r = 0 then false
    else match rnd with
      | 0 => decide (half < r) || (r == half && q % 2 == 1)
      | 1 => false
      | 2 => neg
      | 3 => !neg
      | _ => decide (half ≤ r)
  if up then q + 1 else q

/-- As roundMag, with a shift beyond every bit of m reduced to one that rounds alike. -/
def roundMagFar (rnd : Nat) (neg : Bool) (m s : Nat) : Nat :=
  if bitLen m + 2 < s then (if m = 0 then 0 else roundMag rnd neg 1 2) else roundMag rnd neg m s

/-- rndshift(v, s) of R315. -/
def rndshift (rnd : Nat) (v : Int) (s : Nat) : Int :=
  let m := roundMagFar rnd (decide (v < 0)) v.natAbs s
  if v < 0 then -(m : Int) else (m : Int)

/-- Element width in bits of a format code, CI16 counted as its two INT16 parts (R78, R322). -/
def elemBits (fmt : Nat) : Nat :=
  match fmt with
  | 2 => 16 | 3 => 32 | 4 => 16 | 5 => 16 | 6 => 16 | 7 => 32 | 10 => 4 | _ => 8

/-- Lane width in bits of a format code (R307). -/
def laneBits (fmt : Nat) : Nat :=
  match fmt with
  | 2 => 16 | 3 => 32 | 4 => 32 | 5 => 16 | 6 => 16 | 7 => 32 | _ => 8

/-- Bytes of one element for alignment and addressing (R78, R99); 1 for untyped, 64 for an FP4 pack (R99). -/
def fmtSize (fmt : Nat) : Nat :=
  match fmt with
  | 2 => 2 | 3 => 4 | 4 => 4 | 5 => 2 | 6 => 2 | 7 => 4 | 10 => 64 | _ => 1

/-- Fraction bits of a float format (R80). -/
def fracBits (fmt : Nat) : Nat :=
  match fmt with
  | 5 => 10 | 6 => 7 | 7 => 23 | 8 => 3 | 9 => 2 | _ => 1

/-- Exponent bits of a float format (R80). -/
def expBits (fmt : Nat) : Nat :=
  match fmt with
  | 5 => 5 | 6 => 8 | 7 => 8 | 8 => 4 | 9 => 5 | _ => 2

/-- Exponent of the smallest subnormal of a float format (R80). -/
def quantum (fmt : Nat) : Int := 2 - (2 : Int) ^ (expBits fmt - 1) - fracBits fmt

/-- The encoding of the largest finite magnitude (R80). -/
def maxFinite (fmt : Nat) : Nat :=
  match fmt with
  | 5 => 0x7BFF | 6 => 0x7F7F | 7 => 0x7F7FFFFF | 8 => 0x7E | 9 => 0x7B | _ => 7

/-- The canonical NaN of a format (R80); E2M1 has none and takes +0 (R88). -/
def canonNaN (fmt : Nat) : Nat :=
  match fmt with
  | 5 => 0x7E00 | 6 => 0x7FC0 | 7 => 0x7FC00000 | 8 => 0x7F | 9 => 0x7E | _ => 0

/-- The sign bit of a float format. -/
def signBit (fmt : Nat) : Nat := 2 ^ (expBits fmt + fracBits fmt)

/-- The value an encoding stands for (R80). -/
def fdecode (fmt bits : Nat) : FVal :=
  let neg : Bool := bits / signBit fmt % 2 == 1
  let mag := bits % signBit fmt
  let fb := fracBits fmt
  if fmt = 10 ∨ mag ≤ maxFinite fmt then
    let x := mag / 2 ^ fb
    if x = 0 then .fin neg mag (quantum fmt)
    else .fin neg (2 ^ fb + mag % 2 ^ fb) (quantum fmt + (x - 1 : Nat))
  else if fmt ≠ 8 ∧ mag = maxFinite fmt + 1 then .inf neg
  else .nan

/-- A rounded result: the encoding, and whether a finite value overflowed (R88, R89). -/
structure FRes where
  bits : Nat
  ovf : Bool
  deriving DecidableEq, Repr

/-- Puts a sign on a magnitude. -/
def withSign (fmt : Nat) (neg : Bool) (mag : Nat) : Nat := if neg then signBit fmt + mag else mag

/-- The encoding of an infinite value (R89). -/
def encInf (fmt : Nat) (sat neg : Bool) : Nat :=
  if sat ∨ fmt = 10 then withSign fmt neg (maxFinite fmt)
  else if fmt = 8 then canonNaN 8
  else withSign fmt neg (maxFinite fmt + 1)

/-- The encoding of a finite overflow (R89). -/
def encOver (fmt rnd : Nat) (sat neg : Bool) : Nat :=
  if sat ∨ fmt = 10 then withSign fmt neg (maxFinite fmt)
  else if fmt = 8 then canonNaN 8
  else
    let away : Bool := match rnd with
      | 1 => false
      | 2 => neg
      | 3 => !neg
      | _ => true
    withSign fmt neg (maxFinite fmt + (if away then 1 else 0))

/-- Rounds an exact value once into a format (R87-R89, R316). -/
def fencode (fmt rnd : Nat) (sat : Bool) (v : FVal) : FRes :=
  match v with
  | .nan => ⟨canonNaN fmt, false⟩
  | .inf neg => ⟨encInf fmt sat neg, false⟩
  | .fin neg m e =>
    if m = 0 then ⟨withSign fmt neg 0, false⟩
    else
      let p : Int := (fracBits fmt : Int) + 1
      let q : Int := max ((bitLen m : Int) + e - p) (quantum fmt)
      let m' := if q ≤ e then m * 2 ^ (e - q).toNat else roundMagFar rnd neg m (q - e).toNat
      let mag := (q - quantum fmt).toNat * 2 ^ fracBits fmt + m'
      if maxFinite fmt < mag then ⟨encOver fmt rnd sat neg, true⟩ else ⟨withSign fmt neg mag, false⟩

/-- Sign of a value; false for NaN. -/
def FVal.isNeg : FVal → Bool
  | .nan => false
  | .inf n => n
  | .fin n _ _ => n

/-- The value with its sign inverted. -/
def FVal.neg : FVal → FVal
  | .nan => .nan
  | .inf n => .inf (!n)
  | .fin n m e => .fin (!n) m e

/-- The value with its sign cleared. -/
def FVal.abs : FVal → FVal
  | .nan => .nan
  | .inf _ => .inf false
  | .fin _ m e => .fin false m e

/-- The exact product; zero times infinity is NaN (R318). -/
def FVal.mul : FVal → FVal → FVal
  | .nan, _ => .nan
  | _, .nan => .nan
  | .inf n, .inf k => .inf (n != k)
  | .inf n, .fin k m _ => if m = 0 then .nan else .inf (n != k)
  | .fin k m _, .inf n => if m = 0 then .nan else .inf (n != k)
  | .fin n m e, .fin k l f => .fin (n != k) (m * l) (e + f)

/-- A signed magnitude as an integer. -/
def sgn (neg : Bool) (m : Nat) : Int := if neg then -(m : Int) else (m : Int)

/-- The exact sum; an exact zero of operands with opposite signs is +0, -0 under RDN (R87). -/
def FVal.add (rnd : Nat) : FVal → FVal → FVal
  | .nan, _ => .nan
  | _, .nan => .nan
  | .inf n, .inf k => if n = k then .inf n else .nan
  | .inf n, .fin _ _ _ => .inf n
  | .fin _ _ _, .inf n => .inf n
  | .fin n m e, .fin k l f =>
    let q := min e f
    let v := sgn n (m * 2 ^ (e - q).toNat) + sgn k (l * 2 ^ (f - q).toNat)
    if v = 0 then .fin (if n = k then n else rnd == 2) 0 q
    else .fin (decide (v < 0)) v.natAbs q

/-- Exact comparison of two values that are not NaN; -0 equals +0. -/
def FVal.cmp : FVal → FVal → Ordering
  | .inf n, .inf k => if n = k then .eq else if n then .lt else .gt
  | .inf n, _ => if n then .lt else .gt
  | _, .inf n => if n then .gt else .lt
  | .fin n m e, .fin k l f =>
    let q := min e f
    compare (sgn n (m * 2 ^ (e - q).toNat)) (sgn k (l * 2 ^ (f - q).toNat))
  | _, _ => .eq

/-- Minimum with -0 below +0 and NaN winning (R130, R318). -/
def FVal.min (x y : FVal) : FVal :=
  match x, y with
  | .nan, _ => .nan
  | _, .nan => .nan
  | _, _ => match FVal.cmp x y with
    | .lt => x
    | .gt => y
    | .eq => if x.isNeg then x else y

/-- Maximum, likewise. -/
def FVal.max (x y : FVal) : FVal :=
  match x, y with
  | .nan, _ => .nan
  | _, .nan => .nan
  | _, _ => match FVal.cmp x y with
    | .lt => y
    | .gt => x
    | .eq => if x.isNeg then y else x

/-- Rounds to an integral value (vrnd, R318). -/
def FVal.integral (rnd : Nat) : FVal → FVal
  | .fin n m e => if 0 ≤ e then .fin n m e else .fin n (roundMagFar rnd n m (-e).toNat) 0
  | v => v

/-- Integer square root by Newton's iteration from above; the fuel is ample for 1024-bit numbers. -/
def isqrtGo (n : Nat) : Nat → Nat → Nat
  | 0, x => x
  | fuel + 1, x =>
    let y := (x + n / x) / 2
    if x ≤ y then x else isqrtGo n fuel y

/-- Floor of the square root. -/
def isqrt (n : Nat) : Nat := if n = 0 then 0 else isqrtGo n 600 (2 ^ ((bitLen n + 1) / 2))

/-- A value q * 2^e, or a little above it when it is inexact: the extra low bit keeps every rounding right. -/
def stickyVal (neg : Bool) (q : Nat) (e : Int) (exact : Bool) : FVal :=
  .fin neg (2 * q + (if exact then 0 else 1)) (e - 1)

/-- 1/x (R325). -/
def fRcp : FVal → FVal
  | .nan => .nan
  | .inf n => .fin n 0 0
  | .fin n m e =>
    if m = 0 then .inf n
    else
      let k := bitLen m + 64
      stickyVal n (2 ^ k / m) (-(k : Int) - e) (2 ^ k % m == 0)

/-- 1/sqrt x (R325). -/
def fRsqrt : FVal → FVal
  | .nan => .nan
  | .inf n => if n then .nan else .fin false 0 0
  | .fin n m e =>
    if m = 0 then .inf n
    else if n then .nan
    else
      let (m, e) := if e % 2 = 0 then (m, e) else (2 * m, e - 1)
      let k := bitLen m + 64
      let q := isqrt (2 ^ (2 * k) / m)
      stickyVal false q (-(k : Int) - e / 2) (q * q * m == 2 ^ (2 * k))

/-- Fixed-point digits kept by exp2 and log2 (log 8). -/
def fixBits : Nat := 248

/-- 2^f for the fraction f = frac / 2^n, as a fixed-point number: the product of 2^(2^-i) over the set bits. -/
def exp2Frac : Nat → Nat → Nat → Nat → Nat
  | 0, _, _, acc => acc
  | n + 1, frac, root, acc =>
    let root := isqrt (root * 2 ^ fixBits)
    let bit := frac / 2 ^ n % 2
    let acc := if bit = 1 then acc * root / 2 ^ fixBits else acc
    if frac % 2 ^ n = 0 then acc else exp2Frac n frac root acc

/-- 2^x (R325). -/
def fExp2 : FVal → FVal
  | .nan => .nan
  | .inf n => if n then .fin false 0 0 else .inf false
  | .fin n m e =>
    if 0 ≤ e then .fin false 1 (sgn n (m * 2 ^ e.toNat))
    else
      let k := (-e).toNat
      let v := sgn n m
      let i := v / 2 ^ k
      let f := (v % 2 ^ k).toNat
      if f = 0 then .fin false 1 i
      else stickyVal false (exp2Frac k f (2 * 2 ^ fixBits) (2 ^ fixBits)) (i - fixBits) false

/-- Digits of log2 of y in [1, 2), most significant first, as a number. -/
def log2Frac : Nat → Nat → Nat → Nat
  | 0, _, acc => acc
  | n + 1, y, acc =>
    let y := y * y / 2 ^ fixBits
    if 2 * 2 ^ fixBits ≤ y then log2Frac n (y / 2) (2 * acc + 1) else log2Frac n y (2 * acc)

/-- log2 x (R325); the zero of log2 1 is exact. -/
def fLog2 : FVal → FVal
  | .nan => .nan
  | .inf n => if n then .nan else .inf false
  | .fin n m e =>
    if m = 0 then .inf true
    else if n then .nan
    else
      let l := bitLen m - 1
      let i : Int := e + l
      if m = 2 ^ l then .fin (decide (i < 0)) i.natAbs 0
      else
        let v : Int := i * 2 ^ 128 + log2Frac 128 (m * 2 ^ fixBits / 2 ^ l) 0
        if v < 0 then .fin true (2 * v.natAbs - 1) (-129) else .fin false (2 * v.toNat + 1) (-129)

/-- Whether an encoding is a NaN. -/
def isNaNBits (fmt bits : Nat) : Bool := fdecode fmt bits == .nan

/-- FP32 add of home accumulates: RNE, sat 0 (R130). -/
def fp32Add (x y : Nat) : Nat := (fencode 7 0 false (FVal.add 0 (fdecode 7 x) (fdecode 7 y))).bits
/-- FP32 minimum (R130). -/
def fp32Min (x y : Nat) : Nat := (fencode 7 0 false (FVal.min (fdecode 7 x) (fdecode 7 y))).bits
/-- FP32 maximum (R130). -/
def fp32Max (x y : Nat) : Nat := (fencode 7 0 false (FVal.max (fdecode 7 x) (fdecode 7 y))).bits

/-- The signed value of the low w bits of a number. -/
def sext (w n : Nat) : Int := if n % 2 ^ w < 2 ^ (w - 1) then (n % 2 ^ w : Nat) else ((n % 2 ^ w : Nat) : Int) - 2 ^ w

/-- The low w bits of an integer. -/
def wrapTo (w : Nat) (v : Int) : Nat := (v % 2 ^ w).toNat

/-- The value of an integer element: UINT8 unsigned, the others two's complement (R79, R307). -/
def ival (fmt bits : Nat) : Int := if fmt = 11 then (bits % 256 : Nat) else sext (elemBits fmt) bits

/-- Range of an integer format. -/
def imin (fmt : Nat) : Int := if fmt = 11 then 0 else -(2 ^ (elemBits fmt - 1) : Int)
/-- Range of an integer format. -/
def imax (fmt : Nat) : Int := if fmt = 11 then 255 else 2 ^ (elemBits fmt - 1) - 1

/-- Fits an exact integer to an integer format; the flag says that it lay outside the range (R315, R317). -/
def fitInt (fmt : Nat) (sat : Bool) (v : Int) : Nat × Bool :=
  let out : Bool := decide (v < imin fmt) || decide (imax fmt < v)
  let v' := if sat then min (max v (imin fmt)) (imax fmt) else v
  (wrapTo (elemBits fmt) v', out)

/-- Whether a format code is a float format. -/
def isFloat (fmt : Nat) : Bool := decide (5 ≤ fmt ∧ fmt ≤ 10)

/-- Float to integer: rounds, then clamps whatever sat holds; NaN gives 0 (R90). -/
def fToInt (fmt rnd : Nat) (v : FVal) : Nat × Bool :=
  match v with
  | .nan => (0, false)
  | .inf n => (wrapTo (elemBits fmt) (if n then imin fmt else imax fmt), true)
  | .fin n m e =>
    let i := sgn n (if 0 ≤ e then m * 2 ^ e.toNat else roundMagFar rnd n m (-e).toNat)
    fitInt fmt true i

/-- Converts one element from format sf to format df (R88-R92); the flag is the condition of vcvt (R317). -/
def cvtElem (sf df rnd : Nat) (sat : Bool) (bits : Nat) : Nat × Bool :=
  if isFloat sf then
    if isFloat df then
      let r := fencode df rnd sat (fdecode sf bits)
      (r.bits, r.ovf)
    else fToInt df rnd (fdecode sf bits)
  else
    let v := ival sf bits
    if isFloat df then
      let r := fencode df rnd sat (.fin (decide (v < 0)) v.natAbs 0)
      (r.bits, r.ovf)
    else fitInt df sat v

/-- Value of an E3M5 block scale (R82). -/
def e3m5 (b : Nat) : FVal :=
  let e := b / 32 % 8
  let m := b % 32
  if e = 0 then .fin false m (-7) else .fin false (32 + m) ((e : Int) - 8)

/-- xf_expand (R86), as the exact value the XF word stands for. -/
def xfExpand (e fmt lscale bscale : Nat) : FVal :=
  let v := if fmt = 10 then FVal.mul (fdecode 10 e) (e3m5 bscale) else fdecode fmt e
  if lscale = 0xFF then .nan
  else match v with
    | .fin n m x =>
      let x := x + (lscale : Int) - 127
      if fmt = 5 then
        let s := bitLen m - 8
        .fin n (roundMag 0 false m s) (x + s)
      else .fin n m x
    | w => w

/-- The 19-bit XF word of an expanded value (R85). -/
def xfWord (v : FVal) : Nat :=
  match v with
  | .nan => 1023 * 256 + 128
  | .inf n => (if n then 2 ^ 18 else 0) + 1023 * 256
  | .fin n m e =>
    if m = 0 then (if n then 2 ^ 18 else 0)
    else
      let l := bitLen m
      (if n then 2 ^ 18 else 0) + (e + l - 1 + 511).toNat * 256 + m * 2 ^ 8 / 2 ^ l

/-- The exact sum of products added to a cell under RNE (R344, R345): terms then cell; zero takes its sign by R87. -/
def sumExact (terms : List FVal) : FVal :=
  match terms with
  | [] => .fin false 0 0
  | t :: ts => ts.foldl (fun a b => FVal.add 0 a b) t

end Sys2Proof.Machine
end

