-- ==== Sys2Proof/Machine/Banks.lean ====
section
/-! DEFINITION. Memory-tile banks: placement, lending, journals, and the access that a request performs (04 R102-R110, R128,
05 R130-R134, 10 R298, 13 R372-R374). -/

namespace Sys2Proof.Machine

/-! ### Lanes of a line -/

/-- n copies of a w-bit value side by side. -/
def spread (w v : Nat) : Nat → Nat
  | 0 => 0
  | n + 1 => v % 2 ^ w + 2 ^ w * spread w v n

/-- A w-bit value in every lane of a line. -/
def splat (w v : Nat) : Line := BitVec.ofNat 512 (spread w v (512 / w))

/-- Lanes of w bits, lane 0 first. -/
def lanes (w : Nat) (l : Line) : List Nat := (List.range (512 / w)).map fun i => fld l.toNat (w * i) w

/-- A line from its lanes. -/
def packLanes (w : Nat) (l : List Nat) : Nat :=
  match l with
  | [] => 0
  | x :: r => x % 2 ^ w + 2 ^ w * packLanes w r

/-- A line from its lanes. -/
def pack (w : Nat) (l : List Nat) : Line := BitVec.ofNat 512 (packLanes w l)

/-- The lane function of an accumulate (R130). -/
def accLane (acop fmt x y : Nat) : Nat :=
  match acop with
  | 0 => if fmt = 7 then fp32Add x y
    else if fmt = 2 then (x + y) % 2 ^ 16
    else if fmt = 4 then (x + y) % 2 ^ 16 + (x / 2 ^ 16 + y / 2 ^ 16) % 2 ^ 16 * 2 ^ 16
    else (x + y) % 2 ^ 32
  | 1 => if fmt = 7 then fp32Min x y else if sext 32 x < sext 32 y then x else y
  | _ => if fmt = 7 then fp32Max x y else if sext 32 x < sext 32 y then y else x

/-- An accumulate of a whole line: the same lane of both (R130, R132). -/
def accLine (acop fmt : Nat) (line addend : Line) : Line :=
  let n := laneBits fmt
  pack n (List.zipWith (accLane acop fmt) (lanes n line) (lanes n addend))

/-- The pairs of ACOP and FMT that are legal (R130). -/
def accLegal (acop fmt : Nat) : Bool :=
  match acop with
  | 0 => fmt == 2 || fmt == 3 || fmt == 4 || fmt == 7
  | 1 => fmt == 3 || fmt == 7
  | 2 => fmt == 3 || fmt == 7
  | _ => false

/-- The new value of an atomic on a w-bit field (R298): operations 0 to 7 in the order add, min, max, and, or, xor, xchg, cas. -/
def amoNew (op w old b c : Nat) : Nat :=
  match op with
  | 0 => (old + b) % 2 ^ w
  | 1 => if sext w old < sext w b then old else b
  | 2 => if sext w old < sext w b then b else old
  | 3 => Nat.land old b
  | 4 => Nat.lor old b
  | 5 => Nat.xor old b
  | 6 => b
  | _ => if old = c then b else old

/-! ### Control words and placement (R105-R107, R221) -/

/-- MTCTL.ILV of a memory-tile plane. -/
def ilvOf (p : Plane) : Nat := fld (tget 0 p.frames 4).toNat 64 2
/-- BANKCTL of a bank. -/
def bankCtl (p : Plane) (b : Nat) : Nat :=
  if b < 4 then fld (tget 0 p.frames 5).toNat (64 * b) 64 else fld (tget 0 p.frames 6).toNat (64 * (b - 4)) 64
/-- A field whose zero selects a default. -/
def orDef (v d : Nat) : Nat := if v = 0 then d else v
/-- THRESH. -/
def bThresh (p : Plane) (b : Nat) : Nat := orDef (fld (bankCtl p b) 24 5) 12
/-- QUOTA. -/
def bQuota (p : Plane) (b : Nat) : Nat := orDef (fld (bankCtl p b) 16 5) 8
/-- JHWM. -/
def bJhwm (p : Plane) (b : Nat) : Nat := orDef (fld (bankCtl p b) 0 5) 24
/-- LEND. -/
def bLend (p : Plane) (b : Nat) : Bool := bit (bankCtl p b) 7

/-- Physical tile, bank and line of a tile's bank and line under an interleave mode (R107). -/
def physOf (ilv t bank line : Nat) : Nat × Nat × Nat :=
  let n := bank * 512 + line
  match ilv with
  | 1 => (t, n % 6, n / 6)
  | 2 => let g := t * 3072 + n
    (g % 16, g / 16 % 6, g / 16 / 6)
  | _ => (t, bank, line)

/-- Memory-tile key, bank and line of a scratchpad address as a context of a core's region names it; none where it breaks R31. -/
def spLocate (f : Fab) (core plane addr : Nat) : Option (Nat × Nat × Nat) :=
  match regionOf f core with
  | none => none
  | some (_, r) => match spPlace r addr with
    | none => none
    | some (i, bank, line) =>
      let c := coreOfNo r (i / 16)
      let q := physOf (ilvOf (planeOf (elemOf f (mtKey c (i % 16))) plane)) (i % 16) bank line
      some (mtKey c q.1, q.2.1, q.2.2)

/-- A bank of a memory tile is in the lend set: LEND is set in an owner plane that is bound or retiring (R106, R406). -/
def inLendSet (f : Fab) (key b : Nat) : Bool :=
  [0, 1, 2, 3].any fun n =>
    let p := planeOf (elemOf f key) n
    (p.st == .bound || p.st == .retiring) && !isDrift key p && bLend p b

/-- A drift context is placed in the region of a core (R128). -/
def driftPlaced (f : Fab) (core : Nat) : Bool :=
  match regionOf f core with
  | none => false
  | some (rid, _) => f.regions.any fun q => q.2.owner == some rid

/-- A bank is lent: it is of the lend set while a drift context is placed in the region (R128). -/
def lentBank (f : Fab) (key b : Nat) : Bool := inLendSet f key b && driftPlaced f (keyCore key)

/-- Whether a context may use a bank (R31, R128): a drift context only the lend set, an owner context no lent bank. -/
def bankAllowed (f : Fab) (key plane b : Nat) : Bool :=
  if isDrift key (planeOf (elemOf f key) plane) then inLendSet f key b else !lentBank f key b

/-! ### Access (R102, R104, R109, R132, R373, R374) -/

/-- Byte address of a line of a tile. -/
def bankByte (b line : Nat) : Nat := 32768 * b + 64 * line

/-- Tag FMT, SCALE of a line. -/
def spTag (m : MtSt) (b line : Nat) : BitVec 16 := tget 0 m.tags (512 * b + line)

/-- CHECK of a line as it is stored (R77). -/
def spCheck (m : MtSt) (b line : Nat) : BitVec 16 := tget zeroCheck m.checks (512 * b + line)

/-- Every write of a line regenerates its CHECK (R74, R77). -/
def putCheck (m : MtSt) (b line : Nat) : MtSt :=
  { m with checks := tput zeroCheck m.checks (512 * b + line) (lineCheck (lineAt m.data (bankByte b line)) (spTag m b line)) }

/-- The bytes of a request meet a word with an uncorrectable error, a line whose CHECK does not hold, or a tag with a reserved FMT (R76-R78,
R471). -/
def reqBad (m : MtSt) (q : MemReq) : Bool :=
  let a := bankByte q.bank q.line + q.addr.toNat % 64
  decide (12 ≤ (spTag m q.bank q.line).toNat % 256) || (m.bad.any fun w => decide (a < 8 * w + 8 ∧ 8 * w < a + q.size)) ||
    spCheck m q.bank q.line != lineCheck (lineAt m.data (bankByte q.bank q.line)) (spTag m q.bank q.line)

/-- A line of a tile cannot be read: a word, its CHECK or its tag fails (R76-R78, R471). -/
def lineBad (m : MtSt) (b line : Nat) : Bool := reqBad m { bank := b, line := line }

/-- Whether a request writes; a failed amo.cas counts as a write (R109, R374). -/
def reqWrites (q : MemReq) : Bool := q.op != 0x300 && q.op != 0x302

/-- Journals a line before its first write in a round of a context (R109). -/
def bankJournal (m : MtSt) (b line ctx : Nat) (round : BitVec 32) : MtSt :=
  let j := tget [] m.jr b
  if j.any fun e => e.line == line && e.ctx == ctx && e.round == round then m
  else
    let x : JEnt := { line := line, old := lineAt m.data (bankByte b line), tag := spTag m b line, check := spCheck m b line, ctx := ctx, round := round }
    { m with jr := tins m.jr b (j ++ [x]) }

/-- The bank's journal has a place for the request's line (R109, R122). -/
def bankRoom (m : MtSt) (b line ctx : Nat) (round : BitVec 32) : Bool :=
  let j := tget [] m.jr b
  decide (j.length < 32) || j.any fun e => e.line == line && e.ctx == ctx && e.round == round

/-- n bytes at an address written as whole words clear their errors. -/
def clearBad (m : MtSt) (a n : Nat) : MtSt :=
  { m with bad := m.bad.filter fun w => !(decide (a ≤ 8 * w) && decide (8 * w + 8 ≤ a + n)) }

/-- What a request reads: its bytes as a number; an atomic's field sign-extended to 64 bits (R298). -/
def reqOld (m : MtSt) (q : MemReq) : Nat :=
  let v := mgetN m.data (bankByte q.bank q.line + q.addr.toNat % 64) q.size
  if 0x304 ≤ q.op ∧ q.op ≤ 0x30B then wrapTo 64 (sext (8 * q.size) v) else v

/-- Data and tag that a request's write leaves (R132, R373, R374). -/
def reqData (m : MtSt) (q : MemReq) : MtSt :=
  let a := bankByte q.bank q.line + q.addr.toNat % 64
  let ln := 512 * q.bank + q.line
  if q.op = 0x310 then
    let b := bankByte q.bank q.line
    let t := spTag m q.bank q.line
    { m with data := putLine m.data b (accLine q.acop q.fmt (lineAt m.data b) q.data)
             tags := tput 0 m.tags ln ((t &&& 0xFF00#16) ||| BitVec.ofNat 16 q.fmt) }
  else if 0x304 ≤ q.op ∧ q.op ≤ 0x30B then
    let w := 8 * q.size
    let old := mgetN m.data a q.size
    { clearBad m a q.size with
      data := mputN m.data a q.size (amoNew (q.op - 0x304) w old (q.data.toNat % 2 ^ w) (q.cmp.toNat % 2 ^ w)) }
  else
    { clearBad m a q.size with
      data := mputN m.data a q.size q.data.toNat
      tags := match q.tag with
        | some t => tput 0 m.tags ln t
        | none => m.tags }

/-- Performs a request's write, if it has one: data, the tag where it is written, and CHECK (R74, R77). -/
def reqWrite (m : MtSt) (q : MemReq) : MtSt := if reqWrites q then putCheck (reqData m q) q.bank q.line else m

/-- An access of a context's round has performed at a bank (R163). -/
def bankTouch (m : MtSt) (b ctx : Nat) (round : BitVec 32) : MtSt :=
  if m.touch.contains (b, ctx, round) then m else { m with touch := (b, ctx, round) :: m.touch }

/-- Performs a request with its journal entry; jrn is the round that journals it, if one does. -/
def reqPerform (m : MtSt) (q : MemReq) (jrn : Option (BitVec 32)) : MtSt :=
  let m := match jrn with
    | some r => bankTouch (if reqWrites q then bankJournal m q.bank q.line q.plane r else m) q.bank q.plane r
    | none => m
  reqWrite m q

/-! ### Reading and changing a tile -/

/-- Changes the storage of a memory tile. -/
def modMt (f : Fab) (key : Nat) (g : MtSt → MtSt) : Fab := modElem f key fun e => { e with mt := g e.mt }
/-- Requests standing in a bank's queue. -/
def bankLen (e : Elem) (b : Nat) : Nat := (tget [] e.mt.bankq b).length
/-- depth(b): the requests that stood in a bank's queue at the start of the tile cycle (R134). -/
def bankDepth (e : Elem) (b : Nat) : Nat := tget 0 e.mt.start b
/-- The mark of a bank whose pipeline has accepted an access in the tile cycle (R102). -/
def pipeMark (b : Nat) : Nat := 32 + b

/-- A request enters a bank's queue, which takes one in a tile cycle (R103); q is the input queue it came by, if it came by one that the
round-robin counts. -/
def bankPush (f : Fab) (key : Nat) (q : MemReq) (rr : Option Nat) : Fab :=
  modMt f key fun m =>
    { m with
      bankq := tput [] m.bankq q.bank (tget [] m.bankq q.bank ++ [q])
      took := q.bank :: m.took
      rr := match rr with
        | some i => tput 0xFF m.rr q.bank i
        | none => m.rr }

/-- A request arrives at a memory tile over the configuration path (R103, R117). -/
def cfgPush (f : Fab) (key : Nat) (q : MemReq) : Fab := modMt f key fun m => { m with cfgq := m.cfgq ++ [q] }

/-- The window's counters with the clear that is due (R133). -/
def quotaClear (m : MtSt) : MtSt := if m.qdue then { m with accepted := [], qdue := false } else m
/-- used(b, s) (R133, R134). -/
def usedOf (m : MtSt) (b s : Nat) : Nat := if m.qdue then 0 else tget 0 m.accepted (17 * b + s)
/-- Counts an acceptance of a bank and port (R133). -/
def countUse (m : MtSt) (b s : Nat) : MtSt :=
  let m := quotaClear m
  { m with accepted := tput 0 m.accepted (17 * b + s) (tget 0 m.accepted (17 * b + s) + 1) }

end Sys2Proof.Machine
end

