-- ==== Sys2Proof/Machine/Slots.lean ====
section
/-! DEFINITION. Firing a slot: queue heads, readiness, pops, emission, sources and destinations (07 R192, 08 R230-R234,
11 R308-R311, 13 R357-R359). -/

namespace Sys2Proof.Machine

/-! ### Queues -/

/-- The route entry of a context's token that came by an input selector (R224): V and PORT. -/
def routeEntry (e : Elem) (ctx sel : Nat) : Nat :=
  fld (tget 0 e.net.routes ctx).toNat (if sel < 0x40 then 4 * (sel - 0x20) else 64 + 4 * (sel - 0x40)) 4

/-- The port that the route table gives a token, if its entry is valid (R182, R224). -/
def routeOf (e : Elem) (t : Token) (sel : Nat) : Option Nat :=
  let r := routeEntry e t.ctx.toNat sel
  if bit r 3 then some (r % 8) else none

/-- A token passes on through the switch to another port. -/
def passes (e : Elem) (t : Token) (sel : Nat) : Bool :=
  match routeOf e t sel with
  | some p => p != 4
  | none => false

/-- The head of an input queue: the first token of the receive buffer, when it is for the element (R181). -/
def headOf (e : Elem) (sel : Nat) : Option Token := (tget [] e.net.rx sel).head?.filter fun t => !passes e t sel

/-- Whether a selector names a wide queue. -/
def isWideSel (sel : Nat) : Bool := decide (sel < 0x40)

/-- Direction of an input selector. -/
def selDir (sel : Nat) : Nat := if sel < 0x40 then sel % 16 / 4 else sel % 8 / 2
/-- VC of a selector. -/
def selVc (sel : Nat) : Nat := if sel < 0x40 then sel % 4 else sel % 2
/-- The output selector toward d on the same network and VC as an input selector. -/
def outSel (sel d : Nat) : Nat := if sel < 0x40 then 0x30 + 4 * d + sel % 4 else 0x48 + 2 * d + sel % 2
/-- The input selector of tokens that arrive from d on the network and VC of a selector. -/
def inSel (sel d : Nat) : Nat := if sel < 0x40 then 0x20 + 4 * d + sel % 4 else 0x40 + 2 * d + sel % 2

/-- Takes the head off an input queue; its buffer place goes back to the sender as a permit (R185), but for a copy of a twin channel, which took none
(R467). -/
def popQ (f : Fab) (key sel : Nat) : Fab :=
  let e := elemOf f key
  match tget [] e.net.rx sel with
  | [] => f
  | t :: r =>
    let f := modElem f key fun e => { e with net := { e.net with rx := tput [] e.net.rx sel r } }
    match (neighbour key (selDir sel)).filter fun _ => !t.twin with
    | none => f
    | some k =>
      let o := outSel sel (opposite (selDir sel))
      modElem f k fun e => { e with net := { e.net with owed := tput 0 e.net.owed o (tget 0 e.net.owed o + 1) } }

/-- Puts a token at the tail of an output queue. -/
def pushOut (f : Fab) (key sel : Nat) (t : Token) : Fab :=
  modElem f key fun e => { e with net := { e.net with outq := tput [] e.net.outq sel (tget [] e.net.outq sel ++ [t]) } }

/-- Free places of an output queue of 2 (R181). -/
def outRoom (e : Elem) (sel : Nat) : Nat := 2 - (tget [] e.net.outq sel).length

/-- The channel tag that frame 44, or frame 7 of a memory tile, gives an output queue (R218, R221). -/
def ctagOf (key : Nat) (p : Plane) (sel : Nat) : Byte :=
  let fr := (tget 0 p.frames (if kindOf key = .memory then 7 else 44)).toNat
  BitVec.ofNat 8 (fld fr (if sel < 0x40 then 8 * (sel - 0x30) else 128 + 8 * (sel - 0x48)) 8)

/-! ### Slots and inputs of a plane -/

/-- Slots of an element: 16 in a compute tile, 8 in a memory tile (R178, R221). -/
def slotCount (key : Nat) : Nat := if kindOf key = .memory then 8 else 16

/-- The 128-bit word of a slot (R218). -/
def slotWordOf (p : Plane) (n : Nat) : Nat := fld (tget 0 p.frames (n / 2)).toNat (128 * (n % 2)) 128

/-- Bit fields of a slot word that the trigger and the arbiter read (R227). -/
def swValid (w : Nat) : Bool := bit w 80
/-- The opcode of a slot word. -/
def swOp (w : Nat) : Nat := fld w 70 10
/-- inmask of a slot word. -/
def swIn (w : Nat) : Nat := fld w 112 16

/-- Valid slots of a plane of a compute or memory tile. -/
def validSlots (key : Nat) (p : Plane) : List Nat :=
  match kindOf key with
  | .compute => (List.range 16).filter fun n => swValid (slotWordOf p n)
  | .memory => (List.range 8).filter fun n => swValid (slotWordOf p n)
  | _ => []

/-- Frame word of stream s of an AG plane: bit field of its control frame (R223). -/
def strFld (p : Plane) (st lo n : Nat) : Nat := fld (tget 0 p.frames (3 * st + 2)).toNat lo n
/-- EN of a stream. -/
def strEn (p : Plane) (st : Nat) : Bool := strFld p st 32 1 == 1
/-- DIR of a stream: true for a write stream. -/
def strDir (p : Plane) (st : Nat) : Bool := strFld p st 34 1 == 1
/-- SPACE of a stream: true for scratchpad. -/
def strSpace (p : Plane) (st : Nat) : Bool := strFld p st 33 1 == 1
/-- QSEL of a stream. -/
def strQ (p : Plane) (st : Nat) : Nat := strFld p st 56 8

/-- Back-edge queues of a plane (R179). -/
def isBack (key : Nat) (p : Plane) (sel : Nat) : Bool :=
  let c := planeCtl key p
  if sel < 0x40 then bit c (32 + (sel - 0x20)) else bit c (24 + (sel - 0x40))

/-- Every input queue that a plane reads, back edges included: its slots' masks, its chain queue, its write streams (R195). -/
def planeReads (key : Nat) (p : Plane) : List Nat :=
  let d := isDrift key p
  let c := planeCtl key p
  let qs := (validSlots key p).flatMap fun n => inQueues d (swIn (slotWordOf p n))
  let ch := if bit c 23 && kindOf key != .ag then [0x40 + fld c 16 3] else []
  let st := if kindOf key = .ag then (List.range 8).filterMap fun i =>
      if strEn p i && strDir p i then some (strQ p i) else none else []
  let dq := (p.stages.filter fun x => x.dist).map fun x => fld x.w0.toNat 14 8
  (qs ++ ch ++ st ++ dq).dedup

/-- The inputs that a plane waits on at a round edge: those that are not back edges (R195). -/
def planeWaits (key : Nat) (p : Plane) : List Nat := (planeReads key p).filter fun q => !isBack key p q

/-- The output queues that a plane emits on: those its slots, read streams and distributor name, an hrecv's credit queue among them (R195,
R378). -/
def planeOuts (key : Nat) (p : Plane) : List Nat :=
  let d := isDrift key p
  let qs := (validSlots key p).flatMap fun n =>
    let w := slotWordOf p n
    outQueues d (fld w 96 16) ++ (match fld w 70 10 with
      | 0x203 => [fld w 0 8]
      | 0x205 => outQueues d (fld w 0 16)
      | 0x20A => [fld w 0 8]
      | 0x20C => [fld w 0 8]
      | 0x30F => [fld w 0 8]
      | _ => []).filter isOutSel
  let st := if kindOf key = .ag then (List.range 8).filterMap fun i =>
      if strEn p i && !strDir p i then some (strQ p i) else none else []
  let dq := (p.stages.filter fun x => x.dist).flatMap fun x => (List.range (fld x.w0.toNat 22 3)).map fun r => fld x.w1.toNat (8 * r) 8
  (qs ++ st ++ dq).dedup

/-- State of a slot. -/
def slotOfRun (r : PRun) (n : Nat) : SlotSt := tget {} r.slots n
/-- Changes the state of a slot. -/
def modSlot (r : PRun) (n : Nat) (g : SlotSt → SlotSt) : PRun := { r with slots := tmod {} r.slots n g }

/-! ### Readiness (R192) -/

/-- lvl_ok (R192). -/
def lvlOk (t : Token) (c : Nat) : Bool :=
  if c = 0 then true else if c = 7 then t.lvl == 0 else t.lvl != 0 && decide (t.lvl.toNat ≤ c)

/-- The head of q is a token of the plane of the wanted kind and level. -/
def headOk (e : Elem) (plane kindc lvlc sel : Nat) : Bool :=
  match headOf e sel with
  | none => false
  | some t => t.ctx.toNat == plane && (if kindc = 0 then t.kind == 0 else t.kind == 3) && lvlOk t lvlc

/-- A head of the wanted kind and level that a slot may take: no firing has popped the queue in this tile cycle, so it stood there at its start
(R192), and an input queue delivers one request in a cycle (R103). -/
def canTake (e : Elem) (plane kindc lvlc sel : Nat) : Bool := !e.popd.contains sel && headOk e plane kindc lvlc sel

/-- A data token of the plane stands at the head, whatever its level (R358). -/
def holdsHead (e : Elem) (plane sel : Nat) : Bool := canTake e plane 0 0 sel

/-- SEQ of a token (R362). -/
def seqOf (t : Token) : BitVec 16 := t.data.setWidth 16

/-- The inputs of merge.o whose head carries SEQ = NEXT, in the order srcA, srcB, srcC (R362). -/
def mergeHit (e : Elem) (plane : Nat) (next : BitVec 16) (w : Slot) : Option Nat :=
  [w.a.toNat, w.b.toNat, w.c.toNat].find? fun q =>
    q != 0x60 && holdsHead e plane q && (headOf e q).any fun t => seqOf t == next

/-- A round mark of the plane stands at the head of an input that is no back edge, and blocks it (R195). -/
def markBlocks (e : Elem) (key plane : Nat) (p : Plane) (sel : Nat) : Bool :=
  !isBack key p sel && (headOf e sel).any fun t => t.ctx.toNat == plane && t.kind == 2

/-- The end mark of a plane stands at the head of every input that its element waits on (R192, R195). -/
def endStands (e : Elem) (key plane : Nat) (p : Plane) : Bool :=
  !(planeWaits key p).isEmpty && (planeWaits key p).all (headOk e plane 1 0)

/-- The input condition of a slot: the heads of inmask, or the operation's own rule, which asks for data tokens of any level (R358); no input
blocked by a round mark; and in a memory tile the channel tag of a srcA queue's head (R192, R370). -/
def inputsReady (e : Elem) (key plane n op : Nat) (p : Plane) (w : Slot) : Bool :=
  let d := isDrift key p
  let kc := w.kindc.toNat
  let ok := holdsHead e plane
  if kc = 1 then
    (inQueues d w.inmask.toNat).all (headOk e plane kc w.lvlc.toNat) && endStands e key plane p &&
      (slotOfRun p.run n).endPred == some true && !(slotOfRun p.run n).endFired
  else
    let std := (inQueues d w.inmask.toNat).all (canTake e plane kc w.lvlc.toNat)
    let own := match op with
      | 0x203 => if isInSel w.b.toNat then ok w.a.toNat && ok w.b.toNat else std
      | 0x20F => if isInSel w.b.toNat then ok w.a.toNat && ok w.b.toNat else std
      | 0x210 => ok w.a.toNat && ok w.b.toNat
      | 0x206 => (mergeHit e plane (slotOfRun p.run n).next w).isSome
      | 0x207 => ok w.c.toNat && (match headOf e w.c.toNat with
          | some t => ok (if t.data.getLsbD 0 then w.a.toNat else w.b.toNat)
          | none => false)
      | 0x208 => ok w.a.toNat || ok w.b.toNat
      | 0x209 => ok w.a.toNat && ok w.b.toNat
      | 0x20A => ok w.a.toNat && ok w.b.toNat
      | 0x20B => ok w.a.toNat && ok w.b.toNat
      | 0x20C => std && !(slotOfRun p.run n).done
      | 0x30F => (match tget [] e.net.rx w.a.toNat with
          | t :: u :: _ => ok w.a.toNat && u.ctx.toNat == plane && t.kind == 0 && u.kind == 0
          | _ => false)
      | _ => std
    own && (inQueues d w.inmask.toNat).all (fun q => !markBlocks e key plane p q) &&
      (kindOf key != .memory || !isInSel w.a.toNat || (match headOf e w.a.toNat with
      | some t => t.ctag.toNat % 8 == n
      | none => false))

/-- HELD of a context in a firn tile: its valid entries (R136). -/
def firnHeld (e : Elem) (c : Nat) : Nat := e.firn.countP fun x => x.v && x.ctx == c

/-- The firn tile is full for a context (R136). -/
def firnFull (key : Nat) (e : Elem) (c : Nat) : Bool :=
  let load (n : Nat) := firnHeld e n + tget 0 e.out n
  let drift := isDrift key (planeOf e c)
  let all := load 0 + load 1 + load 2 + load 3
  let dr := ([0, 1, 2, 3].filter fun n => isDrift key (planeOf e n)).foldl (fun a n => a + load n) 0
  decide (32 ≤ all) || (drift && decide (8 ≤ dr))

/-- The header that vhdr would forward and whether it differs from OHDR (R324). -/
def vhdrOf (r : PRun) (op : Nat) (w : Slot) : BitVec 16 × Bool :=
  let h : BitVec 16 := if op = 0x063 then tget 0x7F00 r.hdr w.a.toNat
    else BitVec.ofNat 16 (w.imm.toNat % 256 * 256 + w.fmt.toNat)
  (h, h != tget 0x7F00 r.ohdr w.dst.toNat)

/-- Places that an operation needs in dst (R192, R324, R373, R377). -/
def dstPlaces (r : PRun) (op : Nat) (w : Slot) : Nat :=
  if op = 0x063 ∨ op = 0x064 then (if (vhdrOf r op w).2 then 2 else 1)
  else if op = 0x310 ∨ (op = 0x300 ∧ bit w.md.toNat 8) then 2
  else 1

/-- An operation that may put two tokens on one queue in a firing: cnt with ix = dst, join.eq with e = dst. It then asks for two places, so that
the queue never holds more than its 2 (R363, R362; log 78). -/
def twoOnDst (op : Nat) (w : Slot) : Bool :=
  (op == 0x20C || op == 0x20A) && w.imm.toNat % 256 == w.dst.toNat && isOutSel w.dst.toNat

/-- The output condition of a slot (R192, R360, R363). hrecv waits on its bank alone: it never refuses without room for the bounce
(R134, log 30). -/
def outputsReady (e : Elem) (key op : Nat) (p : Plane) (w : Slot) : Bool :=
  let d := isDrift key p
  op == 0x30F || (outQueues d w.outmask.toNat).all (fun q => decide (1 ≤ outRoom e q)) && (!twoOnDst op w || decide (2 ≤ outRoom e w.dst.toNat)) &&
    (extraOuts d op w).all (fun q => decide (1 ≤ outRoom e q)) &&
    (!isOutSel w.dst.toNat || decide (dstPlaces p.run op w ≤ outRoom e w.dst.toNat))

/-- The half a matrix source field names, if it names one (R343). -/
def mmaHalf (x : Nat) : Option Nat := if x < 4 then some x else none

/-- Waits of the matrix class (R337). -/
def matrixReady (e : Elem) (plane op : Nat) (w : Slot) : Bool :=
  let half (h : Nat) := tget {} e.ct.halves h
  if op = 0x100 then
    let h := half (w.md.toNat % 4)
    !h.full && (h.owner.isNone || h.owner == some plane) &&
      (selKind w.a.toNat != 4 || decide (e.ct.fills.countP (fun q => q.half.isSome) < 2))
  else if 0x108 ≤ op ∧ op ≤ 0x10C then
    let fine (x : Nat) : Bool := match mmaHalf x with
      | none => true
      | some i => (half i).full && (half i).owner == some plane
    fine (w.md.toNat % 8) && fine (w.md.toNat / 8 % 8)
  else true

/-- Number of requests waiting in a domain of a plane (R165). -/
def domLen (r : PRun) (d : Nat) : Nat := (tget [] r.domq d).length

/-- The section that a queue's requests belong to (R166): the oldest on it whose osec.e has not arrived. -/
def sectOpen (e : Elem) (q : Nat) : Option Sect := e.mt.sects.find? fun x => x.queue == q && x.result.isNone
/-- The queue's requests belong to squashed runs (R168). -/
def sectThrown (e : Elem) (q : Nat) : Bool := e.mt.sects.any fun x => x.queue == q && x.squashed != 0

/-- Requests of a plane numbered below n that have fired and not performed at this tile: in a bank's queue, a domain, or a gather or scatter in
progress, and the writes that an ordered section holds (R376). -/
def planeBusy (e : Elem) (plane n : Nat) : Bool :=
  let mine (q : MemReq) : Bool := q.plane == plane && (q.src == 0 || q.src == 2) && decide (q.no < n)
  e.mt.bankq.any (fun b => b.2.any mine) || (planeOf e plane).run.domq.any (fun d => d.2.any mine) || e.mt.groups.any (fun g => mine g.2.req) ||
    e.mt.sects.any fun y => y.plane == plane && y.writes.any fun q => decide (q.no < n)

/-- The acquire that a plane waits on holds back a slot's request (R159, R374): every one but an ordered request of its own domain, which the
domain orders against it, and an osec.e, which is no access (R150; log 33). An acquire that a section has taken into its buffers performs as the
section retires. -/
def acqHolds (e : Elem) (plane op : Nat) (p : Plane) (w : Slot) : Bool :=
  op != 0x30D && e.mt.sects.any (fun y => y.plane == plane && y.writes.any fun q => q.ord.getLsbD 0) || p.run.acq.isSome && op != 0x30D && !(fld w.md.toNat 4 2 != 0 && p.run.acqDom == some (fld w.md.toNat 6 2))

/-- Waits of the memory class: a full domain, an acquire not yet answered, a fence pending, and a fence's earlier requests (R371, R374, R376). A
request of an open section ignores the domain fields (R371), and a fence.m on its queue is ILLOP whatever is pending (R375). What precedes a
release in its party's program order is what its domain has passed before it and what it depends on, whose replies have come (R150, R159): all
that has performed when the release leaves for its bank, so step 1 of R159 adds no wait. -/
def memoryReady (e : Elem) (plane n op : Nat) (p : Plane) (w : Slot) : Bool :=
  let md := w.md.toNat
  if op < 0x300 ∨ 0x30F ≤ op then true
  else if op = 0x30E then
    match p.run.fences with
    | [] => false
    | q :: _ => q.1 == n && ((sectOpen e w.a.toNat).isSome || !planeBusy e plane q.2)
  else
    p.run.fences.isEmpty && !acqHolds e plane op p w &&
      (fld md 4 2 == 0 || (op != 0x30C && (sectOpen e w.a.toNat).isSome) || decide (domLen p.run (fld md 6 2) < 16))

/-- Step 2 of R159 for the element that sent a request token: its OUT and HELD of the context are 0 and its flush sender holds none of it. The
sender of a token is the element whose output queue it left last (log 46). -/
def senderClean (f : Fab) (t : Token) : Bool :=
  match t.sent with
  | none => true
  | some k =>
    let e := elemOf f k
    let c := t.ctx.toNat
    !hasFirn k || (tget 0 e.out c == 0 && firnHeld e c == 0 && (planeOf e c).run.flush.isEmpty)

/-- An operation of a memory tile that releases: a store, scatter or atomic of KIND 2 or 3, or a fence (R158, R160). -/
def isRelease (op : Nat) (w : Slot) : Bool := op == 0x30E || (decide (0x300 ≤ op ∧ op < 0x30C) && bit w.md.toNat 1)

/-- A release or fence waits for the firn tile of its sender (R159, R160). -/
def releaseReady (f : Fab) (key op : Nat) (w : Slot) : Bool :=
  if !isRelease op w || (op == 0x30E && (sectOpen (elemOf f key) w.a.toNat).isSome) then true
  else (headOf (elemOf f key) w.a.toNat).all fun t => senderClean f t

/-- Waits of the accumulate senders (R136, R377): firn space, and the flush sender empty. -/
def firnReady (e : Elem) (key plane op : Nat) (p : Plane) (w : Slot) : Bool :=
  if op = 0x310 then
    !firnFull key e plane && p.run.flush.isEmpty && (!bit w.md.toNat 3 || (tget 0 e.out plane == 0 && firnHeld e plane == 0))
  else true

/-- The stop of an element: its gate signal has arrived (R411), or its core belongs to no region. -/
def halted (f : Fab) (key : Nat) : Bool := (elemOf f key).gated || (regionOf f (keyCore key)).isNone

/-- Something moves in a context of a core's region: its idle count returns to 0 (R423). -/
def busy (f : Fab) (key ctx : Nat) : Fab :=
  match regionOf f (keyCore key) with
  | none => f
  | some (rid, _) => modRegion f rid fun r => if thas r.ctxs ctx then modCtx r ctx fun c => { c with idle := 0 } else r

/-- A fault that this slot raised waits at the round controller (R204). -/
def faultHeld (f : Fab) (key plane n : Nat) : Bool :=
  match regionOf f (keyCore key) with
  | none => false
  | some (_, r) => (ctxOf r plane).faults.any fun x => x.key == key && x.slot == some n

/-- Operations with several inputs, which wait for the predecessor plane of a swap (R359). -/
def multiInput (op : Nat) : Bool := decide (0x206 ≤ op ∧ op ≤ 0x20B) || op == 0x210

/-- The predecessor plane of a swap is still bound in this element (R359). -/
def predBound (f : Fab) (key : Nat) : Bool :=
  match regionOf f (keyCore key) with
  | none => false
  | some (_, r) => match r.swap with
    | some w => w.done && ((planeOf (elemOf f key) w.old).st == .bound)
    | none => false

/-- h(l) of R167. -/
def sigOf (line : Nat) : Nat := Nat.xor (line % 256) (line / 256 % 2 * 128)

/-- Addresses that a request token names: one, or the 16 lanes of a gather or scatter that are not 0xFFFF_FFFF (R371, R373). -/
def reqAddrs (op : Nat) (t : Token) : List (Nat × Nat) :=
  if op = 0x302 ∨ op = 0x303 then
    ((lanes 32 t.data).zip (List.range 16)).filter fun q => q.1 != 0xFFFFFFFF
  else [(t.data.toNat % 2 ^ 32, 0)]

/-- Banks and lines of this tile that a request names. -/
def reqPlaces (f : Fab) (key plane op : Nat) (t : Token) : List (Nat × Nat) :=
  (reqAddrs op t).filterMap fun q => match spLocate f (keyCore key) plane q.1 with
    | some (k, b, l) => if k = key then some (b, l) else none
    | none => none

/-- An osec.b of a queue waits in a domain (R166). -/
def sectPending (e : Elem) (plane q : Nat) : Bool :=
  (planeOf e plane).run.domq.any fun d => d.2.any fun r => r.op == 0x30C && r.queue == q

/-- Sections of a domain in flight that are older than a section, by its queue (R166). -/
def olderSects (e : Elem) (x : Sect) : List Sect :=
  (e.mt.sects.takeWhile fun y => !(y.queue == x.queue && y.result.isNone)).filter fun y => y.plane == x.plane && y.dom == x.dom

/-- A context has an enabled SPACE 1 stream in the region (R117). -/
def sp1Context (f : Fab) (r : Region) (plane : Nat) : Bool :=
  (planeKeys r).any fun k => kindOf k == .ag &&
    (let p := planeOf (elemOf f k) plane
     (List.range 8).any fun i => strEn p i && strSpace p i)

/-- Every element of the region has entered a round of a context (R117 step 2). -/
def allEntered (f : Fab) (r : Region) (plane : Nat) (round : BitVec 32) : Bool :=
  (planeKeys r).all fun k =>
    let p := planeOf (elemOf f k) plane
    p.st != .bound || decide ((p.run.round - round).toNat < 2 ^ 31)

/-- A context's scratchpad accesses of its present round may perform (R117 steps 2 and 3, R108). -/
def spOpen (f : Fab) (key plane : Nat) : Bool :=
  match regionOf f (keyCore key) with
  | none => false
  | some (_, r) =>
    let p := planeOf (elemOf f key) plane
    (p.run.round == 0 || !sp1Context f r plane || allEntered f r plane p.run.round) &&
      (match r.swap with
        | some w => !(w.done && w.new == plane) ||
            (planeKeys r).all fun k => kindOf k != .memory ||
              (planeOf (elemOf f k) w.old).st != .bound || ilvOf (planeOf (elemOf f k) w.old) == ilvOf (planeOf (elemOf f k) plane)
        | none => true)

/-- An ordered request of a domain has passed and its bank has not accepted it (R165): it stands in the bank's queue, or waits for it as a lane. -/
def domBusy (e : Elem) (plane d : Nat) : Bool :=
  let mine (q : MemReq) : Bool := q.src == 0 && q.plane == plane && q.smode != 0 && q.dom == d && !q.sec
  (e.mt.bankq.any fun b => b.2.any mine) || e.mt.groups.any fun g => mine g.2.req && g.2.wait != []

/-- The request of a domain that passes next: the oldest waiting one with PRED = LAST(d) (R165). -/
def domNext (e : Elem) (plane d : Nat) : Option MemReq :=
  let r := (planeOf e plane).run
  if domBusy e plane d then none else (tget [] r.domq d).find? fun q => q.pred == tget 0 r.last d

/-- What hrecv does with the accumulate at its head (R134, R378). -/
inductive HDec where
  | stall | accept | refuse | illop | foreign
  deriving DecidableEq, Repr

/-- The request word of an accumulate as its sender port holds it. -/
def accWord (e : Elem) (q : Nat) : Nat := match headOf e q with
  | some t => t.data.toNat
  | none => 0

/-- A section's own buffered stores hold n bytes of a line from byte a of it on (R167). -/
def ownBytes (x : Sect) (b l a n : Nat) : Bool :=
  (List.range n).all fun i => x.writes.any fun r =>
    r.bank == b && r.line == l && (r.op == 0x301 || r.op == 0x303) && decide (r.addr.toNat % 64 ≤ a + i ∧ a + i < r.addr.toNat % 64 + r.size)

/-- The decision of R134 for the accumulate at the head of queue q, its checks first (R378). -/
def hrecvDecide (f : Fab) (key plane : Nat) (w : Slot) : HDec × Nat × Nat :=
  let e := elemOf f key
  let p := planeOf e plane
  let q := w.a.toNat
  let v := accWord e q
  let bad : Bool := decide (2 ^ 61 ≤ v) || (bit v 60 && !bit v 45) || !accLegal (fld v 32 4) (fld v 36 8)
  if bad || (sectOpen e q).isSome then (.illop, 0, 0)
  else match spLocate f (keyCore key) plane (v % 2 ^ 32) with
  | none => (.foreign, 0, 0)
  | some (k, b, l) =>
    if k ≠ key then (.foreign, 0, 0)
    else
      let full := bThresh p b ≤ bankDepth e b ∧ bQuota p b ≤ usedOf e.mt b (q - 0x20)
      if !bit v 45 ∧ full ∧ 2 ≤ outRoom e w.dst.toNat then (.refuse, b, l)
      else if 16 ≤ bankDepth e b then (.stall, b, l)
      else (.accept, b, l)

/-- Lanes of a gather or scatter of an input queue still wait for their banks: the queue's next request waits behind them (R104). -/
def lanesWait (e : Elem) (q : Nat) : Bool := e.mt.groups.any fun g => g.2.req.queue == q && g.2.wait != []

/-- Body accesses of a queue stand in a bank's queue or wait as lanes. -/
def bodyWaits (e : Elem) (q : Nat) : Bool :=
  (e.mt.bankq.any fun b => b.2.any fun r => r.sec && r.queue == q) || e.mt.groups.any fun g => g.2.req.sec && g.2.req.queue == q

/-- Bytes of one access of a slot's request. -/
def reqBytes (op : Nat) (w : Slot) : Nat :=
  if op = 0x302 ∨ op = 0x303 then fmtSize w.fmt.toNat else if selKind w.dst.toNat = 16 then 64 else 8

/-- A body read of section x waits: some line that it reads is not its section's own buffered write and an older section has its bit set in a
write signature (R167). -/
def sectHolds (f : Fab) (key plane op : Nat) (w : Slot) (x : Sect) (t : Token) : Bool :=
  (reqAddrs op t).any fun (q : Nat × Nat) => match spLocate f (keyCore key) plane q.1 with
    | some (k, b, l) => k == key && !ownBytes x b l (q.1 % 64) (reqBytes op w) &&
        (olderSects (elemOf f key) x).any fun y => y.wsig.contains (b, sigOf l)
    | none => false

/-- Waits of a memory-tile access beyond its trigger: bank room, sections, rounds (R103, R117, R166, R167). A request that follows an osec.b on
its queue waits until the section has opened. An osec.e waits until the banks have taken its section's accesses. -/
def bankGate (f : Fab) (key plane op : Nat) (w : Slot) : Bool :=
  let e := elemOf f key
  let q := w.a.toNat
  if op < 0x300 ∨ 0x310 ≤ op ∨ w.kindc = 1 then true
  else if op = 0x30F then spOpen f key plane && !sectPending e plane q && (hrecvDecide f key plane w).1 != .stall
  else if op = 0x30D then !sectPending e plane q && !bodyWaits e q
  else spOpen f key plane && !sectPending e plane q && !lanesWait e q && (decide (0x30C ≤ op) || (match headOf e q with
    | none => true
    | some t =>
      let ps := reqPlaces f key plane op t
      let reads : Bool := op == 0x300 || op == 0x302
      let room : Bool := op == 0x302 || op == 0x303 || ps.all fun (a : Nat × Nat) => decide (bankDepth e a.1 < 16)
      match sectOpen e q with
      | some x => room && (sectThrown e q || !reads || !sectHolds f key plane op w x t)
      | none => fld w.md.toNat 4 2 != 0 || room))

/-- The mark of an hrecv slot that has fired in the tile cycle: each fires once (R400). A memory tile has no vector class, so that class
stands there for a pause of all issue (R413). -/
def hrecvMark (plane n : Nat) : Nat := 64 + 16 * plane + n

/-- A cmpx of a twin launch waits until the copy of its srcA head is on the twin channel, whose 16 beats may be full (R467; log 11). -/
def twinReady (f : Fab) (key n op : Nat) (p : Plane) : Bool :=
  op != 0x210 || (slotOfRun p.run n).twinSent || (match regionOf f (keyCore key) with
    | some (_, r) => r.twin.isNone
    | none => true)

/-- The conditions of R192 as they stand now, with the implicit conditions of the operations, before the arbitration of R103. The predicate
condition of a slot of kind condition 1 was settled as its end mark stood (R192). -/
def slotStands (f : Fab) (key plane n op : Nat) (w : Slot) : Bool :=
  let e := elemOf f key
  let p := planeOf e plane
  w.valid == 1 && p.st == .bound && !p.revoked && !halted f key && !faultHeld f key plane n &&
    inputsReady e key plane n op p w && outputsReady e key op p w &&
    (w.kindc == 1 || (p.run.p &&& w.predmask) == (w.predreq &&& w.predmask)) &&
    matrixReady e plane op w && memoryReady e plane n op p w && releaseReady f key op w && firnReady e key plane op p w &&
    !(multiInput op && p.succ && predBound f key) && twinReady f key n op p && bankGate f key plane op w

/-- The slot's class may still issue in this tile cycle; an hrecv slot fires once in it (R400, R401). -/
def classFree (e : Elem) (plane n op : Nat) : Bool :=
  if op = 0x30F then !e.mt.took.contains (hrecvMark plane n) && !e.issued.contains .vector else !e.issued.contains (opClass op)

/-- ready(slot) of R192: the conditions held at the start of the tile cycle, which its age records (R401), they hold still, and its class may
issue. -/
def slotTrigger (f : Fab) (key plane n op : Nat) (w : Slot) : Bool :=
  let e := elemOf f key
  (slotOfRun (planeOf e plane).run n).age.isSome && classFree e plane n op && slotStands f key plane n op w

/-- The word of a slot split into its fields (R227). -/
def slotFields (word : Nat) : Slot :=
  { inmask := BitVec.ofNat 16 (fld word 112 16), outmask := BitVec.ofNat 16 (fld word 96 16)
    predreq := BitVec.ofNat 4 (fld word 92 4), predmask := BitVec.ofNat 4 (fld word 88 4)
    kindc := BitVec.ofNat 3 (fld word 85 3), lvlc := BitVec.ofNat 3 (fld word 82 3)
    brk := BitVec.ofNat 1 (fld word 81 1), valid := BitVec.ofNat 1 (fld word 80 1)
    dst := BitVec.ofNat 8 (fld word 62 8), a := BitVec.ofNat 8 (fld word 54 8)
    b := BitVec.ofNat 8 (fld word 46 8), c := BitVec.ofNat 8 (fld word 38 8)
    fmt := BitVec.ofNat 4 (fld word 34 4), rnd := BitVec.ofNat 3 (fld word 31 3)
    sat := BitVec.ofNat 1 (fld word 30 1), pwe := BitVec.ofNat 1 (fld word 29 1)
    pwn := BitVec.ofNat 1 (fld word 28 1), pwi := BitVec.ofNat 2 (fld word 26 2)
    md := BitVec.ofNat 10 (fld word 16 10), imm := BitVec.ofNat 16 (fld word 0 16) }

/-- The bank that a slot would send one request to in this cycle, and whether it is a flush addend: what competes under R103. -/
def bankBid (f : Fab) (key plane op : Nat) (w : Slot) : Option (Nat × Bool) :=
  let e := elemOf f key
  if op = 0x30F then
    match hrecvDecide f key plane w with
    | (.accept, b, _) => some (b, bit (accWord e w.a.toNat) 45)
    | _ => none
  else if (op < 0x300 ∨ 0x30B < op) ∨ op = 0x302 ∨ op = 0x303 ∨ (fld w.md.toNat 4 2 ≠ 0 ∧ (sectOpen e w.a.toNat).isNone) then none
  else match headOf e w.a.toNat with
    | none => none
    | some t => match reqPlaces f key plane op t with
      | (b, _) :: _ => some (b, false)
      | [] => none

/-- Rank of a bid of a queue: flush addends first, then the configuration path, then round-robin after the queue that won last (R103). -/
def bidRank (e : Elem) (b : Nat) (flush : Bool) (q : Nat) : Nat :=
  if flush then 0 else 2 + (q + 255 - tget 0xFF e.mt.rr b) % 256

/-- The place of a request over the configuration path as its tile sees it now: tile, bank and line (R107). -/
def cfgPlace (f : Fab) (key : Nat) (q : MemReq) : Nat × Nat × Nat :=
  (spLocate f (keyCore key) q.plane q.addr.toNat).getD (key, 0, 0)

/-- The decision of R134 for an accumulate of a scatter-accumulate stream at port 16 of its bank (R509): refused, held back by a full queue, or
taken. -/
def cfgDecide (f : Fab) (key : Nat) (q : MemReq) : HDec :=
  let e := elemOf f key
  let c := cfgPlace f key q
  let p := planeOf e q.plane
  if !q.fl ∧ bThresh p c.2.1 ≤ bankDepth e c.2.1 ∧ bQuota p c.2.1 ≤ usedOf e.mt c.2.1 16 then .refuse
  else if 16 ≤ bankDepth e c.2.1 then .stall
  else .accept

/-- The oldest request over the configuration path competes for a bank of this tile (R103, R509): the bank, and whether it is a flush addend. -/
def cfgBid (f : Fab) (key : Nat) : Option (Nat × Bool) :=
  let e := elemOf f key
  match e.mt.cfgq with
  | [] => none
  | q :: _ =>
    let c := cfgPlace f key q
    if c.1 ≠ key then none
    else if q.src = 2 then (if cfgDecide f key q = .accept then some (c.2.1, q.fl) else none)
    else if bankDepth e c.2.1 < 16 then some (c.2.1, false)
    else none

/-- The bank and rank of what competes at a tile beside its slots: the configuration path, the domains' next requests, and waiting lanes (R103,
R165, R373). -/
def restBids (f : Fab) (key : Nat) : List (Nat × Nat) :=
  let e := elemOf f key
  let cfg := match cfgBid f key with
    | some (b, fl) => [(b, if fl then 0 else 1)]
    | none => []
  let dom := [0, 1, 2, 3].flatMap fun n => [0, 1, 2, 3].filterMap fun d =>
    if (planeOf e n).revoked || !spOpen f key n then none
    else match domNext e n d with
      | some q => if q.op = 0x30C ∨ q.grp ≠ 0 ∨ 16 ≤ bankDepth e q.bank then none else some (q.bank, bidRank e q.bank false q.queue)
      | none => none
  let lane := e.mt.groups.flatMap fun g => [0, 1, 2, 3, 4, 5].filterMap fun b =>
    if 16 ≤ bankDepth e b then none else (g.2.wait.find? fun q => q.bank == b).map fun q => (b, bidRank e b false q.queue)
  cfg ++ dom ++ lane

/-- No ready slot's request ranks before a rank at a bank (R103). -/
def slotsYield (f : Fab) (key b r : Nat) (q : BitVec 8) : Bool :=
  let e := elemOf f key
  [0, 1, 2, 3].all fun n => (validSlots key (planeOf e n)).all fun i =>
    let word := slotWordOf (planeOf e n) i
    let u := slotFields word
    u.a == q || (match bankBid f key n (swOp word) u with
      | none => true
      | some (b', fl') => b' != b || decide (r ≤ bidRank e b fl' u.a.toNat) || !slotTrigger f key n i (swOp word) u)

/-- A request of a rank from an input queue wins a bank in this cycle (R103). -/
def wins (f : Fab) (key b r : Nat) (q : BitVec 8) : Bool :=
  !(elemOf f key).mt.took.contains b && slotsYield f key b r q && (restBids f key).all fun x => x.1 != b || decide (r ≤ x.2)

/-- A slot's request wins its bank in this cycle, or needs none (R103). -/
def bankGrant (f : Fab) (key plane op : Nat) (w : Slot) : Bool :=
  match bankBid f key plane op w with
  | none => true
  | some (b, fl) => wins f key b (bidRank (elemOf f key) b fl w.a.toNat) w.a

/-- The slot may fire now: its trigger holds, and a memory request wins its bank. -/
def slotReady (f : Fab) (key plane n op : Nat) (w : Slot) : Bool :=
  slotTrigger f key plane n op w && (kindOf key != .memory || bankGrant f key plane op w)

/-! ### The arbiter (R401) -/

/-- Lexicographic order. -/
def lexLt : List Nat → List Nat → Bool
  | [], _ => false
  | _ :: _, [] => false
  | x :: xs, y :: ys => decide (x < y) || (x == y && lexLt xs ys)

/-- The arbiter's key of slot n of a plane, the least wins (R401): owners before drift planes, the age, and among equal ages slots
outside SMASK, the higher stage priority, the predecessor plane, the lower slot; among drift slots the lower plane. -/
def issueKey (key plane n : Nat) (p : Plane) : List Nat :=
  let age := (slotOfRun p.run n).age.getD 0
  if isDrift key p then [1, age, plane, n]
  else match p.stages.find? fun x => !x.dist && x.w3.getLsbD n with
  | some x => [0, age, 1, 64 - x.prio, b2n p.succ, n]
  | none => [0, age, 0, 0, b2n p.succ, n]

/-- The ready slots of a class of an element, as plane and slot. -/
def readySlots (f : Fab) (key : Nat) (cls : IssueClass) : List (Nat × Nat) :=
  [0, 1, 2, 3].flatMap fun plane =>
    let p := planeOf (elemOf f key) plane
    ((validSlots key p).filter fun n =>
      let word := slotWordOf p n
      opClass (swOp word) == cls && slotReady f key plane n (swOp word) (slotFields word)).map fun n => (plane, n)

/-- The key of a ready slot. -/
def keyOfSlot (f : Fab) (key : Nat) (q : Nat × Nat) : List Nat := issueKey key q.1 q.2 (planeOf (elemOf f key) q.1)

/-- The first entry of least key. -/
def leastBy (k : Nat × Nat → List Nat) : List (Nat × Nat) → Option (Nat × Nat)
  | [] => none
  | q :: r => match leastBy k r with
    | none => some q
    | some b => if lexLt (k b) (k q) then some b else some q

/-- The slot that the arbiter of a class chooses (R401). -/
def chooseSlot (f : Fab) (key : Nat) (cls : IssueClass) : Option (Nat × Nat) := leastBy (keyOfSlot f key) (readySlots f key cls)

/-! ### Firing -/

/-- What a firing sees: place, plane and run state before it, and its slot. -/
structure FireCtx where
  key : Nat
  plane : Nat
  slot : Nat
  op : Nat
  e : Elem
  p : Plane
  w : Slot
  deriving DecidableEq, Repr

/-- The firing context of a slot. -/
def fireCtx (f : Fab) (site : Site) (op : Nat) (w : Slot) : FireCtx :=
  let e := elemOf f site.key
  ⟨site.key, site.plane, site.slot, op, e, planeOf e site.plane, w⟩

/-- An operation issues: it stands in the staging window of 2 tile cycles (R413). -/
def openWindow (e : Elem) (plane : Nat) : Elem :=
  { e with opens := (plane, e.cyc) :: e.opens.filter fun q => decide (e.cyc < q.2 + 2) }

/-- Marks a firing: the class has issued in this tile cycle, the slot's age ends, its firing count goes up, BRKSKIP is spent (R401, R425). -/
def markFired (f : Fab) (x : FireCtx) : Fab :=
  modElem (busy f x.key x.plane) x.key fun e =>
    modPlane (modRun { openWindow e x.plane with issued := opClass x.op :: e.issued } x.plane fun r =>
      modSlot r x.slot fun t => { t with fired := t.fired + 1, age := none, endFired := t.endFired || x.w.kindc == 1 }) x.plane
      fun p => brkDone p x.slot

/-- The fault record of a slot's operation (R420): ILLOP carries the slot word, the others what they name. -/
def slotFault (x : FireCtx) (cause : Nat) (qsel : Option Nat) (info0 info1 : Nat) : FaultRec :=
  let word := slotWordOf x.p x.slot
  { cause := cause, key := x.key, slot := some x.slot, qsel := qsel, round := x.p.run.round
    info0 := BitVec.ofNat 64 (if cause = 1 then word / 2 ^ 64 else info0)
    info1 := BitVec.ofNat 64 (if cause = 1 then word else info1) }

/-- Raises a slot's fault; the operation has no other effect and its round is discarded (R203, R204). -/
def slotRaise (f : Fab) (x : FireCtx) (cause : Nat) (qsel : Option Nat) (info0 info1 : Nat) : Fab :=
  raiseFault f (keyCore x.key) x.plane (slotFault x cause qsel info0 info1)

/-- Pops a queue for a plane; a token of a back edge before its mark of the round is copied to the back-edge log (R196). -/
def popFor (f : Fab) (x : FireCtx) (sel : Nat) : Fab :=
  let f' := modElem (popQ f x.key sel) x.key fun e => { e with popd := sel :: e.popd }
  match headOf (elemOf f x.key) sel with
  | none => f
  | some t =>
    if isBack x.key x.p sel && x.p.run.round != 0 && tget 0 x.p.run.bmark sel != x.p.run.round then
      modElem f' x.key fun e => { e with net := { e.net with backlog := e.net.backlog ++ [(x.plane, x.p.run.round, sel, t)] } }
    else f'

/-- The queues a firing pops (R233, R358): none for kind condition 1. -/
def popsOf (x : FireCtx) : List Nat :=
  let w := x.w
  let a := w.a.toNat
  let b := w.b.toNat
  let std := inQueues (isDrift x.key x.p) w.inmask.toNat
  if w.kindc = 1 then []
  else match x.op with
  | 0x203 => if isInSel b then [a, b] else std
  | 0x20F => if isInSel b then [a, b] else std
  | 0x210 => [a, b]
  | 0x206 => (mergeHit x.e x.plane (slotOfRun x.p.run x.slot).next w).toList
  | 0x207 => match headOf x.e w.c.toNat with
    | some t => [w.c.toNat, if t.data.getLsbD 0 then a else b]
    | none => []
  | 0x208 =>
    let ha := holdsHead x.e x.plane a
    let hb := holdsHead x.e x.plane b
    if ha && hb then [if (slotOfRun x.p.run x.slot).ptr then b else a] else if ha then [a] else [b]
  | 0x209 => joinPops x a b
  | 0x20A => joinPops x a b
  | 0x20B => joinPops x a b
  | 0x30F => [a, a]
  | _ => std
where
  /-- The queues a join pops: the one with the smaller key, or both (R362). -/
  joinPops (x : FireCtx) (a b : Nat) : List Nat :=
    let ka := (headOf x.e a).map fun t => t.data.toNat % 2 ^ 32
    let kb := (headOf x.e b).map fun t => t.data.toNat % 2 ^ 32
    match ka, kb with
    | some i, some j => if i < j then [a] else if j < i then [b] else [a, b]
    | _, _ => []

/-- The back-edge log has no place for the tokens that the firing must copy (R196, R460). -/
def backlogFull (x : FireCtx) : Bool :=
  let n := (popsOf x).countP fun q => isBack x.key x.p q && x.p.run.round != 0 && tget 0 x.p.run.bmark q != x.p.run.round
  n != 0 && decide (16 < x.e.net.backlog.length + n)

/-- Pops what the firing pops. -/
def popAll (f : Fab) (x : FireCtx) : Fab := (popsOf x).foldl (fun f q => popFor f x q) f

/-- The smallest nonzero LVL of some tokens; 0 when there is none (R310). -/
def minLvl (ts : List Token) : BitVec 3 :=
  (ts.filter fun t => t.lvl != 0).foldl (fun a t => if a = 0 ∨ t.lvl < a then t.lvl else a) 0

/-- LVL of an emitted token: over the tokens that the firing pops (R310, R357). -/
def fireLvl (x : FireCtx) : BitVec 3 := minLvl ((popsOf x).filterMap fun q => headOf x.e q)

/-- A new token with the queue's CTAG and the plane's CTX (R310). -/
def newToken (x : FireCtx) (sel : Nat) (data : Line) (lvl : BitVec 3) : Token :=
  stamp (isWideSel sel) { data := if isWideSel sel then data else (data.setWidth 64).setWidth 512, lvl := lvl,
                          ctag := ctagOf x.key x.p sel, ctx := BitVec.ofNat 2 x.plane }

/-- A token of a plane forwarded from an input to an output (R357): CTAG of the queue unless that is 0x00; CHECK kept when data, width and
sideband are unchanged. -/
def passToken (key plane : Nat) (p : Plane) (src sel : Nat) (t : Token) (lvl : BitVec 3) (ctag : Option Byte) : Token :=
  let data := if isWideSel sel then t.data else (t.data.setWidth 64).setWidth 512
  let tag := match ctag with
    | some g => g
    | none => if ctagOf key p sel = 0 then t.ctag else ctagOf key p sel
  let u : Token := { t with data := data, lvl := lvl, ctag := tag, ctx := BitVec.ofNat 2 plane, kind := 0, bnc := 0, sent := none, twin := false }
  if isWideSel src = isWideSel sel ∧ u.data = t.data ∧ u.lvl = t.lvl ∧ u.ctag = t.ctag ∧ u.ctx = t.ctx ∧ u.kind = t.kind then u else stamp (isWideSel sel) u

/-- A token that a slot forwards. -/
def forwardToken (x : FireCtx) (src sel : Nat) (t : Token) (lvl : BitVec 3) (ctag : Option Byte) : Token :=
  passToken x.key x.plane x.p src sel t lvl ctag

/-- Adds a register or local-store write to the tile cycle's writes (R234). -/
def addPend (f : Fab) (x : FireCtx) (q : PendW) : Fab :=
  modElem f x.key fun e => { e with pend := e.pend ++ [(opClass x.op, q)] }

/-- Writes the predicate of PWE: the condition or its inverse (R232). -/
def putPwe (f : Fab) (x : FireCtx) (cond : Bool) : Fab :=
  if x.w.pwe = 1 then addPend f x (.p x.plane x.w.pwi.toNat (cond != (x.w.pwn == 1))) else f

/-! ### Sources (R308) -/

/-- An integer in a lane format, when exact; else a free value (R231, R308, log 28). Under the untyped format 0x00, for which R231 names no value, it
is the 8-bit two's-complement byte (the model's choice, log 28). -/
def laneInt (fmt : Nat) (v : Int) : Nat :=
  match fmt with
  | 4 => wrapTo 16 v
  | 5 => floatInt 5 v
  | 6 => floatInt 6 v
  | 7 => floatInt 7 v
  | 8 => floatInt 8 v
  | 9 => floatInt 9 v
  | _ => wrapTo (laneBits fmt) v
where
  /-- The encoding of an integer that the format holds exactly. -/
  floatInt (fmt : Nat) (v : Int) : Nat :=
    let x : FVal := .fin (decide (v < 0)) v.natAbs 0
    let b := (fencode fmt 0 false x).bits
    if (fencode fmt 1 false x).bits = b ∧ (fencode fmt 3 false x).bits = b ∧ (fencode fmt 2 false x).bits = b then b
    else Config.laneIndex fmt v.natAbs

/-- The integer of an immediate selector, -64 to 63 (R231). -/
def immInt (sel : Nat) : Int := if sel % 128 < 64 then (sel % 128 : Nat) else ((sel % 128 : Nat) : Int) - 128

/-- The scalar that a selector supplies, in 64 bits (R308, R188). -/
def scalarOf (x : FireCtx) (sel : Nat) : Nat :=
  let r := x.p.run
  match selKind sel with
  | 2 => (tget 0 r.k (sel - 0x10)).toNat
  | 4 => (tget 0 r.a (sel - 0x18)).toNat
  | 8 => match headOf x.e sel with
    | some t => t.data.toNat % 2 ^ 64
    | none => 0
  | 32 => match headOf x.e sel with
    | some t => t.data.toNat % 2 ^ 64
    | none => 0
  | 1 => (tget 0 r.v sel).toNat % 2 ^ 64
  | 256 => b2n (r.p.getLsbD (sel - 0x58))
  | 2048 => r.cwid.toNat
  | 4096 => r.round.toNat
  | 8192 => wrapTo 64 (immInt sel)
  | _ => 0

/-- The 512 bits that a vector source supplies (R308). -/
def vecSrc (x : FireCtx) (fmt sel : Nat) : Line :=
  let w := laneBits fmt
  match selKind sel with
  | 1 => tget 0 x.p.run.v sel
  | 8 => match headOf x.e sel with
    | some t => t.data
    | none => 0
  | 256 => if x.p.run.p.getLsbD (sel - 0x58) then BitVec.allOnes 512 else 0
  | 512 => 0
  | 1024 => pack w ((List.range (512 / w)).map fun i => laneInt fmt i)
  | 8192 => splat w (if fmt = 4 then wrapTo 16 (immInt sel) * 65537 else laneInt fmt (immInt sel))
  | _ => splat w (scalarOf x sel)

/-- The value of a register or immediate source as a new token's data, zero-extended (R357). -/
def tokenSrc (x : FireCtx) (sel : Nat) : Line :=
  match selKind sel with
  | 1 => tget 0 x.p.run.v sel
  | 1024 => pack 8 ((List.range 64).map fun i => i)
  | _ => BitVec.ofNat 512 (scalarOf x sel)

/-! ### Results (R309) -/

/-- Writes a 512-bit result to dst, then the predicate of PWE (R309, R232). -/
def putResult (f : Fab) (x : FireCtx) (res : Line) (cond : Bool) (lvl : BitVec 3) : Fab :=
  let d := x.w.dst.toNat
  let f := match selKind d with
    | 1 => addPend f x (.v x.plane d res)
    | 4 => addPend f x (.a x.plane (d - 0x18) (res.setWidth 32))
    | 256 => addPend f x (.p x.plane (d - 0x58) cond)
    | 16 => pushOut f x.key d (newToken x d res lvl)
    | 64 => pushOut f x.key d (newToken x d res lvl)
    | _ => f
  putPwe f x cond

/-- The srcB of a slot is a source of its operation: not of a vcvt that does not narrow (R322), nor of an mdrain without .ls (R348). -/
def usesB (x : FireCtx) : Bool :=
  if x.op = 0x060 then decide (cvtWidth x.w.fmt.toNat < cvtWidth (x.w.md.toNat % 16))
  else x.op != 0x103 || bit x.w.md.toNat 0
where
  /-- Bits of an element for a conversion, which takes CI16 as INT16 (R322). -/
  cvtWidth (fmt : Nat) : Nat := if fmt = 4 then 16 else laneBits fmt

/-- The register selectors that an operation reads: its sources, the odd register of a local-store pair (R339), and an accumulator that it
changes. R350 names mma, mdrain and mstat; mband, which keeps the accumulator's cells, is taken as a reader too, and mzero alone is none
(log 78). -/
def regSources (x : FireCtx) : List Nat :=
  match opInfo x.op with
  | none => []
  | some i =>
    let w := x.w
    let md := w.md.toNat
    let use (ok : Bool) (cls sel : Nat) : List Nat := if ok && Nat.land (Nat.land cls (selKind sel)) 135 != 0 then [sel] else []
    let pair (ok : Bool) (sel : Nat) : List Nat := if ok && selKind sel == 4 then [sel + 1] else []
    use true i.a w.a.toNat ++ pair (x.op == 0x100 || ((x.op == 0x220 || x.op == 0x221) && bit md 0)) w.a.toNat ++
      use (usesB x) i.b w.b.toNat ++ pair (x.op == 0x103 && bit md 0) w.b.toNat ++ use true i.c w.c.toNat ++
      use (x.op != 0x101) (Nat.land i.dst 128) w.dst.toNat

/-- A register source whose SRAM word holds an uncorrectable error, or an input queue whose head the firing would take from such a word (R331,
R471). -/
def badSource (x : FireCtx) : Option Nat :=
  match (regSources x).find? fun sel => x.e.badReg.any fun q => q.1 == x.plane && q.2.1 == sel with
  | some sel => some sel
  | none => (popsOf x).find? fun q => (headOf x.e q).any fun t => t.bad

/-- The frames that a firing reads: its slot word, the plane's control frame, and the frames of the channel tags and bank control (R218, R221,
R472). -/
def firingFrames (key slot : Nat) : List Nat := if kindOf key = .memory then [slot / 2, 4, 5, 6, 7] else [slot / 2, 8, 44]

/-- A frame that the firing reads fails its parity check (R472). -/
def badWord (x : FireCtx) : Option Nat := (firingFrames x.key x.slot).find? fun n => x.p.bad.contains n

/-- Fires a slot when it is ready: nothing happens otherwise. A frame that it reads and that fails its parity check is UNCORR of kind 3 (R472). A firing
that must log a back-edge token without a place asks for a capacity discard instead (R122, R196). -/
def fire (s : State) (op : Nat) (w : Slot) (body : FireCtx → Fab → Fab) : Out :=
  let x := fireCtx s.fab s.site op w
  if slotReady s.fab x.key x.plane x.slot op w then
    if backlogFull x then
      onFab s fun f => raiseFault f (keyCore x.key) x.plane { cause := 0, key := x.key, slot := some x.slot, info1 := 5 }
    else match badWord x with
    | some n =>
      onFab s fun f => slotRaise (markFired f x) x 0x0B none (cfgAddr x.key x.plane n (if n = x.slot / 2 then 16 * (x.slot % 2) else 0)).toNat 3
    | none => match badSource x with
      | some q => onFab s fun f => slotRaise (markFired f x) x 0x0B (some q) 0 3
      | none => onFab s fun f => body x (markFired f x)
  else .next s

/-! ### The end of a tile cycle (R234) -/

/-- Order of the classes when one register is written twice: vector, matrix, movement (R234). -/
def classRank : IssueClass → Nat
  | .vector => 0
  | .matrix => 1
  | .movement => 2
  | .memory => 3
  | .hrecv => 4

/-- Physical byte address in a local store under a rotation code (R114). -/
def lsPhys (rot a : Nat) : Nat :=
  let b := a / 2 ^ 14 % 8
  let l := a / 64 % 256
  let pb := match rot with
    | 1 => (b + l % 8) % 8
    | 2 => Nat.xor b (l % 8)
    | 3 => (b + l / 8 % 8) % 8
    | _ => b
  pb * 2 ^ 14 + l * 64 + a % 64

/-- n bytes of a local store from an address under a rotation code (R113, R114). -/
def lsRead (m : Mem) (rot a : Nat) : Nat → Nat
  | 0 => 0
  | n + 1 => (mget m (lsPhys rot (a % 2 ^ 17))).toNat + 256 * lsRead m rot (a + 1) n

/-- Writes n bytes of a local store. -/
def lsWrite (m : Mem) (rot a : Nat) : Nat → Nat → Mem
  | 0, _ => m
  | n + 1, v => lsWrite (mput m (lsPhys rot (a % 2 ^ 17)) (BitVec.ofNat 8 v)) rot (a + 1) n (v / 256)

/-- Lines that n bytes from an address touch, physical (R99). -/
def lsLines (rot a n : Nat) : List Nat := [lsPhys rot (a % 2 ^ 17) / 64, lsPhys rot ((a + n - 1) % 2 ^ 17) / 64].dedup

/-- The local-store lines that the writes of this tile cycle touch, each with its context and round. -/
def pendLines (e : Elem) : List (Nat × Nat × BitVec 32) :=
  e.pend.flatMap fun q => match q.2 with
    | .ls n round rot a len _ => (lsLines rot a len).map fun l => (l, n, round)
    | _ => []

/-- The local-store journal has a place for every line of a write it does not yet hold, the writes of this cycle counted (R110,
R122). -/
def lsRoom (e : Elem) (plane : Nat) (round : BitVec 32) (ls : List Nat) : Bool :=
  let fresh := (pendLines e ++ ls.map fun l => (l, plane, round)).dedup.filter fun (l : Nat × Nat × BitVec 32) =>
    !e.ct.jr.any fun j => j.line == l.1 && j.ctx == l.2.1 && j.round == l.2.2
  decide (e.ct.jr.length + fresh.length ≤ 32)

/-- Applies one write of a tile cycle (R234). -/
def applyPend (e : Elem) (q : PendW) : Elem :=
  match q with
  | .v n i x => modRun (cleanReg e n i) n fun r => { r with v := tput 0 r.v i x }
  | .a n i x => modRun (cleanReg e n (0x18 + i)) n fun r => { r with a := tput 0 r.a i x }
  | .p n i x => modRun e n fun r =>
      { r with p := if x then r.p ||| (1#4 <<< i) else r.p &&& ~~~(1#4 <<< i) }
  | .ls n round rot a len x =>
      let c := (lsLines rot a len).foldl (fun c l => lsJournal c n round l) e.ct
      let whole := fun w : Nat => (List.range len).countP (fun i => lsPhys rot ((a + i) % 2 ^ 17) / 8 == w) == 8
      { e with ct := { c with ls := lsWrite c.ls rot a len x.toNat, bad := c.bad.filter fun w => !whole w } }
where
  /-- A write of a register replaces its words. -/
  cleanReg (e : Elem) (n sel : Nat) : Elem := { e with badReg := e.badReg.filter fun q => !(q.1 == n && q.2.1 == sel) }

/-- The writes of a cycle in the order in which the last one lands (R234). -/
def pendOrder (l : List (IssueClass × PendW)) : List PendW :=
  ([0, 1, 2, 3, 4].flatMap fun k => l.filter fun q => classRank q.1 == k).map fun q => q.2

/-- At the start of a tile cycle: a slot that stands ready has the first cycle of its run of readiness as its age (R192, R401). -/
def ageSlot (f : Fab) (key plane n cyc : Nat) (e : Elem) : Elem :=
  let word := slotWordOf (planeOf e plane) n
  let w := slotFields word
  if slotStands f key plane n (swOp word) w then
    modRun e plane fun r => modSlot r n fun t => { t with age := some (t.age.getD cyc) }
  else modRun e plane fun r => modSlot r n fun t => { t with age := none }

/-- fence.m becomes pending in the first cycle in which its trigger holds but for its wait (R376). -/
def fencePending (e : Elem) (key plane : Nat) : Elem :=
  let p := planeOf e plane
  let hit := (validSlots key p).filter fun n =>
    let w := slotWordOf p n
    swOp w == 0x30E && !(p.run.fences.any fun q => q.1 == n) && p.st == .bound && !p.revoked &&
      inputsReady e key plane n 0x30E p (slotFields w) && outputsReady e key 0x30E p (slotFields w)
  if hit.isEmpty then e else modRun e plane fun r => { r with fences := r.fences ++ hit.map fun n => (n, e.mt.nextReq) }

/-- In the cycle in which the end mark stands at every input, the predicate condition of each kind 1 slot is settled (R192). -/
def endSettle (e : Elem) (key plane : Nat) : Elem :=
  let p := planeOf e plane
  if p.st == .bound && endStands e key plane p then
    modRun e plane fun r => (validSlots key p).foldl (fun r n =>
      let w := slotFields (slotWordOf p n)
      if w.kindc = 1 then modSlot r n fun t =>
          { t with endPred := some (t.endPred.getD ((p.run.p &&& w.predmask) == (w.predreq &&& w.predmask))) }
      else r) r
  else e

/-- One access of each of some banks, in order: what is left of a read's banks, and the banks used by then. -/
def takeBanks (used : List Nat) : List Nat → List Nat × List Nat
  | [] => ([], used)
  | b :: r =>
    let q := takeBanks (if used.contains b then used else b :: used) r
    (if used.contains b then b :: q.1 else q.1, q.2)

/-- The reads of a fill in one cycle: those left, the fill bits given, and the banks used by then (R113, R341). -/
def fillReads (used : List Nat) : List (List Nat × BitVec 32) → List (List Nat × BitVec 32) × BitVec 32 × List Nat
  | [] => ([], 0, used)
  | (bs, m) :: r =>
    let q := takeBanks used bs
    let z := fillReads q.2 r
    if q.1.isEmpty then (z.1, m ||| z.2.1, z.2.2) else ((q.1, m) :: z.1, z.2.1, z.2.2)

/-- A half with further fill bits: FULL with READERS when its mask is complete (R336). -/
def halfFill (h : Half) (bits : BitVec 32) (readers : Nat) : Half :=
  let h := { h with fill := h.fill ||| bits }
  if h.fill = 0xFFFFFFFF then { h with full := true, count := BitVec.ofNat 4 readers } else h

/-- One tile cycle of the local-store fills, oldest first: the fills left, the halves, and the banks used (R113, R341). -/
def serveFills (used : List Nat) (hs : Tab Half) : List LsFill → List LsFill × Tab Half × List Nat
  | [] => ([], hs, used)
  | x :: r =>
    let q := fillReads used x.reads
    let bits := if q.1.isEmpty then q.2.1 ||| x.mask else q.2.1
    let hs := match x.half with
      | some i => tmod {} hs i fun h => halfFill h bits x.readers
      | none => hs
    let z := serveFills q.2.2 hs r
    (if q.1.isEmpty then z.1 else { x with reads := q.1 } :: z.1, z.2)

/-- The local store's cycle (R113): the fills take their banks first, then the lines that an lsld or lsst has still to access. -/
def lsTick (c : CtSt) : CtSt :=
  let q := serveFills [] c.halves c.fills
  { c with fills := q.1, halves := q.2.1, lsq := (takeBanks q.2.2 c.lsq).1 }

/-- The issue classes that a timing error holds back (R413). -/
def allClasses : List IssueClass := [.vector, .matrix, .movement, .memory, .hrecv]

/-- The next tile cycle begins: every class may issue again, but for 4 cycles after a timing error none does; the operations that then issue again
have a staging window of 2 cycles (R413). -/
def timingTick (e : Elem) : Elem :=
  let c := e.cyc + 1
  { e with
    cyc := c, popd := [], issued := if e.terr.any fun t => decide (c ≤ t.2 + 4) then allClasses else []
    opens := e.opens.filter fun q => decide (c < q.2 + 2)
    terr := e.terr.filter fun t => decide (c ≤ t.2 + 6) }

/-- The start of an element's next tile cycle: the cycle's writes land, the local store's banks have served, every class may issue again, the
depths of the bank queues are read, the acceptance window turns, and ages, pending fences and the predicates of kind 1 slots are brought up to
date (R103, R133, R192; log 2). -/
def tileTick (f : Fab) (key : Nat) : Fab :=
  let f := modElem f key fun e =>
    let e := timingTick ((pendOrder e.pend).foldl applyPend e)
    { e with
      pend := []
      ct := lsTick e.ct
      mt := { e.mt with
              took := []
              start := e.mt.bankq.filterMap fun b => if b.2.isEmpty then none else some (b.1, b.2.length)
              qdue := e.mt.qdue || (kindOf key == .memory && e.cyc % 32 == 0) } }
  let e := elemOf f key
  let e := if kindOf key = .memory then [0, 1, 2, 3].foldl (fun e n => fencePending e key n) e else e
  let e := [0, 1, 2, 3].foldl (fun e n => endSettle e key n) e
  let f := { f with elems := tins f.elems key e }
  { f with elems := tins f.elems key ([0, 1, 2, 3].foldl (fun e' n =>
    (validSlots key (planeOf e' n)).foldl (fun e'' i => ageSlot f key n i e.cyc e'') e') e) }

end Sys2Proof.Machine
end

