-- ==== Sys2Proof/Machine/Flags.lean ====
section
/-! DEFINITION. Checks and flags shared by the slot families: header-latch clashes (11 R311) and the default condition bit
(08 R232). -/

namespace Sys2Proof.Machine

/-- FMT of a queue's header latch in a plane (R94). -/
def latchFmt (r : PRun) (sel : Nat) : Nat := (tget 0x7F00 r.hdr sel).toNat % 256
/-- SCALE of a queue's header latch. -/
def latchScale (r : PRun) (sel : Nat) : Nat := (tget 0x7F00 r.hdr sel).toNat / 256

/-- A wide input source whose latch FMT is neither 0x00 nor the source format: srcA and srcC against fa, srcB against fb
(R311). -/
def latchClash (x : FireCtx) (op fa fb : Nat) : Option Nat :=
  match opInfo op with
  | none => none
  | some i =>
    let clash (use sel fm : Nat) : Bool :=
      use != 0 && selKind sel == 8 && latchFmt x.p.run sel != 0 && latchFmt x.p.run sel != fm
    if clash i.a x.w.a.toNat fa then some x.w.a.toNat
    else if clash i.b x.w.b.toNat fb then some x.w.b.toNat
    else if clash i.c x.w.c.toNat fa then some x.w.c.toNat
    else none

/-- The default condition bit (R232). -/
def anyBit (v : Line) : Bool := v != 0

end Sys2Proof.Machine
end

