-- ==== Sys2Proof/Machine/Matrix.lean ====
section
/-! DEFINITION. Matrix operations: operand buffers, accumulators, mma (12 R334-R354). -/

namespace Sys2Proof.Machine

/-! ### Local-store pairs (R339) -/

/-- The pair named by an even a-register: its even and odd register. -/
def pairOf (x : FireCtx) (sel : Nat) : Nat × Nat :=
  ((tget 0 x.p.run.a (sel - 0x18)).toNat, (tget 0 x.p.run.a (sel - 0x18 + 1)).toNat)

/-- BASE of an even register. -/
def pBase (e : Nat) : Nat := e % 2 ^ 17
/-- RPITCH of an even register. -/
def pPitch (e : Nat) : Nat := e / 2 ^ 17
/-- ROT of an odd register. -/
def pRot (o : Nat) : Nat := fld o 17 3
/-- A legal odd register: reserved bits zero and a rotation code of R114. -/
def pairOk (o : Nat) : Bool := o / 2 ^ 20 == 0 && decide (pRot o < 4)

/-- The even register after .inc: TPITCH added to BASE (R341, R369). -/
def pairInc (x : FireCtx) (sel : Nat) (f : Fab) : Fab :=
  let q := pairOf x sel
  addPend f x (.a x.plane (sel - 0x18) (BitVec.ofNat 32 (pPitch q.1 * 2 ^ 17 + (pBase q.1 + q.2 % 2 ^ 17) % 2 ^ 17)))

/-- MISALIGN at a local-store address (R99, R420). -/
def lsMisalign (f : Fab) (x : FireCtx) (a : Nat) : Fab := slotRaise f x 3 none a 4

/-! ### Halves (R335, R336) -/

/-- A half. -/
def halfOf (e : Elem) (h : Nat) : Half := tget {} e.ct.halves h

/-- Writes row r of a half, with its tag and its error marks. -/
def halfRow (h : Half) (r : Nat) (line : Line) (tag : BitVec 16) (marks : Nat) : Half :=
  { h with
    rows := tput 0 h.rows r line
    tags := tput 0 h.tags r tag
    marks := (h.marks &&& ~~~(0xFF#64 <<< (8 * r))) ||| (BitVec.ofNat 64 marks <<< (8 * r)) }

/-- A declared read ends: the count goes down, and at 0 the half is consumed: FREE (R336). -/
def halfRead (h : Half) : Half :=
  if h.count.toNat ≤ 1 then { h with fill := 0, full := false, count := 0, owner := none } else { h with count := h.count - 1 }

/-- Changes a half of an element. -/
def modHalf (f : Fab) (key h : Nat) (g : Half → Half) : Fab :=
  modElem f key fun e => { e with ct := { e.ct with halves := tmod {} e.ct.halves h g } }

/-! ### mload (R340-R342) -/

/-- Error marks of the eight words of a row read from an address: word w is marked when a byte it takes lies in a word with an
uncorrectable error (R341). -/
def rowMarks (c : CtSt) (rot a : Nat) : Nat :=
  packLanes 1 ((List.range 8).map fun w =>
    b2n ((List.range 8).any fun i => c.bad.contains (lsPhys rot ((a + 8 * w + i) % 2 ^ 17) / 8)))

/-- A row of a half: replaces n bytes from byte o of it. -/
def rowPatch (l : Line) (o n v : Nat) : Line := BitVec.ofNat 512 (setFld l.toNat (8 * o) (8 * n) v)

/-- The transposed forms: element j of the data read at the i-th address goes to row j, element n q + i, n elements of w bytes to a
quarter (R341). -/
def mloadT (c : CtSt) (h : Half) (rot base pitch q w : Nat) (tag : BitVec 16) : Half :=
  let n := 16 / w
  (List.range 8).foldl (fun h j =>
    let r := (List.range n).foldl (fun (r : Line × Nat) i =>
        let a := (base + i * pitch) % 2 ^ 17
        let v := lsRead c.ls rot (a + j * w) w
        let o := (n * q + i) * w
        let bad : Bool := (List.range w).any fun k => c.bad.contains (lsPhys rot ((a + j * w + k) % 2 ^ 17) / 8)
        (rowPatch r.1 o w v, if bad then Nat.lor r.2 (2 ^ (o / 8)) else r.2))
      (tget 0 h.rows j, fld h.marks.toNat (8 * j) 8 - fld (fld h.marks.toNat (8 * j) 8) (2 * q) 2 * 2 ^ (2 * q))
    halfRow h j r.1 tag r.2) h

/-- The banks that a read of n bytes at a local-store address takes, one for each line (R99, R113). -/
def lsBanks (rot a n : Nat) : List Nat := (lsLines rot a n).map fun l => l / 256

/-- The fill of a half from local store: the reads in order with their banks, and the fill bits (R341). The data is read as the mload fires:
every later write of a line that it reads waits for its bank, or lands after it (R113, R234). -/
def mloadFill (x : FireCtx) (rot base pitch : Nat) : LsFill :=
  let imm := x.w.imm.toNat
  let tr := fld x.w.md.toNat 2 2
  let q := fld imm 5 2
  let at' (i : Nat) : Nat := (base + i * pitch) % 2 ^ 17
  { half := some (x.w.md.toNat % 4), plane := x.plane, readers := imm % 16
    reads := if tr = 0 then (List.range 8).map fun i => (lsBanks rot (at' i) 64, BitVec.ofNat 32 (15 * 16 ^ i))
      else (List.range (if tr = 1 then 16 else 8)).map fun i => (lsBanks rot (at' i) (if tr = 1 then 8 else 16), 0)
    mask := if tr = 0 then 0 else BitVec.ofNat 32 (0x11111111 * 2 ^ q) }

/-- mload (0x100; R340-R342). -/
def execMload (w : Slot) (s : State) : Out :=
  fire s 0x100 w fun x f =>
    let md := w.md.toNat
    let imm := w.imm.toNat
    let fmt := w.fmt.toNat
    let n := md % 4
    let sel := w.a.toNat
    let tr := fld md 2 2
    let scale := if bit md 5 then latchScale x.p.run sel else imm / 256
    let tag : BitVec 16 := BitVec.ofNat 16 (scale * 256 + fmt)
    if selKind sel = 4 then
      let q := pairOf x sel
      let rows := if tr = 1 then 16 else 8
      let addrs := (List.range rows).map fun i => (pBase q.1 + i * pPitch q.1) % 2 ^ 17
      if !pairOk q.2 then slotRaise f x 1 none 0 0
      else match addrs.find? fun a => a % fmtSize fmt != 0 with
      | some a => lsMisalign f x a
      | none =>
        let c := x.e.ct
        let load (h : Half) : Half :=
          if tr = 0 then (List.range 8).foldl (fun h i =>
              let a := (pBase q.1 + i * pPitch q.1) % 2 ^ 17
              halfRow h i (BitVec.ofNat 512 (lsRead c.ls (pRot q.2) a 64)) tag (rowMarks c (pRot q.2) a)) h
          else mloadT c h (pRot q.2) (pBase q.1) (pPitch q.1) (fld imm 5 2) (if tr = 2 then 2 else 1) tag
        let f := modHalf (popAll f x) x.key n fun h => { load h with owner := some x.plane }
        let f := modElem f x.key fun e => { e with ct := { e.ct with fills := e.ct.fills ++ [mloadFill x (pRot q.2) (pBase q.1) (pPitch q.1)] } }
        if bit md 4 then pairInc x sel f else f
    else match latchClash x 0x100 fmt fmt with
    | some q => slotRaise f x 1 (some q) 0 0
    | none =>
      let v := vecSrc x fmt sel
      modHalf (popAll f x) x.key n fun h =>
        halfFill { halfRow h (fld imm 5 3) v tag 0 with owner := some x.plane } (BitVec.ofNat 32 (15 * 16 ^ fld imm 5 3)) (imm % 16)

/-! ### mma (R343-R346) -/

/-- An operand of the array: rows with their FMT and SCALE, and their error marks (R335). -/
structure MOp where
  rows : List Line
  fmts : List Nat
  scales : List Nat
  marks : Nat
  deriving DecidableEq, Repr

/-- The operand a source field names: a half, or a register group with the slot's fmt and SCALE 0x7F (R335, R343). Words with an
error are marked (R350). -/
def mopOf (x : FireCtx) (src : Nat) : MOp :=
  match mmaHalf src with
  | some h =>
    let q := halfOf x.e h
    { rows := (List.range 8).map fun r => tget 0 q.rows r
      fmts := (List.range 8).map fun r => (tget 0 q.tags r).toNat % 256
      scales := (List.range 8).map fun r => (tget 0 q.tags r).toNat / 256
      marks := q.marks.toNat }
  | none =>
    let base := if src = 4 then 0 else 8
    { rows := (List.range 8).map fun r => tget 0 x.p.run.v (base + r)
      fmts := (List.range 8).map fun _ => x.w.fmt.toNat
      scales := (List.range 8).map fun _ => 0x7F
      marks := packLanes 1 ((List.range 64).map fun i => b2n (x.e.badReg.contains (x.plane, base + i / 8, i % 8))) }

/-- A row with its marked words read as zero bits (R350). -/
def cleanRow (l : Line) (marks : Nat) : Line :=
  BitVec.ofNat 512 (packLanes 64 ((List.range 8).map fun w => if bit marks w then 0 else fld l.toNat (64 * w) 64))

/-- The operand with marked words read as zero bits. -/
def cleanOp (o : MOp) : MOp :=
  { o with rows := (o.rows.zip (List.range 8)).map fun q => cleanRow q.1 (fld o.marks (8 * q.2) 8) }

/-- Row formats that a form accepts (R343). -/
def mmaFmtOk (op fmt : Nat) : Bool :=
  match op with
  | 0x108 => fmt == 6
  | 0x109 => fmt == 5
  | 0x10A => fmt == 8 || fmt == 9
  | 0x10B => fmt == 10
  | _ => fmt == 1 || fmt == 11

/-- G of a form (R343). -/
def mmaG (op : Nat) : Nat :=
  match op with
  | 0x10A => 2 | 0x10B => 4 | 0x10C => 2 | _ => 1

/-- Element e of a row as its XF value (R83, R86, R344). -/
def mmaElem (l : Line) (fmt scale e : Nat) : FVal :=
  if fmt = 10 then
    let k := 5 * (e / 8)
    xfExpand (fld l.toNat (8 * (k + e % 8 / 2) + 4 * (e % 2)) 4) 10 scale (fld l.toNat (8 * (k + 4)) 8)
  else
    let n := laneBits fmt
    xfExpand (fld l.toNat (n * e) n) fmt scale 0

/-- Element e of an integer row (R345). -/
def mmaInt (l : Line) (fmt e : Nat) : Int := ival fmt (fld l.toNat (8 * e) 8)

/-- Lowest element index of a form's layout that lies in a 64-bit word of a row (R349). -/
def uElem (op word : Nat) : Nat :=
  match op with
  | 0x108 => 4 * word
  | 0x109 => 4 * word
  | 0x10B => ((List.range 96).find? fun e => decide (8 * word ≤ 5 * (e / 8) + e % 8 / 2)).getD 0
  | _ => 8 * word

/-- The first marked word of an operand pair as bits [23:10] of the status word: UOP, UROW, UWORD, UELEM (R349, R350). -/
def uLog (op : Nat) (a b : MOp) : Option (BitVec 14) :=
  match firstBit a.marks 64 with
  | some i => some (BitVec.ofNat 14 (i / 8 * 1024 + i % 8 * 128 + uElem op (i % 8)))
  | none => match firstBit b.marks 64 with
    | some i => some (BitVec.ofNat 14 (8192 + i / 8 * 1024 + i % 8 * 128 + uElem op (i % 8)))
    | none => none

/-- The cells after one group of a float form, and whether some cell became NaN (R344, R345). -/
def mmaFloat (op : Nat) (m : MAcc) (a b : MOp) (st : Nat) : MAcc :=
  let g := mmaG op
  let row (o : MOp) (i : Nat) : List FVal :=
    (List.range g).map fun k => mmaElem (o.rows.getD i 0) (o.fmts.getD i 0) (o.scales.getD i 0) (st * g + k)
  let ra := (List.range 8).map (row a)
  let rb := (List.range 8).map (row b)
  (List.range 64).foldl (fun m c =>
    let p := sumExact (List.zipWith FVal.mul (ra.getD (c / 8) []) (rb.getD (c % 8) []))
    let v := (fencode 7 0 false (FVal.add 0 (fdecode 7 (tget 0 m.cells c).toNat) p)).bits
    { m with cells := tput 0 m.cells c (BitVec.ofNat 32 v), nanf := m.nanf || isNaNBits 7 v }) m

/-- The cells after one group of mma.i8, and whether some cell was clamped (R344, R345). -/
def mmaI8 (sat : Bool) (m : MAcc) (a b : MOp) (st : Nat) : MAcc :=
  (List.range 64).foldl (fun m c =>
    let e (o : MOp) (i k : Nat) : Int := mmaInt (o.rows.getD i 0) (o.fmts.getD i 0) (2 * st + k)
    let old : Int := sext 32 (tget 0 m.cells c).toNat
    let v := old + e a (c / 8) 0 * e b (c % 8) 0 + e a (c / 8) 1 * e b (c % 8) 1
    let q := fitInt 3 sat v
    { m with cells := tput 0 m.cells c (BitVec.ofNat 32 q.1), satf := m.satf || (sat && q.2) }) m

/-- band_capture (R346). -/
def bandCapture (m : MAcc) (a b : MOp) : MAcc :=
  let ba : BitVec 16 := BitVec.ofNat 16 (fld (a.rows.getD 0 0).toNat 480 16)
  let bb : BitVec 16 := BitVec.ofNat 16 (fld (b.rows.getD 0 0).toNat 480 16)
  if !m.cap then { m with ba := ba, bb := bb, cap := true }
  else if ba ≠ m.ba ∨ bb ≠ m.bb then { m with bandmis := true }
  else m

/-- Changes an accumulator of the firing plane. -/
def modAcc (f : Fab) (x : FireCtx) (j : Nat) (g : MAcc → MAcc) : Fab :=
  modElem f x.key fun e => modRun e x.plane fun r => { r with m := tmod {} r.m j g }

/-- An accumulator of the firing plane, by its selector. -/
def accOf (x : FireCtx) (sel : Nat) : MAcc := tget {} x.p.run.m (sel - 0x50)

/-- One mma (R344): ILLOP on a step beyond the form, a TYPE or a row format it does not accept; then cells, band scales, .inc and
the ends of declared reads. -/
def mma (s : State) (op : Nat) (w : Slot) : Out :=
  fire s op w fun x f =>
    let md := w.md.toNat
    let j := w.dst.toNat - 0x50
    let acc := accOf x w.dst.toNat
    let st := if bit md 6 then (tget 0 x.p.run.a (w.c.toNat - 0x18)).toNat else w.imm.toNat % 32
    let steps := mmaSteps op
    let sa := md % 8
    let sb := md / 8 % 8
    let a := mopOf x sa
    let b := mopOf x sb
    if steps ≤ st ∨ acc.int ≠ (op == 0x10C) ∨ !(a.fmts ++ b.fmts).all (mmaFmtOk op) then slotRaise f x 1 none 0 0
    else
      let ca := cleanOp a
      let cb := cleanOp b
      let m := if op = 0x10C then mmaI8 (w.sat == 1) acc ca cb st else mmaFloat op acc ca cb st
      let m := if op = 0x10B then bandCapture m ca cb else m
      let m := match uLog op a b with
        | none => m
        | some l => { m with ue := true, log := if m.ue then m.log else l }
      let f := modAcc (popAll f x) x j fun _ => m
      let f := if bit md 7 then addPend f x (.a x.plane (w.c.toNat - 0x18) (BitVec.ofNat 32 ((st + 1) % steps))) else f
      let f := if bit md 8 ∧ st = steps - 1 then modHalf f x.key sa halfRead else f
      if bit md 9 ∧ st = steps - 1 then modHalf f x.key sb halfRead else f

/-- mma.bf16 (0x108; R343-R345). -/
def execMmaBf16 (w : Slot) (s : State) : Out := mma s 0x108 w
/-- mma.fp16 (0x109; R343-R345). -/
def execMmaFp16 (w : Slot) (s : State) : Out := mma s 0x109 w
/-- mma.fp8 (0x10A; R343-R345). -/
def execMmaFp8 (w : Slot) (s : State) : Out := mma s 0x10A w
/-- mma.fp4 (0x10B; R343-R346). -/
def execMmaFp4 (w : Slot) (s : State) : Out := mma s 0x10B w
/-- mma.i8 (0x10C; R343-R345). -/
def execMmaI8 (w : Slot) (s : State) : Out := mma s 0x10C w

/-! ### Accumulator operations (R347-R349) -/

/-- mzero (0x101; R347): every item at its reset value but TYPE. -/
def execMzero (w : Slot) (s : State) : Out :=
  fire s 0x101 w fun x f =>
    let f := modElem (popAll f x) x.key fun e => { e with badReg := e.badReg.filter fun q => !(q.1 == x.plane && q.2.1 == w.dst.toNat) }
    modAcc f x (w.dst.toNat - 0x50) fun _ => { int := w.fmt == 3 }

/-- mband (0x102; R347). -/
def execMband (w : Slot) (s : State) : Out :=
  fire s 0x102 w fun x f =>
    if (accOf x w.dst.toNat).int then slotRaise f x 1 none 0 0
    else
      let v := scalarOf x w.a.toNat
      modAcc (popAll f x) x (w.dst.toNat - 0x50) fun m =>
        { m with ba := BitVec.ofNat 16 v, bb := BitVec.ofNat 16 (v / 2 ^ 16), cap := true, bandmis := false }

/-- The 512 bits that drain rows 2 q and 2 q + 1, and the condition bit (R348). -/
def drainLine (m : MAcc) (q rnd : Nat) (sat : Bool) : Line × Bool :=
  let c (i : Nat) : Nat := (tget 0 m.cells (16 * q + i)).toNat
  if m.int then
    let r := pack 32 ((List.range 16).map c)
    (r, anyBit r)
  else
    let k := FVal.mul (fdecode 6 m.ba.toNat) (fdecode 6 m.bb.toNat)
    let r := (List.range 16).map fun i => (fencode 7 rnd sat (FVal.mul (fdecode 7 (c i)) k)).bits
    (pack 32 r, r.any (isNaNBits 7))

/-- .clr of a drain: the two rows become zero (R348). -/
def drainClr (m : MAcc) (q : Nat) : MAcc := { m with cells := m.cells.filter fun c => c.1 / 16 != q }

/-- The local-store address of an mdrain.ls and its rotation code (R348). -/
def drainAddr (x : FireCtx) : Nat × Nat :=
  let p := pairOf x x.w.b.toNat
  ((pBase p.1 + x.w.imm.toNat % 4 * pPitch p.1) % 2 ^ 17, pRot p.2)

/-- The banks that an mdrain.ls writes (R113, R348); none for another form, or where it faults. -/
def drainBanks (x : FireCtx) : List Nat :=
  if x.op = 0x103 ∧ bit x.w.md.toNat 0 ∧ pairOk (pairOf x x.w.b.toNat).2 then lsBanks (drainAddr x).2 (drainAddr x).1 64 else []

/-- Banks that the fills in progress still need. -/
def fillBanks (c : CtSt) : List Nat := c.fills.flatMap fun q => q.reads.flatMap fun r => r.1

/-- An mdrain.ls loses a bank to an older fill or drain and holds its slot (R113, R348). -/
def drainLoses (x : FireCtx) : Bool := (drainBanks x).any fun b => (fillBanks x.e.ct).contains b

/-- mdrain (0x103; R348). With .ls the write ranks with the operand fills of the local store, older issue first: it stands among them until its
banks have served it. -/
def execMdrain (w : Slot) (s : State) : Out :=
  if drainLoses (fireCtx s.fab s.site 0x103 w) then .next s
  else fire s 0x103 w fun x f =>
    let m := accOf x w.a.toNat
    let q := w.imm.toNat % 4
    let md := w.md.toNat
    let r := drainLine m q w.rnd.toNat (w.sat == 1)
    let clr (f : Fab) : Fab := if bit md 1 then modAcc (popAll f x) x (w.a.toNat - 0x50) fun m => drainClr m q else popAll f x
    if (w.fmt == 3) ≠ m.int then slotRaise f x 1 none 0 0
    else if bit md 0 then
      let a := (drainAddr x).1
      let rot := (drainAddr x).2
      if !pairOk (pairOf x w.b.toNat).2 then slotRaise f x 1 none 0 0
      else if a % 4 ≠ 0 then lsMisalign f x a
      else if !lsRoom x.e x.plane x.p.run.round (lsLines rot a 64) then
        raiseFault f (keyCore x.key) x.plane { cause := 0, key := x.key, slot := some x.slot, info1 := 4 }
      else
        let f := modElem (clr f) x.key fun e =>
          { e with ct := { e.ct with fills := e.ct.fills ++ [{ half := none, plane := x.plane, readers := 0, reads := [(drainBanks x, 0)] }] } }
        putPwe (addPend f x (.ls x.plane x.p.run.round rot a 64 r.1)) x r.2
    else putResult (clr f) x r.1 r.2 0

/-- The status word of an accumulator (R349). -/
def accStatus (m : MAcc) : Nat :=
  m.bb.toNat * 2 ^ 48 + m.ba.toNat * 2 ^ 32 + b2n m.int * 2 ^ 31 + b2n m.cap * 2 ^ 30 + b2n m.ue * 2 ^ 29 + b2n m.bandmis * 2 ^ 28 +
    b2n m.nanf * 2 ^ 27 + b2n m.satf * 2 ^ 26 + m.log.toNat * 2 ^ 10

/-- mstat (0x104; R347, R349). -/
def execMstat (w : Slot) (s : State) : Out :=
  fire s 0x104 w fun x f =>
    let m := accOf x w.a.toNat
    let f := if bit w.md.toNat 0 then modAcc (popAll f x) x (w.a.toNat - 0x50) fun m =>
        { m with ue := false, bandmis := false, nanf := false, satf := false, log := 0 } else popAll f x
    putResult f x (BitVec.ofNat 512 (accStatus m)) (m.ue || m.bandmis) 0

end Sys2Proof.Machine
end

