-- ==== Sys2Proof/Machine/Dataflow.lean ====
section
/-! DEFINITION. Movement operations: steering, merges, joins, counters, tags, comparators, local store and home-accumulate
senders (13 R355-R369, R377; 05 R136-R141; 21 R467, R468). -/

namespace Sys2Proof.Machine

/-! ### Emission -/

/-- Emits a token on an output queue; selector 0x60 drops it. -/
def emitTo (f : Fab) (x : FireCtx) (sel : Nat) (t : Token) : Fab := if sel = 0x60 then f else pushOut f x.key sel t

/-- What a source gives on a queue: a queue's head forwarded, any other source as a new token (R357). -/
def carry (x : FireCtx) (sel src : Nat) (lvl : BitVec 3) : Token :=
  match (if isInSel src then headOf x.e src else none) with
  | some t => forwardToken x src sel t lvl none
  | none => newToken x sel (tokenSrc x src) 0

/-- The condition bit of a forwarded token: some bit of the data written is set (R232). With dst 0x60 nothing is written: tagchk, the merges and
cnt then test the token as it would stand on a narrow queue (log 78). -/
def tokCond (t : Token) : Bool := t.data != 0

/-- Changes the state of the firing slot. -/
def modSelf (f : Fab) (x : FireCtx) (g : SlotSt → SlotSt) : Fab :=
  modElem f x.key fun e => modRun e x.plane fun r => modSlot r x.slot g

/-- Forwards a queue's head to dst after the pops of the firing, with the default condition bit. -/
def forwardOne (f : Fab) (x : FireCtx) (src : Nat) : Fab :=
  let d := x.w.dst.toNat
  let t := carry x d src (fireLvl x)
  putPwe (emitTo (popAll f x) x d t) x (tokCond t)

/-! ### Steering, filtering, replication (R360, R361) -/

/-- pass (0x200; R360). -/
def execPass (w : Slot) (s : State) : Out := fire s 0x200 w fun x f => forwardOne f x w.a.toNat

/-- drop (0x201; R360). -/
def execDrop (w : Slot) (s : State) : Out := fire s 0x201 w fun x f => putPwe (popAll f x) x false

/-- delay (0x202; R361): the stream shifted by n tokens. -/
def execDelay (w : Slot) (s : State) : Out :=
  fire s 0x202 w fun x f =>
    match headOf x.e w.a.toNat with
    | none => f
    | some t =>
      let l := ((slotOfRun x.p.run x.slot).line.getD (List.replicate (w.imm.toNat % 16) {})) ++ [t]
      let h := l.headD {}
      let u := forwardToken x w.a.toNat w.dst.toNat h h.lvl none
      let u := if h.check = 0 ∧ h.data = 0 then stamp (isWideSel w.dst.toNat) u else u
      let f := modSelf (popAll f x) x fun q => { q with line := some (l.drop 1) }
      putPwe (emitTo f x w.dst.toNat u) x (tokCond u)

/-- Bit 0 of a control source (R360). -/
def control (x : FireCtx) (sel : Nat) : Bool := scalarOf x sel % 2 == 1

/-- steer (0x203; R360). -/
def execSteer (w : Slot) (s : State) : Out :=
  fire s 0x203 w fun x f =>
    let c := control x w.b.toNat
    let q := if c then w.dst.toNat else w.imm.toNat % 256
    putPwe (emitTo (popAll f x) x q (carry x q w.a.toNat (fireLvl x))) x c

/-- filt (0x204; R360). -/
def execFilt (w : Slot) (s : State) : Out :=
  fire s 0x204 w fun x f =>
    match headOf x.e w.a.toNat with
    | none => f
    | some t =>
      let ok := Nat.land t.ctag.toNat (w.imm.toNat / 256) == w.imm.toNat % 256
      let f := popAll f x
      putPwe (if ok then emitTo f x w.dst.toNat (carry x w.dst.toNat w.a.toNat (fireLvl x)) else f) x ok

/-- One copy of repl: narrow data to a wide queue fills each 64-bit word (R360). -/
def replCopy (x : FireCtx) (src sel : Nat) : Token :=
  let t := carry x sel src (fireLvl x)
  if isInSel src && !isWideSel src && isWideSel sel then stamp true { t with data := splat 64 (t.data.toNat % 2 ^ 64) } else t

/-- repl (0x205; R360). -/
def execRepl (w : Slot) (s : State) : Out :=
  fire s 0x205 w fun x f =>
    let qs := w.dst.toNat :: outQueues (isDrift x.key x.p) w.imm.toNat
    let f := qs.foldl (fun f q => emitTo f x q (replCopy x w.a.toNat q)) (popAll f x)
    putPwe f x (tokCond (replCopy x w.a.toNat w.dst.toNat))

/-! ### Merges and joins (R361, R362) -/

/-- merge.o (0x206; R362). -/
def execMergeO (w : Slot) (s : State) : Out :=
  fire s 0x206 w fun x f =>
    match mergeHit x.e x.plane (slotOfRun x.p.run x.slot).next w with
    | none => f
    | some q => modSelf (forwardOne f x q) x fun t => { t with next := t.next + 1 }

/-- merge.c (0x207; R362): srcA when the control is 1, srcB when it is 0. -/
def execMergeC (w : Slot) (s : State) : Out :=
  fire s 0x207 w fun x f => forwardOne f x (if control x w.c.toNat then w.a.toNat else w.b.toNat)

/-- merge.u (0x208; R361): the pointer flips only when both inputs hold heads. -/
def execMergeU (w : Slot) (s : State) : Out :=
  fire s 0x208 w fun x f =>
    let both := holdsHead x.e x.plane w.a.toNat && holdsHead x.e x.plane w.b.toNat
    let f := forwardOne f x ((popsOf x).headD w.a.toNat)
    if both then modSelf f x fun t => { t with ptr := !t.ptr } else f

/-- Key of a join's head: data bits [31:0] (R362). -/
def joinKey (x : FireCtx) (sel : Nat) : Nat := match headOf x.e sel with
  | some t => t.data.toNat % 2 ^ 32
  | none => 0

/-- A join (R362): pops by the keys; want says which of a and b it emits for the keys, a to dst, b to qb. The condition bit is that of the table
of R362 even where the queue is 0x60 and drops the token (log 78). -/
def join (s : State) (op : Nat) (w : Slot) (qb : Nat) (want : Nat → Nat → Bool × Bool) : Out :=
  fire s op w fun x f =>
    let e := want (joinKey x w.a.toNat) (joinKey x w.b.toNat)
    let l := fireLvl x
    let f := popAll f x
    let f := if e.1 then emitTo f x w.dst.toNat (carry x w.dst.toNat w.a.toNat l) else f
    let f := if e.2 then emitTo f x qb (carry x qb w.b.toNat l) else f
    putPwe f x (e.1 || e.2)

/-- The key that ends a sorted stream. -/
def joinEnd : Nat := 0xFFFFFFFF

/-- join.lt (0x209; R362). -/
def execJoinLt (w : Slot) (s : State) : Out :=
  join s 0x209 w w.dst.toNat fun a b => (decide (a < b) || (a == joinEnd && b == joinEnd), false)
/-- join.eq (0x20A; R362): srcB goes to e. -/
def execJoinEq (w : Slot) (s : State) : Out := join s 0x20A w (w.imm.toNat % 256) fun a b => (a == b, a == b)
/-- join.gt (0x20B; R362). -/
def execJoinGt (w : Slot) (s : State) : Out :=
  join s 0x20B w w.dst.toNat fun a b => (false, decide (b < a) || (a == joinEnd && b == joinEnd))

/-! ### Counter chains (R363-R365) -/

/-- A chain token: E in bit 63, J in bits [2:0] (R363). -/
def chainTok (e : Bool) (j : Nat) : Line := BitVec.ofNat 512 (b2n e * 2 ^ 63 + j % 8)

/-- cnt (0x20C; R363). -/
def execCnt (w : Slot) (s : State) : Out :=
  fire s 0x20C w fun x f =>
    let n := scalarOf x w.b.toNat % 2 ^ 32
    let imm := w.imm.toNat
    let k := fld imm 8 3
    let q := slotOfRun x.p.run x.slot
    let t := if w.a.toNat = 0x60 then 2 ^ 63 else accWord x.e w.a.toNat
    let e := bit t 63
    let j := t % 8
    if n = 0 then slotRaise f x 1 none 0 0
    else
      let last := q.idx.toNat == n - 1
      let idx : BitVec 32 := if !e then q.idx else if last then 0 else q.idx + 1
      let out := if e && last then chainTok true k else chainTok false j
      let f := modSelf (popAll f x) x fun r => { r with idx := idx, done := r.done || (e && last && bit imm 11) }
      let ix := imm % 256
      let f := if e then emitTo f x ix (newToken x ix (BitVec.ofNat 512 (k * 2 ^ 61 + idx.toNat)) 0) else f
      putPwe (emitTo f x w.dst.toNat (newToken x w.dst.toNat out 0)) x (out != 0)

/-- lastm (0x20D; R364): LVL is J of the chain token. -/
def execLastm (w : Slot) (s : State) : Out :=
  fire s 0x20D w fun x f =>
    let t := carry x w.dst.toNat w.a.toNat (BitVec.ofNat 3 (accWord x.e w.b.toNat))
    putPwe (emitTo (popAll f x) x w.dst.toNat t) x (tokCond t)

/-- acc.rst (0x211; R365). -/
def execAccRst (w : Slot) (s : State) : Out :=
  fire s 0x211 w fun x f =>
    let lvl := match headOf x.e w.a.toNat with
      | some t => t.lvl
      | none => 0
    let f := popAll f x
    let d := w.dst.toNat
    let r := w.b.toNat
    if 1 ≤ lvl.toNat ∧ lvl.toNat ≤ w.imm.toNat % 8 then
      let t := newToken x d (tokenSrc x r) lvl
      let f := emitTo f x d t
      let f := addPend f x (if r < 0x10 then .v x.plane r 0 else .a x.plane (r - 0x18) 0)
      putPwe f x (d != 0x60 && tokCond t)
    else f

/-! ### Tags and comparators (R366, R367, R468) -/

/-- The tag that tagset writes and tagchk expects (R366). -/
def tagOf (x : FireCtx) : Nat := (scalarOf x x.w.b.toNat % 256 + x.w.imm.toNat % 256) % 256

/-- tagset (0x20E; R366). -/
def execTagset (w : Slot) (s : State) : Out :=
  fire s 0x20E w fun x f =>
    match headOf x.e w.a.toNat with
    | none => f
    | some t =>
      let u := forwardToken x w.a.toNat w.dst.toNat t (fireLvl x) (some (BitVec.ofNat 8 (tagOf x)))
      putPwe (emitTo (popAll f x) x w.dst.toNat u) x (tokCond u)

/-- tagchk (0x20F; R366): TAGCHK on a mismatch under the mask. -/
def execTagchk (w : Slot) (s : State) : Out :=
  fire s 0x20F w fun x f =>
    match headOf x.e w.a.toNat with
    | none => f
    | some t =>
      if Nat.land (Nat.xor t.ctag.toNat (tagOf x)) (w.imm.toNat / 256) ≠ 0 then
        slotRaise f x 8 (some w.a.toNat) (tagOf x * 256 + t.ctag.toNat) (t.data.toNat % 2 ^ 64)
      else forwardOne f x w.a.toNat

/-- A token's sideband (R186). -/
def sideband (t : Token) : Nat := t.ctag.toNat * 2 ^ 24 + t.lvl.toNat * 2 ^ 21 + t.kind.toNat * 2 ^ 18 + t.ctx.toNat * 2 ^ 16 + t.check.toNat

/-- The round has already been replayed for a mismatch (R204, R468). -/
def twinReplayed (f : Fab) (x : FireCtx) : Bool :=
  match regionOf f (keyCore x.key) with
  | none => false
  | some (_, r) => (ctxOf r x.plane).twreplayed.contains x.p.run.round

/-- cmpx (0x210; R367, R468): equal tokens forward srcA; a first mismatch asks for a replay (internal code 7), a second raises
TWINMIS. -/
def execCmpx (w : Slot) (s : State) : Out :=
  fire s 0x210 w fun x f =>
    match headOf x.e w.a.toNat, headOf x.e w.b.toNat with
    | some a, some b =>
      if a.data = b.data ∧ a.lvl = b.lvl ∧ a.ctag = b.ctag then
        modSelf (forwardOne f x w.a.toNat) x fun q => { q with twinSent := false }
      else if twinReplayed f x then
        slotRaise f x 0x0D (some w.a.toNat) (Nat.xor (a.data.toNat % 2 ^ 64) (b.data.toNat % 2 ^ 64)) (sideband a * 2 ^ 32 + sideband b)
      else slotRaise f x 0 none 0 7
    | _, _ => f

/-! ### Local store (R368, R369) -/

/-- The effective address of lsld and lsst with its rotation code, or the fault's cause and address (R369). -/
def lsAddr (x : FireCtx) : (Nat × Nat) ⊕ (Nat × Nat) :=
  let w := x.w
  let fmt := w.fmt.toNat
  let fine (a rot : Nat) : (Nat × Nat) ⊕ (Nat × Nat) := if a % fmtSize fmt ≠ 0 then .inr (3, a) else .inl (a, rot)
  if bit w.md.toNat 0 then
    let q := pairOf x w.a.toNat
    if !pairOk q.2 then .inr (1, 0) else fine ((pBase q.1 + w.imm.toNat) % 2 ^ 17) (pRot q.2)
  else
    let a := (scalarOf x w.a.toNat + w.imm.toNat) % 2 ^ 32
    if 2 ^ 17 ≤ a then .inr (6, a) else fine a 0

/-- .inc of lsld and lsst. -/
def lsInc (x : FireCtx) (f : Fab) : Fab := if bit x.w.md.toNat 1 then pairInc x x.w.a.toNat f else f

/-- n bytes from a local-store address meet a word with an uncorrectable error. -/
def lsBad (c : CtSt) (rot a n : Nat) : Bool :=
  (List.range n).any fun i => c.bad.contains (lsPhys rot ((a + i) % 2 ^ 17) / 8)

/-- Banks that the matrix operation which the arbiter chooses takes in this cycle: the reads of an mload, or the write of an mdrain.ls (R113,
R348). -/
def matrixBanks (f : Fab) (key : Nat) : List Nat :=
  match chooseSlot f key .matrix with
  | none => []
  | some (n, i) =>
    let word := slotWordOf (planeOf (elemOf f key) n) i
    let w := slotFields word
    let x := fireCtx f { key := key, plane := n, slot := i } (swOp word) w
    if swOp word = 0x100 ∧ selKind w.a.toNat = 4 then
      let q := pairOf x w.a.toNat
      (mloadFill x (pRot q.2) (pBase q.1) (pPitch q.1)).reads.flatMap fun r => r.1
    else if drainLoses x then [] else drainBanks x

/-- An access of n bytes loses a bank in this cycle to an operand fill or drain, or to the second line of an earlier access (R113). -/
def lsLoses (f : Fab) (x : FireCtx) (rot a n : Nat) : Bool :=
  let taken := x.e.ct.lsq ++ fillBanks x.e.ct ++ matrixBanks f x.key
  (lsBanks rot a n).any fun b => taken.contains b

/-- An unaligned access with both lines in one bank holds it for two cycles (R113). -/
def lsTwice (x : FireCtx) (rot a n : Nat) (f : Fab) : Fab :=
  match lsBanks rot a n with
  | [b, c] => if b = c then modElem f x.key fun e => { e with ct := { e.ct with lsq := e.ct.lsq ++ [b, b] } } else f
  | _ => f

/-- Fires a local-store access of n bytes: it waits while it loses a bank; a fault of its address is raised (R113, R369). -/
def lsFire (s : State) (op : Nat) (w : Slot) (n : Nat) (body : FireCtx → Nat → Nat → Fab → Fab) : Out :=
  let x := fireCtx s.fab s.site op w
  let wait : Bool := match lsAddr x with
    | .inl (a, rot) => lsLoses s.fab x rot a n
    | .inr _ => false
  if wait then .next s
  else fire s op w fun x f => match lsAddr x with
    | .inr (c, a) => slotRaise f x c none a 4
    | .inl (a, rot) => body x a rot f

/-- lsld (0x220; R369). -/
def execLsld (w : Slot) (s : State) : Out :=
  lsFire s 0x220 w 64 fun x a rot f =>
    if lsBad x.e.ct rot a 64 then slotRaise f x 0x0B none a 2
    else
      let v : Line := BitVec.ofNat 512 (lsRead x.e.ct.ls rot a 64)
      let d := w.dst.toNat
      let seen : Line := if selKind d = 4 then (v.setWidth 32).setWidth 512 else if selKind d = 64 then (v.setWidth 64).setWidth 512 else v
      lsInc x (lsTwice x rot a 64 (putResult (popAll f x) x v (anyBit seen) (fireLvl x)))

/-- lsst (0x221; R369): journalled; a full journal asks for a capacity discard (R122). -/
def execLsst (w : Slot) (s : State) : Out :=
  let b := w.b.toNat
  let n := if selKind b = 1 ∨ selKind b = 8 then 64 else 8
  lsFire s 0x221 w n fun x a rot f =>
    if n = 8 ∧ 56 < a % 64 then slotRaise f x 3 none a 4
    else if !lsRoom x.e x.plane x.p.run.round (lsLines rot a n) then slotRaise f x 0 none 0 4
    else lsInc x (lsTwice x rot a n (putPwe (addPend (popAll f x) x (.ls x.plane x.p.run.round rot a n (tokenSrcLine x b))) x false))
where
  /-- The bytes of a store's source. -/
  tokenSrcLine (x : FireCtx) (sel : Nat) : Line :=
    match selKind sel with
    | 1 => tget 0 x.p.run.v sel
    | 8 => match headOf x.e sel with
      | some t => t.data
      | none => 0
    | _ => BitVec.ofNat 512 (scalarOf x sel)

/-! ### Home accumulates: senders (R131, R136-R141, R377) -/

/-- The valid entry of a context, address, operation and format in the firn tile's list, which rises by entry number (R136). -/
def firnFind (l : List FirnE) (ctx : Nat) (addr : BitVec 32) (acop fmt : Nat) : Option FirnE :=
  l.find? fun e => e.v && e.ctx == ctx && e.addr == addr && e.acop == acop && e.fmt == fmt

/-- Frees an entry: it then reads zero (log 72). -/
def firnDel (l : List FirnE) (x : FirnE) : List FirnE := l.filter fun e => e.n != x.n

/-- Sets the entry of a number. -/
def firnSet (l : List FirnE) (x : FirnE) : List FirnE :=
  (l.filter fun e => decide (e.n < x.n)) ++ x :: l.filter fun e => decide (x.n < e.n)

/-- The free entry that an addend takes: the lowest number with no valid entry (log 72). -/
def firnFree (l : List FirnE) : Nat :=
  match (List.range 32).find? fun n => !l.any fun e => e.v && e.n == n with
  | some n => n
  | none => 32

/-- The firn tile and the addend that leaves when an accumulate is sent (R137). -/
def firnTake (l : List FirnE) (x : FirnE) : List FirnE × Line :=
  match firnFind l x.ctx x.addr x.acop x.fmt with
  | some e => (firnDel l e, accLine x.acop x.fmt e.data x.data)
  | none => (l, x.data)

/-- A bounced accumulate enters the firn tile (R138). -/
def firnPut (l : List FirnE) (x : FirnE) : List FirnE :=
  match firnFind l x.ctx x.addr x.acop x.fmt with
  | some e => firnSet l { e with data := accLine x.acop x.fmt e.data x.data }
  | none => firnSet l { x with n := firnFree l, v := true, cr := false }

/-- Adds to OUT of a context (R136). -/
def outAdd (e : Elem) (ctx : Nat) : Elem := { e with out := tput 0 e.out ctx (tget 0 e.out ctx + 1) }
/-- Subtracts from OUT of a context (R138). -/
def outSub (e : Elem) (ctx n : Nat) : Elem := { e with out := tput 0 e.out ctx (tget 0 e.out ctx - n) }

/-- The request word of an accumulate (R129). -/
def accReq (sx sy : Nat) (fl : Bool) (x : FirnE) : Line :=
  BitVec.ofNat 512 (b2n x.cr * 2 ^ 60 + sy % 128 * 2 ^ 53 + sx % 128 * 2 ^ 46 + b2n fl * 2 ^ 45 + x.fmt % 256 * 2 ^ 36 +
    x.acop % 16 * 2 ^ 32 + x.addr.toNat)

/-- Region-relative place of an element. -/
def selfXY (f : Fab) (key : Nat) : Nat × Nat :=
  match regionOf f (keyCore key) with
  | some (_, r) => relPlace r key
  | none => (0, 0)

/-- The checks of an accumulate at its sender, in the order of R131: MISALIGN, ILLOP, PROT with its kind. -/
def accCheck (f : Fab) (core plane addr acop fmt : Nat) : Option (Nat × Nat) :=
  if addr % 64 ≠ 0 then some (3, 1)
  else if !accLegal acop fmt then some (1, 0)
  else match spLocate f core plane addr with
    | none => some (6, 1)
    | some (k, b, _) => if bankAllowed f k plane b then none else some (6, 3)

/-- hacc (0x310; R377). -/
def execHacc (w : Slot) (s : State) : Out :=
  fire s 0x310 w fun x f =>
    let md := w.md.toNat
    let acop := md % 4
    let kind := fld md 2 2
    let addr := scalarOf x w.a.toNat % 2 ^ 32
    if addr % 64 ≠ 0 then slotRaise f x 3 none addr 1
    else if kind % 2 = 1 then slotRaise f x 1 none 0 0
    else match accCheck f (keyCore x.key) x.plane addr acop w.fmt.toNat with
    | some (c, k) => slotRaise f x c none addr k
    | none =>
      let xy := selfXY f x.key
      let a : FirnE := { ctx := x.plane, addr := BitVec.ofNat 32 addr, acop := acop, fmt := w.fmt.toNat
                         data := vecSrc x w.fmt.toNat w.b.toNat }
      if (firnFind x.e.firn a.ctx a.addr a.acop a.fmt).any fun y => y.bad then slotRaise f x 0x0B none addr 3
      else
      let q := firnTake x.e.firn a
      let d := w.dst.toNat
      let l := fireLvl x
      let f := modElem (popAll f x) x.key fun e => outAdd { e with firn := q.1 } x.plane
      let f := pushOut f x.key d { newToken x d (accReq xy.1 xy.2 false a) l with bnc := 3 }
      putPwe (pushOut f x.key d { newToken x d q.2 l with bnc := 4 }) x true

/-- Starts FLRES of a context: its valid entries, in entry order, go to the flush sender (R140). -/
def flresStart (e : Elem) (plane : Nat) (cr : Bool) : Elem :=
  modRun e plane fun r =>
    { r with flush := r.flush ++ ((e.firn.filter fun x => x.v && x.ctx == plane && (firnFind r.flush plane x.addr x.acop x.fmt).isNone).map
        fun x => { x with cr := cr }) }

/-- flres (0x311; R377). -/
def execFlres (w : Slot) (s : State) : Out :=
  fire s 0x311 w fun x f => putPwe (modElem (popAll f x) x.key fun e => flresStart e x.plane false) x false

/-- The accumulate queue of a plane: the dst of its hacc and flres slots (R377). -/
def accQueue (key : Nat) (p : Plane) : Option Nat :=
  ((validSlots key p).find? fun n => swOp (slotWordOf p n) == 0x310 || swOp (slotWordOf p n) == 0x311).map fun n =>
    fld (slotWordOf p n) 62 8

/-- A token of a plane outside a firing. -/
def planeToken (key : Nat) (p : Plane) (plane sel : Nat) (data : Line) (lvl : BitVec 3) : Token :=
  stamp (isWideSel sel) { data := if isWideSel sel then data else (data.setWidth 64).setWidth 512, lvl := lvl
                          ctag := ctagOf key p sel, ctx := BitVec.ofNat 2 plane }

/-- The flush sender of a compute tile sends one entry of a plane, when its queue has two places (R140): the entry is freed as it
leaves, and with CR it takes a place in OUT. An entry that an accumulate has taken meanwhile is gone; one with an uncorrectable word is UNCORR
(R471). -/
def flushSend (f : Fab) (key plane : Nat) : Fab :=
  let e := elemOf f key
  let p := planeOf e plane
  match p.run.flush, accQueue key p with
  | x :: rest, some q =>
    if p.revoked ∨ outRoom e q < 2 then f
    else
      let f := modElem f key fun e => modRun e plane fun r => { r with flush := rest }
      match firnFind e.firn plane x.addr x.acop x.fmt with
      | none => f
      | some y =>
        if y.bad then
          raiseFault f (keyCore key) plane { cause := 0x0B, key := key, round := p.run.round, info0 := y.addr.setWidth 64, info1 := 3 }
        else
        let xy := selfXY f key
        let f := modElem f key fun e =>
          let e := { e with firn := firnDel e.firn y }
          if x.cr then outAdd e plane else e
        let f := pushOut f key q { planeToken key p plane q (accReq xy.1 xy.2 true { y with cr := x.cr }) 0 with bnc := 3 }
        pushOut f key q { planeToken key p plane q y.data 0 with bnc := 4 }
  | _, _ => f

/-- A release or fence of a context waits at a memory tile of the region on a request that this element sent (R159, R160). -/
def releaseSent (f : Fab) (key plane : Nat) : Bool :=
  match regionOf f (keyCore key) with
  | none => false
  | some (_, r) => (planeKeys r).any fun k => kindOf k == .memory &&
      (let e := elemOf f k
       let p := planeOf e plane
       p.st == .bound && (validSlots k p).any fun n =>
         let word := slotWordOf p n
         let w := slotFields word
         isRelease (swOp word) w && ((headOf e w.a.toNat).any fun t => t.sent == some key) && inputsReady e k plane n (swOp word) p w)

/-- Step 2 of R159 is due for a context of an element: a release hacc waits at its trigger, or a release or fence at a memory tile waits on this
element, and OUT is 0 while HELD is not (R377). -/
def releaseDue (f : Fab) (key plane : Nat) : Bool :=
  let e := elemOf f key
  let p := planeOf e plane
  p.st == .bound && !p.revoked && tget 0 e.out plane == 0 && firnHeld e plane != 0 && p.run.flush.isEmpty &&
    (((validSlots key p).any fun n =>
      let word := slotWordOf p n
      swOp word == 0x310 && bit (fld word 16 10) 3 && inputsReady e key plane n 0x310 p (slotFields word)) || releaseSent f key plane)

/-- Step 2 of R159 runs FLRES with CR = 1 (R140). -/
def releaseFlush (f : Fab) (key plane : Nat) : Fab :=
  if releaseDue f key plane then modElem f key fun e => flresStart e plane true else f

/-! ### Twin channels (21 R467; log 11) -/

/-- Sends the copy of each cmpx's srcA head to the partnered element once, while its channel holds fewer than 16. R358 lets a cmpx pop only when
both its heads stand, and its srcB head is the other's copy, so the copy leaves once the head stands and the pop waits for it (log 11). -/
def twinSend (f : Fab) (key plane : Nat) : Fab :=
  match regionOf f (keyCore key) with
  | none => f
  | some (_, r) => match r.twin.bind fun t => region? f t with
    | none => f
    | some t =>
      let p := planeOf (elemOf f key) plane
      let xy := relPlace r key
      match relKey t xy.1 xy.2 with
      | none => f
      | some k => (validSlots key p).foldl (fun f n =>
          let word := slotWordOf p n
          let a := fld word 54 8
          let b := fld word 46 8
          match headOf (elemOf f key) a with
          | none => f
          | some h =>
            if swOp word == 0x210 && p.st == .bound && h.kind == 0 && h.ctx.toNat == plane && !(slotOfRun p.run n).twinSent &&
                decide ((f.twins.countP fun q => q.1 == k && q.2.1 == b) < 16) then
              { modElem f key (fun e => modRun e plane fun r => modSlot r n fun q => { q with twinSent := true }) with
                twins := f.twins ++ [(k, b, h)] }
            else f) f

/-- Takes the next copy of a twin channel into its queue when a place is free; the queue verifies its CHECK (R187, R470). -/
def twinTake (f : Fab) (key : Nat) : Fab :=
  match f.twins.find? fun q => q.1 == key with
  | none => f
  | some q =>
    let n := (tget [] (elemOf f key).net.rx q.2.1).length
    if n < linkSlots key (selDir q.2.1) then
      let c := q.2.2.ctx.toNat
      let f := if tokCheck (isWideSel q.2.1) q.2.2 = q.2.2.check then f
        else raiseFault f (keyCore key) c
          { cause := 0x0B, key := key, qsel := some q.2.1, round := (planeOf (elemOf f key) c).run.round, info1 := 4 }
      { modElem f key (fun e => { e with net := { e.net with rx := tput [] e.net.rx q.2.1 (tget [] e.net.rx q.2.1 ++ [{ q.2.2 with twin := true }]) } }) with
        twins := dropFirst q f.twins }
    else f
where
  /-- The list without the first entry equal to q. -/
  dropFirst (q : Nat × Nat × Token) : List (Nat × Nat × Token) → List (Nat × Nat × Token)
    | [] => []
    | x :: r => if x = q then r else x :: dropFirst q r

/-- The twin channels of an element in a tile cycle: cmpx stands in compute and memory tiles (R355). -/
def twinTick (f : Fab) (key : Nat) : Fab := twinTake ([0, 1, 2, 3].foldl (fun f n => twinSend f key n) f) key

/-- What a compute tile does besides its slots in a tile cycle. -/
def computeTick (f : Fab) (key : Nat) : Fab :=
  twinTick ([0, 1, 2, 3].foldl (fun f n => flushSend (releaseFlush f key n) key n) f) key

end Sys2Proof.Machine
end

