-- ==== Sys2Proof/Machine/MemTile.lean ====
section
/-! DEFINITION. Memory-tile operations and events: accesses, domains, sections, fences, home accumulates and their credits
(04 R102-R104, 05 R133-R138, 06 R165-R170, 13 R370-R379). -/

namespace Sys2Proof.Machine

/-! ### Replies and checks -/

/-- Emits a reply of a plane on a queue; with hdr, a burst header goes ahead where the tag differs from OHDR (R312, R373). -/
def emitReply (f : Fab) (key plane sel : Nat) (lvl : BitVec 3) (hdr : Option (BitVec 16)) (data : Line) : Fab :=
  let p := planeOf (elemOf f key) plane
  if sel = 0x60 then f
  else
    let f := match hdr with
      | none => f
      | some h =>
        if h = tget 0x7F00 p.run.ohdr sel then f
        else
          let t := { planeToken key p plane sel (h.setWidth 512) 0 with kind := 1 }
          modElem (pushOut f key sel (stamp true t)) key fun e => modRun e plane fun r => { r with ohdr := tput 0x7F00 r.ohdr sel h }
    pushOut f key sel (planeToken key p plane sel data lvl)

/-- Emits a popped token of a plane on a queue, forwarded (R357). -/
def emitPass (f : Fab) (key plane src sel : Nat) (t : Token) : Fab :=
  if sel = 0x60 then f else pushOut f key sel (passToken key plane (planeOf (elemOf f key) plane) src sel t t.lvl none)

/-- The popped token of a firing with the LVL that its forwarded copies carry (R310, R357). -/
def poppedToken (x : FireCtx) (q : Nat) (t : Token) : Token :=
  if fireLvl x = t.lvl then t else stamp (isWideSel q) { t with lvl := fireLvl x }

/-- Places that a reply needs. -/
def replyPlaces (q : MemReq) : Nat := if q.reply = 0x60 then 0 else if q.hdr then 2 else 1

/-- The checks of one address, in the order of R372 after KIND: PROT with its kind, MISALIGN. -/
def addrCheck (f : Fab) (key plane addr align : Nat) : Option (Nat × Nat × Nat) :=
  match spLocate f (keyCore key) plane addr with
  | none => some (6, addr, 1)
  | some (k, b, _) =>
    if k ≠ key then some (6, addr, 2)
    else if !bankAllowed f key plane b then some (6, addr, 3)
    else if addr % align ≠ 0 then some (3, addr, 1)
    else none

/-- The checks of a request token: KIND among the legal ones, then each address (R158, R372). -/
def memCheck (f : Fab) (x : FireCtx) (kinds : Nat) (align : Nat) (t : Token) : Option (Nat × Nat × Nat) :=
  if !bit kinds (x.w.md.toNat % 4) then some (1, 0, 0)
  else (reqAddrs x.op t).findSome? fun a => addrCheck f x.key x.plane a.1 align

/-- The request that a slot's firing makes of an address (R371). -/
def slotReq (f : Fab) (x : FireCtx) (addr size : Nat) (data : Line) : MemReq :=
  let md := x.w.md.toNat
  let pl := match spLocate f (keyCore x.key) x.plane addr with
    | some (_, b, l) => (b, l)
    | none => (0, 0)
  { src := 0, plane := x.plane, slot := x.slot, op := x.op, fmt := x.w.fmt.toNat, bank := pl.1, line := pl.2
    addr := BitVec.ofNat 32 addr, size := size, data := data, reply := x.w.dst.toNat, lvl := fireLvl x
    hdr := bit md 8 && x.op == 0x300, ord := BitVec.ofNat 4 md, smode := BitVec.ofNat 2 (md / 16), dom := fld md 6 2
    pred := x.w.imm, queue := x.w.a.toNat, round := x.p.run.round }

/-! ### Ordered sections (R166-R169) -/

/-- The first section of a plane's domain in flight, by its place in the list. -/
def sectFirst (l : List Sect) (plane dom : Nat) : Option Nat := l.findIdx? fun y => y.plane == plane && y.dom == dom

/-- Squashes a section (R168): writes and signatures dropped, a new grant due, a run of a new number; a run whose osec.e has not arrived is
thrown. -/
def sectSquash (run : Nat) (y : Sect) : Sect :=
  { y with reads := [], wsig := [], writes := [], replies := [], due := y.due + 1, run := run
           squashed := if y.result.isNone then y.squashed + 1 else y.squashed, result := none }

/-- Sections with the one at a place squashed. -/
def squashAt (m : MtSt) (j : Nat) : MtSt := { m with sects := lmod m.sects j (sectSquash m.nextReq), nextReq := m.nextReq + 1 }

/-- The tile after a write of section i to h(l) of a bank: every younger section of the domain from the first whose read signature has it is
squashed (R168). -/
def sectConflict (m : MtSt) (i b h : Nat) : MtSt :=
  match m.sects[i]? with
  | none => m
  | some s =>
    let l := m.sects
    let idx := (List.range l.length).filter fun j => decide (i < j) && (l[j]?.any fun y => y.plane == s.plane && y.dom == s.dom)
    (idx.dropWhile fun j => !(l[j]?.any fun y => y.reads.contains (b, h))).foldl squashAt m

/-- Lines that a bank's section buffer holds (R167). -/
def sectLines (l : List Sect) (b : Nat) : Nat :=
  l.foldl (fun n y => n + ((y.writes.filter fun q => q.bank == b).map fun q => q.line).dedup.length) 0

/-- The youngest section with entries in a bank that is not the oldest of its domain. -/
def sectVictim (l : List Sect) (b : Nat) : Option Nat :=
  ((List.range l.length).filter fun j => match l[j]? with
    | none => false
    | some y => y.writes.any (fun q => q.bank == b) && sectFirst l y.plane y.dom != some j).getLast?

/-- What becomes of a write of section i (R167): the buffer takes it; the buffer is full and the oldest section's write performs at the bank; or
the youngest section with entries there is squashed first. -/
inductive SWrite where
  | keep | direct | squash (j : Nat)
  deriving DecidableEq, Repr

/-- The decision of R167 for a write of section i. -/
def sectTakes (m : MtSt) (i : Nat) (q : MemReq) : SWrite :=
  match m.sects[i]? with
  | none => .keep
  | some s =>
    if (s.writes.any fun r => r.bank == q.bank && r.line == q.line) ∨ sectLines m.sects q.bank < 16 then .keep
    else if sectFirst m.sects s.plane s.dom = some i then .direct
    else .squash ((sectVictim m.sects q.bank).getD i)

/-- A write of section i that does not perform at once: into the buffer, after the squash that a full one takes; a section that is squashed
itself loses the write (R167, R168). -/
def sectKeep (m : MtSt) (i : Nat) (q : MemReq) : MtSt :=
  let h := sigOf q.line
  let keep := fun y : Sect => { y with wsig := (q.bank, h) :: y.wsig, writes := y.writes ++ [q] }
  match sectTakes m i q with
  | .squash j => if j = i then squashAt m i else
      let m := squashAt m j
      sectConflict { m with sects := lmod m.sects i keep } i q.bank h
  | _ => sectConflict { m with sects := lmod m.sects i keep } i q.bank h

/-- The storage as section i sees a line: the bank with the section's own writes (R167). -/
def sectView (m : MtSt) (i : Nat) (q : MemReq) : MtSt :=
  match m.sects[i]? with
  | none => m
  | some s => (s.writes.filter fun r => r.bank == q.bank && r.line == q.line).foldl reqWrite m

/-- The section that a body access belongs to: the one whose present run has its number; none for a thrown run (R168). -/
def sectOf (m : MtSt) (q : MemReq) : Option Nat := m.sects.findIdx? fun y => y.run == q.run && y.plane == q.plane

/-- A body access meets an uncorrectable line: not where its own section has written all of it (R77, R153). -/
def sectBad (m : MtSt) (q : MemReq) : Bool :=
  let own : Bool := match (sectOf m q).bind fun i => m.sects[i]? with
    | some y => y.writes.any fun r => r.bank == q.bank && r.line == q.line && r.op == 0x301 && r.size == 64
    | none => false
  !own && reqBad m q

/-! ### Sending requests (R103, R165, R371, R373) -/

/-- The lane requests of a gather or scatter whose addresses are in the request's data; elements are those of els. -/
def laneReqs (f : Fab) (key : Nat) (q : MemReq) (els : Line) : List MemReq :=
  let w := fmtSize q.fmt
  (((lanes 32 q.data).zip (List.range 16)).filter fun a => a.1 != 0xFFFFFFFF).map fun a =>
    let pl := match spLocate f (keyCore key) q.plane a.1 with
      | some (_, b, l) => (b, l)
      | none => (0, 0)
    { q with addr := BitVec.ofNat 32 a.1, size := w, lane := a.2, bank := pl.1, line := pl.2
             data := BitVec.ofNat 512 (fld els.toNat (8 * w * a.2) (8 * w)) }

/-- The data of a gather's or scatter's reply: the gathered line, or lane 0's address (R373). -/
def groupData (q : MemReq) (out : Line) : Line := if q.op = 0x302 then out else (q.data.setWidth 32).setWidth 512

/-- The reply of a gather or scatter. -/
def groupReply (f : Fab) (key : Nat) (q : MemReq) (out : Line) : Fab := emitReply f key q.plane q.reply q.lvl none (groupData q out)

/-- The end of an acquire: what its reply returns lets later requests of the plane fire (R159). -/
def acqDone (f : Fab) (key : Nat) (q : MemReq) : Fab :=
  if q.ord.getLsbD 0 then modElem f key fun e => modRun e q.plane fun r => { r with acq := none, acqDom := none } else f

/-- The lanes of a group wait for their banks; a group without lanes replies at once. -/
def groupSend (f : Fab) (key : Nat) (q : MemReq) (els : Line) : Fab :=
  let rs := laneReqs f key q els
  if rs.isEmpty then acqDone (groupReply f key q 0) key q
  else modMt f key fun m =>
    { m with groups := tins m.groups q.grp { req := q, left := rs.length, out := if q.op = 0x302 then 0 else els, wait := rs } }

/-- A body access sets the bits of its reads in its section's read signature as it leaves its slot, so that every later write of an older section
meets them (R167, R168). -/
def sectReads (f : Fab) (key : Nat) (q : MemReq) : Fab :=
  let ps := if q.op = 0x302 then (laneReqs f key q 0).map fun r => (r.bank, sigOf r.line) else if q.op = 0x300 then [(q.bank, sigOf q.line)] else []
  modMt f key fun m => match sectOf m q with
    | some i => { m with sects := lmod m.sects i fun y => { y with reads := ps ++ y.reads } }
    | none => m

/-- A checked request leaves its slot with its number (R165, R166, R371, R376): as a body access of the open section of its queue, into its
ordering domain, or toward its bank. els holds the elements of a scatter. An acquire holds back what follows until it has performed, an atomic
of a section's body until the section retires (R159, R374; log 33). -/
def memSend (f : Fab) (x : FireCtx) (q : MemReq) (els : Line) : Fab :=
  let isGrp := q.op = 0x302 ∨ q.op = 0x303
  let e := elemOf f x.key
  let q := { q with no := e.mt.nextReq, grp := if isGrp then e.mt.nextGrp else 0 }
  let f := modMt f x.key fun m => { m with nextReq := m.nextReq + 1, nextGrp := if isGrp then m.nextGrp + 1 else m.nextGrp }
  let hold (d : Option Nat) (f : Fab) : Fab := if q.ord.getLsbD 0 then
      modElem f x.key fun e => modRun e x.plane fun r => { r with acq := some x.slot, acqDom := d } else f
  let send (f : Fab) (q : MemReq) : Fab := if isGrp then groupSend f x.key q els else bankPush f x.key q (some q.queue)
  match sectOpen e q.queue with
  | some y =>
    let q := { q with sec := true, smode := 0, run := if sectThrown e q.queue then 0 else y.run }
    send (sectReads (hold none f) x.key q) q
  | none =>
    if q.smode ≠ 0 then
      let f := if isGrp then modMt f x.key fun m => { m with groups := tins m.groups q.grp { req := q, left := 0, out := els } } else f
      modElem (hold (some q.dom) f) x.key fun e => modRun e x.plane fun r =>
        { r with domq := tput [] r.domq q.dom (tget [] r.domq q.dom ++ [q]) }
    else send (hold none f) q

/-- Fires a memory-tile access: checks under R372, then the request is built and sent. -/
def memFire (s : State) (op : Nat) (w : Slot) (kinds : Nat) (align : Nat) (mk : FireCtx → MemReq → MemReq) (size : Nat)
    (els : FireCtx → Line) : Out :=
  fire s op w fun x f =>
    match headOf x.e w.a.toNat with
    | none => f
    | some t => match memCheck f x kinds align t with
      | some (c, a, k) => slotRaise f x c (some w.a.toNat) a k
      | none =>
        let addr := if op = 0x302 ∨ op = 0x303 then 0 else t.data.toNat % 2 ^ 32
        let q := mk x (slotReq f x addr size (if op = 0x302 ∨ op = 0x303 then t.data else 0))
        memSend (popAll f x) x q (els x)

/-- ld (0x300; R373): a wide dst reads the line, a narrow one or none 8 bytes. -/
def execLdSlot (w : Slot) (s : State) : Out :=
  let n := if selKind w.dst.toNat = 16 then 64 else 8
  memFire s 0x300 w 3 n (fun _ q => q) n fun _ => 0

/-- The tag that a store writes (R373): FMT = fmt and SCALE 0x7F, or srcB's header latch with HDR. -/
def storeTag (x : FireCtx) : BitVec 16 :=
  if bit x.w.md.toNat 8 then tget 0x7F00 x.p.run.hdr x.w.b.toNat else 0x7F00 ||| BitVec.ofNat 16 x.w.fmt.toNat

/-- st (0x301; R373): 64 bytes from a wide queue, 8 bytes otherwise. -/
def execStSlot (w : Slot) (s : State) : Out :=
  let n := if selKind w.b.toNat = 8 then 64 else 8
  memFire s 0x301 w 5 n (fun x q => { q with data := storeData x w.b.toNat, tag := some (storeTag x) }) n fun _ => 0
where
  /-- The store data of srcB: the head of a queue; an immediate in every lane of fmt, of which 8 bytes are written (R231, R373). -/
  storeData (x : FireCtx) (sel : Nat) : Line :=
    match (if isInSel sel then headOf x.e sel else none) with
    | some t => t.data
    | none => (vecSrc x x.w.fmt.toNat sel).setWidth 64 |>.setWidth 512

/-- gather (0x302; R373). -/
def execGather (w : Slot) (s : State) : Out :=
  memFire s 0x302 w 3 (fmtSize w.fmt.toNat) (fun _ q => q) 64 fun _ => 0

/-- scatter (0x303; R373). -/
def execScatter (w : Slot) (s : State) : Out :=
  memFire s 0x303 w 5 (fmtSize w.fmt.toNat) (fun _ q => { q with tag := some (0x7F00 ||| BitVec.ofNat 16 w.fmt.toNat) }) 64
    fun x => match headOf x.e w.b.toNat with
      | some t => t.data
      | none => 0

/-- A slot atomic (R374): 32 bits for fmt 0x3, 64 bits for fmt 0x0. -/
def slotAmo (s : State) (op : Nat) (w : Slot) : Out :=
  let n := if w.fmt = 3 then 4 else 8
  memFire s op w 15 n (fun x q => { q with data := BitVec.ofNat 512 (scalarOf x w.b.toNat), cmp := BitVec.ofNat 64 (scalarOf x w.c.toNat) }) n
    fun _ => 0

/-- amo.add (0x304; R374). -/
def execAmoAddSlot (w : Slot) (s : State) : Out := slotAmo s 0x304 w
/-- amo.min (0x305; R374). -/
def execAmoMinSlot (w : Slot) (s : State) : Out := slotAmo s 0x305 w
/-- amo.max (0x306; R374). -/
def execAmoMaxSlot (w : Slot) (s : State) : Out := slotAmo s 0x306 w
/-- amo.and (0x307; R374). -/
def execAmoAndSlot (w : Slot) (s : State) : Out := slotAmo s 0x307 w
/-- amo.or (0x308; R374). -/
def execAmoOrSlot (w : Slot) (s : State) : Out := slotAmo s 0x308 w
/-- amo.xor (0x309; R374). -/
def execAmoXorSlot (w : Slot) (s : State) : Out := slotAmo s 0x309 w
/-- amo.xchg (0x30A; R374). -/
def execAmoXchgSlot (w : Slot) (s : State) : Out := slotAmo s 0x30A w
/-- amo.cas (0x30B; R374). -/
def execAmoCasSlot (w : Slot) (s : State) : Out := slotAmo s 0x30B w

/-- osec.b (0x30C; R166, R375): an ordered request whose entry record is the popped token; ILLOP on a queue with an open section. -/
def execOsecB (w : Slot) (s : State) : Out :=
  fire s 0x30C w fun x f =>
    let q := w.a.toNat
    if (sectOpen x.e q).isSome then slotRaise f x 1 (some q) 0 0
    else match headOf x.e q with
    | none => f
    | some t =>
      let t := poppedToken x q t
      let r := { slotReq f x 0 0 t.data with ctag := t.ctag, check := t.check, no := x.e.mt.nextReq }
      modElem (popAll f x) x.key fun e => modRun { e with mt := { e.mt with nextReq := e.mt.nextReq + 1 } } x.plane fun u =>
        { u with domq := tput [] u.domq r.dom (tget [] u.domq r.dom ++ [r]) }

/-- osec.e (0x30D; R168, R375): ends the run on its queue; a thrown run ends without a result; ILLOP without a section. -/
def execOsecE (w : Slot) (s : State) : Out :=
  fire s 0x30D w fun x f =>
    let q := w.a.toNat
    match headOf x.e q with
    | none => f
    | some t =>
      if (sectOpen x.e q).isNone then slotRaise f x 1 (some q) 0 0
      else
        let l := x.e.mt.sects
        let l := if sectThrown x.e q then
            match l.findIdx? fun y => y.queue == q && y.squashed != 0 with
            | some i => lmod l i fun y => { y with squashed := y.squashed - 1 }
            | none => l
          else match l.findIdx? fun y => y.queue == q && y.result.isNone with
            | some i => lmod l i fun y => { y with result := some (poppedToken x q t, w.dst.toNat) }
            | none => l
        modMt (popAll f x) x.key fun m => { m with sects := l }

/-- fence.m (0x30E; R376): every earlier request of the plane at the tile has performed; the token is forwarded. -/
def execFenceM (w : Slot) (s : State) : Out :=
  fire s 0x30E w fun x f =>
    let q := w.a.toNat
    if (sectOpen x.e q).isSome then slotRaise f x 1 (some q) 0 0
    else
      let f := modElem f x.key fun e => modRun e x.plane fun r => { r with fences := r.fences.filter fun n => n.1 != x.slot }
      emitTo (popAll f x) x w.dst.toNat (carry x w.dst.toNat q (fireLvl x))

/-- A beat of a refused accumulate, as it returns (R134, R135). -/
def bounceTok (x : FireCtx) (t : Token) (n : BitVec 3) (set : Bool) : Token :=
  let u := forwardToken x x.w.a.toNat x.w.dst.toNat { t with data := if set then t.data ||| (1#512 <<< 44) else t.data } t.lvl none
  { stamp true u with bnc := n }

/-- hrecv (0x30F; R134, R378). -/
def execHrecv (w : Slot) (s : State) : Out :=
  fire s 0x30F w fun x f =>
    let f := modMt f x.key fun m => { m with took := hrecvMark x.plane x.slot :: m.took }
    let q := w.a.toNat
    match tget [] x.e.net.rx q with
    | t :: u :: _ =>
      let v := t.data.toNat
      let d := hrecvDecide f x.key x.plane w
      match d.1 with
      | .illop => slotRaise f x 1 (some q) 0 0
      | .foreign => slotRaise f x 6 (some q) (v % 2 ^ 32) (match spLocate f (keyCore x.key) x.plane (v % 2 ^ 32) with
          | none => 1
          | some _ => 2)
      | .stall => f
      | .refuse =>
        let o := w.dst.toNat
        pushOut (pushOut (popAll f x) x.key o (bounceTok x t 1 true)) x.key o (bounceTok x u 2 false)
      | .accept =>
        if !bankAllowed f x.key x.plane d.2.1 then slotRaise f x 6 (some q) (v % 2 ^ 32) 3
        else
          let r : MemReq :=
            { src := 2, plane := x.plane, slot := x.slot, op := 0x310, fmt := fld v 36 8, bank := d.2.1, line := d.2.2
              addr := BitVec.ofNat 32 v, size := 64, data := u.data, acop := fld v 32 4, fl := bit v 45, cr := bit v 60
              sx := fld v 46 7, sy := fld v 53 7, port := q - 0x20, queue := q, round := x.p.run.round, no := x.e.mt.nextReq }
          let f := modMt (popAll f x) x.key fun m => { m with nextReq := m.nextReq + 1 }
          let f := bankPush f x.key r (if r.fl then none else some q)
          if r.fl then f else modMt f x.key fun m => countUse m r.bank r.port
    | _ => f

/-! ### Credits and bounces (R135, R138, R379) -/

/-- The credit queue cq of a plane's hrecv slot for a sender port (R378). -/
def creditQueue (key : Nat) (p : Plane) (port : Nat) : Nat :=
  match (validSlots key p).find? fun n => swOp (slotWordOf p n) == 0x30F && fld (slotWordOf p n) 54 8 == 0x20 + port with
  | some n => fld (slotWordOf p n) 0 8
  | none => 0x48

/-- A credit of count n for a sender (R135): a narrow token, its destination beside the sideband, that waits for a place in the credit queue
cq (R379). -/
def creditGo (f : Fab) (key q sx sy ctx n : Nat) : Fab :=
  let t := stamp false { data := BitVec.ofNat 512 n, ctx := BitVec.ofNat 2 ctx, dest := some (sx, sy) }
  modMt f key fun m => { m with crq := m.crq ++ [(q, t)] }

/-- An accepted accumulate's credit: coalesced for its sender and context, sent at 8, or at once when no place is free (R135). The 16 places are
counted by sender, a sender's contexts sharing one (log 73). -/
def creditAdd (f : Fab) (key : Nat) (q : MemReq) : Fab :=
  let l := (elemOf f key).mt.credits
  let cq := creditQueue key (planeOf (elemOf f key) q.plane) q.port
  match l.findIdx? fun c => c.1 == q.sx && c.2.1 == q.sy && c.2.2.1 == q.plane with
  | some i =>
    let n := (l[i]?.map fun c => c.2.2.2.1).getD 0 + 1
    if 8 ≤ n then creditGo (modMt f key fun m => { m with credits := l.eraseIdx i }) key cq q.sx q.sy q.plane n
    else modMt f key fun m => { m with credits := lmod l i fun c => (c.1, c.2.1, c.2.2.1, n, c.2.2.2.2) }
  | none =>
    if (l.map fun c => (c.1, c.2.1)).contains (q.sx, q.sy) ∨ (l.map fun c => (c.1, c.2.1)).dedup.length < 16 then
      modMt f key fun m => { m with credits := l ++ [(q.sx, q.sy, q.plane, 1, cq)] }
    else creditGo f key cq q.sx q.sy q.plane 1

/-- CREDIT_SEND (R135): a held credit leaves; the time, within 8 tile cycles, is free. -/
def execCreditSend (key idx : Nat) (s : State) : Out :=
  match (elemOf s.fab key).mt.credits[idx]? with
  | none => .next s
  | some c => onFab s fun f =>
      creditGo (modMt f key fun m => { m with credits := m.credits.eraseIdx idx }) key c.2.2.2.2 c.1 c.2.1 c.2.2.1 c.2.2.2.1

/-- CREDIT_ARRIVAL (R138, R509): a credit lowers OUT; a bounce over the configuration path enters the firn tile. -/
def execCreditArrival (idx : Nat) (s : State) : Out :=
  match s.fab.creds[idx]? with
  | none => .next s
  | some (kind, key, ctx, n, x) => onFab s fun f =>
      modElem { f with creds := f.creds.eraseIdx idx } key fun e =>
        let e := outSub e ctx n
        if kind = 1 then { e with firn := firnPut e.firn x } else e

/-- BOUNCE_ARRIVAL (R138, R379): both beats of a bounce that the switch has taken out go to the firn tile. -/
def execBounceArrival (key sel : Nat) (s : State) : Out :=
  match tget [] (elemOf s.fab key).net.bin sel with
  | t :: u :: rest => onFab s fun f =>
      let v := t.data.toNat
      let x : FirnE := { ctx := t.ctx.toNat, addr := BitVec.ofNat 32 v, acop := fld v 32 4, fmt := fld v 36 8, data := u.data }
      modElem f key fun e =>
        { outSub e x.ctx 1 with firn := firnPut e.firn x, net := { e.net with bin := tput [] e.net.bin sel rest } }
  | _ => .next s

/-- QUOTA_WINDOW_CLEAR (R133): the acceptance counters of a window that has ended are cleared. -/
def execQuotaWindowClear (key : Nat) (s : State) : Out := onFab s fun f => modMt f key quotaClear

/-! ### Domains (R165) -/

/-- SUCC of a request (R371). -/
def succOf (q : MemReq) : BitVec 16 := if q.smode = 1 then q.pred + 1 else if q.smode = 2 then 0 else q.pred

/-- LAST(d) after an ordered request has been accepted (R165). -/
def setLast (f : Fab) (key : Nat) (q : MemReq) : Fab :=
  if q.smode = 0 then f else modElem f key fun e => modRun e q.plane fun r => { r with last := tput 0 r.last q.dom (succOf q) }

/-- Takes a request out of its domain. -/
def domTake (f : Fab) (key : Nat) (q : MemReq) : Fab :=
  modElem f key fun e => modRun e q.plane fun r =>
    { r with domq := tput [] r.domq q.dom ((tget [] r.domq q.dom).filter fun y => y.no != q.no) }

/-- DOMAIN_SEQUENCE (R165, R166): the oldest waiting request with PRED = LAST(d) passes to its bank, where it competes as one of its input queue
(R103), or opens its section; the lanes of a gather or scatter go on to wait for their banks. -/
def execDomainSequence (key plane dom : Nat) (s : State) : Out :=
  let f := s.fab
  let e := elemOf f key
  if halted f key ∨ (planeOf e plane).revoked ∨ !spOpen f key plane then .next s
  else match domNext e plane dom with
  | none => .next s
  | some q =>
    if q.op = 0x30C then
      let flight := e.mt.sects.countP fun y => y.plane == plane && y.dom == dom
      if 8 ≤ flight ∨ (q.reply ≠ 0x60 ∧ outRoom e q.reply < 1) then .next s
      else onFab s fun f =>
        let t : Token := { data := q.data, lvl := q.lvl, ctag := q.ctag, ctx := BitVec.ofNat 2 plane, check := q.check }
        let x : Sect := { queue := q.queue, plane := plane, dom := dom, grant := q.reply, round := q.round, entry := t, run := e.mt.nextReq }
        let f := modMt (setLast (domTake f key q) key q) key fun m => { m with sects := m.sects ++ [x], nextReq := m.nextReq + 1 }
        emitPass f key plane q.queue q.reply t
    else if q.grp ≠ 0 then
      let g := tget { req := q, left := 0, out := 0 } e.mt.groups q.grp
      let rs := laneReqs f key q g.out
      if rs.isEmpty ∧ outRoom e q.reply < replyPlaces q then .next s
      else onFab s fun f =>
        let f := modMt (domTake f key q) key fun m => { m with groups := tdel m.groups q.grp }
        let f := groupSend f key q g.out
        if rs.isEmpty then setLast f key q else f
    else if 16 ≤ bankDepth e q.bank ∨ !wins f key q.bank (bidRank e q.bank false q.queue) (BitVec.ofNat 8 q.queue) then .next s
    else onFab s fun f => bankPush (domTake f key q) key q (some q.queue)

/-! ### Sections (R168, R169) -/

/-- A capacity discard is asked for once while it waits (R122). -/
def askCapacity (f : Fab) (key plane : Nat) (code : Word) (round : BitVec 32) : Fab :=
  match regionOf f (keyCore key) with
  | none => f
  | some (_, r) =>
    if (ctxOf r plane).faults.any fun x => x.cause == 0 && x.key == key && x.info1 == code then f
    else raiseFault f (keyCore key) plane { cause := 0, key := key, round := round, info1 := code }

/-- A bank whose journal is full asks for a capacity discard (R122). -/
def askBank (f : Fab) (key bank plane : Nat) (round : BitVec 32) : Fab :=
  askCapacity f key plane (BitVec.ofNat 64 (3 + 16 * bank)) round

/-- A read of an uncorrectable scratchpad line by a slot's request (R373). -/
def reqUncorr (f : Fab) (key : Nat) (q : MemReq) : Fab :=
  raiseFault f (keyCore key) q.plane
    { cause := 0x0B, key := key, slot := some q.slot, qsel := some q.queue, round := q.round, info0 := q.addr.setWidth 64, info1 := 1 }

/-- The data of the reply to a slot's request: a store's address, or what it read (R373, R374). -/
def replyData (q : MemReq) (old : Nat) : Line := if q.op = 0x301 then q.addr.setWidth 512 else BitVec.ofNat 512 old

/-- SECTION_RETIRE (R169): the oldest section of a domain, its osec.e arrived, performs its next write through the bank's pipeline, with its journal
entry and its reply; when none is left, it sends the acknowledgements of its scatters and then its result. -/
def execSectionRetire (key plane dom : Nat) (s : State) : Out :=
  let e := elemOf s.fab key
  match (sectFirst e.mt.sects plane dom).bind fun i => (e.mt.sects[i]?).map fun y => (i, y) with
  | none => .next s
  | some (i, y) => match y.result with
    | none => .next s
    | some (t, q) =>
      if halted s.fab key then .next s
      else match y.writes with
      | r :: rest =>
        if e.mt.took.contains (pipeMark r.bank) ∨ (r.grp = 0 ∧ outRoom e r.reply < replyPlaces r) then .next s
        else if !bankRoom e.mt r.bank r.line r.plane r.round then onFab s fun f => askBank f key r.bank plane r.round
        else onFab s fun f =>
          let f := modMt f key fun m =>
            let m := { m with took := pipeMark r.bank :: m.took, sects := lmod m.sects i fun y => { y with writes := rest } }
            if reqAtomic r && reqBad e.mt r then m else reqPerform m r (some r.round)
          if reqAtomic r && reqBad e.mt r then reqUncorr f key r
          else if r.grp ≠ 0 then f
          else emitReply f key r.plane r.reply r.lvl none (replyData r (reqOld e.mt r))
      | [] => match y.replies with
        | (sel, lvl, d) :: rest =>
          if outRoom e sel < 1 then .next s
          else onFab s fun f =>
            emitReply (modMt f key fun m => { m with sects := lmod m.sects i fun y => { y with replies := rest } }) key plane sel lvl none d
        | [] =>
          if q ≠ 0x60 ∧ outRoom e q < 1 then .next s
          else onFab s fun f => emitPass (modMt f key fun m => { m with sects := m.sects.eraseIdx i }) key plane y.queue q t
where
  /-- An atomic of a slot. -/
  reqAtomic (r : MemReq) : Bool := decide (0x304 ≤ r.op ∧ r.op ≤ 0x30B)

/-- Emits the grants that squashes owe, while their queues have room (R168). -/
def grantTick (f : Fab) (key : Nat) : Fab :=
  let e := elemOf f key
  match e.mt.sects.findIdx? fun y => y.due != 0 && (y.grant == 0x60 || decide (1 ≤ outRoom e y.grant)) with
  | none => f
  | some i => match e.mt.sects[i]? with
    | none => f
    | some y =>
      let f := modMt f key fun m => { m with sects := lmod m.sects i fun y => { y with due := y.due - 1 } }
      emitPass f key y.plane y.queue y.grant y.entry

/-! ### Banks (R102-R104) -/

/-- The round that journals a command's write: that of its context when the plane is a bound owner plane (R289, R298). -/
def cmdRound (f : Fab) (key plane : Nat) : Option (BitVec 32) :=
  let p := planeOf (elemOf f key) plane
  if p.st == .bound && !isDrift key p then some p.run.round else none

/-- Takes the head of a bank's queue into the bank's pipeline (R102, R103). -/
def bankPop (f : Fab) (key b : Nat) : Fab :=
  modMt f key fun m => { m with bankq := tput [] m.bankq b ((tget [] m.bankq b).drop 1), took := pipeMark b :: m.took }

/-- A fault of a control core's command at a bank: of its context when that plane is bound, else a report for the issuing core (R298). -/
def cmdFault (s : State) (key : Nat) (q : MemReq) (cause kind : Nat) : State :=
  let p := planeOf (elemOf s.fab key) q.plane
  let info : Word := q.addr.setWidth 64
  let x : FaultRec := { cause := cause, key := key, round := p.run.round, info0 := info, info1 := BitVec.ofNat 64 kind }
  if p.st = .bound then { s with fab := raiseFault s.fab q.key q.plane x }
  else postReport s q.key q.plane
    { cause := cause, effect := 6, key := some (100 * q.key), info0 := info, info1 := BitVec.ofNat 64 kind }

/-- An atomic command performs (R297, R298). On a lent bank it replies 0 and raises PROT, whatever plane CTX names; on an uncorrectable line it
replies 0 and raises UNCORR likewise (log 73). -/
def cmdAccept (s : State) (key : Nat) (q : MemReq) : State :=
  let e := elemOf s.fab key
  let jrn := cmdRound s.fab key q.plane
  let fail (cause kind : Nat) : State := cmdFault { s with fab := cmdReply (bankPop s.fab key q.bank) q.key q.id q.reg 0 } key q cause kind
  if lentBank s.fab key q.bank then fail 6 3
  else if jrn.any fun r => !bankRoom e.mt q.bank q.line q.plane r then { s with fab := askBank s.fab key q.bank q.plane (jrn.getD 0) }
  else if reqBad e.mt q then fail 0x0B 1
  else
    let f := modMt (bankPop s.fab key q.bank) key fun m => reqPerform m q jrn
    { s with fab := cmdReply f q.key q.id q.reg (BitVec.ofNat 64 (reqOld e.mt q)) }

/-- Changes a stream's read in flight, by its number at its node. -/
def modRead (f : Fab) (key id : Nat) (g : ReadOut → ReadOut) : Fab :=
  modElem f key fun e => { e with ag := { e.ag with reads := e.ag.reads.map fun r => if r.id = id ∧ r.id ≠ 0 then g r else r } }

/-- A line of an AG stream performs at its bank (R109, R117): a read's data goes back to the node, a store is journalled. -/
def streamAccept (f : Fab) (key : Nat) (q : MemReq) : Fab :=
  let m := (elemOf f key).mt
  if q.src = 3 then
    let g := modMt (bankPop f key q.bank) key fun m => reqPerform m q (some q.round)
    if reqBad m q then
      raiseFault g (keyCore q.key) q.plane
        { cause := 0x0B, key := q.key, stream := some q.slot, round := q.round, info0 := q.addr.setWidth 64, info1 := 1 }
    else modRead g q.key q.id fun r => { r with parts := r.parts ++ [(q.lane, lineAt m.data (bankByte q.bank q.line), spTag m q.bank q.line)] }
  else if !bankRoom m q.bank q.line q.plane q.round then askBank f key q.bank q.plane q.round
  else
    let g := modMt (bankPop f key q.bank) key fun m => reqPerform m q (some q.round)
    let i := 8 * q.plane + q.slot
    modElem g q.key fun e => { e with ag := { e.ag with spw := tput 0 e.ag.spw i (tget 0 e.ag.spw i - 1) } }

/-- Changes a command of a node's inbox, by its core and number. -/
def modCmd (f : Fab) (key core id : Nat) (g : AgCmd → AgCmd) : Fab :=
  modElem f key fun e => { e with ag := { e.ag with inbox := e.ag.inbox.map fun c => if c.core = core ∧ c.id = id then g c else c } }

/-- A line of a copy performs at its bank (R289, R290): its data goes back to the node, or its write is journalled in the context's round. An
uncorrectable line is noted for the copy's early end. -/
def copyAccept (f : Fab) (key : Nat) (q : MemReq) : Fab :=
  let m := (elemOf f key).mt
  let jrn := cmdRound f key q.plane
  if q.src = 5 then
    let d := (lineAt m.data (bankByte q.bank q.line), spTag m q.bank q.line)
    let bad := reqBad m q
    modCmd (bankPop f key q.bank) q.key q.reg q.id fun c =>
      if bad then { c with wait := 0, code := 0x0B } else { c with wait := 0, line := some d }
  else if jrn.any fun r => !bankRoom m q.bank q.line q.plane r then askBank f key q.bank q.plane (jrn.getD 0)
  else modCmd (modMt (bankPop f key q.bank) key fun m => reqPerform m q jrn) q.key q.reg q.id fun c =>
    { c with wait := 0, line := none, pos := c.pos + 1 }

/-- A slot's request or an accumulate performs at its bank (R102, R132, R373, R374): its reply leaves when its queue has room. -/
def slotAccept (f : Fab) (key : Nat) (q : MemReq) : Fab :=
  let e := elemOf f key
  let g := tget { req := q, left := 0, out := 0 } e.mt.groups q.grp
  let places := if q.src ≠ 0 then 0 else if q.grp ≠ 0 then (if g.left ≤ 1 then replyPlaces g.req else 0) else replyPlaces q
  if reqWrites q ∧ !bankRoom e.mt q.bank q.line q.plane q.round then askBank f key q.bank q.plane q.round
  else if outRoom e q.reply < places then f
  else if q.op ≠ 0x301 ∧ q.op ≠ 0x303 ∧ reqBad e.mt q then reqUncorr (bankPop f key q.bank) key q
  else
    let old := reqOld e.mt q
    let tag := spTag e.mt q.bank q.line
    let f := modMt (bankPop f key q.bank) key fun m => reqPerform m q (some q.round)
    let done (f : Fab) : Fab := acqDone (setLast f key q) key q
    if q.src = 2 then (if q.fl ∧ !q.cr then f else if q.port = 16 then
        { f with creds := f.creds ++ [(0, q.key, q.plane, 1, {})] } else creditAdd f key q)
    else if q.grp ≠ 0 then
      let out := laneOut g.out q old
      if g.left ≤ 1 then done (groupReply (modMt f key fun m => { m with groups := tdel m.groups q.grp }) key g.req out)
      else modMt f key fun m => { m with groups := tins m.groups q.grp { g with left := g.left - 1, out := out } }
    else done (emitReply f key q.plane q.reply q.lvl (if q.hdr then some tag else none) (replyData q old))
where
  /-- A group's reply with what a lane has read (R373). -/
  laneOut (out : Line) (q : MemReq) (old : Nat) : Line :=
    if q.op = 0x302 then BitVec.ofNat 512 (setFld out.toNat (8 * q.size * q.lane) (8 * q.size) old) else out

/-- What a body access does at its bank (R167, R168): a thrown run's write is dropped and its read performs; a write of the present run is buffered,
or performs where the oldest section finds the buffer full; a read sees its section's own writes. -/
def bodyWrite (m : MtSt) (q : MemReq) : MtSt :=
  match sectOf m q with
  | none => bankTouch m q.bank q.plane q.round
  | some i =>
    if !reqWrites q then bankTouch m q.bank q.plane q.round
    else if sectTakes m i q = .direct then
      let m := reqPerform m q (some q.round)
      sectConflict { m with sects := lmod m.sects i fun y => { y with wsig := (q.bank, sigOf q.line) :: y.wsig } } i q.bank (sigOf q.line)
    else sectKeep m i q

/-- A body access of an ordered section at the head of its bank's queue (R167, R168, R373). The reply of a write that its section buffers is sent
when it performs, as the section retires; a thrown run's store or scatter never performs and sends none; every other reply leaves at once. -/
def bodyAccept (f : Fab) (key : Nat) (q : MemReq) : Fab :=
  let e := elemOf f key
  let m := e.mt
  let g := tget { req := q, left := 0, out := 0 } m.groups q.grp
  let m' := bodyWrite (elemOf (bankPop f key q.bank) key).mt q
  let direct : Bool := (sectOf m q).any fun i => reqWrites q && sectTakes m i q == .direct
  let kept : Bool := reqWrites q && !direct && (sectOf m' q).isSome
  let late : Bool := if q.op = 0x303 then (sectOf m' q).isSome else kept
  let last : Bool := q.grp == 0 || decide (g.left ≤ 1)
  let mute : Bool := (q.op == 0x301 || q.op == 0x303) && (sectOf m' q).isNone
  let view := match sectOf m q with
    | some i => sectView m i q
    | none => m
  let bad : Bool := q.op != 0x301 && q.op != 0x303 && !kept && sectBad m q
  if direct ∧ !bankRoom m q.bank q.line q.plane q.round then askBank f key q.bank q.plane q.round
  else if outRoom e q.reply < (if last && !late && !mute then replyPlaces q else 0) then f
  else if bad then reqUncorr (bankPop f key q.bank) key q
  else
    let old := reqOld view q
    let f := modMt f key fun _ => m'
    if q.grp = 0 then
      if kept ∨ mute then acqDone f key q
      else acqDone (emitReply f key q.plane q.reply q.lvl (if q.hdr then some (spTag view q.bank q.line) else none) (replyData q old)) key q
    else
      let out := slotAccept.laneOut g.out q old
      if !last then modMt f key fun m => { m with groups := tins m.groups q.grp { g with left := g.left - 1, out := out } }
      else
        let f := modMt f key fun m => { m with groups := tdel m.groups q.grp }
        if late then modMt f key fun m => match sectOf m q with
          | some i => { m with sects := lmod m.sects i fun y =>
              { y with replies := if q.reply = 0x60 then y.replies else y.replies ++ [(q.reply, q.lvl, groupData g.req out)] } }
          | none => m
        else if mute then f
        else acqDone (groupReply f key g.req out) key q

/-- BANK_ACCEPT (R102-R104): the bank's pipeline takes the oldest request of its queue, at most one in a tile cycle and only one that stood there
at the start of the cycle; the request performs. -/
def execBankAccept (key bank : Nat) (s : State) : Out :=
  let e := elemOf s.fab key
  if halted s.fab key ∨ bankDepth e bank = 0 ∨ e.mt.took.contains (pipeMark bank) then .next s
  else match tget [] e.mt.bankq bank with
  | [] => .next s
  | q :: _ => match q.src with
    | 1 => .next (cmdAccept s key q)
    | 3 => onFab s fun f => streamAccept f key q
    | 4 => onFab s fun f => streamAccept f key q
    | 5 => onFab s fun f => copyAccept f key q
    | 6 => onFab s fun f => copyAccept f key q
    | _ => onFab s fun f => if q.sec then bodyAccept f key q else slotAccept f key q

/-! ### The end of a memory tile's cycle -/

/-- The oldest request over the configuration path (R103, R117, R509): it goes on to the tile that the interleave mode names; a refused accumulate
goes back to its node's firn tile; else it enters its bank's queue when it wins there. -/
def cfgTick (f : Fab) (key : Nat) : Fab :=
  let e := elemOf f key
  match e.mt.cfgq with
  | [] => f
  | q :: rest =>
    let c := cfgPlace f key q
    let pop (f : Fab) : Fab := modMt f key fun m => { m with cfgq := rest }
    let q := { q with bank := c.2.1, line := c.2.2 }
    if c.1 ≠ key then cfgPush (pop f) c.1 q
    else if q.src = 2 ∧ cfgDecide f key q = .refuse then
      let x : FirnE := { ctx := q.plane, addr := q.addr, acop := q.acop, fmt := q.fmt, data := q.data }
      { pop f with creds := f.creds ++ [(1, q.key, q.plane, 1, x)] }
    else match cfgBid f key with
    | none => f
    | some (b, fl) =>
      if !wins f key b (if fl then 0 else 1) 0 then f
      else
        let f := bankPush (pop f) key { q with no := e.mt.nextReq } none
        let f := modMt f key fun m => { m with nextReq := m.nextReq + 1 }
        if q.src = 2 ∧ !q.fl then modMt f key fun m => countUse m b 16 else f

/-- The next lane that waits for a bank enters the bank's queue when it wins there, the groups of the first input queue in order first (R103,
R373). -/
def laneTick (f : Fab) (key b : Nat) : Fab :=
  let e := elemOf f key
  let bids := e.mt.groups.filterMap fun g => (g.2.wait.find? fun q => q.bank == b).map fun q => (g.1, q)
  match bids.find? fun x => wins f key b (bidRank e b false x.2.queue) (BitVec.ofNat 8 x.2.queue) with
  | none => f
  | some (i, q) =>
    if 16 ≤ bankDepth e b then f
    else
      let f := bankPush f key q (some q.queue)
      modMt f key fun m =>
        { m with groups := m.groups.map fun g => if g.1 = i then (g.1, { g.2 with wait := g.2.wait.filter fun y => y.lane != q.lane }) else g }

/-- The oldest credit takes a place in its output queue (R135, R379). -/
def creditTick (f : Fab) (key : Nat) : Fab :=
  let e := elemOf f key
  match e.mt.crq with
  | [] => f
  | (q, t) :: rest => if outRoom e q < 1 then f else modMt (pushOut f key q t) key fun m => { m with crq := rest }

/-- What a memory tile does besides its slots and events in a tile cycle. -/
def memTick (f : Fab) (key : Nat) : Fab :=
  twinTick (creditTick (grantTick ([0, 1, 2, 3, 4, 5].foldl (fun f b => laneTick f key b) (cfgTick f key)) key) key) key

end Sys2Proof.Machine
end

