-- ==== Sys2Proof/Machine/Fabric.lean ====
section
/-! DEFINITION. Switches, links, burst headers and the control core's ports: what moves a token (03 R94, 07 R180-R191, R197-R202,
08 R225, 10 R286, 15 R418). -/

namespace Sys2Proof.Machine

/-! ### Faults of tokens -/

/-- The round that an element has entered in a context (R195); a control core enters rounds as an element that reads no input (R286). -/
def roundAt (f : Fab) (key ctx : Nat) : BitVec 32 :=
  if kindOf key = .core then tget 0 (ccOf f (keyCore key)).rounds ctx else (planeOf (elemOf f key) ctx).run.round

/-- A fault of a token at a switch port (R420: BORDER, STRAY, DARK). -/
def tokFault (f : Fab) (key cause port : Nat) (qsel : Option Nat) (t : Token) : Fab :=
  let xy := selfXY f key
  raiseFault f (keyCore key) t.ctx.toNat
    { cause := cause, key := key, qsel := qsel, round := roundAt f key t.ctx.toNat
      info0 := BitVec.ofNat 64 (xy.1 % 128 * 2 ^ 57 + xy.2 % 128 * 2 ^ 50 + port % 8 * 2 ^ 47)
      info1 := BitVec.ofNat 64 (sideband t * 2 ^ 32 + t.data.toNat % 2 ^ 32) }

/-- A fault of a token or header at the element that receives it (R420: ILLOP). -/
def tokIllop (f : Fab) (key sel : Nat) (t : Token) : Fab :=
  raiseFault f (keyCore key) t.ctx.toNat
    { cause := 1, key := key, qsel := some sel, round := roundAt f key t.ctx.toNat
      info0 := t.data.setWidth 64, info1 := BitVec.ofNat 64 (sideband t) }

/-! ### Arrival (R181, R187, R191, R225) -/

/-- A bounce whose SX and SY name this element's firn tile (R379). -/
def bounceNames (f : Fab) (key : Nat) (t : Token) : Bool :=
  let xy := selfXY f key
  t.bnc == 1 && hasFirn key && fld t.data.toNat 46 7 == xy.1 && fld t.data.toNat 53 7 == xy.2

/-- A beat of a bounce that the switch takes out for its element's firn tile: the first names the element, and the second follows it (R379). -/
def bounceOwn (f : Fab) (key sel : Nat) (t : Token) : Bool :=
  bounceNames f key t || (t.bnc == 2 && (tget [] (elemOf f key).net.bin sel).length % 2 == 1)

/-- An acceptance credit has reached its destination element (R379). -/
def creditHere (f : Fab) (key : Nat) (t : Token) : Bool := t.dest == some (selfXY f key)

/-- The direction in which a switch passes an acceptance credit: toward its destination x first, then y (R379). -/
def creditDir (f : Fab) (key : Nat) (t : Token) : Option Nat :=
  let xy := selfXY f key
  match t.dest with
  | none => none
  | some (x, y) => if xy.1 < x then some 1 else if x < xy.1 then some 3 else if xy.2 < y then some 2 else if y < xy.2 then some 0 else none

/-- What a switch does with a token that arrives: whether it enters the buffer, and the fabric with what it takes out or the fault it raises. -/
def arrive (f : Fab) (key sel : Nat) (t : Token) : Bool × Fab :=
  let e := elemOf f key
  let stray := (false, tokFault f key 9 (selDir sel) (some sel) t)
  if creditHere f key t then (false, { f with creds := f.creds ++ [(0, key, t.ctx.toNat, t.data.toNat % 16, {})] })
  else if t.dest.isSome then (true, f)
  else if bounceOwn f key sel t then
    (false, modElem f key fun e => { e with net := { e.net with bin := tput [] e.net.bin sel (tget [] e.net.bin sel ++ [t]) } })
  else if badRoute f key t.ctx.toNat then
    (false, raiseFault f (keyCore key) t.ctx.toNat
      { cause := 0x0B, key := key, qsel := some sel, round := roundAt f key t.ctx.toNat
        info0 := cfgAddr key 6 t.ctx.toNat 0, info1 := 3 })
  else match routeOf e t sel with
  | none => stray
  | some 4 =>
    if t.bnc = 1 then stray
    else if t.bnc = 2 then (false, f)
    else if 4 ≤ t.kind.toNat then (false, tokIllop f key sel t)
    else
      let f' := if tokCheck (isWideSel sel) t = t.check then f
        else raiseFault f (keyCore key) t.ctx.toNat
          { cause := 0x0B, key := key, qsel := some sel, round := roundAt f key t.ctx.toNat, info1 := 4 }
      if kindOf key = .core then (true, f')
      else match (planeOf e t.ctx.toNat).st with
        | .bound => (true, f')
        | .retiring => if t.kind.toNat < 2 then stray else (false, f)
        | _ => stray
  | some _ => (true, f)

/-- Gives the buffer place of an input selector back to its sender as a permit (R185). -/
def permitBack (f : Fab) (key sel : Nat) : Fab :=
  match neighbour key (selDir sel) with
  | none => f
  | some k =>
    let o := outSel sel (opposite (selDir sel))
    modElem f k fun e => { e with net := { e.net with owed := tput 0 e.net.owed o (tget 0 e.net.owed o + 1) } }

/-- Changes the network state of an element. -/
def modNet (f : Fab) (key : Nat) (g : Net → Net) : Fab := modElem f key fun e => { e with net := g e.net }

/-- TOKEN_ARRIVAL (R181, R187, R191, R225): the token at the head of a link reaches the receive buffer of its input, or is discarded
at the switch. -/
def execTokenArrival (key sel : Nat) (s : State) : Out :=
  let e := elemOf s.fab key
  match tget [] e.net.wire sel with
  | [] => .next s
  | t :: rest =>
    if halted s.fab key ∨ e.powerGated ∨ linkSlots key (selDir sel) ≤ (tget [] e.net.rx sel).length then .next s
    else onFab s fun f =>
      let f := busy (modNet f key fun n => { n with wire := tput [] n.wire sel rest }) key t.ctx.toNat
      let r := arrive f key sel t
      if r.1 then modNet r.2 key fun n => { n with rx := tput [] n.rx sel (tget [] n.rx sel ++ [t]) }
      else permitBack r.2 key sel

/-! ### Routing (R182, R184, R185, R201, R202) -/

/-- The head of a receive buffer or output queue that leaves toward d: by the queue's own direction, the route table, or a credit's destination
(R182, R379). -/
def headToward (f : Fab) (key src d : Nat) : Option Token :=
  let e := elemOf f key
  if isOutSel src then (if selDir src = d then (tget [] e.net.outq src).head? else none)
  else (tget [] e.net.rx src).head?.filter fun t => if t.dest.isSome then creditDir f key t == some d else routeOf e t src == some d

/-- The queues that may feed the output toward d on VC v. -/
def outSources (wide : Bool) (d v : Nat) : List Nat :=
  ([0, 1, 2, 3].filter fun i => i != d).map (fun i => inSel (if wide then 0x20 + v else 0x40 + v) i) ++
    [outSel (if wide then 0x20 + v else 0x40 + v) d]

/-- The VC of a link that a head takes: narrow VC1 for a system message, the queue's own for every other token (R180). -/
def linkVc (src : Nat) (t : Token) : Nat := if t.dest.isSome then 1 else selVc src

/-- An acceptance credit stands ready for the output toward d with a permit: it goes before every graph token (R184). It comes from an output
queue of that direction or from any narrow VC1 buffer. -/
def creditReady (f : Fab) (key d : Nat) : Bool :=
  decide (tget 0 (elemOf f key).net.used (0x49 + 2 * d) < linkSlots key d) &&
    ([0x48 + 2 * d, 0x49 + 2 * d] ++ ([0, 1, 2, 3].map fun i => 0x41 + 2 * i)).any fun q => (headToward f key q d).any fun (t : Token) => t.dest.isSome

/-- A source's head may go on an output: between the beats of a two-beat packet only the source of its first beat (log 70). -/
def packetOk (f : Fab) (key src o : Nat) : Bool :=
  match (elemOf f key).net.pair.find? fun q => q.1 == o with
  | some q => q.2 % 256 == src
  | none => true

/-- The output toward d leaves the region: its switch is a border switch there (R201). At the edge of the device, where no core follows, it is taken as
one too: R201 speaks of a core outside the region (log 79). -/
def isBorder (f : Fab) (key d : Nat) : Bool :=
  match neighbour key d with
  | none => true
  | some k => match regionOf f (keyCore key) with
    | none => true
    | some (_, r) => !inRect r (keyCore k)

/-- The neighbour toward d is power-gated (R202). -/
def isDark (f : Fab) (key d : Nat) : Bool :=
  match neighbour key d with
  | none => false
  | some k => (elemOf f k).powerGated

/-- A VC of the output toward d has a head and a permit for it (R184, R185). -/
def vcReady (f : Fab) (key : Nat) (wide : Bool) (d v : Nat) : Bool :=
  let o := outSel (if wide then 0x20 + v else 0x40 + v) d
  decide (tget 0 (elemOf f key).net.used o < linkSlots key d) &&
    (outSources wide d v).any fun q => packetOk f key q o && (headToward f key q d).any fun (t : Token) => t.dest.isNone

/-- The VC that the output toward d grants (R184): round-robin after the last granted among VC0-VC2 and VC3 only when none of
them is ready; on the narrow network round-robin between VC0 and VC1. -/
def vcGrant (f : Fab) (key : Nat) (wide : Bool) (d : Nat) : Option Nat :=
  let n := (elemOf f key).net
  if wide then
    let l := tget 0 n.arbw d
    [(l + 1) % 3, (l + 2) % 3, l % 3, 3].find? fun v => vcReady f key true d v
  else
    let l := tget 0 n.arbn d
    [(l + 1) % 2, l % 2].find? fun v => vcReady f key false d v

/-- Takes the head off a source of a switch. -/
def takeSource (f : Fab) (key src : Nat) : Fab :=
  if isOutSel src then modNet f key fun n => { n with outq := tput [] n.outq src ((tget [] n.outq src).drop 1) } else popQ f key src

/-- The head of src may leave toward d in this cycle (R184, R185): a credit with its permit; else no credit is ready there, its VC is granted, and no
other packet stands open on that output. -/
def mayLeave (f : Fab) (key : Nat) (wide : Bool) (d src : Nat) (t : Token) : Bool :=
  if t.dest.isSome then decide (tget 0 (elemOf f key).net.used (0x49 + 2 * d) < linkSlots key d)
  else (wide || !creditReady f key d) && vcGrant f key wide d == some (selVc src) && packetOk f key src (outSel src d)

/-- The audit state of a link group (R474): a row of a core. -/
def auditOf (f : Fab) (core row : Nat) : Audit := tget {} f.audits (10 * core + row)
/-- Changes the audit state of a link group. -/
def modAudit (f : Fab) (core row : Nat) (g : Audit → Audit) : Fab := { f with audits := tmod {} f.audits (10 * core + row) g }
/-- The row of an element in its core. -/
def rowOf (key : Nat) : Nat := key % 100 / 10

/-- A token that leaves on a link of the group ends its idle window, unless a drift context or the system sends it (R475). -/
def noteMove (f : Fab) (key : Nat) (t : Token) : Fab :=
  let drift : Bool := match regionOf f (keyCore key) with
    | some (rid, _) => (f.regions.any fun q => q.2.owner == some rid && q.2.plane == t.ctx.toNat)
    | none => true
  if drift || t.dest.isSome then f else modAudit f (keyCore key) (rowOf key) fun a => { a with quiet := 0 }

/-- SWITCH_ROUTE (R182, R184, R185, R201, R202, R474): a switch sends the head of src toward d when it may leave; toward a border or a
power-gated element it is discarded. While the audit visits its link group, it sends no beat. -/
def execSwitchRoute (key : Nat) (wide : Bool) (dir src : Nat) (s : State) : Out :=
  match headToward s.fab key src dir with
  | none => .next s
  | some t =>
    if halted s.fab key ∨ isWideSel src ≠ wide ∨ 4 ≤ dir ∨ (auditOf s.fab (keyCore key) (rowOf key)).cyc.isSome then .next s
    else if isBorder s.fab key dir then onFab s fun f => tokFault (takeSource f key src) key 7 dir none t
    else if isDark s.fab key dir then onFab s fun f => tokFault (takeSource f key src) key 0x11 dir none t
    else if !mayLeave s.fab key wide dir src t then .next s
    else match neighbour key dir with
    | none => .next s
    | some k => onFab s fun f =>
        let v := linkVc src t
        let o := outSel ((if wide then 0x20 else 0x40) + v) dir
        let i := inSel ((if wide then 0x20 else 0x40) + v) (opposite dir)
        let u : Token := { (if isOutSel src then { t with sent := some key } else t) with twin := false }
        let f := modNet (busy (noteMove (takeSource f key src) key t) key t.ctx.toNat) key fun n =>
          { n with
            used := tput 0 n.used o (tget 0 n.used o + 1)
            arbw := if wide && v != 3 then tput 0 n.arbw dir v else n.arbw
            arbn := if wide || t.dest.isSome then n.arbn else tput 0 n.arbn dir v
            pair := if t.bnc = 1 ∨ t.bnc = 3 then tins n.pair o (256 * t.ctx.toNat + src) else if t.bnc = 2 ∨ t.bnc = 4 then tdel n.pair o else n.pair }
        modNet f k fun n => { n with wire := tput [] n.wire i (tget [] n.wire i ++ [u]) }

/-- PERMIT_RETURN (R185): a permit for an output of key comes back to the sender. -/
def execPermitReturn (key sel : Nat) (s : State) : Out :=
  if tget 0 (elemOf s.fab key).net.owed sel = 0 then .next s
  else onFab s fun f => modNet f key fun n =>
    { n with owed := tput 0 n.owed sel (tget 0 n.owed sel - 1), used := tput 0 n.used sel (tget 0 n.used sel - 1) }

/-! ### Burst headers (R94, R96) -/

/-- The back-edge log must hold a token of this queue popped now (R196). -/
def logsBack (key : Nat) (p : Plane) (sel : Nat) : Bool :=
  isBack key p sel && p.run.round != 0 && tget 0 p.run.bmark sel != p.run.round

/-- A fault waits at the round controller already. -/
def faultWaits (f : Fab) (key plane : Nat) (x : FaultRec) : Bool :=
  (regionOf f (keyCore key)).any fun q => (ctxOf q.2 plane).faults.contains x

/-- Pops a queue for a plane outside a slot's firing, with its back-edge copy (R196); a full log asks for a capacity discard
(R122), and a head in a word with an uncorrectable error is UNCORR (R471). -/
def popPlane (f : Fab) (key plane sel : Nat) (t : Token) : Fab × Bool :=
  let e := elemOf f key
  let p := planeOf e plane
  let fault : FaultRec := { cause := 0x0B, key := key, qsel := some sel, round := p.run.round, info1 := 3 }
  if t.bad then (if faultWaits f key plane fault then f else raiseFault f (keyCore key) plane fault, false)
  else if logsBack key p sel then
    if 16 ≤ e.net.backlog.length then (askCapacity f key plane 5 p.run.round, false)
    else (modNet (popQ f key sel) key fun n => { n with backlog := n.backlog ++ [(plane, p.run.round, sel, t)] }, true)
  else (popQ f key sel, true)

/-- A follow-mode write stream that reads a queue loads its latch from a header (R95, R96): MODE stays 0. -/
def headerLatch (key : Nat) (p : Plane) (sel : Nat) (h : BitVec 16) (r : PRun) : PRun :=
  if kindOf key = .ag then
    (List.range 8).foldl (fun r i =>
      let st := tget {} r.streams i
      let l := st.latch.getD (BitVec.ofNat 32 (strFld p i 0 32))
      if strEn p i && strDir p i && strQ p i == sel && fld l.toNat 16 2 == 0 then
        { r with streams := tins r.streams i { st with latch := some (h.setWidth 32) } }
      else r) r
  else r

/-- BURST_HEADER_ARRIVAL (R94): a header at the head of a queue is popped into the header latch of its plane; a reserved FMT is
ILLOP. -/
def execBurstHeaderArrival (key sel : Nat) (s : State) : Out :=
  match headOf (elemOf s.fab key) sel with
  | none => .next s
  | some t =>
    let n := t.ctx.toNat
    let p := planeOf (elemOf s.fab key) n
    if t.kind ≠ 1 ∨ halted s.fab key ∨ !hasPlanes key ∨ p.st ≠ .bound ∨ p.revoked then .next s
    else onFab s fun f =>
      let r := popPlane f key n sel t
      if !r.2 then r.1
      else
        let h : BitVec 16 := t.data.setWidth 16
        if 12 ≤ h.toNat % 256 then tokIllop r.1 key sel t
        else modElem r.1 key fun e => modRun e n fun q => headerLatch key p sel h { q with hdr := tput 0x7F00 q.hdr sel h }

/-! ### Sinks (R286, R418, R465) -/

/-- The region of a core is the secondary of a twin pair (R464). -/
def isSecondary (f : Fab) (core : Nat) : Bool :=
  match regionOf f core with
  | some (rid, r) => r.twin.any fun t => decide (t < rid)
  | none => false

/-- Tokens of a round that a sink still has to drop (R418). -/
def dropLeft (k : Sink) (c : Nat) (r : BitVec 32) : Nat :=
  match k.drop.find? fun e => e.1 == c && e.2.1 == r with
  | some e => e.2.2
  | none => 0

/-- Takes a token into a sink port: a mark is recorded and ends the drop count of its context's round, a data token is dropped
while that count lasts and stands in the sink otherwise (R286, R418). -/
def sinkTake (k : Sink) (t : Token) : Sink :=
  let c := t.ctx.toNat
  let r := tget 0 k.mark c
  if t.kind = 2 then
    { k with mark := tput 0 k.mark c (t.data.setWidth 32), drop := k.drop.filter fun e => !(e.1 == c && e.2.1 == r) }
  else if t.kind ≠ 0 then { k with drop := if t.kind = 3 then k.drop.filter fun e => e.1 != c else k.drop }
  else if dropLeft k c r ≠ 0 then
    { k with drop := k.drop.map fun e => if e.1 == c && e.2.1 == r then (c, r, e.2.2 - 1) else e }
  else { k with toks := k.toks ++ [(r, t)] }

/-- SINK_ARRIVAL (R286): a token for the control core leaves the switch's buffer into its sink port. -/
def execSinkArrival (core sel : Nat) (s : State) : Out :=
  let key := 100 * core
  match headOf (elemOf s.fab key) sel with
  | none => .next s
  | some t =>
    let port := t.ctag.toNat % 16
    let k := tget {} (ccOf s.fab core).sinks port
    let drift : Bool := match regionOf s.fab core with
      | some (rid, _) => (driftIn s.fab rid t.ctx.toNat).isSome
      | none => false
    if halted s.fab key then .next s
    else if isWideSel sel ∨ drift ∨ t.ctag.toNat / 16 ≠ 0 then
      onFab s fun f => tokFault (popQ f key sel) key 9 4 (some sel) t
    else if isSecondary s.fab core then onFab s fun f => popQ f key sel
    else if t.kind = 0 ∧ dropLeft k t.ctx.toNat (tget 0 k.mark t.ctx.toNat) = 0 ∧ 8 ≤ k.toks.length then .next s
    else onFab s fun f =>
      serveCore (modCc (popQ f key sel) core fun c => { c with sinks := tins c.sinks port (sinkTake k t) }) core port

/-! ### Sources (R197-R199, R283-R285) -/

/-- Edge-group count u of a round of a context (R197): the launch's round length unless the round is shortened. -/
def edgeU (f : Fab) (rid : Nat) (r : Region) (ctx : Nat) (round : BitVec 32) (g : Nat) : Nat :=
  let l := lRoundLen (launchOf f rid ctx r).2.launch
  let c := ctxOf r ctx
  if c.uRound = some round then tget l c.u g else l

/-- The round controller lets a source open round n + 1 (R111): round n - 1 has committed. -/
def mayOpen (r : Region) (ctx : Nat) (n : BitVec 32) : Bool := decide (((ctxOf r ctx).cround - (n - 1)).toNat < 2 ^ 31)

/-- EDGE of a binding value. -/
def vEdge (w : Word) : Bool := bit w.toNat 32

/-- A mark of a source (R188): number in data [31:0]. -/
def markToken (wide : Bool) (kind : BitVec 3) (ctx : Nat) (ctag : Byte) (n : BitVec 32) : Token :=
  stamp wide { data := n.setWidth 512, kind := kind, ctx := BitVec.ofNat 2 ctx, ctag := ctag }

/-- The round controller notes that an edge source has opened a round. -/
def noteRound (f : Fab) (core ctx : Nat) (n : BitVec 32) : Fab :=
  match regionOf f core with
  | none => f
  | some (rid, _) => modRegion f rid fun r =>
      if thas r.ctxs ctx then modCtx r ctx fun c => if (n - c.round).toNat < 2 ^ 31 then { c with round := n } else c else r

/-- The output queue that a binding value sends its tokens to. -/
def vinOut (w : Word) : Nat := 0x48 + 2 * fld w.toNat 2 2

/-- The channel tag of a binding value. -/
def vinTag (w : Word) : Byte := BitVec.ofNat 8 (fld w.toNat 8 8)

/-- The round mark of a context is due at a port: an edge port's count is complete (R197), or the mark ordered of another stands next (R198). -/
def vinDue (f : Fab) (rid : Nat) (r : Region) (v : Vin) (c : Nat) : Bool :=
  let x := vinCtx v c
  match vinWord v c with
  | none => false
  | some w => if vEdge w then x.count == edgeU f rid r c x.round (fld w.toNat 16 3) * fld w.toNat 24 8 else x.markAt == some 0

/-- The port once the mark of a context has left. -/
def vinMarked (v : Vin) (c : Nat) : Vin := { v with ctxs := tins v.ctxs c { round := (vinCtx v c).round + 1 } }

/-- The port once the head of its log has left, a token of context c with binding value b. An end mark ends the context's use of the port; where
the log or the binding names it again, it starts at round fresh (log 50). -/
def vinSent (v : Vin) (c : Nat) (b : Word) (t : Token) (fresh : BitVec 32) : Vin :=
  let x := vinCtx v c
  let u := { vinStep v with kept := v.kept ++ [(x.round, b, t)] }
  if t.kind = 3 then { u with ctxs := if (vinWord u c).isSome then tins u.ctxs c { round := fresh } else tdel u.ctxs c }
  else { u with ctxs := tmod {} u.ctxs c fun y => { y with count := x.count + 1 } }

/-- VIN_PORT_EMIT (R197-R199, R205, R283-R285): a source port emits a round mark that is due, or the next token of its log, unless a mark of that
token's context is due and may not leave yet. -/
def execVinPortEmit (core port : Nat) (s : State) : Out :=
  let key := 100 * core
  let v := vinOf (ccOf s.fab core) port
  let room (w : Word) : Bool := decide (1 ≤ outRoom (elemOf s.fab key) (vinOut w))
  match regionOf s.fab core with
  | none => .next s
  | some (rid, r) =>
    let due := [0, 1, 2, 3].filter (vinDue s.fab rid r v)
    let set (f : Fab) (u : Vin) : Fab := modCc f core fun c => { c with vins := tins c.vins port u }
    if halted s.fab key then .next s
    else match due.find? fun c => mayOpen r c (vinCtx v c).round && (vinWord v c).any room with
    | some c =>
      let w := (vinWord v c).getD 0
      let n := (vinCtx v c).round + 1
      onFab s fun f =>
        let f := set f (vinMarked v c)
        pushOut (if vEdge w then noteRound f core c n else f) key (vinOut w) (markToken false 2 c (vinTag w) n)
    | none => match v.queue with
      | [] => .next s
      | (b, t) :: _ =>
        let c := b.toNat % 4
        if due.contains c ∨ !room b then .next s
        else onFab s fun f =>
          pushOut (set f (vinSent v c b t ((ctxOf r c).cround + 1))) key (vinOut b)
            (if t.kind = 3 then markToken false 3 c (vinTag b) (vinCtx v c).round else t)

end Sys2Proof.Machine
end

