-- ==== Sys2Proof/Machine/Records.lean ====
section
/-! DEFINITION. Element state in configuration space (15 R433, R434): its directory, and the records as items that are read and written. -/

namespace Sys2Proof.Machine

/-- AMASK of a compute-tile plane (R219). -/
def amaskOf (p : Plane) : Nat := fld (tget 0 p.frames 8).toNat 64 4

/-! ### Element state (R433, R434) -/

/-- STATE code of a plane state (R434). -/
def pstCode : PSt → Nat
  | .empty => 0 | .loading => 1 | .incomplete => 2 | .loaded => 3 | .bound => 4 | .retiring => 5

/-- A plane state from its code; reserved codes change nothing. -/
def pstOf (n : Nat) (old : PSt) : PSt :=
  match n with
  | 0 => .empty | 1 => .loading | 2 => .incomplete | 3 => .loaded | 4 => .bound | 5 => .retiring | _ => old

/-- PSTATE of a plane (R434). -/
def pstate (p : Plane) : BitVec 256 :=
  BitVec.ofNat 256 (p.run.cwid.toNat * 2 ^ 192 + p.run.round.toNat * 2 ^ 160 + p.cround.toNat * 2 ^ 128 + p.nfr % 2 ^ 32 * 2 ^ 96 +
    p.run.p.toNat * 2 ^ 12 + b2n p.brkskip * 2 ^ 11 + b2n p.revoked * 2 ^ 10 + b2n p.succ * 2 ^ 9 + pstCode p.st)

/-- A write of PSTATE. -/
def pstateWrite (p : Plane) (v : BitVec 256) : Plane :=
  let n := v.toNat
  { p with
    run := { p.run with cwid := BitVec.ofNat 64 (fld n 192 64), round := BitVec.ofNat 32 (fld n 160 32), p := BitVec.ofNat 4 (fld n 12 4) }
    cround := BitVec.ofNat 32 (fld n 128 32), nfr := fld n 96 32, brkskip := bit n 11, revoked := bit n 10, succ := bit n 9
    st := pstOf (fld n 0 4) p.st }

/-- Frame j of the register record of a plane: a, k, then v (R433 type 1). -/
def regsRead (r : PRun) (j : Nat) : BitVec 256 :=
  let cat (w : Nat) (l : List Nat) : Nat := packLanes w l
  if j = 0 then BitVec.ofNat 256 (cat 32 ((List.range 8).map fun i => (tget 0 r.a i).toNat))
  else if j < 3 then BitVec.ofNat 256 (cat 64 ((List.range 4).map fun i => (tget 0 r.k (4 * (j - 1) + i)).toNat))
  else BitVec.ofNat 256 (fld (tget 0 r.v ((j - 3) / 2)).toNat (256 * ((j - 3) % 2)) 256)

/-- A write of frame j of the register record. -/
def regsWrite (r : PRun) (j : Nat) (v : BitVec 256) : PRun :=
  if j = 0 then { r with a := (List.range 8).foldl (fun t i => tput 0 t i (BitVec.ofNat 32 (fld v.toNat (32 * i) 32))) r.a }
  else if j < 3 then
    { r with k := (List.range 4).foldl (fun t i => tput 0 t (4 * (j - 1) + i) (BitVec.ofNat 64 (fld v.toNat (64 * i) 64))) r.k }
  else
    let n := (j - 3) / 2
    { r with v := tput 0 r.v n (BitVec.ofNat 512 (setFld (tget 0 r.v n).toNat (256 * ((j - 3) % 2)) 256 v.toNat)) }

/-- The plane whose AMASK names an accumulator (R220). -/
def accPlane (e : Elem) (j : Nat) : Option Nat := [0, 1, 2, 3].find? fun n => (planeOf e n).st != .empty && bit (amaskOf (planeOf e n)) j

/-- The accumulator j of a tile. -/
def accAt (e : Elem) (j : Nat) : MAcc :=
  match accPlane e j with
  | some n => tget {} (planeOf e n).run.m j
  | none => {}

/-- Changes accumulator j of a tile. -/
def accMod (e : Elem) (j : Nat) (g : MAcc → MAcc) : Elem :=
  match accPlane e j with
  | some n => modRun e n fun r => { r with m := tmod {} r.m j g }
  | none => e

/-- Frame j of the accumulator record (R433 type 5). -/
def accsRead (e : Elem) (j : Nat) : BitVec 256 :=
  if j < 32 then BitVec.ofNat 256 (packLanes 32 ((List.range 8).map fun c => (tget 0 (accAt e (j / 8)).cells (8 * (j % 8) + c)).toNat))
  else BitVec.ofNat 256 (packLanes 64 ((List.range 4).map fun i => accStatus (accAt e i)))

/-- A status word written into an accumulator (R349). -/
def accStatusWrite (m : MAcc) (v : Nat) : MAcc :=
  { m with bb := BitVec.ofNat 16 (fld v 48 16), ba := BitVec.ofNat 16 (fld v 32 16), int := bit v 31, cap := bit v 30, ue := bit v 29
           bandmis := bit v 28, nanf := bit v 27, satf := bit v 26, log := BitVec.ofNat 14 (fld v 10 14) }

/-- A write of frame j of the accumulator record. -/
def accsWrite (e : Elem) (j : Nat) (v : BitVec 256) : Elem :=
  if j < 32 then accMod e (j / 8) fun m =>
    { m with cells := (List.range 8).foldl (fun t c => tput 0 t (8 * (j % 8) + c) (BitVec.ofNat 32 (fld v.toNat (32 * c) 32))) m.cells }
  else (List.range 4).foldl (fun e i => accMod e i fun m => accStatusWrite m (fld v.toNat (64 * i) 64)) e

/-- HELD of a context as FIRNSTAT reads it: the value written since the clock last ran, else the entries it holds (05 R136, R139). -/
def heldStat (e : Elem) (c : Nat) : Nat := if thas e.heldW c then tget 0 e.heldW c else firnHeld e c

/-- OUT of a context as FIRNSTAT reads it: the value written since the clock last ran, else its accumulates in flight. -/
def outStat (e : Elem) (c : Nat) : Nat := if thas e.heldW (4 + c) then tget 0 e.heldW (4 + c) else tget 0 e.out c

/-- The words of the firn tile: nine per entry, then FIRNSTAT of each plane (05 R139). -/
def firnWords (e : Elem) : List Nat :=
  (List.range 32).flatMap (fun i => match e.firn.find? fun x => x.n == i with
    | none => List.replicate 9 0
    | some x => (x.ctx % 4 * 2 ^ 46 + b2n x.v * 2 ^ 45 + x.fmt % 256 * 2 ^ 36 + x.acop % 16 * 2 ^ 32 + x.addr.toNat) :: lanes 64 x.data) ++
    [0, 1, 2, 3].map fun c => outStat e c % 64 * 2 ^ 8 + heldStat e c % 64

/-- The firn tile that words describe. The counts written stand beside those that the tile has until the clock restarts, which compares them
(R139). -/
def firnFrom (e : Elem) (ws : List Nat) : Elem :=
  let at' (i : Nat) : Nat := ws[i]?.getD 0
  let es := ((List.range 32).filter fun i => ((ws.drop (9 * i)).take 9).any fun w => w != 0).map fun i =>
    let d := at' (9 * i)
    let x : FirnE := { n := i, v := bit d 45, ctx := fld d 46 2, addr := BitVec.ofNat 32 d, acop := fld d 32 4, fmt := fld d 36 8
                       data := pack 64 ((List.range 8).map fun j => at' (9 * i + 1 + j)) }
    x
  { e with firn := es
           heldW := [0, 1, 2, 3].foldl (fun t c => tins (tins t c (fld (at' (288 + c)) 0 6)) (4 + c) (fld (at' (288 + c)) 8 6)) e.heldW }

/-! ### Items (R433) -/

/-- An item of a record: its width in bits, whether it starts at a frame boundary as a token does, its value and how a value is written. -/
structure Item (σ : Type) where
  w : Nat
  tok : Bool
  get : σ → Nat
  set : Nat → σ → σ

/-- An item of a part of a state as an item of the state. -/
def Item.within {σ α : Type} (x : Item α) (part : σ → α) (change : (α → α) → σ → σ) : Item σ :=
  { w := x.w, tok := x.tok, get := fun s => x.get (part s), set := fun v s => change (x.set v) s }

/-- Items of a part of a state. -/
def partItems {σ α : Type} (part : σ → α) (change : (α → α) → σ → σ) (l : List (Item α)) : List (Item σ) := l.map fun x => x.within part change

/-- A number of n bits. -/
def numItem {σ : Type} (n : Nat) (get : σ → Nat) (set : Nat → σ → σ) : Item σ := { w := n, tok := false, get := get, set := set }

/-- A bit. -/
def boolItem {σ : Type} (get : σ → Bool) (set : Bool → σ → σ) : Item σ := numItem 1 (fun s => b2n (get s)) fun v => set (v == 1)

/-- Bits. -/
def bitsItem {σ : Type} {n : Nat} (get : σ → BitVec n) (set : BitVec n → σ → σ) : Item σ := numItem n (fun s => (get s).toNat) fun v => set (BitVec.ofNat n v)

/-- A frame of its own. -/
def frameItem {σ : Type} (get : σ → BitVec 256) (set : BitVec 256 → σ → σ) : Item σ :=
  { w := 256, tok := true, get := fun s => (get s).toNat, set := fun v => set (BitVec.ofNat 256 v) }

/-- The items of entry i of a table. -/
def tabItems {α : Type} (d : α) (i : Nat) (l : List (Item α)) : List (Item (Tab α)) := partItems (fun t => tget d t i) (fun g t => tmod d t i g) l

/-- The items of the entries of a list as it stands. -/
def listItems {α : Type} (d : α) (n : Nat) (l : List (Item α)) : List (Item (List α)) :=
  (List.range n).flatMap fun i => partItems (fun t => t[i]?.getD d) (fun g t => lmod t i g) l

/-- Bits of a saved token (R186, R433): data, then the sideband and V. -/
def tokBits (wide : Bool) (t : Token) : Nat :=
  let n := if wide then 512 else 64
  t.data.toNat % 2 ^ n + 2 ^ n * (t.check.toNat + 2 ^ 16 * t.ctx.toNat + 2 ^ 18 * t.kind.toNat + 2 ^ 21 * t.lvl.toNat + 2 ^ 24 * t.ctag.toNat + 2 ^ 32)

/-- A token that saved bits give: what the sideband does not carry stays. -/
def tokFrom (wide : Bool) (v : Nat) (t : Token) : Token :=
  let n := if wide then 512 else 64
  let b := fld v n 32
  { t with data := BitVec.ofNat 512 (fld v 0 n), check := BitVec.ofNat 16 b, ctx := BitVec.ofNat 2 (fld b 16 2), kind := BitVec.ofNat 3 (fld b 18 3)
           lvl := BitVec.ofNat 3 (fld b 21 3), ctag := BitVec.ofNat 8 (fld b 24 8) }

/-- Bits that a saved token takes: three frames, or one. -/
def tokWidth (wide : Bool) : Nat := if wide then 768 else 256

/-- A token that stands. -/
def tokItem (wide : Bool) : Item Token := { w := tokWidth wide, tok := true, get := tokBits wide, set := tokFrom wide }

/-- Place i of a queue (R433): V is 0 where it is empty. A queue has no gap, so a place written empty ends it (log 80). -/
def placeItem (wide : Bool) (i : Nat) : Item (List Token) :=
  { w := tokWidth wide, tok := true
    get := fun l => match l[i]? with
      | some t => tokBits wide t
      | none => 0
    set := fun v l =>
      if !bit v ((if wide then 512 else 64) + 32) then l.take i
      else lmod (l ++ List.replicate (i + 1 - l.length) {}) i (tokFrom wide v) }

/-- Items with the bit at which each starts: at the next 64-bit boundary, or frame boundary for a token (R433). -/
def placed {σ : Type} (at' : Nat) : List (Item σ) → List (Nat × Item σ)
  | [] => []
  | x :: r =>
    let u := if x.tok then 256 else 64
    let o := (at' + u - 1) / u * u
    (o, x) :: placed (o + x.w) r

/-- Frames that items take. -/
def framesOf {σ : Type} (l : List (Item σ)) : Nat := ((placed 0 l).foldl (fun a q => max a (q.1 + q.2.w)) 0 + 255) / 256

/-- Frame j of a record. -/
def recRead {σ : Type} (l : List (Item σ)) (s : σ) (j : Nat) : BitVec 256 :=
  BitVec.ofNat 256 (fld ((placed 0 l).foldl (fun a q => a + fld (q.2.get s) 0 q.2.w * 2 ^ q.1) 0) (256 * j) 256)

/-- Writes frame j of a record: the items that it holds bits of, and that it changes. -/
def recWrite {σ : Type} (l : List (Item σ)) (s : σ) (j : Nat) (v : BitVec 256) : σ :=
  (placed 0 l).foldl (fun s q =>
    if q.1 + q.2.w ≤ 256 * j ∨ 256 * j + 256 ≤ q.1 then s
    else
      let old := fld (q.2.get s) 0 q.2.w
      let lo := q.1 - 256 * j
      let new := if 256 * j ≤ q.1 then (if q.2.w ≤ 256 - lo then fld v.toNat lo q.2.w else setFld old 0 (256 - lo) (v.toNat / 2 ^ lo))
        else setFld old (256 * j - q.1) (min 256 (q.1 + q.2.w - 256 * j)) v.toNat
      if new = old then s else q.2.set new s) s

/-- Items one list after another. -/
def cat {σ : Type} (l : List (List (Item σ))) : List (Item σ) := l.flatten

/-! ### Items of the parts of a state -/

/-- An optional value of n bits, with its own bit. -/
def optItems {σ : Type} (n : Nat) (get : σ → Option Nat) (set : Option Nat → σ → σ) : List (Item σ) :=
  [boolItem (fun s => (get s).isSome) fun v s => set (if v then some ((get s).getD 0) else none) s,
   numItem n (fun s => (get s).getD 0) fun v s => set ((get s).map fun _ => v) s]

/-- A request at a memory tile (R371-R377, R129). -/
def reqItems : List (Item MemReq) :=
  cat [
    [numItem 2 (fun q => q.plane) (fun v q => { q with plane := v }), numItem 4 (fun q => q.slot) (fun v q => { q with slot := v }),
   numItem 10 (fun q => q.op) (fun v q => { q with op := v }), numItem 4 (fun q => q.fmt) (fun v q => { q with fmt := v }),
   numItem 3 (fun q => q.bank) (fun v q => { q with bank := v }), numItem 9 (fun q => q.line) (fun v q => { q with line := v }),
   bitsItem (fun q => q.addr) (fun v q => { q with addr := v }), numItem 7 (fun q => q.size) (fun v q => { q with size := v }),
   bitsItem (fun q => q.data) (fun v q => { q with data := v }), bitsItem (fun q => q.cmp) (fun v q => { q with cmp := v }),
   numItem 7 (fun q => q.reply) (fun v q => { q with reply := v }), bitsItem (fun q => q.lvl) (fun v q => { q with lvl := v }),
   bitsItem (fun q => q.ctag) (fun v q => { q with ctag := v }), boolItem (fun q => q.hdr) (fun v q => { q with hdr := v }),
   bitsItem (fun q => q.ord) (fun v q => { q with ord := v }), bitsItem (fun q => q.smode) (fun v q => { q with smode := v }),
   numItem 2 (fun q => q.dom) (fun v q => { q with dom := v }), bitsItem (fun q => q.pred) (fun v q => { q with pred := v }),
   numItem 5 (fun q => q.lane) (fun v q => { q with lane := v }), numItem 4 (fun q => q.acop) (fun v q => { q with acop := v }),
   boolItem (fun q => q.fl) (fun v q => { q with fl := v }), boolItem (fun q => q.cr) (fun v q => { q with cr := v }),
   numItem 7 (fun q => q.sx) (fun v q => { q with sx := v }), numItem 7 (fun q => q.sy) (fun v q => { q with sy := v }),
   numItem 5 (fun q => q.port) (fun v q => { q with port := v }), numItem 7 (fun q => q.queue) (fun v q => { q with queue := v }),
   bitsItem (fun q => q.round) (fun v q => { q with round := v }), bitsItem (fun q => q.check) (fun v q => { q with check := v })],
    optItems 16 (fun q => q.tag.map fun t => t.toNat) fun v q => { q with tag := v.map fun t => BitVec.ofNat 16 t }]

/-- An entry of a firn tile on its way out (R139, R140). -/
def firnItems : List (Item FirnE) :=
  [numItem 6 (fun x => x.n) (fun v x => { x with n := v }), numItem 2 (fun x => x.ctx) (fun v x => { x with ctx := v }),
   bitsItem (fun x => x.addr) (fun v x => { x with addr := v }), numItem 4 (fun x => x.acop) (fun v x => { x with acop := v }),
   numItem 8 (fun x => x.fmt) (fun v x => { x with fmt := v }), bitsItem (fun x => x.data) (fun v x => { x with data := v }),
   boolItem (fun x => x.cr) (fun v x => { x with cr := v })]

/-- The opcode of a delay slot. -/
def delayDepth (p : Plane) (n : Nat) : Nat := if swOp (slotWordOf p n) = 0x202 then (slotFields (slotWordOf p n)).imm.toNat % 16 else 0

/-- State of slot n of a plane: its delay line, the merge.u pointer, NEXT, IDX, DONE, the firing count and the age. -/
def slotItems (p : Plane) (n : Nat) : List (Item SlotSt) :=
  let d := delayDepth p n
  let wide := isWideSel (slotFields (slotWordOf p n)).dst.toNat
  cat [
    partItems (fun q => q.line.getD (List.replicate d {})) (fun g q => { q with line := some (g (q.line.getD (List.replicate d {}))) }) (listItems {} d [tokItem wide]),
    [boolItem (fun q => q.ptr) (fun v q => { q with ptr := v }), bitsItem (fun q => q.next) (fun v q => { q with next := v }),
   bitsItem (fun q => q.idx) (fun v q => { q with idx := v }), boolItem (fun q => q.done) (fun v q => { q with done := v }),
   numItem 32 (fun q => q.fired) (fun v q => { q with fired := v })],
    optItems 64 (fun q => q.age) fun v q => { q with age := v }]

/-- Type 2 of a plane: header latches, OHDR, slot state, LAST(d), waiting domain requests, pending fences and the flush sender; the lists as long as
they stand in run state r. -/
def runItems (key : Nat) (p : Plane) (r : PRun) : List (Item PRun) :=
  let mt := kindOf key == .memory
  cat [
    (List.range 16).flatMap (fun i => partItems (fun r => r.hdr) (fun g r => { r with hdr := g r.hdr }) (tabItems 0x7F00 (0x20 + i) [bitsItem id fun v _ => v])),
    (List.range 16).flatMap (fun i => partItems (fun r => r.ohdr) (fun g r => { r with ohdr := g r.ohdr }) (tabItems 0x7F00 (0x30 + i) [bitsItem id fun v _ => v])),
    (List.range (if mt then 8 else 16)).flatMap (fun n => partItems (fun r => r.slots) (fun g r => { r with slots := g r.slots }) (tabItems {} n (slotItems p n))),
    (if !mt then [] else
    (List.range 4).flatMap (fun d => partItems (fun r => r.last) (fun g r => { r with last := g r.last }) (tabItems 0 d [bitsItem id fun v _ => v])) ++
    (List.range 4).flatMap (fun d => partItems (fun r => r.domq) (fun g r => { r with domq := g r.domq })
      (tabItems [] d (listItems {} (tget [] r.domq d).length reqItems))) ++
    partItems (fun r => r.fences) (fun g r => { r with fences := g r.fences }) (listItems (0, 0) r.fences.length [numItem 4 (fun q => q.1) fun v q => (v, q.2)])),
    partItems (fun r => r.flush) (fun g r => { r with flush := g r.flush }) (listItems {} r.flush.length firnItems)]

/-- The register record of a plane, frame by frame (type 1). -/
def regItems : List (Item PRun) := (List.range 35).map fun j => frameItem (fun r => regsRead r j) fun v r => regsWrite r j v

/-- An accumulator (type 5): its cells eight to a frame, then its status word. -/
def accItems : List (Item MAcc) :=
  cat [
    (List.range 8).map (fun j => frameItem (fun m => BitVec.ofNat 256 (packLanes 32 ((List.range 8).map fun c => (tget 0 m.cells (8 * j + c)).toNat)))
    fun v m => { m with cells := (List.range 8).foldl (fun t c => tput 0 t (8 * j + c) (BitVec.ofNat 32 (fld v.toNat (32 * c) 32))) m.cells }),
    [numItem 64 accStatus fun v m => accStatusWrite m v]]

/-- The accumulators that a plane's AMASK names. -/
def planeAccs (p : Plane) : List (Item PRun) :=
  ((List.range 4).filter fun j => bit (amaskOf p) j).flatMap fun j => partItems (fun r => r.m) (fun g r => { r with m := g r.m }) (tabItems {} j accItems)

/-- The state frame of a half (R335): FMT and SCALE of row r in [16r + 15 : 16r], the error marks in [191:128], the fill mask in [223:192], the reader
count in [227:224], the owner plane in [229:228], whether it has one in bit 230 and whether it is full in bit 231 (log 80). -/
def halfState (h : Half) : BitVec 256 :=
  BitVec.ofNat 256 (packLanes 16 ((List.range 8).map fun r => (tget 0 h.tags r).toNat) + 2 ^ 128 * h.marks.toNat + 2 ^ 192 * h.fill.toNat +
    2 ^ 224 * h.count.toNat + 2 ^ 228 * (h.owner.getD 0 % 4) + 2 ^ 230 * b2n h.owner.isSome + 2 ^ 231 * b2n h.full)

/-- A half with its state frame written. -/
def halfSet (v : BitVec 256) (h : Half) : Half :=
  let n := v.toNat
  { h with tags := (List.range 8).foldl (fun t r => tput 0 t r (BitVec.ofNat 16 (fld n (16 * r) 16))) h.tags, marks := BitVec.ofNat 64 (fld n 128 64)
           fill := BitVec.ofNat 32 (fld n 192 32), count := BitVec.ofNat 4 (fld n 224 4), owner := if bit n 230 then some (fld n 228 2) else none, full := bit n 231 }

/-- A half: sixteen data frames, then its state frame (type 6). -/
def halfItems : List (Item Half) :=
  cat [
    (List.range 16).map (fun j => frameItem (fun h => BitVec.ofNat 256 (fld (tget 0 h.rows (j / 2)).toNat (256 * (j % 2)) 256))
    fun v h => { h with rows := tput 0 h.rows (j / 2) (BitVec.ofNat 512 (setFld (tget 0 h.rows (j / 2)).toNat (256 * (j % 2)) 256 v.toNat)) }),
    [frameItem halfState halfSet]]

/-- The four halves of a tile. -/
def halvesItems : List (Item (Tab Half)) := (List.range 4).flatMap fun i => tabItems {} i halfItems

/-- A stream's checkpoint: its round, the linear index of its next access, its latch and the tag of the last header (type 11). -/
def sckptItems : List (Item SCkpt) :=
  cat [
    [bitsItem (fun c => c.round) (fun v c => { c with round := v }), numItem 192 (fun c => c.pos) (fun v c => { c with pos := v })],
    optItems 32 (fun c => c.latch.map fun x => x.toNat) (fun v c => { c with latch := v.map fun x => BitVec.ofNat 32 x }),
    optItems 16 (fun c => c.hdr.map fun x => x.toNat) (fun v c => { c with hdr := v.map fun x => BitVec.ofNat 16 x })]

/-- A round checkpoint of a plane (type 3): its round, CWID and predicates, and the items of types 1, 2, 5 and 6 that are the plane's. -/
def ckptItems (key : Nat) (p : Plane) (c : Ckpt) : List (Item Ckpt) :=
  let ct := kindOf key == .compute
  cat [
    [bitsItem (fun c => c.round) (fun v c => { c with round := v }), bitsItem (fun c => c.run.cwid) (fun v c => { c with run := { c.run with cwid := v } }),
   bitsItem (fun c => c.run.p) (fun v c => { c with run := { c.run with p := v } })],
    partItems (fun c => c.run) (fun g c => { c with run := g c.run })
    (cat [(if ct then regItems else []), (if kindOf key == .ag then [] else runItems key p c.run), (if ct then planeAccs p else [])]),
    (if ct then partItems (fun c => c.halves) (fun g c => { c with halves := g c.halves }) halvesItems else [])]

/-- A journal entry (R109, R110): line, old tag and CHECK, context, round and the old bytes. -/
def jentItems : List (Item JEnt) :=
  [numItem 12 (fun x => x.line) (fun v x => { x with line := v }), bitsItem (fun x => x.tag) (fun v x => { x with tag := v }),
   bitsItem (fun x => x.check) (fun v x => { x with check := v }), numItem 2 (fun x => x.ctx) (fun v x => { x with ctx := v }),
   bitsItem (fun x => x.round) (fun v x => { x with round := v }), bitsItem (fun x => x.old) (fun v x => { x with old := v })]

/-- What a journal entry is where none stands. -/
def noJEnt : JEnt := { line := 0, old := 0, tag := 0, ctx := 0, round := 0 }

/-- A signature of a section in bank b: 256 bits (R167). -/
def sigItem (b : Nat) : Item (List (Nat × Nat)) :=
  { w := 256, tok := false
    get := fun l => ((l.filter fun q => q.1 == b).map fun q => q.2 % 256).dedup.foldl (fun a h => a + 2 ^ h) 0
    set := fun v l => (l.filter fun q => q.1 != b) ++ ((List.range 256).filter (bit v)).map fun h => (b, h) }

/-- A section (R166-R169): its queue, plane, domain and entry record, its signatures and buffered writes, its squash count and its result. -/
def sectItems (y : Sect) : List (Item Sect) :=
  cat [
    [numItem 7 (fun y => y.queue) (fun v y => { y with queue := v }), numItem 2 (fun y => y.plane) (fun v y => { y with plane := v }),
   numItem 2 (fun y => y.dom) (fun v y => { y with dom := v }), numItem 7 (fun y => y.grant) (fun v y => { y with grant := v }),
   bitsItem (fun y => y.round) (fun v y => { y with round := v }), numItem 16 (fun y => y.squashed) (fun v y => { y with squashed := v }),
   numItem 16 (fun y => y.due) (fun v y => { y with due := v })],
    partItems (fun y => y.entry) (fun g y => { y with entry := g y.entry }) [tokItem (isWideSel y.queue)],
    partItems (fun y => y.reads) (fun g y => { y with reads := g y.reads }) ((List.range 6).map sigItem),
    partItems (fun y => y.wsig) (fun g y => { y with wsig := g y.wsig }) ((List.range 6).map sigItem),
    partItems (fun y => y.writes) (fun g y => { y with writes := g y.writes }) (listItems {} y.writes.length reqItems),
    (if y.result.isNone then [] else partItems (fun y => y.result.getD ({}, 0)) (fun g y => { y with result := y.result.map g })
    (cat [partItems (fun q => q.1) (fun g q => (g q.1, q.2)) [tokItem (isWideSel y.queue)], [numItem 7 (fun q => q.2) fun v q => (q.1, v)]]))]

/-- What a section is where none stands. -/
def noSect : Sect := { queue := 0, plane := 0, dom := 0, entry := {}, grant := 0 }

/-- The memory tile's record (type 10): sections, acceptance counters, the window phase and the pending credits. -/
def tileItems (e : Elem) : List (Item Elem) :=
  let mt (l : List (Item MtSt)) : List (Item Elem) := partItems (fun e => e.mt) (fun g e => { e with mt := g e.mt }) l
  cat [
    mt (partItems (fun m => m.sects) (fun g m => { m with sects := g m.sects })
    ((List.range e.mt.sects.length).flatMap fun i => partItems (fun l => l[i]?.getD noSect) (fun g l => lmod l i g) (sectItems (e.mt.sects[i]?.getD noSect)))),
    mt ((List.range 102).flatMap fun i => partItems (fun m => m.accepted) (fun g m => { m with accepted := g m.accepted }) (tabItems 0 i [numItem 8 id fun v _ => v])),
    [numItem 5 (fun e => e.cyc % 32) fun v e => { e with cyc := e.cyc / 32 * 32 + v }],
    mt (partItems (fun m => m.credits) (fun g m => { m with credits := g m.credits }) (listItems (0, 0, 0, 0, 0) e.mt.credits.length
    [numItem 7 (fun c => c.1) (fun v c => (v, c.2)), numItem 7 (fun c => c.2.1) (fun v c => (c.1, v, c.2.2)),
     numItem 2 (fun c => c.2.2.1) (fun v c => (c.1, c.2.1, v, c.2.2.2)), numItem 6 (fun c => c.2.2.2.1) (fun v c => (c.1, c.2.1, c.2.2.1, v, c.2.2.2.2)),
     numItem 7 (fun c => c.2.2.2.2) (fun v c => (c.1, c.2.1, c.2.2.1, c.2.2.2.1, v))]))]

/-- Buffer places of an input queue (R185): those of a link across a die boundary at the edge of a core, which may be one (log 80). -/
def placesOf (key sel : Nat) : Nat :=
  match selDir sel with
  | 0 => if keyY key = 0 then 16 else 4
  | 1 => if keyX key = 9 then 16 else 4
  | 2 => if keyY key = 9 then 16 else 4
  | _ => if keyX key = 0 then 16 else 4

/-- What an entry of a back-edge log is where none stands. -/
def noEntry : Nat × BitVec 32 × Nat × Token := (0, 0, 0, {})

/-- Queues of an element (type 4): what an input queue holds and what is under way to it, the output queues, and the back-edge log. -/
def queueItems (key : Nat) (e : Elem) : List (Item Net) :=
  let inp (sel : Nat) : List (Item Net) := partItems (fun n => tget [] n.rx sel ++ tget [] n.wire sel)
    (fun g n => { n with rx := tput [] n.rx sel (g (tget [] n.rx sel ++ tget [] n.wire sel)), wire := tdel n.wire sel })
    ((List.range (placesOf key sel)).map (placeItem (isWideSel sel)))
  let out (sel : Nat) : List (Item Net) := partItems (fun n => n.outq) (fun g n => { n with outq := g n.outq })
    (tabItems [] sel ((List.range 2).map (placeItem (isWideSel sel))))
  cat [
    (List.range 16).flatMap (fun i => inp (0x20 + i)),
    (List.range 8).flatMap (fun i => inp (0x40 + i)),
    (List.range 16).flatMap (fun i => out (0x30 + i)),
    (List.range 8).flatMap (fun i => out (0x48 + i)),
    (List.range e.net.backlog.length).flatMap fun i => partItems (fun (n : Net) => n.backlog[i]?.getD noEntry) (fun g n => { n with backlog := lmod n.backlog i g })
    (cat [[numItem 2 (fun b => b.1) (fun v b => (v, b.2)), bitsItem (fun b => b.2.1) (fun v b => (b.1, v, b.2.2)),
      numItem 7 (fun b => b.2.2.1) (fun v b => (b.1, b.2.1, v, b.2.2.2))], partItems (fun b => b.2.2.2) (fun g b => (b.1, b.2.1, b.2.2.1, g b.2.2.2)) [tokItem (isWideSel (((e.net.backlog[i]?).map fun b => b.2.2.1).getD 0))]])]

/-- CNT k of a stream (R222). -/
def nestCnt (p : Plane) (i k : Nat) : Nat := fld (tget 0 p.frames (3 * i)).toNat (64 + 32 * k) 32

/-- Accesses of one step of loop k of a stream. -/
def nestStep (p : Plane) (i k : Nat) : Nat := (List.range k).foldl (fun a j => a * nestCnt p i j) 1

/-- Stream i of a plane: its loop indices, its checkpoints, its latch and the tokens of its round (type 11). -/
def streamItems (p : Plane) (i : Nat) (st : StreamSt) : List (Item StreamSt) :=
  let index (k pos : Nat) : Nat := pos / nestStep p i k % nestCnt p i k
  cat [
    (List.range 6).map (fun k => numItem 32 (fun s => index k s.pos) fun v s => { s with pos := s.pos - index k s.pos * nestStep p i k + v * nestStep p i k }),
    partItems (fun s => s.ckpts) (fun g s => { s with ckpts := g s.ckpts }) (listItems { round := 0, pos := 0, latch := none, hdr := none } st.ckpts.length sckptItems),
    optItems 32 (fun s => s.latch.map fun x => x.toNat) (fun v s => { s with latch := v.map fun x => BitVec.ofNat 32 x }),
    optItems 16 (fun s => s.hdr.map fun x => x.toNat) (fun v s => { s with hdr := v.map fun x => BitVec.ofNat 16 x }),
    [numItem 32 (fun s => s.count) fun v s => { s with count := v }]]

/-- An entry of an AG node's inbox: the command stream works at the first that has been started. -/
def cmdItems : List (Item AgCmd) :=
  [numItem 6 (fun c => c.core) (fun v c => { c with core := v }), numItem 5 (fun c => c.reg) (fun v c => { c with reg := v }),
   numItem 8 (fun c => c.cmd) (fun v c => { c with cmd := v }), bitsItem (fun c => c.d) (fun v c => { c with d := v }),
   numItem 1024 (fun c => mgetN c.block 0 128) (fun v c => { c with block := mputN c.block 0 128 v }), boolItem (fun c => c.sup) (fun v c => { c with sup := v }),
   boolItem (fun c => c.on) (fun v c => { c with on := v }), numItem 64 (fun c => c.pos) (fun v c => { c with pos := v }),
   numItem 8 (fun c => c.code) (fun v c => { c with code := v })]

/-- An entry of the hold directory (R119, R470); its data stands in the stream buffer. -/
def holdItems : List (Item Held) :=
  [numItem 48 (fun h => h.pa) (fun v h => { h with pa := v }), numItem 64 (fun h => h.va) (fun v h => { h with va := v }),
   numItem 5 (fun h => h.fn) (fun v h => { h with fn := v }), numItem 4 (fun h => h.route) (fun v h => { h with route := v }),
   bitsItem (fun h => h.mask) (fun v h => { h with mask := v }), bitsItem (fun h => h.tag) (fun v h => { h with tag := v }),
   bitsItem (fun h => h.check) (fun v h => { h with check := v }), numItem 3 (fun h => h.stream) (fun v h => { h with stream := v }),
   numItem 2 (fun h => h.ctx) (fun v h => { h with ctx := v }), bitsItem (fun h => h.round) (fun v h => { h with round := v })]

/-- What a held store is where none stands. -/
def noHeld : Held := { pa := 0, va := 0, fn := 0, mask := 0, data := 0, tag := 0, stream := 0, ctx := 0, round := 0 }

/-- An entry of the replay directory (R120): its stream, plane and round, and the sideband of a token whose data stands in the stream buffer. -/
def keptItems : List (Item (Nat × Nat × BitVec 32 × Token)) :=
  [numItem 3 (fun q => q.1) (fun v q => (v, q.2)), numItem 2 (fun q => q.2.1) (fun v q => (q.1, v, q.2.2)),
   bitsItem (fun q => q.2.2.1) (fun v q => (q.1, q.2.1, v, q.2.2.2)),
   numItem 32 (fun q => tokBits true q.2.2.2 / 2 ^ 512 % 2 ^ 32) fun v q => (q.1, q.2.1, q.2.2.1, tokFrom true (q.2.2.2.data.toNat + 2 ^ 512 * v) q.2.2.2)]

/-- A place of the edge buffer (R429): the read's stream, plane, position and line. -/
def readItems : List (Item ReadOut) :=
  cat [
    [numItem 3 (fun q => q.stream) (fun v q => { q with stream := v }), numItem 2 (fun q => q.plane) (fun v q => { q with plane := v }),
   numItem 192 (fun q => q.pos) (fun v q => { q with pos := v }), bitsItem (fun q => q.tag) (fun v q => { q with tag := v })],
    optItems 512 (fun q => q.line.map fun l => l.toNat) fun v q => { q with line := v.map fun l => BitVec.ofNat 512 l }]

/-- The AG node's record (type 11). -/
def agItems (e : Elem) : List (Item Elem) :=
  let ag (l : List (Item AgSt)) : List (Item Elem) := partItems (fun e => e.ag) (fun g e => { e with ag := g e.ag }) l
  cat [
    (List.range 32).flatMap (fun j =>
    let p := planeOf e (j / 8)
    partItems (fun e => (planeOf e (j / 8)).run) (fun g e => modRun e (j / 8) g)
      (partItems (fun r => r.streams) (fun g r => { r with streams := g r.streams }) (tabItems {} (j % 8) (streamItems p (j % 8) (tget {} p.run.streams (j % 8)))))),
    ag (partItems (fun a => a.inbox) (fun g a => { a with inbox := g a.inbox })
    (listItems { core := 0, id := 0, reg := 0, cmd := 0, d := 0, block := [] } e.ag.inbox.length cmdItems)),
    ag (partItems (fun a => a.hold) (fun g a => { a with hold := g a.hold }) (listItems noHeld e.ag.hold.length holdItems)),
    ag (partItems (fun a => a.replay) (fun g a => { a with replay := g a.replay }) (listItems (0, 0, 0, {}) e.ag.replay.length keptItems)),
    ag (partItems (fun a => a.reads) (fun g a => { a with reads := g a.reads }) (listItems { stream := 0, plane := 0, pos := 0 } e.ag.reads.length readItems))]

/-- The reserve banks (type 7): plane, registers, predicates and accumulators of the context parked in each. -/
def reserveItems (e : Elem) : List (Item Elem) :=
  (List.range e.ct.reserve.length).flatMap fun i =>
    let d : Nat × PRun := (0, {})
    partItems (fun e => e.ct.reserve[i]?.getD d) (fun g e => { e with ct := { e.ct with reserve := lmod e.ct.reserve i g } })
      (numItem 2 (fun q => q.1) (fun v q => (v, q.2)) ::
        partItems (fun q => q.2) (fun g q => (q.1, g q.2))
          (cat [regItems, bitsItem (fun r => r.p) (fun v r => { r with p := v }) :: planeAccs (planeOf e (((e.ct.reserve[i]?).map fun q => q.1).getD 0))]))

/-- The CSRs that a control core holds itself, in ascending number (R264-R271). -/
def csrItems : List (Item CC) :=
  [bitsItem (fun c => c.tstat) (fun v c => { c with tstat := v }), bitsItem (fun c => c.tvec) (fun v c => { c with tvec := v }),
   bitsItem (fun c => c.tepc) (fun v c => { c with tepc := v }), bitsItem (fun c => c.tcause) (fun v c => { c with tcause := v }),
   bitsItem (fun c => c.tval) (fun v c => { c with tval := v }), bitsItem (fun c => c.tscr) (fun v c => { c with tscr := v }),
   bitsItem (fun c => c.evpend) (fun v c => { c with evpend := v }), bitsItem (fun c => c.evmask) (fun v c => { c with evmask := v }),
   bitsItem (fun c => c.tcmp) (fun v c => { c with tcmp := v }), bitsItem (fun c => c.cycle) (fun v c => { c with cycle := v }),
   bitsItem (fun c => c.instret) (fun v c => { c with instret := v }),
   numItem 12 (fun c => c.skind.toNat + 4 * c.scode.toNat + 1024 * c.state.toNat)
     fun v c => { c with skind := BitVec.ofNat 2 v, scode := BitVec.ofNat 8 (v / 4), state := BitVec.ofNat 2 (v / 1024) }]

/-- A source port: its binding and its log (R199, R283). -/
def vinItems (v : Vin) : List (Item Vin) :=
  cat [
    optItems 64 (fun v => v.bind.map fun b => b.toNat) (fun x v => { v with bind := x.map fun b => BitVec.ofNat 64 b }),
    (List.range v.kept.length).flatMap (fun i => partItems (fun (v : Vin) => v.kept[i]?.getD ((0 : BitVec 32), (0 : Word), ({} : Token))) (fun g v => { v with kept := lmod v.kept i g })
    (cat [[bitsItem (fun q => q.1) (fun x q => (x, q.2)), bitsItem (fun q => q.2.1) (fun x q => (q.1, x, q.2.2))], partItems (fun q => q.2.2) (fun g q => (q.1, q.2.1, g q.2.2)) [tokItem false]])),
    (List.range v.queue.length).flatMap fun i => partItems (fun (v : Vin) => v.queue[i]?.getD ((0 : Word), ({} : Token))) (fun g v => { v with queue := lmod v.queue i g })
    (bitsItem (fun q => q.1) (fun x q => (x, q.2)) :: partItems (fun q => q.2) (fun g q => (q.1, g q.2)) [tokItem false])]

/-- A sink port: its tokens with their rounds, DLV, and the rdouts that wait (R286, R418). -/
def sinkItems (k : Sink) : List (Item Sink) :=
  cat [
    (List.range k.toks.length).flatMap (fun i => partItems (fun (k : Sink) => k.toks[i]?.getD ((0 : BitVec 32), ({} : Token))) (fun g k => { k with toks := lmod k.toks i g })
    (bitsItem (fun q => q.1) (fun x q => (x, q.2)) :: partItems (fun q => q.2) (fun g q => (q.1, g q.2)) [tokItem false])),
    partItems (fun k => k.dlv) (fun g k => { k with dlv := g k.dlv }) (listItems (0, 0, 0) k.dlv.length
    [numItem 2 (fun d => d.1) (fun v d => (v, d.2)), bitsItem (fun d => d.2.1) (fun v d => (d.1, v, d.2.2)), numItem 32 (fun d => d.2.2) fun v d => (d.1, d.2.1, v)]),
    partItems (fun k => k.waiting) (fun g k => { k with waiting := g k.waiting }) (listItems 0 k.waiting.length [numItem 5 id fun v _ => v])]

/-- The control core's record but for pending kwr and sbind (type 12). -/
def coreItems (c : CC) : List (Item CC) :=
  cat [
    ((List.range 31).flatMap fun n => partItems (fun c => c.x) (fun g c => { c with x := g c.x }) (tabItems 0 (n + 1) [bitsItem id fun v _ => v])),
    [bitsItem (fun c => c.full) (fun v c => { c with full := v ||| 1 }), bitsItem (fun c => c.owed) (fun v c => { c with owed := v &&& 0xFFFFFFFE }),
   bitsItem (fun c => c.pc) (fun v c => { c with pc := v })],
    csrItems,
    (List.range 8).flatMap (fun j => partItems (fun c => c.accs) (fun g c => { c with accs := g c.accs }) (tabItems ({} : Acc) j
    (bitsItem (fun a => a.val) (fun v a => { a with val := v }) :: optItems 64 (fun a => a.bind.map fun b => b.toNat) fun x a => { a with bind := x.map fun b => BitVec.ofNat 64 b }))),
    (List.range 16).flatMap (fun i => partItems (fun c => c.vins) (fun g c => { c with vins := g c.vins }) (tabItems {} i (vinItems (vinOf c i)))),
    (List.range 16).flatMap fun i => partItems (fun c => c.sinks) (fun g c => { c with sinks := g c.sinks }) (tabItems {} i (sinkItems (tget {} c.sinks i)))]

/-- The kwr values and sbind frames that wait at the elements of a core, element by element and plane by plane (type 12; log 80). -/
def pendItems (f : Fab) (core : Nat) : List (Item Fab) :=
  (List.range 100).flatMap fun i => [0, 1, 2, 3].flatMap fun n =>
    let k := 100 * core + i
    let p := planeOf (elemOf f k) n
    partItems (fun f => planeOf (elemOf f k) n) (fun g f => modElem f k fun e => modPlane e n g)
      (cat [p.kwr.flatMap (fun w => partItems (fun p => p.kwr) (fun g p => { p with kwr := g p.kwr })
        (tabItems (0, 0, 0) w.1 [bitsItem (fun q => q.1) fun v q => (v, q.2)])), p.sbind.flatMap fun b => partItems (fun p => p.sbind) (fun g p => { p with sbind := g p.sbind })
        (tabItems ([], 0, 0) b.1 ((List.range b.2.1.length).map fun j => frameItem (fun q => ((q.1[j]?).map fun x => x.2).getD 0)
          fun v q => (lmod q.1 j fun x => (x.1, v), q.2)))])

/-- A context at the round controller (type 13). -/
def rctxItems (c : RCtx) : List (Item RCtx) :=
  cat [
    [bitsItem (fun c => c.round) (fun v c => { c with round := v }), bitsItem (fun c => c.cround) (fun v c => { c with cround := v })],
    partItems (fun c => c.ivs) (fun g c => { c with ivs := g c.ivs }) (listItems (0, 0) c.ivs.length
    [bitsItem (fun q => q.1) (fun v q => (v, q.2)), bitsItem (fun q => q.2) fun v q => (q.1, v)]),
    (List.range 8).flatMap (fun g => partItems (fun c => c.u) (fun h c => { c with u := h c.u }) (tabItems 0 g [numItem 32 id fun v _ => v])),
    [numItem 32 (fun c => c.halvings) (fun v c => { c with halvings := v }), numItem 32 (fun c => c.capDiscards) (fun v c => { c with capDiscards := v }),
   numItem 13 (fun c => c.idle) (fun v c => { c with idle := v }), boolItem (fun c => c.early) fun v c => { c with early := v }]]

/-! ### Records and their directory (R433) -/

/-- Record types that an element kind holds (R433). -/
def recHeld (key : Nat) : List Nat :=
  match kindOf key with
  | .compute => [0, 1, 2, 3, 4, 5, 6, 7, 8, 9, 14]
  | .memory => [0, 2, 3, 4, 9, 10]
  | .ag => [0, 3, 4, 8, 11, 14]
  | .core => [12]
  | .round => [13]
  | _ => []

/-- The items of a record type of an element in region rid, in the order of R433; none for the types whose frames stand on their own. -/
def recItems (f : Fab) (rid : Option Nat) (key t : Nat) : List (Item Fab) :=
  let e := elemOf f key
  let el (l : List (Item Elem)) : List (Item Fab) := partItems (fun f => elemOf f key) (fun g f => modElem f key g) l
  let planes (g : Plane → List (Item Plane)) : List (Item Fab) :=
    el ((List.range 4).flatMap fun n => partItems (fun e => planeOf e n) (fun h e => modPlane e n h) (g (planeOf e n)))
  match t with
  | 2 => planes fun p => partItems (fun p => p.run) (fun g p => { p with run := g p.run }) (runItems key p p.run)
  | 3 => planes fun p => (List.range p.ckpts.length).flatMap fun i =>
      let d : Ckpt := { round := 0, run := {}, halves := [] }
      partItems (fun p => p.ckpts[i]?.getD d) (fun g p => { p with ckpts := lmod p.ckpts i g }) (ckptItems key p (p.ckpts[i]?.getD d))
  | 4 => el (partItems (fun e => e.net) (fun g e => { e with net := g e.net }) (queueItems key e))
  | 6 => el (partItems (fun e => e.ct.halves) (fun g e => { e with ct := { e.ct with halves := g e.ct.halves } }) halvesItems)
  | 7 => el (reserveItems e)
  | 9 => if kindOf key = .memory then
      el ((List.range 6).flatMap fun b => partItems (fun e => e.mt.jr) (fun g e => { e with mt := { e.mt with jr := g e.mt.jr } })
        (tabItems [] b (listItems noJEnt (tget [] e.mt.jr b).length jentItems)))
    else el (partItems (fun e => e.ct.jr) (fun g e => { e with ct := { e.ct with jr := g e.ct.jr } }) (listItems noJEnt e.ct.jr.length jentItems))
  | 10 => el (tileItems e)
  | 11 => el (agItems e)
  | 12 => partItems (fun f => ccOf f (keyCore key)) (fun g f => modCc f (keyCore key) g) (coreItems (ccOf f (keyCore key))) ++ pendItems f (keyCore key)
  | 13 => match rid.bind fun i => (region? f i).map fun r => (i, r) with
    | none => []
    | some (i, r) => (List.range 4).flatMap fun n =>
        partItems (fun f => ctxOf ((region? f i).getD r) n) (fun g f => modRegion f i fun r => modCtx r n g) (rctxItems (ctxOf r n))
  | _ => []

/-- COUNT of a record (R433): 0 for one that the element lacks, at least a frame for one that it holds. -/
def recCount (f : Fab) (rid : Option Nat) (key t : Nat) : Nat :=
  if !(recHeld key).contains t then 0
  else match t with
  | 0 => 4
  | 1 => 140
  | 5 => 33
  | 8 => 73
  | 14 => 1
  | _ => max 1 (framesOf (recItems f rid key t))

/-- FIRST of a record: the records stand one after another from frame 2, in ascending type (log 80). -/
def recFirst (f : Fab) (rid : Option Nat) (key t : Nat) : Nat := (List.range t).foldl (fun a u => a + recCount f rid key u) 2

/-- The record and index that a frame of element state belongs to (R433). -/
def recOf (f : Fab) (rid : Option Nat) (key idx : Nat) : Option (Nat × Nat) :=
  ((List.range 16).find? fun t => decide (recFirst f rid key t ≤ idx ∧ idx < recFirst f rid key t + recCount f rid key t)).map fun t =>
    (t, idx - recFirst f rid key t)

/-- A frame of element state of an element in region rid. -/
def stateRead (f : Fab) (rid : Option Nat) (key idx : Nat) : BitVec 256 :=
  let e := elemOf f key
  let dir (t : Nat) : Nat := if recCount f rid key t = 0 then 0 else recFirst f rid key t % 8192 + recCount f rid key t % 8192 * 2 ^ 13
  if idx < 2 then BitVec.ofNat 256 (packLanes 32 ((List.range 8).map fun i => dir (8 * idx + i)))
  else match recOf f rid key idx with
  | none => 0
  | some (t, j) => match t with
    | 0 => pstate (planeOf e j)
    | 1 => regsRead (planeOf e (j / 35)).run (j % 35)
    | 5 => accsRead e j
    | 8 => BitVec.ofNat 256 (packLanes 64 (((firnWords e).drop (4 * j)).take 4))
    | 14 => e.dbg.setWidth 256
    | _ => recRead (recItems f rid key t) f j

/-- A write of a frame of element state; the directory takes none. -/
def stateWrite (f : Fab) (rid : Option Nat) (key idx : Nat) (v : BitVec 256) : Fab :=
  match (if idx < 2 then none else recOf f rid key idx) with
  | none => f
  | some (t, j) => match t with
    | 0 => modElem f key fun e => modPlane e j fun p => pstateWrite p v
    | 1 => modElem f key fun e => modRun e (j / 35) fun r => regsWrite r (j % 35) v
    | 5 => modElem f key fun e => accsWrite e j v
    | 8 => modElem f key fun e =>
      let ws := firnWords e
      firnFrom e (ws.take (4 * j) ++ ((List.range 4).map fun i => fld v.toNat (64 * i) 64) ++ ws.drop (4 * j + 4))
    | 14 => modElem f key fun e => { e with dbg := if kindOf key = .ag then v.setWidth 64 else v.setWidth 64 &&& 0xEF000000FFFFFFFF }
    | _ => recWrite (recItems f rid key t) f j v

end Sys2Proof.Machine
end

