-- ==== Sys2Proof/Machine/Frames.lean ====
section
/-! DEFINITION. Configuration space: frames and their checks, reads and writes of every space, and the state that a bind sets (01 R36-R38,
08 R213-R239, 14 R400, 15 R433-R435). -/

namespace Sys2Proof.Machine

/-! ### Frames of a plane space (R218-R223) -/

/-- Frames of a plane space. -/
def planeFrames (key : Nat) : Nat :=
  match kindOf key with
  | .compute => 45 | .memory => 8 | .ag => 25 | _ => 0

/-- Frames of element storage (R226). -/
def storeFrames (key : Nat) : Nat :=
  match kindOf key with
  | .compute => 4096 | .memory => 6144 | .ag => 4096 | .core => 6144 | _ => 0

/-- Frames of a space of an element (R37, R224). -/
def spaceFrames (key space : Nat) : Nat :=
  match space with
  | 4 => if kindOf key = .config ∨ kindOf key = .linkHub then 0 else 8192
  | 5 => storeFrames key
  | 6 => 64
  | 7 => 0
  | _ => if space < 4 then planeFrames key else 0

/-- Slot words of a slot frame. -/
def frameSlots (v : Nat) : List Nat := [fld v 0 128, fld v 128 128]

/-- The checks of a slot word that depend on it alone; a slot with valid 0 is ignored (R247). -/
def slotWordOk (mt : Bool) (w : Nat) : Bool := !swValid w || slotNow mt (swOp w) (slotFields w)

/-- Reserved fields of PLANECTL, FN up to 16 (R179), and the VCs that its back edges and its chain's queue name (R183). -/
def planeCtlOk (v : Nat) : Bool :=
  fld v 48 16 == 0 && fld v 19 4 == 0 && fld v 10 6 == 0 && fld v 0 4 == 0 && decide (fld v 5 5 ≤ 16) &&
    ((List.range 16).all fun i => !bit v (32 + i) || vcOk (bit v 4) (0x20 + i)) &&
    ((List.range 8).all fun i => !bit v (24 + i) || vcOk (bit v 4) (0x40 + i)) && (!bit v 23 || vcOk (bit v 4) (0x40 + fld v 16 3))

/-- BANKCTL (R106). -/
def bankCtlOk (v : Nat) : Bool := fld v 29 35 == 0 && decide (fld v 24 5 ≤ 16) && fld v 21 3 == 0 && fld v 8 8 == 0 && fld v 5 2 == 0

/-- REPL of a plane (R219, R221). -/
def replOf (key : Nat) (p : Plane) : Bool :=
  if kindOf key = .memory then bit (tget 0 p.frames 4).toNat 128 else bit (tget 0 p.frames 8).toNat 72

/-- The checks of a stream's third frame that depend on it alone (R95, R115, R217, R223); a stream with EN 0 is ignored. -/
def streamNow (c : Nat) : Bool :=
  !bit c 32 ||
    (fld c 77 179 == 0 && fld c 51 5 == 0 && !bit c 39 && latchOk (fld c 0 32) &&
      (if bit c 72 then bit c 34 && bit c 33 && accLegal (fld c 73 4) (fld c 0 8) else fld c 73 4 == 0) &&
      decide (fld c 56 8 / 16 = if bit c 34 then 2 else 3) && (!bit c 38 || (!bit c 34 && fld c 40 8 != 0)) && fld c 36 2 != 3 &&
      (!bit c 35 || fld c 0 8 != 0x0A))

/-- The checks of a plane-space frame that depend on it alone or on the element's other planes (R217-R223, R334). -/
def planeFrameOk (e : Elem) (key plane idx : Nat) (frame : BitVec 256) : Bool :=
  let v := frame.toNat
  match kindOf key with
  | .compute =>
    if idx < 8 then (frameSlots v).all (slotWordOk false)
    else if idx = 8 then
      let am := fld v 64 4
      fld v 73 183 == 0 && planeCtlOk (v % 2 ^ 64) && (!bit v 4 || decide (((List.range 4).countP fun j => bit am j) ≤ 1)) &&
        [0, 1, 2, 3].all fun n => n == plane || (planeOf e n).st == .empty || Nat.land am (amaskOf (planeOf e n)) == 0
    else idx != 44 || fld v 192 64 == 0
  | .memory =>
    if idx < 4 then (frameSlots v).all (slotWordOk true)
    else if idx = 4 then fld v 129 127 == 0 && planeCtlOk (v % 2 ^ 64) && fld v 66 62 == 0 && fld v 64 2 != 3
    else if idx = 5 then [0, 1, 2, 3].all fun j => bankCtlOk (fld v (64 * j) 64)
    else if idx = 6 then fld v 128 128 == 0 && bankCtlOk (fld v 0 64) && bankCtlOk (fld v 64 64)
    else fld v 192 64 == 0
  | .ag => if idx = 24 then fld v 64 192 == 0 && planeCtlOk (v % 2 ^ 64) else idx % 3 != 2 || streamNow v
  | _ => false

/-- CNT k of a stream's first frame. -/
def cntOf (a : Nat) (k : Nat) : Nat := fld a (64 + 32 * k) 32

/-- The configuration of a stream against R95, R100, R115, R223; a stream with EN 0 is ignored. -/
def streamOk (drift : Bool) (a b c : Nat) : Bool :=
  let w := 2 ^ fld c 36 2
  !bit c 32 ||
    (streamNow c && fld b 240 16 == 0 && vcOk drift (fld c 56 8) && (List.range 6).all (fun k => cntOf a k != 0) &&
      (!bit c 35 || (fld b 0 40 == w && cntOf a 1 % (64 / w) == 0 && decide (cntOf a 0 * cntOf a 1 * w ≤ 4096))))

/-- Valid slots of a class in a plane, a distributor counting as one movement slot (R400). -/
def classCount (key : Nat) (p : Plane) (c : IssueClass) : Nat :=
  ((validSlots key p).countP fun n => opClass (swOp (slotWordOf p n)) == c) + (if c = .movement then p.stages.countP fun x => x.dist else 0)

/-- The issue budget of a plane beside each other non-empty owner plane (R400). -/
def budgetOk (e : Elem) (key plane : Nat) : Bool :=
  let p := planeOf e plane
  isDrift key p || [IssueClass.vector, .matrix, .movement, .memory].all fun c =>
    [0, 1, 2, 3].all fun n =>
      let q := planeOf e n
      let other := if n ≠ plane ∧ q.st ≠ .empty ∧ !isDrift key q then classCount key q c else 0
      decide (classCount key p c + other ≤ 4)

/-- The queues that hacc and flres slots of a plane name are one (R377). -/
def accQueueOk (key : Nat) (p : Plane) : Bool :=
  let qs := ((validSlots key p).filter fun n => swOp (slotWordOf p n) == 0x310 || swOp (slotWordOf p n) == 0x311).map fun n =>
    fld (slotWordOf p n) 62 8
  qs.all fun q => qs.head? == some q

/-- The checks of a plane that depend on several frames (R217, R228, R400). -/
def planeLate (e : Elem) (key plane : Nat) : Bool :=
  let p := planeOf e plane
  let d := isDrift key p
  let env : SlotEnv := ⟨d, replOf key p, amaskOf p⟩
  let slots := (validSlots key p).all fun n => slotLate env (swOp (slotWordOf p n)) (slotFields (slotWordOf p n))
  match kindOf key with
  | .compute => slots && accQueueOk key p && budgetOk e key plane
  | .memory => slots && budgetOk e key plane && ([0, 1, 2, 3, 4, 5].all fun b => !bLend p b || (!d && ilvOf p == 0))
  | .ag => (List.range 8).all fun s =>
      streamOk d (tget 0 p.frames (3 * s)).toNat (tget 0 p.frames (3 * s + 1)).toNat (tget 0 p.frames (3 * s + 2)).toNat
  | _ => true

/-! ### Route tables (R183, R224, R510) -/

/-- Entries of a route-table frame: input selector and entry. -/
def routeEntries (v : Nat) : List (Nat × Nat) :=
  (List.range 16).map (fun i => (0x20 + i, fld v (4 * i) 4)) ++ (List.range 8).map fun i => (0x40 + i, fld v (64 + 4 * i) 4)

/-- The checks of a route-table frame that depend on it alone (R224). -/
def routeFrameOk (frame : BitVec 256) : Bool :=
  fld frame.toNat 96 160 == 0 && (routeEntries frame.toNat).all fun q =>
    decide (q.2 % 8 ≤ 4) && (!bit q.2 3 || q.2 % 8 != selDir q.1)

/-- The checks of a route-table frame as it is written: those on it alone, and that no PORT leads out of its region (R217, R224). -/
def routeNow (f : Fab) (key : Nat) (frame : BitVec 256) : Bool :=
  routeFrameOk frame && (routeEntries frame.toNat).all fun q => !bit q.2 3 || q.2 % 8 == 4 || !isBorder f key (q.2 % 8)

/-- The check of a route table against its image's kind (R183, R224). -/
def routeLate (drift : Bool) (frame : BitVec 256) : Bool := (routeEntries frame.toNat).all fun q => !bit q.2 3 || vcOk drift q.1

/-! ### Writes outside a load (R38) -/

/-- Plane n of an element takes no write (R38): bound or retiring, being loaded, or held by a swap that has passed its check. -/
def planeHeld (f : Fab) (key n : Nat) : Bool :=
  let st := (planeHome f key n).st
  st == .bound || st == .retiring || f.loads.any (fun l => l.plane == n && decide (l.x0 ≤ keyCore key % 8 ∧ keyCore key % 8 < l.x0 + l.w ∧
      l.y0 ≤ keyCore key / 8 ∧ keyCore key / 8 < l.y0 + l.h)) ||
    (match regionOf f (keyCore key) with
      | some (_, r) => swapHeld r n
      | none => false)

/-- The core's region stands stopped, or the core belongs to none (R38). -/
def stoppedAt (f : Fab) (key : Nat) : Bool :=
  match regionOf f (keyCore key) with
  | none => true
  | some (_, r) => r.phase == 4

/-! ### Element storage (R226) -/

/-- A frame of element storage. -/
def storeRead (f : Fab) (key idx : Nat) : BitVec 256 :=
  let e := elemOf f key
  match kindOf key with
  | .compute => BitVec.ofNat 256 (mgetN e.ct.ls (32 * idx) 32)
  | .memory => BitVec.ofNat 256 (mgetN e.mt.data (32 * idx) 32)
  | .core =>
    let c := ccOf f (keyCore key)
    if idx < 2048 then BitVec.ofNat 256 (mgetN c.isram (32 * idx) 32) else BitVec.ofNat 256 (mgetN c.dsram (32 * (idx - 2048)) 32)
  | .ag =>
    let l : Option Line := if idx < 2048 then (e.ag.hold[idx / 2]?).map fun h => h.data
      else (e.ag.replay[(idx - 2048) / 2]?).map fun q => q.2.2.2.data
    match l with
    | some x => BitVec.ofNat 256 (fld x.toNat (256 * (idx % 2)) 256)
    | none => BitVec.ofNat 256 (mgetN e.ag.buf (32 * idx) 32)
  | _ => 0

/-- Writes a frame of element storage; a scratchpad line's tag is written FMT 0x00 and SCALE 0x7F with a valid CHECK (R226). Which
stream-buffer frames the held stores and kept tokens take is the model's (log 20). -/
def storeWrite (f : Fab) (key idx : Nat) (v : BitVec 256) : Fab :=
  let half (l : Line) : Line := BitVec.ofNat 512 (setFld l.toNat (256 * (idx % 2)) 256 v.toNat)
  match kindOf key with
  | .compute => modElem f key fun e =>
      { e with ct := { e.ct with ls := mputN e.ct.ls (32 * idx) 32 v.toNat, bad := e.ct.bad.filter fun w => w / 4 != idx } }
  | .memory => modMt f key fun m =>
      putCheck { clearBad m (32 * idx) 32 with data := mputN m.data (32 * idx) 32 v.toNat, tags := tput 0 m.tags (idx / 2) 0x7F00 }
        (idx / 1024) (idx % 1024 / 2)
  | .core => modCc f (keyCore key) fun c =>
      if idx < 2048 then { c with isram := mputN c.isram (32 * idx) 32 v.toNat, bad := c.bad.filter fun w => w / 4 != idx }
      else sramWrite c (32 * (idx - 2048)) 32 v.toNat
  | .ag => modElem f key fun e =>
      let g := { e.ag with buf := mputN e.ag.buf (32 * idx) 32 v.toNat }
      if idx < 2048 then { e with ag := { g with hold := lmod g.hold (idx / 2) fun h => { h with data := half h.data } } }
      else { e with ag := { g with replay := lmod g.replay ((idx - 2048) / 2) fun q => (q.1, q.2.1, q.2.2.1, { q.2.2.2 with data := half q.2.2.2.data }) } }
  | _ => f

/-- A configuration-path write of a frame of element storage: in a local store it is logged in the journal for the owner plane's current
round, and it is refused when the journal has no place (R110; log 20). -/
def storeLogged (f : Fab) (key idx : Nat) (v : BitVec 256) : Option Fab :=
  let e := elemOf f key
  match if kindOf key = .compute then [0, 1, 2, 3].find? fun n => (planeOf e n).st == .bound && !isDrift key (planeOf e n) else none with
  | none => some (storeWrite f key idx v)
  | some n =>
    let c := lsJournal e.ct n (planeOf e n).run.round (idx / 2)
    if 32 < c.jr.length then none else some (storeWrite (modElem f key fun e => { e with ct := c }) key idx v)

/-! ### Link state (R435) -/

/-- Permits held for an output selector. -/
def permitsOf (n : Net) (key sel : Nat) : Nat := linkSlots key (selDir sel) - tget 0 n.used sel + tget 0 n.extra sel

/-- The link state frame of a switch. -/
def linkRead (e : Elem) (key : Nat) : BitVec 256 :=
  let n := e.net
  let sum (l : List (Nat × Nat)) : Nat := l.foldl (fun a q => a + q.1 * 2 ^ q.2) 0
  BitVec.ofNat 256 (sum
    ((List.range 16).map (fun i => (permitsOf n key (0x30 + i) % 32, 5 * i)) ++
      (List.range 8).map (fun i => (permitsOf n key (0x48 + i) % 32, 80 + 5 * i)) ++
      (List.range 5).map (fun p => (tget 0 n.arbw p % 4, 120 + 2 * p)) ++
      (List.range 5).map (fun p => (tget 0 n.arbn p % 2, 130 + p)) ++
      (List.range 4).map fun d => (b2n (crossesDie key d), 136 + d)))

/-- Writes the link state frame of a switch: permits above a link's slot count are kept until the clock restarts. -/
def linkWrite (e : Elem) (key : Nat) (v : BitVec 256) : Elem :=
  let set (n : Net) (sel x : Nat) : Net :=
    let k := linkSlots key (selDir sel)
    { n with used := tput 0 n.used sel (k - x), extra := tput 0 n.extra sel (x - k) }
  let n := (List.range 16).foldl (fun n i => set n (0x30 + i) (fld v.toNat (5 * i) 5)) e.net
  let n := (List.range 8).foldl (fun n i => set n (0x48 + i) (fld v.toNat (80 + 5 * i) 5)) n
  let n := (List.range 5).foldl (fun n p =>
    { n with arbw := tput 0 n.arbw p (fld v.toNat (120 + 2 * p) 2), arbn := tput 0 n.arbn p (fld v.toNat (130 + p) 1) }) n
  { e with net := n }

/-- PLANECTL's frame of an element's plane space. -/
def ctlFrame (key : Nat) : Nat :=
  match kindOf key with
  | .compute => 8 | .memory => 4 | _ => 24

/-- A frame with FN written by the loader (R179). -/
def withFn (key idx fn : Nat) (v : BitVec 256) : BitVec 256 :=
  if idx = ctlFrame key then BitVec.ofNat 256 (setFld v.toNat 5 5 fn) else v

/-! ### Frame access by address (R36-R38) -/

/-- The region that a core belongs to, by number. -/
def ridAt (f : Fab) (key : Nat) : Option Nat := (regionOf f (keyCore key)).map fun q => q.1

/-- A frame as a read finds it: zero where nothing stands, all ones where the region runs (R37, R38, R247). -/
def cfgRead (f : Fab) (key space idx : Nat) : BitVec 256 :=
  if spaceFrames key space ≤ idx then 0
  else match space with
  | 4 => if stoppedAt f key then stateRead f (ridAt f key) key idx else BitVec.allOnes 256
  | 5 => if stoppedAt f key then storeRead f key idx else BitVec.allOnes 256
  | 6 =>
    if idx < 4 then tget 0 (elemOf f key).net.routes idx
    else if !stoppedAt f key then BitVec.allOnes 256
    else if idx = 4 then linkRead (elemOf f key) key else 0
  | n => if n < 4 then tget 0 (planeOf (elemOf f key) n).frames idx else 0

/-- A frame that a read cannot give: of a scratchpad line with an uncorrectable error, whose reader gets no data (03 R76-R78). -/
def frameBad (f : Fab) (key space idx : Nat) : Bool :=
  space == 5 && kindOf key == .memory && decide (idx < 6144) && stoppedAt f key && lineBad (elemOf f key).mt (idx / 1024) (idx % 1024 / 2)

/-- Writes a frame of a plane without a check; a frame that no image copy has is noted (R415). -/
def putFrame (f : Fab) (key n idx : Nat) (v : BitVec 256) (image : Bool) : Fab :=
  modElem f key fun e => modPlane e n fun p =>
    { p with frames := tput 0 p.frames idx v, bad := p.bad.filter (fun i => i != idx)
             patched := if image then p.patched.filter fun i => i != idx else if p.patched.contains idx then p.patched else idx :: p.patched }

/-- Writes a route-table frame without a check. -/
def putRoute (f : Fab) (key n : Nat) (v : BitVec 256) : Fab := modNet f key fun t =>
  { t with routes := tput 0 t.routes n v, badRoutes := t.badRoutes.filter fun i => i != n }

/-- A write of a frame over the configuration path; none when it is refused (R37, R38, R217). -/
def cfgWrite (f : Fab) (key space idx : Nat) (v : BitVec 256) : Option Fab :=
  if spaceFrames key space ≤ idx then none
  else match space with
  | 4 => if stoppedAt f key then some (stateWrite f (ridAt f key) key idx v) else none
  | 5 => if stoppedAt f key then storeLogged f key idx v else none
  | 6 =>
    if idx < 4 then
      if planeHeld f key idx ∨ !routeNow f key v ∨ !routeLate (isDriftHome f key idx) v then none else some (putRoute f key idx v)
    else if idx = 4 ∧ stoppedAt f key then some (modElem f key fun e => linkWrite e key v)
    else none
  | n =>
    if 4 ≤ n ∨ planeHeld f key n ∨ !planeFrameOk (elemOf f key) key n idx v then none
    else
      let f' := putFrame f key n idx v false
      if planeLate (elemOf f' key) key n then some f' else none
where
  /-- The kind of plane n at a switch. -/
  isDriftHome (f : Fab) (key n : Nat) : Bool :=
    if hasPlanes key then isDrift key (planeOf (elemOf f key) n)
    else match regionOf f (keyCore key) with
      | none => false
      | some (_, r) => match (planeKeys r).head? with
        | some k => isDrift k (planeOf (elemOf f k) n)
        | none => false

/-! ### State at bind (R237) -/

/-- The run state of a plane as it becomes bound. -/
def bindRun (key : Nat) (p : Plane) : PRun :=
  let fr (i : Nat) : Nat := (tget 0 p.frames i).toNat
  match kindOf key with
  | .compute =>
    { v := (List.range 16).foldl (fun t j => tput 0 t j (BitVec.ofNat 512 (fr (12 + 2 * j) + fr (13 + 2 * j) * 2 ^ 256))) []
      k := (List.range 8).foldl (fun t j => tput 0 t j (BitVec.ofNat 64 (fld (fr (10 + j / 4)) (64 * (j % 4)) 64))) []
      a := (List.range 8).foldl (fun t j => tput 0 t j (BitVec.ofNat 32 (fld (fr 9) (32 * j) 32))) []
      p := BitVec.ofNat 4 (fld (fr 8) 68 4) }
  | _ => {}

/-- A plane of an element becomes bound (R237): registers from its frames, everything of the context's rounds clear. The acceptance counters of a
context are those of the banks that it may use (log 74). No transition is given for a plane that a patrol parity error has emptied after its
placement, or after the check at T - H: it is bound as it stands, its frames zero (R190; the model's choice, log 74). -/
def bindPlane (f : Fab) (key n : Nat) (succ : Bool) : Fab :=
  modElem f key fun e =>
    let e := modPlane e n fun p =>
      { p with st := .bound, revoked := false, succ := succ, brkskip := false, cround := 0xFFFFFFFF, run := bindRun key p, cyc0 := e.cyc
               ckpts := [{ round := 0, run := bindRun key p, halves := e.ct.halves.filter fun h => h.2.owner == some n }], told := none }
    { e with
      firn := e.firn.filter fun x => x.ctx != n
      heldW := e.heldW.filter fun q => q.1 % 4 != n
      out := tput 0 e.out n 0
      badReg := e.badReg.filter fun b => b.1 != n
      net := { e.net with backlog := e.net.backlog.filter fun b => b.1 != n }
      mt := { e.mt with sects := e.mt.sects.filter (fun y => y.plane != n), accepted := e.mt.accepted.filter fun t => !bankAllowed f key n (t.1 / 17) } }

end Sys2Proof.Machine
end

