-- ==== Sys2Proof/Machine/Streams.lean ====
section
/-! DEFINITION. AG nodes: stream accesses, their emission, the hold and replay sides, and the command stream (02 R54-R56, 03 R95-R100,
04 R115-R122, 05 R509, 10 R288-R292). -/

namespace Sys2Proof.Machine

/-! ### The nest of a stream (R115, R116) -/

/-- Frame j (0 to 2) of stream i. -/
def strFrame (p : Plane) (i j : Nat) : Nat := (tget 0 p.frames (3 * i + j)).toNat

/-- Number of accesses of a stream. -/
def nestTotal (p : Plane) (i : Nat) : Nat := (List.range 6).foldl (fun n k => n * cntOf (strFrame p i 0) k) 1

/-- Address sum over the levels from k on, with n levels left and the remaining linear index. -/
def nestSum (a b : Nat) : Nat → Nat → Nat → Nat
  | 0, _, _ => 0
  | n + 1, k, pos => copySrc.wrapSx 40 (fld b (40 * k) 40) (pos % cntOf a k) + nestSum a b n (k + 1) (pos / cntOf a k)

/-- Address of the access with a linear index (R116). -/
def nestAddr (p : Plane) (i pos : Nat) : Nat :=
  (fld (strFrame p i 0) 0 64 + nestSum (strFrame p i 0) (strFrame p i 1) 6 0 pos) % 2 ^ 64

/-- XPOSE of a stream (R100, R116). -/
def strXp (p : Plane) (i : Nat) : Bool := strFld p i 35 1 == 1
/-- A read stream that transposes its blocks (R100). -/
def strXpR (p : Plane) (i : Nat) : Bool := strXp p i && !strDir p i
/-- Element width of a transposed stream in bytes. -/
def strW (p : Plane) (i : Nat) : Nat := 2 ^ strFld p i 36 2
/-- Elements and tokens of a block (R100). -/
def blockEls (p : Plane) (i : Nat) : Nat := cntOf (strFrame p i 0) 0 * cntOf (strFrame p i 0) 1
/-- Tokens of a block (R100). -/
def blockToks (p : Plane) (i : Nat) : Nat := cntOf (strFrame p i 0) 0 * (cntOf (strFrame p i 0) 1 / (64 / strW p i))
/-- Bytes of an access (R116): of a write stream with XPOSE, the first W bytes of its token (log 51). -/
def strSize (p : Plane) (i : Nat) : Nat := if strXp p i then strW p i else 64
/-- EDGE, ACC, EGRP, EWT of a stream (R223). -/
def strEdge (p : Plane) (i : Nat) : Bool := strFld p i 38 1 == 1
/-- ACC. -/
def strAcc (p : Plane) (i : Nat) : Bool := strFld p i 72 1 == 1
/-- EGRP. -/
def strGrp (p : Plane) (i : Nat) : Nat := strFld p i 48 3
/-- EWT. -/
def strWt (p : Plane) (i : Nat) : Nat := strFld p i 40 8
/-- CTAG of a read stream. -/
def strTag (p : Plane) (i : Nat) : Byte := BitVec.ofNat 8 (strFld p i 64 8)

/-- The state of a stream. -/
def strSt (p : Plane) (i : Nat) : StreamSt := tget {} p.run.streams i
/-- Changes the state of a stream. -/
def modStr (f : Fab) (key n i : Nat) (g : StreamSt → StreamSt) : Fab :=
  modElem f key fun e => modRun e n fun r => { r with streams := tmod {} r.streams i g }
/-- Format latch of a stream as it stands (R95). -/
def strLatch (p : Plane) (i : Nat) : Nat := ((strSt p i).latch.getD (BitVec.ofNat 32 (strFld p i 0 32))).toNat

/-- The addresses of the line accesses that n bytes from an address make (R55). -/
def lineSpan (a n : Nat) : List Nat := if 64 < a % 64 + n then [a, (lineBase a + 64) % 2 ^ 64] else [a]

/-- n bytes from an offset of one or two lines. -/
def fromLines (ls : List Line) (off n : Nat) : Line :=
  match ls with
  | [] => 0
  | [x] => BitVec.ofNat 512 (fld x.toNat (8 * off) (8 * n))
  | x :: y :: _ => BitVec.ofNat 512 (fld (x.toNat + y.toNat * 2 ^ 512) (8 * off) (8 * n))

/-- An access of a typed format whose address is not a multiple of its element size (R99). -/
def alignBad (fmt a : Nat) : Bool := if fmt = 0x0A then a % 64 != 0 else fmt != 0 && a % fmtSize fmt != 0

/-! ### Translation (R54, R55) -/

/-- What translating the lines of an access gives: physical addresses with routes, a refill wanted with the first line's translation
kept, or a fault with its information word. -/
inductive XRes where
  | ok (pas : List (Nat × Nat))
  | refill (va : Nat) (half : Option (Nat × Nat))
  | fault (cause : Nat) (info : Word)
  deriving DecidableEq, Repr

/-- Translates one address with the entry a stream holds (R54): its line and route. -/
def xlateOne (h : Hub) (t : Option TEnt) (part fn va kind : Nat) (sup : Bool) : XRes :=
  if 2 ^ 52 ≤ va then .fault 6 (tInfo 1 7 fn va)
  else match t.filter fun e => tCovers e part fn va with
  | none => .refill va none
  | some e => match tCheck h e va kind sup with
    | some sub => .fault 6 (tInfo sub 7 fn va)
    | none => .ok [(lineBase (tPa e va), pteRoute e.leaf.toNat)]

/-- Translates the one or two lines of an access in turn (R55). -/
def xlate (h : Hub) (t : Option TEnt) (half : Option (Nat × Nat)) (part fn kind : Nat) (sup : Bool) (vas : List Nat) : XRes :=
  match vas with
  | [] => .ok []
  | [a] => xlateOne h t part fn a kind sup
  | a :: b :: _ =>
    let first := match half with
      | some x => XRes.ok [x]
      | none => xlateOne h t part fn a kind sup
    match first with
    | .ok (x :: _) => match xlateOne h t part fn b kind sup with
      | .ok y => .ok (x :: y)
      | .refill va _ => .refill va (some x)
      | z => z
    | z => z

/-- Asks the die's walker for a translation (R54, R58, R59): the class is that of the launch that placed the region. -/
def askWalk (f : Fab) (m : MemSys) (w : Walk) : MemSys :=
  let dl : Bool := match regionOf f (keyCore w.key) with
    | some (_, r) => lClass r.launch == 0
    | none => false
  walkAsk m (dieOf (keyCore w.key)) { w with dl := dl }

/-! ### Scratchpad lines over the configuration path (R31, R117, R289) -/

/-- The place of a scratchpad line for a context, or the cause and kind that its address meets (R31, R128). -/
def spAim (f : Fab) (core plane a : Nat) : (Nat × Nat × Nat) ⊕ (Nat × Nat) :=
  if 2 ^ 32 ≤ a then .inr (6, 1)
  else match spLocate f core plane a with
  | none => .inr (6, 1)
  | some (k, b, l) => if bankAllowed f k plane b then .inl (k, b, l) else .inr (6, 3)

/-! ### Readiness (R116, R117) -/

/-- A fault that a stream raised waits at the round controller (R204). -/
def strFaulted (f : Fab) (key n i : Nat) : Bool :=
  match regionOf f (keyCore key) with
  | none => true
  | some (_, r) => (ctxOf r n).faults.any fun x => x.key == key && (x.stream == some i || (x.stream.isNone && x.cause == 0))

/-- Accesses to the scratchpad of a round of a context may issue (R117 step 2). -/
def sp1Ready (f : Fab) (key n : Nat) (round : BitVec 32) : Bool :=
  match regionOf f (keyCore key) with
  | none => false
  | some (_, r) => (round == 0 || allEntered f r n round) && spOpen f key n

/-- Reads of a stream that stand in flight. -/
def inFlight (e : Elem) (n i : Nat) : Nat := e.ag.reads.countP fun q => q.plane == n && q.stream == i

/-- A scratchpad read whose lines have not all come from their banks (R117). -/
def spWaits (q : ReadOut) : Bool := q.id != 0 && q.line.isNone

/-- Every scratchpad access that an AG node has issued for a context has performed (R117 step 1). -/
def spDone (e : Elem) (n : Nat) : Bool :=
  (List.range 8).all (fun i => tget 0 e.ag.spw (8 * n + i) == 0) && e.ag.reads.all fun q => q.plane != n || !spWaits q

/-- The number of accesses a stream makes: its nest's, or those before the swap that ended it (R116, R404). -/
def strTotal (p : Plane) (i : Nat) : Nat := match (strSt p i).last with
  | none => nestTotal p i
  | some n => Nat.min n (nestTotal p i)

/-- A pair of plane and stream has an access to issue, its credit apart. -/
def pairOpen (f : Fab) (key n i : Nat) : Bool :=
  let e := elemOf f key
  let p := planeOf e n
  let st := strSt p i
  p.st == .bound && strEn p i && !p.revoked && st.wait == 0 && decide (st.pos < strTotal p i) && !strFaulted f key n i &&
    (if strDir p i then
      headOk e n 0 0 (strQ p i) && (!strSpace p i || (tget 0 e.ag.spw (8 * n + i) == 0 && sp1Ready f key n p.run.round)) &&
        (!strAcc p i || (!firnFull key e n && p.run.flush.isEmpty))
    else decide (e.ag.reads.length < 64) && (!strSpace p i || (inFlight e n i == 0 && sp1Ready f key n st.round &&
        (!strEdge p i || (match regionOf f (keyCore key) with
          | none => false
          | some (rid, r) => decide (st.count < edgeU f rid r n st.round (strGrp p i) * strWt p i))))))

/-- An access takes a credit: an edge read stream's access that emits a data token; of a transposed stream the one that completes a block
(R197, R482). -/
def creditAt (p : Plane) (i pos : Nat) : Bool := strEdge p i && !strDir p i && (!strXp p i || (pos + 1) % blockEls p i == 0)
/-- The next access of a stream takes a credit. -/
def needsCredit (p : Plane) (i : Nat) : Bool := creditAt p i (strSt p i).pos

/-- Order in which requests for credits are served: owner before drift, then (y, x) and stream number (R482). -/
def creditRank (f : Fab) (key n i : Nat) : Nat :=
  b2n (isDrift key (planeOf (elemOf f key) n)) * 2 ^ 16 + (gy key * 80 + gx key) * 8 + i

/-- A kept token that an edge read stream emits again stands ready for a credit (R120, R482). -/
def againOpen (e : Elem) (n i : Nat) : Bool :=
  let p := planeOf e n
  p.st == .bound && !p.revoked && !e.gated && strEn p i && strEdge p i && !strDir p i && (strSt p i).again.head?.any (fun t => t.kind == 0) &&
    decide (1 ≤ outRoom e (strQ p i))

/-- Requests for credits of a node in a tile cycle that rank before a given one: its access, if it has still to issue one, and the kept tokens that
it emits again (R482). -/
def creditsAhead (f : Fab) (k rank : Nat) : Nat :=
  let e := elemOf f k
  let pairs := [0, 1, 2, 3].flatMap fun m => (List.range 8).map fun j => (m, j)
  let first := pairs.filter fun q => decide (creditRank f k q.1 q.2 < rank)
  b2n (!e.issued.contains .memory && !e.gated && first.any fun q => needsCredit (planeOf e q.1) q.2 && pairOpen f k q.1 q.2) +
    first.countP fun q => againOpen e q.1 q.2

/-- A stream may take a credit: those asked for before it leave one, and a drift stream finds more than half the capacity (R482). -/
def creditOk (f : Fab) (key n i : Nat) : Bool :=
  match regionOf f (keyCore key) with
  | none => true
  | some (_, r) =>
    let ahead := (((planeKeys r).filter fun k => kindOf k == .ag).map fun k => creditsAhead f k (creditRank f key n i)).sum
    decide (ahead < r.bucket) && (!isDrift key (planeOf (elemOf f key) n) || decide (r.bcap < 2 * r.bucket))

/-- Gives credits back to the bucket of a region, up to its capacity, for reads that are to be issued again. -/
def giveCredit (f : Fab) (key k : Nat) : Fab :=
  match regionOf f (keyCore key) with
  | none => f
  | some (rid, _) => modRegion f rid fun r => { r with bucket := max r.bucket (min r.bcap (r.bucket + k)) }

/-- Takes a credit from the bucket of a region (R482). -/
def takeCredit (f : Fab) (key : Nat) : Fab :=
  match regionOf f (keyCore key) with
  | none => f
  | some (rid, _) => modRegion f rid fun r => { r with bucket := r.bucket - 1 }

/-- A pair of plane and stream has an access to issue now (R116, R483). -/
def pairReady (f : Fab) (key n i : Nat) : Bool :=
  pairOpen f key n i && (!needsCredit (planeOf (elemOf f key) n) i || creditOk f key n i)

/-- Flush accumulates of an AG node and plane that their banks have not accepted. -/
def flushOwed (f : Fab) (key n : Nat) : Bool :=
  let mine (q : MemReq) : Bool := q.port == 16 && q.fl && q.key == key && q.plane == n
  !(planeOf (elemOf f key) n).run.flush.isEmpty ||
    (match regionOf f (keyCore key) with
      | none => false
      | some (_, r) => (planeKeys r).any fun k => (elemOf f k).mt.cfgq.any mine || (elemOf f k).mt.bankq.any fun b => b.2.any mine)

/-- A command of the inbox can go on: it has not finished and waits on no translation and no bank; an sbind not for another of its stream that is
pending, an aflush not for its addends or a revoked plane (R289-R292). -/
def cmdCan (f : Fab) (key : Nat) (c : AgCmd) : Bool :=
  let b := mgetN c.block 0 8
  c.fin.isNone && c.wait == 0 && match c.cmd with
    | 0 => true
    | 1 =>
      let p := planeOf (elemOf f key) (fld b 4 2)
      !c.on && !(p.st == .bound && thas p.sbind (fld b 0 3))
    | _ => !(planeOf (elemOf f key) (c.d.toNat % 4)).revoked && (c.pos == 0 || !flushOwed f key (c.d.toNat % 4))

/-- The commands among which the command stream takes its next access: those started, and the oldest that is not (R280). -/
def cmdNexts (f : Fab) (key : Nat) : List AgCmd :=
  let box := (elemOf f key).ag.inbox
  (box.filter (fun c => c.on) ++ (box.find? fun c => !c.on).toList).filter (cmdCan f key)

/-- The command stream has something to do. -/
def cmdReady (f : Fab) (key : Nat) : Bool := !(cmdNexts f key).isEmpty

/-- The pair that issues next: owner pairs and the command stream round-robin after the last that issued, then drift pairs
(R116). 32 stands for the command stream. -/
def ringPick (f : Fab) (key : Nat) : Option Nat :=
  let e := elemOf f key
  let order := (List.range 33).map fun j => (e.ag.ring + 1 + j) % 33
  let ok (drift : Bool) (j : Nat) : Bool :=
    if j = 32 then !drift && cmdReady f key
    else isDrift key (planeOf e (j % 4)) == drift && pairReady f key (j % 4) (j / 4)
  (order.find? (ok false)).orElse fun _ => order.find? (ok true)

/-! ### Faults of streams -/

/-- Raises a fault of a stream in a round (R204, R420). -/
def strRaise (s : State) (key n i : Nat) (round : BitVec 32) (cause : Nat) (info0 info1 : Word) : State :=
  { s with fab := raiseFault s.fab (keyCore key) n { cause := cause, key := key, stream := some i, round := round, info0 := info0, info1 := info1 } }

/-- Partition of a core's region. -/
def corePartOf (f : Fab) (core : Nat) : Nat :=
  match regionOf f core with
  | some (_, r) => r.launch.part
  | none => 0

/-- A stream waits for a refill of an address (R54); where the last walk of that address ended in XLATE and no invalidation has covered it since, it
waits for one (R62). -/
def strRefill (s : State) (key n i fn va : Nat) (half : Option (Nat × Nat)) : State :=
  if (strSt (planeOf (elemOf s.fab key) n) i).xva = some va then { s with fab := modStr s.fab key n i fun t => { t with wait := 2, half := half } }
  else { s with
    fab := modStr s.fab key n i fun t => { t with wait := 1, half := half }
    mem := askWalk s.fab s.mem { key := key, stream := i, plane := n, part := corePartOf s.fab (keyCore key), fn := fn, va := va } }

/-- A stream has issued an access and moves past it (R116, R423, R425). -/
def strStep (f : Fab) (key n i : Nat) : Fab :=
  modElem (modStr (busy f key n) key n i fun t => { t with pos := t.pos + 1, half := none }) key fun e =>
    modPlane (openWindow e n) n fun p => brkDone p i

/-! ### Read accesses -/

/-- Issues a read of a virtual address: it stands in flight until its line returns (R54, R55). -/
def readIssue (s : State) (key n i : Nat) : State :=
  let e := elemOf s.fab key
  let p := planeOf e n
  let st := strSt p i
  let a := nestAddr p i st.pos
  let fn := planeFn key p
  match xlate s.hub st.tent st.half (corePartOf s.fab (keyCore key)) fn 0 false (lineSpan a (strSize p i)) with
  | .fault c info => strRaise s key n i st.round c info 0
  | .refill va half => strRefill s key n i fn va half
  | .ok pas =>
    let q : ReadOut := { no := e.ag.nextId, stream := i, plane := n, pos := st.pos, fn := fn, va := a, pas := pas.map fun x => x.1, size := strSize p i }
    let f := if needsCredit p i then takeCredit s.fab key else s.fab
    { s with fab := strStep (modElem f key fun e => { e with ag := { e.ag with reads := e.ag.reads ++ [q], nextId := e.ag.nextId + 1 } }) key n i }

/-- The end of a read's checks with its lines and tags at hand (R99): its data, or a misaligned access. -/
def readDone (p : Plane) (i a size : Nat) (ls : List (Line × BitVec 16)) : Option (Line × BitVec 16) :=
  let tag := (ls.head?.map fun q => q.2).getD 0x7F00
  let l := strLatch p i
  let assign : Bool := fld l 16 2 == 1
  if alignBad (if assign then l % 256 else tag.toNat % 256) a ∨ (!assign && ls.any fun q => q.2 != tag) then none
  else some (fromLines (ls.map fun q => q.1) (a % 64) size, tag)

/-- Issues a scratchpad read: each of its lines goes to its bank over the configuration path (R117). -/
def readSp (s : State) (key n i : Nat) : State :=
  let e := elemOf s.fab key
  let p := planeOf e n
  let st := strSt p i
  let a := nestAddr p i st.pos
  let info : Word := BitVec.ofNat 64 a
  let aims := (lineSpan a (strSize p i)).map fun x => spAim s.fab (keyCore key) n x
  match aims.findSome? fun x => match x with
    | .inr q => some q
    | .inl _ => none with
  | some (c, k) => strRaise s key n i st.round c info (BitVec.ofNat 64 k)
  | none =>
    let id := e.ag.nextId
    let q : ReadOut := { stream := i, plane := n, pos := st.pos, fn := planeFn key p, va := a, size := strSize p i, id := id }
    let f := if needsCredit p i then takeCredit s.fab key else s.fab
    let f := ((aims.zip (lineSpan a (strSize p i))).zipIdx).foldl (fun f x => match x.1.1 with
      | .inr _ => f
      | .inl (k, b, l) => cfgPush f k
          { src := 3, plane := n, slot := i, op := 0x300, bank := b, line := l, addr := BitVec.ofNat 32 (lineBase x.1.2), size := 64
            key := key, id := id, lane := x.2, round := st.round }) f
    { s with fab := strStep (modElem f key fun e => { e with ag := { e.ag with reads := e.ag.reads ++ [q], nextId := id + 1 } }) key n i }

/-- A scratchpad read whose lines have all come stands ready for emission, or meets the checks of R99. -/
def spReadDone (f : Fab) (key : Nat) (q : ReadOut) : Fab :=
  let p := planeOf (elemOf f key) q.plane
  let spans := (lineSpan q.va q.size).length
  if !spWaits q ∨ q.parts.length < spans then f
  else
    let ls := (List.range spans).filterMap fun j => (q.parts.find? fun x => x.1 == j).map fun x => x.2
    match readDone p q.stream q.va q.size ls with
    | some (d, tag) => modRead f key q.id fun r => { r with line := some d, tag := tag }
    | none =>
      let x : FaultRec := { cause := 3, key := key, stream := some q.stream, round := (strSt p q.stream).round
                            info0 := BitVec.ofNat 64 q.va, info1 := 1 }
      raiseFault (modElem f key fun e => { e with ag := { e.ag with reads := e.ag.reads.filter fun r => r.id != q.id } }) (keyCore key) q.plane x

/-- The scratchpad reads of a node in a tile cycle. -/
def spReadTick (f : Fab) (key : Nat) : Fab := (elemOf f key).ag.reads.foldl (fun f q => spReadDone f key q) f

/-- The held bytes of a node merged over a line it reads, in the order they were held (R119). -/
def holdMerge (e : Elem) (pa : Nat) (l : Line) : Line :=
  e.ag.hold.foldl (fun l h => if h.pa = pa then lineAt (mputMask (mputN [] 0 64 l.toNat) 0 h.mask.toNat h.data.toNat 64) 0 else l) l

/-- Reads the lines of a read at the memory nodes, in order (R23, R76). -/
def readLines (m : MemSys) (e : Elem) (part : Nat) : List Nat → MemSys × (List (Line × BitVec 16) ⊕ (HRes × Nat))
  | [] => (m, .inl [])
  | pa :: rest =>
    let r := lineRead m part pa
    match r.2.1 with
    | .ok =>
      let q := readLines r.1 e part rest
      match q.2 with
      | .inl l => (q.1, .inl ((holdMerge e pa r.2.2.1, r.2.2.2) :: l))
      | .inr x => (q.1, .inr x)
    | x => (r.1, .inr (x, pa))

/-- The last committed round of a context at a node (R162). -/
def roundSeen (f : Fab) (key n : Nat) : BitVec 32 :=
  match regionOf f (keyCore key) with
  | some (_, r) => (ctxOf r n).cround
  | none => 0xFFFFFFFF

/-- An earlier read of the same stream has not performed (R150, R156). -/
def readBehind (e : Elem) (idx : Nat) (q : ReadOut) : Bool :=
  (e.ag.reads.take idx).any fun x => x.plane == q.plane && x.stream == q.stream && x.line.isNone

/-- STREAM_READ_RETURN (R63, R76, R78, R99, R119, R156): read number idx of those a node has in flight performs and its data returns, after the
earlier reads of its stream; one that fails is to be made again, and those after it, once its round is discarded (R120, R414). -/
def execStreamReadReturn (key idx : Nat) (s : State) : Out :=
  let e := elemOf s.fab key
  match e.ag.reads[idx]? with
  | none => .next s
  | some q =>
    if q.line.isSome ∨ q.id ≠ 0 ∨ readBehind e idx q then .next s
    else
      let p := planeOf e q.plane
      let left := e.ag.reads.filter fun x => !(x.plane == q.plane && x.stream == q.stream && decide (q.pos ≤ x.pos))
      let back (f : Fab) : Fab := modStr (modElem f key fun e => { e with ag := { e.ag with reads := left } }) key q.plane q.stream fun t => { t with pos := q.pos }
      let drop (s : State) : State := { s with fab := back s.fab }
      let round := (strSt p q.stream).round
      let r := readLines s.mem e (corePartOf s.fab (keyCore key)) q.pas
      let s := poisonPost { s with mem := r.1 }
      match r.2 with
      | .inr (.prot, _) => .next (strRaise (drop s) key q.plane q.stream round 6 (tInfo 11 7 q.fn q.va) 0)
      | .inr (x, pa) => .next (strRaise (drop s) key q.plane q.stream round (hresCause x) (BitVec.ofNat 64 pa) 0)
      | .inl ls => match readDone p q.stream q.va q.size ls with
        | none => .next (strRaise (drop s) key q.plane q.stream round 3 (BitVec.ofNat 64 q.va) 0)
        | some (d, tag) =>
          .next { s with fab := modElem s.fab key fun e =>
            let seen := roundSeen s.fab key q.plane
            { e with ag := { e.ag with reads := lmod e.ag.reads idx fun q => { q with line := some d, tag := tag, seen := seen } } } }

/-! ### Write accesses -/

/-- The CRC-16 of a held store over its address, byte mask, data, FMT and SCALE, in that order from the lowest byte (R75, R470; log 79). -/
def holdCheck (h : Held) : BitVec 16 :=
  BitVec.ofNat 16 (crc16 (natBytes 8 h.pa ++ natBytes 8 h.mask.toNat ++ natBytes 64 h.data.toNat ++ natBytes 2 h.tag.toNat))

/-- Puts bytes of one line into the hold side (R119): merged into the entry of the same line, stream, context and round, or a new
entry, whose check is made anew (R470). A merge into an entry with an error keeps the error. -/
def holdPut (l : List Held) (x : Held) : List Held :=
  let same (h : Held) : Bool := h.pa == x.pa && h.stream == x.stream && h.ctx == x.ctx && h.round == x.round
  let put (h : Held) : Held :=
    let g := { h with mask := h.mask ||| x.mask, tag := x.tag, data := lineAt (mputMask (mputN [] 0 64 h.data.toNat) 0 x.mask.toNat x.data.toNat 64) 0 }
    { g with check := holdCheck g, bad := h.bad || holdCheck h != h.check }
  if l.any same then l.map fun h => if same h then put h else h
  else l ++ [{ x with check := holdCheck x }]

/-- The pieces of n bytes on the lines they touch: offset in the line, bytes, and data. -/
def spanParts (a n : Nat) (d : Line) : List (Nat × Nat × Line) :=
  let off := a % 64
  let k := 64 - off
  if n ≤ k then [(off, n, d)] else [(off, k, d), (0, n - k, BitVec.ofNat 512 (d.toNat / 2 ^ (8 * k)))]

/-- The same pieces as byte mask and data placed in the line. -/
def linePieces (a n : Nat) (d : Line) : List (BitVec 64 × Line) := (spanParts a n d).map fun q =>
  (BitVec.ofNat 64 ((2 ^ q.2.1 - 1) * 2 ^ q.1), BitVec.ofNat 512 (q.2.2.toNat * 2 ^ (8 * q.1)))

/-- Issues a store of a virtual address: its token is popped and its bytes enter the hold side (R56, R119). -/
def storeIssue (s : State) (key n i : Nat) (t : Token) : State :=
  let e := elemOf s.fab key
  let p := planeOf e n
  let st := strSt p i
  let a := nestAddr p i st.pos
  let fn := planeFn key p
  let l := strLatch p i
  if alignBad (l % 256) a then strRaise s key n i p.run.round 3 (BitVec.ofNat 64 a) 0
  else match xlate s.hub st.tent st.half (corePartOf s.fab (keyCore key)) fn 1 false (lineSpan a (strSize p i)) with
  | .fault c info => strRaise s key n i p.run.round c info 0
  | .refill va half => strRefill s key n i fn va half
  | .ok pas =>
    let hs := (((pas.zip (linePieces a (strSize p i) t.data)).zip (lineSpan a (strSize p i))).zipIdx).map fun (q, j) =>
      let h : Held := { no := e.ag.nextId + j, pa := q.1.1.1, va := q.2, fn := fn, route := q.1.1.2, mask := q.1.2.1, data := q.1.2.2
                        tag := BitVec.ofNat 16 (l % 65536), stream := i, ctx := n, round := p.run.round }
      h
    let hold := hs.foldl holdPut e.ag.hold
    if 1024 < hold.length then { s with fab := askCapacity s.fab key n 1 p.run.round }
    else
      let r := popPlane s.fab key n (strQ p i) t
      if !r.2 then { s with fab := r.1 }
      else { s with fab := strStep (modElem r.1 key fun e => { e with ag := { e.ag with hold := hold, nextId := e.ag.nextId + hs.length } }) key n i }

/-- Issues a scratchpad store: each of its lines goes to its bank over the configuration path (R117). -/
def storeSp (s : State) (key n i : Nat) (t : Token) : State :=
  let e := elemOf s.fab key
  let p := planeOf e n
  let st := strSt p i
  let a := nestAddr p i st.pos
  let info : Word := BitVec.ofNat 64 a
  let l := strLatch p i
  let round := p.run.round
  let aims := (lineSpan a (strSize p i)).map fun x => spAim s.fab (keyCore key) n x
  match aims.findSome? fun x => match x with
    | .inr q => some q
    | .inl _ => none with
  | some (c, k) => strRaise s key n i round c info (BitVec.ofNat 64 k)
  | none =>
    if alignBad (l % 256) a then strRaise s key n i round 3 info 1
    else
      let r := popPlane s.fab key n (strQ p i) t
      if !r.2 then { s with fab := r.1 }
      else
        let f := (aims.zip ((lineSpan a (strSize p i)).zip (spanParts a (strSize p i) t.data))).foldl (fun f q => match q.1 with
          | .inr _ => f
          | .inl (k, b, ln) => cfgPush f k
              { src := 4, plane := n, slot := i, op := 0x301, bank := b, line := ln
                addr := BitVec.ofNat 32 (lineBase q.2.1 + q.2.2.1), size := q.2.2.2.1, data := q.2.2.2.2, tag := some (BitVec.ofNat 16 (l % 65536))
                key := key, round := round }) r.1
        let j := 8 * n + i
        { s with fab := modElem (strStep f key n i) key fun e =>
            { e with ag := { e.ag with spw := tput 0 e.ag.spw j (tget 0 e.ag.spw j + aims.length) } } }

/-- Sends an accumulate of an AG node over the configuration path to its bank (R509). -/
def accSend (f : Fab) (key n : Nat) (x : FirnE) (fl : Bool) : Fab :=
  match spLocate f (keyCore key) n x.addr.toNat with
  | none => f
  | some (k, b, l) => cfgPush f k
      { src := 2, plane := n, op := 0x310, fmt := x.fmt, bank := b, line := l, addr := x.addr, size := 64, data := x.data
        acop := x.acop, fl := fl, cr := x.cr, port := 16, key := key, round := (planeOf (elemOf f key) n).run.round }

/-- Issues an access of a scatter-accumulate stream (R131, R137, R509). -/
def accIssue (s : State) (key n i : Nat) (t : Token) : State :=
  let e := elemOf s.fab key
  let p := planeOf e n
  let st := strSt p i
  let a := nestAddr p i st.pos
  let fmt := strLatch p i % 256
  let acop := strFld p i 73 4
  let fault := if 2 ^ 32 ≤ a then some (6, 1) else accCheck s.fab (keyCore key) n a acop fmt
  match fault with
  | some (c, k) => strRaise s key n i p.run.round c (BitVec.ofNat 64 a) (BitVec.ofNat 64 k)
  | none =>
    let x : FirnE := { ctx := n, addr := BitVec.ofNat 32 a, acop := acop, fmt := fmt, data := t.data }
    let q := firnTake e.firn x
    let r := popPlane s.fab key n (strQ p i) t
    if !r.2 then { s with fab := r.1 }
    else
      let f := accSend r.1 key n { x with data := q.2 } false
      let f := strStep (modElem f key fun e => outAdd { e with firn := q.1 } n) key n i
      { s with fab := if nestTotal p i ≤ st.pos + 1 then modElem f key fun e => flresStart e n false else f }

/-! ### Emission of read streams (R96, R100, R118, R120, R195, R197, R198) -/

/-- Entries of the replay side in use: kept tokens, tokens still to be emitted again, and the blocks of transposed streams of all planes (R100,
R120). -/
def replayUse (e : Elem) : Nat :=
  e.ag.replay.length + ([0, 1, 2, 3].map fun n =>
    let p := planeOf e n
    (p.run.streams.map fun t => t.2.again.length + t.2.tiles.length + (t.2.block.length * strW p t.1 + 63) / 64).sum).sum

/-- Emits a token of a read stream; a SPACE 0 stream keeps it (R120). -/
def strEmit (f : Fab) (key n i : Nat) (t : Token) : Fab :=
  let p := planeOf (elemOf f key) n
  let st := strSt p i
  let f := pushOut f key (strQ p i) t
  if strSpace p i then f
  else modElem f key fun e => { e with ag := { e.ag with replay := e.ag.replay ++ [(i, n, st.round, t)] } }

/-- A burst header of a read stream (R93, R96). -/
def strHeader (p : Plane) (n i : Nat) (tag : BitVec 16) (lastt : Bool) : Token :=
  stamp true { data := BitVec.ofNat 512 (b2n lastt * 2 ^ 33 + tag.toNat / 256 * 256 + tag.toNat % 256), kind := 1
               ctx := BitVec.ofNat 2 n, ctag := strTag p i }

/-- The last iteration of the second-innermost level begins at a position (R96 LASTT). -/
def lastTile (p : Plane) (i pos : Nat) : Bool :=
  let a := strFrame p i 0
  pos % cntOf a 0 == 0 && pos / cntOf a 0 % cntOf a 1 == cntOf a 1 - 1

/-- Transposes a block of elements in memory order into its tokens (R100): the second level varies fastest. -/
def transpose (c1 c2 w : Nat) (els : List Line) : List Line :=
  let m := 64 / w
  (List.range c1).flatMap fun c => (List.range (c2 / m)).map fun k =>
    pack (8 * w) ((List.range m).map fun j => ((els[(k * m + j) * c1 + c]?).getD 0).toNat)

/-- The data that stands first for emission in a stream: a transposed token, or the oldest read whose line has returned. -/
def strNext (e : Elem) (p : Plane) (n i : Nat) : Option (Line × BitVec 16 × Bool) :=
  if strXpR p i then (strSt p i).tiles.head?.map fun q => (q.1, q.2, false)
  else match e.ag.reads.find? fun q => q.plane == n && q.stream == i with
    | some q => q.line.map fun d => (d, q.tag, lastTile p i q.pos)
    | none => none

/-- The list without its first read of a stream. -/
def dropRead (n i : Nat) : List ReadOut → List ReadOut
  | [] => []
  | q :: r => if q.plane = n ∧ q.stream = i then r else q :: dropRead n i r

/-- Moves a returned element of a transposed stream into its block in the replay side, once the tokens of the block before it have left; a full
block becomes its tokens, without those that left before it had to be read again (R100). Every token takes the line tag of the block's first
element: the spec says none (log 75). A full replay side asks for a capacity discard (R122). -/
def blockFill (f : Fab) (key n i : Nat) : Fab :=
  let e := elemOf f key
  let p := planeOf e n
  let st := strSt p i
  match (e.ag.reads.find? fun q => q.plane == n && q.stream == i).bind fun q => q.line.map fun d => (q, d) with
  | none => f
  | some (q, d) =>
    if !strXpR p i ∨ !st.tiles.isEmpty then f
    else if st.block.length * strW p i % 64 = 0 ∧ 1024 ≤ replayUse e then askCapacity f key n 2 st.round
    else
      let b := st.block ++ [d]
      let tag := if st.block.isEmpty then q.tag else st.btag
      let st : StreamSt := { st with block := b, btag := tag, bseen := if st.block.isEmpty then q.seen else st.bseen }
      let st : StreamSt := if b.length < blockEls p i then st
        else { st with
               block := [], skip := 0
               tiles := ((transpose (cntOf (strFrame p i 0) 0) (cntOf (strFrame p i 0) 1) (strW p i) b).drop st.skip).map fun l => (l, tag) }
      modElem f key fun e => modRun { e with ag := { e.ag with reads := dropRead n i e.ag.reads } } n fun r => { r with streams := tins r.streams i st }

/-- A read performed too early for a token of a round: before the round two earlier committed (R111, R162). -/
def readStale (round seen : BitVec 32) : Bool := decide (2 ≤ round.toNat) && decide (2 ^ 31 ≤ (seen - (round - 2)).toNat)

/-- The data that stands first for emission was read too early. -/
def nextStale (e : Elem) (p : Plane) (n i : Nat) : Bool :=
  let st := strSt p i
  !strSpace p i && (if strXpR p i then !st.tiles.isEmpty && readStale st.round st.bseen
    else match e.ag.reads.find? fun q => q.plane == n && q.stream == i with
      | some q => q.line.isSome && readStale st.round q.seen
      | none => false)

/-- A stream issues its reads again from the first whose data has not been emitted, from its block's first element where it transposes (log 76). -/
def strUnread (f : Fab) (key n i : Nat) : Fab :=
  let e := elemOf f key
  let p := planeOf e n
  let st := strSt p i
  let mine (q : ReadOut) : Bool := q.plane == n && q.stream == i
  let flying := inFlight e n i
  let pos := st.pos - flying - st.block.length - (if strXpR p i && !st.tiles.isEmpty then blockEls p i else 0)
  let skip := if strXpR p i && !st.tiles.isEmpty then blockToks p i - st.tiles.length else st.skip
  let f := giveCredit f key ((List.range (st.pos - pos)).countP fun j => creditAt p i (pos + j))
  let f := modElem f key fun e => { e with ag := { e.ag with reads := e.ag.reads.filter fun q => !mine q } }
  modStr f key n i fun t => { t with pos := pos, half := none, block := [], tiles := [], skip := skip, wait := if t.wait = 2 then 0 else t.wait }

/-- A mark of a read stream is due (R197, R198); it does not pass a non-edge stream's access that waits on a translation (R72). -/
def strMarkDue (f : Fab) (rid : Nat) (r : Region) (p : Plane) (n i : Nat) : Bool :=
  let st := strSt p i
  (st.last.isNone || st.endDue) &&
    (if strEdge p i then st.count == edgeU f rid r n st.round (strGrp p i) * strWt p i else st.markAt.isSome && st.wait == 0)

/-- What an AG node does before a mark of a context leaves it: its addends are accepted or flushed (R141) and its scratchpad accesses performed
(R117). -/
def agSettled (f : Fab) (key n : Nat) : Bool :=
  let e := elemOf f key
  tget 0 e.out n == 0 && firnHeld e n == 0 && !flushOwed f key n && spDone e n

/-- Step 2 of R141 when it is due: OUT is 0 and addends stand in the firn tile. -/
def edgeFlush (f : Fab) (key n : Nat) : Option Fab :=
  let e := elemOf f key
  if hasFirn key ∧ tget 0 e.out n = 0 ∧ firnHeld e n ≠ 0 ∧ (planeOf e n).run.flush = [] then
    some (modElem f key fun e => flresStart e n false)
  else none

/-- A mark that is due at an AG node leaves once the node has settled; the flush that R141 asks for first is started. -/
def markOut (f : Fab) (key n : Nat) (go : Fab → Fab) : Fab := if agSettled f key n then go f else (edgeFlush f key n).getD f

/-- A read stream emits its round mark and saves its checkpoint (R118, R195). -/
def strMark (f : Fab) (key n i : Nat) : Fab :=
  let p := planeOf (elemOf f key) n
  let st := strSt p i
  let r := st.round + 1
  let flying := inFlight (elemOf f key) n i
  let c : SCkpt := { round := r, pos := st.pos - flying, latch := st.latch, hdr := st.hdr, block := st.block, btag := st.btag, tiles := st.tiles
                     skip := st.skip, bseen := st.bseen }
  let f := modStr f key n i fun t => { t with round := r, count := 0, markAt := none, ckpts := t.ckpts ++ [c] }
  let f := if strEdge p i then noteRound f (keyCore key) n r else f
  pushOut f key (strQ p i) (markToken true 2 n (strTag p i) r)

/-- What one stream of a node emits in a tile cycle: a due mark, a kept token again once its CHECK is verified (R470), the next header or data token, or, once a swap has ended it,
its end mark (R404). A stream past its last iteration emits nothing more. -/
def strPump (f : Fab) (key n i : Nat) : Fab :=
  let f := blockFill f key n i
  let e := elemOf f key
  let p := planeOf e n
  let st := strSt p i
  match regionOf f (keyCore key) with
  | none => f
  | some (rid, r) =>
    if p.st ≠ .bound ∨ !strEn p i ∨ strDir p i ∨ p.revoked ∨ halted f key ∨ outRoom e (strQ p i) < 1 then f
    else if strMarkDue f rid r p n i then
      (if mayOpen r n st.round then markOut f key n fun f => strMark f key n i else f)
    else match st.again with
    | t :: rest =>
      let fault : FaultRec := { cause := 0x0B, key := key, stream := some i, round := st.round, info1 := 4 }
      if t.bad ∨ tokCheck (isWideSel (strQ p i)) t ≠ t.check then (if faultWaits f key n fault then f else raiseFault f (keyCore key) n fault)
      else if strEdge p i && t.kind == 0 && !creditOk f key n i then f else
      let f := if strEdge p i && t.kind == 0 then takeCredit f key else f
      let f := modStr f key n i fun s => { s with again := rest, count := if t.kind = 0 then s.count + 1 else s.count
                                                  hdr := if t.kind = 1 then some (t.data.setWidth 16) else s.hdr }
      strEmit f key n i t
    | [] => match strNext e p n i with
      | some (d, tag, lastt) =>
        let l := strLatch p i
        let h : BitVec 16 := if fld l 16 2 = 1 then BitVec.ofNat 16 (l % 65536) else tag
        if nextStale e p n i then strUnread f key n i
        else if !strSpace p i ∧ 1024 ≤ replayUse e ∧ (!strXp p i ∨ st.hdr ≠ some h) then askCapacity f key n 2 st.round
        else
          if st.hdr ≠ some h then
            strEmit (modStr f key n i fun s => { s with hdr := some h }) key n i (strHeader p n i h lastt)
          else
            let f := strEmit f key n i (stamp true { data := d, ctx := BitVec.ofNat 2 n, ctag := strTag p i })
            let f := modStr f key n i fun s => { s with count := s.count + 1, tiles := s.tiles.drop 1 }
            if strXp p i then f
            else modElem f key fun e => { e with ag := { e.ag with reads := dropRead n i e.ag.reads } }
      | none =>
        if st.endDue ∧ strTotal p i ≤ st.pos ∧ inFlight e n i = 0 then
          markOut f key n fun f =>
            pushOut (modStr f key n i fun s => { s with endDue := false }) key (strQ p i) (markToken true 3 n (strTag p i) st.round)
        else f

/-- The flush sender of an AG node: one entry of a plane per tile cycle over the configuration path (R140, R509). -/
def agFlush (f : Fab) (key n : Nat) : Fab :=
  let e := elemOf f key
  let p := planeOf e n
  match p.run.flush with
  | [] => f
  | x :: rest =>
    let pop (f : Fab) : Fab := modElem f key fun e => modRun e n fun r => { r with flush := rest }
    if p.revoked ∨ halted f key then f
    else match firnFind e.firn n x.addr x.acop x.fmt with
    | none => pop f
    | some y => modElem (pop (accSend f key n { y with cr := x.cr } true)) key fun e =>
        let e := { e with firn := firnDel e.firn y }
        if x.cr then outAdd e n else e

/-! ### The command stream (R288-R292) -/

/-- Puts a command back into a node's inbox as it now stands. -/
def cmdSet (f : Fab) (key : Nat) (c : AgCmd) : Fab := modCmd f key c.core c.id fun _ => c

/-- The finished commands that reply now: those with no earlier command of the same core that still has stores to perform (R173). -/
def cmdReplies : List Nat → List AgCmd → List AgCmd
  | _, [] => []
  | busy, c :: r =>
    if c.fin.isSome && !busy.contains c.core then c :: cmdReplies busy r
    else cmdReplies (if c.cmd = 1 then busy else c.core :: busy) r

/-- Sends the replies that are due and frees the places of their commands (R173, R280). -/
def cmdSettle (f : Fab) (key : Nat) : Fab :=
  let out := cmdReplies [] (elemOf f key).ag.inbox
  let f := modElem f key fun e => { e with ag := { e.ag with inbox := e.ag.inbox.filter fun c => !out.any fun d => d.core == c.core && d.id == c.id } }
  out.foldl (fun f c => cmdReply f c.core c.id c.reg (c.fin.getD 0)) f

/-- A command of a node completes with what it replies. -/
def cmdEnd (f : Fab) (key : Nat) (c : AgCmd) (v : Word) : Fab :=
  cmdSettle (cmdDone (cmdSet f key { c with fin := some v }) c.core c.id) key

/-- The word that a copy's reply fills with (R290). -/
def copyStatus (c : AgCmd) : Word := BitVec.ofNat 64 (c.pos % 2 ^ 56 * 256 + c.code % 256)

/-- A copy ends early (R290): its reply, and a report for the issuing core. -/
def copyFail (s : State) (key : Nat) (c : AgCmd) (ctx cause : Nat) (info0 info1 : Word) : State :=
  let s := { s with fab := cmdEnd s.fab key c (copyStatus { c with code := cause }) }
  postReport s c.core ctx { cause := cause, effect := 6, key := some (100 * c.core), info0 := info0, info1 := info1 }

/-- A frame of a core window, by MMIO offset: core, element key, space and frame (R28, R36). A reserved element, 100 to 127, holds what the reserved
space 7 holds: it reads zero and takes no write. -/
def windowFrame (off : Nat) : Option (Nat × Nat × Nat × Nat) :=
  if 0x1000000000 ≤ off ∧ off < 0x1000000000 + 64 * 0x20000000 then
    let n := (off - 0x1000000000) / 0x20000000
    let a := (off - 0x1000000000) % 0x20000000
    if a < 2 ^ 28 then some (n, 100 * n + fld a 21 7 % 100, if 100 ≤ fld a 21 7 then 7 else fld a 18 3, fld a 5 13) else none
  else none

/-- One side of a copy's line: what to do next, a fault with its information, or done. -/
inductive CopyRes where
  | done (s : State) (line : Line) (tag : BitVec 16)
  | refill (va : Nat)
  /-- The access goes to a bank over the configuration path (R289). -/
  | bank (key : Nat) (q : MemReq)
  | fault (cause : Nat) (info0 info1 : Word) (ctxToo : Option Nat)
  /-- A memory node refuses the line, having noted it (R414). -/
  | refused (s : State) (cause : Nat) (info0 : Word)

/-- The function of a core's copies: that of its launch. -/
def cmdFn (f : Fab) (core : Nat) : Nat :=
  match regionOf f core with
  | some (_, r) => r.launch.fn
  | none => 0

/-- The place of a scratchpad line for a copy, or the kind of PROT its address meets (R31, R290): a lent bank refuses it whatever plane CTX names. -/
def copyAim (f : Fab) (core ctx a : Nat) : (Nat × Nat × Nat) ⊕ Nat :=
  if 2 ^ 32 ≤ a then .inr 1
  else match spLocate f core ctx a with
  | none => .inr 1
  | some (k, b, l) => if lentBank f k b then .inr 3 else .inl (k, b, l)

/-- Reads or writes the line at an address of a copy's space (R288, R289). wr holds the line and tag to write. Of a line of MMIO, MISALIGN comes before
the ownership check, also in the reserved part of a core window (R25, R28; log 77). -/
def copyLine (s : State) (key : Nat) (c : AgCmd) (sp a ctx : Nat) (wr : Option (Line × BitVec 16)) : CopyRes :=
  let part := corePartOf s.fab c.core
  let fn := cmdFn s.fab c.core
  let info : Word := BitVec.ofNat 64 a
  let dummy : Region := default
  let reg : Region := match regionOf s.fab c.core with
    | some q => q.2
    | none => dummy
  if spaceProt reg sp a then .fault 6 (if sp = 0 then tInfo 1 7 fn a else info) (if sp = 0 then 0 else if sp = 1 then 1 else 5) none
  else if a % 64 ≠ 0 then .fault 3 info (if sp = 0 then 0 else if sp = 1 then 1 else 5) none
  else match sp with
  | 1 => match copyAim s.fab c.core ctx a with
    | .inr k => .fault 6 info (BitVec.ofNat 64 k) (if k = 3 ∧ wr.isSome then some ctx else none)
    | .inl (k, b, l) => .bank k
        { src := if wr.isSome then 6 else 5, plane := ctx, op := if wr.isSome then 0x301 else 0x300, bank := b, line := l
          addr := BitVec.ofNat 32 a, size := 64, data := (wr.map fun x => x.1).getD 0, tag := wr.map fun x => x.2
          key := key, id := c.id, reg := c.core }
  | 2 => match wr with
    | none => .done s (lineAt (ccOf s.fab c.core).dsram a) 0x7F00
    | some (d, t) => .done { s with fab := modCc s.fab c.core fun k => sramWrite k a 64 d.toNat } d t
  | _ =>
    match xlateOne s.hub (elemOf s.fab key).ag.tent part fn a (if wr.isSome then 1 else 0) c.sup with
    | .refill va _ => .refill va
    | .fault cause w => .fault cause w 0 none
    | .ok pas =>
      let pa := (pas.head?.map fun q => q.1).getD 0
      let route := (pas.head?.map fun q => q.2).getD 0
      if inMmio pa then
        match windowFrame (pa - 0x7F0000000000) with
        | none => .fault 3 info 0 none
        | some (n, k, space, idx) =>
          if corePart s.hub n ≠ some part then .fault 6 (tInfo 10 7 fn a) 0 none
          else match wr with
          | none => if frameBad s.fab k space idx then .fault 11 info 0 none else
            let v := (cfgRead s.fab k space idx).toNat + (cfgRead s.fab k space (idx + 1)).toNat * 2 ^ 256
            .done s (BitVec.ofNat 512 v) 0x7F00
          | some (d, t) => match cfgWrite s.fab k space idx (d.setWidth 256) with
            | none => .fault 0x10 info 0 none
            | some f => match cfgWrite f k space (idx + 1) (BitVec.ofNat 256 (d.toNat / 2 ^ 256)) with
              | none => .fault 0x10 info 0 none
              | some f => .done { s with fab := f } d t
      else match wr with
      | none =>
        let r := readLines s.mem (elemOf s.fab key) part [pa]
        let s := poisonPost { s with mem := r.1 }
        match r.2 with
        | .inr (.prot, _) => .fault 6 (tInfo 11 7 fn a) 0 none
        | .inr (x, p) => .refused s (hresCause x) (BitVec.ofNat 64 p)
        | .inl ls => match ls with
          | q :: _ => .done s q.1 q.2
          | [] => .done s 0 0x7F00
      | some (d, t) =>
        let r := lineWrite s.mem part pa route (2 ^ 64 - 1) d t
        match r.2 with
        | .ok => .done { s with mem := r.1 } d t
        | .prot => .fault 6 (tInfo 11 7 fn a) 0 none
        | x => .fault (hresCause x) (BitVec.ofNat 64 pa) 0 none

/-- The address of a copy's next access: its source until the line has come, then its destination (R289). -/
def copyAddr (c : AgCmd) : Nat :=
  let b := mgetN c.block 0 64
  let i0 := c.pos % copyCnt0 b
  let i1 := c.pos / copyCnt0 b
  if c.line.isNone then copySrc b i0 i1 else copyDst b i0 i1

/-- One access of a copy (R289, R290): it reads its next line, then writes it. The command stream asks for one refill at a time (R54). -/
def copyStep (s : State) (key : Nat) (c : AgCmd) : State :=
  let b := mgetN c.block 0 64
  let total := copyCnt0 b * copyCnt1 b
  let ctx := fld b 328 2
  let latch := fld b 336 32
  if total ≤ c.pos then { s with fab := cmdEnd s.fab key c (copyStatus c) }
  else if c.code ≠ 0 then copyFail s key c ctx c.code (BitVec.ofNat 64 (copyAddr c)) 1
  else
    let sp := if c.line.isNone then copySsp b else copyDsp b
    let wr := c.line.map fun x => (x.1, if fld latch 16 2 = 1 ∨ copySsp b = 2 then BitVec.ofNat 16 (latch % 65536) else x.2)
    match copyLine s key c sp (copyAddr c) ctx wr with
    | .done s d t =>
      if c.line.isNone then { s with fab := cmdSet s.fab key { c with line := some (d, t) } }
      else if c.pos + 1 = total then { s with fab := cmdEnd s.fab key { c with pos := c.pos + 1 } (copyStatus { c with pos := c.pos + 1 }) }
      else { s with fab := cmdSet s.fab key { c with pos := c.pos + 1, line := none } }
    | .bank k q => { s with fab := cfgPush (cmdSet s.fab key { c with wait := 3 }) k q }
    | .refill va =>
      if (elemOf s.fab key).ag.inbox.any fun d => d.wait == 1 then s
      else { s with
        fab := cmdSet s.fab key { c with wait := 1 }
        mem := askWalk s.fab s.mem { key := key, stream := 8, plane := ctx, part := corePartOf s.fab c.core, fn := cmdFn s.fab c.core, va := va } }
    | .refused s cause i0 => copyFail s key c ctx cause i0 0
    | .fault cause i0 i1 too =>
      let s := copyFail s key c ctx cause i0 i1
      match too with
      | none => s
      | some n =>
        let p := planeOf (elemOf s.fab key) n
        if p.st = .bound then
          { s with fab := raiseFault s.fab c.core n { cause := cause, key := key, round := p.run.round, info0 := i0, info1 := i1 } }
        else s

/-- The three frames of a stream with those of an sbind block in place of the selected ones (R291). -/
def sbindFrames (p : Plane) (b : Nat) : List (Nat × BitVec 256) :=
  let st := fld b 0 3
  (List.range 3).map fun j =>
    (3 * st + j, if bit b (8 + j) then BitVec.ofNat 256 (fld b (256 * (j + 1)) 256) else tget 0 p.frames (3 * st + j))

/-- Writes the frames of a stream (R291): they have no image copy (R415). -/
def sbindWrite (f : Fab) (key n : Nat) (fs : List (Nat × BitVec 256)) : Fab := fs.foldl (fun f q => putFrame f key n q.1 q.2 false) f

/-- sbind at its node (R291). -/
def sbindStep (s : State) (key : Nat) (c : AgCmd) : State :=
  let b := mgetN c.block 0 128
  let i := fld b 0 3
  let n := fld b 4 2
  let p := planeOf (elemOf s.fab key) n
  let fs := sbindFrames p b
  let w (j : Nat) : Nat := ((fs[j]?).map fun q => q.2.toNat).getD 0
  let live : Bool := p.st == .bound || p.st == .retiring
  let held : Bool := match regionOf s.fab (keyCore key) with
    | some (_, r) => swapHeld r n
    | none => false
  if (live && isDrift key p) || !streamOk (isDrift key p) (w 0) (w 1) (w 2) then { s with fab := cmdEnd s.fab key c 1 }
  else if live && strEn p i && decide ((strSt p i).pos < nestTotal p i) then { s with fab := cmdEnd s.fab key c 2 }
  else if p.st = .loading ∨ p.st = .incomplete ∨ held then { s with fab := cmdEnd s.fab key c 3 }
  else if p.st = .bound then
    { s with fab := modElem s.fab key fun e => modPlane e n fun q => { q with sbind := tins q.sbind i (fs, c.core, c.id) } }
  else { s with fab := cmdEnd (sbindWrite s.fab key n fs) key c 0 }

/-- aflush at its node (R292): FLRES starts, and the reply waits until every flush accumulate has been accepted. -/
def aflushStep (s : State) (key : Nat) (c : AgCmd) : State :=
  let n := c.d.toNat % 4
  if c.pos = 0 then { s with fab := cmdSet (modElem s.fab key fun e => flresStart e n false) key { c with pos := 1 } }
  else if flushOwed s.fab key n then s
  else { s with fab := cmdEnd s.fab key c 0 }

/-- A command of a node's inbox takes its turn: it is started if it has not been. -/
def cmdRun (s : State) (key : Nat) (c : AgCmd) : State :=
  let c := { c with on := true }
  let s := { s with fab := cmdSet s.fab key c }
  match c.cmd with
  | 0 => copyStep s key c
  | 1 => sbindStep s key c
  | _ => aflushStep s key c

/-- The command stream's turn (R173, R280): which of several commands takes the access is a free choice (log 23). -/
def cmdTurn (s : State) (key : Nat) : State :=
  match cmdNexts s.fab key with
  | [] => s
  | [c] => cmdRun s key c
  | l => match l[Config.choice s.free % l.length]? with
    | none => s
    | some c => cmdRun { s with free := s.free + 1 } key c

/-! ### The step -/

/-- An enabled debug compare stops the region before this access (R425, R426). -/
def dbgHit (e : Elem) (n i pos : Nat) : Bool :=
  let d := e.dbg.toNat
  bit d 63 && fld d 61 2 == n && fld d 58 3 == i && fld d 0 58 == pos && !((planeOf e n).brkskip && (planeOf e n).brkslot == i)

/-- Starts a stop of a region (R411 step 1): the gate signal goes to every element. A swap past its check fails (R404). -/
def beginStop (f : Fab) (rid cause ctx phase : Nat) : Fab :=
  modRegion f rid fun r => if r.phase = 0 then
      { r with stop := some cause, stopCtx := ctx, phase := phase, gates := regionKeys r
               swap := r.swap.map fun w => if w.checked.isSome && !w.done then { w with checked := some false } else w } else r

/-- A region and its twin. -/
def withTwin (f : Fab) (rid : Nat) : List Nat :=
  match (region? f rid).bind fun r => r.twin with
  | some t => [min rid t, max rid t]
  | none => [rid]

/-- The regions that act together for a context: a twin pair for an owner context, the region alone for a drift context (R466). -/
def ctxPair (f : Fab) (rid ctx : Nat) : List Nat := if (driftIn f rid ctx).isSome then [rid] else withTwin f rid

/-- The gate signal reaches an element: what has issued completes, and its clock is gated (R411 step 1). -/
def gateElem (f : Fab) (rid key : Nat) : Fab :=
  let f := if kindOf key = .compute ∨ kindOf key = .memory then tileTick f key else f
  let f := modElem f key fun e => { e with gated := true }
  modRegion f rid fun r => { r with gates := r.gates.filter fun k => k != key }

/-- Starts a stop of a region and its twin (R411 step 1, R466). -/
def stopPair (f : Fab) (rid cause ctx phase : Nat) : Fab := (withTwin f rid).foldl (fun f q => beginStop f q cause ctx phase) f

/-- BREAK at an element (R410, R412, R425): its fault waits at the round controller, and the region stops with its twin; the element itself is gated
at once, so that nothing of the tile cycle issues. Of a drift context only the plane stops, and it is revoked. -/
def breakStop (f : Fab) (key n which : Nat) (x : FaultRec) : Fab :=
  match regionOf f (keyCore key) with
  | none => f
  | some (rid, _) =>
    let f := modElem f key fun e => modPlane e n fun p => { p with brkskip := true, brkslot := which }
    let f := raiseFault f (keyCore key) n x
    if (driftIn f rid n).isSome then modElem f key fun e => modPlane e n fun p => { p with revoked := true }
    else gateElem (stopPair f rid 0x0F n 2) rid key

/-- The first frame of a stream that fails its parity check as it is read for an access (R472; log 29). -/
def strBad (p : Plane) (i : Nat) : Option Nat := [3 * i, 3 * i + 1, 3 * i + 2].find? fun k => p.bad.contains k

/-- STREAM_ACCESS (R116): a node issues one access of the stream whose turn it is. -/
def execStreamAccess (key : Nat) (s : State) : Out :=
  let e := elemOf s.fab key
  if kindOf key ≠ .ag ∨ halted s.fab key ∨ e.issued.contains .memory then .next s
  else match ringPick s.fab key with
  | none => .next s
  | some j =>
    let n := j % 4
    let i := j / 4
    let p := planeOf e n
    if j ≠ 32 ∧ dbgHit e n i (strSt p i).pos then
      onFab s fun f => breakStop f key n i
        { cause := 0x0F, key := key, stream := some i, round := (strSt p i).round, info0 := BitVec.ofNat 64 (strSt p i).pos }
    else
      let s := { s with fab := modElem s.fab key fun e => { e with issued := [.memory], ag := { e.ag with ring := j } } }
      if j = 32 then .next (cmdTurn s key)
      else match strBad p i with
      | some k => .next (strRaise s key n i (strSt p i).round 0x0B (cfgAddr key n k 0) 3)
      | none => if !strDir p i then .next (if strSpace p i then readSp s key n i else readIssue s key n i)
        else match headOf e (strQ p i) with
        | none => .next s
        | some t => .next (if strAcc p i then accIssue s key n i t else if strSpace p i then storeSp s key n i t else storeIssue s key n i t)

/-- What an AG node does besides its accesses in a tile cycle. -/
def agTick (f : Fab) (key : Nat) : Fab :=
  let f := spReadTick (cmdSettle f key) key
  let f := [0, 1, 2, 3].foldl (fun f n => agFlush (releaseFlush f key n) key n) f
  let f := [0, 1, 2, 3].foldl (fun f n => (List.range 8).foldl (fun f i => strPump f key n i) f) f
  modElem f key timingTick

end Sys2Proof.Machine
end

