-- ==== Sys2Proof/Machine/Translate.lean ====
section
/-! DEFINITION. Walkers, refills and invalidations (02 R54-R72). -/

namespace Sys2Proof.Machine

/-- What a walk answers. -/
def walkAns : WRes → TEnt ⊕ (Nat × Nat × Nat)
  | .leaf e => .inl e
  | .fault c sub lvl => .inr (c, sub, lvl)

/-- WALK (R47-R53, R58-R60): request number idx of a die's walker, which has been started, is walked; the walker then starts the next (R59). -/
def execWalk (die idx : Nat) (s : State) : Out :=
  match (tget {} s.mem.walkers die).queue[idx]? with
  | none => .next s
  | some w =>
    if w.ans.isSome ∨ !w.started then .next s
    else
      let r := walkerRun s.hub s.mem die w.part w.fn w.va
      let answer (k : Walker) : Walker := startWalk { k with queue := lmod k.queue idx fun w => { w with ans := some (walkAns r.2) } }
      .next (poisonPost { s with mem := { r.1 with walkers := tmod {} r.1.walkers die answer } })

/-- The access kind of a stream: 0 read, 1 write. -/
def walkKind (e : Elem) (w : Walk) : Nat := b2n (strDir (planeOf e w.plane) w.stream)

/-- An access whose refill has come makes the address that was walked: of a stream whose reads were taken back meanwhile it does not, and it asks
again. -/
def walkWanted (p : Plane) (w : Walk) : Bool := (lineSpan (nestAddr p w.stream (strSt p w.stream).pos) (strSize p w.stream)).contains w.va

/-- An answered walk reaches its stream (R54, R60-R63): the entry is taken, XLATE makes the stream wait with one report, and any other
fault discards the round. -/
def refillStream (s : State) (w : Walk) (a : TEnt ⊕ (Nat × Nat × Nat)) : State :=
  let e := elemOf s.fab w.key
  let p := planeOf e w.plane
  let st := strSt p w.stream
  let round := if strDir p w.stream then p.run.round else st.round
  if st.wait ≠ 1 then s
  else if !walkWanted p w then { s with fab := modStr s.fab w.key w.plane w.stream fun x => { x with wait := 0 } }
  else match a with
  | .inl t => { s with fab := modStr s.fab w.key w.plane w.stream fun x => { x with tent := some t, wait := 0 } }
  | .inr (c, sub, lvl) =>
    let info := walkInfo c sub lvl w.fn w.va (walkKind e w)
    if c = 5 then
      let s := { s with fab := modStr s.fab w.key w.plane w.stream fun x => { x with wait := 2, xva := some w.va } }
      postReport s (keyCore w.key) w.plane
        { cause := 5, effect := 3, key := some w.key, stream := some w.stream, round := round, info0 := info }
    else
      let s := { s with fab := modStr s.fab w.key w.plane w.stream fun x => { x with wait := 0 } }
      strRaise s w.key w.plane w.stream round c info 0

/-- An answered walk reaches the command stream (R57, R62, R290). -/
def refillCommand (s : State) (w : Walk) (a : TEnt ⊕ (Nat × Nat × Nat)) : State :=
  match (elemOf s.fab w.key).ag.inbox.find? fun c => c.wait == 1 with
  | none => s
  | some c =>
    match a with
    | .inl t =>
      { s with fab := modElem (cmdSet s.fab w.key { c with wait := 0 }) w.key fun e => { e with ag := { e.ag with tent := some t } } }
    | .inr (k, sub, lvl) =>
      let info := walkInfo k sub lvl w.fn w.va (b2n c.line.isSome)
      if k = 5 then
        postReport { s with fab := cmdSet s.fab w.key { c with wait := 2 } } c.core w.plane
          { cause := 5, effect := 3, key := some (100 * c.core), info0 := info }
      else copyFail s w.key { c with wait := 0 } w.plane k info 0

/-- An answered walk reaches the held store that is translated again (R62, R67): the entry is its stream's, XLATE keeps the store waiting with one
report, and any other fault discards its round. -/
def refillHeld (s : State) (w : Walk) (a : TEnt ⊕ (Nat × Nat × Nat)) : State :=
  let i := w.stream - 16
  let mine (h : Held) : Bool := h.stale && h.stream == i && h.ctx == w.plane && h.fn == w.fn && h.va == w.va
  let set (g : Held → Held) : Fab := modElem s.fab w.key fun e => { e with ag := { e.ag with hold := e.ag.hold.map fun h => if mine h then g h else h } }
  match (elemOf s.fab w.key).ag.hold.find? mine, a with
  | none, _ => s
  | some _, .inl t => { s with fab := modStr s.fab w.key w.plane i fun x => { x with tent := some t } }
  | some h, .inr (c, sub, lvl) =>
    let info := walkInfo c sub lvl w.fn w.va 1
    if c = 5 then
      postReport { s with fab := set fun h => { h with xwait := true } } (keyCore w.key) w.plane
        { cause := 5, effect := 3, key := some w.key, stream := some i, round := h.round, info0 := info }
    else strRaise { s with fab := set fun h => { h with stale := false } } w.key w.plane i h.round c info 0

/-- The reports of a partition's functions that wait take their turns. -/
def postAll (s : State) (part : Nat) : State := ((partOf s.hub part).posts.map fun q => q.1).foldl (fun s fn => postRun s part fn) s

/-- An answered walk reaches the hub (R57, R58): what it does at that address takes the answer, and its reports go on. -/
def refillHub (s : State) (w : Walk) (a : TEnt ⊕ (Nat × Nat × Nat)) : State :=
  let take := hubTake w a
  let hub := modPart s.hub w.part fun p =>
    { p with qx := p.qx.map fun q => (q.1, if q.1 / 9 = w.fn then take q.2 else q.2)
             posts := p.posts.map fun q => (q.1, if q.1 = w.fn then q.2.map fun r => { r with x := take r.x } else q.2) }
  let f := { s.fab with
    loads := s.fab.loads.map fun l => if l.part = w.part then { l with x := take l.x } else l
    regions := s.fab.regions.map fun r => (r.1, if r.2.launch.part = w.part then { r.2 with rx := take r.2.rx } else r.2) }
  [0, 1, 2, 3].foldl postAll { s with hub := hub, fab := f }

/-- REFILL_RETURN (R54, R60-R63, R72): the answer of request number idx returns to its requester. -/
def execRefillReturn (die idx : Nat) (s : State) : Out :=
  match (tget {} s.mem.walkers die).queue[idx]? with
  | none => .next s
  | some w => match w.ans with
    | none => .next s
    | some a =>
      let s := { s with mem := walkDrop s.mem die idx }
      .next (if w.stream < 8 then refillStream s w a else if w.stream = 8 then refillCommand s w a
        else if hubWalk w then refillHub s w a else refillHeld s w a)

/-! ### Invalidation (R64-R67) -/

/-- An invalidation covers a translation or table entry. -/
def invEntry (part : Nat) (v : Inval) (e : TEnt) : Bool :=
  e.part == part && (v.kind == 2 || (e.fn == v.fn && (v.kind == 1 || decide (e.va ≤ v.va ∧ v.va < e.va + 2 ^ e.lg))))

/-- An invalidation covers an address of a function: by address, the 4 KiB page named or the page that now maps it (R62). -/
def invAddr (s : State) (part : Nat) (v : Inval) (fn va : Nat) : Bool :=
  v.kind == 2 || (fn == v.fn && (v.kind == 1 || va / 4096 == v.va / 4096 ||
    (match (walkVa s.hub [] s.mem part fn v.va).2.1 with
      | .leaf e => tCovers e part fn va
      | .fault _ _ _ => false)))

/-- A walk may have read a table entry that an invalidation covers (R66): those of an address lie on the path of every address of its function that
shares the level-4 index. -/
def invWalk (part : Nat) (v : Inval) (w : Walk) : Bool :=
  w.part == part && (v.kind == 2 || (w.fn == v.fn && (v.kind == 1 || w.va / 2 ^ 48 == v.va / 2 ^ 48)))

/-- An AG node of a partition: in a core of its rectangle, whether or not the core is in a region, or among the saved launches, under the core numbers
that their state stands under. -/
def agIn (h : Hub) (part key : Nat) : Bool :=
  kindOf key == .ag && (corePart h (keyCore key) == some part ||
    (partOf h part).saved.any fun q => decide (q.2.base ≤ keyCore key ∧ keyCore key < q.2.base + q.2.region.w * q.2.region.h))

/-- Changes every AG node of a partition. -/
def modAgs (s : State) (part : Nat) (g : Nat → Elem → Elem) : State :=
  { s with fab := { s.fab with elems := s.fab.elems.map fun q => (q.1, if agIn s.hub part q.1 then g q.1 q.2 else q.2) } }

/-- Changes every stream of a plane, those that a discard would restore among them. -/
def modStrs (g : StreamSt → StreamSt) (p : Plane) : Plane :=
  let all (t : Tab StreamSt) : Tab StreamSt := t.map fun q => (q.1, g q.2)
  { p with run := { p.run with streams := all p.run.streams }
           ckpts := p.ckpts.map fun c => { c with run := { c.run with streams := all c.run.streams }, oldS := all c.oldS } }

/-- An invalidation takes away the translations that a node's streams and command stream hold and it covers (R66). -/
def invForget (part : Nat) (v : Inval) (e : Elem) : Elem :=
  let keep (t : TEnt) : Bool := !invEntry part v t
  { e with
    planes := e.planes.map fun p => (p.1, modStrs (fun t => { t with tent := t.tent.filter keep, half := none }) p.2)
    ag := { e.ag with tent := e.ag.tent.filter keep } }

/-- The same of what the hub holds for one purpose. -/
def invHub (part : Nat) (v : Inval) (x : HubX) : HubX :=
  { x with tent := x.tent.filter fun e => !invEntry part v e
           bad := x.bad.filter fun b => !(v.kind == 2 || (b.1.1 == v.fn && (v.kind == 1 || b.1.2 / 2 ^ 48 == v.va / 2 ^ 48))) }

/-- The same of a walker: its caches, and its walks that may have read a covered entry, which start again whatever they answered (R66). -/
def invWalker (part : Nat) (v : Inval) (k : Walker) : Walker :=
  startWalks { k with
    leaves := k.leaves.filter fun e => !invEntry part v e
    tables := k.tables.filter fun e => !invEntry part v e
    queue := k.queue.map fun w => if invWalk part v w then { w with ans := none, started := false } else w }

/-- The held stores of its function that the partition's nodes hold, by node and number (R66). -/
def invStores (s : State) (part : Nat) (v : Inval) : List (Nat × Nat) :=
  (s.fab.elems.filter fun q => agIn s.hub part q.1).flatMap fun q =>
    (q.2.ag.hold.filter fun h => v.kind == 2 || h.fn == v.fn).map fun h => (q.1, h.no)

/-- The reads of its function that the partition's nodes have translated and that have not performed: those through a covered entry are among them
(R66). -/
def invReads (s : State) (part : Nat) (v : Inval) : List (Nat × Nat) :=
  (s.fab.elems.filter fun q => agIn s.hub part q.1).flatMap fun q =>
    (q.2.ag.reads.filter fun r => r.line.isNone && !r.pas.isEmpty && (v.kind == 2 || r.fn == v.fn)).map fun r => (q.1, r.no)

/-- An invalidation reaches the walkers, the hub and the nodes: caches and entries that it covers go, walks that may have read
one are made again, and the held stores and reads of its function are noted (R57, R66, R67). -/
def invReach (s : State) (part idx : Nat) (v : Inval) : State :=
  let t := modAgs s part fun _ e => invForget part v e
  let x := invHub part v
  let go (l : List Inval) : List Inval := lmod l idx fun v => { v with held := some (invStores s part v), reads := invReads s part v }
  { t with
    mem := { s.mem with walkers := s.mem.walkers.map fun q => (q.1, invWalker part v q.2) }
    fab := { t.fab with
      loads := t.fab.loads.map fun l => if l.part = part then { l with x := x l.x } else l
      regions := t.fab.regions.map fun r => (r.1, if r.2.launch.part = part then { r.2 with rx := x r.2.rx } else r.2) }
    hub := modPart s.hub part fun p =>
      { p with invals := go p.invals, qx := p.qx.map fun q => (q.1, x q.2)
               posts := p.posts.map fun q => (q.1, q.2.map fun r => { r with x := x r.x }) } }

/-- Those of a set of stores that a stopped region or a saved launch holds, which do not delay completion: they are marked for translation again
(R67). -/
def invStale (f : Fab) (l : List (Nat × Nat)) : Fab :=
  (l.filter fun q => stoppedAt f q.1).foldl (fun f q => modElem f q.1 fun e =>
    { e with ag := { e.ag with hold := e.ag.hold.map fun h => if h.no = q.2 then { h with stale := true } else h } }) f

/-- What R66 still waits for of an invalidation that has reached the nodes: noted reads that have not performed, and noted stores of regions that are
not stopped. -/
def invOwed (f : Fab) (v : Inval) (l : List (Nat × Nat)) : Bool :=
  (v.reads.any fun q => (elemOf f q.1).ag.reads.any fun r => r.no == q.2 && r.line.isNone) ||
    l.any fun q => !stoppedAt f q.1 && (elemOf f q.1).ag.hold.any fun h => h.no == q.2

/-- A held store that waits on XLATE at a covered address is translated again (R62, R67). -/
def holdWake (s : State) (part : Nat) (v : Inval) (h : Held) : Held := if h.xwait ∧ invAddr s part v h.fn h.va then { h with xwait := false } else h

/-- Streams, commands and marked stores that wait on XLATE at a covered address walk again; so do incomplete loads and launch queues (R62, R438). -/
def invWake (s : State) (part : Nat) (v : Inval) : State :=
  let wake (k : Nat) (p : Plane) : Plane := modStrs (fun t =>
    if t.xva.any fun a => invAddr s part v (planeFn k p) a then { t with xva := none, wait := if t.wait = 2 then 0 else t.wait } else t) p
  let go (c : AgCmd) : AgCmd := if c.wait = 2 ∧ invAddr s part v (cmdFn s.fab c.core) (copyAddr c) then { c with wait := 0 } else c
  let t := modAgs s part fun k e =>
    { e with planes := e.planes.map fun p => (p.1, wake k p.2)
             ag := { e.ag with hold := e.ag.hold.map (holdWake s part v), inbox := e.ag.inbox.map go } }
  { t with
    fab := { t.fab with loads := t.fab.loads.map fun l =>
      if l.part = part ∧ l.wait = 2 ∧ invAddr s part v l.fn (l.image.toNat + 32 * l.k) then { l with wait := 0 } else l }
    hub := modPart s.hub part fun p => { p with fwait := p.fwait.filter fun q => !invAddr s part v (q.1 / 9) q.2 } }

/-- INVALIDATION_COMPLETE (R66, R67): invalidation number idx of a partition first reaches its nodes, and completes when nothing that R66
names is left. -/
def execInvalidationComplete (part idx : Nat) (s : State) : Out :=
  match (partOf s.hub part).invals[idx]? with
  | none => .next s
  | some v => match v.held with
    | none => .next (invReach s part idx v)
    | some l =>
      let left := l.filter fun q => !stoppedAt s.fab q.1
      let s := { s with
        fab := invStale s.fab l
        hub := modPart s.hub part fun p => { p with invals := lmod p.invals idx fun v => { v with held := some left } } }
      if invOwed s.fab v left then .next s
      else
        let s := invWake s part v
        let hub := modPart s.hub part fun p =>
          { p with invals := p.invals.eraseIdx idx, xbusy := if v.core.isNone then false else p.xbusy }
        .next { s with hub := hub, fab := match v.core with
          | some c => cmdDone s.fab c v.id
          | none => s.fab }

end Sys2Proof.Machine
end

