-- ==== Sys2Proof/Machine/Saves.lean ====
section
/-! DEFINITION. What a stop does to a region as a whole: flushing a context's tokens and requests, and moving a saved launch out of its cores
and back (07 R200, 05 R143, 15 R429-R437). -/

namespace Sys2Proof.Machine

/-! ### Flushing a context (R112, R143, R200 step 1) -/

/-- Queues without the tokens of a context. -/
def cleanQ (ctx : Nat) (t : Tab (List Token)) : Tab (List Token) :=
  (t.map fun q => (q.1, q.2.filter fun x => x.ctx.toNat != ctx)).filter fun q => q.2 != []

/-- Operand selectors of the input queues. -/
def inSels : List Nat := (List.range 16).map (fun i => 0x20 + i) ++ (List.range 8).map fun i => 0x40 + i

/-- Tokens of a context that hold buffer places of an input selector. -/
def heldPlaces (n : Net) (ctx sel : Nat) : Nat :=
  ((tget [] n.rx sel).countP fun t => t.ctx.toNat == ctx) + (tget [] n.wire sel).countP fun t => t.ctx.toNat == ctx

/-- The sender of an input selector takes c permits back or gives c up. -/
def giveBack (f : Fab) (key sel c : Nat) (back : Bool) : Fab :=
  match neighbour key (selDir sel) with
  | none => f
  | some k =>
    let o := outSel sel (opposite (selDir sel))
    if c = 0 then f else modNet f k fun n => { n with used := tput 0 n.used o (if back then tget 0 n.used o - c else tget 0 n.used o + c) }

/-- Flushes a context's tokens from a switch; their permits return to the senders. -/
def flushNet (f : Fab) (ctx key : Nat) : Fab :=
  let n := (elemOf f key).net
  let f := inSels.foldl (fun f q => giveBack f key q (heldPlaces n ctx q) true) f
  modNet f key fun n => { n with rx := cleanQ ctx n.rx, wire := cleanQ ctx n.wire, outq := cleanQ ctx n.outq, bin := cleanQ ctx n.bin
                                 pair := n.pair.filter fun q => q.2 / 256 != ctx
                                 backlog := n.backlog.filter fun b => b.1 != ctx }

/-- Drops the marks of a context from the queues of a switch; their permits return to the senders (R424). -/
def dropMarks (f : Fab) (ctx key : Nat) : Fab :=
  let mark (t : Token) : Bool := t.ctx.toNat == ctx && decide (2 ≤ t.kind.toNat)
  let clean (t : Tab (List Token)) : Tab (List Token) := (t.map fun q => (q.1, q.2.filter fun x => !mark x)).filter fun q => q.2 != []
  let n := (elemOf f key).net
  let f := inSels.foldl (fun f q => giveBack f key q ((tget [] n.rx q).countP mark + (tget [] n.wire q).countP mark) true) f
  modNet f key fun n => { n with rx := clean n.rx, wire := clean n.wire, outq := clean n.outq }

/-- A pending write belongs to a plane. -/
def pendPlane : PendW → Nat
  | .v n _ _ => n
  | .a n _ _ => n
  | .p n _ _ => n
  | .ls n _ _ _ _ _ => n

/-- A request of a control core's command: no flush of a context drops it (R305). -/
def cmdReq (q : MemReq) : Bool := q.src == 1 || q.src == 5 || q.src == 6

/-- Drops a context's requests, sections, addends and reads in an element (R143, R170, R380). -/
def flushReqs (ctx : Nat) (e : Elem) : Elem :=
  let m := e.mt
  { e with
    mt := { m with
      bankq := (m.bankq.map fun b => (b.1, b.2.filter fun q => q.plane != ctx || cmdReq q)).filter fun b => b.2 != []
      cfgq := m.cfgq.filter (fun q => q.plane != ctx || cmdReq q), crq := m.crq.filter fun c => c.2.ctx.toNat != ctx
      groups := m.groups.filter fun g => g.2.req.plane != ctx
      sects := m.sects.filter fun y => y.plane != ctx
      credits := m.credits.filter (fun c => c.2.2.1 != ctx), touch := m.touch.filter fun t => t.2.1 != ctx }
    firn := e.firn.filter fun x => x.ctx != ctx
    out := tput 0 e.out ctx 0, heldW := e.heldW.filter fun q => q.1 % 4 != ctx
    ag := { e.ag with reads := e.ag.reads.filter (fun q => q.plane != ctx), spw := e.ag.spw.filter fun q => q.1 / 8 != ctx }
    pend := e.pend.filter fun q => pendPlane q.2 != ctx }

/-- Flushes a context from some elements of the fabric, credits, bounces and twin copies in flight among them. -/
def flushCtx (f : Fab) (keys : List Nat) (ctx : Nat) : Fab :=
  let f := keys.foldl (fun f k => modElem (flushNet f ctx k) k (flushReqs ctx)) f
  { f with
    creds := f.creds.filter fun c => !(keys.contains c.2.1 && c.2.2.1 == ctx)
    twins := f.twins.filter fun t => !(keys.contains t.1 && t.2.2.ctx.toNat == ctx) }

/-! ### Moving a launch between core numbers -/

/-- Renames a core. -/
def coreMap (src dst : List Nat) (c : Nat) : Nat := (((src.zip dst).find? fun q => q.1 == c).map fun q => q.2).getD c
/-- Renames an element key. -/
def keyMap (src dst : List Nat) (k : Nat) : Nat := 100 * coreMap src dst (k / 100) + k % 100

/-- Renames the element that a token notes as its sender. -/
def moveTok (src dst : List Nat) (t : Token) : Token := { t with sent := t.sent.map (keyMap src dst) }

/-- Renames the cores and keys that a request over the configuration path names. -/
def moveReq (src dst : List Nat) (q : MemReq) : MemReq :=
  if q.src = 0 then q
  else if q.src = 1 then { q with key := coreMap src dst q.key }
  else { q with key := keyMap src dst q.key, reg := if 5 ≤ q.src then coreMap src dst q.reg else q.reg }

/-- Renames the cores and keys that an element's storage names. -/
def moveElem (src dst : List Nat) (e : Elem) : Elem :=
  let mc := coreMap src dst
  let mq (t : Tab (List Token)) : Tab (List Token) := t.map fun q => (q.1, q.2.map (moveTok src dst))
  { e with
    net := { e.net with rx := mq e.net.rx, wire := mq e.net.wire, outq := mq e.net.outq, bin := mq e.net.bin
                        backlog := e.net.backlog.map fun b => (b.1, b.2.1, b.2.2.1, moveTok src dst b.2.2.2) }
    mt := { e.mt with
      bankq := e.mt.bankq.map fun b => (b.1, b.2.map (moveReq src dst))
      cfgq := e.mt.cfgq.map (moveReq src dst) }
    ag := { e.ag with inbox := e.ag.inbox.map fun c => { c with core := mc c.core } }
    planes := e.planes.map fun p =>
      (p.1, { p.2 with kwr := p.2.kwr.map fun k => (k.1, k.2.1, mc k.2.2.1, k.2.2.2)
                       sbind := p.2.sbind.map fun b => (b.1, b.2.1, mc b.2.2.1, b.2.2.2) }) }

/-- Moves the entries of a table whose cores are renamed; what stood at the new places is gone. -/
def moveTab {α : Type} (t : Tab α) (inSrc inDst : Nat → Bool) (ren : Nat → Nat) (g : α → α) : Tab α :=
  (t.filter fun q => inSrc q.1).foldl (fun u q => tins u (ren q.1) (g q.2)) (t.filter fun q => !inSrc q.1 && !inDst q.1)

/-- Renames the cores and keys that a region names. -/
def moveRegion (src dst : List Nat) (r : Region) : Region :=
  let mc := coreMap src dst
  let mk := keyMap src dst
  { r with
    startDue := r.startDue.map mc, gates := r.gates.map mk, msgs := r.msgs.map mk, leaseCore := mc r.leaseCore
    msgReply := r.msgReply.map (fun q => (mc q.1, q.2.1, q.2.2)), later := r.later.map fun m => (m.1, m.2.map fun q => (mc q.1, q.2.1, q.2.2))
    swap := r.swap.map fun w => { w with core := mc w.core, relend := w.relend }
    ctxs := r.ctxs.map fun c => (c.1, { c.2 with faults := c.2.faults.map fun x => { x with key := mk x.key } }) }

/-- Moves cores with everything that names them: elements, control cores, replies, credits, hub commands and walks. -/
def moveCores (s : State) (src dst : List Nat) : State :=
  let mc := coreMap src dst
  let mk := keyMap src dst
  let f := s.fab
  { s with
    fab := { f with
      elems := moveTab f.elems (fun k => src.contains (k / 100)) (fun k => dst.contains (k / 100)) mk (moveElem src dst)
      ccs := moveTab f.ccs src.contains dst.contains mc id
      fills := f.fills.map fun q => (mc q.1, q.2)
      creds := f.creds.map fun q => (q.1, mk q.2.1, q.2.2)
      twins := f.twins.map fun q => (mk q.1, q.2) }
    mem := { s.mem with walkers := s.mem.walkers.map fun w => (w.1, { w.2 with queue := w.2.queue.map fun x => { x with key := mk x.key } }) }
    hub := { s.hub with parts := s.hub.parts.map fun p => (p.1, { p.2 with
      children := p.2.children.map fun c => (c.1, c.2.map fun x => { x with core := mc x.core })
      invals := p.2.invals.map fun i => { i with core := i.core.map mc, held := i.held.map (fun l => l.map fun q => (mk q.1, q.2)), reads := i.reads.map fun q => (mk q.1, q.2) } }) } }

/-- Walk requests leave the walkers, which start others in their places (02 R58): a stream that is saved walks again when it resumes (02 R71). -/
def dropWalks (m : MemSys) (gone : Walk → Bool) : MemSys :=
  { m with walkers := m.walkers.map fun q => (q.1, startWalks { q.2 with queue := q.2.queue.filter fun w => !gone w }) }

/-! ### The part of an element that a drift context owns (R399, R409) -/

/-- What an element holds for one context alone; banks as a whole, of which the lend set returns (log 20). Counters whose clear is due are saved
clear, beside the window phase (05 R133, R144). -/
def ctxPart (n : Nat) (e : Elem) : Elem :=
  let own (t : Tab (List Token)) : Tab (List Token) := (t.map fun q => (q.1, q.2.filter fun x => x.ctx.toNat == n)).filter fun q => q.2 != []
  let m := quotaClear e.mt
  { net := { rx := own e.net.rx, wire := own e.net.wire, outq := own e.net.outq, bin := own e.net.bin
             pair := e.net.pair.filter (fun q => q.2 / 256 == n), routes := e.net.routes.filter (fun q => q.1 == n)
             badRoutes := e.net.badRoutes.filter (fun i => i == n)
             backlog := e.net.backlog.filter fun b => b.1 == n }
    planes := [(n, planeOf e n)]
    mt := { data := m.data, tags := m.tags, checks := m.checks, bad := m.bad, groups := m.groups.filter fun g => g.2.req.plane == n
            bankq := (m.bankq.map fun b => (b.1, b.2.filter fun q => q.plane == n && !cmdReq q)).filter fun b => b.2 != []
            cfgq := m.cfgq.filter (fun q => q.plane == n && !cmdReq q), crq := m.crq.filter fun c => c.2.ctx.toNat == n
            accepted := m.accepted, nextReq := m.nextReq, nextGrp := m.nextGrp
            jr := (m.jr.map fun b => (b.1, b.2.filter fun j => j.ctx == n)).filter fun b => b.2 != []
            credits := m.credits.filter fun c => c.2.2.1 == n
            sects := m.sects.filter fun y => y.plane == n, touch := m.touch.filter fun t => t.2.1 == n }
    badReg := e.badReg.filter (fun b => b.1 == n), cyc := e.cyc
    ct := { jr := e.ct.jr.filter fun j => j.ctx == n, halves := e.ct.halves.filter fun h => h.2.owner == some n
            fills := e.ct.fills.filter fun q => q.plane == n }
    ag := { hold := e.ag.hold.filter fun h => h.ctx == n, replay := e.ag.replay.filter fun q => q.2.1 == n
            reads := e.ag.reads.filter (fun q => q.plane == n), nextId := e.ag.nextId, spw := e.ag.spw.filter fun q => q.1 / 8 == n }
    firn := e.firn.filter fun x => x.ctx == n, out := tput 0 [] n (tget 0 e.out n), heldW := e.heldW.filter fun q => q.1 % 4 == n }

/-- A half whose owner has left its plane: it is FREE, and its rows keep their contents (R336, R238). -/
def freeHalf (h : Half) : Half := { h with fill := 0, full := false, count := 0, owner := none }

/-- Takes a context's journals, holds and kept tokens out of an element; its halves are free. -/
def dropStore (n : Nat) (e : Elem) : Elem :=
  { e with
    mt := { e.mt with jr := (e.mt.jr.map fun b => (b.1, b.2.filter fun j => j.ctx != n)).filter fun b => b.2 != [] }
    ct := { e.ct with jr := e.ct.jr.filter (fun j => j.ctx != n), fills := e.ct.fills.filter (fun q => q.plane != n)
                      halves := e.ct.halves.map fun h => if h.2.owner = some n then (h.1, freeHalf h.2) else h
                      reserve := e.ct.reserve.filter fun q => q.1 != n }
    ag := { e.ag with hold := e.ag.hold.filter (fun h => h.ctx != n), replay := e.ag.replay.filter fun q => q.2.1 != n } }

/-- Appends the entries of queues. -/
def joinQ {α : Type} (a b : Tab (List α)) : Tab (List α) := b.foldl (fun t q => tins t q.1 (tget [] t q.1 ++ q.2)) a

/-- A request whose numbers are moved up by s (06 R170). -/
def shiftReq (s : Nat) (q : MemReq) : MemReq :=
  { q with no := q.no + s, run := if q.run = 0 then 0 else q.run + s, grp := if q.src = 0 ∧ q.grp ≠ 0 then q.grp + s else q.grp
           id := if q.src = 3 ∨ q.src = 4 then q.id + s else q.id }

/-- Run state with the numbers of its requests and fences moved up. -/
def shiftRun (s : Nat) (r : PRun) : PRun :=
  { r with domq := r.domq.map (fun d => (d.1, d.2.map (shiftReq s))), fences := r.fences.map fun q => (q.1, q.2 + s) }

/-- A saved context's part with the numbers of its requests, groups, sections, reads and held stores moved up, past those that its new element has
given out (06 R170, 13 R376). -/
def shiftElem (s : Nat) (x : Elem) : Elem :=
  { x with
    planes := x.planes.map fun p => (p.1, { p.2 with run := shiftRun s p.2.run, ckpts := p.2.ckpts.map fun c => { c with run := shiftRun s c.run } })
    mt := { x.mt with
      bankq := x.mt.bankq.map fun b => (b.1, b.2.map (shiftReq s))
      cfgq := x.mt.cfgq.map (shiftReq s)
      groups := x.mt.groups.map fun g => (g.1 + s, { g.2 with req := shiftReq s g.2.req, wait := g.2.wait.map (shiftReq s) })
      sects := x.mt.sects.map fun y => { y with run := y.run + s, writes := y.writes.map (shiftReq s) }
      nextReq := x.mt.nextReq + s, nextGrp := x.mt.nextGrp + s }
    ag := { x.ag with hold := x.ag.hold.map (fun h => { h with no := h.no + s })
                      reads := x.ag.reads.map (fun r => { r with no := r.no + s, id := if r.id = 0 then 0 else r.id + s }), nextId := x.ag.nextId + s } }

/-- The highest number that some elements have given out. -/
def numbersOf (f : Fab) (keys : List Nat) : Nat :=
  keys.foldl (fun a k => max a (max (elemOf f k).ag.nextId (max (elemOf f k).mt.nextReq (elemOf f k).mt.nextGrp))) 0

/-- Invalidations under way with the held stores and reads that they name renamed (02 R66). -/
def renameInvals (h : Hub) (ren : Nat × Nat → Nat × Nat) : Hub :=
  { h with parts := h.parts.map fun p => (p.1, { p.2 with
      invals := p.2.invals.map fun i => { i with held := i.held.map (fun l => l.map ren), reads := i.reads.map ren } }) }

/-- Puts a context's part back into an element; its banks return where lent says (R408, R409). -/
def ctxMerge (n : Nat) (lent : Nat → Bool) (e x : Elem) : Elem :=
  let m := e.mt
  let data := [0, 1, 2, 3, 4, 5].foldl (fun d b =>
    if lent b then mclear d (32768 * b) (32768 * (b + 1)) ++ x.mt.data.filter (fun c => decide (32768 * b ≤ c.1 ∧ c.1 < 32768 * (b + 1))) else d) m.data
  { e with
    net := { e.net with rx := joinQ e.net.rx x.net.rx, wire := joinQ e.net.wire x.net.wire, outq := joinQ e.net.outq x.net.outq
                        bin := joinQ e.net.bin x.net.bin, pair := x.net.pair.foldl (fun t q => tins t q.1 q.2) e.net.pair
                        routes := x.net.routes.foldl (fun t q => tins t q.1 q.2) e.net.routes, badRoutes := e.net.badRoutes ++ x.net.badRoutes
                        backlog := e.net.backlog ++ x.net.backlog }
    planes := tins e.planes n (planeOf x n)
    mt := { m with
      data := data.foldl (fun t c => mput t c.1 c.2) []
      tags := x.mt.tags.foldl (fun t q => if lent (q.1 / 512) then tput 0 t q.1 q.2 else t) (m.tags.filter fun q => !lent (q.1 / 512))
      checks := x.mt.checks.foldl (fun t q => if lent (q.1 / 512) then tput zeroCheck t q.1 q.2 else t) (m.checks.filter fun q => !lent (q.1 / 512))
      accepted := x.mt.accepted.foldl (fun t q => if lent (q.1 / 17) then tput 0 t q.1 q.2 else t) (m.accepted.filter fun q => !lent (q.1 / 17))
      nextReq := max m.nextReq x.mt.nextReq, nextGrp := max m.nextGrp x.mt.nextGrp
      cfgq := m.cfgq ++ x.mt.cfgq, crq := m.crq ++ x.mt.crq
      bankq := joinQ m.bankq x.mt.bankq, groups := x.mt.groups.foldl (fun t g => tins t g.1 g.2) m.groups
      jr := joinQ m.jr x.mt.jr, credits := m.credits ++ x.mt.credits, sects := m.sects ++ x.mt.sects, touch := m.touch ++ x.mt.touch }
    ct := { e.ct with jr := e.ct.jr ++ x.ct.jr, fills := e.ct.fills ++ x.ct.fills, halves := x.ct.halves.foldl (fun t h => tins t h.1 h.2) e.ct.halves }
    ag := { e.ag with hold := e.ag.hold ++ x.ag.hold, replay := e.ag.replay ++ x.ag.replay, reads := e.ag.reads ++ x.ag.reads
                      nextId := max e.ag.nextId x.ag.nextId, spw := x.ag.spw.foldl (fun t q => tins t q.1 q.2) e.ag.spw }
    firn := x.firn.foldl (fun l y => firnSet l (if l.any fun z => z.n == y.n then { y with n := firnFree l } else y)) e.firn, out := tput 0 e.out n (tget 0 x.out n), heldW := x.heldW.foldl (fun t q => tins t q.1 q.2) e.heldW }

/-! ### Save slots and their headers (R430, R431) -/

/-- Free save slots of a partition, lowest first. -/
def freeSlots (p : Part) : List Nat :=
  if bit p.savecfg.toNat 63 then (List.range (p.savecfg.toNat % 256)).filter fun i => !p.slotsUsed.contains i else []

/-- Bytes of the save record (R431). -/
def saveRecord (r : Region) (l : Launch) (slots : List Nat) (corrupt : Bool) (reason : Nat) (dtime : Word) : Nat :=
  let w0 := 2 + 2 ^ 8 + b2n corrupt * 2 ^ 9 + reason * 2 ^ 10 + r.w * 2 ^ 16 + r.h * 2 ^ 20 + l.fn * 2 ^ 24 + l.part * 2 ^ 29 + b2n r.owner.isSome * 2 ^ 31 + r.w * r.h * 2 ^ 32
  let sw := match r.swap with
    | some w => (w.tick.toNat, w.old + w.new * 16 + 2 ^ 8)
    | none => (0, 0)
  packLanes 64 [w0, l.seq.toNat + l.queue * 2 ^ 32, dtime.toNat, sw.1, sw.2, 0, 0, 0] + packLanes 8 slots * 2 ^ 512 + l.lrec.toNat * 2 ^ 1024

/-- Device physical address of a save slot (R430). -/
def slotBase (p : Part) (slot : Nat) : Nat := (fld p.savecfg.toNat 24 24 + slot) * 2 ^ 24

/-- Writes the 256-byte header of a save slot (R431, R421). -/
def slotHeader (m : MemSys) (part : Nat) (p : Part) (slot v : Nat) : MemSys :=
  let pa := slotBase p slot
  (List.range 4).foldl (fun m i => (hbmWrite m part (pa + 64 * i) (2 ^ 64 - 1) (BitVec.ofNat 512 (v / 2 ^ (512 * i))) (some 0x7F00)).1) m

/-- Writes the headers of a saved launch's slots, the save record last (R429 step 3). -/
def saveHeaders (m : MemSys) (p : Part) (r : Region) (slots : List Nat) (corrupt : Bool) (reason : Nat) (dtime : Word) : MemSys :=
  let part := r.launch.part
  let m := (slots.zip (List.range slots.length)).foldl (fun m q =>
    if q.2 = 0 then m else slotHeader m part p q.1 (3 + 2 ^ 8 + q.2 * 2 ^ 9)) m
  match slots with
  | [] => m
  | q :: _ => slotHeader m part p q (saveRecord r r.launch slots corrupt reason dtime)

/-! ### The save image (R432) -/

/-- Groups of a saved element in a save image: space, first frame, count (R432). -/
def saveGroups (f : Fab) (rid : Option Nat) (key : Nat) : List (Nat × Nat × Nat) :=
  let e := elemOf f key
  let planes := if planeFrames key = 0 then [] else ([0, 1, 2, 3].filter fun n => (planeOf e n).st != .empty).map fun n => (n, 0, planeFrames key)
  let store := match kindOf key with
    | .ag => [(5, 0, 2 * e.ag.hold.length), (5, 2048, 2 * e.ag.replay.length)]
    | _ => [(5, 0, storeFrames key)]
  let all := (6, 0, 5) :: planes ++ (4, 0, 2) :: ((List.range 16).map fun t => (4, recFirst f rid key t, recCount f rid key t)) ++ store
  all.filter fun g => g.2.2 != 0

/-- A frame of an element that stands at key virt and stood at key (R432). -/
def saveFrame (f : Fab) (rid : Option Nat) (virt key space idx : Nat) : BitVec 256 :=
  let e := elemOf f virt
  if space = 4 then stateRead f rid virt idx
  else if space = 5 then storeRead f virt idx
  else if space = 6 then (if idx < 4 then tget 0 e.net.routes idx else linkRead e key)
  else tget 0 (planeOf e space).frames idx

/-- A group header with REL 0 (R215). -/
def groupHeader (x y : Nat) (g : Nat × Nat × Nat) : BitVec 256 :=
  BitVec.ofNat 256 (2 * 2 ^ 248 + (if g.1 < 4 then g.1 else 0) * 2 ^ 245 + g.1 * 2 ^ 242 + y * 2 ^ 235 + x * 2 ^ 228 + g.2.1 * 2 ^ 215 + g.2.2 * 2 ^ 201)

/-- The save image of a core that now stands as core virt (R213-R216, R432). -/
def saveImage (f : Fab) (rid : Option Nat) (r : Region) (virt core : Nat) : List (BitVec 256) :=
  let groups := (List.range 100).flatMap fun i => (saveGroups f rid (100 * virt + i)).map fun g => (i, g)
  let body := groups.flatMap fun q =>
    groupHeader (10 * (core % 8 - r.x0) + q.1 % 10) (10 * (core / 8 - r.y0) + q.1 / 10) q.2 ::
      (List.range q.2.2.2).map fun j => saveFrame f rid (100 * virt + q.1) (100 * core + q.1) q.2.1 (q.2.2.1 + j)
  let head := 2 ^ 248 + 2 ^ 240 + r.w * 2 ^ 236 + r.h * 2 ^ 232 + groups.length * 2 ^ 192 + (body.length + 2) * 2 ^ 160 + r.launch.seq.toNat * 2 ^ 64
  BitVec.ofNat 256 head :: body ++ [BitVec.ofNat 256 (3 * 2 ^ 248)]

/-- Frames two to a line; the last line of an odd number is filled with zeros. -/
def frameLines : List (BitVec 256) → List Line
  | [] => []
  | [a] => [a.setWidth 512]
  | a :: b :: r => (b ++ a) :: frameLines r

/-- Writes a core's save image into its slot, from offset 256 (R421, R432). -/
def writeImage (m : MemSys) (part : Nat) (p : Part) (slot : Nat) (frames : List (BitVec 256)) : MemSys :=
  let l := frameLines frames
  (l.zip (List.range l.length)).foldr (fun q m => (hbmWrite m part (slotBase p slot + 256 + 64 * q.2) (2 ^ 64 - 1) q.1 (some 0x7F00)).1) m

/-- A word of the saved elements shows an uncorrectable error, or a scratchpad line fails its CHECK or carries a reserved FMT: the save is CORRUPT
(R431, 03 R77, R78). -/
def saveCorrupt (f : Fab) (virt : List Nat) : Bool :=
  virt.any fun c => (List.range 100).any fun i =>
    let e := elemOf f (100 * c + i)
    !e.ct.bad.isEmpty || !e.mt.bad.isEmpty || (kindOf (100 * c + i) == .memory && (List.range 3072).any fun l => lineBad e.mt (l / 512) (l % 512)) || !e.badReg.isEmpty || !e.net.badRoutes.isEmpty || e.planes.any fun p => !p.2.bad.isEmpty

/-- The hub writes the images of a saved launch's cores, now at virt, and then the headers, with VALID last (R429 step 3). -/
def writeSave (s : State) (p : Part) (r : Region) (id : Nat) (cores virt slots : List Nat) (reason : Nat) (dtime : Word) : State :=
  let bad := saveCorrupt s.fab virt
  let f := { s.fab with regions := s.fab.regions ++ [(s.fab.nextRid, r)] }
  let m := (slots.zip (virt.zip cores)).foldl (fun m q => writeImage m r.launch.part p q.1 (saveImage f (some f.nextRid) r q.2.1 q.2.2)) s.mem
  { s with mem := saveHeaders m p r slots bad reason dtime
           hub := modPart s.hub r.launch.part fun p => { p with saved := tmod default p.saved id fun x => { x with corrupt := bad } } }

/-- The launch returns to the head of its queue (R397, R399). -/
def requeue (p : Part) (l : Launch) (id : Option Nat) : Part := { p with accepted := { l with saved := id, since := none } :: p.accepted }

/-- A load of a saved region is incomplete (R438). -/
def planesIncomplete (f : Fab) (l : Load) (keys : List Nat) : Fab :=
  keys.foldl (fun f k => modElem f k fun e => modPlane e l.plane fun p => { p with st := .incomplete, nfr := l.k }) f

/-- Region fields as they stand in a save: the lease has ended (R437), no gate signal is under way, and a region that is stopped, or that a fault has
stopped on the way to the save, stays so (R429). -/
def savedRegion (r : Region) : Region :=
  { r with leaseEnd := none, gates := [], saveDue := false, stays := false, phase := if r.phase = 4 ∨ r.stays then 4 else 0 }

/-- Loads into a region: its own image, or a preload of one of its planes (R438, R440). -/
def loadsOf (f : Fab) (rid : Nat) (r : Region) : List Load :=
  f.loads.filter fun l => l.rid == some rid ||
    (l.rid.isNone && r.owner.isNone && l.part == r.launch.part && l.x0 == r.x0 && l.y0 == r.y0 && l.w == r.w && l.h == r.h)

/-- What a save leaves in the freed cores: storage keeps its contents until a scrub (R238), and the debug compare is no part of a launch (R426). -/
def keepStore (e : Elem) : Elem :=
  { mt := { data := e.mt.data, tags := e.mt.tags, checks := e.mt.checks, bad := e.mt.bad }
    ct := { ls := e.ct.ls, bad := e.ct.bad, halves := e.ct.halves.map fun h => (h.1, freeHalf h.2) }
    ag := { buf := e.ag.buf }, dbg := e.dbg }

/-- A saved launch's cores with what stays in them. -/
def leaveStores (f : Fab) (cores virt : List Nat) : Fab :=
  (cores.zip virt).foldl (fun f q =>
    let c := ccOf f q.2
    let f : Fab := { f with ccs := tins f.ccs q.1 { isram := c.isram, dsram := c.dsram, bad := c.bad } }
    (List.range 100).foldl (fun f i => { f with elems := tput {} f.elems (100 * q.1 + i) (keepStore (elemOf f (100 * q.2 + i))) }) f) f

/-- Device time at the gate of a saved launch (R431): of a drift context, which no gate stops, that of its save (log 20). -/
def gateTime (s : State) (r : Region) : Word := if r.owner.isSome then s.clk.dtime else r.gateAt

/-- Saves a placed launch into the free slots after some that are kept for another: its images and headers are written, its cores or its drift context leave the fabric (R429
steps 3 and 4, R432; log 20). -/
def saveLaunch (s : State) (rid : Nat) (r : Region) (reason keep : Nat) : State :=
  let part := r.launch.part
  let p := partOf s.hub part
  let slots := ((freeSlots p).drop keep).take (r.w * r.h)
  let cores := regionCores r
  let base := 64 * (p.nextSave + 4096 * part + 1)
  let virt := (List.range cores.length).map fun i => base + i
  let lds := loadsOf s.fab rid r
  let s := { s with fab := lds.foldl (fun f l => planesIncomplete f l (planeKeys r)) s.fab }
  let s := if r.leaseEnd.isSome then { s with fab := modCc s.fab r.leaseCore fun c => setEv c 4 } else s
  let s := { s with
    hub := modPart s.hub part fun p =>
      let x : Saved := { region := moveRegion cores virt (savedRegion r), base := base, slots := slots, reason := reason, dtime := gateTime s r, loads := lds }
      requeue { p with saved := tins p.saved p.nextSave x, slotsUsed := p.slotsUsed ++ slots, nextSave := p.nextSave + 1 } r.launch (some p.nextSave)
    fab := { s.fab with loads := s.fab.loads.filter fun l => !lds.contains l } }
  match r.owner with
  | none =>
    let s := moveCores { s with mem := dropWalks s.mem fun w => cores.contains (keyCore w.key) } cores virt
    writeSave { s with fab := { leaveStores s.fab cores virt with regions := s.fab.regions.filter fun q => q.1 != rid } } p r p.nextSave cores virt slots reason (gateTime s r)
  | some _ =>
    let n := r.plane
    let keys := regionKeys r
    let mine (q : Nat × Nat) : Bool := keys.contains q.1 &&
      ((elemOf s.fab q.1).ag.hold.any (fun h => h.no == q.2 && h.ctx == n) || (elemOf s.fab q.1).ag.reads.any fun x => x.no == q.2 && x.plane == n)
    let s := { s with hub := renameInvals s.hub fun q => if mine q then (keyMap cores virt q.1, q.2) else q }
    let f := keys.foldl (fun f k => { f with elems := tins f.elems (keyMap cores virt k) (ctxPart n (elemOf f k)) }) s.fab
    let crd := f.creds.map fun c => if keys.contains c.2.1 && c.2.2.1 == n then (c.1, keyMap cores virt c.2.1, c.2.2) else c
    let f := flushCtx { f with creds := crd } keys n
    let f := keys.foldl (fun f k => modElem f k fun e => modPlane (dropStore n e) n fun _ => {}) f
    let s := { s with mem := dropWalks s.mem fun w => keys.contains w.key && w.plane == n && w.stream != 8 }
    writeSave { s with fab := { f with regions := f.regions.filter fun q => q.1 != rid } } p r p.nextSave cores virt slots reason (gateTime s r)

end Sys2Proof.Machine
end

