-- ==== Sys2Proof/Machine/Rounds.lean ====
section
/-! DEFINITION. Round controllers: entering rounds, early edges, commit, discard, replay, breakpoints, quiescence and retirement (04
R111-R125, 05 R141-R143, 07 R194-R205, 15 R410-R426, 21 R465-R468). -/

namespace Sys2Proof.Machine

/-! ### Round numbers and sources -/

/-- Round a stands at or before round b, modulo 2^32 (R188). -/
def rle (a b : BitVec 32) : Bool := decide ((b - a).toNat < 2 ^ 31)

/-- A source of a context (R197, R198): its place, port or stream, edge group and weight, the round of its tokens and their count. -/
structure Src where
  key : Nat
  vin : Bool
  idx : Nat
  edge : Bool
  grp : Nat
  wt : Nat
  round : BitVec 32
  count : Nat
  deriving DecidableEq, Repr

/-- A read stream has emitted the end mark of its swap (R404). -/
def strOver (e : Elem) (n i : Nat) : Bool :=
  let st := strSt (planeOf e n) i
  st.last.isSome && !st.endDue

/-- The unfinished sources of a context in a region: the ports that it uses, other contexts' tokens before its own or not, and the read streams of its
bound planes. -/
def sourcesOf (f : Fab) (r : Region) (ctx : Nat) : List Src :=
  let ports := (regionCores r).flatMap fun c => (ccOf f c).vins.filterMap fun q => (vinWord q.2 ctx).map fun w =>
    { key := 100 * c, vin := true, idx := q.1, edge := vEdge w, grp := fld w.toNat 16 3, wt := fld w.toNat 24 8
      round := (vinCtx q.2 ctx).round, count := (vinCtx q.2 ctx).count }
  let strs := ((planeKeys r).filter fun k => kindOf k == .ag).flatMap fun k =>
    let e := elemOf f k
    let p := planeOf e ctx
    if p.st ≠ .bound then [] else (List.range 8).filterMap fun i =>
      let st := strSt p i
      let x : Src := { key := k, vin := false, idx := i, edge := strEdge p i, grp := strGrp p i, wt := strWt p i, round := st.round, count := st.count }
      if strEn p i && !strDir p i && !strOver e ctx i then some x else none
  ports ++ strs

/-- The earliest round among some sources. -/
def minRound (l : List Src) : Option (BitVec 32) :=
  l.foldl (fun a x => match a with
    | none => some x.round
    | some r => if rle x.round r then some x.round else some r) none

/-- The round that a context's edge sources have all opened: the earliest of theirs, or the newest one opened where none is left. -/
def openRound (c : RCtx) (l : List Src) : BitVec 32 := (minRound (l.filter fun x => x.edge)).getD c.round

/-! ### Entering a round (R195) -/

/-- A context of a plane is revoked or its element stands. -/
def planeStill (f : Fab) (key n : Nat) : Bool :=
  let p := planeOf (elemOf f key) n
  halted f key || p.st != .bound || p.revoked

/-- The head of a queue is a mark of a kind for a context: its number. -/
def markAtHead (e : Elem) (n q : Nat) (kind : BitVec 3) : Option (BitVec 32) :=
  match headOf e q with
  | some t => if t.kind = kind ∧ t.ctx.toNat = n then some (t.data.setWidth 32) else none
  | none => none

/-- Output queues on which an element emits its marks: an AG node's read streams emit their own. -/
def markOuts (key : Nat) (p : Plane) : List Nat := if kindOf key = .ag then [] else planeOuts key p

/-- Pops the marks that stand at the heads of a plane's back-edge queues (R195, R196). -/
def backMarks (f : Fab) (key n : Nat) : Fab :=
  let p := planeOf (elemOf f key) n
  ((planeReads key p).filter (isBack key p)).foldl (fun f q =>
    let e := elemOf f key
    match markAtHead e n q 2, markAtHead e n q 3 with
    | some r, _ => modElem (popQ f key q) key fun e => modRun e n fun u => { u with bmark := tput 0 u.bmark q r }
    | _, some _ => modElem (popQ f key q) key fun e => modRun e n fun u => { u with bmark := tput 0 u.bmark q u.round }
    | _, _ => f) f

/-- A back-edge queue of a plane holds a mark at its head. -/
def hasBackMark (f : Fab) (key n : Nat) : Bool :=
  let e := elemOf f key
  let p := planeOf e n
  (planeReads key p).any fun q => isBack key p q && ((markAtHead e n q 2).isSome || (markAtHead e n q 3).isSome)

/-- The element's own part of a round edge is done (R117, R141, R170): addends flushed, requests performed, sections retired. -/
def edgeClean (f : Fab) (key n : Nat) : Bool :=
  let e := elemOf f key
  e.pend.isEmpty && (!hasFirn key || (tget 0 e.out n == 0 && firnHeld e n == 0 && (planeOf e n).run.flush.isEmpty)) &&
    (kindOf key != .ag || agSettled f key n) &&
    (kindOf key != .memory || (!planeBusy e n e.mt.nextReq && e.mt.sects.all fun y => y.plane != n))

/-- The root element of a context's counter chain (R194): CHEN set, smallest (y, x). -/
def rootOf (f : Fab) (r : Region) (n : Nat) : Option Nat :=
  ((planeKeys r).filter fun k => bit (planeCtl k (planeOf (elemOf f k) n)) 23).foldl (fun a k => match a with
    | none => some k
    | some b => if gy k < gy b ∨ (gy k = gy b ∧ gx k < gx b) then some k else some b) none

/-- Width of a level of a counter chain (R194, R388). -/
def chainWidth (l : Launch) (k : Nat) : Nat := recFld l (128 + 6 * (k - 1)) 6

/-- CWID with the index of an index token in its level's field; a level of width 0 has none (R194, R363). -/
def chainPut (l : Launch) (cwid : Word) (data : Nat) : Word :=
  let k := fld data 61 3
  let w := chainWidth l k
  let top := ((List.range (k - 1)).map fun j => chainWidth l (j + 1)).sum
  if k = 0 ∨ 6 < k ∨ w = 0 then cwid else BitVec.ofNat 64 (setFld cwid.toNat (64 - top - w) w (fld data 0 32 % 2 ^ w))

/-- A bound plane with CHEN takes the index token at the head of its chain queue into CWID (R194). -/
def chainTake (f : Fab) (key n : Nat) : Fab :=
  let e := elemOf f key
  let p := planeOf e n
  let q := 0x40 + fld (planeCtl key p) 16 3
  if !bit (planeCtl key p) 23 ∨ planeStill f key n ∨ !headOk e n 0 0 q then f
  else match headOf e q, regionOf f (keyCore key) with
    | some t, some (rid, r) =>
      let g := popPlane f key n q t
      if !g.2 then g.1
      else modElem g.1 key fun e => modRun e n fun u => { u with cwid := chainPut (launchOf f rid n r).2.launch u.cwid (t.data.toNat % 2 ^ 64) }
    | _, _ => f

/-- The chain queues of an element's planes in a tile cycle. -/
def chainTick (f : Fab) (key : Nat) : Fab := [0, 1, 2, 3].foldl (fun f n => chainTake f key n) f

/-- The stream state that an sbind leaves, in a round (R291). -/
def sbindStream (r : BitVec 32) : StreamSt := { round := r, ckpts := [{ round := r, pos := 0, latch := none, hdr := none }] }

/-- Frames of a plane with no image copy once its pending sbind has been written (R415). -/
def sbindPatched (p : Plane) : List Nat := p.sbind.foldl (fun l b => b.2.1.foldl (fun l q => if l.contains q.1 then l else q.1 :: l) l) p.patched

/-- An element enters round nxt of a plane: its checkpoint, then pending kwr and sbind effects (R118, R200, R291, R303, R305, R425). -/
def enterPlane (n : Nat) (nxt : BitVec 32) (e : Elem) : Elem :=
  modPlane e n fun p =>
    let run := { p.run with round := nxt, slots := p.run.slots.map fun q => (q.1, { q.2 with fired := 0, endFired := false, endPred := none }) }
    let ck : Ckpt :=
      { round := nxt, run := run, halves := e.ct.halves.filter (fun h => h.2.owner == some n)
        fills := e.ct.fills.filter (fun q => q.plane == n), kwr := p.kwr, sbind := p.sbind
        oldF := p.sbind.flatMap fun b => [0, 1, 2].map fun j => (3 * b.1 + j, tget 0 p.frames (3 * b.1 + j))
        oldS := p.sbind.map fun b => (b.1, tget {} run.streams b.1) }
    { p with
      told := none, ckpts := p.ckpts ++ [ck], kwr := [], sbind := []
      frames := p.sbind.foldl (fun t b => b.2.1.foldl (fun t q => tput 0 t q.1 q.2) t) p.frames
      bad := p.bad.filter fun i => !(p.sbind.any fun b => b.1 == i / 3)
      patched := sbindPatched p
      run := { run with k := p.kwr.foldl (fun t q => tput 0 t q.1 q.2.1) run.k
                        streams := p.sbind.foldl (fun t b => tins t b.1 (sbindStream nxt)) run.streams } }

/-- The sbind commands whose binds have taken effect fill their replies (R291). -/
def sbindEnd (f : Fab) (key : Nat) (t : Tab (List (Nat × BitVec 256) × Nat × Nat)) : Fab :=
  t.foldl (fun f b => match (elemOf f key).ag.inbox.find? fun c => c.core == b.2.2.1 && c.id == b.2.2.2 with
    | some c => cmdEnd f key c 0
    | none => f) f

/-- Enters the next round of a plane: pops the round marks of its inputs and emits one on every output. -/
def enterRound (f : Fab) (key n : Nat) : Fab :=
  let p := planeOf (elemOf f key) n
  let nxt := p.run.round + 1
  let f := (planeWaits key p).foldl (fun f q => if (markAtHead (elemOf f key) n q 2).isSome then popQ f key q else f) f
  let f := (markOuts key p).foldl (fun f q => pushOut f key q (markToken (isWideSel q) 2 n (ctagOf key p q) nxt)) f
  let f := modElem (sbindEnd f key p.sbind) key (enterPlane n nxt)
  match regionOf f (keyCore key) with
  | none => f
  | some (rid, r) =>
    if rootOf f r n = some key then modRegion f rid fun r => modCtx r n fun c => { c with ivs := (nxt, p.run.cwid) :: c.ivs } else f

/-- The marks that let an element enter its next round stand at its inputs, or it has been told (R195, R459). -/
def mayEnter (e : Elem) (key n : Nat) : Bool :=
  let p := planeOf e n
  let nxt := p.run.round + 1
  let ws := planeWaits key p
  if ws.isEmpty then p.told == some nxt
  else ws.all (fun q => markAtHead e n q 2 == some nxt || (markAtHead e n q 3).isSome) && ws.any fun q => markAtHead e n q 2 == some nxt

/-- ROUND_ENTRY (R195, R196, R141, R117, R170): an element pops the marks of its back edges, completes its part of the edge, or enters the
next round. -/
def execRoundEntry (key plane : Nat) (s : State) : Out :=
  let f := s.fab
  let e := elemOf f key
  let p := planeOf e plane
  if !hasPlanes key ∨ planeStill f key plane then .next s
  else if hasBackMark f key plane then onFab s fun f => backMarks f key plane
  else if !mayEnter e key plane then .next s
  else match edgeFlush f key plane with
  | some f => .next { s with fab := f }
  | none =>
    if edgeClean f key plane ∧ (markOuts key p).all (fun q => decide (1 ≤ outRoom e q)) then onFab s fun f => enterRound f key plane
    else .next s

/-! ### The end of a context (R190, R192, R195) -/

/-- Every slot of kind condition 1 has fired for the end mark or is skipped, as its predicate stood when the mark came to stand at every input; where
the element has no input, no end mark stands at one and none fires (R192). -/
def endSlots (e : Elem) (key n : Nat) : Bool :=
  let p := planeOf e n
  (validSlots key p).all fun i =>
    let w := slotFields (slotWordOf p i)
    w.kindc != 1 || (planeWaits key p).isEmpty || (slotOfRun p.run i).endFired || (slotOfRun p.run i).endPred == some false

/-- An element sees the end of a context: end marks on every input it waits on, or, with no input, the end of the context's sources
elsewhere (R190, R195). -/
def seesEnd (f : Fab) (key n : Nat) : Bool :=
  let e := elemOf f key
  let p := planeOf e n
  let ws := planeWaits key p
  let strs := kindOf key != .ag || (List.range 8).all fun i => !strEn p i || strDir p i || strOver e n i
  let own := kindOf key == .ag && (List.range 8).any fun i => strEn p i && !strDir p i
  strs && (if !ws.isEmpty then ws.all fun q => (markAtHead e n q 3).isSome
    else own || (match regionOf f (keyCore key) with
      | none => false
      | some (_, r) => (sourcesOf f r n).isEmpty && (planeKeys r).any fun k => (planeOf (elemOf f k) n).st == .retiring))

/-- END_MARK (R190, R192, R195): an element forwards the end mark of a context and its plane becomes retiring. -/
def execEndMark (key plane : Nat) (s : State) : Out :=
  let f := s.fab
  let e := elemOf f key
  let p := planeOf e plane
  if !hasPlanes key ∨ planeStill f key plane ∨ !seesEnd f key plane ∨ !endSlots e key plane then .next s
  else match edgeFlush f key plane with
  | some f => .next { s with fab := f }
  | none =>
    if edgeClean f key plane ∧ (markOuts key p).all (fun q => decide (1 ≤ outRoom e q)) then onFab s fun f =>
      let f := (planeWaits key p).foldl (fun f q => popQ f key q) f
      let f := (markOuts key p).foldl (fun f q => pushOut f key q (markToken (isWideSel q) 3 plane (ctagOf key p q) p.run.round)) f
      modElem f key fun e => modPlane e plane fun p => { p with st := .retiring }
    else .next s

/-! ### Early edges and signals (R121, R197, R198, R459) -/

/-- A structure of the element has passed its mark and asks for an early edge (R121, R199). -/
def asksEarly (f : Fab) (key n : Nat) : Bool :=
  let e := elemOf f key
  match kindOf key with
  | .ag => decide (768 < e.ag.hold.length) || decide (768 < replayUse e)
  | .memory => [0, 1, 2, 3, 4, 5].any fun b => decide (bJhwm (planeOf e n) b < (tget [] e.mt.jr b).length)
  | .compute => decide (24 < e.ct.jr.length)
  | .core => (ccOf f (keyCore key)).vins.any fun v => decide (48 ≤ v.2.kept.length + v.2.queue.length) && (vinWord v.2 n).isSome
  | _ => false

/-- Orders the marks of the non-edge ports of a context that stand before a round (R198): each after the tokens now in its log. -/
def orderMarks (f : Fab) (n : Nat) (l : List Src) (ok : Src → Bool) : Fab :=
  l.foldl (fun f x =>
    if x.edge || !ok x || !x.vin then f
    else modCc f (keyCore x.key) fun c =>
      let v := vinOf c x.idx
      let u := vinCtx v n
      { c with vins := tins c.vins x.idx { v with ctxs := tins v.ctxs n { u with markAt := some (u.markAt.getD v.queue.length) } } }) f

/-- The same for read streams. -/
def orderStreams (f : Fab) (n : Nat) (l : List Src) (ok : Src → Bool) : Fab :=
  l.foldl (fun f x => if x.edge || x.vin || !ok x then f else modStr f x.key n x.idx fun t => { t with markAt := some (t.markAt.getD t.count) }) f

/-- The counts u of the edge groups that cut round r now (R197). -/
def cutCounts (f : Fab) (rid : Nat) (r : Region) (ctx : Nat) (n : BitVec 32) (l : List Src) : Tab Nat :=
  (List.range 8).foldl (fun t g =>
    let xs := l.filter fun x => x.edge && x.grp == g
    let old := edgeU f rid r ctx n g
    let u := if xs.any fun x => x.round != n then old else xs.foldl (fun m x => max m ((x.count + (x.wt - 1)) / max x.wt 1)) 0
    tins t g (if xs.isEmpty then old else u)) []

/-- EARLY_EDGE_REQUEST (R121, R197, R198, R295): the round controller acts on a request, once per round. -/
def execEarlyEdgeRequest (key plane : Nat) (s : State) : Out :=
  match regionOf s.fab (keyCore key) with
  | none => .next s
  | some (rid, r) =>
    let c := ctxOf r plane
    let l := sourcesOf s.fab r plane
    let edges := l.filter fun x => x.edge
    let n := openRound c l
    let p := planeOf (elemOf s.fab key) plane
    let asks := asksEarly s.fab key plane && (kindOf key == .core || (p.st == .bound && p.run.round == n))
    if halted s.fab key ∨ !ctxLive r plane ∨ p.revoked ∨ c.earlyDone = some n ∨ !(c.early || asks) then .next s
    else if edges.isEmpty then
      if !mayOpen r plane n then .next s
      else onFab s fun f => modRegion f rid fun r => modCtx r plane fun c => { c with round := n + 1, earlyDone := some n, early := false }
    else onFab s fun f =>
      let u := cutCounts f rid r plane n l
      let f := modRegion f rid fun r => modCtx r plane fun c => { c with u := u, uRound := some n, earlyDone := some n, early := false }
      let ok (x : Src) : Bool := x.round == n
      orderStreams (orderMarks f plane l ok) plane l ok

/-- NONEDGE_SIGNAL (R198, R459): once every edge source has emitted the mark that opens a round, the non-edge sources are signalled and
elements with no input are told to enter it; a control core enters at once (R286). While the start token of a launch is still due at a core, its
sources there have emitted no mark. -/
def execNonedgeSignal (rid plane : Nat) (s : State) : Out :=
  match region? s.fab rid with
  | none => .next s
  | some r =>
    let l := sourcesOf s.fab r plane
    let n := openRound (ctxOf r plane) l
    let ok (x : Src) : Bool := x.round != n && rle x.round n
    if !ctxLive r plane ∨ r.phase ≠ 0 ∨ (launchOf s.fab rid plane r).2.startDue ≠ [] then .next s
    else onFab s fun f =>
      let f := orderStreams (orderMarks f plane l ok) plane l ok
      let f := (regionCores r).foldl (fun f c => modCc f c fun c => { c with rounds := tput 0 c.rounds plane n }) f
      (planeKeys r).foldl (fun f k => modElem f k fun e =>
        let p := planeOf e plane
        if p.st == .bound && !p.revoked && (planeWaits k p).isEmpty && p.run.round != n && rle p.run.round n then
          modPlane e plane fun p => { p with told := some (p.run.round + 1) }
        else e) f

/-! ### Commit (R111, R119, R123, R125, R466) -/

/-- A fault that holds a commit back: one that waits at the round controller, or a comparator's mismatch (R204, R468). A structure that asked for
a capacity discard does not. -/
def holdsCommit (x : FaultRec) : Bool := x.cause != 0 || x.info1 == 7

/-- Round n of a context meets R111 in a region. -/
def mayCommit (f : Fab) (rid ctx : Nat) : Bool :=
  match region? f rid with
  | none => false
  | some r =>
    let c := ctxOf r ctx
    let n := c.cround + 1
    ctxLive r ctx && r.phase == 0 && (launchOf f rid ctx r).2.startDue.isEmpty && !(c.faults.any holdsCommit) &&
      (planeKeys r).all (fun k =>
        let p := planeOf (elemOf f k) ctx
        !(p.st == .bound && (p.revoked || !rle (n + 1) p.run.round)) && !(p.st == .retiring && p.revoked)) &&
      (planeKeys r).any fun k =>
        let p := planeOf (elemOf f k) ctx
        (p.st == .bound || p.st == .retiring) && rle n p.run.round

/-- Performs one held store at its memory node; a refusal is a fault of the round in progress (R74, R63, R125). -/
def holdPerform (s : State) (key : Nat) (h : Held) : State :=
  let part := corePartOf s.fab (keyCore key)
  let r := lineWrite s.mem part h.pa h.route h.mask.toNat h.data h.tag
  let s := poisonPost { s with mem := r.1 }
  match r.2 with
  | .ok => s
  | x => strRaise s key h.ctx h.stream (planeOf (elemOf s.fab key) h.ctx).run.round (hresCause x)
      (if x = .prot then tInfo 11 7 h.fn h.va else BitVec.ofNat 64 h.pa) 0

/-- Performs the stores of a round: those of one stream in its order; which stream's store comes next is free at every store (R119, R154, log 13). -/
def performAll : Nat → State → List (Nat × Nat × List Held) → State
  | 0, s, _ => s
  | fuel + 1, s, l =>
    if l.isEmpty then s
    else
      let i := Config.choice s.free % l.length
      let s := { s with free := s.free + 1 }
      match l[i]? with
      | some (k, j, h :: rest) => performAll fuel (holdPerform s k h) (if rest.isEmpty then l.eraseIdx i else l.set i (k, j, rest))
      | _ => s

/-- The held stores of a round of a context by node and stream, in iteration order. -/
def heldOf (f : Fab) (r : Region) (ctx : Nat) (n : BitVec 32) : List (Nat × Nat × List Held) :=
  ((planeKeys r).filter fun k => kindOf k == .ag).flatMap fun k => (List.range 8).filterMap fun i =>
    let hs := (elemOf f k).ag.hold.filter fun h => h.ctx == ctx && h.round == n && h.stream == i
    if hs.isEmpty then none else some (k, i, hs)

/-- Frees what an element keeps for committed round n of a context (R111, R196). -/
def commitElem (ctx : Nat) (n : BitVec 32) (e : Elem) : Elem :=
  let keep (c : Nat) (r : BitVec 32) : Bool := !(c == ctx && rle r n)
  let e := { e with
    net := { e.net with backlog := e.net.backlog.filter fun b => keep b.1 b.2.1 }
    mt := { e.mt with jr := (e.mt.jr.map fun b => (b.1, b.2.filter fun j => keep j.ctx j.round)).filter fun b => b.2 != []
                      touch := e.mt.touch.filter fun t => keep t.2.1 t.2.2 }
    ct := { e.ct with jr := e.ct.jr.filter fun j => keep j.ctx j.round }
    ag := { e.ag with hold := e.ag.hold.filter (fun h => keep h.ctx h.round), replay := e.ag.replay.filter fun q => keep q.2.1 q.2.2.1 } }
  if (planeOf e ctx).st == .bound || (planeOf e ctx).st == .retiring then
    modPlane e ctx fun p =>
      { p with
        cround := n
        ckpts := p.ckpts.filter fun c => !rle c.round n
        run := { p.run with streams := p.run.streams.map fun q => (q.1, { q.2 with ckpts := q.2.ckpts.filter fun c => !rle c.round n }) } }
  else e

/-- Frees what a control core keeps for committed round n of a context (R199, R418). -/
def commitCore (ctx : Nat) (n : BitVec 32) (c : CC) : CC :=
  { c with
    vins := c.vins.map fun v => (v.1, { v.2 with kept := v.2.kept.filter fun q => !(q.2.1.toNat % 4 == ctx && rle q.1 n) })
    sinks := c.sinks.map fun k => (k.1, { k.2 with dlv := k.2.dlv.filter (fun d => !(d.1 == ctx && rle d.2.1 n))
                                                   drop := k.2.drop.filter fun d => !(d.1 == ctx && rle d.2.1 n) }) }

/-- Round n of a context commits in one region (R111, R119, R296, R387). -/
def commitRegion (ctx : Nat) (s : State) (rid : Nat) : State :=
  match region? s.fab rid with
  | none => s
  | some r =>
    let n := (ctxOf r ctx).cround + 1
    let held := heldOf s.fab r ctx n
    let second := (ctxPair s.fab rid ctx).head? != some rid
    let s := if second then s else performAll (held.map fun q => q.2.2.length).sum s held
    let f := (regionKeys r).foldl (fun f k => modElem f k (commitElem ctx n)) s.fab
    let f := (regionCores r).foldl (fun f c => modCc f c (commitCore ctx n)) f
    let f := modRegion f rid fun r => modCtx r ctx fun c =>
      { c with
        cround := n, halvings := 0, ivs := c.ivs.filter fun v => !rle v.1 n
        faults := c.faults.filter holdsCommit
        replayed := c.replayed.filter (fun r => !rle r n), twreplayed := c.twreplayed.filter fun r => !rle r n }
    let f := regionEvent f r 2
    let f := (regionCores r).foldl (fun f c => wcSettle f c) f
    let l := (launchOf f rid ctx r).2.launch
    let s := { s with fab := f }
    if second ∨ recFld l 326 1 = 0 then s
    else { s with hub := modPart s.hub l.part fun p => addEvent p l.fn (recFld l 320 6) 1 }

/-- A held store whose check does not hold, or a word of which has an uncorrectable error (R470, R471). -/
def heldBad (h : Held) : Bool := h.bad || holdCheck h != h.check

/-- The first held store of the round that is to commit whose node finds an error as it verifies it (R470). -/
def commitBad (f : Fab) (rid ctx : Nat) : Option (Nat × Held) :=
  (region? f rid).bind fun r => (heldOf f r ctx ((ctxOf r ctx).cround + 1)).findSome? fun q => (q.2.2.find? heldBad).map fun h => (q.1, h)

/-- ROUND_COMMIT (R111, R466): the oldest uncommitted round of a context commits, in both regions of a twin pair. The nodes verify the stores of the
first region, which are the ones that perform: one that fails is UNCORR of its round, which then does not commit (R470). -/
def execRoundCommit (rid plane : Nat) (s : State) : Out :=
  let rs := ctxPair s.fab rid plane
  if !(rs.all fun q => mayCommit s.fab q plane) then .next s
  else match (rs.head?.bind fun q => commitBad s.fab q plane) with
  | some (k, h) => .next (strRaise s k plane h.stream h.round 0x0B (BitVec.ofNat 64 h.pa) 4)
  | none => .next (rs.foldl (commitRegion plane) s)

/-! ### Permit counts of links (21 R474, R475) -/

/-- Output selectors of an element position. -/
def outSels : List Nat := (List.range 16).map (fun i => 0x30 + i) ++ (List.range 8).map fun i => 0x48 + i

/-- One link and VC of the audit: what the sender holds and what the receiver's slots hold. -/
def auditLink (f : Fab) (key o : Nat) : Nat × Nat :=
  let n := (elemOf f key).net
  let occ := match neighbour key (selDir o) with
    | none => 0
    | some k =>
      let q := inSel (if isWideSel o then 0x20 + selVc o else 0x40 + selVc o) (opposite (selDir o))
      ((tget [] (elemOf f k).net.rx q).countP fun t => !t.twin) + (tget [] (elemOf f k).net.wire q).length
  (permitsOf n key o + tget 0 n.owed o, occ)

/-- VC 3 of the wide network and VC 1 of the narrow one belong to drift contexts (R179). -/
def driftVc (o : Nat) : Bool := if isWideSel o then selVc o == 3 else selVc o == 1

/-- Some element still has a context bound, not retiring (R190). -/
def ctxBound (f : Fab) (r : Region) (n : Nat) : Bool := (planeKeys r).any fun k => (planeOf (elemOf f k) n).st == .bound

/-- Sets the permit counts of a link to what its receiver leaves free (R474 step 4, R185). -/
def linkReset (f : Fab) (k o : Nat) : Fab :=
  let occ := (auditLink f k o).2
  modElem f k fun e => { e with net := { e.net with
    used := tput 0 e.net.used o (min occ (linkSlots k (selDir o))), extra := tdel e.net.extra o, owed := tdel e.net.owed o
    resets := e.net.resets.filter fun x => x != o } }

/-- The links of elements whose counts wait for the discard of the owner or the drift contexts are reset (R474 step 4). -/
def linksReset (f : Fab) (keys : List Nat) (drift : Bool) : Fab :=
  keys.foldl (fun f k => ((elemOf f k).net.resets.filter fun o => driftVc o == drift).foldl (fun f o => linkReset f k o) f) f

/-! ### Discard (R112, R120, R143, R163, R199, R200, R305, R351, R418) -/

/-- The words of a line, by byte address / 8. -/
def lineWords (a : Nat) : List Nat := (List.range 8).map fun i => a / 8 + i

/-- A bank line back as a journal entry holds it, tag and CHECK exactly (R112, R470); an entry with an uncorrectable word leaves the line so (R471;
log 29). -/
def journalLine (b : Nat) (j : JEnt) (m : MtSt) : MtSt :=
  let a := bankByte b j.line
  let m := clearBad m a 64
  { m with data := putLine m.data a j.old, tags := tput 0 m.tags (512 * b + j.line) j.tag
           checks := tput zeroCheck m.checks (512 * b + j.line) j.check, bad := if j.bad then lineWords a ++ m.bad else m.bad }

/-- A bank journal written back, newest entry first, for some contexts together (R112, R163). -/
def journalBank (ctxs : List Nat) (b : Nat) (m : MtSt) (l : List JEnt) : MtSt :=
  let m := (l.filter fun j => ctxs.contains j.ctx).foldr (journalLine b) m
  { m with jr := tput [] m.jr b (l.filter fun j => !ctxs.contains j.ctx) }

/-- A local-store line back as a journal entry holds it. -/
def journalLs (j : JEnt) (c : CtSt) : CtSt :=
  let ws := lineWords (64 * j.line)
  { c with ls := putLine c.ls (64 * j.line) j.old, bad := (if j.bad then ws else []) ++ c.bad.filter fun w => !ws.contains w }

/-- Journals of an element written back for some contexts together, whose writes to one line are undone newest first (R112, R163). -/
def journalBack (ctxs : List Nat) (e : Elem) : Elem :=
  let c := (e.ct.jr.filter fun j => ctxs.contains j.ctx).foldr journalLs e.ct
  { e with
    mt := e.mt.jr.foldl (fun m b => journalBank ctxs b.1 m b.2) e.mt
    ct := { c with jr := e.ct.jr.filter fun j => !ctxs.contains j.ctx } }

/-- A read stream as it stands after a discard back to round n (R118, R120): kept tokens again, then the next iteration; a scratchpad
stream at its checkpoint. -/
def streamBack (p : Plane) (kept : List Token) (fly i : Nat) (n : BitVec 32) (st : StreamSt) : StreamSt :=
  let base := { st with again := [], half := none, wait := if st.wait = 2 then 0 else st.wait, count := 0, markAt := none, round := n
                        ckpts := st.ckpts.filter (fun c => rle c.round n), endDue := st.last.isSome }
  if !rle n st.round then st
  else if strSpace p i then
    match st.ckpts.find? fun c => c.round == n with
    | some c => { base with pos := c.pos, latch := c.latch, hdr := c.hdr, block := c.block, btag := c.btag, tiles := c.tiles, skip := c.skip, bseen := c.bseen }
    | none => { base with pos := 0, latch := none, hdr := none, block := [], btag := 0, tiles := [], skip := 0 }
  else
    let hdr := match st.ckpts.find? fun c => c.round == n with
      | some c => c.hdr
      | none => none
    { base with again := kept ++ st.again, hdr := hdr, pos := st.pos - fly - st.block.length, block := [] }

/-- The plane of an element back at the start of round n of its context (R200 step 2, R305); what its chain queue has assembled stands. -/
def planeBack (key : Nat) (e : Elem) (ctx : Nat) (n : BitVec 32) : Plane :=
  let p := planeOf e ctx
  match p.ckpts.find? fun c => c.round == n with
  | none => p
  | some c =>
    let late := p.ckpts.filter fun x => rle n x.round
    let old : Tab StreamSt := late.foldr (fun x t => x.oldS.foldl (fun t q => tins t q.1 q.2) t) []
    let p' := { p with frames := late.foldr (fun x t => x.oldF.foldl (fun t q => tput 0 t q.1 q.2) t) p.frames }
    let fly (i : Nat) := if thas old i then 0 else inFlight e ctx i
    let kept (i : Nat) := (e.ag.replay.filter fun q => q.1 == i && q.2.1 == ctx &&
      (late.all fun x => !thas x.oldS i || !rle x.round q.2.2.1)).map fun q => q.2.2.2
    let streams := (List.range 8).foldl (fun t i =>
      let cur := (old.find? fun q => q.1 == i).map (fun q => q.2) |>.getD (strSt p i)
      if kindOf key != .ag || !strEn p' i then t
      else if strDir p' i then
        let st := tget {} c.run.streams i
        tins t i { st with tent := (strSt p i).tent, wait := if (strSt p i).wait = 2 then 0 else (strSt p i).wait }
      else tins t i (streamBack p' (kept i) (fly i) i n cur)) []
    { p' with
      st := .bound, told := none
      ckpts := [{ c with kwr := [], sbind := [], oldF := [], oldS := [] }]
      kwr := (late.foldr (fun x t => x.kwr.foldl (fun t q => if thas t q.1 then t else tins t q.1 (q.2.1, 0, 0)) t) p.kwr)
      sbind := (late.foldr (fun x t => x.sbind.foldl (fun t q => if thas t q.1 then t else tins t q.1 (q.2.1, 0, 0)) t) p.sbind)
      run := { c.run with streams := streams, cwid := p.run.cwid } }

/-- An element back at the start of round n of a context, journals first: what it restores is written anew, so the error of a register word is gone
(R331, R351). A half that the context owned at round entry, consumed, and that another plane has taken since stays with its new owner: R351 leaves
other planes' halves untouched (log 78). -/
def elemBack (key ctx : Nat) (n : BitVec 32) (e : Elem) : Elem :=
  if !hasPlanes key then e
  else
    let had := (planeOf e ctx).ckpts.find? fun c => c.round == n
    let p := planeBack key e ctx n
    let e := modPlane (journalBack [ctx] e) ctx fun _ => p
    let e := { e with badReg := if had.isSome then e.badReg.filter (fun b => b.1 != ctx) else e.badReg, ag := { e.ag with hold := e.ag.hold.filter (fun h => h.ctx != ctx), replay := e.ag.replay.filter fun q => q.2.1 != ctx } }
    match had with
    | none => e
    | some c => { e with ct := { e.ct with
        fills := e.ct.fills.filter (fun q => q.plane != ctx) ++ c.fills
        halves := c.halves.foldl (fun t h => if (tget {} t h.1).owner.isNone then tins t h.1 h.2 else t) (e.ct.halves.filter fun h => h.2.owner != some ctx)
        reserve := e.ct.reserve.map fun q => if q.1 = ctx then (ctx, p.run) else q } }

/-- The back-edge log of round n stands ahead of its queues again (R200 step 3). -/
def backlogBack (f : Fab) (key ctx : Nat) (n : BitVec 32) (log : List (Nat × BitVec 32 × Nat × Token)) : Fab :=
  let mine := log.filter fun b => b.1 == ctx && b.2.1 == n
  mine.foldr (fun b f =>
    let f := modNet f key fun t => { t with rx := tput [] t.rx b.2.2.1 (b.2.2.2 :: tget [] t.rx b.2.2.1) }
    giveBack f key b.2.2.1 1 false) f

/-- A control core's ports and sinks back at round n of a context (R199, R418). -/
def coreBack (ctx : Nat) (n : BitVec 32) (c : CC) : CC :=
  let vin (v : Vin) : Vin :=
    let mine := v.kept.filter fun q => q.2.1.toNat % 4 == ctx && rle n q.1
    let others := v.ctxs.map fun q => (q.1, { q.2 with markAt := q.2.markAt.map fun m => m + mine.length })
    if mine.isEmpty && !thas v.ctxs ctx then v
    else { v with queue := mine.map (fun q => q.2) ++ v.queue, kept := v.kept.filter (fun q => !(q.2.1.toNat % 4 == ctx && rle n q.1))
                  ctxs := tins others ctx { round := n } }
  let sink (k : Sink) : Sink :=
    { k with
      toks := k.toks.filter fun t => t.2.ctx.toNat != ctx
      mark := tput 0 k.mark ctx n
      drop := k.drop.filter (fun d => d.1 != ctx) ++ k.dlv.filter fun d => d.1 == ctx && rle n d.2.1 }
  { c with vins := c.vins.map fun v => (v.1, vin v.2), sinks := c.sinks.map (fun k => (k.1, sink k.2)), rounds := tput 0 c.rounds ctx n }

/-- Discards the uncommitted rounds of a context of a region (R112, R143, R200). The early edge of round n stands where edge sources cut it; where
none did, its round is opened by a new request (R198). A kwr that waited on a retiring plane is pending in the plane that is bound again, and counts as
sent (R303). -/
def discardCtx (ctx : Nat) (f : Fab) (rid : Nat) : Fab :=
  match region? f rid with
  | none => f
  | some r =>
    let n := (ctxOf r ctx).cround + 1
    let keys := regionKeys r
    let logs := keys.map fun k => (k, (elemOf f k).net.backlog)
    let f := keys.foldl (fun f k => modElem f k (elemBack k ctx n)) f
    let f := keys.foldl (fun f k => modMt f k fun m => { m with accepted := [] }) (flushCtx f keys ctx)
    let f := linksReset f keys (ctxOf r ctx).drift
    let f := keys.foldl (fun f k => if kindOf k = .compute ∧ (planeOf (elemOf f k) ctx).st = .bound then kwrRun f k ctx else f) f
    let edge := (sourcesOf f r ctx).any fun x => x.edge
    let f := logs.foldl (fun f q => backlogBack f q.1 ctx n q.2) f
    let f := (regionCores r).foldl (fun f c => modCc f c (coreBack ctx n)) f
    modRegion f rid fun r => modCtx r ctx fun c =>
      { c with
        round := n, faults := c.faults.filter (fun x => x.cause == 9), ivs := c.ivs.filter fun v => rle v.1 n
        u := if c.uRound = some n then c.u else [], uRound := if c.uRound = some n then some n else none
        earlyDone := if edge ∧ c.earlyDone = some n then some n else none }

/-- The contexts whose uncommitted rounds a discard takes: a swap's two contexts together when they share a bank (R163). -/
def discardSet (f : Fab) (r : Region) (ctx : Nat) : List Nat :=
  match r.swap with
  | none => [ctx]
  | some w =>
    let other := if ctx = w.old then w.new else w.old
    let share := (regionKeys r).any fun k => (elemOf f k).mt.touch.any fun a => a.2.1 == ctx && (elemOf f k).mt.touch.any fun b => b.2.1 == other && b.1 == a.1
    if w.done && (ctx == w.old || ctx == w.new) && share then [ctx, other] else [ctx]

/-- Round n + 1 of a context has begun: an element or a source has opened it. -/
def begun (f : Fab) (r : Region) (ctx : Nat) : Bool :=
  let n := (ctxOf r ctx).cround + 1
  (planeKeys r).any (fun k =>
    let p := planeOf (elemOf f k) ctx
    (p.st == .bound || p.st == .retiring) && rle (n + 1) p.run.round) || (sourcesOf f r ctx).any fun x => rle (n + 1) x.round

/-! ### The way of a discard (R410-R412, R416, R204, R468) -/

/-- What the round controller does about a context's faults. -/
inductive DKind where
  | none | stray | capacity | mismatch | fault
  deriving DecidableEq, Repr

/-- STRAY alone discards nothing (R203); of the other faults the first to arrive decides; requests of the structures come last. -/
def dkindOf (l : List FaultRec) : DKind :=
  if l.any fun x => x.cause != 0 && x.cause != 9 then .fault
  else if l.any fun x => x.cause == 0 && x.info1 == 7 then .mismatch
  else if l.any fun x => x.cause == 9 then .stray
  else if l.any fun x => x.cause == 0 then .capacity
  else .none

/-- The halved counts of a capacity discard of round n (R122, R197): half of what each group emitted, rounded up. -/
def halvedCounts (f : Fab) (rid : Nat) (r : Region) (ctx : Nat) : Tab Nat × Bool :=
  let n := (ctxOf r ctx).cround + 1
  let l := sourcesOf f r ctx
  let old := cutCounts f rid r ctx n l
  let grp := ((l.filter fun x => x.edge).map fun x => x.grp).dedup
  (old.map fun q => (q.1, if grp.contains q.1 then (q.2 + 1) / 2 else q.2), grp.any fun g => decide (1 < tget 0 old g))

/-- The contexts of a region with a fault to act on, lowest first. -/
def faultCtxs (f : Fab) (rid : Nat) (r : Region) : List Nat :=
  (r.ctxs.filter fun c => match dkindOf c.2.faults with
    | .none => false
    | .capacity => (halvedCounts f rid r c.1).2
    | _ => true).map fun c => c.1

/-- The faults of a context in a region and its twin, those of the primary first (R468). -/
def pairFaults (f : Fab) (rid ctx : Nat) : List FaultRec :=
  (ctxPair f rid ctx).flatMap fun q => match region? f q with
    | some r => (ctxOf r ctx).faults
    | none => []

/-- The element of a report: that of the primary at the same place (R465). -/
def reportKey (f : Fab) (rid key : Nat) : Nat :=
  match region? f rid, regionOf f (keyCore key) with
  | some r, some (_, g) =>
    let xy := relPlace g key
    (relKey r xy.1 xy.2).getD key
  | _, _ => key

/-- Posts the report of a context's faults: the first to arrive; the context's others are counted in MORE (R204, R411, R419). -/
def reportFaults (s : State) (rid ctx effect : Nat) (both : BitVec 32 → Bool) : State :=
  let l := (pairFaults s.fab rid ctx).filter fun x => x.cause != 0
  let prim := (ctxPair s.fab rid ctx).head?.getD rid
  match l.head?, region? s.fab prim with
  | some x, some r =>
    let core := r.y0 * 8 + r.x0
    postReport s core ctx (repOf { x with key := reportKey s.fab prim x.key } effect (l.length - 1) (both x.round))
  | _, _ => s

/-- UNCORR or PERMIT replays a round once (R204, R416). -/
def isReplay (c : RCtx) (x : FaultRec) : Bool := (x.cause == 0x0B || x.cause == 0x0E) && !c.replayed.contains x.round

/-- The fault that decides what is done with a context: the first to arrive that is neither a structure's request nor STRAY (R203, R204). -/
def firstFault (l : List FaultRec) : Option FaultRec := l.find? fun x => x.cause != 0 && x.cause != 9

/-- QUIESCE and BREAK stop without a discard (R203, R410). -/
def noDiscard (x : FaultRec) : Bool := x.cause == 0x0A || x.cause == 0x0F

/-- Discards a context, and those it takes along, in a region and its twin: the journals of all of them together first (R163). -/
def discardAll (f : Fab) (rid ctx : Nat) : Fab :=
  (ctxPair f rid ctx).foldl (fun f q => match region? f q with
    | none => f
    | some r =>
      let cs := discardSet f r ctx
      cs.foldl (fun f c => discardCtx c f q) ((regionKeys r).foldl (fun f k => modElem f k (journalBack cs)) f)) f

/-- Sets how a context's round is rerun: halved counts, or the replay noted (R122, R204, R468). -/
def noteReplay (f : Fab) (rid ctx : Nat) (g : RCtx → RCtx) : Fab :=
  (ctxPair f rid ctx).foldl (fun f q => modRegion f q fun r => modCtx r ctx g) f

/-- Adds 1 to a counter of RASSTAT (R477). -/
def rasAdd (h : Hub) (part n k : Nat) : Hub := modPart h part fun p => { p with ras := tput 0 p.ras n (min (tget 0 p.ras n + k) 0xFFFF) }

/-- Applies the discard of a context (R411 steps 2 and 3): its report, the discard, and whether the round is replayed. -/
def applyDiscard (s : State) (rid ctx : Nat) : State × Bool :=
  match region? s.fab rid with
  | none => (s, false)
  | some r =>
    let c := ctxOf r ctx
    let n := c.cround + 1
    let fs := pairFaults s.fab rid ctx
    match dkindOf fs with
    | .fault =>
      let x := firstFault fs
      let rep := x.any (isReplay c)
      let s := reportFaults s rid ctx (if c.drift then 7 else if rep then 1 else 0) fun k => k == n && begun s.fab r ctx
      let f := noteReplay (discardAll s.fab rid ctx) rid ctx fun c =>
        { c with faults := [], replayed := if rep then (x.map fun x => x.round).toList ++ c.replayed else c.replayed }
      ({ s with fab := f }, rep)
    | .mismatch =>
      let part := r.launch.part
      let rounds := (fs.filter fun x => x.cause == 0 && x.info1 == 7).map fun x => x.round
      let f := noteReplay (discardAll s.fab rid ctx) rid ctx fun c => { c with twreplayed := rounds ++ c.twreplayed }
      ({ s with fab := f, hub := rasAdd s.hub part 0 1 }, true)
    | .capacity =>
      let u := (halvedCounts s.fab rid r ctx).1
      let f := noteReplay (discardAll s.fab rid ctx) rid ctx fun c =>
        { c with u := u, uRound := some n, halvings := c.halvings + 1, capDiscards := c.capDiscards + 1, earlyDone := none }
      ({ s with fab := f }, true)
    | _ => (s, false)

/-- Sets the stop state of a region and its twin. -/
def setPhase (f : Fab) (rid : Nat) (g : Region → Region) : Fab := (withTwin f rid).foldl (fun f q => modRegion f q g) f

/-- The gate signals have all arrived, in a region and its twin. -/
def allGated (f : Fab) (rid : Nat) : Bool :=
  (withTwin f rid).all fun q => match region? f q with
    | some r => r.phase != 0 && r.gates.isEmpty
    | none => false

/-- The drift launch in a plane of a region stops by its own fault: REVOKE goes out to its elements (R407, R412). -/
def driftStop (f : Fab) (rid ctx : Nat) : Fab :=
  match driftIn f rid ctx with
  | none => f
  | some (did, d) =>
    let f := modRegion f did fun d => { d with ownFault := true, stop := some 0 }
    if d.lent then sendDrift f did 1 none else f

/-- The drift launch in a plane of a region stands revoked at every element: no message of its own is under way. -/
def driftStill (f : Fab) (rid ctx : Nat) : Bool :=
  match driftIn f rid ctx with
  | none => true
  | some (_, d) => d.ownFault && !d.lent && d.msgs.isEmpty && d.later.isEmpty

/-- The report of a stop without discard (R410, R411, R425): the other faults of the context are counted in it. -/
def stopReport (s : State) (rid ctx effect : Nat) : State :=
  let s := reportFaults s rid ctx effect fun _ => false
  { s with fab := noteReplay s.fab rid ctx fun c => { c with faults := c.faults.filter fun x => x.cause == 0 } }

/-- A context's faults are acted on where no gate is needed: STRAY is reported (R203, R424). A drift context is revoked at every element first; then
its rounds are discarded, unless its fault discards none (R412). -/
def actNow (s : State) (rid ctx : Nat) : State :=
  let fs := pairFaults s.fab rid ctx
  match dkindOf fs with
  | .stray =>
    let s := reportFaults s rid ctx 4 fun _ => false
    { s with fab := noteReplay s.fab rid ctx fun c => { c with faults := [], stray := true } }
  | .fault =>
    if !driftStill s.fab rid ctx then { s with fab := driftStop s.fab rid ctx }
    else if (firstFault fs).any noDiscard then stopReport s rid ctx 7
    else (applyDiscard s rid ctx).1
  | _ => (applyDiscard s rid ctx).1

/-- The context that a stop is for, while its faults still wait (R411). -/
def stopWaits (f : Fab) (rid : Nat) (r : Region) : Bool :=
  r.phase == 1 && match dkindOf (pairFaults f rid r.stopCtx) with
    | .none => false
    | .stray => false
    | _ => true

/-- The context that the round controller acts on next: during a stop the one that it is for, then, lowest first, one with a fault (R411). -/
def nextFault (f : Fab) (rid : Nat) (r : Region) : Option Nat :=
  if stopWaits f rid r then some r.stopCtx else (faultCtxs f rid r).head?

/-- The clocks of a region and its twin are gated: the faults of a context are applied (R411 steps 2 to 4). -/
def applyGated (s : State) (rid ctx : Nat) : State :=
  if (firstFault (pairFaults s.fab rid ctx)).any noDiscard then
    let s := stopReport s rid ctx 2
    { s with fab := setPhase s.fab rid fun r => if r.phase = 3 then { r with stays := true } else { r with phase := 4 } }
  else
    let q := applyDiscard s rid ctx
    { q.1 with fab := setPhase q.1.fab rid fun r =>
        if q.2 && r.phase != 4 then { r with restart := true }
        else { r with phase := if r.phase = 3 then 3 else 4, stays := r.phase == 3, stop := some (r.stop.getD 0), stopCtx := ctx } }

/-- ROUND_DISCARD (R410-R412, R416): the round controller of a region acts on the next context with a fault: it sends the gate signal, or,
once every element is gated, applies the discard and posts the report. -/
def execRoundDiscard (rid : Nat) (s : State) : Out :=
  match region? s.fab rid with
  | none => .next s
  | some r =>
    if r.owner.isSome then .next s
    else if r.phase = 2 then (if allGated s.fab rid then .next (applyGated s rid r.stopCtx) else .next s)
    else match nextFault s.fab rid r with
    | none => .next s
    | some ctx =>
      let k := dkindOf (pairFaults s.fab rid ctx)
      let x := firstFault (pairFaults s.fab rid ctx)
      if k = .stray ∨ (ctxOf r ctx).drift then .next (actNow s rid ctx)
      else if r.phase = 0 then onFab s fun f => stopPair f rid ((x.map fun x => x.cause).getD 0) ctx (if x.any noDiscard then 2 else 1)
      else if !allGated s.fab rid ∨ r.restart then .next s
      else .next (applyGated s rid ctx)

/-- GATE_SIGNAL_ARRIVAL (R411 step 1, R275): the signal reaches an element: what has issued completes, and its clock is gated; a control core
stops with its region. A core that a double trap has halted keeps STATE 2: R273 gives the halt that value and R275 the stop no precedence over it (log
79). -/
def execGateSignalArrival (key : Nat) (s : State) : Out :=
  match regionOf s.fab (keyCore key) with
  | none => .next s
  | some (rid, r) =>
    if !r.gates.contains key then .next s
    else onFab s fun f =>
      let f := gateElem f rid key
      let f := if (region? f rid).any fun r => r.gates.isEmpty then modRegion f rid fun r => { r with gateAt := s.clk.dtime } else f
      if kindOf key = .core then modCc f (keyCore key) fun c => if c.started ∧ c.state.toNat < 2 then { c with state := 3 } else c else f

/-! ### Faults of permit counts (05 R139, 15 R435, 21 R474-R475) -/

/-- PERMIT at a place of a switch (R475): port, VC, the permits held and the slots occupied. -/
def permitFault (r : Region) (k port vc held occ : Nat) (round : BitVec 32) : FaultRec :=
  let xy := relPlace r k
  { cause := 0x0E, key := k, round := round
    info0 := BitVec.ofNat 64 (xy.1 % 128 * 2 ^ 57 + xy.2 % 128 * 2 ^ 50 + port * 2 ^ 47 + vc * 2 ^ 45)
    info1 := BitVec.ofNat 64 (held % 32 * 256 + occ % 32) }

/-- Raises PERMIT in the bound contexts of a link's VC, whose discard resets the link; where there is none it is reset at once (R474, R475): the link's
element, its output, the permits held and the slots occupied. -/
def auditFix (f : Fab) (x : Nat × Nat × Nat × Nat) : Fab :=
  let k := x.1
  let o := x.2.1
  match regionOf f (keyCore k) with
  | none => linkReset f k o
  | some (_, r) =>
    let cs := r.ctxs.filter fun c => !c.2.retired && c.2.drift == driftVc o && ctxBound f r c.1
    if cs.isEmpty then linkReset f k o
    else
      let f := modElem f k fun e => { e with net := { e.net with resets := o :: e.net.resets } }
      cs.foldl (fun f c => raiseFault f (keyCore k) c.1 (permitFault r k (selDir o) (selVc o) x.2.2.1 x.2.2.2 (c.2.cround + 1))) f

/-- The firn tile of an element disagrees in a context (R139): two valid entries of one address, operation and format, or a count written that
is not the count it has. -/
def firnWrong (e : Elem) (c : Nat) : Bool :=
  let mine := (e.firn.filter fun x => x.v && x.ctx == c).map fun x => (x.addr, x.acop, x.fmt)
  !decide mine.Nodup || heldStat e c != firnHeld e c || outStat e c != tget 0 e.out c

/-- What the restart of an element's clock finds in restored state (R139, R435): each link that holds more permits than its slots, and a firn tile that
disagrees, which is named by its element alone (log 72). -/
def restartChecks (r : Region) (f : Fab) (k : Nat) : Fab :=
  let e := elemOf f k
  let f := (outSels.filter fun o => thas e.net.extra o).foldl (fun f o =>
    let a := auditLink f k o
    auditFix f (k, o, a.1, a.2)) f
  let f := ([0, 1, 2, 3].filter fun c => hasFirn k && firnWrong e c).foldl (fun f c =>
    raiseFault f (keyCore k) c (permitFault r k 4 0 0 0 (planeOf e c).run.round)) f
  modElem f k fun e => { e with heldW := [] }

/-! ### Restart (R67, R415, R416, R428) -/

/-- The clocks of a region restart, and what they then find wrong in restored state is raised (R139, R435). -/
def ungate (f : Fab) (rid : Nat) : Fab :=
  match region? f rid with
  | none => f
  | some r =>
    let f := (regionKeys r).foldl (fun f k => modElem f k fun e => { e with gated := false }) f
    let f := (regionCores r).foldl (fun f c => modCc f c fun c => if c.state = 3 then { c with state := 0 } else c) f
    (regionKeys r).foldl (restartChecks r) (modRegion f rid fun r => { r with phase := 0, stop := none, gates := [], restart := false, stays := false })

/-- Translates one marked held store again (R54, R56, R67), its line from the address that its entry keeps, through the entry of its stream or a
refill of it from the die's walker, of which the stream asks one at a time: whether it may perform. One that waits on XLATE waits for the page (R62). -/
def holdAgain (s : State) (key : Nat) (h : Held) : State × Held × Bool :=
  let st := strSt (planeOf (elemOf s.fab key) h.ctx) h.stream
  let part := corePartOf s.fab (keyCore key)
  let w : Walk := { key := key, stream := 16 + h.stream, plane := h.ctx, part := part, fn := h.fn, va := h.va }
  if !h.stale then (s, h, true)
  else if h.xwait then (s, h, false)
  else match xlateOne s.hub st.tent part h.fn h.va 1 false with
  | .ok (x :: _) =>
    let g := { h with pa := x.1, route := x.2, stale := false }
    (s, { g with check := holdCheck g, bad := h.bad || holdCheck h != h.check }, true)
  | .fault c info => (strRaise s key h.ctx h.stream h.round c info 0, { h with stale := false }, true)
  | _ =>
    if st.wait = 1 ∨ (walkAt s.mem (dieOf (keyCore key)) w).isSome then (s, h, false)
    else ({ s with mem := askWalk s.fab s.mem w }, h, false)

/-- Translates the marked stores of a node again, those of some contexts. -/
def nodeAgain (who : Held → Bool) (s : State) (key : Nat) : State × Bool :=
  let r := (elemOf s.fab key).ag.hold.foldl (fun (a : State × List Held × Bool) h =>
    let q : State × Held × Bool := if who h then holdAgain a.1 key h else (a.1, h, true)
    (q.1, a.2.1 ++ [q.2.1], a.2.2 && q.2.2)) (s, [], true)
  ({ r.1 with fab := modElem r.1.fab key fun e => { e with ag := { e.ag with hold := r.2.1 } } }, r.2.2)

/-- Translates the marked stores of a region again before its clock restarts; whether none waits on XLATE (R67). -/
def regionAgain (who : Held → Bool) (s : State) (r : Region) : State × Bool :=
  ((planeKeys r).filter fun k => kindOf k == .ag).foldl (fun (a : State × Bool) k =>
    let q := nodeAgain who a.1 k
    (q.1, a.2 && q.2)) (s, true)

/-- Restarts a region and its twin, unless a marked store waits on XLATE. -/
def restartPair (s : State) (rid : Nat) : State :=
  let rs := withTwin s.fab rid
  let a := rs.foldl (fun (a : State × Bool) q => match region? a.1.fab q with
    | none => a
    | some r =>
      let b := regionAgain (fun _ => true) a.1 r
      (b.1, a.2 && b.2)) (s, true)
  if a.2 then { a.1 with fab := rs.foldl ungate a.1.fab } else a.1

/-- A drift context that has been restored resumes once its marked stores have been translated again (R67, R408), and then takes the messages that have
come for it; one that its own fault stopped waits for its function (R412). -/
def driftResume (s : State) (did : Nat) : State :=
  match region? s.fab did with
  | none => s
  | some d =>
    let a := regionAgain (fun h => h.ctx == d.plane) s d
    if !a.2 then a.1
    else
      let f := modRegion a.1.fab did fun d => { d with restart := false, lent := !d.ownFault }
      let go (f : Fab) : Fab := if d.later.isEmpty then f else sendDrift f did 2 none
      { a.1 with fab := if d.ownFault then f else go ((planeKeys d).foldl (fun f k => modElem f k fun e => modPlane e d.plane fun p => { p with revoked := false }) f) }

/-- What reading of an image gives: a value, a read that failed, or the wait for a walk. -/
inductive ImgRes (α : Type) where
  | got (x : α)
  | failed
  | waits
  deriving DecidableEq, Repr

/-- Reads frame k of an image for the hub. -/
def imgFrame (h : Hub) (m : MemSys) (x : HubX) (part : Nat) (id : ImgId) (k : Nat) : MemSys × HubX × ImgRes (BitVec 256) :=
  let a := id.image.toNat + 32 * k
  let r := hubRead h m x part id.fn a
  (r.1, r.2.1, match r.2.2 with
    | .ok line => .got (BitVec.ofNat 256 (line.toNat / 2 ^ (8 * (a % 64))))
    | .fault _ _ => .failed
    | .wait => .waits)

/-- Looks for a frame of an element among the groups of an image from frame k on (R215): nothing where no group names it. -/
def imgSeek (h : Hub) (part : Nat) (id : ImgId) (xy : Nat × Nat) (sp idx : Nat) :
    Nat → MemSys → HubX → Nat → MemSys × HubX × ImgRes (Option (BitVec 256))
  | 0, m, x, _ => (m, x, .got none)
  | g + 1, m, x, k =>
    let q := imgFrame h m x part id k
    match q.2.2 with
    | .failed => (q.1, q.2.1, .failed)
    | .waits => (q.1, q.2.1, .waits)
    | .got v =>
      let n := v.toNat
      let first := fld n 215 13
      let cnt := fld n 201 14
      if fld n 242 3 = sp ∧ bit n 247 ∧ fld n 228 7 = xy.1 ∧ fld n 235 7 = xy.2 ∧ first ≤ idx ∧ idx < first + cnt then
        let r := imgFrame h q.1 q.2.1 part id (k + 1 + (idx - first))
        (r.1, r.2.1, match r.2.2 with
          | .got v => .got (some v)
          | .failed => .failed
          | .waits => .waits)
      else imgSeek h part id xy sp idx g q.1 q.2.1 (k + 1 + cnt)

/-- Reads a frame again from its image: the count of groups stands in the image header (R214, R415). -/
def imgAgain (h : Hub) (m : MemSys) (x : HubX) (part : Nat) (id : ImgId) (xy : Nat × Nat) (sp idx : Nat) :
    MemSys × HubX × ImgRes (Option (BitVec 256)) :=
  let q := imgFrame h m x part id 0
  match q.2.2 with
  | .failed => (q.1, q.2.1, .failed)
  | .waits => (q.1, q.2.1, .waits)
  | .got v => imgSeek h part id xy sp idx (fld v.toNat 192 32) q.1 q.2.1 1

/-- Frames of a region that fail their parity check and that a rescan covers: element, plane, space, frame (R415). -/
def badFrames (f : Fab) (r : Region) : List (Nat × Nat × Nat × Nat) :=
  (regionKeys r).flatMap fun k => [0, 1, 2, 3].flatMap fun n =>
    let st := (planeHome f k n).st
    if st == .bound || st == .retiring || st == .loaded then
      ((planeOf (elemOf f k) n).bad.map fun i => (k, n, 0, i)) ++ (if (elemOf f k).net.badRoutes.contains n then [(k, n, 6, 0)] else [])
    else []

/-- How a rescan goes on: the frame is mended, it cannot be, or it waits for a walk. -/
inductive MendRes where
  | done | fails | waits
  deriving DecidableEq, Repr

/-- Rewrites one failing frame from the image that the plane was loaded from, which fails where the image read fails or kwr or sbind wrote the frame
(R415). A frame that the image does not name holds what the loader gave it. -/
def mendFrame (s : State) (rid : Nat) (r : Region) (q : Nat × Nat × Nat × Nat) : State × MendRes :=
  let p := planeHome s.fab q.1 q.2.1
  let unmark (e : Elem) : Elem :=
    if q.2.2.1 = 6 then { e with net := { e.net with badRoutes := e.net.badRoutes.filter fun n => n != q.2.1 } }
    else modPlane e q.2.1 fun p => { p with bad := p.bad.filter fun i => i != q.2.2.2 }
  let clean (f : Fab) : Fab := modElem f q.1 unmark
  if q.2.2.1 = 0 ∧ p.patched.contains q.2.2.2 then (s, .fails)
  else match p.img with
  | none => (s, .fails)
  | some id =>
    let x := ((region? s.fab rid).map fun r => r.rx).getD {}
    let t := imgAgain s.hub s.mem x r.launch.part id (relPlace { r with x0 := id.x0, y0 := id.y0 } q.1) q.2.2.1 q.2.2.2
    let s := poisonPost { s with mem := t.1, fab := modRegion s.fab rid fun r => { r with rx := if t.2.2 = .waits then t.2.1 else { t.2.1 with lines := [] } } }
    match t.2.2 with
    | .failed => (s, .fails)
    | .waits => (s, .waits)
    | .got none => ({ s with fab := clean s.fab }, .done)
    | .got (some v) =>
      let f := if q.2.2.1 = 6 then putRoute s.fab q.1 q.2.1 v else putFrame s.fab q.1 q.2.1 q.2.2.2 (withFn q.1 q.2.2.2 id.fn v) true
      ({ s with fab := clean f }, .done)

/-- How a rescan ends: every frame is mended, the first that cannot be, or the wait for a walk. -/
inductive Rescan where
  | done | waits
  | fails (q : Nat × Nat × Nat × Nat)
  deriving DecidableEq, Repr

/-- The rescan of a region's planes before a replay restarts its clocks (R415): each failing frame is mended, up to the first that cannot be. -/
def rescan (s : State) (rid : Nat) (r : Region) : State × Rescan :=
  (badFrames s.fab r).foldl (fun (a : State × Rescan) q => if a.2 ≠ .done then a else
    let t := mendFrame a.1 rid r q
    (t.1, match t.2 with
      | .done => .done
      | .fails => .fails q
      | .waits => .waits)) (s, .done)

/-- The rescan of a region and its twin (R415). -/
def rescanPair (s : State) (rid : Nat) : State × Rescan :=
  (withTwin s.fab rid).foldl (fun (a : State × Rescan) k => match a.2, region? a.1.fab k with
    | .done, some q => rescan a.1 k q
    | _, _ => a) (s, .done)

/-- A rescan that fails makes the replay a discard and stop, UNCORR of kind 5 (R415, R410). -/
def rescanStop (s : State) (rid : Nat) (r : Region) (q : Nat × Nat × Nat × Nat) : State :=
  let x : Rep := { cause := 0x0B, effect := 0, key := some q.1, round := (ctxOf r r.stopCtx).cround + 1
                   info0 := cfgAddr q.1 (if q.2.2.1 = 6 then 6 else q.2.1) (if q.2.2.1 = 6 then q.2.1 else q.2.2.2) 0, info1 := 5 }
  let s := postReport s (keyCore q.1) r.stopCtx x
  { s with fab := setPhase s.fab rid fun r => { r with phase := 4, restart := false, stop := some 0x0B } }

/-- REPLAY (R415, R416): after a replay cause the hub rescans the planes of the region and its twin, and the clocks restart; the same round runs
again from the replay sides and port logs. A restored drift context resumes in its region without one. -/
def execReplay (rid : Nat) (s : State) : Out :=
  match region? s.fab rid with
  | none => .next s
  | some r =>
    if !r.restart then .next s
    else if r.owner.isSome then .next (driftResume s rid)
    else if r.phase = 0 ∨ 3 ≤ r.phase ∨ !allGated s.fab rid then .next s
    else
      let t := rescanPair s rid
      match t.2 with
      | .fails q => .next (rescanStop t.1 rid r q)
      | .waits => .next t.1
      | .done => .next (restartPair t.1 rid)

/-! ### Timing errors, breakpoints, quiescence (R413, R423-R426) -/

/-- The operations whose staging window of 2 tile cycles is open, by their plane (R413). -/
def openOps (e : Elem) : List (Nat × Nat) := e.opens.filter fun q => decide (e.cyc < q.2 + 2)

/-- TIMING_ERROR (R413): the operations of the open window issue again after a pause of 4 tile cycles, in their order and with the effects they had,
which nothing outside sees; a second error of what issues again is UNCORR of kind 6 in the context of each operation that it cancels. With no window
open there is none to find. -/
def execTimingError (key : Nat) (s : State) : Out :=
  let e := elemOf s.fab key
  if (kindOf key ≠ .compute ∧ kindOf key ≠ .ag) ∨ halted s.fab key then .next s
  else match e.terr with
  | t :: _ =>
    if e.cyc ≤ t.2 + 4 then .next s
    else onFab s fun f => (e.terr.map fun t => t.1).dedup.foldl (fun f n => raiseFault f (keyCore key) n
        { cause := 0x0B, key := key, round := (planeOf e n).run.round, info1 := 6 }) (modElem f key fun e => { e with terr := [] })
  | [] =>
    if (openOps e).isEmpty then .next s
    else onFab s fun f => modElem f key fun e => { e with issued := allClasses, terr := (openOps e).map fun q => (q.1, e.cyc) }

/-- A slot's breakpoint takes effect at its next firing (R425, R426). -/
def brkDue (e : Elem) (key plane n : Nat) : Bool :=
  let p := planeOf e plane
  let d := e.dbg.toNat
  bit (slotWordOf p n) 81 && !(p.brkskip && p.brkslot == n) &&
    (!(kindOf key == .compute && bit d 63 && fld d 61 2 == plane && fld d 56 4 == n) || (slotOfRun p.run n).fired == fld d 0 32)

/-- BREAKPOINT_STOP (R425): a ready slot with BRK due stops the region, or of a drift context its plane alone (R412), instead of issuing. -/
def execBreakpointStop (key plane slot : Nat) (s : State) : Out :=
  let e := elemOf s.fab key
  let p := planeOf e plane
  let w := slotFields (slotWordOf p slot)
  match regionOf s.fab (keyCore key) with
  | none => .next s
  | some (_, r) =>
    if r.phase ≠ 0 ∨ !brkDue e key plane slot ∨ !slotReady s.fab key plane slot (swOp (slotWordOf p slot)) w then .next s
    else onFab s fun f =>
      let d := e.dbg.toNat
      let cnt := if kindOf key = .compute ∧ bit d 63 ∧ fld d 61 2 = plane ∧ fld d 56 4 = slot then fld d 0 32 else 0
      breakStop f key plane slot { cause := 0x0F, key := key, slot := some slot, round := p.run.round, info0 := BitVec.ofNat 64 cnt }

/-- A request of a context waits at a bank, and not for a place in the bank's full journal, for which it asked (R122, R423). -/
def bankWaits (f : Fab) (r : Region) (n k : Nat) : Bool :=
  let e := elemOf f k
  let full (b : Nat) : Bool := (ctxOf r n).faults.any fun x => x.cause == 0 && x.key == k && x.info1.toNat == 3 + 16 * b
  (e.mt.bankq.any fun b => !full b.1 && b.2.any fun q => q.plane == n) ||
    (e.mt.cfgq.any fun q => q.plane == n && !full q.bank) || e.mt.groups.any fun g => g.2.wait.any fun q => q.plane == n && !full q.bank

/-- A bank whose journal is full holds a context back, and no shorter round can help it (R122): what waits behind that bank is no wait on memory. -/
def bankJam (r : Region) (n : Nat) : Bool := (ctxOf r n).faults.any fun x => x.cause == 0 && x.info1.toNat % 16 == 3

/-- An element of a context waits on memory, translation or its control core (R423, R117, R483). Accumulates on their way and scratchpad reads are no
such wait once a full journal holds the context back for good (R122). -/
def quietExcused (f : Fab) (r : Region) (n : Nat) : Bool :=
  let jam := bankJam r n
  ((regionKeys r).any fun k =>
    let e := elemOf f k
    let p := planeOf e n
    (p.run.streams.any fun q => q.2.wait != 0) ||
      (kindOf k == .ag && p.st == .bound && (List.range 8).any fun i =>
        strEdge p i && !strDir p i && ((needsCredit p i && pairOpen f k n i) || (strSt p i).again != []) && !creditOk f k n i) || (e.ag.reads.any fun q => q.plane == n && q.line.isNone && !(jam && strSpace p q.stream)) ||
      (!jam && (bankWaits f r n k || tget 0 e.out n != 0)) ||
      (kindOf k == .memory && p.st == .bound && !spOpen f k n && inSels.any fun q => holdsHead e n q) ||
      (kindOf k == .ag && p.st == .bound && (List.range 8).any fun i => strEn p i && strSpace p i && decide ((strSt p i).pos < strTotal p i) &&
        (if strDir p i then headOk e n 0 0 (strQ p i) && !spOpen f k n else !sp1Ready f k n (strSt p i).round))) ||
    (regionCores r).any fun c => (ccOf f c).vins.any fun v => v.2.queue.isEmpty && v.2.kept.isEmpty &&
      (match v.2.bind with
        | some w => w.toNat % 4 == n
        | none => false)

/-- Elements of a context that hold a head for the element, by (y, x). -/
def blockedKeys (f : Fab) (r : Region) (n : Nat) : List Nat :=
  ((List.range (10 * r.h)).flatMap fun y => (List.range (10 * r.w)).filterMap fun x => relKey r x y).filter fun k =>
    inSels.any fun q => match headOf (elemOf f k) q with
      | some t => t.ctx.toNat == n
      | none => false

/-- QUIESCE_DETECT (R423): a context idle for 4096 tile cycles, with none of the excuses, stops its region; a drift context is revoked. The count then
starts again (log 78). -/
def execQuiesceDetect (rid plane : Nat) (s : State) : Out :=
  match region? s.fab rid with
  | none => .next s
  | some r =>
    let c := ctxOf r plane
    let revoked := (driftIn s.fab rid plane).any fun d => !d.2.lent
    if !ctxLive r plane ∨ !ctxBound s.fab r plane ∨ r.phase ≠ 0 ∨ revoked ∨ c.idle < 4096 ∨ quietExcused s.fab r plane then .next s
    else
      let bl := blockedKeys s.fab r plane
      let cap := c.faults.find? fun x => x.cause == 0
      let key := match cap with
        | some x => x.key
        | none => (bl.head?).getD (100 * (r.y0 * 8 + r.x0))
      let x : FaultRec := { cause := 0x0A, key := key, round := if hasPlanes key then (planeOf (elemOf s.fab key) plane).run.round else c.cround + 1
                            info0 := BitVec.ofNat 64 bl.length, info1 := (cap.map fun y => y.info1).getD 0 }
      let f := modRegion s.fab rid fun r => modCtx r plane fun c => { c with idle := 0, faults := c.faults.filter fun y => y.cause != 0 }
      let f := raiseFault f (r.y0 * 8 + r.x0) plane x
      if c.drift then .next { s with fab := driftStop f rid plane }
      else .next { s with fab := stopPair f rid 0x0A plane 2 }

/-! ### Retirement (R399, R404, R408, R409, R424) -/

/-- Tokens of a context found in an element, in the order of the sweep, with the queue each stands in (R424). -/
def strayIn (f : Fab) (key n : Nat) : List (Option Nat × Token) :=
  let e := elemOf f key
  let data (t : Token) : Bool := t.ctx.toNat == n && decide (t.kind.toNat < 2)
  let link := linkOrder.flatMap fun q =>
    (((tget [] e.net.rx q).filter fun t => data t && passes e t q) ++ (tget [] e.net.wire q).filter data).map fun t => (some q, t)
  let input := inSels.flatMap fun q => ((tget [] e.net.rx q).filter fun t => data t && !passes e t q).map fun t => (some q, t)
  let out := e.net.outq.flatMap fun q => (q.2.filter data).map fun t => (some q.1, t)
  let core := if kindOf key ≠ .core then [] else
    let c := ccOf f (keyCore key)
    (c.sinks.flatMap fun k => (k.2.toks.filter fun t => data t.2).map fun t => (none, t.2)) ++
      c.vins.flatMap fun v => (v.2.queue.filter fun q => q.1.toNat % 4 == n && decide (q.2.kind.toNat < 2)).map fun q => (none, q.2)
  link ++ input ++ out ++ core
where
  /-- Input selectors by port n, e, s, w and then by VC, the wide network's first (R424; log 78). -/
  linkOrder : List Nat := [0, 1, 2, 3].flatMap fun d => [0, 1, 2, 3].flatMap fun v => (0x20 + 4 * d + v) :: if v < 2 then [0x40 + 2 * d + v] else []

/-- A scrubbed bank (R126 step 3): its lines zero with tag FMT 0x00 and SCALE 0x00 and a valid CHECK, its journal and quota counters clear. -/
def scrubBank (m : MtSt) (b : Nat) : MtSt :=
  { m with data := mclear m.data (32768 * b) (32768 * (b + 1)), tags := m.tags.filter (fun t => t.1 / 512 != b)
           checks := m.checks.filter (fun t => t.1 / 512 != b), bad := m.bad.filter (fun w => w / 4096 != b), jr := tdel m.jr b
           accepted := m.accepted.filter fun t => t.1 / 17 != b }

/-- Scrubs the lend set of a region (R126, R127, R406). -/
def lendScrub (f : Fab) (r : Region) : Fab :=
  ((regionKeys r).filter fun k => kindOf k == .memory).foldl (fun f k => [0, 1, 2, 3, 4, 5].foldl (fun f b =>
    if inLendSet f k b then modMt f k fun m => scrubBank m b else f) f) f

/-- The lend set of a region is scrubbed for a drift launch of another function, and is again when it returns (R127, R406). -/
def lendTo (f : Fab) (o fn : Nat) : Fab :=
  match region? f o with
  | none => f
  | some r => if fn = r.launch.fn then f else modRegion (lendScrub f r) o fun r => { r with foreign := true }

/-- The lend set returns to its owner once no drift context stands in the region, scrubbed where one of another function has stood there (R127,
R128, R409). -/
def lendReturn (f : Fab) (o : Nat) : Fab :=
  match region? f o with
  | none => f
  | some r =>
    if !r.foreign ∨ f.regions.any fun q => q.2.owner == some o then f
    else modRegion (lendScrub f r) o fun r => { r with foreign := false }

/-- The commands whose messages to a drift context are still under way are answered as it leaves: a message sent is an action done (R300, R304). -/
def msgsEnd (f : Fab) (did : Nat) : Fab :=
  match region? f did with
  | none => f
  | some d =>
    let f := (d.msgReply.toList ++ d.later.filterMap fun m => m.2).foldl (fun f q => cmdReply f q.1 q.2.1 q.2.2 0) f
    modRegion f did fun d => { d with msgs := [], msgReply := none, later := [], relendDue := false }

/-- A control core forgets the rounds and sink counts of a context that has left its plane: the next one there begins at round 0 (R286, R418). -/
def coreForget (n : Nat) (c : CC) : CC :=
  { c with
    rounds := tdel c.rounds n
    sinks := c.sinks.map fun k => (k.1, { k.2 with mark := tdel k.2.mark n, dlv := k.2.dlv.filter (fun d => d.1 != n), drop := k.2.drop.filter fun d => d.1 != n }) }

/-- A drift launch leaves its region: the lend set returns when no other drift context stands there. -/
def driftLeaves (f : Fab) (did : Nat) : Fab :=
  match region? f did with
  | none => f
  | some d =>
    let f := (regionCores d).foldl (fun f c => modCc f c (coreForget d.plane)) (msgsEnd f did)
    let f := { f with regions := f.regions.filter fun q => q.1 != did }
    match d.owner with
    | none => f
    | some o => lendReturn (modRegion f o fun r => { r with ctxs := tdel r.ctxs d.plane }) o

/-- What a plane of an element has issued completes (R407, R411). -/
def settlePend (n : Nat) (e : Elem) : Elem :=
  { (pendOrder (e.pend.filter fun q => pendPlane q.2 == n)).foldl applyPend e with pend := e.pend.filter fun q => pendPlane q.2 != n }

/-- The planes of a rectangle return to empty; waiting kwr values stay (R303). -/
def planesEmpty (f : Fab) (keys : List Nat) (n : Nat) : Fab :=
  keys.foldl (fun f k => if hasPlanes k then modElem f k fun e => modPlane e n fun p => { ({} : Plane) with kwr := p.kwr } else f) f

/-- Waiting kwr effects of a rectangle's planes settle (R303). -/
def kwrAll (f : Fab) (keys : List Nat) (n : Nat) : Fab := keys.foldl (fun f k => if kindOf k = .compute then kwrRun f k n else f) f

/-- The kwr writes that a retiring plane holds are dropped as it becomes empty, each with a report for its core (R303). -/
def kwrDrop (s : State) (k n : Nat) : State :=
  let p := planeOf (elemOf s.fab k) n
  if p.st ≠ .retiring then s
  else
    let s := p.kwr.foldl (fun s w => postReport { s with fab := cmdDone s.fab w.2.2.1 w.2.2.2 } w.2.2.1 n { cause := 0x10, effect := 6, key := some (100 * w.2.2.1) }) s
    { s with fab := modElem s.fab k fun e => modPlane e n fun p => { p with kwr := [] } }

/-- The commands of some cores as an element or tile goes on with them: they reply to nothing, and an access that waited on a walk begins again
(R305, R306; log 50). -/
def dropReplies (cores : List Nat) (e : Elem) : Elem :=
  let mute (q : MemReq) : MemReq := if q.src = 1 ∧ cores.contains q.key then { q with reg := 0 } else q
  { e with
    mt := { e.mt with cfgq := e.mt.cfgq.map mute, bankq := e.mt.bankq.map fun b => (b.1, b.2.map mute) }
    ag := { e.ag with inbox := e.ag.inbox.map fun c => if cores.contains c.core then { c with reg := 0, wait := if c.wait = 3 then 3 else 0 } else c } }

/-- The replies owed to some cores are dropped (R274, R306, R428): those on their way and those of the commands that have not finished, which run on
without one. -/
def dropOwed (s : State) (cores : List Nat) : State :=
  let f := s.fab
  let kid (x : Child) : Child := if cores.contains x.core then { x with reg := 0 } else x
  { s with
    fab := { f with elems := f.elems.map fun q => (q.1, dropReplies cores q.2), fills := f.fills.filter fun q => !cores.contains q.1 }
    hub := { s.hub with parts := s.hub.parts.map fun p => (p.1, { p.2 with children := p.2.children.map fun c => (c.1, c.2.map kid) }) } }

/-- A drift launch starts again from its record: no save slots are free for it (log 57). -/
def driftAgain (s : State) (did : Nat) (d : Region) : State :=
  let keys := regionKeys d
  let f := flushCtx s.fab keys d.plane
  let f := keys.foldl (fun f k => modElem f k fun e => modPlane (dropStore d.plane (journalBack [d.plane] e)) d.plane fun _ => {}) f
  { s with fab := { f with regions := f.regions.filter (fun q => q.1 != did), loads := f.loads.filter fun l => l.rid != some did }
           mem := dropWalks s.mem fun w => keys.contains w.key && w.plane == d.plane && w.stream != 8
           hub := modPart s.hub d.launch.part fun p => requeue p d.launch none }

/-- The reads of some planes that a region has issued complete into the edge buffers (R429 step 2). -/
def readsComplete (s : State) (r : Region) (mine : Nat → Bool) : State :=
  ((planeKeys r).filter fun k => kindOf k == .ag).foldl (fun s k =>
    (List.range (elemOf s.fab k).ag.reads.length).foldl (fun s i =>
      if ((elemOf s.fab k).ag.reads[i]?).any fun q => mine q.plane then
        match execStreamReadReturn k i s with
        | .next t => t
        | _ => s
      else s) s) s

/-- The faults of a drift context that is about to be saved are applied first (R429, R412). -/
def driftFaults (s : State) (o did n : Nat) : State :=
  match region? s.fab o with
  | none => s
  | some r =>
    if !(faultCtxs s.fab o r).contains n then s
    else match dkindOf (pairFaults s.fab o n) with
      | .fault => actNow { s with fab := modRegion s.fab did fun d => { d with ownFault := true, stop := some 0, lent := false } } o n
      | _ => actNow s o n

/-- A drift launch is revoked, what it has issued and the reads of its streams completing, and saved for a reason into the free slots after those
kept for another; it returns to the head of its queue (R399, R407, R409, R429, R430). One that its own fault stopped stays so (R412). -/
def driftSaveAs (s : State) (did reason keep : Nat) : State :=
  let s := { s with fab := msgsEnd s.fab did }
  match region? s.fab did with
  | none => s
  | some d =>
    let o := d.owner.getD 0
    let s := { s with fab := (regionKeys d).foldl (fun f k => modElem f k (settlePend d.plane)) s.fab }
    let s := driftFaults (readsComplete s d fun n => n == d.plane) o did d.plane
    let own : Bool := (region? s.fab did).any fun d => d.ownFault
    let ctxs := (((region? s.fab o).map fun r => r.ctxs).getD []).filter fun c => c.1 == d.plane
    let s := if (freeSlots (partOf s.hub d.launch.part)).length < keep + d.w * d.h then driftAgain s did d
      else saveLaunch s did { d with ownFault := own, lent := !own, restart := false, ctxs := ctxs } reason keep
    let f := (regionCores d).foldl (fun f c => modCc f c (coreForget d.plane)) s.fab
    { s with fab := lendReturn (modRegion f o fun r => { r with ctxs := tdel r.ctxs d.plane }) o }

/-- A drift context leaves its region and is saved (R399, R409). -/
def driftSave (s : State) (did : Nat) : State := driftSaveAs s did 2 0

/-- The drift contexts of a region leave it, while the owner planes still name the lend set (R399); some free save slots are kept for the owner
(R430). -/
def driftsOut (s : State) (rid keep : Nat) : State :=
  (s.fab.regions.filter fun q => q.2.owner == some rid).foldl (fun s q => driftSaveAs s q.1 2 keep) s

/-- Preloads under way in a region that is freed: their planes return to empty and CODE reads 1 (R441). -/
def preloadsEnd (s : State) (rid : Nat) (r : Region) : State :=
  ((loadsOf s.fab rid r).filter fun l => l.rid.isNone).foldl (fun s l =>
    { s with
      fab := { kwrAll (planesEmpty s.fab (regionKeys r) l.plane) (regionKeys r) l.plane with loads := s.fab.loads.filter fun x => x != l }
      hub := modPart s.hub l.part fun p => { p with plbusy := false, plcode := 1 } }) s

/-- A region is freed: its lease ends (R478, R484), the drift contexts in it are saved, its cores are free, and nothing of theirs waits at a walker (R58, R399). -/
def freeRegion (s : State) (rid : Nat) : State :=
  let s := driftsOut s rid 0
  let s := { s with fab := endLease s.fab rid }
  match region? s.fab rid with
  | none => s
  | some r =>
    let s := preloadsEnd s rid r
    let s := if !r.saveDue then s else { s with hub := modPart s.hub r.launch.part fun p => { p with rbusy := tput false p.rbusy 0 false, rcode := tput 0 p.rcode 0 1 } }
    let f := (regionKeys r).foldl (fun f k => modElem f k fun e => { e with gated := false }) s.fab
    let f := (regionCores r).foldl (fun f c => modCc f c fun c => { c with started := false, state := 0 }) f
    let loads := f.loads.filter fun l => l.rid != some rid
    let cores := regionCores r
    let users := cores.foldl (fun t c => tins t c (32 * r.launch.part + r.launch.fn + 1)) f.lastUser
    let gone (w : Walk) : Bool := cores.contains (keyCore w.key)
    { s with
      mem := dropWalks s.mem gone
      fab := { f with regions := f.regions.filter (fun q => q.1 != rid), loads := loads, lastUser := users } }

/-- A plane of a context becomes loaded; waiting sbind and kwr effects settle (R190, R291, R303). -/
def unbindPlane (f : Fab) (r : Region) (n : Nat) : Fab :=
  (planeKeys r).foldl (fun f k =>
    let st := (planeOf (elemOf f k) n).st
    if st == .bound || st == .retiring then
      let f := sbindEnd f k (planeOf (elemOf f k) n).sbind
      kwrRun (modElem f k fun e => dropStore n (modPlane { e with badReg := e.badReg.filter fun b => b.1 != n } n fun p =>
        { p with st := .loaded, revoked := false, succ := false, ckpts := [], told := none, stages := []
                 frames := p.sbind.foldl (fun t b => b.2.1.foldl (fun t q => tput 0 t q.1 q.2) t) p.frames, sbind := []
                 bad := p.bad.filter fun i => !(p.sbind.any fun b => b.1 == i / 3)
                 patched := sbindPatched p })) k n
    else f) f

/-- The swap of a region ends when plane OLD is loaded again: NEW is no successor any more, and drift contexts revoked at the tick are relent (R401,
R404, R408). -/
def swapEnds (f : Fab) (rid n : Nat) : Fab :=
  match (region? f rid).bind fun r => r.swap with
  | none => f
  | some w =>
    if !(w.done && w.old == n) then f
    else
      let f := modRegion f rid fun r => { r with swap := none }
      let f := ((region? f rid).map planeKeys).getD [] |>.foldl (fun f k => modElem f k fun e => modPlane e w.new fun p => { p with succ := false }) f
      let due := w.relend ++ (f.regions.filter fun q => q.2.owner == some rid && q.2.relendDue).map fun q => q.1
      due.dedup.foldl (fun f d => match region? f d with
        | none => f
        | some g => if g.lent ∨ g.ownFault then f else sendDrift (modRegion f d fun g => { g with relendDue := false }) d 2 none) f

/-- DEVT of the launch that a context belongs to advances (R205, R387, R405). -/
def retireEvent (s : State) (rid ctx : Nat) (r : Region) : State :=
  let l := (launchOf s.fab rid ctx r).2.launch
  if recFld l 334 1 = 0 then s else { s with hub := modPart s.hub l.part fun p => addEvent p l.fn (recFld l 328 6) 1 }

/-- A context retires (R190, R205, R399): its marks are dropped, its plane is loaded, and the region is freed when no owner context is left. -/
def retireCtx (s : State) (rid ctx : Nat) : State :=
  match region? s.fab rid with
  | none => s
  | some r =>
    let second := (ctxPair s.fab rid ctx).head? != some rid
    let s := if second then s else retireEvent s rid ctx r
    let drift := driftIn s.fab rid ctx
    let last := drift.isNone && !(r.ctxs.any fun c => c.1 != ctx && !c.2.retired && !c.2.drift)
    let s := if last then driftsOut s rid 0 else s
    let f := flushCtx s.fab (regionKeys r) ctx
    let f := unbindPlane f r ctx
    let f := modRegion f rid fun r => modCtx r ctx fun c => { c with retired := true, faults := [], stray := false, swept := false, ivs := [] }
    let f := (regionCores r).foldl (fun f c => modCc (wcSettle f c) c (coreForget ctx)) f
    let f := swapEnds f rid ctx
    let s := { s with fab := f }
    match drift with
    | some (did, _) => { s with fab := driftLeaves s.fab did }
    | none => match region? s.fab rid with
      | none => s
      | some r =>
        let live := r.ctxs.any fun c => !c.2.retired && !c.2.drift
        if live then s else freeRegion s rid

/-- Every element of a context is retiring and its last round has committed. -/
def sweepDue (f : Fab) (r : Region) (n : Nat) : Bool :=
  let c := ctxOf r n
  ctxLive r n && r.phase == 0 && c.faults.isEmpty && (planeKeys r).any (fun k => (planeOf (elemOf f k) n).st == .retiring) &&
    (planeKeys r).all fun k =>
      let p := planeOf (elemOf f k) n
      p.st != .bound && (p.st != .retiring || rle p.run.round c.cround)

/-- RETIREMENT_SWEEP (R424): the round controller drops the marks of a retiring context and looks for its tokens: the first is reported as STRAY with the
count of the others; with none the plane is loaded. Both regions of a twin pair retire together. -/
def execRetirementSweep (rid plane : Nat) (s : State) : Out :=
  let rs := ctxPair s.fab rid plane
  let found := rs.flatMap fun q => match region? s.fab q with
    | none => []
    | some r => (regionKeys r).flatMap fun k => (strayIn s.fab k plane).map fun t => (k, t)
  match region? s.fab rid with
  | none => .next s
  | some r =>
    if !(rs.all fun q => (region? s.fab q).any fun g => sweepDue s.fab g plane) then .next s
    else match found with
    | [] => .next (rs.foldl (fun s q => retireCtx s q plane) s)
    | (k, q, t) :: rest =>
      if (ctxOf r plane).swept then .next s
      else
        let xy := selfXY s.fab k
        let port := (q.map selDir).getD 4
        let s := postReport s (keyCore k) plane
          { cause := 9, effect := 4, more := rest.length, key := some k, qsel := q, round := (ctxOf r plane).cround
            info0 := BitVec.ofNat 64 (xy.1 % 128 * 2 ^ 57 + xy.2 % 128 * 2 ^ 50 + port % 8 * 2 ^ 47)
            info1 := BitVec.ofNat 64 (sideband t * 2 ^ 32 + t.data.toNat % 2 ^ 32) }
        onFab s fun f =>
          let f := rs.foldl (fun f q => ((region? f q).map regionKeys).getD [] |>.foldl (fun f k => dropMarks f plane k) f) f
          noteReplay f rid plane fun c => { c with stray := true, swept := true }

end Sys2Proof.Machine
end

