-- ==== Sys2Proof/Machine/Loader.lean ====
section
/-! DEFINITION. Launch records and their acceptance, image loads, bindings, stages and start tokens (08 R213-R217, R510, 14 R383-R398, R511,
15 R438, 16 R439-R441). -/

namespace Sys2Proof.Machine

/-! ### Launch records (R388, R392-R395) -/

/-- Words of a launch record that must be zero are zero and its own fields legal (R388, R395): 0 for none, else the refusal code. -/
def recCode (v : Nat) : Nat :=
  let z (lo n : Nat) : Bool := fld v lo n == 0
  let widths := (List.range 6).foldl (fun a k => a + fld v (128 + 6 * k) 6) 0
  let ok : Bool := fld v 0 8 == 1 && decide (fld v 8 4 < 4) && z 27 5 && z 39 1 && z 44 20 && z 164 28 && z 224 32 && z 327 1 && z 335 49 &&
    (List.range 4).all (fun k => z (512 + 128 * k + 7) 57) && fld v 192 32 != 0 && decide (widths ≤ 64) && decide (fld v 32 7 ≤ 64) &&
    decide (fld v 40 4 ≤ 8) && !(bit v 24 && fld v 8 4 == 3)
  if !ok then 1 else if fld v 20 3 = 7 then 7 else 0

/-- Width and height in cores of a partition's rectangle (R40). -/
def partShape (p : Part) : Nat × Nat := (fld p.cfg.toNat 6 3 + 1, fld p.cfg.toNat 9 3 + 1)

/-- The image header agrees with a shape (R214, R217). -/
def imgHeaderOk (v w h : Nat) : Bool :=
  fld v 248 8 == 1 && fld v 240 8 == 1 && fld v 224 8 == 0 && fld v 128 32 == 0 && fld v 0 64 == 0 && fld v 236 4 == w && fld v 232 4 == h &&
    decide (1 ≤ w ∧ w ≤ 8 ∧ 1 ≤ h ∧ h ≤ 8)

/-- The shape rules of R395 but for the image header: a rectangle of the partition, two disjoint ones for TWIN. -/
def shapeOk (p : Part) (w h : Nat) (twin : Bool) : Bool :=
  let s := partShape p
  decide (1 ≤ w ∧ 1 ≤ h ∧ w ≤ s.1 ∧ h ≤ s.2) && (!twin || decide (2 * w ≤ s.1) || decide (2 * h ≤ s.2))

/-- A binding entry's own fields (R389): its element in the region, of the kind its TYPE needs. -/
def bindOk (v w h plane : Nat) : Bool :=
  let x := fld v 0 7
  let y := fld v 7 7
  let k := kindOf (10 * (y % 10) + x % 10)
  fld v 20 44 == 0 && decide (x < 10 * w ∧ y < 10 * h) &&
    (match fld v 18 2 with
      | 0 => k == .ag && decide (fld v 14 4 < 8)
      | 1 => k == .core && vbindOk (BitVec.ofNat 64 (setFld (fld v 64 64) 0 2 plane))
      | _ => false)

/-- A stage entry's own fields (R390). -/
def stageOk (v w h : Nat) : Bool :=
  let n := fld v 22 3
  let pos (r : Nat) : Nat × Nat := (fld v (128 + 14 * r) 7, fld v (128 + 14 * r + 7) 7)
  let tile (q : Nat × Nat) : Bool := decide (q.1 < 10 * w ∧ q.2 < 10 * h) && kindOf (10 * (q.2 % 10) + q.1 % 10) == .compute
  let dq := fld v 14 8
  let inOk (q : Nat) : Bool := (decide (0x20 ≤ q ∧ q < 0x30) || decide (0x40 ≤ q ∧ q < 0x48)) && vcOk false q
  let outOk (q : Nat) : Bool := (decide (0x30 ≤ q ∧ q < 0x40) || decide (0x48 ≤ q ∧ q < 0x50)) && vcOk false q
  let d := (fld v 0 7, fld v 7 7)
  fld v 29 35 == 0 && fld v 184 8 == 0 && fld v 208 48 == 0 && decide (2 ≤ n ∧ n ≤ 4) && fld v 25 4 != 0 && tile d && inOk dq &&
    (List.range 4).all fun r =>
      if r < n then tile (pos r) && pos r != d && outOk (fld v (64 + 8 * r) 8) && inOk (fld v (96 + 8 * r) 8)
      else fld v (128 + 14 * r) 14 == 0 && fld v (64 + 8 * r) 8 == 0 && fld v (96 + 8 * r) 8 == 0

/-- No tile is a distributor of one stage entry and a replica of another (R390). -/
def stagesApart (l : List Nat) : Bool :=
  l.all fun a => l.all fun b => (List.range (fld b 22 3)).all fun r => fld a 0 14 != fld b (128 + 14 * r) 14

/-- No two TYPE 1 entries name one port (R389). -/
def portsOnce (l : List Nat) : Bool :=
  let ps := (l.filter fun v => fld v 18 2 == 1).map fun v => fld v 0 18
  ps.length == ps.dedup.length

/-- What fetching and checking a record gives: accepted with its tables, a refusal code, XLATE at an address, or the wait for a walk. -/
inductive FetchRes where
  | accept (binds stages : List Nat)
  | refuse (code : Nat)
  | xlate (va : Nat) (info : Word)
  /-- The fetcher waits for a walk. -/
  | wait
  deriving DecidableEq, Repr

/-- The refusal code of a fetch's fault (R395). -/
def fetchCode (cause : Nat) : Nat := if cause = 6 then 4 else 5

/-- Reads n bytes from a line-aligned address for the fetcher, through the entry of its queue (R57): the memory, what the fetcher holds, and the bytes
or how the fetch ends or waits. -/
def fetchBytes (h : Hub) (m : MemSys) (x : HubX) (part fn va n : Nat) : MemSys × HubX × (Nat ⊕ FetchRes) :=
  let q := hubReadN h part fn ((n + 63) / 64) m x va
  match q.2.2 with
  | .inl v => (q.1, q.2.1, .inl v)
  | .inr (.fault 5 info) => (q.1, q.2.1, .inr (.xlate (fld info.toNat 0 52) info))
  | .inr (.fault c _) => (q.1, q.2.1, .inr (.refuse (fetchCode c)))
  | .inr _ => (q.1, q.2.1, .inr .wait)

/-- The checks of R392 on a record, in order, with the smallest class it may carry. -/
def fetchCheck (h : Hub) (m : MemSys) (t : HubX) (part fn v minClass : Nat) : MemSys × HubX × FetchRes :=
  let p := partOf h part
  let w := fld v 12 4
  let ht := fld v 16 4
  if recCode v ≠ 0 then (m, t, .refuse (recCode v))
  else if fld v 8 4 < minClass then (m, t, .refuse 2)
  else
    let img := fetchBytes h m t part fn (fld v 64 64) 64
    match img.2.2 with
    | .inr r => (img.1, img.2.1, r)
    | .inl hd =>
      if !imgHeaderOk (fld hd 0 256) w ht ∨ !shapeOk p w ht (bit v 24) then (img.1, img.2.1, .refuse 3)
      else
        let b := fetchBytes h img.1 img.2.1 part fn (fld v 384 64) (16 * fld v 32 7)
        match b.2.2 with
        | .inr r => (b.1, b.2.1, r)
        | .inl bv =>
          let t := fetchBytes h b.1 b.2.1 part fn (fld v 448 64) (32 * fld v 40 4)
          match t.2.2 with
          | .inr r => (t.1, t.2.1, r)
          | .inl tv =>
            let bs := (List.range (fld v 32 7)).map fun i => fld bv (128 * i) 128
            let ss := (List.range (fld v 40 4)).map fun i => fld tv (256 * i) 256
            let ok := bs.all (fun x => bindOk x w ht 0) && portsOnce bs && ss.all (fun x => stageOk x w ht) && stagesApart ss
            (t.1, t.2.1, if ok then .accept bs ss else .refuse 8)

/-- Reads and checks the record of queue q of a function, 8 for its child queue, through the queue's translation entry (R57, R392): the state, the
record's bits, and what comes of it. -/
def fetchRec (s : State) (part fn q va minClass : Nat) : State × Nat × FetchRes :=
  let r := fetchBytes s.hub s.mem (tget {} (partOf s.hub part).qx (9 * fn + q)) part fn va 128
  let c : MemSys × HubX × FetchRes := match r.2.2 with
    | .inr x => (r.1, r.2.1, x)
    | .inl v => fetchCheck s.hub r.1 r.2.1 part fn v minClass
  let keep (p : Part) : Part := { p with qx := tput {} p.qx (9 * fn + q) (if c.2.2 = .wait then c.2.1 else { c.2.1 with lines := [] }) }
  let v := match r.2.2 with
    | .inl v => v
    | .inr _ => 0
  (poisonPost { s with mem := c.1, hub := modPart s.hub part keep }, v, c.2.2)

/-- A report of the hub for a function with no context: XLATE of a queue's fetch (R62, R395). -/
def fetchReport (s : State) (part fn : Nat) (info : Word) : State :=
  postLine s part fn none (repLine part fn 0 0 false 0 0 0 0 s.clk.dtime { cause := 5, effect := 3, info0 := info })

/-- An accepted record joins its queue (R392). -/
def acceptRec (p : Part) (part fn q v : Nat) (index : BitVec 32) (bs ss : List Nat) : Part :=
  let n := tget 0 p.seq fn
  let l : Launch := { lrec := BitVec.ofNat 1024 v, part := part, fn := fn, queue := q, index := index, seq := n, binds := bs, stages := ss }
  { p with seq := tput 0 p.seq fn (n + 1), accepted := p.accepted ++ [l], fwait := tdel p.fwait (9 * fn + q) }

/-- LAUNCH_FETCH on a launch queue (R385, R386, R392). -/
def fetchQueue (s : State) (part fn q : Nat) : State :=
  let p := partOf s.hub part
  let cfg := (tget 0 p.lqcfg (8 * fn + q)).toNat
  let head := tget 0 p.lqhead (8 * fn + q)
  if !bit cfg 63 ∨ bit (tget 0 p.lqerr (8 * fn + q)).toNat 63 ∨ tget 0 p.lqtail (8 * fn + q) = head then s
  else
    let r := fetchRec s part fn q (fld cfg 7 45 * 128 + 128 * (head.toNat % 2 ^ fld cfg 54 4)) (fld cfg 0 4)
    let s := r.1
    match r.2.2 with
    | .accept bs ss => { s with hub := modPart s.hub part fun p =>
        { acceptRec p part fn q r.2.1 head bs ss with lqhead := tput 0 p.lqhead (8 * fn + q) (head + 1) } }
    | .wait => s
    | .xlate a info => fetchReport { s with hub := modPart s.hub part fun p => { p with fwait := tins p.fwait (9 * fn + q) a } } part fn info
    | .refuse code => { s with hub := modPart s.hub part fun p =>
        { p with lqerr := tput 0 p.lqerr (8 * fn + q) (BitVec.ofNat 64 (2 ^ 63 + code * 2 ^ 32 + head.toNat)) } }

/-- LAUNCH_FETCH on a child queue (R302, R394): the reply fills at acceptance or refusal, which does not stop the queue. -/
def fetchChild (s : State) (part fn : Nat) : State :=
  match tget [] (partOf s.hub part).children fn with
  | [] => s
  | x :: rest =>
    let r := fetchRec s part fn 8 x.addr.toNat x.cls
    let s := r.1
    let pop (p : Part) : Part := { p with children := tput [] p.children fn rest, fwait := tdel p.fwait (9 * fn + 8) }
    match r.2.2 with
    | .accept bs ss =>
      let n := tget 0 (partOf s.hub part).seq fn
      { s with hub := modPart s.hub part fun p => acceptRec (pop p) part fn 8 r.2.1 x.index bs ss
               fab := cmdReply s.fab x.core x.id x.reg (n.setWidth 64) }
    | .wait => s
    | .xlate a info => fetchReport { s with hub := modPart s.hub part fun p => { p with fwait := tins p.fwait (9 * fn + 8) a } } part fn info
    | .refuse code => { s with hub := modPart s.hub part pop, fab := cmdReply s.fab x.core x.id x.reg (BitVec.ofNat 64 (2 ^ 63 + code)) }

/-- LAUNCH_FETCH (R392): the record at the head of queue q of a function, 8 for its child queue, is read and checked. -/
def execLaunchFetch (part fn q : Nat) (s : State) : Out :=
  let p := partOf s.hub part
  if !partEn p ∨ p.prstState ≠ 2 ∨ vfCnt p < fn ∨ thas p.fwait (9 * fn + q) then .next s
  else if q < 8 then .next (fetchQueue s part fn q)
  else if q = 8 then .next (fetchChild s part fn) else .next s

/-! ### Refusal after acceptance (R438, R441, R511) -/

/-- Keys of a load's rectangle. -/
def loadKeys (l : Load) : List Nat :=
  (List.range (l.w * l.h)).flatMap fun i => (List.range 100).map fun e => 100 * ((l.y0 + i / l.w) * 8 + l.x0 + i % l.w) + e

/-- Refuses a placed launch (R511): its planes are emptied, its report posted, DEVT advanced, and its region freed. -/
def refusePlaced (s : State) (rid code cause : Nat) : State :=
  match region? s.fab rid with
  | none => s
  | some r =>
    let l := r.launch
    let s := postReport s (r.y0 * 8 + r.x0) r.plane
      { cause := cause, effect := 4, info0 := BitVec.ofNat 64 code, info1 := BitVec.ofNat 64 (l.queue * 2 ^ 32 + l.index.toNat) }
    let s := if recFld l 334 1 = 0 then s else { s with hub := modPart s.hub l.part fun p => addEvent p l.fn (recFld l 328 6) 1 }
    (withTwin s.fab rid).foldl (fun s q => match region? s.fab q with
      | none => s
      | some g =>
        let f := kwrAll (planesEmpty s.fab (regionKeys g) g.plane) (regionKeys g) g.plane
        if g.owner.isSome then { s with fab := driftLeaves { f with loads := f.loads.filter fun l => l.rid != some q } q }
        else freeRegion { s with fab := f } q) s

/-- The cause of a refusal report (R511). -/
def refuseCause (code cause : Nat) : Nat := if code = 4 then 6 else if code = 5 then cause else 0x10

/-- A load ends without its image (R217, R438, R440, R441). -/
def loadFail (s : State) (idx : Nat) (l : Load) (code cause : Nat) : State :=
  let keys := loadKeys l
  let f := kwrAll (planesEmpty { s.fab with loads := s.fab.loads.eraseIdx idx } keys l.plane) keys l.plane
  let s := { s with fab := f }
  match l.rid with
  | some rid => refusePlaced s rid code (refuseCause code cause)
  | none => { s with hub := modPart s.hub l.part fun p =>
      { p with plbusy := false, plcode := if code = 4 ∨ code = 5 then 4 else 3, plnfr := l.k } }

/-! ### Bindings, stages and start (R274, R389, R390, R398) -/

/-- Places a TYPE 0 binding: the new BASE of a stream enabled in the image (R389, R223); none when it breaks a rule. -/
def bindStream (f : Fab) (r : Region) (v : Nat) : Option Fab :=
  match relKey r (fld v 0 7) (fld v 7 7) with
  | none => none
  | some k =>
    let i := fld v 14 4
    let p := planeOf (elemOf f k) r.plane
    let a := setFld (strFrame p i 0) 0 64 (fld v 64 64)
    if !strEn p i ∨ !streamOk (isDrift k p) a (strFrame p i 1) (strFrame p i 2) then none
    else some (putFrame f k r.plane (3 * i) (BitVec.ofNat 256 a) true)

/-- Writes a stage entry into its distributor and replicas, beside those that an element already has (R390); none when the issue budget breaks
(R400). -/
def placeStage (f : Fab) (r : Region) (v : Nat) : Option Fab :=
  let w (i : Nat) : Word := BitVec.ofNat 64 (fld v (64 * i) 64)
  let add (x : StageE) (e : Elem) : Elem := modPlane e r.plane fun p => { p with stages := p.stages ++ [x] }
  let x : StageE := { w0 := w 0, w1 := w 1, w2 := w 2, w3 := w 3 }
  match relKey r (fld v 0 7) (fld v 7 7) with
  | none => none
  | some d =>
    let f := modElem f d (add { x with dist := true })
    let f := (List.range (fld v 22 3)).foldl (fun f i => match relKey r (fld v (128 + 14 * i) 7) (fld v (135 + 14 * i) 7) with
      | none => f
      | some k => modElem f k (add x)) f
    if budgetOk (elemOf f d) d r.plane then some f else none

/-- A launch starts the control cores of its region (R274, R388): CCSTART of an owner launch; a drift launch starts none (R286). -/
def startsCore (r : Region) : Bool := r.owner.isNone && bit r.launch.lrec.toNat 25

/-- A TYPE 1 binding finds its port unbound (R389): a core that the launch starts has every port unbound. -/
def portFree (f : Fab) (r : Region) (v : Nat) : Bool :=
  startsCore r || (match relKey r (fld v 0 7) (fld v 7 7) with
    | none => false
    | some k => (vinOf (ccOf f (keyCore k)) (fld v 14 4)).bind.isNone)

/-- TYPE 1 bindings of a core (R389, R283): CTX is the launched plane. -/
def bindPorts (r : Region) (f : Fab) (core : Nat) : Fab :=
  r.launch.binds.foldl (fun f v =>
    if fld v 18 2 = 1 ∧ relKey r (fld v 0 7) (fld v 7 7) = some (100 * core) then
      modCc f core fun c =>
        let p := vinOf c (fld v 14 4)
        let w := BitVec.ofNat 64 (setFld (fld v 64 64) 0 2 r.plane)
        { c with vins := tins c.vins (fld v 14 4) { p with bind := some w, ctxs := tins p.ctxs r.plane {} } }
    else f) f

/-- The start of a region's clock: the tile cycles and the acceptance counters of its memory tiles begin (R133). -/
def clockStart (f : Fab) (r : Region) : Fab :=
  (regionKeys r).foldl (fun f k => modElem f k fun e =>
    { e with cyc := 0, opens := [], terr := [], mt := { e.mt with accepted := [], qdue := false } }) f

/-- Every PLANECTL.DRIFT of a launch's plane agrees with its CLASS (R510, R511). -/
def kindAgrees (f : Fab) (r : Region) : Bool := (planeKeys r).all fun k => isDrift k (planeOf (elemOf f k) r.plane) == (lClass r.launch == 3)

/-- Step 3 of R398: bindings and stage entries are written, elements select their spine, and the start token leaves. For a CLASS 3 launch the step does
not apply (R458): its start token alone leaves. A plane whose kind disagrees with CLASS, which a warm bind finds here, refuses the launch (R511). -/
def prepareStart (s : State) (rid : Nat) : State :=
  match region? s.fab rid with
  | none => s
  | some r =>
    let l := r.launch
    let step (a : Option Fab) (g : Fab → Option Fab) : Option Fab := a.bind g
    let binds := if r.owner.isSome then [] else l.binds
    let a := binds.foldl (fun a v => if fld v 18 2 = 0 then step a fun f => bindStream f r v else if portFree s.fab r v then a else none) (some s.fab)
    let a := (if r.owner.isSome then [] else l.stages).foldl (fun a v => step a fun f => placeStage f r v) a
    if !kindAgrees s.fab r then refusePlaced s rid 3 0x10 else match a with
    | none => refusePlaced s rid 8 0x10
    | some f =>
      let f := if r.owner.isSome then f else clockStart (selectSpine f r (recFld l 20 3)) r
      let f := if startsCore r then f else (regionCores r).foldl (bindPorts r) f
      { s with fab := modRegion f rid fun r => { r with startDue := regionCores r } }

/-- A core as a launch starts it (R274, R306): registers full and zero, no reply owed to an old image. -/
def startCore (s : State) (core : Nat) (sup : Bool) : State :=
  let c := ccOf s.fab core
  let n : CC := { isram := c.isram, dsram := c.dsram, bad := c.bad, nextId := c.nextId, started := true, tstat := mkTstat sup false false false false sup }
  let s := dropOwed s [core]
  { s with fab := modCc s.fab core fun _ => n }

/-- The region, owner or drift, whose start token is due at a core. -/
def startAt (f : Fab) (core : Nat) : Option (Nat × Region) := f.regions.find? fun q => q.2.startDue.contains core

/-- START_TOKEN_ARRIVAL (R398 step 5, R237, R274): plane n of the core's elements becomes bound, and with CCSTART its control core starts, whose
ports are bound after R274 has cleared them (R389). The regions of a twin pair wait for each other (R464). -/
def execStartTokenArrival (core : Nat) (s : State) : Out :=
  match startAt s.fab core with
  | none => .next s
  | some (rid, r) =>
    let ready : Bool := match r.twin.bind fun t => region? s.fab t with
      | some t => t.started || t.startDue != []
      | none => true
    if !ready then .next s
    else
      let n := r.plane
      let home := r.owner.getD rid
      let f := (List.range 100).foldl (fun f e => if hasPlanes (100 * core + e) then bindPlane f (100 * core + e) n false else f) s.fab
      let f := modRegion f home fun g => if ctxLive g n && r.started then g
        else if thas g.ctxs n && r.startDue.length < r.w * r.h then g else { g with ctxs := tins g.ctxs n { drift := r.owner.isSome } }
      let second := r.twin.any fun t => decide (t < rid)
      let s := { s with fab := f }
      let s := if startsCore r && !second then startCore s core (r.launch.fn == 0) else s
      let f := if startsCore r then bindPorts r s.fab core else s.fab
      let s := { s with fab := modRegion f rid fun r =>
        let due := r.startDue.filter fun c => c != core
        { r with startDue := due, started := due.isEmpty, lent := r.owner.isSome || r.lent } }
      .next (if r.owner.isSome then s else fillBucket s rid)

/-! ### Loading (R213-R217, R510, R438) -/

/-- Step 2 of R217: the planes enter loading and their frames and routes read zero. -/
def loadBegin (f : Fab) (keys : List Nat) (n : Nat) : Fab :=
  keys.foldl (fun f k => modElem f k fun e =>
    let e := { e with net := { e.net with routes := tdel e.net.routes n, badRoutes := e.net.badRoutes.filter fun i => i != n } }
    if hasPlanes k then modPlane e n fun p => { ({} : Plane) with st := .loading, kwr := p.kwr } else e) f

/-- The key of a region-relative place in a load's rectangle. -/
def loadKey (l : Load) (x y : Nat) : Nat := keyAt (10 * l.x0 + x) (10 * l.y0 + y)

/-- Whether a group header is legal (R215-R217); storage groups only for a cold load of free cores. -/
def groupOk (l : Load) (v : Nat) : Bool :=
  let rel := bit v 247
  let sp := fld v 242 3
  let x := fld v 228 7
  let y := fld v 235 7
  let cnt := fld v 201 14
  let key := loadKey l x y
  let room := if rel && sp == 6 then 1 else if rel then planeFrames key else storeFrames key
  fld v 0 201 == 0 && decide (1 ≤ cnt ∧ cnt ≤ 8192 ∧ x < 10 * l.w ∧ y < 10 * l.h) &&
    ((rel && fld v 245 2 == 0 && (sp == 0 || sp == 6)) || (!rel && sp == 5 && l.cold)) && decide (fld v 215 13 + cnt ≤ room)

/-- Applies one data frame of the open group; none is FRAMEINV. -/
def loadData (f : Fab) (l : Load) (v : BitVec 256) : Option (Fab × Load) :=
  let h := l.hdr.toNat
  let key := loadKey l (fld h 228 7) (fld h 235 7)
  let sp := fld h 242 3
  let idx := fld h 215 13 + (fld h 201 14 - l.left)
  let l' := { l with left := l.left - 1, named := (key, sp, idx) :: l.named }
  if l.named.contains (key, sp, idx) then none
  else if sp = 0 then
    let v' := withFn key idx l.fn v
    if planeFrameOk (elemOf f key) key l.plane idx v' then some (putFrame f key l.plane idx v' true, l') else none
  else if sp = 6 then (if routeNow f key v then some (putRoute f key l.plane v, l') else none)
  else some (storeWrite f key idx v, l')

/-- PLANECTL words that the image does not name, and LATCH of the streams it does not name, as the loader writes them (R223, R510). -/
def loadDefaults (f : Fab) (l : Load) (drift : Bool) : Fab :=
  (loadKeys l).foldl (fun f k =>
    if !hasPlanes k then f
    else
      let f := if l.named.contains (k, 0, ctlFrame k) then f
        else putFrame f k l.plane (ctlFrame k) (withFn k (ctlFrame k) l.fn (BitVec.ofNat 256 (b2n drift * 16))) true
      if kindOf k ≠ .ag then f
      else (List.range 8).foldl (fun f i => if [3 * i, 3 * i + 1, 3 * i + 2].any fun j => l.named.contains (k, 0, j) then f
        else putFrame f k l.plane (3 * i + 2) 0x7F00 true) f) f

/-- The checks at the end frame: the image's kind, those that span frames, routes, and one ILV (R105, R183, R217, R224, R400, R510). -/
def loadLate (f : Fab) (l : Load) (drift : Bool) : Bool :=
  let keys := loadKeys l
  let ilv := ((keys.filter fun k => kindOf k == .memory).map fun k => ilvOf (planeOf (elemOf f k) l.plane)).dedup
  decide (ilv.length ≤ 1) && keys.all fun k =>
    (!hasPlanes k || (isDrift k (planeOf (elemOf f k) l.plane) == drift && planeLate (elemOf f k) k l.plane)) &&
      routeLate drift (tget 0 (elemOf f k).net.routes l.plane)

/-- Some PLANECTL word that the image names has DRIFT set (R510). -/
def imageDrift (f : Fab) (l : Load) : Bool :=
  (loadKeys l).any fun k => hasPlanes k && l.named.contains (k, 0, ctlFrame k) && isDrift k (planeOf (elemOf f k) l.plane)

/-- Planes of a load become loaded (R217 step 5). -/
def loadedPlanes (f : Fab) (l : Load) : Fab :=
  let id : ImgId := { fn := l.fn, image := l.image, w := l.w, h := l.h, x0 := l.x0, y0 := l.y0, imageid := BitVec.ofNat 64 (fld l.img.toNat 64 64) }
  let f := (loadKeys l).foldl (fun f k => if hasPlanes k then
      modElem f k fun e => modPlane e l.plane fun p => { p with st := .loaded, nfr := l.k + 1, img := some id, patched := [] } else f) f
  kwrAll f (loadKeys l) l.plane

/-- The end frame of a load (R217 steps 4 and 5, R510, R511). -/
def loadEnd (s : State) (idx : Nat) (l : Load) : State :=
  let drift := imageDrift s.fab l
  let f := loadDefaults s.fab l drift
  if l.groups ≠ fld l.img.toNat 192 32 ∨ !loadLate f l drift then loadFail { s with fab := f } idx l 6 0x10
  else match l.rid with
  | none => if drift then loadFail { s with fab := f } idx l 6 0x10
    else { s with fab := { loadedPlanes f l with loads := f.loads.eraseIdx idx }
                  hub := modPart s.hub l.part fun p => { p with plbusy := false, plcode := 0, plnfr := l.k + 1 } }
  | some rid =>
    let cls := ((region? f rid).map fun r => lClass r.launch).getD 0
    if drift ≠ (cls == 3) then loadFail { s with fab := f } idx l 3 0x10
    else prepareStart { s with fab := { loadedPlanes f l with loads := f.loads.eraseIdx idx } } rid

/-- Planes of a load between two states of R190, with NFR the frames applied so far (R434). -/
def loadState (f : Fab) (l : Load) (a b : PSt) : Fab :=
  (loadKeys l).foldl (fun f k => if hasPlanes k ∧ (planeOf (elemOf f k) l.plane).st = a then
    modElem f k fun e => modPlane e l.plane fun p => { p with st := b, nfr := l.k } else f) f

/-- A load begins (R217, R440): its planes are loading from now on, also before their first frame is fetched. -/
def openLoad (f : Fab) (l : Load) : Fab :=
  { (loadKeys l).foldl (fun f k => if hasPlanes k then modElem f k fun e => modPlane e l.plane fun p => { p with st := .loading, nfr := 0 } else f) f
    with loads := f.loads ++ [l] }

/-- Applies the frame that a load has read. A storage group in an image that may hold none is found as it is read: the planes then return to empty,
as R440 and R511 say of such a load, where R216 says that it does not begin: the model's choice (log 56). -/
def loadFrame (s : State) (idx : Nat) (l : Load) (v : BitVec 256) : State :=
  let bad := loadFail s idx l 6 0x10
  let n := v.toNat
  let last := fld l.img.toNat 160 32 - 1
  let keep (f : Fab) (l : Load) : State :=
    let l := { l with k := l.k + 1, again := false }
    { s with
      fab := { loadState f l .loading .loading with loads := lmod f.loads idx fun _ => l }
      hub := if l.rid.isNone then modPart s.hub l.part fun p => { p with plnfr := l.k } else s.hub }
  if l.k = 0 then
    if imgHeaderOk n l.w l.h ∧ 2 ≤ fld n 160 32 then keep (loadBegin s.fab (loadKeys l) l.plane) { l with img := v, imageid := BitVec.ofNat 64 (fld n 64 64) } else bad
  else if (l.k = last) ≠ (l.left = 0 ∧ fld n 248 8 = 3) then bad
  else if l.left ≠ 0 then match loadData s.fab l v with
    | none => bad
    | some q => keep q.1 q.2
  else if fld n 248 8 = 3 then (if fld n 0 248 = 0 then loadEnd s idx l else bad)
  else if fld n 248 8 = 2 ∧ groupOk l n then keep s.fab { l with hdr := v, left := fld n 201 14, groups := l.groups + 1 }
  else bad

/-- PLANE_LOAD_FRAME (R217, R438, R441): load number idx fetches its next frame and applies it; XLATE leaves it incomplete, UNCORR reads once
more, any other fault refuses it. A load into plane NEW of a swap past its check waits (R440). -/
def execPlaneLoadFrame (idx : Nat) (s : State) : Out :=
  match s.fab.loads[idx]? with
  | none => .next s
  | some l =>
    let core := l.y0 * 8 + l.x0
    let held : Bool := match regionOf s.fab core with
      | some (_, r) => l.rid.isNone && swapHeld r l.plane
      | none => false
    if l.wait ≠ 0 ∨ held then .next s
    else
      let a := l.image.toNat + 32 * l.k
      let r := hubRead s.hub s.mem l.x l.part l.fn a
      let l : Load := { l with x := if r.2.2 = .wait then r.2.1 else {} }
      let s := poisonPost { s with mem := r.1, fab := { s.fab with loads := lmod s.fab.loads idx fun _ => l } }
      match r.2.2 with
      | .wait => .next s
      | .ok line => .next (loadFrame { s with fab := loadState s.fab l .incomplete .loading } idx l (BitVec.ofNat 256 (line.toNat / 2 ^ (8 * (a % 64)))))
      | .fault 5 info =>
        let f := loadState s.fab l .loading .incomplete
        let s := { s with fab := { f with loads := lmod f.loads idx fun l => { l with wait := 2 } } }
        .next (postReport s core l.plane { cause := 5, effect := 3, info0 := info })
      | .fault 11 _ =>
        if l.again then .next (loadFail s idx l 5 11)
        else
          let f := loadState s.fab l .loading .incomplete
          .next { s with fab := { f with loads := lmod f.loads idx fun l => { l with again := true } } }
      | .fault c _ => .next (loadFail s idx l (fetchCode c) c)

end Sys2Proof.Machine
end

