-- ==== Sys2Proof/Machine/Sched.lean ====
section
/-! DEFINITION. The launch scheduler, swaps, drift lending, stage replicas, pre-emption and restore (14 R396-R409, 15 R429-R437). -/

namespace Sys2Proof.Machine

/-! ### Candidates (R388, R396) -/

/-- NOTBEFORE of a record. -/
def lNotBefore (l : Launch) : Word := BitVec.ofNat 64 (recFld l 256 64)

/-- A record's active dependences are satisfied (R387, R388). -/
def depsOk (p : Part) (l : Launch) : Bool :=
  (List.range 4).all fun k =>
    let o := 512 + 128 * k
    recFld l (o + 6) 1 == 0 || evSat (tget 0 p.events (64 * l.fn + recFld l o 6)) (BitVec.ofNat 64 (recFld l (o + 64) 64))

/-- A record may start: its dependences hold and NOTBEFORE has passed. -/
def mayStart (p : Part) (now : Word) (l : Launch) : Bool := depsOk p l && decide ((lNotBefore l).toNat ≤ now.toNat)

/-- Index of a record in round-robin order: 9 f + q. -/
def lIndex (l : Launch) : Nat := 9 * l.fn + l.queue

/-- Places in the accepted list of the head records of the queues. -/
def headRecs (l : List Launch) : List Nat :=
  (List.range l.length).filter fun i => match l[i]? with
    | none => false
    | some x => !((l.take i).any fun y => lIndex y == lIndex x)

/-- Class for ranking: a promoted batch record ranks as interactive (R396). -/
def lRank (l : Launch) : Nat := if l.promoted && lClass l == 2 then 1 else lClass l

/-- Candidates of a partition in the scheduler's order: class, then round-robin after the last winner (R396). -/
def candidates (p : Part) (now : Word) : List Nat :=
  let heads := (headRecs p.accepted).filter fun i => (p.accepted[i]?).any (mayStart p now)
  [0, 1, 2, 3].flatMap fun c => (List.range 153).filterMap fun j =>
    let ix := (tget 0 p.rrLast c + j) % 153
    heads.find? fun i => (p.accepted[i]?).any fun l => lRank l == c && lIndex l == ix

/-! ### Places (R397, R406) -/

/-- North-west corners of the rectangles of a shape in a partition, cy then cx. -/
def rects (p : Part) (w h : Nat) : List (Nat × Nat) :=
  let c := p.cfg.toNat
  let s := partShape p
  (List.range (s.2 + 1 - h)).flatMap fun y => (List.range (s.1 + 1 - w)).map fun x => (fld c 0 3 + x, fld c 3 3 + y)

/-- Cores of a rectangle in row-major order. -/
def rectCores (w h : Nat) (q : Nat × Nat) : List Nat := (List.range (w * h)).map fun i => (q.2 + i / w) * 8 + q.1 + i % w

/-- Keys with planes of some cores. -/
def coreKeys (cores : List Nat) : List Nat := cores.flatMap fun c => ((List.range 100).map fun e => 100 * c + e).filter hasPlanes

/-- Two rectangles of one shape do not meet. -/
def disjoint (w h : Nat) (a b : Nat × Nat) : Bool := decide (a.1 + w ≤ b.1 ∨ b.1 + w ≤ a.1 ∨ a.2 + h ≤ b.2 ∨ b.2 + h ≤ a.2)

/-- The choices of rectangles for a launch whose cores are free, in order: one, or two disjoint ones (R397, R464). -/
def choices (p : Part) (w h : Nat) (twin : Bool) (free : Nat → Bool) : List (List (Nat × Nat)) :=
  let rs := (rects p w h).filter fun q => (rectCores w h q).all free
  if twin then rs.flatMap fun a => (rs.filter fun b => disjoint w h a b && decide (a.2 < b.2 ∨ (a.2 = b.2 ∧ a.1 < b.1))).map fun b => [a, b]
  else rs.map fun a => [a]

/-- An element of the rectangle at a north-west core holds its part of the image that a launch names, loaded in plane n (R397; log 56). -/
def holdsImage (f : Fab) (l : Launch) (w h : Nat) (nw : Nat × Nat) (n k : Nat) : Bool :=
  let p := planeOf (elemOf f k) n
  p.st == .loaded && (p.img.any fun i => i.fn == l.fn && i.image == lImage l && i.w == w && i.h == h && i.x0 == nw.1 && i.y0 == nw.2)

/-- Plane n is in a state in every element of some cores. -/
def allSt (f : Fab) (keys : List Nat) (n : Nat) (st : PSt) : Bool := keys.all fun k => (planeOf (elemOf f k) n).st == st

/-- What the scheduler does for a candidate (R397, R406, R436). -/
inductive Plan where
  | place (spots : List (Nat × Nat)) (plane : Nat) (warm : Bool)
  | drift (host : Nat) (plane : Nat) (warm : Bool)
  | back (spots : List (Nat × Nat))
  | backDrift (host : Nat)
  | preempt (rid : Nat)
  deriving DecidableEq, Repr

/-- Steps 1 and 2 of R397, or the free rectangle for a saved launch. -/
def planFree (f : Fab) (p : Part) (l : Launch) (free : Nat → Bool) : Option Plan :=
  let w := recFld l 12 4
  let h := recFld l 16 4
  let cs := choices p w h (recFld l 24 1 == 1) free
  if l.saved.isSome then cs.head?.map Plan.back
  else
    let keys (c : List (Nat × Nat)) : List Nat := coreKeys (c.flatMap (rectCores w h))
    let warm := if recFld l 26 1 = 1 then none else cs.findSome? fun c =>
      ([0, 1, 2, 3].find? fun n => c.all fun q => (keys [q]).all (holdsImage f l w h q n)).map fun n => Plan.place c n true
    let cold := cs.findSome? fun c =>
      (([0, 1, 2, 3].find? fun n => allSt f (keys c) n .empty).orElse fun _ => [0, 1, 2, 3].find? fun n => allSt f (keys c) n .loaded).map fun n =>
        Plan.place c n false
    warm.orElse fun _ => cold

/-- A region that a candidate may pre-empt (R397): of a lower class, running, with save slots free for it. -/
def mayPreempt (p : Part) (rank : Nat) (r : Region) : Bool :=
  let slots := r.w * r.h * (if r.twin.isSome then 2 else 1)
  r.owner.isNone && r.phase == 0 && r.startDue.isEmpty && r.started && decide (rank < lClass r.launch) && decide (rank < 2) && decide (slots ≤ (freeSlots p).length)

/-- Step 3 of R397: the victim of the lowest class, the youngest among equals, whose cores make room. -/
def planPreempt (f : Fab) (p : Part) (part : Nat) (l : Launch) : Option Plan :=
  let rs := f.regions.filter fun q => q.2.launch.part == part && mayPreempt p (lRank l) q.2 &&
    (planFree { f with elems := [] } p { l with saved := some 0 } fun c => (regionOf f c).isNone || (withTwin f q.1).any fun t => (region? f t).any fun r => inRect r c).isSome
  if f.regions.any fun q => q.2.launch.part == part && q.2.phase == 3 then none
  else (rs.foldl (fun a q => match a with
    | none => some q
    | some b => if lClass b.2.launch < lClass q.2.launch ∨ (lClass b.2.launch = lClass q.2.launch ∧ b.1 < q.1) then some q else some b) none).map fun q => Plan.preempt q.1

/-- A region that may take a drift launch in plane n (R406): none whose lend set the hub has given notice to withdraw (R409). -/
def driftHost (f : Fab) (part : Nat) (l : Launch) (rid : Nat) (r : Region) : Bool :=
  r.owner.isNone && r.launch.part == part && bit r.launch.lrec.toNat 23 && r.w == recFld l 12 4 && r.h == recFld l 16 4 && r.phase == 0 && r.started &&
    r.withdraw.isNone && decide ((f.regions.countP fun q => q.2.owner == some rid) < 2)

/-- Planes of a region free for a drift launch (R406): in every element empty or loaded with its image, and not in a swap. -/
def driftPlane (f : Fab) (l : Launch) (r : Region) (n : Nat) : Bool :=
  !(r.swap.any fun w => w.old == n || w.new == n) &&
    (planeKeys r).all fun k => (planeOf (elemOf f k) n).st == .empty || holdsImage f l (recFld l 12 4) (recFld l 16 4) (r.x0, r.y0) n k

/-- The plane that a cold drift launch takes of a region (R397, R406): the lowest that is empty in every element, else the lowest loaded in every
element, else the lowest that is one or the other in each (log 57). -/
def coldPlane (f : Fab) (l : Launch) (r : Region) : Option Nat :=
  let ns := [0, 1, 2, 3].filter (driftPlane f l r)
  ((ns.find? fun n => allSt f (planeKeys r) n .empty).orElse fun _ => ns.find? fun n => allSt f (planeKeys r) n .loaded).orElse fun _ => ns.head?

/-- Regions in the row-major order of their north-west cores. -/
def byCorner (rs : Tab Region) : Tab Region := rs.insertionSort fun a b => 8 * a.2.y0 + a.2.x0 ≤ 8 * b.2.y0 + b.2.x0

/-- The place of a drift launch (R397, R406): a warm plane, else a cold one, in the first region in row-major order; a saved one needs its own
plane. -/
def planDrift (f : Fab) (p : Part) (part : Nat) (l : Launch) : Option Plan :=
  let hosts := byCorner (f.regions.filter fun q => driftHost f part l q.1 q.2)
  let w := recFld l 12 4
  let h := recFld l 16 4
  match l.saved with
  | some i =>
    let n := ((p.saved.find? fun q => q.1 == i).map fun q => q.2.region.plane).getD 0
    (hosts.find? fun q => driftPlane f l q.2 n).map fun q => Plan.backDrift q.1
  | none =>
    let warm := if recFld l 26 1 = 1 then none else hosts.findSome? fun q =>
      ([0, 1, 2, 3].find? fun n => driftPlane f l q.2 n && (planeKeys q.2).all (holdsImage f l w h (q.2.x0, q.2.y0) n)).map fun n => Plan.drift q.1 n true
    warm.orElse fun _ => hosts.findSome? fun q => (coldPlane f l q.2).map fun n => Plan.drift q.1 n false

/-- What R397 or R406 can do for a record. -/
def planOf (f : Fab) (p : Part) (part : Nat) (l : Launch) : Option Plan :=
  if lClass l = 3 then planDrift f p part l
  else (planFree f p l fun c => (regionOf f c).isNone).orElse fun _ => planPreempt f p part l

/-- The first candidate that can be placed, and how (R396). -/
def pickLaunch (s : State) (part : Nat) : Option (Nat × Launch × Plan) :=
  let p := partOf s.hub part
  (candidates p s.clk.dtime).findSome? fun i => match p.accepted[i]? with
    | none => none
    | some l => (planOf s.fab p part l).map fun q => (i, l, q)

/-! ### Placement (R127, R398) -/

/-- A scrub of a core that joins from another function: its planes are empty, its stores and banks zero, and its debug compares clear (R126, R127,
R190, R426). -/
def scrubCore (f : Fab) (core : Nat) : Fab :=
  (List.range 100).foldl (fun f i => modElem f (100 * core + i) fun e =>
    { e with planes := [], mt := {}, ct := { halves := e.ct.halves }, ag := {}, firn := [], heldW := [], out := [], badReg := [], pend := [], dbg := 0 }) f

/-- Scrubs the cores of a list that another function used last, and notes their new user (R127). -/
def joinCores (f : Fab) (cores : List Nat) (part fn : Nat) : Fab :=
  cores.foldl (fun f c =>
    let u := tget 0 f.lastUser c
    let v := 32 * part + fn + 1
    let f := if u ≠ 0 ∧ u ≠ v then scrubCore f c else f
    { f with lastUser := tins f.lastUser c v }) f

/-- A record leaves the accepted list as it wins a placement (R396). -/
def wonPart (p : Part) (i : Nat) (l : Launch) : Part :=
  { p with accepted := p.accepted.eraseIdx i, rrLast := tput 0 p.rrLast (lRank l) ((lIndex l + 1) % 153) }

/-- A load of a launch's image for a region. -/
def loadOf (rid : Nat) (r : Region) (cold : Bool) : Load :=
  { part := r.launch.part, rid := some rid, fn := r.launch.fn, image := lImage r.launch, x0 := r.x0, y0 := r.y0, w := r.w, h := r.h, plane := r.plane, cold := cold }

/-- Binds warm or loads cold the region just placed. -/
def beginLaunch (s : State) (rid : Nat) (warm cold : Bool) : State :=
  match region? s.fab rid with
  | none => s
  | some r => if warm then prepareStart s rid else { s with fab := openLoad s.fab (loadOf rid r cold) }

/-- Places a launch in one rectangle, or a twin pair in two (R397, R398, R464). -/
def placeLaunch (s : State) (l : Launch) (spots : List (Nat × Nat)) (n : Nat) (warm : Bool) : State :=
  let w := recFld l 12 4
  let h := recFld l 16 4
  let a := s.fab.nextRid
  let two : Bool := spots.length == 2
  let mk (i : Nat) (q : Nat × Nat) : Nat × Region :=
    (a + i, { launch := l, x0 := q.1, y0 := q.2, w := w, h := h, plane := n, twin := if two then some (a + (1 - i)) else none })
  let rs := (spots.zip [0, 1]).map fun q => mk q.2 q.1
  let f := joinCores s.fab (rs.flatMap fun q => regionCores q.2) l.part l.fn
  let s := { s with fab := { f with regions := f.regions ++ rs, nextRid := a + rs.length } }
  rs.foldl (fun s q => beginLaunch s q.1 warm true) s

/-- Places a drift launch in a region (R406); the lend set is scrubbed first for another function, whoever else uses it (R126; log 57). -/
def placeDrift (s : State) (l : Launch) (host n : Nat) (warm : Bool) : State :=
  match region? s.fab host with
  | none => s
  | some r =>
    let f := lendTo s.fab host l.fn
    let d : Region := { launch := l, x0 := r.x0, y0 := r.y0, w := r.w, h := r.h, plane := n, owner := some host }
    beginLaunch { s with fab := { f with regions := f.regions ++ [(f.nextRid, d)], nextRid := f.nextRid + 1 } } f.nextRid warm false

/-- Accepted record i is a candidate (R396): the head of its queue, its dependences satisfied and its NOTBEFORE passed. -/
def isCandidate (p : Part) (now : Word) (i : Nat) : Bool := (headRecs p.accepted).contains i && (p.accepted[i]?).any (mayStart p now)

/-- Notes since when records have been candidates, and forgets it of those that are none any more (R396). -/
def noteSince (p : Part) (now : Word) : Part :=
  (List.range p.accepted.length).foldl (fun q i =>
    { q with accepted := lmod q.accepted i fun l => { l with since := if isCandidate p now i then some (l.since.getD now) else none } }) p

/-- SCHEDULER_DECISION (R396, R397): the partition's scheduler places the first candidate that it can, or starts the pre-emption that makes
room for it. A saved launch is placed by RESTORE_SAVED_LAUNCH. -/
def execSchedulerDecision (part : Nat) (s : State) : Out :=
  let p := partOf s.hub part
  if !partEn p ∨ p.prstState ≠ 2 then .next s
  else
    let s := { s with hub := modPart s.hub part fun p => noteSince p s.clk.dtime }
    match pickLaunch s part with
    | none => .next s
    | some (i, l, plan) =>
      let won := { s with hub := modPart s.hub part fun p => wonPart p i l }
      match plan with
      | .place a n warm => .next (placeLaunch won l a n warm)
      | .drift host n warm => .next (placeDrift won l host n warm)
      | .preempt rid => onFab s fun f => stopPair f rid 0 0 3
      | _ => .next s

/-- NOTBEFORE_REACHED (R388, R396): accepted record idx, at the head of its queue, its tick and dependences past, becomes a candidate. -/
def execNotbeforeReached (part idx : Nat) (s : State) : Out :=
  if isCandidate (partOf s.hub part) s.clk.dtime idx then
    onHub s fun h => modPart h part fun p => { p with accepted := lmod p.accepted idx fun l => { l with since := some (l.since.getD s.clk.dtime) } }
  else .next s

/-- BATCH_PROMOTION (R396): a batch record that has been a candidate for 491,520 ticks ranks as interactive. -/
def execBatchPromotion (part idx : Nat) (s : State) : Out :=
  match (partOf s.hub part).accepted[idx]? with
  | none => .next s
  | some l =>
    if lClass l = 2 ∧ isCandidate (partOf s.hub part) s.clk.dtime idx ∧ l.since.any fun t => decide (491520 ≤ (s.clk.dtime - t).toNat) then
      onHub s fun h => modPart h part fun p => { p with accepted := lmod p.accepted idx fun l => { l with promoted := true } }
    else .next s

/-! ### Swaps (R299, R404, R405) -/

/-- BANKCTL.LEND bits of a plane of a memory tile. -/
def lendBits (p : Plane) : List Bool := [0, 1, 2, 3, 4, 5].map (bLend p)

/-- The check of a pending swap at T - H (R404). -/
def swapOk (f : Fab) (r : Region) (w : Swap) : Bool :=
  r.phase == 0 && (planeKeys r).all fun k =>
    let p := planeOf (elemOf f k) w.new
    let o := planeOf (elemOf f k) w.old
    p.st == .loaded && !isDrift k p && (p.img.any fun i => i.w == r.w && i.h == r.h && i.x0 == r.x0 && i.y0 == r.y0 && i.fn == r.launch.fn) &&
      (kindOf k != .memory || lendBits p == lendBits o)

/-- SWAP_CHECK (R404): from tick T - H plane NEW is checked and closed to frame writes. -/
def execSwapCheck (rid : Nat) (s : State) : Out :=
  match region? s.fab rid with
  | none => .next s
  | some r => match r.swap with
    | none => .next s
    | some w =>
      if w.checked.isSome ∨ !horizonCome s.clk.dtime w.tick then .next s
      else onFab s fun f => modRegion f rid fun r => { r with swap := some { w with checked := some (swapOk f r w) } }

/-- A swap is refused at its tick (R299, R404): reply 1, SWAPREF, and plane NEW takes writes again. -/
def swapRefuse (f : Fab) (rid : Nat) (r : Region) (w : Swap) : Fab :=
  let f := modRegion f rid fun r => { r with swap := none }
  let f := kwrAll (regionEvent (cmdReply f w.core w.id w.reg 1) r 16) (regionKeys r) w.new
  (f.regions.filter fun q => q.2.owner == some rid && q.2.relendDue).foldl (fun f q =>
    sendDrift (modRegion f q.1 fun d => { d with relendDue := false }) q.1 2 none) f

/-- The read streams of plane OLD end after the access in issue, one that waits on a translation included (R72, R198, R404). -/
def endStreams (n : Nat) (e : Elem) : Elem :=
  let p := planeOf e n
  modRun e n fun u => { u with streams := (List.range 8).foldl (fun t i =>
    if strEn p i && !strDir p i && (tget {} t i).last.isNone then
      tmod {} t i fun x => { x with last := some (if x.wait = 0 then x.pos else x.pos + 1), endDue := true } else t) u.streams }

/-- SWAP_TICK (R303, R404): at T the swap takes place, and kwr writes that waited for it are pending at the bound plane, or is refused with reply 1 when its check failed or the region stopped. -/
def execSwapTick (rid : Nat) (s : State) : Out :=
  match region? s.fab rid with
  | none => .next s
  | some r => match r.swap with
    | none => .next s
    | some w =>
      if w.done ∨ w.checked.isNone ∨ s.clk.dtime.toNat < w.tick.toNat then .next s
      else if w.checked ≠ some true ∨ r.phase ≠ 0 then onFab s fun f => swapRefuse f rid r w
      else onFab s fun f =>
        let lent := (f.regions.filter fun q => q.2.owner == some rid && q.2.lent).map fun q => q.1
        let f := kwrAll ((planeKeys r).foldl (fun f k => bindPlane f k w.new true) f) (planeKeys r) w.new
        let f := ((planeKeys r).filter fun k => kindOf k == .ag).foldl (fun f k => modElem f k (endStreams w.old)) f
        let f := modRegion f rid fun r => { r with swap := some { w with done := true, relend := lent }, ctxs := tins r.ctxs w.new {} }
        let f := cmdReply f w.core w.id w.reg 0
        lent.foldl (fun f d => sendDrift f d 1 none) f

/-! ### Drift lending (R407-R409) -/

/-- The drift launch whose message reaches an element, by plane. -/
def driftMsg (f : Fab) (key plane kind : Nat) : Option (Nat × Region) :=
  f.regions.find? fun q => q.2.owner.isSome && q.2.plane == plane && q.2.msgKind == kind && q.2.msgs.contains key

/-- A message has reached an element; the last one sends the command's reply, and the next messages leave (R300). -/
def msgDone (f : Fab) (did key : Nat) : Fab :=
  let f := modRegion f did fun d => { d with msgs := d.msgs.filter fun k => k != key }
  match region? f did with
  | none => f
  | some d =>
    if !d.msgs.isEmpty then f
    else
      let f := d.msgReply.toList.foldl (fun f q => cmdReply f q.1 q.2.1 q.2.2 0) f
      modRegion f did fun d => match d.later with
        | [] => { d with msgReply := none }
        | m :: more => { d with lent := m.1 == 2, msgs := planeKeys d, msgKind := m.1, msgReply := m.2, later := more }

/-- REVOKE_ARRIVAL (R407): the element stops drift issue; what has issued completes, and a compute tile parks the plane in a reserve bank. -/
def execRevokeArrival (key plane : Nat) (s : State) : Out :=
  match driftMsg s.fab key plane 1 with
  | none => .next s
  | some (did, _) => onFab s fun f =>
      let f := modElem f key fun e =>
        let e := modPlane (settlePend plane e) plane fun p => { p with revoked := true }
        if kindOf key = .compute then
          { e with ct := { e.ct with reserve := (e.ct.reserve.filter fun q => q.1 != plane) ++ [(plane, (planeOf e plane).run)] } }
        else e
      msgDone f did key

/-- RELEND_ARRIVAL (R408): the reserve bank is switched back and drift issue resumes. -/
def execRelendArrival (key plane : Nat) (s : State) : Out :=
  match driftMsg s.fab key plane 2 with
  | none => .next s
  | some (did, _) => onFab s fun f =>
      let f := modElem f key fun e =>
        let e := match e.ct.reserve.find? fun q => q.1 == plane with
          | some q => modRun e plane fun _ => q.2
          | none => e
        modPlane { e with ct := { e.ct with reserve := e.ct.reserve.filter fun q => q.1 != plane } } plane fun p => { p with revoked := false }
      msgDone f did key

/-- Round of the owner context in a region's current plane. -/
def ownerRound (f : Fab) (r : Region) : BitVec 32 :=
  match r.ctxs.find? fun c => !c.2.retired && !c.2.drift with
  | some c => openRound c.2 (sourcesOf f r c.1)
  | none => 0

/-- A drift context's notice round has ended: its early edge's round has committed, or it is revoked and its rounds can be discarded (R145, R409). -/
def noticeOver (r : Region) (d : Region) : Bool :=
  let c := ctxOf r d.plane
  (!d.lent && d.msgs.isEmpty) || c.earlyDone.any fun n => rle n c.cround

/-- A region as it would stand without its drift contexts. -/
def withoutDrifts (f : Fab) (rid : Nat) (r : Region) : Fab :=
  let f := (f.regions.filter fun q => q.2.owner == some rid).foldl (fun f d =>
    (planeKeys r).foldl (fun f k => modElem f k fun e => modPlane e d.2.plane fun _ => {}) f) f
  { f with regions := f.regions.filter fun q => q.2.owner != some rid }

/-- A candidate of the partition needs the planes that a region has lent: it is a drift launch that can be placed there alone, and only without those
(R409). -/
def needsPlanes (s : State) (rid : Nat) (r : Region) : Bool :=
  let part := r.launch.part
  let p := partOf s.hub part
  let g := withoutDrifts s.fab rid r
  (candidates p s.clk.dtime).any fun i => (p.accepted[i]?).any fun l =>
    lClass l == 3 && (planDrift s.fab p part l).isNone && driftHost g part l rid r && [0, 1, 2, 3].any (driftPlane g l r)

/-- LEND_WITHDRAW (R409): at an owner round edge the hub gives notice that it withdraws the lend set, which it does only to place a launch that
needs the region's planes; one edge later the drift contexts are saved and the banks return. -/
def execLendWithdraw (rid : Nat) (s : State) : Out :=
  match region? s.fab rid with
  | none => .next s
  | some r =>
    let ds := s.fab.regions.filter fun q => q.2.owner == some rid
    let n := ownerRound s.fab r
    match r.withdraw with
    | none =>
      if ds.isEmpty ∨ !needsPlanes s rid r then .next s
      else onFab s fun f => modRegion f rid fun r =>
        ds.foldl (fun r d => modCtx r d.2.plane fun c => { c with early := true, earlyDone := none }) { r with withdraw := some n }
    | some m =>
      if n = m ∨ !rle m n ∨ !(ds.all fun d => noticeOver r d.2) then .next s
      else
        let s := ds.foldl (fun s d => driftSave s d.1) s
        .next { s with fab := modRegion s.fab rid fun r => { r with withdraw := none } }

/-! ### Stage replicas (R402, R403) -/

/-- NREP, RLEN of a stage. -/
def stRep (x : StageE) : Nat := fld x.w0.toNat 22 3
/-- RLEN. -/
def stLen (x : StageE) : Nat := fld x.w0.toNat 25 4
/-- OQ of a replica. -/
def stOq (x : StageE) (r : Nat) : Nat := fld x.w1.toNat (8 * r) 8

/-- DQ. -/
def stDq (x : StageE) : Nat := fld x.w0.toNat 14 8
/-- RQ of a replica. -/
def stRq (x : StageE) (r : Nat) : Nat := fld x.w1.toNat (32 + 8 * r) 8
/-- The replica that stands at a place of the region. -/
def stReplica (x : StageE) (xy : Nat × Nat) : Option Nat :=
  (List.range (stRep x)).find? fun r => fld x.w2.toNat (14 * r) 7 == xy.1 && fld x.w2.toNat (14 * r + 7) 7 == xy.2

/-- The replica that a distributor's next token goes to (R402). -/
def stageTo (e : Elem) (u : Distr) (x : StageE) : Option Nat :=
  if u.left ≠ 0 then (if 1 ≤ outRoom e (stOq x u.dst) then some u.dst else none)
  else ((List.range (stRep x)).filter fun r => decide (1 ≤ outRoom e (stOq x r))).foldl (fun a r => match a with
    | none => some r
    | some b => if tget 0 u.est r < tget 0 u.est b then some r else some b) none

/-- The stage of a plane whose distributor can send, the first among several: its place, the token and the replica (R400, R402). -/
def distNext (e : Elem) (plane : Nat) : Option (Nat × StageE × Token × Nat) :=
  let p := planeOf e plane
  p.stages.zipIdx.findSome? fun q =>
    if !q.1.dist ∨ !holdsHead e plane (stDq q.1) then none
    else match headOf e (stDq q.1), stageTo e (tget {} p.run.dists q.2) q.1 with
      | some t, some r => some (q.2, q.1, t, r)
      | _, _ => none

/-- A distributor after a token for a replica (R402). -/
def distStep (x : StageE) (r : Nat) (u : Distr) : Distr :=
  let left := if u.left = 0 then stLen x - 1 else u.left - 1
  { u with dst := r, left := left, seq := if left = 0 then u.seq + 1 else u.seq
           est := if u.left = 0 then tput 0 u.est r (tget 0 u.est r + 1) else u.est }

/-- The token that a distributor sends: its sequence stands in data bits [15:0] (R402). -/
def distToken (key : Nat) (p : Plane) (q : Nat) (seq : BitVec 16) (t : Token) : Token :=
  let tag := if ctagOf key p q = 0 then t.ctag else ctagOf key p q
  stamp (isWideSel q) { t with data := BitVec.ofNat 512 (setFld t.data.toNat 0 16 seq.toNat), ctag := tag }

/-- DISTRIBUTOR_SEND (R402): a distributor sends the next token of a record, numbered, to the replica with the least estimate. It takes its
tile's movement issue of the cycle (R400). -/
def execDistributorSend (key plane : Nat) (s : State) : Out :=
  let e := elemOf s.fab key
  let p := planeOf e plane
  if planeStill s.fab key plane ∨ e.issued.contains .movement then .next s
  else match distNext e plane with
  | none => .next s
  | some (j, x, t, r) => onFab s fun f =>
      let q := popPlane f key plane (stDq x) t
      if !q.2 then q.1
      else
        let f := modElem (busy q.1 key plane) key fun e =>
          modRun { openWindow e plane with issued := .movement :: e.issued } plane fun v => { v with dists := tmod {} v.dists j (distStep x r) }
        pushOut f key (stOq x r) (distToken key p (stOq x r) (tget {} p.run.dists j).seq t)

/-- The stage priority of a replica, as sampled (R403). -/
def stageCount (e : Elem) (plane : Nat) (x : StageE) (r : Nat) : Nat :=
  min ((tget [] e.net.rx (stRq x r)).countP fun t => t.ctx.toNat == plane) 16

/-- Two entries of a stage: the same words of the stage table (R390). -/
def sameStage (x y : StageE) : Bool := x.w0 == y.w0 && x.w1 == y.w1 && x.w2 == y.w2 && x.w3 == y.w3

/-- A replica's sample reaches its distributor (R402, R403). -/
def stageReport (g : Region) (plane r n : Nat) (f : Fab) (x : StageE) : Fab :=
  match relKey g (fld x.w0.toNat 0 7) (fld x.w0.toNat 7 7) with
  | none => f
  | some d => match (planeOf (elemOf f d) plane).stages.findIdx? fun y => y.dist && sameStage x y with
    | none => f
    | some j => modElem f d fun e => modRun e plane fun u => { u with dists := tmod {} u.dists j fun v => { v with est := tput 0 v.est r n } }

/-- STAGE_SAMPLE (R403): every 64 tile cycles from bind, a replica takes the number of its plane's tokens in the RQ of each of its stages as that
stage's priority, and reports it to the distributor. -/
def execStageSample (key plane : Nat) (s : State) : Out :=
  let e := elemOf s.fab key
  let p := planeOf e plane
  match regionOf s.fab (keyCore key) with
  | none => .next s
  | some (_, g) =>
    let mine (x : StageE) : Option Nat := if x.dist then none else stReplica x (relPlace g key)
    if planeStill s.fab key plane ∨ e.cyc ≤ p.cyc0 ∨ (e.cyc - p.cyc0) % 64 ≠ 0 then .next s
    else onFab s fun f =>
      let sampled (x : StageE) : StageE := match mine x with
        | none => x
        | some r => { x with prio := stageCount e plane x r }
      let f := modElem f key fun e => modPlane e plane fun p => { p with stages := p.stages.map sampled }
      p.stages.foldl (fun f x => match mine x with
        | none => f
        | some r => stageReport g plane r (stageCount e plane x r) f x) f

/-! ### Pre-emption and restore (R429-R437) -/

/-- Saves a region and its twin; the drift contexts in it first, into slots that the region does not need (R399, R429, R430, R466). -/
def saveRegion (s : State) (rid reason : Nat) : State :=
  let rs := withTwin s.fab rid
  let need := rs.foldl (fun a q => a + ((region? s.fab q).map fun r => r.w * r.h).getD 0) 0
  let s := rs.foldl (fun s q => driftsOut s q need) s
  match rs with
  | [a, b] =>
    match region? s.fab a, region? s.fab b with
    | some ra, some rb =>
      let s := saveLaunch s b rb reason 0
      let part := ra.launch.part
      let ib := (partOf s.hub part).nextSave - 1
      let s := { s with hub := modPart s.hub part fun p => { p with accepted := p.accepted.drop 1 } }
      let s := saveLaunch s a ra reason 0
      let ia := (partOf s.hub part).nextSave - 1
      { s with hub := modPart s.hub part fun p => { p with saved := tmod default p.saved ia fun x => { x with partner := some ib } } }
    | _, _ => s
  | _ => match region? s.fab rid with
    | some r => saveLaunch s rid r reason 0
    | none => s

/-- A pre-emption can go on: gated, nothing to discard, or a replay's restart pending (R429). -/
def saveReady (f : Fab) (rid : Nat) (r : Region) : Bool :=
  r.phase == 3 && allGated f rid && (withTwin f rid).all fun q => (region? f q).any fun g => (faultCtxs f q g).isEmpty

/-- A save command is answered (R427). -/
def saveAnswer (s : State) (part reason : Nat) : State :=
  if reason ≠ 1 then s else { s with hub := modPart s.hub part fun p => { p with rbusy := tput false p.rbusy 0 false, rcode := tput 0 p.rcode 0 0 } }

/-- PREEMPTION (R429): once a region that the scheduler or a save command stops is gated, its reads complete, it is written into save slots
and its cores are free. A save command waits until a stop under way has ended. -/
def execPreemption (rid : Nat) (s : State) : Out :=
  match region? s.fab rid with
  | none => .next s
  | some r =>
    let n := r.w * r.h * (if r.twin.isSome then 2 else 1)
    let room : Bool := decide (n ≤ (freeSlots (partOf s.hub r.launch.part)).length)
    let reason := if r.saveDue then 1 else r.stop.getD 0 % 4
    if r.saveDue ∧ r.phase = 0 then onFab s fun f => stopPair f rid 1 0 3
    else if r.saveDue ∧ r.phase = 4 ∧ room then .next (saveAnswer (saveRegion s rid 1) r.launch.part 1)
    else if !saveReady s.fab rid r ∨ !room then .next s
    else
      let s := (withTwin s.fab rid).foldl (fun s q => match region? s.fab q with
        | some g => readsComplete s g fun _ => true
        | none => s) s
      if (withTwin s.fab rid).any fun q => (region? s.fab q).any fun g => !(faultCtxs s.fab q g).isEmpty then .next s
      else .next (saveAnswer (saveRegion s rid reason) r.launch.part reason)

/-- Permit counts of a moved element: those held stay held; above the link's slots they stand as extra (R435). -/
def movePermits (old key : Nat) (n : Net) : Net :=
  ((List.range 16).map (fun i => 0x30 + i) ++ (List.range 8).map fun i => 0x48 + i).foldl (fun m q =>
    let x := permitsOf n old q
    let k := linkSlots key (selDir q)
    { m with used := tput 0 m.used q (k - x), extra := tput 0 m.extra q (x - k) }) n

/-- Scratchpad lines that storage frames have written (R77, R226). -/
def restoredLines (m : MtSt) : MtSt :=
  (List.range 3072).foldl (fun m l => putCheck { m with tags := tput 0 m.tags l 0x7F00 } (l / 512) (l % 512)) { m with bad := [] }

/-- A restored element: streams walk again, and scratchpad lines, which storage frames have written, carry FMT 0x00, SCALE 0x7F and a valid CHECK
(R71, R77). -/
def wakeElem (old key : Nat) (e : Elem) : Elem :=
  let e := [0, 1, 2, 3].foldl (fun e n => modRun e n fun u =>
    { u with streams := u.streams.map fun q => (q.1, { q.2 with tent := none, half := none, wait := 0 }) }) e
  { e with net := { movePermits old key e.net with badRoutes := [] }
           mt := if kindOf key = .memory then restoredLines e.mt else e.mt
           ct := { e.ct with bad := [] }, badReg := [], planes := e.planes.map fun p => (p.1, { p.2 with bad := [] })
           ag := { e.ag with tent := none
                             inbox := e.ag.inbox.map fun c => { c with wait := 0 } } }

/-- The planes of a restored element hold their images at the new rectangle; a plane loaded for another rectangle holds none (R436). -/
def moveImg (old new : Region) (e : Elem) : Elem :=
  { e with planes := e.planes.map fun p => (p.1, { p.2 with img :=
      (p.2.img.filter fun i => i.x0 == old.x0 && i.y0 == old.y0 && i.w == old.w && i.h == old.h).map fun i => { i with x0 := new.x0, y0 := new.y0 } }) }

/-- A pending swap whose check fell due while its region was saved fails as the region returns, with its reply and SWAPREF (R437). -/
def swapMissed (f : Fab) (rid : Nat) (now : Word) : Fab :=
  match region? f rid with
  | none => f
  | some r => match r.swap with
    | none => f
    | some w => if w.checked.isNone && horizonCome now w.tick then swapRefuse f rid r w else f

/-- Puts one saved region back into a rectangle under a region number (R436). -/
def restoreAt (s : State) (x : Saved) (q : Nat × Nat) (rid : Nat) : State :=
  let r0 := x.region
  let r1 : Region := { r0 with x0 := q.1, y0 := q.2 }
  let dst := regionCores r1
  let src := (List.range dst.length).map fun i => x.base + i
  let s := { s with fab := joinCores s.fab dst r0.launch.part r0.launch.fn }
  let s := moveCores s src dst
  let r := moveRegion src dst r1
  let r := { r with twin := none, restart := r.phase != 4, phase := if r.phase = 4 then 4 else 1 }
  let olds := regionCores r0
  let f := (dst.zip olds).foldl (fun f c => (List.range 100).foldl (fun f i => modElem f (100 * c.1 + i) fun e => moveImg r0 r1 (wakeElem (100 * c.2 + i) (100 * c.1 + i) e)) f) s.fab
  let f := { f with regions := f.regions ++ [(rid, r)], loads := f.loads ++ x.loads.map fun l => { l with rid := l.rid.map fun _ => rid, x0 := q.1, y0 := q.2, wait := 0 } }
  fillBucket { s with fab := swapMissed (selectSpine f r (recFld r.launch 20 3)) rid s.clk.dtime } rid

/-- A line of a save slot that cannot be read: poisoned or failing, in its header or its image (R436). -/
def slotUnread (m : MemSys) (p : Part) (slot : Nat) : Option Nat :=
  let pa := slotBase p slot
  let n := fld (mgetN m.hbm (pa + 256) 32) 160 32
  (m.poison ++ m.bad ++ (m.checks ++ m.tags).map fun t => t.1).find? fun l =>
    decide (pa / 64 ≤ l ∧ 64 * l < pa + 256 + 32 * n) && (m.poison.contains l || hbmBad m (64 * l))

/-- Frame k of the image in a save slot (R432). -/
def slotFrame (m : MemSys) (p : Part) (slot k : Nat) : Nat := mgetN m.hbm (slotBase p slot + 256 + 32 * k) 32

/-- The group of a save slot that a header opens: the saved element by its place in the region, the space, the first frame and the count (R215). -/
structure SlotGroup where
  x : Nat
  y : Nat
  space : Nat
  first : Nat
  cnt : Nat
  deriving DecidableEq, Repr

/-- The group header in a frame. -/
def slotGroup (v : Nat) : SlotGroup := { x := fld v 228 7, y := fld v 235 7, space := fld v 242 3, first := fld v 215 13, cnt := fld v 201 14 }

/-- A group header of a save image is legal (R216, R217, R435): its kind, its element and its frames. -/
def slotGroupOk (w h v : Nat) : Bool :=
  let g := slotGroup v
  let e := 10 * (g.y % 10) + g.x % 10
  fld v 248 8 == 2 && !bit v 247 && g.space != 7 && fld v 0 201 == 0 && decide (1 ≤ g.cnt ∧ g.cnt ≤ 8192 ∧ g.x < 10 * w ∧ g.y < 10 * h) &&
    decide (g.first + g.cnt ≤ if g.space = 6 then 5 else spaceFrames e g.space)

/-- Two groups name a frame both (R217). -/
def groupsMeet (a b : SlotGroup) : Bool :=
  a.x == b.x && a.y == b.y && a.space == b.space && decide (a.first < b.first + b.cnt ∧ b.first < a.first + a.cnt)

/-- A port of the element at a place leads out of a region of w by h cores. -/
def leadsOut (w h x y d : Nat) : Bool :=
  match d with
  | 0 => y == 0
  | 1 => x + 1 == 10 * w
  | 2 => y + 1 == 10 * h
  | 3 => x == 0
  | _ => false

/-- Writes a frame of a save slot into the saved element at virt, which stood at key, of the region that stands under the next number; none when it
breaks a check (R217, R247, R436). -/
def slotWrite (r : Region) (virt key : Nat) (g : SlotGroup) (idx : Nat) (f : Fab) (v : BitVec 256) : Option Fab :=
  if v = saveFrame f (some f.nextRid) virt key g.space idx then some f
  else match g.space with
  | 4 => some (stateWrite f (some f.nextRid) virt idx v)
  | 5 => some (storeWrite f virt idx v)
  | 6 =>
    if idx < 4 then
      if routeFrameOk v && (routeEntries v.toNat).all fun q => !bit q.2 3 || !leadsOut r.w r.h g.x g.y (q.2 % 8) then some (putRoute f virt idx v) else none
    else if fld v.toNat 140 116 = 0 ∧ !bit v.toNat 135 then some (modElem f virt fun e => linkWrite e key v) else none
  | n => if planeFrameOk (elemOf f virt) virt n idx v then some (putFrame f virt n idx v false) else none

/-- The saved element that a place of the region names, and where it stood. -/
def slotKey (x : Saved) (g : SlotGroup) : Nat × Nat :=
  let i := g.y / 10 * x.region.w + g.x / 10
  let e := 10 * (g.y % 10) + g.x % 10
  (100 * (x.base + i) + e, 100 * ((regionCores x.region)[i]?.getD 0) + e)

/-- Writes n groups of a save slot, from frame k on, into the saved elements: what they then hold, and the frame after the last (R436 step 2). -/
def slotGroups (m : MemSys) (p : Part) (slot : Nat) (x : Saved) : Nat → Nat → List SlotGroup → Fab → Option (Fab × Nat)
  | 0, k, _, f => some (f, k)
  | n + 1, k, l, f =>
    let v := slotFrame m p slot k
    let g := slotGroup v
    let q := slotKey x g
    if !slotGroupOk x.region.w x.region.h v ∨ l.any (groupsMeet g) then none
    else match (List.range g.cnt).foldlM (fun f j => slotWrite x.region q.1 q.2 g (g.first + j) f (BitVec.ofNat 256 (slotFrame m p slot (k + 1 + j)))) f with
      | none => none
      | some f => slotGroups m p slot x n (k + 1 + g.cnt) (g :: l) f

/-- Writes the groups of a save slot whose image has the structure that R217 asks for. -/
def slotImage (m : MemSys) (p : Part) (x : Saved) (f : Fab) (slot : Nat) : Option Fab :=
  let hd := slotFrame m p slot 0
  if !imgHeaderOk hd x.region.w x.region.h then none
  else match slotGroups m p slot x (fld hd 192 32) 1 [] f with
    | none => none
    | some (f, k) => if k + 1 = fld hd 160 32 ∧ slotFrame m p slot k = 3 * 2 ^ 248 then some f else none

/-- Some plane of a saved core is of a drift image. -/
def coreDrift (f : Fab) (core n : Nat) : Bool :=
  (List.range 100).any fun i => hasPlanes (100 * core + i) && isDrift (100 * core + i) (planeOf (elemOf f (100 * core + i)) n)

/-- The checks at the end frame, of the planes and routes that a slot changes (R183, R217, R436). -/
def slotLateOk (f g : Fab) (virt : List Nat) : Bool :=
  virt.all fun c => (List.range 100).all fun i => [0, 1, 2, 3].all fun n =>
    let k := 100 * c + i
    (!hasPlanes k || (planeOf (elemOf g k) n).frames == (planeOf (elemOf f k) n).frames || planeLate (elemOf g k) k n) &&
      (tget 0 (elemOf g k).net.routes n == tget 0 (elemOf f k).net.routes n || routeLate (coreDrift g c n) (tget 0 (elemOf g k).net.routes n))

/-- Every group of every slot of a save is written into the saved elements and the saved contexts (R436 step 2); none when an image fails a check of
R217. -/
def slotsWritten (s : State) (part : Nat) (x : Saved) : Option (Fab × Saved) :=
  match x.slots.foldlM (slotImage s.mem (partOf s.hub part) x) { s.fab with regions := s.fab.regions ++ [(s.fab.nextRid, x.region)] } with
  | none => none
  | some f =>
    if slotLateOk s.fab f ((List.range (x.region.w * x.region.h)).map fun i => x.base + i) then
      some ({ f with regions := s.fab.regions }, { x with region := (region? f f.nextRid).getD x.region })
    else none

/-- A save with what its slots hold, and the fabric with it. -/
def slotsRead (s : State) (part : Nat) (x : Saved) : State × Saved :=
  match slotsWritten s part x with
  | some q => ({ s with fab := q.1 }, q.2)
  | none => (s, x)

/-- Why a save is not restored (R436): UNCORR where its record has CORRUPT set or it cannot be read, FRAMEINV where its image fails a check. -/
def saveLost (s : State) (part : Nat) (x : Saved) : Option Nat :=
  if x.corrupt || x.slots.any fun n => (slotUnread s.mem (partOf s.hub part) n).isSome then some 0x0B
  else if (slotsWritten s part x).isSome then none else some 0x10

/-- The saved launch number id leaves the partition's table and frees its slots. -/
def savedGone (p : Part) (id : Nat) (x : Saved) : Part := { p with saved := tdel p.saved id, slotsUsed := p.slotsUsed.filter fun n => !x.slots.contains n }

/-- A save is given up: its slots are free, and a preload saved with it ends as one in a freed region (R436, R441). -/
def saveDropped (s : State) (part id : Nat) (x : Saved) : State :=
  let s := match x.slots.findSome? fun n => slotUnread s.mem (partOf s.hub part) n with
    | some a => poisonPost { s with mem := (hbmRead s.mem part (64 * a)).1 }
    | none => s
  let pre := x.loads.any fun l => l.rid.isNone
  { s with hub := modPart s.hub part fun p => { savedGone p id x with plbusy := p.plbusy && !pre, plcode := if pre then 1 else p.plcode } }

/-- A save that cannot be restored, with that of its twin, is launched again from its record (R436, R466). -/
def corruptBack (s : State) (part i : Nat) (l : Launch) (saves : List (Nat × Saved)) (x : Saved) (cause : Nat) : State :=
  let l' : Launch := { l with saved := none, lrec := l.lrec ||| (1#1024 <<< 26) }
  let s := saves.foldl (fun s q => saveDropped s part q.1 q.2) s
  let s := { s with hub := modPart s.hub part fun p => { p with accepted := lmod p.accepted i fun _ => l' } }
  postLine s part l.fn none (repLine part l.fn l.seq.toNat 0 x.region.owner.isSome 0 0 0 0 s.clk.dtime { cause := cause, effect := 4 })

/-- A saved drift context returns to a region, and resumes there once its marked stores have been translated again (R67, R406, R408, R436). -/
def restoreDrift (s : State) (x : Saved) (host : Nat) : State :=
  match region? s.fab host with
  | none => s
  | some h =>
    let n := x.region.plane
    let r1 : Region := { x.region with x0 := h.x0, y0 := h.y0, owner := some host, ctxs := [], lent := false, restart := true }
    let dst := regionCores r1
    let src := (List.range dst.length).map fun i => x.base + i
    let f0 := lendTo s.fab host x.region.launch.fn
    let shift := numbersOf f0 (regionKeys h)
    let s := { s with hub := renameInvals s.hub fun q => if src.contains (q.1 / 100) then (keyMap src dst q.1, q.2 + shift) else q }
    let f := (dst.zip src).foldl (fun f c => (List.range 100).foldl (fun f i =>
      let k := 100 * c.1 + i
      let v := moveImg x.region r1 (wakeElem k k (moveElem src dst (elemOf f (100 * c.2 + i))))
      modElem { f with elems := tdel f.elems (100 * c.2 + i) } k fun e => ctxMerge n (inLendSet f k) e (shiftElem shift { v with planes := tmod {} v.planes n fun p => { p with revoked := true } })) f) f0
    let did := f.nextRid
    let lds := x.loads.map fun l => { l with rid := some did, x0 := h.x0, y0 := h.y0, wait := 0 }
    let f := { f with creds := f.creds.map fun c => (c.1, keyMap src dst c.2.1, c.2.2), loads := f.loads ++ lds
                      regions := f.regions ++ [(did, moveRegion src dst r1)], nextRid := did + 1 }
    let ctxs := x.region.ctxs.map fun c => (c.1, { c.2 with drift := true })
    driftResume { s with fab := modRegion f host fun g => { g with ctxs := ctxs.foldl (fun t c => tins t c.1 c.2) g.ctxs } } did

/-- RESTORE_SAVED_LAUNCH (R436, R437): accepted record idx, when the scheduler chooses it and it was saved, is written back and its clocks
restart. -/
def execRestoreSavedLaunch (part idx : Nat) (s : State) : Out :=
  match pickLaunch s part with
  | none => .next s
  | some (i, l, plan) =>
    match l.saved.bind fun id => ((partOf s.hub part).saved.find? fun q => q.1 == id) with
    | none => .next s
    | some (id, x) =>
      let y := x.partner.bind fun j => ((partOf s.hub part).saved.find? fun z => z.1 == j)
      let saves := (id, x) :: y.toList
      if i ≠ idx then .next s
      else match saves.findSome? fun q => saveLost s part q.2 with
      | some cause => .next (corruptBack s part i l saves x cause)
      | none =>
        let a := slotsRead s part x
        let b := y.map fun q => (q.1, slotsRead a.1 part q.2)
        let s := (b.map fun q => q.2.1).getD a.1
        let x := a.2
        let y := b.map fun q => (q.1, q.2.2)
        let won := { s with hub := modPart s.hub part fun p => savedGone (wonPart p i l) id x }
        match plan with
        | .backDrift host => .next (restoreDrift won x host)
        | .back (q :: more) =>
          let a := won.fab.nextRid
          let s := restoreAt { won with fab := { won.fab with nextRid := a + 2 } } x q a
          let s := match y, more with
            | some (j, y), q2 :: _ =>
              let s := restoreAt { s with hub := modPart s.hub part fun p => savedGone p j y } y q2 (a + 1)
              { s with fab := modRegion (modRegion s.fab a fun r => { r with twin := some (a + 1) }) (a + 1) fun r => { r with twin := some a } }
            | _, _ => s
          if x.region.phase = 4 then .next s else .next (restartPair s a)
        | _ => .next s

end Sys2Proof.Machine
end

