-- ==== Sys2Proof/Machine/Host.lean ====
section
/-! DEFINITION. Host and peer memory accesses, device time, spines, leases, the injection bucket, the audit and patrol (01 R23, R44; 21 R473-R475;
22 R478-R485; 23 R489-R491, R506-R508). -/

namespace Sys2Proof.Machine

/-! ### Host and peer accesses (R23, R44, R74, R76, R489, R491, R508) -/

/-- Bytes that the HDM decoder of a partition covers: none in the safe state (R491, R505). -/
def hdmSize (s : State) (part : Nat) : Nat :=
  if s.sec.stage = 4 then 0 else groupBytes * ((List.range 16).countP fun g => bit (cgMask (partOf s.hub part)) g)

/-- The channel groups of a partition in ascending order. -/
def groupsOf (p : Part) : List Nat := (List.range 16).filter fun g => bit (cgMask p) g

/-- Device physical address of a range offset of a partition's host-managed memory (R44); none where no committed decoder covers it. The range follows
CGMASK, as R44 gives it, whether EN is set or not (log 61). -/
def hdmAddr (s : State) (part off : Nat) : Option Nat :=
  if (partOf s.hub part).hdm ∧ off < hdmSize s part then
    ((groupsOf (partOf s.hub part))[off / groupBytes]?).map fun g => g * groupBytes + off % groupBytes
  else none

/-- The answer of a read with poison: 64 bytes of a value, marked. -/
def poisoned (s : State) (l : Line) : State := { s with resp := 1 :: (List.range 8).map fun i => BitVec.ofNat 64 (l.toNat / 2 ^ (64 * i)) }

/-- A line enters the snoop filter of its stack; a full one gives its oldest up (R489). -/
def snoopAdd (m : MemSys) (pa : Nat) : MemSys :=
  let m := snoopClear m pa
  let t := tget [] m.snoop (stackOf pa) ++ [pa / 64]
  { m with snoop := tins m.snoop (stackOf pa) (if 65536 < t.length then t.drop 1 else t) }

/-- A host or peer read of a line (R23, R76, R489, R491): status 0 with the data, or 1 for a poison mark with all ones or a free value (log 22). -/
def hostRead (s : State) (part off : Nat) (cache : Bool) : State :=
  match hdmAddr s part off with
  | none => poisoned s (BitVec.allOnes 512)
  | some pa =>
    let m := s.mem
    if tget 0xFF m.owner (groupOf pa) ≠ part then poisoned s (BitVec.allOnes 512)
    else
      let free := Config.freeLine s.free
      let t := { s with free := s.free + 1 }
      if m.poison.contains (pa / 64) then poisoned t free
      else if hbmBad m pa then poisonPost (poisoned { t with mem := (hbmFail m pa).1 } free)
      else
        let l := lineAt m.hbm (lineBase pa)
        { s with mem := if cache then snoopAdd m pa else m
                 resp := 0 :: (List.range 8).map fun i => BitVec.ofNat 64 (l.toNat / 2 ^ (64 * i)) }

/-- A host or peer write of bytes of a line: dropped where no decoder covers it, on an owner mismatch, and in part on a poisoned line; FMT and
SCALE stay (R23, R74, R491). -/
def hostWrite (s : State) (part off : Nat) (mask : BitVec 64) (v : Line) : State :=
  let s := { s with resp := [0] }
  match hdmAddr s part off with
  | none => s
  | some pa =>
    if tget 0xFF s.mem.owner (groupOf pa) ≠ part then s
    else { s with mem := (hbmPut s.mem pa mask.toNat v none).1 }

/-- CXL_MEM_READ (R23, R44, R76, R491): the line may enter a host cache (R489). -/
def execCxlMemRead (part off : Nat) (s : State) : Out := .next (hostRead s part off true)
/-- CXL_MEM_WRITE (R23, R44, R74, R491). -/
def execCxlMemWrite (part off : Nat) (mask : BitVec 64) (v : BitVec 512) (s : State) : Out := .next (hostWrite s part off mask v)
/-- PEER_INBOUND_ACCESS (R508): treated as a host access of the covering partition. -/
def execPeerInboundAccess (part : Nat) (write : Bool) (off : Nat) (mask : BitVec 64) (v : BitVec 512) (s : State) : Out :=
  .next (if write then hostWrite s part off mask v else hostRead s part off false)
/-- BACK_INVALIDATE (R489): the host gives a line up, and it leaves the snoop filter. -/
def execBackInvalidate (addr : Nat) (s : State) : Out := onMem s fun m => snoopClear m addr

/-- A configuration request of the host is answered with Configuration Request Retry Status until STAGE reaches 3 or 4 (R504): status 2. -/
def cfgRetry (s : State) : State := { s with resp := [2] }

/-- HDM_DECODER_COMMIT (R491): the decoder of a physical function covers its partition's memory. -/
def execHdmDecoderCommit (pf : Nat) (s : State) : Out :=
  if s.sec.stage.toNat < 3 then .next (cfgRetry s)
  else if s.sec.stage = 4 ∧ pf ≠ 0 then .next s else onHub s fun h => modPart h pf fun p => { p with hdm := true }

/-- VF_ENABLE_WRITE (R490): NumVFs is written, and VF Enable stays 0 while it exceeds TotalVFs, which reads VFCNT. -/
def execVfEnableWrite (pf n : Nat) (en : Bool) (s : State) : Out :=
  if s.sec.stage.toNat < 3 then .next (cfgRetry s)
  else if s.sec.stage = 4 ∧ pf ≠ 0 then .next s
  else onHub s fun h => modPart h pf fun p => { p with numVfs := n, vfen := en && decide (n ≤ vfCnt p) }

/-! ### Device time (R506, R507) -/

/-- The counter after a period, the slew still to do, and the phase (R506). -/
def clkPeriod (c : Clk) : Clk :=
  let ph := (c.phase + 1) % 1024
  let off := c.offset.toInt
  match c.load with
  | some v => { c with dtime := v, load := none, phase := ph }
  | none =>
    if ph = 0 ∧ 0 < off then { c with dtime := c.dtime + 2, offset := c.offset - 1, phase := ph }
    else if ph = 0 ∧ off < 0 then { c with offset := c.offset + 1, phase := ph }
    else { c with dtime := c.dtime + 1, phase := ph }

/-- Actions tied to a tick that the counter may have reached: they come before the next period (R507, log 26). Each of them does nothing where its
tick has not come. -/
def dueActions (s : State) : List Action :=
  let regs := s.fab.regions.filter fun q => q.2.owner.isNone
  (regs.flatMap fun q =>
    (if q.2.bfill < s.clk.dtime.toNat / 16 then [Action.event (.bucketRefill q.1)] else []) ++
    (if q.2.leaseEnd.any fun e => decide (e.toNat ≤ s.clk.dtime.toNat) then [Action.event (.leaseExpiry q.1)] else []) ++
    (match q.2.swap with
      | some w => (if w.checked.isNone && horizonCome s.clk.dtime w.tick then [Action.event (.swapCheck q.1)] else []) ++
          (if !w.done && decide (w.tick.toNat ≤ s.clk.dtime.toNat) then [Action.event (.swapTick q.1)] else [])
      | none => [])) ++
  (((s.fab.ccs.map fun q => q.1).filter fun n => decide (n < 64) && timerDue s n).map fun n => Action.event (.timerEvent n)) ++
  ([0, 1, 2, 3].flatMap fun p => ((List.range (partOf s.hub p).accepted.length).filter fun i =>
    isCandidate (partOf s.hub p) s.clk.dtime i && ((partOf s.hub p).accepted[i]?).any fun l => l.since.isNone).map fun i => Action.event (.notbeforeReached p i))

/-- The reckoning of the energy accounts, once in a period: each account is charged for its activities since the last one, and OVERHEAD also for what
goes on in every period (R486; log 17). -/
def chargeEnergy (s : State) : State :=
  let n := s.free
  let part (h : Hub) (p : Nat) : Hub :=
    if tget 0 s.hub.acts p = 0 then h else modPart h p fun q => { q with energy := q.energy + Config.energy (8 * n + p) (tget 0 s.hub.acts p) }
  let h := [0, 1, 2, 3].foldl part s.hub
  { s with free := n + 1, hub := { h with acts := [], overhead := h.overhead + Config.energy (8 * n + 4) (tget 0 s.hub.acts 4 + 1) } }

/-- DEVICE_TIME_PERIOD (R506, R507): the counter advances, or takes a pending DTSET load; what falls due at its new value comes next. -/
def execDeviceTimePeriod (s : State) : Out :=
  let s := chargeEnergy { s with clk := clkPeriod s.clk }
  .next { s with agenda := dueActions s ++ s.agenda }

/-- DTSET_WRITE (R506): ignored unless READY is 1 and every partition is in reset. -/
def execDtsetWrite (v : BitVec 64) (s : State) : Out :=
  if s.sec.ready ∧ ([0, 1, 2, 3].all fun p => (partOf s.hub p).prstState == 0) then onClk s fun c => { c with load := some v } else .next s

/-- DTADJ_WRITE (R506): the remaining slew is replaced. -/
def execDtadjWrite (v : BitVec 64) (s : State) : Out := onClk s fun c => { c with offset := v.setWidth 32 }

/-- DTFREQ_WRITE (R506): a trim outside plus or minus 2^23 is ignored. -/
def execDtfreqWrite (v : BitVec 64) (s : State) : Out :=
  let t := (v.setWidth 32 : BitVec 32)
  if -8388608 ≤ t.toInt ∧ t.toInt ≤ 8388608 then onClk s fun c => { c with trim := t } else .next s

/-- PPSIN_EDGE (R506): captures the counter and counts the edge. -/
def execPpsinEdge (s : State) : Out := onClk s fun c => { c with ppscap := c.dtime, ppsseq := c.ppsseq + 1 }

/-- PPSCAP_READ (R506): the capture; a following read of PPSSEQ returns its count. -/
def execPpscapRead (s : State) : Out := .next { s with clk := { s.clk with ppslatched := s.clk.ppsseq }, resp := [0, s.clk.ppscap] }

/-! ### Spines (R479-R481) -/

/-- SPFREQn.MULT. -/
def spMult (c : Clk) (n : Nat) : Nat := tget (if n = 7 then 92 else 76) c.mult n
/-- SPFREQn.CUR. -/
def spCur (c : Clk) (n : Nat) : Nat := tget (if n = 7 then 92 else 76) c.cur n
/-- Values that MULT takes (R479). -/
def multOk (n m : Nat) : Bool := decide (16 ≤ m ∧ m ≤ (if n = 7 then 92 else 91))
/-- SPFREQn as it reads. -/
def spfreq (c : Clk) (n : Nat) : Word := BitVec.ofNat 64 (spCur c n * 256 + spMult c n)

/-- SPINE_STEP (R480): CUR moves one step toward MULT. -/
def execSpineStep (n : Nat) (s : State) : Out :=
  if 8 ≤ n then .next s
  else onClk s fun c =>
    let a := spCur c n
    let b := spMult c n
    { c with cur := tins c.cur n (if a < b then a + 1 else if b < a then a - 1 else a) }

/-- DROOP_STRETCH (R481, R485): counted in the status of the partition that owns the core. -/
def execDroopStretch (core : Nat) (s : State) : Out :=
  match corePart s.hub core with
  | none => .next s
  | some p => onHub s fun h => modPart h p fun p => { p with stretch := if p.stretch = 0xFFFFFFFF then p.stretch else p.stretch + 1 }

/-! ### Injection bucket and leases (R482-R485) -/

/-- BUCKET_REFILL (R482, R485, R507): at a refill tick the level rises by RATE per core up to BURST per core. -/
def execBucketRefill (rid : Nat) (s : State) : Out :=
  match region? s.fab rid with
  | none => .next s
  | some r =>
    if r.owner.isSome ∨ s.clk.dtime.toNat / 16 ≤ r.bfill then .next s
    else
      let p := partOf s.hub r.launch.part
      let c := bucketCap p r
      onFab s fun f => modRegion f rid fun r =>
        { r with bucket := min c (r.bucket + fld p.metcfg.toNat 0 10 * (r.w * r.h)), bcap := c, bfill := s.clk.dtime.toNat / 16 }

/-- LEASE_EXPIRY (R484, R507): at the end time the region's elements return to the launch spine, with no notice. -/
def execLeaseExpiry (rid : Nat) (s : State) : Out :=
  match (region? s.fab rid).bind fun r => r.leaseEnd with
  | none => .next s
  | some e => if e.toNat ≤ s.clk.dtime.toNat then onFab s fun f => endLease f rid else .next s

/-- Order in which the hub revokes: the lowest class first, then the lease granted last (R484). -/
def leaseBefore (a b : Nat × Region) : Bool :=
  let x := lClass a.2.launch
  let y := lClass b.2.launch
  decide (y < x) || (x == y && decide (b.2.leaseNo < a.2.leaseNo))

/-- A plane that a region's own launch holds now: the one it was placed in, or the successor that a swap has bound (R405). -/
def ownPlane (r : Region) : Nat := ((r.ctxs.find? fun c => !c.2.retired && !c.2.drift).map fun c => c.1).getD r.plane

/-- LEASE_REVOKE (R484): the notice at tick N shortens the lease to N + 9831, sets LEASE and posts a report, if it ends later than that. -/
def execLeaseRevoke (s : State) : Out :=
  let all := s.fab.regions.filter fun q => q.2.leaseEnd.isSome
  match all.find? fun q => all.all fun x => x.1 == q.1 || leaseBefore q x with
  | none => .next s
  | some (rid, r) =>
    let e := s.clk.dtime + 9831
    if (r.leaseEnd.getD 0).toNat ≤ e.toNat then .next s
    else
      let f := modRegion s.fab rid fun r => { r with leaseEnd := some e }
      let f := modCc f r.leaseCore fun c => setEv c 4
      let s := { s with fab := f, hub := modPart s.hub r.launch.part fun p => { p with lrevoke := p.lrevoke + 1 } }
      .next (postReport s r.leaseCore (ownPlane r) { cause := 0x12, effect := 4, info0 := e })

/-! ### Crevasse audit (R474, R475) -/

/-- The links of a row of a core whose count does not hold, with what was found. -/
def auditBad (f : Fab) (core row : Nat) : List (Nat × Nat × Nat × Nat) :=
  ((List.range 10).map fun x => 100 * core + 10 * row + x).flatMap fun k =>
    outSels.filterMap fun o =>
      let a := auditLink f k o
      if (neighbour k (selDir o)).isSome ∧ a.1 + a.2 ≠ linkSlots k (selDir o) then some (k, o, a.1, a.2) else none

/-- The region of a core, where it was launched in the deadline class: its links are audited in an idle window alone (R475). -/
def auditWaits (f : Fab) (core : Nat) : Bool := (regionOf f core).any fun q => lClass q.2.launch == 0

/-- AUDPER of a partition in device ticks (R477). -/
def auditEvery (p : Part) : Nat := (if fld p.rascfg.toNat 16 8 = 0 then 16 else fld p.rascfg.toNat 16 8) * 2 ^ 16

/-- The audit interval of a link group has passed since its last visit; of a core that no partition has, the reset interval (R474, R477). -/
def auditDue (s : State) (core row : Nat) : Bool :=
  let p : Part := match corePart s.hub core with
    | some n => partOf s.hub n
    | none => {}
  decide ((auditOf s.fab core row).last.toNat + auditEvery p ≤ s.clk.dtime.toNat)

/-- The visit of a link group begins: its senders are held (R474 step 1). -/
def auditStart (s : State) (core row : Nat) : State :=
  { s with fab := modAudit s.fab core row fun a => { a with last := s.clk.dtime, cyc := some 0, pend := false } }

/-- The audit of a link group takes its next step (R474, R475): a visit that is due begins, or waits, counted in RASSTAT, where a deadline region's group has no idle window open; a
visit whose 40 tile cycles have passed counts the links of the row and ends. -/
def auditStep (s : State) (core row : Nat) : State :=
  let a := auditOf s.fab core row
  if 64 ≤ core ∨ 10 ≤ row then s
  else match a.cyc with
  | some n =>
    if n < 40 then s
    else
      let bad := auditBad s.fab core row
      let hub := match corePart s.hub core with
        | some p => rasAdd s.hub p 1 bad.length
        | none => s.hub
      { s with hub := hub, fab := modAudit (bad.foldl auditFix s.fab) core row fun a => { a with cyc := none } }
  | none =>
    if !a.pend ∧ !auditDue s core row then s
    else if !auditWaits s.fab core ∨ 64 ≤ a.quiet then (auditStart s core row)
    else if a.pend then s
    else
      let hub := match corePart s.hub core with
        | some p => rasAdd s.hub p 2 1
        | none => s.hub
      { s with hub := hub, fab := modAudit s.fab core row fun a => { a with pend := true } }

/-- AUDIT_VISIT (R474, R475). -/
def execAuditVisit (core row : Nat) (s : State) : Out := .next (auditStep s core row)

/-! ### Patrol (R472, R473) -/

/-- Patrol is enabled for a partition (R477). -/
def patrolOn (p : Part) : Bool := bit p.rascfg.toNat 63

/-- The device ticks of a patrol pass (R477). -/
def patrolPass (p : Part) : Nat := (if fld p.rascfg.toNat 48 8 = 0 then 8 else fld p.rascfg.toNat 48 8) * 2 ^ 30

/-- A patrol read of a place of a partition's memory or cores: each is read once in a pass (R473, R477). -/
def patrolOnce (s : State) (part kind addr : Nat) (go : State → State) : State :=
  let p := partOf s.hub part
  let fresh := decide (p.ptick.toNat + patrolPass p ≤ s.clk.dtime.toNat)
  let seen := if fresh then [] else p.pseen
  if !patrolOn p ∨ seen.contains (kind, addr) then s
  else go { s with hub := modPart s.hub part fun p => { p with ptick := if fresh then s.clk.dtime else p.ptick, pseen := (kind, addr) :: seen } }

/-- An error comes into an HBM line: one that the stack's ECC finds, or one that only CHECK finds (R73, R76). -/
def lineError (m : MemSys) (pa found : Nat) : MemSys :=
  if found = 2 then { m with bad := if m.bad.contains (pa / 64) then m.bad else (pa / 64) :: m.bad }
  else if found = 3 then { m with checks := tput zeroCheck m.checks (pa / 64) (lineCheck (lineAt m.hbm (lineBase pa)) (hbmTag m pa) ^^^ 1) }
  else m

/-- A patrol read of an HBM line: found 1 a corrected bit, 2 or 3 an uncorrectable error, which a line may also have had before (R473). -/
def patrolHbm (s : State) (pa found : Nat) : State :=
  let part := tget 0xFF s.mem.owner (groupOf pa)
  if !inHbm pa ∨ 4 ≤ part ∨ s.sec.stage = 4 then s
  else patrolOnce s part 0 (pa / 64) fun s =>
    let s := if found = 1 then { s with hub := rasAdd s.hub part 3 1 } else s
    let m := lineError s.mem pa found
    if m.poison.contains (pa / 64) ∨ !hbmBad m pa then { s with mem := m } else poisonPost { s with mem := (hbmFail m pa).1 }

/-- A patrol read of a scratchpad word: the counter that an uncorrectable word is counted in is not named (log 32). -/
def patrolBank (s : State) (key word found : Nat) : State :=
  match corePart s.hub (keyCore key) with
  | none => s
  | some part =>
    if kindOf key ≠ .memory then s
    else patrolOnce s part 1 (key * 2 ^ 18 + word) fun s =>
    if found = 1 then { s with hub := rasAdd s.hub part 4 1 }
    else if found = 2 ∨ (elemOf s.fab key).mt.bad.contains word then
      { s with free := s.free + 1, hub := rasAdd s.hub part 4 (Config.choice s.free % 2)
               fab := modElem s.fab key fun e => { e with mt := { e.mt with bad := if e.mt.bad.contains word then e.mt.bad else word :: e.mt.bad } } }
    else s

/-- A patrol read of an idle plane: a parity error makes it empty, and a load under way begins again (R190, R472). -/
def patrolPlane (s : State) (key n found : Nat) : State :=
  let p := planeOf (elemOf s.fab key) n
  let st := p.st
  let marked := !p.bad.isEmpty || (elemOf s.fab key).net.badRoutes.contains n
  match corePart s.hub (keyCore key) with
  | none => s
  | some part =>
    if !(st == .loaded || st == .loading || st == .incomplete) then s
    else patrolOnce s part 2 (4 * key + n) fun s =>
      if found ≠ 2 ∧ !marked then s
      else
      let f := modElem s.fab key fun e => modPlane { e with net := { e.net with badRoutes := e.net.badRoutes.filter fun i => i != n } } n fun p =>
          { ({} : Plane) with kwr := p.kwr }
      { s with fab := { f with loads := f.loads.map fun l =>
          if l.plane = n ∧ (loadKeys l).contains key then { l with k := 0, groups := 0, left := 0, named := [], again := false } else l } }

/-- PATROL_READ (R473): kind 0 the HBM line of a device address, 1 the scratchpad word at addr mod 2^18 of element addr / 2^18, 2 plane addr mod
4 of element addr / 4; found 0 nothing new, 1 a single-bit error, 2 an uncorrectable one, 3 one of an HBM line that CHECK alone shows. -/
def execPatrolRead (kind addr found : Nat) (s : State) : Out :=
  .next (match kind with
    | 0 => patrolHbm s addr found
    | 1 => patrolBank s (addr / 2 ^ 18) (addr % 2 ^ 18) found
    | 2 => patrolPlane s (addr / 4) (addr % 4) found
    | _ => s)

end Sys2Proof.Machine
end

