-- ==== Sys2Proof/Machine/Crypto.lean ====
section
/-! DEFINITION. The two algorithms that R498 names: SHA-512 (FIPS 180-4) and pure Ed25519 (RFC 8032). Byte 0 of a digest, key or signature is in
bits [7:0] (log 6). -/

namespace Sys2Proof.Machine

/-! ### SHA-512 -/

/-- Rotation of a 64-bit number to the right. -/
def ror64 (v n : Nat) : Nat := v / 2 ^ n + v % 2 ^ n * 2 ^ (64 - n)

/-- The round constants. -/
def shaK : List Nat :=
  [0x428A2F98D728AE22, 0x7137449123EF65CD, 0xB5C0FBCFEC4D3B2F, 0xE9B5DBA58189DBBC,
   0x3956C25BF348B538, 0x59F111F1B605D019, 0x923F82A4AF194F9B, 0xAB1C5ED5DA6D8118,
   0xD807AA98A3030242, 0x12835B0145706FBE, 0x243185BE4EE4B28C, 0x550C7DC3D5FFB4E2,
   0x72BE5D74F27B896F, 0x80DEB1FE3B1696B1, 0x9BDC06A725C71235, 0xC19BF174CF692694,
   0xE49B69C19EF14AD2, 0xEFBE4786384F25E3, 0x0FC19DC68B8CD5B5, 0x240CA1CC77AC9C65,
   0x2DE92C6F592B0275, 0x4A7484AA6EA6E483, 0x5CB0A9DCBD41FBD4, 0x76F988DA831153B5,
   0x983E5152EE66DFAB, 0xA831C66D2DB43210, 0xB00327C898FB213F, 0xBF597FC7BEEF0EE4,
   0xC6E00BF33DA88FC2, 0xD5A79147930AA725, 0x06CA6351E003826F, 0x142929670A0E6E70,
   0x27B70A8546D22FFC, 0x2E1B21385C26C926, 0x4D2C6DFC5AC42AED, 0x53380D139D95B3DF,
   0x650A73548BAF63DE, 0x766A0ABB3C77B2A8, 0x81C2C92E47EDAEE6, 0x92722C851482353B] ++
  [0xA2BFE8A14CF10364, 0xA81A664BBC423001, 0xC24B8B70D0F89791, 0xC76C51A30654BE30,
   0xD192E819D6EF5218, 0xD69906245565A910, 0xF40E35855771202A, 0x106AA07032BBD1B8,
   0x19A4C116B8D2D0C8, 0x1E376C085141AB53, 0x2748774CDF8EEB99, 0x34B0BCB5E19B48A8,
   0x391C0CB3C5C95A63, 0x4ED8AA4AE3418ACB, 0x5B9CCA4F7763E373, 0x682E6FF3D6B2B8A3,
   0x748F82EE5DEFB2FC, 0x78A5636F43172F60, 0x84C87814A1F0AB72, 0x8CC702081A6439EC,
   0x90BEFFFA23631E28, 0xA4506CEBDE82BDE9, 0xBEF9A3F7B2C67915, 0xC67178F2E372532B,
   0xCA273ECEEA26619C, 0xD186B8C721C0C207, 0xEADA7DD6CDE0EB1E, 0xF57D4F7FEE6ED178,
   0x06F067AA72176FBA, 0x0A637DC5A2C898A6, 0x113F9804BEF90DAE, 0x1B710B35131C471B,
   0x28DB77F523047D84, 0x32CAAB7B40C72493, 0x3C9EBE0A15C9BEBC, 0x431D67C49C100D4C,
   0x4CC5D4BECB3E42B6, 0x597F299CFC657E2A, 0x5FCB6FAB3AD6FAEC, 0x6C44198C4A475817]

/-- The first chaining value. -/
def shaInit : List Nat :=
  [0x6A09E667F3BCC908, 0xBB67AE8584CAA73B, 0x3C6EF372FE94F82B, 0xA54FF53A5F1D36F1,
   0x510E527FADE682D1, 0x9B05688C2B3E6C1F, 0x1F83D9ABFB41BD6B, 0x5BE0CD19137E2179]

/-- The exclusive or of three numbers. -/
def xor3 (a b c : Nat) : Nat := Nat.xor (Nat.xor a b) c

/-- The next word of the message schedule from the last sixteen. -/
def shaNext (w : List Nat) : Nat :=
  let x := w.getD 14 0
  let y := w.getD 1 0
  (xor3 (ror64 x 19) (ror64 x 61) (x / 2 ^ 6) + w.getD 9 0 + xor3 (ror64 y 1) (ror64 y 8) (y / 2 ^ 7) + w.getD 0 0) % 2 ^ 64

/-- One round on the eight working variables with a round constant plus schedule word. -/
def shaRound (v : List Nat) (kw : Nat) : List Nat :=
  match v with
  | [a, b, c, d, e, f, g, h] =>
    let t := h + xor3 (ror64 e 14) (ror64 e 18) (ror64 e 41) + Nat.xor (Nat.land e f) (Nat.land (2 ^ 64 - 1 - e) g) + kw
    let u := xor3 (ror64 a 28) (ror64 a 34) (ror64 a 39) + xor3 (Nat.land a b) (Nat.land a c) (Nat.land b c)
    [(t + u) % 2 ^ 64, a, b, c, (d + t) % 2 ^ 64, e, f, g]
  | _ => v

/-- The rounds of a block: working variables and schedule window. -/
def shaRounds : List Nat → List Nat → List Nat → List Nat
  | [], v, _ => v
  | k :: r, v, w => shaRounds r (shaRound v (k + w.getD 0 0)) (w.drop 1 ++ [shaNext w])

/-- A big-endian number from bytes. -/
def bigEnd (l : List Byte) : Nat := l.foldl (fun n b => n * 256 + b.toNat) 0

/-- The chaining value after n blocks of a message. -/
def shaBlocks : Nat → List Byte → List Nat → List Nat
  | 0, _, h => h
  | n + 1, m, h =>
    let w := (List.range 16).map fun i => bigEnd ((m.drop (8 * i)).take 8)
    let v := shaRounds shaK h w
    shaBlocks n (m.drop 128) (List.zipWith (fun a b => (a + b) % 2 ^ 64) h v)

/-- A message with its padding and its length in bits. -/
def shaPad (m : List Byte) : List Byte :=
  m ++ 0x80#8 :: List.replicate ((239 - m.length % 128) % 128) 0 ++ (natBytes 16 (8 * m.length)).reverse

/-- SHA-512 of a byte string (R498). -/
def sha512 (m : List Byte) : Line :=
  let h := shaBlocks ((m.length + 144) / 128) (shaPad m) shaInit
  BitVec.ofNat 512 (bytesNat (h.flatMap fun x => (natBytes 8 x).reverse))

/-! ### Ed25519 -/

/-- The prime of the field. -/
def edP : Nat := 2 ^ 255 - 19
/-- The order of the base point. -/
def edL : Nat := 2 ^ 252 + 27742317777372353535851937790883648493
/-- The constant d of the curve. -/
def edD : Nat := 0x52036cee2b6ffe738cc740797779e89800700a4d4141d8ab75eb4dca135978a3

/-- The bits of a number below 2^256, highest first. -/
def bits256 (e : Nat) : List Bool := (List.range 256).map fun i => bit e (255 - i)

/-- A power modulo p. -/
def edPow (b e : Nat) : Nat := (bits256 e).foldl (fun a d => if d then a * a % edP * b % edP else a * a % edP) 1

/-- A point in extended coordinates. -/
structure EdPoint where
  x : Nat
  y : Nat
  z : Nat
  t : Nat
  deriving DecidableEq, Repr

/-- The neutral point. -/
def edZero : EdPoint := ⟨0, 1, 1, 0⟩

/-- The base point. -/
def edBase : EdPoint :=
  let x := 0x216936d3cd6e53fec0a4e231fdd6dc5c692cc7609525a7b2c9562d608f25d51a
  let y := 0x6666666666666666666666666666666666666666666666666666666666666658
  ⟨x, y, 1, x * y % edP⟩

/-- The sum of two points. -/
def edAdd (p q : EdPoint) : EdPoint :=
  let a := (p.y + edP - p.x) * (q.y + edP - q.x) % edP
  let b := (p.y + p.x) * (q.y + q.x) % edP
  let c := 2 * p.t * q.t % edP * edD % edP
  let d := 2 * p.z * q.z % edP
  let e := b + edP - a
  let f := d + edP - c
  let g := d + c
  let h := b + a
  ⟨e * f % edP, g * h % edP, f * g % edP, e * h % edP⟩

/-- A multiple of a point. -/
def edMul (n : Nat) (p : EdPoint) : EdPoint :=
  (bits256 n).foldl (fun a d => if d then edAdd (edAdd a a) p else edAdd a a) edZero

/-- Two points are equal. -/
def edEq (p q : EdPoint) : Bool := p.x * q.z % edP == q.x * p.z % edP && p.y * q.z % edP == q.y * p.z % edP

/-- The encoding of a point. -/
def edEncode (p : EdPoint) : BitVec 256 :=
  let i := edPow p.z (edP - 2)
  BitVec.ofNat 256 (p.y * i % edP + p.x * i % edP % 2 * 2 ^ 255)

/-- The point that an encoding names. -/
def edDecode (v : BitVec 256) : Option EdPoint :=
  let y := v.toNat % 2 ^ 255
  let s := v.toNat / 2 ^ 255
  let u := (y * y + edP - 1) % edP
  let w := (edD * (y * y % edP) + 1) % edP
  let w3 := w * w % edP * w % edP
  let c := u * w3 % edP * edPow (u * (w3 * w3 % edP * w % edP) % edP) ((edP - 5) / 8) % edP
  let x := if c * c % edP * w % edP = u then c else c * edPow 2 ((edP - 1) / 4) % edP
  if edP ≤ y ∨ x * x % edP * w % edP ≠ u ∨ (x = 0 ∧ s = 1) then none
  else
    let x := if x % 2 = s then x else edP - x
    some ⟨x, y, 1, x * y % edP⟩

/-- The secret scalar and the prefix that a seed gives. -/
def edSecret (seed : BitVec 256) : Nat × List Byte :=
  let h := sha512 (natBytes 32 seed.toNat)
  (fld h.toNat 3 251 * 8 + 2 ^ 254, natBytes 32 (h.toNat / 2 ^ 256))

/-- The public key of a seed. -/
def ed25519Public (seed : BitVec 256) : BitVec 256 := edEncode (edMul (edSecret seed).1 edBase)

/-- The challenge scalar of a signature. -/
def edChallenge (r key : BitVec 256) (m : List Byte) : Nat := (sha512 (natBytes 32 r.toNat ++ natBytes 32 key.toNat ++ m)).toNat % edL

/-- The signature of a message under a seed. -/
def ed25519Sign (seed : BitVec 256) (m : List Byte) : BitVec 512 :=
  let s := edSecret seed
  let n := (sha512 (s.2 ++ m)).toNat % edL
  let r := edEncode (edMul n edBase)
  BitVec.ofNat 512 (r.toNat + (n + edChallenge r (ed25519Public seed) m * s.1) % edL * 2 ^ 256)

/-- Whether a signature of a message verifies under a key (R498): the group equation with cofactor (log 6). -/
def ed25519Verify (key : BitVec 256) (m : List Byte) (sig : BitVec 512) : Bool :=
  let r := sig.setWidth 256
  let s := sig.toNat / 2 ^ 256
  match edDecode key, edDecode r with
  | some a, some q =>
    decide (s < edL) && edEq (edMul 8 (edMul s edBase)) (edMul 8 (edAdd q (edMul (edChallenge r key m) a)))
  | _, _ => false

end Sys2Proof.Machine
end

