-- ==== Sys2Proof/Machine/Reset.lean ====
section
/-! DEFINITION. Scrubs and the partition table, partition reset, signed firmware, boot and bring-up (01 R39-R43, 23 R492-R505). -/

namespace Sys2Proof.Machine

/-! ### Partition table (R39-R42) -/

/-- The value that a partition's table entry has or will have once its scrub ends (R42). -/
def effCfg (p : Part) : Word := p.scrub.getD p.cfg
/-- EN of a table value. -/
def cfgEn (v : Word) : Bool := bit v.toNat 63
/-- Two table values name a common core or channel group. -/
def cfgMeets (a b : Word) : Bool :=
  Nat.land (fld a.toNat 32 16) (fld b.toNat 32 16) != 0 || (List.range 64).any fun c => inCfg a c && inCfg b c
/-- Enabled partitions other than n whose resources a value takes (R40). -/
def cfgTaken (h : Hub) (n : Nat) (v : Word) : List Nat :=
  if !cfgEn v then [] else [0, 1, 2, 3].filter fun p => p != n && cfgEn (effCfg (partOf h p)) && cfgMeets v (effCfg (partOf h p))

/-- The writable fields of PART_CFG (R40, R14). -/
def cfgFields (v : Word) : Word := v &&& 0x801FFFFF00000FFF

/-- The lowest refusal code of a PART_CFG write; 0 when it is accepted (R41). Under FORCE, overlap and not-in-reset do not arise. -/
def cfgCode (h : Hub) (n : Nat) (v : Word) (force : Bool) : Nat :=
  let x := v.toNat
  if cfgEn v ∧ (7 < fld x 0 3 + fld x 6 3 ∨ 7 < fld x 3 3 + fld x 9 3) then 1
  else if cfgEn v ∧ fld x 32 16 = 0 then 2
  else if cfgTaken h n v ≠ [] ∧ !force then 3
  else if !force ∧ (n :: cfgTaken h n v).any (fun p => (partOf h p).prstState != 0) then 4
  else if 17 ≤ fld x 48 5 then 5
  else 0

/-- Walker caches forget a partition (R71). -/
def walkersForget (m : MemSys) (part : Nat) : MemSys :=
  { m with walkers := m.walkers.map fun w => (w.1, { w.2 with
    leaves := w.2.leaves.filter fun e => e.part != part
    tables := w.2.tables.filter fun e => e.part != part }) }

/-- Cores of a value that another partition had, or none (R42). -/
def newCores (h : Hub) (n : Nat) (v : Word) : List Nat := (List.range 64).filter fun c => inCfg v c && tget 0 h.coreOwner c != n + 1
/-- Channel groups of a value that another partition had, or none (R42). -/
def newGroups (m : MemSys) (n : Nat) (v : Word) : List Nat := (List.range 16).filter fun g => bit v.toNat (32 + g) && tget 0xFF m.owner g != n

/-- Scrubs a core to zero: every plane, element state and storage (R42). -/
def wipeCore (f : Fab) (c : Nat) : Fab :=
  { f with elems := f.elems.filter (fun q => q.1 / 100 != c), ccs := tdel f.ccs c, lastUser := tdel f.lastUser c
           fills := f.fills.filter fun q => q.1 != c
           creds := f.creds.filter fun q => q.2.1 / 100 != c
           twins := f.twins.filter fun q => q.1 / 100 != c }

/-- Scrubs a channel group: data zero, tags zero with a valid CHECK, POISON clear, the new owner (R42). -/
def wipeGroup (m : MemSys) (part g : Nat) : MemSys :=
  let lo := g * groupBytes
  let line (l : Nat) : Bool := decide (lo / 64 ≤ l ∧ l < (lo + groupBytes) / 64)
  { m with hbm := mclear m.hbm lo (lo + groupBytes), tags := m.tags.filter (fun t => !line t.1), checks := m.checks.filter fun t => !line t.1
           poison := m.poison.filter fun l => !line l, bad := m.bad.filter fun l => !line l
           failed := m.failed.map fun t => (t.1, t.2.filter fun l => !line l), snoop := m.snoop.map fun t => (t.1, t.2.filter fun l => !line l)
           owner := tins m.owner g part }

/-- A table value takes effect: a change of VFCNT clears NumVFs and VF Enable (R490). -/
def cfgTake (h : Hub) (n : Nat) (v : Word) : Hub :=
  modPart { h with coreOwner := ((List.range 64).filter fun c => cfgEn v && inCfg v c).foldl (fun t c => tins t c (n + 1)) h.coreOwner } n fun p =>
    let same : Bool := fld v.toNat 48 5 == vfCnt p
    { p with cfg := v, scrub := none, numVfs := if same then p.numVfs else 0, vfen := same && p.vfen }

/-- Writes PART_CFGn: at once, or, where resources must be scrubbed first, with EN taking effect when the scrub ends (R40, R42). -/
def cfgWritePart (s : State) (n : Nat) (v : Word) : State :=
  let s := { s with mem := walkersForget s.mem n }
  if cfgEn v ∧ (newCores s.hub n v ≠ [] ∨ newGroups s.mem n v ≠ []) then
    let hub := cfgTake s.hub n (v &&& 0x7FFFFFFFFFFFFFFF)
    { s with hub := modPart hub n fun p => { p with scrub := some v } }
  else { s with hub := cfgTake s.hub n v }

/-- SCRUB_COMPLETE (R42): the resources that joined are zero, and the new EN takes effect. In the safe state the HBM controllers and the fabric are held in
reset, and no scrub goes on (R505). -/
def execScrubComplete (part : Nat) (s : State) : Out :=
  match (partOf s.hub part).scrub with
  | none => .next s
  | some v =>
    if s.sec.stage = 4 then .next s else
    let f := (newCores s.hub part v).foldl wipeCore s.fab
    let m := (newGroups s.mem part v).foldl (fun m g => wipeGroup m part g) s.mem
    .next { s with fab := f, mem := m, hub := cfgTake s.hub part v }

/-! ### Partition reset (R43, R494) -/

/-- Registers of the partition block at their reset values; PRST, the mailbox and what lies outside the block stay (R494 step 5). -/
def partFresh (p : Part) (cause : Nat) (abort : Bool) : Part :=
  { cfg := p.cfg, scrub := p.scrub
    prstCause := BitVec.ofNat 8 (if p.prstState = 3 then 4 else cause), prstState := 0
    mbLen := p.mbLen, mbOp := p.mbOp, mbRlen := p.mbRlen, mbuf := p.mbuf
    mbResult := if p.mbBusy && abort then 7 else p.mbResult, mbBusy := p.mbBusy && !abort
    numVfs := p.numVfs, vfen := p.vfen, hdm := p.hdm, mreg := tdel p.mreg 2, doe := p.doe, spdm := p.spdm }

/-- Entry into reset (R494): regions, saved launches, walks, loads and owed replies of the partition are gone, its cores are scrubbed, its registers
have their reset values; what its retiring planes held of kwr is dropped (R303). Nothing happens to a partition already in reset. abort says whether a
mailbox request in progress ends. -/
def partReset (s : State) (part cause : Nat) (abort : Bool) : State :=
  let p := partOf s.hub part
  if p.prstState = 0 then s
  else
    let cores := ((List.range 64).filter fun c => inCfg p.cfg c) ++ p.saved.flatMap fun x => (List.range (x.2.region.w * x.2.region.h)).map fun i => x.2.base + i
    let held := s.fab.elems.filterMap fun q => if kindOf q.1 == .compute && inCfg p.cfg (keyCore q.1) then some q.1 else none
    let s := held.foldl (fun s k => [0, 1, 2, 3].foldl (fun s n => kwrDrop s k n) s) s
    let f := cores.foldl wipeCore s.fab
    let f := { f with regions := f.regions.filter fun q => q.2.launch.part != part
                      loads := f.loads.filter fun l => l.part != part }
    let m := walkersForget s.mem part
    let m := { m with walkers := m.walkers.map fun w => (w.1, { w.2 with queue := w.2.queue.filter fun x => x.part != part }) }
    { s with fab := f, mem := m, hub := modPart s.hub part fun p => partFresh p cause abort }

/-- PRST_REQ (R493, R494): REQ written in STATE 1, 2 or 3. -/
def execPrstReq (part : Nat) (s : State) : Out := .next (partReset s part 1 true)

/-- WATCHDOG_EXPIRY (R494): the watchdog of a management processor puts its partition into reset. -/
def execWatchdogExpiry (part : Nat) (s : State) : Out := .next (partReset s part 2 true)

/-! ### Signed firmware (R498-R500) -/

/-- Contents of a flash slot: 0 hub copy A, 1 hub copy B, 2 + p the slot of partition p (R500, log 10). -/
def flashOf (x : Sec) (slot : Nat) : List Byte := tget (Config.flash slot) x.flash slot

/-- n bytes of an image from an offset, as a little-endian number. -/
def imgNum (l : List Byte) (off n : Nat) : Nat := bytesNat ((l.drop off).take n)

/-- SVN of an image (R498). -/
def imgSvn (l : List Byte) : BitVec 32 := BitVec.ofNat 32 (imgNum l 8 4)
/-- VERSION of an image. -/
def imgVer (l : List Byte) : Word := BitVec.ofNat 64 (imgNum l 16 8)
/-- DIGEST of an image. -/
def imgDigest (l : List Byte) : Line := BitVec.ofNat 512 (imgNum l 64 64)
/-- KEYIDX of an image. -/
def imgKey (l : List Byte) : Nat := imgNum l 6 2
/-- LENGTH of an image. -/
def imgLen (l : List Byte) : Nat := imgNum l 12 4

/-- The SVN floor of a KIND (R499). -/
def svnFloor (x : Sec) (kind : Nat) : BitVec 32 := tget (Config.fuseFloor kind) x.floors kind

/-- The key that verifies an image: a Garlosy key travels after the header and matches its fused digest, the owner key stands in the partition's
slot; none where it is absent or revoked (R499 step 2). -/
def imgKeyOf (x : Sec) (part : Option Nat) (l : List Byte) : Option (BitVec 256) :=
  let k := imgKey l
  if k < 4 then
    let key := (l.drop 256).take 32
    if x.revoked.getLsbD k ∨ Config.fuseRevoked.getLsbD k ∨ sha512 key ≠ Config.fuseDigest k then none else some (BitVec.ofNat 256 (bytesNat key))
  else if k = 4 then part.bind fun p => (x.ownerKeys.find? fun q => q.1 == p).map fun q => q.2
  else none

/-- VCODE of an image for a KIND; the partition of its slot for KIND 2 (R499): the number of the first failed step, 0 when it is accepted. -/
def vcode (x : Sec) (kind : Nat) (part : Option Nat) (l : List Byte) : Nat :=
  if imgNum l 0 4 ≠ 0x4D464C47 ∨ imgNum l 4 2 ≠ kind ∨ imgNum l 24 40 ≠ 0 ∨ imgNum l 192 64 ≠ 0 then 1
  else match imgKeyOf x part l with
  | none => 2
  | some key =>
    if imgLen l % 64 ≠ 0 ∨ 0xFFFF00 < imgLen l ∨ l.length < 256 + imgLen l then 3
    else if sha512 (l.take 64 ++ (l.drop 256).take (imgLen l)) ≠ imgDigest l then 4
    else if !ed25519Verify key (natBytes 64 (imgDigest l).toNat) (BitVec.ofNat 512 (imgNum l 128 64)) then 5
    else if (imgSvn l).toNat < (svnFloor x kind).toNat then 6
    else 0

/-- The running hub image; nothing where none runs. -/
def hubImage (x : Sec) : List Byte := match x.hubCopy with
  | some c => flashOf x c
  | none => []

/-- PRST_REL (R495, R501): accepted in STATE 0 with EN set and no scrub left; the partition boots, and MREG3 takes the digest of its table
entry. -/
def execPrstRel (part : Nat) (s : State) : Out :=
  let p := partOf s.hub part
  if p.prstState ≠ 0 ∨ !partEn p ∨ p.scrub.isSome ∨ s.sec.stage = 4 then .next s
  else onHub s fun h => modPart h part fun p =>
    { p with prstState := 1, mreg := tins (tdel p.mreg 2) 3 (sha512 (natBytes 8 p.cfg.toNat)) }

/-- PARTITION_BOOT_DONE (R495, R500): the slot's image is verified again; the partition runs, or its boot has failed. -/
def execPartitionBootDone (part : Nat) (s : State) : Out :=
  let p := partOf s.hub part
  let l := flashOf s.sec (2 + part)
  if p.prstState ≠ 1 then .next s
  else onHub s fun h => modPart h part fun p =>
    if vcode s.sec 2 (some part) l = 0 then
      { p with prstState := 2, mreg := tins p.mreg 2 (imgDigest l), bootSvn := imgSvn l, bootVer := imgVer l }
    else { p with prstState := 3 }

/-! ### Bring-up (R504, R505) -/

/-- The device with its supply just on: everything at its reset value but fuses, flash, host memory and what peers hold. -/
def coldState (s : State) (on : Bool) : State :=
  { s with agenda := [], clk := {}, hub := {}, fab := {}, mem := { host := s.mem.host, peer := s.mem.peer }
           sec := { supply := on, revoked := s.sec.revoked, floors := s.sec.floors, flash := s.sec.flash, powerUps := s.sec.powerUps } }

/-- The hub copy that the boot ROM runs (R500). -/
def bootCopy (x : Sec) : Option Nat :=
  if vcode x 1 none (flashOf x 0) = 0 then some 0 else if vcode x 1 none (flashOf x 1) = 0 then some 1 else none

/-- The number of a unit's class (R504). -/
def unitClass : UnitClass → Nat
  | .computeTile => 1
  | .memoryTile => 2
  | .agNode => 3
  | .controlCore => 4
  | .switch => 5
  | .hbmChannel => 6
  | .dieLink => 7
  | .hubBlock => 8

/-- How many units of a class are numbered (R1, R5, R22, R504): cores, global channels, die links; hub blocks have any number of a byte. -/
def unitCount : UnitClass → Nat
  | .computeTile | .memoryTile | .agNode | .controlCore | .switch => 64
  | .hbmChannel => 128
  | .dieLink => 4
  | .hubBlock => 256

/-- A word of the failing-unit list (R504). -/
def failWord (u : FailUnit) : Word :=
  BitVec.ofNat 64 (unitClass u.cls * 2 ^ 56 + u.number % unitCount u.cls * 2 ^ 48 + u.elem % 100 * 2 ^ 40 + u.bank.toNat * 2 ^ 32 + u.detail.toNat)

/-- Changes the measurement registers of every partition. -/
def modMregs (s : State) (i : Nat) (v : Line) : State :=
  { s with hub := { s.hub with parts := [0, 1, 2, 3].map fun p => (p, { partOf s.hub p with mreg := tins (partOf s.hub p).mreg i v }) } }

/-- The next step of bring-up (R504): the boot ROM has run and checks the hub image, the image has passed and self-test runs, self-test ends; a failure
leaves the safe state. -/
def bringUp (s : State) : State :=
  if s.sec.stage = 0 then modMregs { s with sec := { s.sec with stage := 1 } } 0 Config.bootRomDigest
  else if s.sec.stage = 1 then match bootCopy s.sec with
    | none => { s with sec := { s.sec with stage := 4, code := 1 } }
    | some c => modMregs { s with sec := { s.sec with stage := 2, hubCopy := some c } } 1 (imgDigest (flashOf s.sec c))
  else if s.sec.stage = 2 then
    let list := Config.selfTest s.sec.powerUps
    let sec := { s.sec with powerUps := s.sec.powerUps + 1 }
    { s with sec := if list = [] then { sec with stage := 3, ready := true }
                    else { sec with stage := 4, code := 2, nfail := list.length, failing := list.map failWord } }
  else s

/-- POWER_UP (R504): the supply comes on and the boot ROM starts; with the supply on, bring-up takes its next step, until the device is ready or in the
safe state. -/
def execPowerUp (s : State) : Out := if s.sec.supply then .next (bringUp s) else .next (coldState s true)

/-- Restarts the device from its boot ROM (R497 DEVRESET, R504): every partition's last reset is a device reset. -/
def deviceReset (s : State) : State :=
  let t := coldState s true
  { t with hub := { t.hub with parts := [0, 1, 2, 3].map fun p => (p, { ({} : Part) with prstCause := 5 }) } }

/-- POWER_CLOCK_FAULT (R505): the safe state with CODE 3, at any stage: the fabric and every partition are held in reset. -/
def execPowerClockFault (s : State) : Out :=
  if s.sec.stage = 4 then .next s
  else
    let s := [0, 1, 2, 3].foldl (fun s p => partReset s p (partOf s.hub p).prstCause.toNat true) s
    .next { s with agenda := [], fab := {}, sec := { s.sec with stage := 4, code := 3, ready := false } }

/-- POWER_DOWN (R505): the supply is gone and with it all device state. -/
def execPowerDown (s : State) : Out := .next (coldState s false)

end Sys2Proof.Machine
end

