-- ==== Sys2Proof/Machine/Mailbox.lean ====
section
/-! DEFINITION. The mailbox commands (23 R496-R502). -/

namespace Sys2Proof.Machine

/-- BOOTSTAT (R504). -/
def bootstat (x : Sec) : Word := BitVec.ofNat 64 (x.nfail * 2 ^ 32 + x.stage.toNat * 2 ^ 16 + x.code.toNat * 2 ^ 8 + b2n x.ready)

/-- PART_STAT (R41). -/
def partStat (h : Hub) : Word := BitVec.ofNat 64 (h.partCode * 16 + h.partOf)

/-- n bytes of a mailbox request from an offset. -/
def mbReq (p : Part) (off n : Nat) : Nat := mgetN p.mbuf off n

/-- A request ends (R496): the reply overwrites the buffer from offset 0. -/
def mbDone (s : State) (pf : Nat) (result : Nat) (reply : List Byte) : State :=
  { s with hub := modPart s.hub pf fun p =>
      { p with mbBusy := false, mbResult := BitVec.ofNat 8 result, mbRlen := BitVec.ofNat 16 reply.length
               mbuf := mputN p.mbuf 0 reply.length (bytesNat reply) } }

/-- Commands of the mailbox: OP, whether only PF 0 may send it, bytes of its request, whether the safe state accepts it, and whether it needs
READY (R497, R505). -/
structure MbCmd where
  op : Nat
  pf0 : Bool
  len : Nat
  safe : Bool
  ready : Bool
  deriving DecidableEq, Repr

/-- GETINFO. -/
def mbGetinfo : MbCmd := ⟨0x01, false, 0, true, false⟩
/-- GETFAIL. -/
def mbGetfail : MbCmd := ⟨0x02, true, 0, true, false⟩
/-- PARTSET. -/
def mbPartset : MbCmd := ⟨0x10, true, 24, false, true⟩
/-- SPINESET. -/
def mbSpineset : MbCmd := ⟨0x11, true, 16, false, true⟩
/-- FWSTAGE; its KIND says who may send it. -/
def mbFwstage : MbCmd := ⟨0x20, false, 24, true, false⟩
/-- SVNLOCK. -/
def mbSvnlock : MbCmd := ⟨0x21, true, 16, false, false⟩
/-- OWNERKEY. -/
def mbOwnerkey : MbCmd := ⟨0x22, true, 40, false, false⟩
/-- ATTEST. -/
def mbAttest : MbCmd := ⟨0x30, false, 32, true, false⟩
/-- DEVRESET. -/
def mbDevreset : MbCmd := ⟨0x40, true, 0, true, false⟩

/-- The commands. -/
def mbCmds : List MbCmd := [mbGetinfo, mbGetfail, mbPartset, mbSpineset, mbFwstage, mbSvnlock, mbOwnerkey, mbAttest, mbDevreset]

/-- RESULT of a request's checks before its effect: 6 in the safe state, 2 from the wrong function, 4 before READY, 3 for a short request or nonzero
bytes beyond its layout; 0 when it may take effect (R497, R505). -/
def mbCheck (s : State) (pf : Nat) (c : MbCmd) : Nat :=
  let p := partOf s.hub pf
  let n := p.mbLen.toNat
  if s.sec.stage = 4 ∧ !c.safe then 6
  else if c.pf0 ∧ pf ≠ 0 then 2
  else if c.ready ∧ !s.sec.ready then 4
  else if n < c.len ∨ mbReq p c.len (n - c.len) ≠ 0 then 3
  else 0

/-- Runs the request in progress of a mailbox when its OP is the command's. -/
def mbRun (s : State) (pf : Nat) (c : MbCmd) (body : Part → State) : Out :=
  let p := partOf s.hub pf
  if !p.mbBusy ∨ p.mbOp.toNat ≠ c.op then .next s
  else match mbCheck s pf c with
    | 0 => .next (body p)
    | r => .next (mbDone s pf r [])

/-- GETINFO (R497): 64 bytes whose layout the spec leaves open (log 7). -/
def execGetinfo (pf : Nat) (s : State) : Out :=
  mbRun s pf mbGetinfo fun p =>
    let h := hubImage s.sec
    let items : List Word := [Config.partCode, imgVer h, (imgSvn h).setWidth 64, p.bootVer, p.bootSvn.setWidth 64, bootstat s.sec]
    mbDone s pf 0 (natBytes 64 (Config.infoReply items).toNat)

/-- GETFAIL (R497): the failing-unit list. -/
def execGetfail (pf : Nat) (s : State) : Out :=
  mbRun s pf mbGetfail fun _ => mbDone s pf 0 (s.sec.failing.flatMap fun w => natBytes 8 w.toNat)

/-- FORCE 1 of a PARTSET (R40): every affected partition is put into reset, and those whose resources are taken are disabled. -/
def forceParts (s : State) (n : Nat) (v : Word) : State :=
  let l := cfgTaken s.hub n v
  let s := (n :: l).foldl (fun s p => partReset s p 3 (p != 0)) s
  l.foldl (fun s p => { s with mem := walkersForget s.mem p
                               hub := modPart s.hub p fun q => { q with cfg := q.cfg &&& 0x7FFFFFFFFFFFFFFF, scrub := none } }) s

/-- PARTSET (R40-R42, R497). -/
def execPartset (pf : Nat) (s : State) : Out :=
  mbRun s pf mbPartset fun p =>
    let n := mbReq p 0 8
    let raw : Word := BitVec.ofNat 64 (mbReq p 8 8)
    let v := cfgFields raw
    let force := mbReq p 16 8
    if 4 ≤ n ∨ 2 ≤ force then mbDone s pf 3 []
    else
      let code := cfgCode s.hub n v (force = 1)
      let s := { s with hub := { s.hub with partCode := code, partOf := n } }
      let stat := natBytes 8 (partStat s.hub).toNat
      if code ≠ 0 then mbDone s pf 5 stat
      else
        let s := if force = 1 then forceParts s n v else s
        mbDone (cfgWritePart s n v) pf 0 stat

/-- SPINESET (R479, R497): a MULT outside its range is ignored. -/
def execSpineset (pf : Nat) (s : State) : Out :=
  mbRun s pf mbSpineset fun p =>
    let n := mbReq p 0 8
    let m := mbReq p 8 8
    if 8 ≤ n then mbDone s pf 3 []
    else
      let s := if multOk n m then { s with clk := { s.clk with mult := tins s.clk.mult n m } } else s
      mbDone s pf 0 (natBytes 8 (spfreq s.clk n).toNat)

/-- The flash slot that a stage of KIND writes (R500): the hub copy that is not running, or the partition's slot. -/
def stageSlot (x : Sec) (pf kind : Nat) : Nat := if kind = 1 then (if x.hubCopy = some 0 then 1 else 0) else 2 + pf

/-- FWSTAGE (R499, R500): reads the image from host memory, verifies it and stores it; the reply is VCODE. -/
def execFwstage (pf : Nat) (s : State) : Out :=
  mbRun s pf mbFwstage fun p =>
    let kind := mbReq p 0 8
    let hpa := mbReq p 8 8
    let len := mbReq p 16 8
    if s.sec.stage = 4 ∧ kind ≠ 1 then mbDone s pf 6 []
    else if kind ≠ 1 ∧ kind ≠ 2 then mbDone s pf 3 []
    else if kind = 1 ∧ pf ≠ 0 then mbDone s pf 2 []
    else
      let img := natBytes (min len (256 + 0xFFFF00)) (mgetN s.mem.host hpa (min len (256 + 0xFFFF00)))
      let code := vcode s.sec kind (if kind = 2 then some pf else none) img
      let sec := if code = 0 then { s.sec with flash := tins s.sec.flash (stageSlot s.sec pf kind) img } else s.sec
      mbDone { s with sec := sec } pf (if code = 0 then 0 else 5) (natBytes 8 code)

/-- SVNLOCK (R497): the fused floor of a KIND rises to the SVN of the running image; the reply is the new floor. -/
def execSvnlock (pf : Nat) (s : State) : Out :=
  mbRun s pf mbSvnlock fun p =>
    let kind := mbReq p 0 8
    let n := mbReq p 8 8
    if (kind ≠ 1 ∧ kind ≠ 2) ∨ 4 ≤ n then mbDone s pf 3 []
    else if kind = 2 ∧ (partOf s.hub n).prstState ≠ 2 then mbDone s pf 4 []
    else
      let svn := if kind = 1 then imgSvn (hubImage s.sec) else (partOf s.hub n).bootSvn
      let old := svnFloor s.sec kind
      let new := if old.toNat < svn.toNat then svn else old
      mbDone { s with sec := { s.sec with floors := tins s.sec.floors kind new } } pf 0 (natBytes 8 new.toNat)

/-- OWNERKEY (R497): sets a partition's owner-key slot while the partition is in reset. -/
def execOwnerkey (pf : Nat) (s : State) : Out :=
  mbRun s pf mbOwnerkey fun p =>
    let n := mbReq p 0 8
    if 4 ≤ n then mbDone s pf 3 []
    else if (partOf s.hub n).prstState ≠ 0 then mbDone s pf 4 []
    else mbDone { s with sec := { s.sec with ownerKeys := tins s.sec.ownerKeys n (BitVec.ofNat 256 (mbReq p 8 32)) } } pf 0 []

/-- The measurement registers of a partition as they are reported; MREG2 and MREG3 read zero in the safe state (R501, R502). -/
def mregOf (s : State) (pf i : Nat) : Line := if s.sec.stage = 4 ∧ 2 ≤ i then 0 else tget 0 (partOf s.hub pf).mreg i

/-- The secret of the next DICE layer: the digest of the layer's secret and the measurement that it takes (R501; log 6). -/
def diceLayer (secret m : Line) : Line := sha512 (natBytes 64 secret.toNat ++ natBytes 64 m.toNat)

/-- The seed of a partition's alias key pair: in layers from the device secret and MREG0 to MREG3 in turn (R501; log 6). -/
def aliasOf (s : State) (pf : Nat) : BitVec 256 :=
  Config.aliasSeed ([0, 1, 2, 3].foldl (fun c i => diceLayer c (mregOf s pf i)) Config.deviceSecret)

/-- The seed of the device identity key pair, whose private half never leaves the hub (R501). -/
def identityKey : BitVec 256 := Config.identitySeed Config.deviceSecret

/-- The attestation report (R502): 416 bytes. -/
def attestReport (s : State) (pf : Nat) (nonce : Nat) : List Byte :=
  let part := if s.sec.stage = 4 then 0 else pf
  let psvn := if s.sec.stage = 4 then 0 else (partOf s.hub pf).bootSvn.toNat
  let body := natBytes 8 (1 + part * 256) ++ natBytes 8 s.clk.dtime.toNat ++ natBytes 32 nonce ++
    [0, 1, 2, 3].flatMap (fun i => natBytes 64 (mregOf s pf i).toNat) ++ natBytes 8 ((imgSvn (hubImage s.sec)).toNat + psvn * 2 ^ 32) ++ natBytes 8 0
  let key := aliasOf s pf
  let sig := ed25519Sign key (natBytes 64 (sha512 body).toNat)
  body ++ natBytes 64 sig.toNat ++ natBytes 32 (ed25519Public key).toNat

/-- ATTEST (R502). -/
def execAttest (pf : Nat) (s : State) : Out :=
  mbRun s pf mbAttest fun p => mbDone s pf 0 (attestReport s pf (mbReq p 0 32))

/-- DEVRESET (R497, R504): no reply. -/
def execDevreset (pf : Nat) (s : State) : Out := mbRun s pf mbDevreset fun _ => deviceReset s

/-- MAILBOX_UNKNOWN_OP (R496): RESULT 1; in the safe state every command but the five ends with RESULT 6 (R505). -/
def execMailboxUnknownOp (pf : Nat) (s : State) : Out :=
  let p := partOf s.hub pf
  if !p.mbBusy ∨ mbCmds.any fun c => c.op == p.mbOp.toNat then .next s
  else .next (mbDone s pf (if s.sec.stage = 4 then 6 else 1) [])

end Sys2Proof.Machine
end

