-- ==== Sys2Proof/Machine/Registers.lean ====
section
/-! DEFINITION. The MMIO registers: where they lie, who reaches them, what they read and what a write does (01 R21-R28, R36-R38, R43; 02 R53, R69; 09
R273; 14 R383-R387; 15 R421-R430; 16 R439-R440; 21 R477; 22 R479, R485; 23 R490-R496, R506). -/

namespace Sys2Proof.Machine

/-! ### Places and requesters (R25-R28, R43, R490, R505) -/

/-- Where an MMIO offset lies (R25). -/
inductive MmioPlace where
  | hub (o : Nat)
  | block (p o : Nat)
  | window (n o : Nat)
  | none
  deriving DecidableEq, Repr

/-- The place of an MMIO offset. -/
def mmioPlace (off : Nat) : MmioPlace :=
  if off < 0x1000000 then .hub off
  else if 0x100000000 ≤ off ∧ off < 0x500000000 then .block (off / 2 ^ 32 - 1) (off % 2 ^ 32)
  else if 0x1000000000 ≤ off ∧ off < 0x1000000000 + 64 * 0x20000000 then .window ((off - 0x1000000000) / 0x20000000) ((off - 0x1000000000) % 0x20000000)
  else .none

/-- What a requester meets at a place: the registers, all ones with writes dropped, a completer abort, PROT or MISALIGN; or nothing, since the requester is
itself held in reset and makes no request. -/
inductive Reach where
  | ok | ones | abort | prot | misalign | absent
  deriving DecidableEq, Repr

/-- The first byte of a function page in its partition block (R26). -/
def pageBase (f : Nat) : Nat := if f = 0 then 0x10000 else 0x100000 + f * 0x10000

/-- The function page that an offset of a partition block lies in, with the offset in it (R26). -/
def pageOf (o : Nat) : Option (Nat × Nat) :=
  if 0x10000 ≤ o ∧ o < 0x20000 then some (0, o - 0x10000)
  else if 0x110000 ≤ o ∧ o < 0x100000 + 17 * 0x10000 then some ((o - 0x100000) / 0x10000, o % 0x10000)
  else none

/-- The outcome for a requester (R21, R26-R28, R43, R45, R490, R505). Every agent may read the device-time registers (R506); that a device agent or a
management processor may read the rest of the hub common block too is the model's choice (log 40). A partition in reset, and the safe state, stop the
partition's management processor and agents (R43, R505); a core window then answers the host as R43 says of the partition's block (log 79). The
model's choice (log 79): while a partition is in reset, a function page beyond VFCNT answers all ones, as R43 says of the block, and not zero, as R27
says of the page. -/
def reach (s : State) (req : Requester) (w : MmioPlace) : Reach :=
  match req with
  | .host pf vf =>
    if s.sec.stage = 4 ∧ pf ≠ 0 then .ones
    else match w with
    | .hub _ => if pf = 0 ∧ vf = 0 then .ok else .abort
    | .block p o =>
      if p ≠ pf ∨ (vf ≠ 0 ∧ !(pageOf o).any fun q => q.1 == vf) then .abort
      else if 0x10000 ≤ o ∧ (partOf s.hub p).prstState = 0 then .ones
      else .ok
    | .window n _ => if vf = 0 ∧ corePart s.hub n = some pf then (if s.sec.stage = 4 then .ones else .ok) else .abort
    | .none => .abort
  | .agent part => if stopped part then .absent else dev part
  | .mgmt part => if stopped part then .absent else dev part
where
  /-- Nothing of a partition runs. -/
  stopped (part : Nat) : Bool := s.sec.stage == 4 || (partOf s.hub part).prstState == 0
  /-- The outcome for an agent of a partition. -/
  dev (part : Nat) : Reach :=
    match w with
    | .hub _ => .ok
    | .block p _ => if p = part then .ok else .prot
    | .window n _ => if corePart s.hub n = some part then .ok else .prot
    | .none => .prot

/-- A refused access as its requester sees it: status 1 a completer abort, else the fault's code. -/
def refuse (s : State) (req : Requester) (cause : Nat) : State :=
  match req with
  | .host _ _ => { s with resp := [1] }
  | _ => { s with resp := [BitVec.ofNat 64 cause] }

/-! ### Reads (R25, R27, R53, R69, R383-R387, R421-R430, R439, R477, R485) -/

/-- The register at an offset of function page f of partition p; zero where none stands (R25, R27). -/
def readPage (s : State) (p f o : Nat) : Word :=
  let t := partOf s.hub p
  if vfCnt t < f then 0
  else if o = 0 then tget 0 t.ptroot f
  else if 0x200 ≤ o ∧ o < 0x240 then
    BitVec.ofNat 64 ((tget 0 t.lqhead (8 * f + (o - 0x200) / 8)).toNat * 2 ^ 32 + (tget 0 t.lqtail (8 * f + (o - 0x200) / 8)).toNat)
  else if 0x300 ≤ o ∧ o < 0x340 then tget 0 t.lqerr (8 * f + (o - 0x300) / 8)
  else if 0x400 ≤ o ∧ o < 0x600 then tget 0 t.events (64 * f + (o - 0x400) / 8)
  else if o = 0x600 then tget 0 t.frcfg f
  else if o = 0x608 then BitVec.ofNat 64 ((tget 0 t.frtail f).toNat * 2 ^ 32 + (tget 0 t.frhead f).toNat)
  else if o = 0x610 then (tget 0 t.frdrop f).setWidth 64
  else if o = 0x708 then BitVec.ofNat 64 (tget 0 t.rcode f * 16 + b2n (tget false t.rbusy f))
  else if f ≠ 0 then 0
  else if o = 0x108 then BitVec.ofNat 64 (b2n t.xerr * 2 + b2n t.xbusy)
  else if o = 0x800 then t.savecfg
  else if o = 0x900 then t.plimg
  else if o = 0x910 then BitVec.ofNat 64 (t.plnfr * 2 ^ 32 + t.plcode * 16 + b2n t.plbusy)
  else if o = 0xA00 then t.rascfg
  else if o = 0xA08 then
    BitVec.ofNat 64 (tget 0 t.ras 4 * 2 ^ 48 + tget 0 t.ras 3 * 2 ^ 32 + tget 0 t.ras 2 * 2 ^ 16 + min (tget 0 t.ras 1) 255 * 2 ^ 8 + min (tget 0 t.ras 0) 255)
  else if o = 0xB00 then t.metcfg
  else if o = 0xB08 then BitVec.ofNat 64 (t.stretch.toNat * 2 ^ 32 + t.leases.toNat * 2 ^ 16 + t.lrevoke.toNat)
  else if o = 0xB10 then t.energy
  else if 0x1000 ≤ o ∧ o < 0x1440 then tget 0 t.lqcfg ((o - 0x1000) / 8)
  else 0

/-- The reset and mailbox page of a partition block (R493, R496). -/
def readBoot (s : State) (p o : Nat) : Word :=
  let t := partOf s.hub p
  if o = 0 then BitVec.ofNat 64 (t.prstCause.toNat * 2 ^ 12 + t.prstState.toNat * 2 ^ 8)
  else if o = 0x100 then BitVec.ofNat 64 (t.mbLen.toNat * 2 ^ 32 + t.mbOp.toNat * 2 ^ 8)
  else if o = 0x108 then BitVec.ofNat 64 (t.mbRlen.toNat * 2 ^ 32 + t.mbResult.toNat * 2 ^ 8 + b2n t.mbBusy)
  else if 0x1000 ≤ o ∧ o < 0x2000 then BitVec.ofNat 64 (mgetN t.mbuf (o - 0x1000) 8)
  else 0

/-- The hub common block (R40, R41, R479, R485, R504, R506). While a scrub is pending PART_CFG reads the value written, EN included, although EN takes
effect only at its end: the model's choice (log 61). -/
def readHub (s : State) (o : Nat) : Word :=
  if o = 0x100 then bootstat s.sec
  else if o = 0x200 then s.clk.dtime
  else if o = 0x208 then s.clk.trim.setWidth 64
  else if o = 0x210 then s.clk.offset.setWidth 64
  else if o = 0x220 then s.clk.ppscap
  else if o = 0x228 then s.clk.ppslatched.setWidth 64
  else if 0x1000 ≤ o ∧ o < 0x1020 then effCfg (partOf s.hub ((o - 0x1000) / 8))
  else if o = 0x1020 then partStat s.hub
  else if 0x2000 ≤ o ∧ o < 0x2040 then spfreq s.clk ((o - 0x2000) / 8)
  else if o = 0x2100 then s.hub.overhead
  else 0

/-- The CSR at an offset of a window's CSR block: CSR n stands at 8 n (R264). -/
def windowCsr (o : Nat) : Nat := (o - 0x10000000) / 8

/-- A core window: configuration space, then the CSR block, of which any CSR can be read at any time (R28, R273). A frame that cannot be read gives
all ones (R76; log 29). -/
def readWindow (s : State) (n o : Nat) : Word :=
  if o < 0x10000000 then
    if 100 ≤ fld o 21 7 then 0
    else if frameBad s.fab (100 * n + fld o 21 7) (fld o 18 3) (fld o 5 13) then BitVec.allOnes 64
    else BitVec.ofNat 64 (fld (cfgRead s.fab (100 * n + fld o 21 7) (fld o 18 3) (fld o 5 13)).toNat (8 * (o % 32)) 64)
  else if o < 0x10010000 then csrGet s n (windowCsr o) (ccOf s.fab n).state.toNat
  else 0

/-- The 64-bit register that a place, at a multiple of 8, names (R25). -/
def regAt (s : State) (w : MmioPlace) : Word :=
  match w with
  | .hub o => readHub s o
  | .block p o => match pageOf o with
    | some (f, x) => readPage s p f x
    | none => if o < 0x10000 then readBoot s p o else 0
  | .window n o => readWindow s n o
  | .none => 0

/-- What a requester's access of a size to an MMIO offset meets (R25): 4 or 8 bytes, aligned; any other is a completer abort, MISALIGN for a device
agent. -/
def access (s : State) (req : Requester) (off size : Nat) : Reach :=
  if (size ≠ 4 ∧ size ≠ 8) ∨ off % size ≠ 0 then (match req with
    | .host _ _ => .abort
    | _ => if reach s req (mmioPlace off) = .absent then .absent else .misalign)
  else reach s req (mmioPlace off)

/-- A read of MMIO (R25, R43): the bytes of the register, all ones, or nothing. -/
def readReg (s : State) (req : Requester) (off size : Nat) : Reach × Word :=
  match access s req off size with
  | .ok => (.ok, BitVec.ofNat 64 (fld (regAt s (mmioPlace (off / 8 * 8))).toNat (8 * (off % 8)) (8 * size)))
  | .ones => (.ones, BitVec.ofNat 64 (2 ^ (8 * size) - 1))
  | r => (r, 0)

/-! ### Doorbells (R385-R387) -/

/-- The partition runs no registers of a page: in reset, or beyond VFCNT (R27, R43). -/
def pageDead (s : State) (part fn : Nat) : Bool := (partOf s.hub part).prstState == 0 || decide (vfCnt (partOf s.hub part) < fn)

/-- LQDB_WRITE (R385, R177): a TAIL more than the ring ahead of HEAD is dropped. -/
def execLqdbWrite (part fn q : Nat) (tail : BitVec 32) (s : State) : Out :=
  let p := partOf s.hub part
  let i := 8 * fn + q
  if pageDead s part fn ∨ 8 ≤ q ∨ 2 ^ fld (tget 0 p.lqcfg i).toNat 54 4 < (tail - tget 0 p.lqhead i).toNat then .next s
  else onHub s fun h => modPart h part fun p => { p with lqtail := tput 0 p.lqtail i tail }

/-- LQERR_CLEAR (R386): V is cleared and HEAD moves past the refused record. -/
def execLqerrClear (part fn q : Nat) (s : State) : Out :=
  let i := 8 * fn + q
  if pageDead s part fn ∨ 8 ≤ q ∨ !bit (tget 0 (partOf s.hub part).lqerr i).toNat 63 then .next s
  else onHub s fun h => modPart h part fun p =>
    { p with lqerr := tput 0 p.lqerr i (tget 0 p.lqerr i &&& 0x7FFFFFFFFFFFFFFF), lqhead := tput 0 p.lqhead i (tget 0 p.lqhead i + 1) }

/-- EVDB_WRITE (R387): the value is added to the counter. -/
def execEvdbWrite (part fn e : Nat) (v : BitVec 64) (s : State) : Out :=
  if pageDead s part fn ∨ 64 ≤ e then .next s else onHub s fun h => modPart h part fun p => addEvent p fn e v

/-! ### Invalidations (R69) -/

/-- A write of XINV_CMD (R69): refused with ERR while BUSY, for OP 3, a nonzero reserved field, or FN beyond VFCNT. A later accepted write leaves ERR
set until software clears it: the model's choice (log 52). -/
def xinvCmd (part : Nat) (v : Word) (s : State) : Out :=
  let p := partOf s.hub part
  let n := v.toNat
  let op := fld n 62 2
  if pageDead s part 0 then .next s
  else if p.xbusy ∨ op = 3 ∨ fld n 52 10 ≠ 0 ∨ fld n 5 7 ≠ 0 ∨ vfCnt p < fld n 0 5 then onHub s fun h => modPart h part fun p => { p with xerr := true }
  else
    let x : Inval := { kind := op, fn := fld n 0 5, va := fld n 12 40 * 4096, core := none, id := 0 }
    onHub s fun h => modPart h part fun p => { p with xbusy := true, invals := p.invals ++ [x] }

/-- XINV_CMD_VA (R69). -/
def execXinvCmdVa (part : Nat) (v : BitVec 64) (s : State) : Out := xinvCmd part v s
/-- XINV_CMD_FN (R69). -/
def execXinvCmdFn (part : Nat) (v : BitVec 64) (s : State) : Out := xinvCmd part v s
/-- XINV_CMD_PART (R69). -/
def execXinvCmdPart (part : Nat) (v : BitVec 64) (s : State) : Out := xinvCmd part v s
/-- XINV_CMD_RESERVED (R69). -/
def execXinvCmdReserved (part : Nat) (v : BitVec 64) (s : State) : Out := xinvCmd part v s

/-! ### Resume, abort, purge, save (R427, R428) -/

/-- Sets RSTAT.CODE of a page. -/
def rstat (s : State) (part page code : Nat) : State := { s with hub := modPart s.hub part fun p => { p with rcode := tput 0 p.rcode page code } }

/-- The placed launch that an RCMD names: the function of the page, or FN through the physical function's (R427). Of a twin pair the primary. -/
def rcmdLaunch (s : State) (part page : Nat) (v : Word) : Option (Nat × Region) :=
  let fn := if page = 0 then fld v.toNat 36 5 else page
  s.fab.regions.find? fun q => q.2.launch.part == part && q.2.launch.fn == fn && q.2.launch.seq == v.setWidth 32

/-- An RCMD: nothing in reset, CODE 3 while BUSY, CODE 1 without the launch (R427). -/
def rcmd (part page : Nat) (v : Word) (s : State) (body : Nat → Region → State) : Out :=
  if pageDead s part page then .next s
  else if tget false (partOf s.hub part).rbusy page then .next (rstat s part page 3)
  else match rcmdLaunch s part page v with
  | none => .next (rstat s part page 1)
  | some (rid, r) => .next (body rid r)

/-- RCMD_RESUME (R428): a stopped region restarts, or a drift context revoked by its own fault is relent, after a swap that is pending (R408). A held
store that meets XLATE keeps the region stopped until its page is mapped (R67). -/
def execRcmdResume (part page : Nat) (v : BitVec 64) (s : State) : Out :=
  rcmd part page v s fun rid r =>
    if r.owner.isSome then
      if !r.ownFault then rstat s part page 2
      else
        let held : Bool := (r.owner.bind fun o => region? s.fab o).any fun g => g.swap.isSome
        let f := modRegion s.fab rid fun r => { r with ownFault := false, stop := none, relendDue := held && !r.restart }
        rstat { s with fab := if held ∨ r.restart then f else sendDrift f rid 2 none } part page 0
    else if r.phase ≠ 4 then rstat s part page 2
    else rstat (restartPair { s with fab := setPhase s.fab rid fun r => { r with phase := 1, restart := true } } rid) part page 0

/-- What an abort drops besides tokens: the commands of the region's cores, owed replies, port logs and sinks (R428). -/
def abortDrop (s : State) (r : Region) : State :=
  let cores := regionCores r
  let s := dropOwed s cores
  let f := cores.foldl (fun f c => modCc f c fun c => { c with vins := [], sinks := [], outs := [], wcs := [], acq := none }) s.fab
  let lds := f.loads.filter fun l => l.rid.isSome && decide (r.x0 ≤ l.x0 ∧ l.x0 < r.x0 + r.w ∧ r.y0 ≤ l.y0 ∧ l.y0 < r.y0 + r.h)
  { s with fab := lds.foldl (fun f l => planesEmpty f (loadKeys l) l.plane) f }

/-- Aborts an owner launch's region, or one of a twin pair's (R428): its drift contexts leave it, every uncommitted round is discarded, every token
flushed, planes go to loaded, each owner context advances DEVT, and the region is freed. -/
def abortRegion (s : State) (rid : Nat) : State :=
  let s := driftsOut s rid 0
  match region? s.fab rid with
  | none => s
  | some r =>
    let live := (r.ctxs.filter fun c => !c.2.retired).map fun c => c.1
    let own := (r.ctxs.filter fun c => !c.2.retired && !c.2.drift).map fun c => c.1
    let second := r.twin.any fun t => decide (t < rid)
    let s := if second then s else (if own = [] then [r.plane] else own).foldl (fun s n => retireEvent s rid n r) s
    let f := live.foldl (fun f n => discardCtx n f rid) s.fab
    let f := [0, 1, 2, 3].foldl (fun f n => if own.contains n then unbindPlane (flushCtx f (regionKeys r) n) r n else f) f
    freeRegion (abortDrop { s with fab := f } r) rid

/-- Aborts a drift launch: only its context is affected (R428). -/
def abortDrift (s : State) (did : Nat) (d : Region) : State :=
  match d.owner.bind fun o => (region? s.fab o).map fun r => (o, r) with
  | none => s
  | some (o, r) =>
    let n := d.plane
    let s := retireEvent s o n r
    let f := if ctxLive r n then discardCtx n s.fab o else s.fab
    let f := unbindPlane (flushCtx f (regionKeys r) n) r n
    let f := (f.loads.filter fun l => l.rid == some did).foldl (fun f l => planesEmpty f (loadKeys l) l.plane) f
    let f := { f with loads := f.loads.filter fun l => l.rid != some did }
    { s with fab := driftLeaves f did, mem := dropWalks s.mem fun w => (regionKeys r).contains w.key && w.plane == n && w.stream != 8 }

/-- RCMD_ABORT (R428, R466). -/
def execRcmdAbort (part page : Nat) (v : BitVec 64) (s : State) : Out :=
  rcmd part page v s fun rid r =>
    rstat (if r.owner.isSome then abortDrift s rid r else (withTwin s.fab rid).foldl abortRegion s) part page 0

/-- The tokens of a context leave a core's sinks and port logs. -/
def purgeCore (n : Nat) (c : CC) : CC :=
  { c with sinks := c.sinks.map fun k => (k.1, { k.2 with toks := k.2.toks.filter fun t => t.2.ctx.toNat != n })
           vins := c.vins.map fun v => (v.1, vinKeep (fun q => q.1.toNat % 4 != n) { v.2 with ctxs := tdel v.2.ctxs n }) }

/-- RCMD_PURGE (R428, R445): the tokens of a plane that is retiring in its elements, and that STRAY was reported for, are discarded, and its
context retires. -/
def execRcmdPurge (part page : Nat) (v : BitVec 64) (s : State) : Out :=
  rcmd part page v s fun rid r =>
    let n := fld v.toNat 32 2
    let home := r.owner.getD rid
    let st (k : Nat) : PSt := (planeOf (elemOf s.fab k) n).st
    let ok : Bool := (region? s.fab home).any fun g => (ctxOf g n).stray && ctxLive g n &&
      (planeKeys g).any (fun k => st k == .retiring) && (planeKeys g).all fun k => st k != .bound
    if !ok then rstat s part page 2
    else
      let rs := withTwin s.fab home
      let cores := rs.flatMap fun q => ((region? s.fab q).map regionCores).getD []
      let f := cores.foldl (fun f c => modCc f c (purgeCore n)) s.fab
      rstat (rs.foldl (fun s q => retireCtx s q n) { s with fab := f }) part page 0

/-- RCMD_SAVE (R428-R430): through the physical function's page only; the launch is saved as a pre-emption, BUSY until it is. -/
def execRcmdSave (part page : Nat) (v : BitVec 64) (s : State) : Out :=
  if page ≠ 0 ∧ !pageDead s part page ∧ !tget false (partOf s.hub part).rbusy page then .next (rstat s part page 4)
  else rcmd part page v s fun rid r =>
    let n := r.w * r.h * (if r.twin.isSome then 2 else 1)
    if (freeSlots (partOf s.hub part)).length < n then rstat s part page 5
    else if r.owner.isSome then rstat (driftSaveAs s rid 1 0) part page 0
    else
      let f := modRegion s.fab rid fun r => { r with saveDue := true }
      { s with fab := f, hub := modPart s.hub part fun p => { p with rbusy := tput false p.rbusy page true } }

/-- RCMD_REFUSED_OP (R427): CODE 6; CODE 3 while BUSY. -/
def execRcmdRefusedOp (part page : Nat) (_v : BitVec 64) (s : State) : Out :=
  if pageDead s part page then .next s
  else .next (rstat s part page (if tget false (partOf s.hub part).rbusy page then 3 else 6))

/-- A write of RCMD by its OP. -/
def rcmdWrite (part page : Nat) (v : Word) (s : State) : Out :=
  match fld v.toNat 60 4 with
  | 1 => execRcmdResume part page v s
  | 2 => execRcmdAbort part page v s
  | 3 => execRcmdPurge part page v s
  | 4 => execRcmdSave part page v s
  | _ => execRcmdRefusedOp part page v s

/-! ### Preload (R439, R440) -/

/-- CODE of PLSTAT. -/
def plCode (s : State) (part code : Nat) : State := { s with hub := modPart s.hub part fun p => { p with plcode := code } }

/-- Plane n of a region may take a preload (R440). -/
def preloadOk (f : Fab) (rid : Nat) (r : Region) (n : Nat) : Bool :=
  (planeKeys r).all (fun k => let st := (planeOf (elemOf f k) n).st; st == .empty || st == .loaded) &&
    !(r.swap.any fun w => w.old == n || (w.new == n && w.checked.isSome)) && (driftIn f rid n).isNone

/-- PLCMD_WRITE (R440): CODE 5 while BUSY, 1 without the launch, 2 for a plane not in a state to load; otherwise the loader starts. -/
def execPlcmdWrite (part : Nat) (v : BitVec 64) (s : State) : Out :=
  let p := partOf s.hub part
  let n := fld v.toNat 34 2
  let fn := fld v.toNat 36 5
  if pageDead s part 0 then .next s
  else if p.plbusy then .next (plCode s part 5)
  else match s.fab.regions.find? fun q => q.2.owner.isNone && q.2.launch.part == part && q.2.launch.fn == fn && q.2.launch.seq == v.setWidth 32 with
  | none => .next (plCode s part 1)
  | some (rid, r) =>
    if !preloadOk s.fab rid r n then .next (plCode s part 2)
    else
      let l : Load := { part := part, rid := none, fn := fn, image := p.plimg, x0 := r.x0, y0 := r.y0, w := r.w, h := r.h, plane := n, cold := false }
      .next { s with fab := openLoad s.fab l, hub := modPart s.hub part fun p => { p with plbusy := true, plnfr := 0 } }

/-! ### Core windows (R28, R36-R38, R273) -/

/-- A write of a frame of a core's configuration space (R36-R38): refused with FRAMEINV, a completer abort for the host; so is one of a reserved
element (R247). -/
def execConfigSpaceWrite (req : Requester) (core addr : Nat) (v : BitVec 256) (s : State) : Out :=
  match reach s req (.window core addr) with
  | .ok =>
    if 100 ≤ fld addr 21 7 then .next (refuse s req 0x10)
    else match cfgWrite s.fab (100 * core + fld addr 21 7) (fld addr 18 3) (fld addr 5 13) v with
      | some f => .next { s with fab := f, resp := [0] }
      | none => .next (refuse s req 0x10)
  | .ones => .next { s with resp := [0] }
  | .absent => .next s
  | _ => .next (refuse s req 6)

/-- A halted core goes on as tret would (R273). -/
def resumeCore (f : Fab) (core : Nat) : Fab :=
  modCc f core fun c => if c.state = 2 then { trapReturn c with state := if (elemOf f (100 * core)).gated then 3 else 0 } else c

/-- CORE_WINDOW_CSR_WRITE (R273): accepted only in STATE 2 or 3. -/
def execCoreWindowCsrWrite (req : Requester) (core csr : Nat) (v : BitVec 64) (s : State) : Out :=
  match reach s req (.window core 0x10000000) with
  | .ok =>
    let c := ccOf s.fab core
    if c.state.toNat < 2 then .next (refuse s req 6)
    else
      let f := if csr = 0x42 then (if v.toNat % 4 = 0 then resumeCore s.fab core else s.fab) else modCc s.fab core fun c => csrPut c csr v
      .next { s with fab := f, resp := [0] }
  | .ones => .next { s with resp := [0] }
  | .absent => .next s
  | _ => .next (refuse s req 6)

/-- CCSTAT_RESUME (R273): a write of 0 to STATE while the core is halted. -/
def execCcstatResume (req : Requester) (core : Nat) (s : State) : Out := execCoreWindowCsrWrite req core 0x42 0 s

/-! ### Writes by offset (R25, R496) -/

/-- A value with the bytes of a write put into it. -/
def mergeBytes (old : Word) (off size : Nat) (v : Word) : Word := BitVec.ofNat 64 (setFld old.toNat (8 * (off % 8)) (8 * size) v.toNat)

/-- A field of LOG2N takes no value above 12 (R384, R421). -/
def keepLog (old v : Word) (lo : Nat) : Word := if 12 < fld v.toNat lo 4 then BitVec.ofNat 64 (setFld v.toNat lo 4 (fld old.toNat lo 4)) else v

/-- RASSTAT after a write: a field written 0 is cleared, others keep their value (R477). -/
def rasWrite (p : Part) (v : Nat) : Part :=
  let clr (t : Tab Nat) (n lo w : Nat) : Tab Nat := if fld v lo w = 0 then tdel t n else t
  { p with ras := clr (clr (clr (clr (clr p.ras 4 48 16) 3 32 16) 2 16 16) 1 8 8) 0 0 8 }

/-- METCFG after a write (R485): a BURST or RATE of 0 is ignored. -/
def metWrite (old v : Word) : Word :=
  let b := if fld v.toNat 16 16 = 0 then fld old.toNat 16 16 else fld v.toNat 16 16
  let r := if fld v.toNat 0 10 = 0 then fld old.toNat 0 10 else fld v.toNat 0 10
  BitVec.ofNat 64 (fld v.toNat 63 1 * 2 ^ 63 + b * 2 ^ 16 + r)

/-- A plain register of a function page after a write; vf says that it came through a virtual function's BAR (R53, R383, R421, R430, R439, R477,
R485). v is the whole new value. -/
def pageFields (p : Part) (f o : Nat) (vf : Bool) (v : Word) : Part :=
  if o = 0 then (if vf then p else { p with ptroot := tput 0 p.ptroot f (v &&& 0x8000FFFFFFFFFF80) })
  else if o = 0x600 then { p with frcfg := tput 0 p.frcfg f (keepLog (tget 0 p.frcfg f) v 52 &&& 0x80FFFFFFFFFFFFC0) }
  else if o = 0x608 then { p with frhead := tput 0 p.frhead f (v.setWidth 32) }
  else if o = 0x610 then { p with frdrop := tput 0 p.frdrop f (v.setWidth 32) }
  else if f ≠ 0 then p
  else if o = 0x800 then { p with savecfg := v &&& 0x8000FFFFFF0000FF }
  else if o = 0x900 then { p with plimg := v &&& 0x000FFFFFFFFFFFC0 }
  else if o = 0xA00 then { p with rascfg := v &&& 0x80FF000000FF0000 }
  else if o = 0xA08 then rasWrite p v.toNat
  else if o = 0xB00 then { p with metcfg := metWrite p.metcfg v }
  else if o = 0xB08 then { p with stretch := if fld v.toNat 32 32 = 0 then 0 else p.stretch }
  else if 0x1000 ≤ o ∧ o < 0x1440 then
    let i := (o - 0x1000) / 8
    { p with lqcfg := tput 0 p.lqcfg i (keepLog (tget 0 p.lqcfg i) v 54 &&& 0x83CFFFFFFFFFFF8F) }
  else p

/-- A write to a function page. w is the register with the written bytes put in, x the written bytes alone, hi whether bits [63:32] are written. -/
def pageWrite (s : State) (part f o : Nat) (vf : Bool) (w x : Word) (lo hi : Bool) : Out :=
  if vfCnt (partOf s.hub part) < f then .next s
  else if 0x200 ≤ o ∧ o < 0x240 then (if lo then execLqdbWrite part f ((o - 0x200) / 8) (w.setWidth 32) s else .next s)
  else if 0x300 ≤ o ∧ o < 0x340 then (if hi && bit x.toNat 63 then execLqerrClear part f ((o - 0x300) / 8) s else .next s)
  else if 0x400 ≤ o ∧ o < 0x600 then execEvdbWrite part f ((o - 0x400) / 8) x s
  else if o = 0x700 then rcmdWrite part f x s
  else if f = 0 ∧ o = 0x100 then xinvCmd part x s
  else if f = 0 ∧ o = 0x108 then onHub s fun h => modPart h part fun p => { p with xerr := p.xerr && !bit x.toNat 1 }
  else if f = 0 ∧ o = 0x908 then execPlcmdWrite part x s
  else onHub s fun h => modPart h part fun p => pageFields p f o vf w

/-- A write of MBCTL (R496): dropped while BUSY; GO starts the request, with RESULT 3 for a LEN above 4096. -/
def mbctlWrite (p : Part) (w x : Word) : Part :=
  if p.mbBusy then p
  else
    let len := fld w.toNat 32 16
    let p := { p with mbLen := BitVec.ofNat 16 len, mbOp := BitVec.ofNat 8 (fld w.toNat 8 8) }
    if !bit x.toNat 0 then p else if 4096 < len then { p with mbResult := 3, mbRlen := 0 } else { p with mbBusy := true }

/-- A write to the reset and mailbox page of a partition block (R493, R496): REQ and REL together act as REQ. -/
def bootWrite (s : State) (part o : Nat) (w x : Word) : Out :=
  if o = 0 then (if bit x.toNat 0 then execPrstReq part s else if bit x.toNat 1 then execPrstRel part s else .next s)
  else if o = 0x100 then onHub s fun h => modPart h part fun p => mbctlWrite p w x
  else if 0x1000 ≤ o ∧ o < 0x2000 then onHub s fun h => modPart h part fun p => if p.mbBusy then p else { p with mbuf := mputN p.mbuf (o - 0x1000) 8 w.toNat }
  else .next s

/-- A write to the hub common block: only the device-time registers take one, and only from physical function 0 (R490, R506). -/
def hubBlockWrite (s : State) (req : Requester) (o : Nat) (w : Word) : Out :=
  if req ≠ .host 0 0 then .next s
  else if o = 0x208 then execDtfreqWrite w s
  else if o = 0x210 then execDtadjWrite w s
  else if o = 0x218 then execDtsetWrite w s
  else .next s

/-- A write to a core window (R28): bytes of a frame, or a CSR. -/
def windowWrite (s : State) (req : Requester) (n o off size : Nat) (v : Word) : Out :=
  if o < 0x10000000 then
    let old := cfgRead s.fab (100 * n + fld o 21 7) (fld o 18 3) (fld o 5 13)
    execConfigSpaceWrite req n o (BitVec.ofNat 256 (setFld old.toNat (8 * (off % 32)) (8 * size) v.toNat)) s
  else if o < 0x10010000 then
    execCoreWindowCsrWrite req n (windowCsr o) (mergeBytes (csrGet s n (windowCsr o) (ccOf s.fab n).state.toNat) off size v) s
  else .next s

/-- REGISTER_WRITE (R21, R25-R28, R43). A write that a register's own row describes has that row's meaning. -/
def execRegisterWrite (req : Requester) (off size : Nat) (v : BitVec 64) (s : State) : Out :=
  let base := off / 8 * 8
  let w := mergeBytes (regAt s (mmioPlace base)) off size v
  let x := mergeBytes 0 off size v
  let lo : Bool := off % 8 == 0
  let hi : Bool := size == 8 || off % 8 == 4
  let vf : Bool := match req with
    | .host _ f => f != 0
    | _ => false
  let t := s
  let s := { s with resp := [0] }
  match access s req off size with
  | .absent => .next t
  | .ones => .next s
  | .abort => .next (refuse s req 6)
  | .prot => .next (refuse s req 6)
  | .misalign => .next (refuse s req 3)
  | .ok => match mmioPlace base with
    | .hub o => hubBlockWrite s req o w
    | .block p o => match pageOf o with
      | some (f, y) => pageWrite s p f y vf w x lo hi
      | none => if o < 0x10000 then bootWrite s p o w x else .next s
    | .window n o => windowWrite s req n o off size v
    | .none => .next s

end Sys2Proof.Machine
end

