-- ==== Sys2Proof/Machine/Security.lean ====
section
/-! DEFINITION. The SPDM responder of the DOE mailboxes (23 R503). The spec names the messages, the two algorithms, and what the measurements are; what
else a message holds is open (log 7). -/

namespace Sys2Proof.Machine

/-- A reply stands in the DOE mailbox of a physical function; in the safe state only PF 0 answers (R505). The mailbox lies in configuration space, so
before STAGE reaches 3 a request is to be retried (R504). -/
def spdmReply (s : State) (pf : Nat) (st : Nat → Nat) (reply : List Byte) : Out :=
  if s.sec.stage.toNat < 3 then .next (cfgRetry s)
  else if s.sec.stage = 4 ∧ pf ≠ 0 then .next s
  else onHub s fun h => modPart h pf fun p => { p with doe := reply, spdm := st p.spdm }

/-- GET_VERSION (R503): SPDM 1.2; the connection starts anew. -/
def execGetVersion (pf : Nat) (s : State) : Out := spdmReply s pf (fun _ => 1) (Config.spdmBody 0 0)

/-- GET_CAPABILITIES (R503). -/
def execGetCapabilities (pf : Nat) (s : State) : Out := spdmReply s pf (fun n => max n 2) (Config.spdmBody 1 0)

/-- NEGOTIATE_ALGORITHMS (R503): only Ed25519 (bit 0 of the offer) with SHA-512 (bit 1) is negotiated. -/
def execNegotiateAlgorithms (pf algs : Nat) (s : State) : Out :=
  if bit algs 0 ∧ bit algs 1 then spdmReply s pf (fun _ => 3) (Config.spdmBody 2 0) else spdmReply s pf id (Config.spdmBody 2 1)

/-- The certificate of a partition's alias key: what it says besides the key is open (log 7); it is signed with the device identity key (R501). -/
def aliasCert (s : State) (pf : Nat) : List Byte :=
  let body := Config.spdmBody 4 pf ++ natBytes 32 (ed25519Public (aliasOf s pf)).toNat
  body ++ natBytes 64 (ed25519Sign identityKey body).toNat

/-- The certificate chain of a physical function: the device's, signed by Garlosy, then that of its partition's alias key (R501, R503). -/
def certChain (s : State) (pf : Nat) : List Byte := Config.deviceCert (ed25519Public identityKey) ++ aliasCert s pf

/-- GET_DIGESTS (R503): the digest of the chain. -/
def execGetDigests (pf : Nat) (s : State) : Out := spdmReply s pf id (Config.spdmBody 3 pf ++ natBytes 64 (sha512 (certChain s pf)).toNat)

/-- GET_CERTIFICATE (R503): a portion of the chain. -/
def execGetCertificate (pf off len : Nat) (s : State) : Out := spdmReply s pf id (((certChain s pf).drop off).take len)

/-- What an answer is signed over: the message, the nonce of the request. -/
def spdmSign (s : State) (pf kind : Nat) (body : List Byte) (nonce : BitVec 256) : List Byte :=
  natBytes 64 (ed25519Sign (aliasOf s pf) (Config.spdmBody kind pf ++ body ++ natBytes 32 nonce.toNat)).toNat

/-- CHALLENGE (R503). -/
def execChallenge (pf : Nat) (nonce : BitVec 256) (s : State) : Out :=
  spdmReply s pf id (Config.spdmBody 5 pf ++ spdmSign s pf 8 (Config.spdmBody 5 pf) nonce)

/-- GET_MEASUREMENTS (R503): indices 1 to 4 return MREG0 to MREG3, signed with the alias key of the function's partition. -/
def execGetMeasurements (pf index : Nat) (nonce : BitVec 256) (s : State) : Out :=
  if index = 0 ∨ 4 < index then spdmReply s pf id (Config.spdmBody 6 index)
  else
    let m := natBytes 64 (mregOf s pf (index - 1)).toNat
    spdmReply s pf id (Config.spdmBody 7 index ++ m ++ spdmSign s pf 9 m nonce)

end Sys2Proof.Machine
end

