-- ==== Sys2Proof/Machine/Tile.lean ====
section
/-! DEFINITION. The start of an element's next tile cycle (log 2). -/

namespace Sys2Proof.Machine

/-- A context counts idle tile cycles: bound, and not a revoked drift context (R423). -/
def countsIdle (f : Fab) (rid : Nat) (r : Region) (n : Nat) (c : RCtx) : Bool :=
  !c.retired && ctxBound f r n && !(c.drift && (driftIn f rid n).any fun d => !d.2.lent)

/-- The round controller of a region counts a tile cycle (R423); it stands in the region's north-west core. -/
def idleTick (f : Fab) (key : Nat) : Fab :=
  match regionOf f (keyCore key) with
  | none => f
  | some (rid, r) =>
    if keyCore key ≠ 8 * r.y0 + r.x0 ∨ r.phase ≠ 0 then f
    else modRegion f rid fun r => { r with ctxs := r.ctxs.map fun c => (c.1, if countsIdle f rid r c.1 c.2 then { c.2 with idle := c.2.idle + 1 } else c.2) }

/-- A tile cycle of a link group, counted at the first element of its row: of a visit under way, and since an owner token last moved on the group; a
visit of 40 cycles ends, and a visit that waits begins with its idle window (R474, R475). -/
def auditTick (s : State) (key : Nat) : State :=
  let core := keyCore key
  if key % 10 ≠ 0 ∨ 64 ≤ core then s
  else
    let f := modAudit s.fab core (rowOf key) fun a => { a with cyc := a.cyc.map fun n => n + 1, quiet := min 64 (a.quiet + 1) }
    let a := auditOf f core (rowOf key)
    let due := a.cyc == some 40 || (a.cyc.isNone && a.pend && a.quiet == 64)
    let s := { s with fab := f }
    if due then auditStep s core (rowOf key) else s

/-- The next tile cycle of an element; none while its clock is gated or its core belongs to no region. The accumulate quotas of a memory tile's banks
clear every 32 tile cycles (R133). -/
def tileCycle (s : State) (key : Nat) : State :=
  let s := auditTick s key
  if halted s.fab key then s
  else match kindOf key with
  | .compute => { s with fab := tileTick (chainTick (computeTick s.fab key) key) key }
  | .memory =>
    let f := tileTick (chainTick (memTick s.fab key) key) key
    { s with fab := f, agenda := if (elemOf f key).cyc % 32 = 0 then .event (.quotaWindowClear key) :: s.agenda else s.agenda }
  | .ag => { s with fab := agTick s.fab key }
  | .round => { s with fab := idleTick s.fab key }
  | _ => s

end Sys2Proof.Machine
end

