-- ==== Sys2Proof/Machine/Vector.lean ====
section
/-! DEFINITION. Vector operations (11 R318-R329): one meaning each over the shared lane functions. -/

namespace Sys2Proof.Machine

/-- Fires a vector operation (R308-R311): the latch check of its wide sources against the source formats, then the result
from the sources, the pops and the write. -/
def vecFire (s : State) (op : Nat) (w : Slot) (fa fb : Nat) (lf : Slot → Line → Line → Line → Line × Bool) : Out :=
  fire s op w fun x f =>
    match latchClash x op fa fb with
    | some q => slotRaise f x 1 (some q) 0 0
    | none =>
      let r := lf w (vecSrc x fa w.a.toNat) (vecSrc x fb w.b.toNat) (vecSrc x fa w.c.toNat)
      putResult (popAll f x) x r.1 r.2 (fireLvl x)

/-- Fires an operation whose source format is fmt. -/
def vec (s : State) (op : Nat) (w : Slot) (lf : Slot → Line → Line → Line → Line × Bool) : Out :=
  vecFire s op w w.fmt.toNat w.fmt.toNat lf

/-! ### Lane functions -/

/-- A float operation of one source; condition: some lane is NaN (R316-R318). -/
def fl1 (g : Nat → FVal → FVal) (w : Slot) (a _b _c : Line) : Line × Bool :=
  let fm := w.fmt.toNat
  let r := (lanes (laneBits fm) a).map fun x => (fencode fm w.rnd.toNat (w.sat == 1) (g w.rnd.toNat (fdecode fm x))).bits
  (pack (laneBits fm) r, r.any (isNaNBits fm))

/-- A float operation of two sources. -/
def fl2 (g : Nat → FVal → FVal → FVal) (w : Slot) (a b _c : Line) : Line × Bool :=
  let fm := w.fmt.toNat
  let n := laneBits fm
  let r := List.zipWith (fun x y => (fencode fm w.rnd.toNat (w.sat == 1) (g w.rnd.toNat (fdecode fm x) (fdecode fm y))).bits)
    (lanes n a) (lanes n b)
  (pack n r, r.any (isNaNBits fm))

/-- A float operation of three sources. -/
def fl3 (g : Nat → FVal → FVal → FVal → FVal) (w : Slot) (a b c : Line) : Line × Bool :=
  let fm := w.fmt.toNat
  let n := laneBits fm
  let r := List.zipWith (fun (x : Nat × Nat) z =>
      (fencode fm w.rnd.toNat (w.sat == 1) (g w.rnd.toNat (fdecode fm x.1) (fdecode fm x.2) (fdecode fm z))).bits)
    ((lanes n a).zip (lanes n b)) (lanes n c)
  (pack n r, r.any (isNaNBits fm))

/-- An integer operation of two sources: exact, then fitted; condition: some lane lay outside its range (R315, R317). -/
def in2 (g : Int → Int → Int) (w : Slot) (a b _c : Line) : Line × Bool :=
  let fm := w.fmt.toNat
  let n := laneBits fm
  let r := List.zipWith (fun x y => fitInt fm (w.sat == 1) (g (ival fm x) (ival fm y))) (lanes n a) (lanes n b)
  (pack n (r.map fun q => q.1), r.any fun q => q.2)

/-- An integer operation of three sources. -/
def in3 (g : Int → Int → Int → Int) (w : Slot) (a b c : Line) : Line × Bool :=
  let fm := w.fmt.toNat
  let n := laneBits fm
  let r := List.zipWith (fun (x : Nat × Nat) z => fitInt fm (w.sat == 1) (g (ival fm x.1) (ival fm x.2) (ival fm z)))
    ((lanes n a).zip (lanes n b)) (lanes n c)
  (pack n (r.map fun q => q.1), r.any fun q => q.2)

/-- An integer operation of one source. -/
def in1 (g : Int → Int) (w : Slot) (a _b _c : Line) : Line × Bool := in2 (fun x _ => g x) w a a 0

/-- A bitwise operation (class B); condition: some bit set (R317). -/
def bw2 (g : Line → Line → Line) (_w : Slot) (a b _c : Line) : Line × Bool := (g a b, g a b != 0)

/-- Signed real part of a CI16 lane (R79). -/
def cre (v : Nat) : Int := sext 16 v
/-- Signed imaginary part. -/
def cim (v : Nat) : Int := sext 16 (v / 65536)

/-- Fits a complex result, each part as INT16 (R315). -/
def cfit (sat : Bool) (re im : Int) : Nat × Bool :=
  let a := fitInt 2 sat re
  let b := fitInt 2 sat im
  (a.1 + 65536 * b.1, a.2 || b.2)

/-- A complex operation: the parts of a, b, c to the exact parts (R320). -/
def cx (g : Nat → Nat → (Int × Int) → (Int × Int) → (Int × Int) → Int × Int) (w : Slot) (a b c : Line) : Line × Bool :=
  let rnd := w.rnd.toNat
  let sh := w.imm.toNat
  let r := List.zipWith (fun (x : Nat × Nat) z =>
      let v := g rnd sh (cre x.1, cim x.1) (cre x.2, cim x.2) (cre z, cim z)
      cfit (w.sat == 1) v.1 v.2)
    ((lanes 32 a).zip (lanes 32 b)) (lanes 32 c)
  (pack 32 (r.map fun q => q.1), r.any fun q => q.2)

/-- Comparison of two lanes: less, equal, and whether they are ordered at all (R321). -/
def laneCmp (fm x y : Nat) : Bool × Bool × Bool :=
  if isFloat fm then
    let u := fdecode fm x
    let v := fdecode fm y
    if u = .nan ∨ v = .nan then (false, false, false)
    else (FVal.cmp u v == .lt, FVal.cmp u v == .eq, true)
  else (decide (ival fm x < ival fm y), ival fm x == ival fm y, true)

/-- A comparison; condition: some lane true (R317, R321). -/
def cmp2 (g : Bool × Bool × Bool → Bool) (w : Slot) (a b _c : Line) : Line × Bool :=
  let fm := w.fmt.toNat
  let n := laneBits fm
  let r := List.zipWith (fun x y => g (laneCmp fm x y)) (lanes n a) (lanes n b)
  (pack n (r.map fun t => if t then 2 ^ n - 1 else 0), r.any id)

/-- Minimum or maximum of two lanes as bits, without sat (R318, R319, R326). -/
def laneMin (fm x y : Nat) : Nat :=
  if isFloat fm then (fencode fm 0 false (FVal.min (fdecode fm x) (fdecode fm y))).bits
  else if ival fm x < ival fm y then x else y
/-- Maximum of two lanes. -/
def laneMax (fm x y : Nat) : Nat :=
  if isFloat fm then (fencode fm 0 false (FVal.max (fdecode fm x) (fdecode fm y))).bits
  else if ival fm x < ival fm y then y else x

/-- A permutation of whole lanes given by the source lane of each destination lane; condition: some bit set (R327). -/
def perm (g : Slot → Nat → (Nat → Nat) → (Nat → Nat) → (Nat → Nat) → Nat → Nat) (w : Slot) (a b c : Line) : Line × Bool :=
  let k := laneBits w.fmt.toNat
  let n := 512 / k
  let lane (l : Line) (i : Nat) : Nat := fld l.toNat (k * i) k
  let r := pack k ((List.range n).map fun i => g w n (lane a) (lane b) (lane c) i)
  (r, r != 0)

/-- A tree reduction (R326): neighbours combined level by level; the fuel is the number of levels. -/
def tree {α : Type} (op : α → α → α) : Nat → List α → List α
  | 0, l => l
  | n + 1, l => tree op n (pairUp op l)
where
  /-- Combines neighbours. -/
  pairUp (op : α → α → α) : List α → List α
    | x :: y :: r => op x y :: pairUp op r
    | l => l

/-- Lane 0 holds a reduction's result, every other lane zero (R326). -/
def lane0 (v : Nat) : Line := BitVec.ofNat 512 v

/-- A sum reduction from leaf values; floats round at every combination, integers once at the end (R326). A float leaf is a lane's encoding, which
leafF gives from those of both sources with the rounding of the slot. -/
def redSum (leafF : (FVal → Nat) → Nat → Nat → Nat) (leafI : Int → Int → Int) (w : Slot) (a b _c : Line) : Line × Bool :=
  let fm := w.fmt.toNat
  let n := laneBits fm
  let rnd := w.rnd.toNat
  let sat := w.sat == 1
  if isFloat fm then
    let fin (v : FVal) : Nat := (fencode fm rnd sat v).bits
    let leaves := List.zipWith (leafF fin) (lanes n a) (lanes n b)
    let r := (tree (fun u v => fin (FVal.add rnd (fdecode fm u) (fdecode fm v))) 6 leaves).headD 0
    (lane0 r, isNaNBits fm r)
  else
    let sum := (List.zipWith (fun x y => leafI (ival fm x) (ival fm y)) (lanes n a) (lanes n b)).foldl (· + ·) 0
    let r := fitInt fm sat sum
    (lane0 r.1, r.2)

/-- A minimum or maximum reduction; condition: NaN for floats, never for integers (R317, R326). -/
def redPick (g : Nat → Nat → Nat → Nat) (w : Slot) (a _b _c : Line) : Line × Bool :=
  let fm := w.fmt.toNat
  let leaves := (lanes (laneBits fm) a).map fun x => if isFloat fm then (fencode fm 0 false (fdecode fm x)).bits else x
  let r := (tree (g fm) 6 leaves).headD 0
  (lane0 r, isFloat fm && isNaNBits fm r)

/-- Reverses the m low bits of k (R327). -/
def revBits : Nat → Nat → Nat
  | 0, _ => 0
  | m + 1, k => k % 2 * 2 ^ m + revBits m (k / 2)

/-- x + y (R318) (0x000). -/
def execVaddF (w : Slot) (s : State) : Out := vec s 0x000 w (fl2 FVal.add)

/-- x - y (R318) (0x001). -/
def execVsubF (w : Slot) (s : State) : Out := vec s 0x001 w (fl2 fun r x y => FVal.add r x y.neg)

/-- x · y (R318) (0x002). -/
def execVmulF (w : Slot) (s : State) : Out := vec s 0x002 w (fl2 fun _ x y => FVal.mul x y)

/-- x · y + z, one rounding (R318) (0x003). -/
def execVfma (w : Slot) (s : State) : Out := vec s 0x003 w (fl3 fun r x y z => FVal.add r (FVal.mul x y) z)

/-- x · y - z, one rounding (R318) (0x004). -/
def execVfms (w : Slot) (s : State) : Out := vec s 0x004 w (fl3 fun r x y z => FVal.add r (FVal.mul x y) z.neg)

/-- z - x · y, one rounding (R318) (0x005). -/
def execVfnma (w : Slot) (s : State) : Out := vec s 0x005 w (fl3 fun r x y z => FVal.add r z (FVal.mul x y).neg)

/-- minimum (R318, R130) (0x006). -/
def execVminF (w : Slot) (s : State) : Out := vec s 0x006 w (fl2 fun _ x y => FVal.min x y)

/-- maximum (R318, R130) (0x007). -/
def execVmaxF (w : Slot) (s : State) : Out := vec s 0x007 w (fl2 fun _ x y => FVal.max x y)

/-- sign cleared (R318) (0x008). -/
def execVabsF (w : Slot) (s : State) : Out := vec s 0x008 w (fl1 fun _ x => x.abs)

/-- sign inverted (R318) (0x009). -/
def execVnegF (w : Slot) (s : State) : Out := vec s 0x009 w (fl1 fun _ x => x.neg)

/-- rounded to an integral value; an infinity stays, and sat has no effect (R318) (0x00A). -/
def execVrnd (w : Slot) (s : State) : Out := vec s 0x00A w fun w => fl1 (fun r x => x.integral r) { w with sat := 0 }

/-- x + y (R319) (0x020). -/
def execVaddI (w : Slot) (s : State) : Out := vec s 0x020 w (in2 fun x y => x + y)

/-- x - y (R319) (0x021). -/
def execVsubI (w : Slot) (s : State) : Out := vec s 0x021 w (in2 fun x y => x - y)

/-- x · y (R319) (0x022). -/
def execVmulI (w : Slot) (s : State) : Out := vec s 0x022 w (in2 fun x y => x * y)

/-- x · y + z (R319) (0x023). -/
def execVmac (w : Slot) (s : State) : Out := vec s 0x023 w (in3 fun x y z => x * y + z)

/-- minimum (R319) (0x024). -/
def execVminI (w : Slot) (s : State) : Out := vec s 0x024 w (in2 fun x y => min x y)

/-- maximum (R319) (0x025). -/
def execVmaxI (w : Slot) (s : State) : Out := vec s 0x025 w (in2 fun x y => max x y)

/-- absolute value (R319) (0x026). -/
def execVabsI (w : Slot) (s : State) : Out := vec s 0x026 w (in1 fun x => (x.natAbs : Int))

/-- negation (R319) (0x027). -/
def execVnegI (w : Slot) (s : State) : Out := vec s 0x027 w (in1 fun x => -x)

/-- Shift amounts: srcB's lanes as unsigned numbers (R319). -/
def shAmt (w : Slot) (b : Line) : List Nat := lanes (laneBits w.fmt.toNat) b

/-- x · 2^y, exact, then fitted (0x028; R319). An amount of the lane width or more acts as the width. -/
def execVshl (w : Slot) (s : State) : Out := vec s 0x028 w fun w a b _ =>
  let fm := w.fmt.toNat
  let n := laneBits fm
  let r := List.zipWith (fun x y => fitInt fm (w.sat == 1) (ival fm x * 2 ^ min y n)) (lanes n a) (shAmt w b)
  (pack n (r.map fun q => q.1), r.any fun q => q.2)

/-- Logical shift right; condition: some lane discarded a nonzero bit (0x029; R317, R319). -/
def execVshr (w : Slot) (s : State) : Out := vec s 0x029 w fun w a b _ =>
  let n := laneBits w.fmt.toNat
  let r := List.zipWith (fun x y => (x / 2 ^ min y n, x % 2 ^ min y n != 0)) (lanes n a) (shAmt w b)
  (pack n (r.map fun q => q.1), r.any fun q => q.2)

/-- rndshift(x, y); condition: some lane discarded a nonzero bit (0x02A; R317, R319). -/
def execVsra (w : Slot) (s : State) : Out := vec s 0x02A w fun w a b _ =>
  let fm := w.fmt.toNat
  let n := laneBits fm
  let r := List.zipWith (fun x y =>
      let v := ival fm x
      let k := min y (n + 1)
      (wrapTo n (rndshift w.rnd.toNat v k), v.natAbs % 2 ^ k != 0)) (lanes n a) (shAmt w b)
  (pack n (r.map fun q => q.1), r.any fun q => q.2)

/-- x and y (R319) (0x02B). -/
def execVand (w : Slot) (s : State) : Out := vec s 0x02B w (bw2 fun x y => x &&& y)

/-- x or y (R319) (0x02C). -/
def execVor (w : Slot) (s : State) : Out := vec s 0x02C w (bw2 fun x y => x ||| y)

/-- x xor y (R319) (0x02D). -/
def execVxor (w : Slot) (s : State) : Out := vec s 0x02D w (bw2 fun x y => x ^^^ y)

/-- x and not y (R319) (0x02E). -/
def execVandn (w : Slot) (s : State) : Out := vec s 0x02E w (bw2 fun x y => x &&& ~~~y)

/-- a + b (R320) (0x040). -/
def execVcadd (w : Slot) (s : State) : Out := vec s 0x040 w (cx fun _ _ a b _ => (a.1 + b.1, a.2 + b.2))

/-- a - b (R320) (0x041). -/
def execVcsub (w : Slot) (s : State) : Out := vec s 0x041 w (cx fun _ _ a b _ => (a.1 - b.1, a.2 - b.2))

/-- a · b shifted by s (R320) (0x042). -/
def execVcmul (w : Slot) (s : State) : Out := vec s 0x042 w (cx fun r n a b _ =>
  (rndshift r (a.1 * b.1 - a.2 * b.2) n, rndshift r (a.1 * b.2 + a.2 * b.1) n))

/-- c 2^s + a · b shifted by s (R320) (0x043). -/
def execVcmac (w : Slot) (s : State) : Out := vec s 0x043 w (cx fun r n a b c =>
  (rndshift r (c.1 * 2 ^ n + a.1 * b.1 - a.2 * b.2) n, rndshift r (c.2 * 2 ^ n + a.1 * b.2 + a.2 * b.1) n))

/-- a · conj b shifted by s (R320) (0x044). -/
def execVcmulc (w : Slot) (s : State) : Out := vec s 0x044 w (cx fun r n a b _ =>
  (rndshift r (a.1 * b.1 + a.2 * b.2) n, rndshift r (a.2 * b.1 - a.1 * b.2) n))

/-- c 2^s + a · conj b shifted by s (R320) (0x045). -/
def execVcmacc (w : Slot) (s : State) : Out := vec s 0x045 w (cx fun r n a b c =>
  (rndshift r (c.1 * 2 ^ n + a.1 * b.1 + a.2 * b.2) n, rndshift r (c.2 * 2 ^ n + a.2 * b.1 - a.1 * b.2) n))

/-- conj a (R320) (0x046). -/
def execVconj (w : Slot) (s : State) : Out := vec s 0x046 w (cx fun _ _ a _ _ => (a.1, -a.2))

/-- a shifted by s (R320) (0x047). -/
def execVcshr (w : Slot) (s : State) : Out := vec s 0x047 w (cx fun r n a _ _ => (rndshift r a.1 n, rndshift r a.2 n))

/-- a · j^k (R320) (0x048). -/
def execVcrot (w : Slot) (s : State) : Out := vec s 0x048 w (cx fun _ k a _ _ =>
  if k = 0 then a else if k = 1 then (-a.2, a.1) else if k = 2 then (-a.1, -a.2) else (a.2, -a.1))

/-- x = y (R321) (0x050). -/
def execVcmpeq (w : Slot) (s : State) : Out := vec s 0x050 w (cmp2 fun q => q.2.1)

/-- x ≠ y, true for NaN (R321) (0x051). -/
def execVcmpne (w : Slot) (s : State) : Out := vec s 0x051 w (cmp2 fun q => !q.2.1)

/-- x < y (R321) (0x052). -/
def execVcmplt (w : Slot) (s : State) : Out := vec s 0x052 w (cmp2 fun q => q.1)

/-- x ≤ y (R321) (0x053). -/
def execVcmple (w : Slot) (s : State) : Out := vec s 0x053 w (cmp2 fun q => q.1 || q.2.1)

/-- x > y (R321) (0x054). -/
def execVcmpgt (w : Slot) (s : State) : Out := vec s 0x054 w (cmp2 fun q => q.2.2 && !q.1 && !q.2.1)

/-- x ≥ y (R321) (0x055). -/
def execVcmpge (w : Slot) (s : State) : Out := vec s 0x055 w (cmp2 fun q => q.2.2 && !q.1)

/-- x where lane z is nonzero, y otherwise (0x056; R321). -/
def execVsel (w : Slot) (s : State) : Out := vec s 0x056 w fun w a b c =>
  let n := laneBits w.fmt.toNat
  let r := pack n (List.zipWith (fun (x : Nat × Nat) z => if z ≠ 0 then x.1 else x.2) ((lanes n a).zip (lanes n b)) (lanes n c))
  (r, r != 0)

/-- min(max(x, y), z); condition: a NaN lane, or a lane that was clamped (0x057; R317, R321). -/
def execVclamp (w : Slot) (s : State) : Out := vec s 0x057 w fun w a b c =>
  let fm := w.fmt.toNat
  let n := laneBits fm
  let r := List.zipWith (fun (x : Nat × Nat) z => laneMin fm (laneMax fm x.1 x.2) z) ((lanes n a).zip (lanes n b)) (lanes n c)
  (pack n r, if isFloat fm then r.any (isNaNBits fm) else r != lanes n a)

/-- Converts SFMT to DFMT with the placement of R322 (0x060). -/
def vcvtCalc (w : Slot) (a b _c : Line) : Line × Bool :=
  let df := w.fmt.toNat
  let sf := w.md.toNat % 16
  let part := w.md.toNat / 16 % 4
  let ws := elemBits sf
  let wd := elemBits df
  let conv (x : Nat) := cvtElem sf df w.rnd.toNat (w.sat == 1) x
  if wd < ws then
    let q := (lanes ws a).map conv
    let n := 512 / ws
    let old := lanes wd b
    let r := old.take (part * n) ++ (q.map fun t => t.1) ++ old.drop (part * n + n)
    (pack wd r, q.any fun t => t.2)
  else
    let n := 512 / wd
    let q := (((lanes ws a).drop (if ws < wd then part * n else 0)).take n).map conv
    (pack wd (q.map fun t => t.1), q.any fun t => t.2)

/-- vcvt: srcA is read under SFMT, srcB under DFMT (R311, R322). -/
def execVcvt (w : Slot) (s : State) : Out := vecFire s 0x060 w (w.md.toNat % 16) w.fmt.toNat vcvtCalc

/-- x · 2^(S - 127); S = 0xFF gives NaN in every lane (R323). -/
def scaleBy (scale : Nat) (w : Slot) (a b c : Line) : Line × Bool :=
  fl1 (fun _ x => if scale = 0xFF then .nan else match x with
    | .fin n m e => .fin n m (e + scale - 127)
    | v => v) w a b c

/-- vscl.l: S is the SCALE of srcA's header latch (0x061; R323). -/
def execVsclL (w : Slot) (s : State) : Out :=
  let r := (planeOf (elemOf s.fab s.site.key) s.site.plane).run
  vec s 0x061 w (scaleBy ((tget 0x7F00 r.hdr w.a.toNat).toNat / 256))

/-- vscl.i: S is imm[7:0] (0x062; R323). -/
def execVsclI (w : Slot) (s : State) : Out := vec s 0x062 w (scaleBy (w.imm.toNat % 256))

/-- Forwards a data token, behind a burst header where the header differs from OHDR (R324). -/
def vhdr (s : State) (op : Nat) (w : Slot) : Out :=
  fire s op w fun x f =>
    match headOf x.e w.a.toNat with
    | none => f
    | some t =>
      let h := vhdrOf x.p.run op w
      let d := w.dst.toNat
      let f := popAll f x
      let f := if h.2 then
          modElem (pushOut f x.key d (stamp true { newToken x d (h.1.setWidth 512) 0 with kind := 1 })) x.key
            fun e => modRun e x.plane fun r => { r with ohdr := tput 0x7F00 r.ohdr d h.1 }
        else f
      let u : Token := { t with ctag := ctagOf x.key x.p d, ctx := BitVec.ofNat 2 x.plane, kind := 0, sent := none, twin := false }
      putPwe (pushOut f x.key d (stamp true u)) x h.2

/-- vhdr.f: the header of srcA's latch (0x063; R323, R324). -/
def execVhdrF (w : Slot) (s : State) : Out := vhdr s 0x063 w
/-- vhdr.s: the header FMT = fmt, SCALE = imm[7:0] (0x064; R323, R324). -/
def execVhdrS (w : Slot) (s : State) : Out := vhdr s 0x064 w

/-- 1/x (R325) (0x070). -/
def execVrcp (w : Slot) (s : State) : Out := vec s 0x070 w (fl1 fun _ x => fRcp x)

/-- 1/√x (R325) (0x071). -/
def execVrsqrt (w : Slot) (s : State) : Out := vec s 0x071 w (fl1 fun _ x => fRsqrt x)

/-- 2^x (R325) (0x072). -/
def execVexp2 (w : Slot) (s : State) : Out := vec s 0x072 w (fl1 fun _ x => fExp2 x)

/-- log2 x (R325) (0x073). -/
def execVlog2 (w : Slot) (s : State) : Out := vec s 0x073 w (fl1 fun _ x => fLog2 x)

/-- sum of the lanes (R326) (0x078). -/
def execVrsum (w : Slot) (s : State) : Out := vec s 0x078 w (redSum (fun _ x _ => x) fun x _ => x)

/-- maximum of the lanes (R326) (0x079). -/
def execVrmax (w : Slot) (s : State) : Out := vec s 0x079 w (redPick laneMax)

/-- minimum of the lanes (R326) (0x07A). -/
def execVrmin (w : Slot) (s : State) : Out := vec s 0x07A w (redPick laneMin)

/-- sum of the lane products (R326) (0x07B). -/
def execVrdot (w : Slot) (s : State) : Out :=
  vec s 0x07B w (redSum (fun fin x y => fin (FVal.mul (fdecode w.fmt.toNat x) (fdecode w.fmt.toNat y))) fun x y => x * y)

/-- a[j] in every lane (R327) (0x080). -/
def execVrep (w : Slot) (s : State) : Out := vec s 0x080 w (perm fun w _ a _ _ _ => a w.imm.toNat)

/-- a[b_i mod n] (R327) (0x081). -/
def execVperm (w : Slot) (s : State) : Out := vec s 0x081 w (perm fun _ n a b _ i => a (b i % n))

/-- lane c_i mod 2n of a followed by b (R327) (0x082). -/
def execVperm2 (w : Slot) (s : State) : Out := vec s 0x082 w (perm fun _ n a b c i => if c i % (2 * n) < n then a (c i % (2 * n)) else b (c i % (2 * n) - n))

/-- a[(i + j) mod n] (R327) (0x083). -/
def execVrot (w : Slot) (s : State) : Out := vec s 0x083 w (perm fun w n a _ _ i => a ((i + w.imm.toNat) % n))

/-- lower halves interleaved (R327) (0x084). -/
def execVzipl (w : Slot) (s : State) : Out := vec s 0x084 w (perm fun _ _ a b _ i => if i % 2 = 0 then a (i / 2) else b (i / 2))

/-- upper halves interleaved (R327) (0x085). -/
def execVziph (w : Slot) (s : State) : Out := vec s 0x085 w (perm fun _ n a b _ i => if i % 2 = 0 then a (n / 2 + i / 2) else b (n / 2 + i / 2))

/-- even lanes of a, then of b (R327) (0x086). -/
def execVuzpe (w : Slot) (s : State) : Out := vec s 0x086 w (perm fun _ n a b _ i => if i < n / 2 then a (2 * i) else b (2 * (i - n / 2)))

/-- odd lanes of a, then of b (R327) (0x087). -/
def execVuzpo (w : Slot) (s : State) : Out := vec s 0x087 w (perm fun _ n a b _ i => if i < n / 2 then a (2 * i + 1) else b (2 * (i - n / 2) + 1))

/-- a with lane j replaced by b[0] (R327) (0x088). -/
def execVins (w : Slot) (s : State) : Out := vec s 0x088 w (perm fun w _ a b _ i => if i = w.imm.toNat then b 0 else a i)

/-- a[j] in lane 0, zero elsewhere (R327) (0x089). -/
def execVext (w : Slot) (s : State) : Out := vec s 0x089 w (perm fun w _ a _ _ i => if i = 0 then a w.imm.toNat else 0)

/-- bit-reversed order in blocks of 2^m lanes (R327) (0x08A). -/
def execVbitrev (w : Slot) (s : State) : Out := vec s 0x08A w (perm fun w _ a _ _ i =>
  let m := w.imm.toNat
  a (i / 2 ^ m * 2 ^ m + revBits m (i % 2 ^ m)))

/-- One output lane of a butterfly over integers: exact value, halved under SCL, fitted (R328). -/
def bflyInt (fm : Nat) (w : Slot) (v : Int) : Nat × Bool :=
  fitInt fm (w.sat == 1) (if w.md.toNat % 2 = 1 then rndshift w.rnd.toNat v 1 else v)

/-- Radix-2 butterflies between lanes h apart (R328). Condition: NaN for FP32, a lane out of range otherwise (R317). -/
def bflyCalc (w : Slot) (a _b _c : Line) : Line × Bool :=
  let fm := w.fmt.toNat
  let n := laneBits fm
  let h := 2 ^ w.imm.toNat
  let la := lanes n a
  let get (i : Nat) : Nat := la.getD i 0
  let low (i : Nat) : Bool := i / h % 2 == 0
  if fm = 7 then
    let r := (List.range (512 / n)).map fun i =>
      let x := fdecode 7 (get i)
      let v := if low i then FVal.add w.rnd.toNat x (fdecode 7 (get (i + h)))
        else FVal.add w.rnd.toNat (fdecode 7 (get (i - h))) x.neg
      let v := if w.md.toNat % 2 = 1 then FVal.mul v (.fin false 1 (-1)) else v
      (fencode 7 w.rnd.toNat (w.sat == 1) v).bits
    (pack n r, r.any (isNaNBits 7))
  else if fm = 4 then
    let r := (List.range (512 / n)).map fun i =>
      let part (f : Nat → Int) : Nat × Bool :=
        bflyInt 2 w (if low i then f (get i) + f (get (i + h)) else f (get (i - h)) - f (get i))
      let re := part cre
      let im := part cim
      (re.1 + 65536 * im.1, re.2 || im.2)
    (pack n (r.map fun q => q.1), r.any fun q => q.2)
  else
    let r := (List.range (512 / n)).map fun i =>
      bflyInt fm w (if low i then ival fm (get i) + ival fm (get (i + h)) else ival fm (get (i - h)) - ival fm (get i))
    (pack n (r.map fun q => q.1), r.any fun q => q.2)

/-- vbfly (0x08B; R328). -/
def execVbfly (w : Slot) (s : State) : Out := vec s 0x08B w bflyCalc

/-- Butterflies with a twiddle factor in b's upper lanes (R329). -/
def bflytCalc (w : Slot) (a b _c : Line) : Line × Bool :=
  let h := 2 ^ w.imm.toNat
  let la := lanes 32 a
  let lb := lanes 32 b
  let rnd := w.rnd.toNat
  let r := (List.range 16).map fun i =>
    let low : Bool := i / h % 2 == 0
    let j := if low then i else i - h
    let x := la.getD j 0
    let y := la.getD (j + h) 0
    let t := lb.getD (j + h) 0
    let pr := rndshift rnd (cre y * cre t - cim y * cim t) 15
    let pi := rndshift rnd (cre y * cim t + cim y * cre t) 15
    let re := bflyInt 2 w (if low then cre x + pr else cre x - pr)
    let im := bflyInt 2 w (if low then cim x + pi else cim x - pi)
    (re.1 + 65536 * im.1, re.2 || im.2)
  (pack 32 (r.map fun q => q.1), r.any fun q => q.2)

/-- vbflyt (0x08C; R329). -/
def execVbflyt (w : Slot) (s : State) : Out := vec s 0x08C w bflytCalc

end Sys2Proof.Machine
end

