-- ==== Sys2Proof/Machine/Dispatch.lean ====
section
/-! DEFINITION. The dispatch: one arm per constructor of Instr. -/

namespace Sys2Proof.Machine

/-- What the machine does with an instruction: a direct call of its meaning. -/
def exec (i : Instr) (s : State) : Host.Outcome State Fault Refusal :=
  match i with
  | .add d a b p q => Sys2Proof.Machine.execAdd d a b p q s
  | .sub d a b p q => Sys2Proof.Machine.execSub d a b p q s
  | .and d a b p q => Sys2Proof.Machine.execAnd d a b p q s
  | .or d a b p q => Sys2Proof.Machine.execOr d a b p q s
  | .xor d a b p q => Sys2Proof.Machine.execXor d a b p q s
  | .sll d a b p q => Sys2Proof.Machine.execSll d a b p q s
  | .srl d a b p q => Sys2Proof.Machine.execSrl d a b p q s
  | .sra d a b p q => Sys2Proof.Machine.execSra d a b p q s
  | .slt d a b p q => Sys2Proof.Machine.execSlt d a b p q s
  | .sltu d a b p q => Sys2Proof.Machine.execSltu d a b p q s
  | .min d a b p q => Sys2Proof.Machine.execMin d a b p q s
  | .max d a b p q => Sys2Proof.Machine.execMax d a b p q s
  | .minu d a b p q => Sys2Proof.Machine.execMinu d a b p q s
  | .maxu d a b p q => Sys2Proof.Machine.execMaxu d a b p q s
  | .addw d a b p q => Sys2Proof.Machine.execAddw d a b p q s
  | .subw d a b p q => Sys2Proof.Machine.execSubw d a b p q s
  | .sllw d a b p q => Sys2Proof.Machine.execSllw d a b p q s
  | .srlw d a b p q => Sys2Proof.Machine.execSrlw d a b p q s
  | .sraw d a b p q => Sys2Proof.Machine.execSraw d a b p q s
  | .mul d a b p q => Sys2Proof.Machine.execMul d a b p q s
  | .mulh d a b p q => Sys2Proof.Machine.execMulh d a b p q s
  | .mulhu d a b p q => Sys2Proof.Machine.execMulhu d a b p q s
  | .mulhsu d a b p q => Sys2Proof.Machine.execMulhsu d a b p q s
  | .div d a b p q => Sys2Proof.Machine.execDiv d a b p q s
  | .divu d a b p q => Sys2Proof.Machine.execDivu d a b p q s
  | .rem d a b p q => Sys2Proof.Machine.execRem d a b p q s
  | .remu d a b p q => Sys2Proof.Machine.execRemu d a b p q s
  | .clz d a b p q => Sys2Proof.Machine.execClz d a b p q s
  | .ctz d a b p q => Sys2Proof.Machine.execCtz d a b p q s
  | .popc d a b p q => Sys2Proof.Machine.execPopc d a b p q s
  | .bswap d a b p q => Sys2Proof.Machine.execBswap d a b p q s
  | .feClr d a b p q => Sys2Proof.Machine.execFeClr d a b p q s
  | .feTst d a b p q => Sys2Proof.Machine.execFeTst d a b p q s
  | .feWait d a b p q => Sys2Proof.Machine.execFeWait d a b p q s
  | .feTake d a b p q => Sys2Proof.Machine.execFeTake d a b p q s
  | .feAny d a b p q => Sys2Proof.Machine.execFeAny d a b p q s
  | .trap d a b p q => Sys2Proof.Machine.execTrap d a b p q s
  | .tret d a b p q => Sys2Proof.Machine.execTret d a b p q s
  | .wfe d a b p q => Sys2Proof.Machine.execWfe d a b p q s
  | .brk d a b p q => Sys2Proof.Machine.execBrk d a b p q s
  | .addi d a p x_i => Sys2Proof.Machine.execAddi d a p x_i s
  | .andi d a p x_i => Sys2Proof.Machine.execAndi d a p x_i s
  | .ori d a p x_i => Sys2Proof.Machine.execOri d a p x_i s
  | .xori d a p x_i => Sys2Proof.Machine.execXori d a p x_i s
  | .slti d a p x_i => Sys2Proof.Machine.execSlti d a p x_i s
  | .sltiu d a p x_i => Sys2Proof.Machine.execSltiu d a p x_i s
  | .slli d a p z x_s => Sys2Proof.Machine.execSlli d a p z x_s s
  | .srli d a p z x_s => Sys2Proof.Machine.execSrli d a p z x_s s
  | .srai d a p z x_s => Sys2Proof.Machine.execSrai d a p z x_s s
  | .slliw d a p z x_s => Sys2Proof.Machine.execSlliw d a p z x_s s
  | .srliw d a p z x_s => Sys2Proof.Machine.execSrliw d a p z x_s s
  | .sraiw d a p z x_s => Sys2Proof.Machine.execSraiw d a p z x_s s
  | .lui d x_i => Sys2Proof.Machine.execLui d x_i s
  | .pcadd d x_i => Sys2Proof.Machine.execPcadd d x_i s
  | .lb d a p x_i => Sys2Proof.Machine.execLb d a p x_i s
  | .lh d a p x_i => Sys2Proof.Machine.execLh d a p x_i s
  | .lw d a p x_i => Sys2Proof.Machine.execLw d a p x_i s
  | .ld d a p x_i => Sys2Proof.Machine.execLd d a p x_i s
  | .lbu d a p x_i => Sys2Proof.Machine.execLbu d a p x_i s
  | .lhu d a p x_i => Sys2Proof.Machine.execLhu d a p x_i s
  | .lwu d a p x_i => Sys2Proof.Machine.execLwu d a p x_i s
  | .sb d a p q x_i => Sys2Proof.Machine.execSb d a p q x_i s
  | .sh d a p q x_i => Sys2Proof.Machine.execSh d a p q x_i s
  | .sw d a p q x_i => Sys2Proof.Machine.execSw d a p q x_i s
  | .sd d a p q x_i => Sys2Proof.Machine.execSd d a p q x_i s
  | .beq a b p q o => Sys2Proof.Machine.execBeq a b p q o s
  | .bne a b p q o => Sys2Proof.Machine.execBne a b p q o s
  | .blt a b p q o => Sys2Proof.Machine.execBlt a b p q o s
  | .bge a b p q o => Sys2Proof.Machine.execBge a b p q o s
  | .bltu a b p q o => Sys2Proof.Machine.execBltu a b p q o s
  | .bgeu a b p q o => Sys2Proof.Machine.execBgeu a b p q o s
  | .j d o => Sys2Proof.Machine.execJ d o s
  | .jal d o => Sys2Proof.Machine.execJal d o s
  | .jalr d a p x_i => Sys2Proof.Machine.execJalr d a p x_i s
  | .csrrw d a p c => Sys2Proof.Machine.execCsrrw d a p c s
  | .csrrs d a p c => Sys2Proof.Machine.execCsrrs d a p c s
  | .csrrc d a p c => Sys2Proof.Machine.execCsrrc d a p c s
  | .illegalInstruction w => Sys2Proof.Machine.execIllegalInstruction w s
  | .bucketRefill rid => Sys2Proof.Machine.execBucketRefill rid s
  | .leaseExpiry rid => Sys2Proof.Machine.execLeaseExpiry rid s
  | .swapCheck rid => Sys2Proof.Machine.execSwapCheck rid s
  | .swapTick rid => Sys2Proof.Machine.execSwapTick rid s
  | .notbeforeReached part idx => Sys2Proof.Machine.execNotbeforeReached part idx s
  | .quotaWindowClear key => Sys2Proof.Machine.execQuotaWindowClear key s
  | .inject a p l n => Sys2Proof.Machine.execInject a p l n s
  | .vend a p n => Sys2Proof.Machine.execVend a p n s
  | .rdout r a p n => Sys2Proof.Machine.execRdout r a p n s
  | .accrst a p j => Sys2Proof.Machine.execAccrst a p j s
  | .rdacc r a p j => Sys2Proof.Machine.execRdacc r a p j s
  | .vbind a p n => Sys2Proof.Machine.execVbind a p n s
  | .rmark a p => Sys2Proof.Machine.execRmark a p s
  | .wcommit r a p => Sys2Proof.Machine.execWcommit r a p s
  | .fencePl a p => Sys2Proof.Machine.execFencePl a p s
  | .fenceRg a p => Sys2Proof.Machine.execFenceRg a p s
  | .fencePt a p => Sys2Proof.Machine.execFencePt a p s
  | .fenceSy a p => Sys2Proof.Machine.execFenceSy a p s
  | .drainDm a p => Sys2Proof.Machine.execDrainDm a p s
  | .drainSp a p => Sys2Proof.Machine.execDrainSp a p s
  | .drainHm a p => Sys2Proof.Machine.execDrainHm a p s
  | .drainCf a p => Sys2Proof.Machine.execDrainCf a p s
  | .kwr a p => Sys2Proof.Machine.execKwr a p s
  | .copy r a p n => Sys2Proof.Machine.execCopy r a p n s
  | .sbind r a p n => Sys2Proof.Machine.execSbind r a p n s
  | .aflush r a p n => Sys2Proof.Machine.execAflush r a p n s
  | .amoAddCmd r a p n => Sys2Proof.Machine.execAmoAddCmd r a p n s
  | .amoMinCmd r a p n => Sys2Proof.Machine.execAmoMinCmd r a p n s
  | .amoMaxCmd r a p n => Sys2Proof.Machine.execAmoMaxCmd r a p n s
  | .amoAndCmd r a p n => Sys2Proof.Machine.execAmoAndCmd r a p n s
  | .amoOrCmd r a p n => Sys2Proof.Machine.execAmoOrCmd r a p n s
  | .amoXorCmd r a p n => Sys2Proof.Machine.execAmoXorCmd r a p n s
  | .amoXchgCmd r a p n => Sys2Proof.Machine.execAmoXchgCmd r a p n s
  | .amoCasCmd r a p n => Sys2Proof.Machine.execAmoCasCmd r a p n s
  | .swap r a p => Sys2Proof.Machine.execSwap r a p s
  | .revoke r a p => Sys2Proof.Machine.execRevoke r a p s
  | .relend r a p => Sys2Proof.Machine.execRelend r a p s
  | .lease r a p => Sys2Proof.Machine.execLease r a p s
  | .leaseEnd a p => Sys2Proof.Machine.execLeaseEnd a p s
  | .launch r a p => Sys2Proof.Machine.execLaunch r a p s
  | .xinvVa a p => Sys2Proof.Machine.execXinvVa a p s
  | .xinvFn a p => Sys2Proof.Machine.execXinvFn a p s
  | .xinvPart a p => Sys2Proof.Machine.execXinvPart a p s
  | .eventTrap core => Sys2Proof.Machine.execEventTrap core s
  | .timerEvent core => Sys2Proof.Machine.execTimerEvent core s
  | .registerFill idx => Sys2Proof.Machine.execRegisterFill idx s
  | .sinkArrival core sel => Sys2Proof.Machine.execSinkArrival core sel s
  | .vinPortEmit core port => Sys2Proof.Machine.execVinPortEmit core port s
  | .vaddF w => Sys2Proof.Machine.execVaddF w s
  | .vsubF w => Sys2Proof.Machine.execVsubF w s
  | .vmulF w => Sys2Proof.Machine.execVmulF w s
  | .vfma w => Sys2Proof.Machine.execVfma w s
  | .vfms w => Sys2Proof.Machine.execVfms w s
  | .vfnma w => Sys2Proof.Machine.execVfnma w s
  | .vminF w => Sys2Proof.Machine.execVminF w s
  | .vmaxF w => Sys2Proof.Machine.execVmaxF w s
  | .vabsF w => Sys2Proof.Machine.execVabsF w s
  | .vnegF w => Sys2Proof.Machine.execVnegF w s
  | .vrnd w => Sys2Proof.Machine.execVrnd w s
  | .vaddI w => Sys2Proof.Machine.execVaddI w s
  | .vsubI w => Sys2Proof.Machine.execVsubI w s
  | .vmulI w => Sys2Proof.Machine.execVmulI w s
  | .vmac w => Sys2Proof.Machine.execVmac w s
  | .vminI w => Sys2Proof.Machine.execVminI w s
  | .vmaxI w => Sys2Proof.Machine.execVmaxI w s
  | .vabsI w => Sys2Proof.Machine.execVabsI w s
  | .vnegI w => Sys2Proof.Machine.execVnegI w s
  | .vshl w => Sys2Proof.Machine.execVshl w s
  | .vshr w => Sys2Proof.Machine.execVshr w s
  | .vsra w => Sys2Proof.Machine.execVsra w s
  | .vand w => Sys2Proof.Machine.execVand w s
  | .vor w => Sys2Proof.Machine.execVor w s
  | .vxor w => Sys2Proof.Machine.execVxor w s
  | .vandn w => Sys2Proof.Machine.execVandn w s
  | .vcadd w => Sys2Proof.Machine.execVcadd w s
  | .vcsub w => Sys2Proof.Machine.execVcsub w s
  | .vcmul w => Sys2Proof.Machine.execVcmul w s
  | .vcmac w => Sys2Proof.Machine.execVcmac w s
  | .vcmulc w => Sys2Proof.Machine.execVcmulc w s
  | .vcmacc w => Sys2Proof.Machine.execVcmacc w s
  | .vconj w => Sys2Proof.Machine.execVconj w s
  | .vcshr w => Sys2Proof.Machine.execVcshr w s
  | .vcrot w => Sys2Proof.Machine.execVcrot w s
  | .vcmpeq w => Sys2Proof.Machine.execVcmpeq w s
  | .vcmpne w => Sys2Proof.Machine.execVcmpne w s
  | .vcmplt w => Sys2Proof.Machine.execVcmplt w s
  | .vcmple w => Sys2Proof.Machine.execVcmple w s
  | .vcmpgt w => Sys2Proof.Machine.execVcmpgt w s
  | .vcmpge w => Sys2Proof.Machine.execVcmpge w s
  | .vsel w => Sys2Proof.Machine.execVsel w s
  | .vclamp w => Sys2Proof.Machine.execVclamp w s
  | .vcvt w => Sys2Proof.Machine.execVcvt w s
  | .vsclL w => Sys2Proof.Machine.execVsclL w s
  | .vsclI w => Sys2Proof.Machine.execVsclI w s
  | .vhdrF w => Sys2Proof.Machine.execVhdrF w s
  | .vhdrS w => Sys2Proof.Machine.execVhdrS w s
  | .vrcp w => Sys2Proof.Machine.execVrcp w s
  | .vrsqrt w => Sys2Proof.Machine.execVrsqrt w s
  | .vexp2 w => Sys2Proof.Machine.execVexp2 w s
  | .vlog2 w => Sys2Proof.Machine.execVlog2 w s
  | .vrsum w => Sys2Proof.Machine.execVrsum w s
  | .vrmax w => Sys2Proof.Machine.execVrmax w s
  | .vrmin w => Sys2Proof.Machine.execVrmin w s
  | .vrdot w => Sys2Proof.Machine.execVrdot w s
  | .vrep w => Sys2Proof.Machine.execVrep w s
  | .vperm w => Sys2Proof.Machine.execVperm w s
  | .vperm2 w => Sys2Proof.Machine.execVperm2 w s
  | .vrot w => Sys2Proof.Machine.execVrot w s
  | .vzipl w => Sys2Proof.Machine.execVzipl w s
  | .vziph w => Sys2Proof.Machine.execVziph w s
  | .vuzpe w => Sys2Proof.Machine.execVuzpe w s
  | .vuzpo w => Sys2Proof.Machine.execVuzpo w s
  | .vins w => Sys2Proof.Machine.execVins w s
  | .vext w => Sys2Proof.Machine.execVext w s
  | .vbitrev w => Sys2Proof.Machine.execVbitrev w s
  | .vbfly w => Sys2Proof.Machine.execVbfly w s
  | .vbflyt w => Sys2Proof.Machine.execVbflyt w s
  | .mload w => Sys2Proof.Machine.execMload w s
  | .mzero w => Sys2Proof.Machine.execMzero w s
  | .mband w => Sys2Proof.Machine.execMband w s
  | .mdrain w => Sys2Proof.Machine.execMdrain w s
  | .mstat w => Sys2Proof.Machine.execMstat w s
  | .mmaBf16 w => Sys2Proof.Machine.execMmaBf16 w s
  | .mmaFp16 w => Sys2Proof.Machine.execMmaFp16 w s
  | .mmaFp8 w => Sys2Proof.Machine.execMmaFp8 w s
  | .mmaFp4 w => Sys2Proof.Machine.execMmaFp4 w s
  | .mmaI8 w => Sys2Proof.Machine.execMmaI8 w s
  | .pass w => Sys2Proof.Machine.execPass w s
  | .drop w => Sys2Proof.Machine.execDrop w s
  | .delay w => Sys2Proof.Machine.execDelay w s
  | .steer w => Sys2Proof.Machine.execSteer w s
  | .filt w => Sys2Proof.Machine.execFilt w s
  | .repl w => Sys2Proof.Machine.execRepl w s
  | .mergeO w => Sys2Proof.Machine.execMergeO w s
  | .mergeC w => Sys2Proof.Machine.execMergeC w s
  | .mergeU w => Sys2Proof.Machine.execMergeU w s
  | .joinLt w => Sys2Proof.Machine.execJoinLt w s
  | .joinEq w => Sys2Proof.Machine.execJoinEq w s
  | .joinGt w => Sys2Proof.Machine.execJoinGt w s
  | .cnt w => Sys2Proof.Machine.execCnt w s
  | .lastm w => Sys2Proof.Machine.execLastm w s
  | .tagset w => Sys2Proof.Machine.execTagset w s
  | .tagchk w => Sys2Proof.Machine.execTagchk w s
  | .cmpx w => Sys2Proof.Machine.execCmpx w s
  | .accRst w => Sys2Proof.Machine.execAccRst w s
  | .lsld w => Sys2Proof.Machine.execLsld w s
  | .lsst w => Sys2Proof.Machine.execLsst w s
  | .ldSlot w => Sys2Proof.Machine.execLdSlot w s
  | .stSlot w => Sys2Proof.Machine.execStSlot w s
  | .gather w => Sys2Proof.Machine.execGather w s
  | .scatter w => Sys2Proof.Machine.execScatter w s
  | .amoAddSlot w => Sys2Proof.Machine.execAmoAddSlot w s
  | .amoMinSlot w => Sys2Proof.Machine.execAmoMinSlot w s
  | .amoMaxSlot w => Sys2Proof.Machine.execAmoMaxSlot w s
  | .amoAndSlot w => Sys2Proof.Machine.execAmoAndSlot w s
  | .amoOrSlot w => Sys2Proof.Machine.execAmoOrSlot w s
  | .amoXorSlot w => Sys2Proof.Machine.execAmoXorSlot w s
  | .amoXchgSlot w => Sys2Proof.Machine.execAmoXchgSlot w s
  | .amoCasSlot w => Sys2Proof.Machine.execAmoCasSlot w s
  | .osecB w => Sys2Proof.Machine.execOsecB w s
  | .osecE w => Sys2Proof.Machine.execOsecE w s
  | .fenceM w => Sys2Proof.Machine.execFenceM w s
  | .hrecv w => Sys2Proof.Machine.execHrecv w s
  | .hacc w => Sys2Proof.Machine.execHacc w s
  | .flres w => Sys2Proof.Machine.execFlres w s
  | .sectionRetire key plane dom => Sys2Proof.Machine.execSectionRetire key plane dom s
  | .domainSequence key plane dom => Sys2Proof.Machine.execDomainSequence key plane dom s
  | .bankAccept key bank => Sys2Proof.Machine.execBankAccept key bank s
  | .bounceArrival key sel => Sys2Proof.Machine.execBounceArrival key sel s
  | .creditSend key idx => Sys2Proof.Machine.execCreditSend key idx s
  | .creditArrival idx => Sys2Proof.Machine.execCreditArrival idx s
  | .tokenArrival key sel => Sys2Proof.Machine.execTokenArrival key sel s
  | .switchRoute key wide dir src => Sys2Proof.Machine.execSwitchRoute key wide dir src s
  | .permitReturn key sel => Sys2Proof.Machine.execPermitReturn key sel s
  | .burstHeaderArrival key sel => Sys2Proof.Machine.execBurstHeaderArrival key sel s
  | .streamAccess key => Sys2Proof.Machine.execStreamAccess key s
  | .streamReadReturn key idx => Sys2Proof.Machine.execStreamReadReturn key idx s
  | .walk die idx => Sys2Proof.Machine.execWalk die idx s
  | .refillReturn die idx => Sys2Proof.Machine.execRefillReturn die idx s
  | .invalidationComplete part idx => Sys2Proof.Machine.execInvalidationComplete part idx s
  | .earlyEdgeRequest key plane => Sys2Proof.Machine.execEarlyEdgeRequest key plane s
  | .roundEntry key plane => Sys2Proof.Machine.execRoundEntry key plane s
  | .endMark key plane => Sys2Proof.Machine.execEndMark key plane s
  | .nonedgeSignal rid plane => Sys2Proof.Machine.execNonedgeSignal rid plane s
  | .roundCommit rid plane => Sys2Proof.Machine.execRoundCommit rid plane s
  | .roundDiscard rid => Sys2Proof.Machine.execRoundDiscard rid s
  | .gateSignalArrival key => Sys2Proof.Machine.execGateSignalArrival key s
  | .replay rid => Sys2Proof.Machine.execReplay rid s
  | .timingError key => Sys2Proof.Machine.execTimingError key s
  | .breakpointStop key plane slot => Sys2Proof.Machine.execBreakpointStop key plane slot s
  | .quiesceDetect rid plane => Sys2Proof.Machine.execQuiesceDetect rid plane s
  | .retirementSweep rid plane => Sys2Proof.Machine.execRetirementSweep rid plane s
  | .launchFetch part fn q => Sys2Proof.Machine.execLaunchFetch part fn q s
  | .schedulerDecision part => Sys2Proof.Machine.execSchedulerDecision part s
  | .batchPromotion part idx => Sys2Proof.Machine.execBatchPromotion part idx s
  | .planeLoadFrame idx => Sys2Proof.Machine.execPlaneLoadFrame idx s
  | .startTokenArrival core => Sys2Proof.Machine.execStartTokenArrival core s
  | .revokeArrival key plane => Sys2Proof.Machine.execRevokeArrival key plane s
  | .relendArrival key plane => Sys2Proof.Machine.execRelendArrival key plane s
  | .lendWithdraw rid => Sys2Proof.Machine.execLendWithdraw rid s
  | .distributorSend key plane => Sys2Proof.Machine.execDistributorSend key plane s
  | .stageSample key plane => Sys2Proof.Machine.execStageSample key plane s
  | .preemption rid => Sys2Proof.Machine.execPreemption rid s
  | .restoreSavedLaunch part idx => Sys2Proof.Machine.execRestoreSavedLaunch part idx s
  | .scrubComplete part => Sys2Proof.Machine.execScrubComplete part s
  | .auditVisit core row => Sys2Proof.Machine.execAuditVisit core row s
  | .patrolRead kind addr found => Sys2Proof.Machine.execPatrolRead kind addr found s
  | .spineStep n => Sys2Proof.Machine.execSpineStep n s
  | .droopStretch core => Sys2Proof.Machine.execDroopStretch core s
  | .leaseRevoke => Sys2Proof.Machine.execLeaseRevoke s
  | .partset pf => Sys2Proof.Machine.execPartset pf s
  | .getinfo pf => Sys2Proof.Machine.execGetinfo pf s
  | .getfail pf => Sys2Proof.Machine.execGetfail pf s
  | .spineset pf => Sys2Proof.Machine.execSpineset pf s
  | .fwstage pf => Sys2Proof.Machine.execFwstage pf s
  | .svnlock pf => Sys2Proof.Machine.execSvnlock pf s
  | .ownerkey pf => Sys2Proof.Machine.execOwnerkey pf s
  | .attest pf => Sys2Proof.Machine.execAttest pf s
  | .devreset pf => Sys2Proof.Machine.execDevreset pf s
  | .mailboxUnknownOp pf => Sys2Proof.Machine.execMailboxUnknownOp pf s
  | .prstReq part => Sys2Proof.Machine.execPrstReq part s
  | .prstRel part => Sys2Proof.Machine.execPrstRel part s
  | .watchdogExpiry part => Sys2Proof.Machine.execWatchdogExpiry part s
  | .partitionBootDone part => Sys2Proof.Machine.execPartitionBootDone part s
  | .powerUp => Sys2Proof.Machine.execPowerUp s
  | .powerClockFault => Sys2Proof.Machine.execPowerClockFault s
  | .xinvCmdVa part v => Sys2Proof.Machine.execXinvCmdVa part v s
  | .xinvCmdFn part v => Sys2Proof.Machine.execXinvCmdFn part v s
  | .xinvCmdPart part v => Sys2Proof.Machine.execXinvCmdPart part v s
  | .xinvCmdReserved part v => Sys2Proof.Machine.execXinvCmdReserved part v s
  | .lqdbWrite part fn q tail => Sys2Proof.Machine.execLqdbWrite part fn q tail s
  | .lqerrClear part fn q => Sys2Proof.Machine.execLqerrClear part fn q s
  | .evdbWrite part fn e v => Sys2Proof.Machine.execEvdbWrite part fn e v s
  | .rcmdResume part page v => Sys2Proof.Machine.execRcmdResume part page v s
  | .rcmdAbort part page v => Sys2Proof.Machine.execRcmdAbort part page v s
  | .rcmdPurge part page v => Sys2Proof.Machine.execRcmdPurge part page v s
  | .rcmdSave part page v => Sys2Proof.Machine.execRcmdSave part page v s
  | .rcmdRefusedOp part page v => Sys2Proof.Machine.execRcmdRefusedOp part page v s
  | .plcmdWrite part v => Sys2Proof.Machine.execPlcmdWrite part v s
  | .configSpaceWrite req core addr v => Sys2Proof.Machine.execConfigSpaceWrite req core addr v s
  | .coreWindowCsrWrite req core csr v => Sys2Proof.Machine.execCoreWindowCsrWrite req core csr v s
  | .ccstatResume req core => Sys2Proof.Machine.execCcstatResume req core s
  | .dtsetWrite v => Sys2Proof.Machine.execDtsetWrite v s
  | .dtadjWrite v => Sys2Proof.Machine.execDtadjWrite v s
  | .dtfreqWrite v => Sys2Proof.Machine.execDtfreqWrite v s
  | .ppsinEdge => Sys2Proof.Machine.execPpsinEdge s
  | .registerWrite req off size v => Sys2Proof.Machine.execRegisterWrite req off size v s
  | .cxlMemRead part off => Sys2Proof.Machine.execCxlMemRead part off s
  | .cxlMemWrite part off mask v => Sys2Proof.Machine.execCxlMemWrite part off mask v s
  | .peerInboundAccess part write off mask v => Sys2Proof.Machine.execPeerInboundAccess part write off mask v s
  | .backInvalidate addr => Sys2Proof.Machine.execBackInvalidate addr s
  | .getVersion pf => Sys2Proof.Machine.execGetVersion pf s
  | .getCapabilities pf => Sys2Proof.Machine.execGetCapabilities pf s
  | .negotiateAlgorithms pf algs => Sys2Proof.Machine.execNegotiateAlgorithms pf algs s
  | .getDigests pf => Sys2Proof.Machine.execGetDigests pf s
  | .getCertificate pf off len => Sys2Proof.Machine.execGetCertificate pf off len s
  | .challenge pf nonce => Sys2Proof.Machine.execChallenge pf nonce s
  | .getMeasurements pf index nonce => Sys2Proof.Machine.execGetMeasurements pf index nonce s
  | .deviceTimePeriod => Sys2Proof.Machine.execDeviceTimePeriod s
  | .ppscapRead => Sys2Proof.Machine.execPpscapRead s
  | .vfEnableWrite pf n en => Sys2Proof.Machine.execVfEnableWrite pf n en s
  | .hdmDecoderCommit pf => Sys2Proof.Machine.execHdmDecoderCommit pf s
  | .powerDown => Sys2Proof.Machine.execPowerDown s

end Sys2Proof.Machine
end

