-- ==== Sys2Proof/Machine/Upset.lean ====
section
/-! DEFINITION. Errors that come into stored words, as the accesses and checks find them (21 R470-R473, R476; log 29). -/

namespace Sys2Proof.Machine

/-- A list of word numbers with one more. -/
def markWord (l : List Nat) (w : Nat) : List Nat := if l.contains w then l else w :: l

/-- A correction in a partition's SRAM is counted (R471, R477). -/
def sramCorrected (s : State) (core : Nat) : State := match corePart s.hub core with
  | none => s
  | some p => { s with hub := rasAdd s.hub p 4 1 }

/-- A double-bit error in a token's word, or a flipped data bit that its CHECK shows (R470, R471). -/
def tokUpset (found bit : Nat) (t : Token) : Token :=
  if found = 2 then { t with bad := true } else if found = 3 then { t with data := t.data ^^^ BitVec.ofNat 512 (2 ^ (bit % 512)) } else t

/-- A memory byte with a bit flipped. -/
def bitFlip (m : Mem) (word bit : Nat) : Mem := mputN m (8 * word) 8 (Nat.xor (mgetN m (8 * word) 8) (2 ^ (bit % 64)))

/-- What an error does to a place of an element, beside a correction (R470-R472). -/
def elemUpset (at_ : UpsetAt) (found bit : Nat) (e : Elem) : Elem :=
  match at_ with
  | .bank _ word =>
    if found = 2 then { e with mt := { e.mt with bad := markWord e.mt.bad word } }
    else if found = 3 then { e with mt := { e.mt with data := bitFlip e.mt.data word bit } } else e
  | .lstore _ word => if found = 2 then { e with ct := { e.ct with bad := markWord e.ct.bad word } } else e
  | .reg _ plane sel word => if found = 2 ∧ !e.badReg.contains (plane, sel, word) then { e with badReg := (plane, sel, word) :: e.badReg } else e
  | .queue _ sel pos =>
    { e with net := { e.net with rx := e.net.rx.map fun q => (q.1, if q.1 = sel then lmod q.2 pos (tokUpset found bit) else q.2) } }
  | .wire _ sel pos =>
    { e with net := { e.net with wire := e.net.wire.map fun q => (q.1, if q.1 = sel then lmod q.2 pos (tokUpset found bit) else q.2) } }
  | .replay _ pos => { e with ag := { e.ag with replay := lmod e.ag.replay pos fun q => (q.1, q.2.1, q.2.2.1, tokUpset found bit q.2.2.2) } }
  | .firn _ pos => if found = 2 then { e with firn := lmod e.firn pos fun x => { x with bad := true } } else e
  | .journal _ bank pos =>
    if found ≠ 2 then e
    else if bank = 6 then { e with ct := { e.ct with jr := lmod e.ct.jr pos fun j => { j with bad := true } } }
    else { e with mt := { e.mt with jr := e.mt.jr.map fun b => (b.1, if b.1 = bank then lmod b.2 pos (fun j => { j with bad := true }) else b.2) } }
  | .hold _ pos => { e with ag := { e.ag with hold := lmod e.ag.hold pos fun h =>
      if found = 2 then { h with bad := true }
      else if found = 3 then { h with data := h.data ^^^ BitVec.ofNat 512 (2 ^ (bit % 512)) } else h } }
  | .frame _ plane n => modPlane e plane fun p => { p with bad := markWord p.bad n }
  | .route _ plane => { e with net := { e.net with badRoutes := markWord e.net.badRoutes plane } }
  | .coreWord _ _ | .walker _ _ | .line _ | .hub => e

/-- The element of a place, and whether its words have a parity bit alone, which corrects nothing (R472). -/
def upsetElem : UpsetAt → Option (Nat × Bool)
  | .bank key _ | .lstore key _ | .reg key _ _ _ | .queue key _ _ | .wire key _ _ | .replay key _ | .firn key _ | .journal key _ _ | .hold key _ => some (key, false)
  | .frame key _ _ | .route key _ => some (key, true)
  | .coreWord _ _ | .walker _ _ | .line _ | .hub => none

/-- An error comes into a word: found 1 a bit that its access corrects and counts, 2 two bits, 3 a data bit that only the check value over the data
shows (R470-R473). A configuration or route frame takes any error, as parity shows it; a correction in the hub's own SRAM is counted for the device
alone (R476). -/
def upset (at_ : UpsetAt) (found bit : Nat) (s : State) : State :=
  match upsetElem at_ with
  | some (key, parity) =>
    if 6400 ≤ key then s
    else if found = 1 ∧ !parity then sramCorrected s (keyCore key) else { s with fab := modElem s.fab key (elemUpset at_ found bit) }
  | none => match at_ with
    | .coreWord core word =>
      if found = 1 then sramCorrected s core
      else if found = 2 then { s with fab := modCc s.fab core fun c => { c with bad := markWord c.bad word } } else s
    | .walker die pos =>
      let k := tget {} s.mem.walkers die
      let n := k.leaves.length
      match (k.leaves ++ k.tables)[pos]? with
      | none => s
      | some x =>
        if found = 1 then { s with hub := rasAdd s.hub x.part 4 1 }
        else if found = 2 then
          let mark (e : TEnt) : TEnt := { e with bad := true }
          let k : Walker := { k with leaves := lmod k.leaves pos mark, tables := if pos < n then k.tables else lmod k.tables (pos - n) mark }
          { s with mem := { s.mem with walkers := tins s.mem.walkers die k } }
        else s
    | .line pa =>
      if !inHbm pa then s
      else if found = 1 then { s with hub := rasAdd s.hub (tget 0xFF s.mem.owner (groupOf pa)) 3 1 }
      else { s with mem := lineError s.mem pa found }
    | _ => if found = 1 then { s with hub := { s.hub with corrected := s.hub.corrected + 1 } } else s

end Sys2Proof.Machine
end

