-- ==== Sys2Proof/WellFormed.lean ====
section
/-! DEFINITION. The well-formed instructions: control-core words with every field as the table has it, slots that pass the load
checks (08 R217, R228-R236), and events whose places exist in the machine (00 R5-R8, 01 R40). -/

namespace Sys2Proof

/-- The word is assigned by no row (08 R212, R247). -/
def unassigned (w : BitVec 32) : Bool :=
  match decodeWord w.toNat with
  | .illegalInstruction _ => true
  | _ => false

/-- A requester that exists: a physical function or one of its 16 virtual functions, software of a partition, its management
processor (01 R26-R28). -/
def Requester.wf (r : Requester) : Bool :=
  match r with
  | .host pf vf => decide (pf < 4 ∧ vf ≤ 16)
  | .agent p => decide (p < 4)
  | .mgmt p => decide (p < 4)

/-- An element of the device (00 R5-R7). -/
def keyWf (key : Nat) : Bool := decide (key < 6400)

/-- A selector of an input queue (08 R230). -/
def inSelWf (sel : Nat) : Bool := decide (0x20 ≤ sel ∧ sel < 0x30) || decide (0x40 ≤ sel ∧ sel < 0x48)

/-- An input queue of an element. -/
def linkWf (key sel : Nat) : Bool := keyWf key && inSelWf sel

/-- A well-formed event or host action: every place it names exists. -/
def eventWf (i : Instr) : Bool :=
  match i with
  | .eventTrap core => decide (core < 64)
  | .timerEvent core => decide (core < 64)
  | .registerFill _ => true
  | .sinkArrival core sel => decide (core < 64) && decide (0x40 ≤ sel ∧ sel < 0x48)
  | .vinPortEmit core port => decide (core < 64 ∧ port < 16)
  | .sectionRetire key plane dom => keyWf key && decide (plane < 4 ∧ dom < 4)
  | .domainSequence key plane dom => keyWf key && decide (plane < 4 ∧ dom < 4)
  | .bankAccept key bank => keyWf key && decide (bank < 6)
  | .bounceArrival key sel => linkWf key sel
  | .creditSend key _ => keyWf key
  | .creditArrival _ => true
  | .quotaWindowClear key => keyWf key
  | .tokenArrival key sel => linkWf key sel
  | .switchRoute key wide dir src => keyWf key && decide (dir < 4 ∧ 0x20 ≤ src ∧ src < 0x50) && decide (src < 0x40) == wide
  | .permitReturn key sel => linkWf key sel
  | .burstHeaderArrival key sel => linkWf key sel
  | .streamAccess key => keyWf key
  | .streamReadReturn key _ => keyWf key
  | .walk die _ => decide (die < 4)
  | .refillReturn die _ => decide (die < 4)
  | .invalidationComplete part _ => decide (part < 4)
  | .earlyEdgeRequest key plane => keyWf key && decide (plane < 4)
  | .roundEntry key plane => keyWf key && decide (plane < 4)
  | .endMark key plane => keyWf key && decide (plane < 4)
  | .nonedgeSignal _ plane => decide (plane < 4)
  | .roundCommit _ plane => decide (plane < 4)
  | .roundDiscard _ => true
  | .gateSignalArrival key => keyWf key
  | .replay _ => true
  | .timingError key => keyWf key
  | .breakpointStop key plane slot => keyWf key && decide (plane < 4 ∧ slot < 16)
  | .quiesceDetect _ plane => decide (plane < 4)
  | .retirementSweep _ plane => decide (plane < 4)
  | .launchFetch part fn q => decide (part < 4 ∧ fn ≤ 16 ∧ q ≤ 8)
  | .schedulerDecision part => decide (part < 4)
  | .batchPromotion part _ => decide (part < 4)
  | .planeLoadFrame _ => true
  | .startTokenArrival core => decide (core < 64)
  | .swapCheck _ => true
  | .swapTick _ => true
  | .revokeArrival key plane => keyWf key && decide (plane < 4)
  | .relendArrival key plane => keyWf key && decide (plane < 4)
  | .lendWithdraw _ => true
  | .distributorSend key plane => keyWf key && decide (plane < 4)
  | .stageSample key plane => keyWf key && decide (plane < 4)
  | .preemption _ => true
  | .restoreSavedLaunch part _ => decide (part < 4)
  | .scrubComplete part => decide (part < 4)
  | .auditVisit core row => decide (core < 64 ∧ row < 10)
  | .patrolRead _ _ _ => true
  | .spineStep n => decide (n < 8)
  | .droopStretch core => decide (core < 64)
  | .bucketRefill _ => true
  | .leaseExpiry _ => true
  | .leaseRevoke => true
  | .notbeforeReached part _ => decide (part < 4)
  | .partset pf => decide (pf < 4)
  | .getinfo pf => decide (pf < 4)
  | .getfail pf => decide (pf < 4)
  | .spineset pf => decide (pf < 4)
  | .fwstage pf => decide (pf < 4)
  | .svnlock pf => decide (pf < 4)
  | .ownerkey pf => decide (pf < 4)
  | .attest pf => decide (pf < 4)
  | .devreset pf => decide (pf < 4)
  | .mailboxUnknownOp pf => decide (pf < 4)
  | .prstReq part => decide (part < 4)
  | .prstRel part => decide (part < 4)
  | .watchdogExpiry part => decide (part < 4)
  | .partitionBootDone part => decide (part < 4)
  | .powerUp => true
  | .powerClockFault => true
  | .xinvCmdVa part v => decide (part < 4 ∧ v.toNat / 2 ^ 62 = 0)
  | .xinvCmdFn part v => decide (part < 4 ∧ v.toNat / 2 ^ 62 = 1)
  | .xinvCmdPart part v => decide (part < 4 ∧ v.toNat / 2 ^ 62 = 2)
  | .xinvCmdReserved part v => decide (part < 4 ∧ v.toNat / 2 ^ 62 = 3)
  | .lqdbWrite part fn q _ => decide (part < 4 ∧ fn ≤ 16 ∧ q < 8)
  | .lqerrClear part fn q => decide (part < 4 ∧ fn ≤ 16 ∧ q < 8)
  | .evdbWrite part fn e _ => decide (part < 4 ∧ fn ≤ 16 ∧ e < 64)
  | .rcmdResume part page v => decide (part < 4 ∧ page ≤ 16 ∧ v.toNat / 2 ^ 60 = 1)
  | .rcmdAbort part page v => decide (part < 4 ∧ page ≤ 16 ∧ v.toNat / 2 ^ 60 = 2)
  | .rcmdPurge part page v => decide (part < 4 ∧ page ≤ 16 ∧ v.toNat / 2 ^ 60 = 3)
  | .rcmdSave part page v => decide (part < 4 ∧ page ≤ 16 ∧ v.toNat / 2 ^ 60 = 4)
  | .rcmdRefusedOp part page v => decide (part < 4 ∧ page ≤ 16 ∧ (v.toNat / 2 ^ 60 = 0 ∨ 5 ≤ v.toNat / 2 ^ 60))
  | .plcmdWrite part _ => decide (part < 4)
  | .configSpaceWrite req core addr _ => req.wf && decide (core < 64 ∧ addr < 2 ^ 28)
  | .coreWindowCsrWrite req core csr _ => req.wf && decide (core < 64 ∧ csr < 4096)
  | .ccstatResume req core => req.wf && decide (core < 64)
  | .dtsetWrite _ => true
  | .dtadjWrite _ => true
  | .dtfreqWrite _ => true
  | .ppsinEdge => true
  | .registerWrite req off size _ => req.wf && decide (off < 0x1800000000) && (size == 4 || size == 8)
  | .cxlMemRead part _ => decide (part < 4)
  | .cxlMemWrite part _ _ _ => decide (part < 4)
  | .peerInboundAccess part _ _ _ _ => decide (part < 4)
  | .backInvalidate _ => true
  | .getVersion pf => decide (pf < 4)
  | .getCapabilities pf => decide (pf < 4)
  | .negotiateAlgorithms pf _ => decide (pf < 4)
  | .getDigests pf => decide (pf < 4)
  | .getCertificate pf _ _ => decide (pf < 4)
  | .challenge pf _ => decide (pf < 4)
  | .getMeasurements pf _ _ => decide (pf < 4)
  | .deviceTimePeriod => true
  | .ppscapRead => true
  | .vfEnableWrite pf n _ => decide (pf < 4 ∧ n < 65536)
  | .hdmDecoderCommit pf => decide (pf < 4)
  | .powerDown => true
  | _ => false

/-- A well-formed instruction. -/
def Instr.wf (i : Instr) : Bool :=
  match Machine.slotParts i with
  | some (op, w) => Machine.slotWf op w
  | none => match i with
    | .illegalInstruction w => unassigned w
    | .inject _ _ l _ => l != 7
    | _ => (encodeWord i).isSome || eventWf i

end Sys2Proof
end

