-- ==== Sys2Proof/Machine/Act.lean ====
section
/-! DEFINITION. What an action does: a control core executes at its PC (01 R33, 09 R251, R267, R269), an arbiter chooses a slot and it
issues (14 R401), an event takes place, a tile cycle begins. An action whose condition does not hold does nothing (log 25). -/

namespace Sys2Proof.Machine

/-! ### Control cores -/

/-- The core executes: started, neither halted nor stopped, its clock running (R273-R275). -/
def coreRuns (s : State) (n : Nat) : Bool :=
  decide (n < 64) && (ccOf s.fab n).started && decide ((ccOf s.fab n).state.toNat < 2) && !(elemOf s.fab (100 * n)).gated

/-- The four bytes at the PC of a core (R33). -/
def pcBytes (s : State) (n : Nat) : List Byte :=
  let c := ccOf s.fab n
  (List.range 4).map fun i => mget c.isram (c.pc.toNat + i)

/-- A fetch and the instruction it decodes to; MISALIGN at an unaligned PC (R33); a word with an uncorrectable error is not executed (R471; log
29). -/
def coreFetch (s : State) : Out :=
  let n := s.site.core
  let pc := (ccOf s.fab n).pc
  if pc.toNat % 4 ≠ 0 then ccFinish s (.trap 0 3 (pc.setWidth 64))
  else if (ccOf s.fab n).bad.contains (pc.toNat / 8) then ccFinish s (.lost { s with fab := coreUncorr s.fab n })
  else match decodeBytes (pcBytes s n) with
    | .instr i _ => exec i s
    | .tooFewBytes => .next s

/-- A control core's turn: its timer event and its event trap come first, between instructions (R267, R269). -/
def coreAct (n : Nat) (s : State) : Out :=
  if !coreRuns s n then .next s
  else if timerDue s n then execTimerEvent n s
  else if eventDue (ccOf s.fab n) then execEventTrap n s
  else coreFetch { s with site := { core := n } }

/-! ### Slots (R401) -/

/-- A slot that some class would issue now and whose breakpoint takes effect: while there is one, nothing of the tile cycle issues (R425). -/
def breakNow (f : Fab) (key : Nat) : Option (Nat × Nat) :=
  allClasses.findSome? fun c => (chooseSlot f key c).filter fun q => brkDue (elemOf f key) key q.1 q.2

/-- A class of an element issues the slot it chooses, unless a breakpoint stops the cycle (R401, R425). -/
def issueAct (key : Nat) (cls : IssueClass) (s : State) : Out :=
  match breakNow s.fab key, chooseSlot s.fab key cls with
  | some (plane, n), _ => execBreakpointStop key plane n s
  | none, none => .next s
  | none, some (plane, n) =>
    let e := elemOf s.fab key
    match decodeSlot (slotWordOf (planeOf e plane) n) with
      | some i =>
        let site : Site := { core := keyCore key, key := key, plane := plane, slot := n }
        exec i { s with site := site }
      | none => .next s

/-! ### Energy accounts (22 R486) -/

/-- The account of what has no partition. -/
def overheadAccount : Nat := 4

/-- The account of work in a core: the partition of its region's launch; outside a region, of the core. -/
def coreAccount (s : State) (core : Nat) : Nat := match regionOf s.fab core with
  | some (_, r) => r.launch.part
  | none => (corePart s.hub core).getD overheadAccount

/-- The account of work of a region. -/
def ridAccount (s : State) (rid : Nat) : Nat := ((region? s.fab rid).map fun r => r.launch.part).getD overheadAccount

/-- The account that R486 charges an event to: the partition of the launch, of the requester or the owner of the memory; OVERHEAD for the rest. -/
def eventAccount (s : State) (i : Instr) : Nat :=
  match i with
  | .eventTrap core | .timerEvent core | .sinkArrival core _ | .vinPortEmit core _ | .startTokenArrival core => coreAccount s core
  | .sectionRetire key _ _ | .domainSequence key _ _ | .bankAccept key _ | .bounceArrival key _ | .creditSend key _ | .quotaWindowClear key
  | .tokenArrival key _ | .switchRoute key _ _ _ | .permitReturn key _ | .burstHeaderArrival key _ | .streamAccess key | .streamReadReturn key _
  | .earlyEdgeRequest key _ | .roundEntry key _ | .endMark key _ | .gateSignalArrival key | .timingError key | .breakpointStop key _ _
  | .revokeArrival key _ | .relendArrival key _ | .distributorSend key _ | .stageSample key _ => coreAccount s (keyCore key)
  | .nonedgeSignal rid _ | .roundCommit rid _ | .roundDiscard rid | .replay rid | .quiesceDetect rid _ | .retirementSweep rid _ | .swapCheck rid
  | .swapTick rid | .lendWithdraw rid | .preemption rid => ridAccount s rid
  | .walk die idx | .refillReturn die idx => (((tget {} s.mem.walkers die).queue[idx]?).map fun w => w.part).getD overheadAccount
  | .patrolRead 0 addr _ => tget overheadAccount s.mem.owner (groupOf addr)
  | .patrolRead 1 addr _ => coreAccount s (keyCore (addr / 2 ^ 18))
  | .patrolRead _ addr _ => coreAccount s (keyCore (addr / 4))
  | .invalidationComplete part _ | .restoreSavedLaunch part _ | .scrubComplete part | .rcmdResume part _ _ | .rcmdAbort part _ _
  | .rcmdPurge part _ _ | .rcmdSave part _ _ | .cxlMemRead part _ | .cxlMemWrite part _ _ _ | .peerInboundAccess part _ _ _ _ => part
  | _ => overheadAccount

/-- The account that an action is charged to. -/
def accountOf (s : State) : Action → Nat
  | .core n => coreAccount s n
  | .issue key _ | .tileCycle key => coreAccount s (keyCore key)
  | .event i => eventAccount s i
  | .upset _ _ _ => overheadAccount

/-- An action is one more activity of its account (R486; log 17). -/
def charged (s : State) (a : Action) : State :=
  { s with hub := { s.hub with acts := tmod 0 s.hub.acts (min (accountOf s a) overheadAccount) fun n => n + 1 } }

/-! ### Actions -/

/-- What an action does. -/
def act (a : Action) (s : State) : Out :=
  match a with
  | .core n => coreAct n s
  | .issue key cls => issueAct key cls s
  | .event (.registerWrite req off size v) => if req.wf then exec (.registerWrite req off size v) s else .next s
  | .event i => if eventWf i then exec i s else .next s
  | .tileCycle key => .next (tileCycle s key)
  | .upset at_ found bit => .next (upset at_ found bit s)

/-- The next action and the state without it: the head of the agenda, else the schedule's next (log 1). -/
def takeAction (s : State) : Action × State :=
  match s.agenda with
  | a :: r => (a, { s with agenda := r })
  | [] => (Config.schedule s.turn, { s with turn := s.turn + 1 })

/-- Without supply nothing takes place but POWER_UP (23 R505). -/
def powered (s : State) (a : Action) : Bool :=
  s.sec.supply || (match a with
    | .event .powerUp => true
    | _ => false)

/-! ### Placing a word where the next step fetches it (log 27) -/

/-- A control core that fetches the word at its PC, with nothing due before it. -/
def fetchCore (c : CC) (w : Nat) : CC :=
  let pc := c.pc &&& 0xFFFC
  { c with isram := mputN c.isram pc.toNat 4 w, pc := pc, started := true, state := 0, evmask := 0, tcmp := 0xFFFFFFFFFFFFFFFF }

/-- The element where a slot's word is placed: memory tile 0 of core 0 for a memory-class operation, else its first compute tile. -/
def fetchKey (op : Nat) : Nat := if 0x300 ≤ op ∧ op < 0x310 then 10 else 11

/-- A token that satisfies the kind and level conditions of a slot. -/
def fetchToken (w : Slot) : Token :=
  { kind := if w.kindc = 1 then 3 else 0, lvl := if w.lvlc = 0 ∨ w.lvlc = 7 then 0 else 1 }

/-- An element whose plane 0 is bound with the word as its slot 0, the tokens and predicates that its trigger asks for, full halves for a
matrix step, and a fence already pending. -/
def fetchElem (word : Nat) : Elem :=
  let w := slotFields word
  let op := swOp word
  let two (q : Nat) : List Token := if op = 0x30F ∧ q = w.a.toNat then [fetchToken w, fetchToken w] else [fetchToken w]
  let h : Half := { full := true, owner := some 0 }
  let net : Net := { rx := (inQueues false (swIn word)).map fun q => (q, two q) }
  let run : PRun := { p := w.predreq, fences := if op = 0x30E then [(0, 0)] else []
                      slots := [(0, { age := some 0, endPred := if w.kindc = 1 then some true else none })] }
  let p : Plane := { st := .bound, frames := [(0, BitVec.ofNat 256 word)], brkskip := true, run := run }
  let ct : CtSt := { halves := if 0x108 ≤ op ∧ op ≤ 0x10C then [(0, h), (1, h), (2, h), (3, h)] else [] }
  { net := net, planes := [(0, p)], ct := ct }

/-- A region of one core, core 0, with context 0 bound. -/
def fetchRegion (s : State) : Region :=
  let l : Launch := { lrec := 0, part := 0, fn := 0, queue := 0, index := 0, seq := 0 }
  { launch := (((regionOf s.fab 0).map fun q => q.2.launch)).getD l, x0 := 0, y0 := 0, w := 1, h := 1, plane := 0, started := true,
    ctxs := [(0, {})] }

/-- The machine with a 128-bit slot word placed so that the next action issues it. -/
def fetchSlot (s : State) (word : Nat) : State :=
  let key := fetchKey (swOp word)
  let f := { s.fab with elems := tins s.fab.elems key (fetchElem word), regions := [(0, fetchRegion s)] }
  { s with fab := f, sec := { s.sec with supply := true }, agenda := .issue key (opClass (swOp word)) :: s.agenda }

/-- The machine with a 32-bit word placed at the PC of control core 0, which has the next action. -/
def fetchWordCore (s : State) (w : Nat) : State :=
  let f := modElem (modCc s.fab 0 fun c => fetchCore c w) 0 fun e => { e with gated := false }
  { s with fab := f, sec := { s.sec with supply := true }, agenda := .core 0 :: s.agenda }

end Sys2Proof.Machine
end

