-- ==== Sys2Proof/Machine/Step.lean ====
section
/-! DEFINITION. One step of the machine: its next action takes place (log 1). -/

namespace Sys2Proof.Machine

/-- One step: the next action of the agenda or of the schedule, charged to its energy account (R486). -/
def step (s : State) : Host.Outcome State Fault Refusal :=
  let q := takeAction s
  if powered s q.1 then act q.1 (charged q.2 q.1) else .next q.2

/-- The state with an instruction stored where the next step takes its own from: a 32-bit control-core word at the PC of core 0, a 128-bit
slot word in a bound plane (log 27). -/
def State.withFetchWord (s : State) (nbits w : Nat) : State :=
  if nbits = 32 then fetchWordCore s (w % 2 ^ 32)
  else if nbits = 128 then fetchSlot s (w % 2 ^ 128)
  else s

end Sys2Proof.Machine
end

