-- ==== Sys2Proof/Safety.lean ====
section
/-! DEFINITION. The terms that claims about the machine are stated in: when an instruction meets its conditions, the state after
its own effect, what it leaves unchanged, and the invariants. No run can end: Fault has no member, and every refused
arm of the dispatch is gone, so a safe run is one whose states keep the invariants named here. -/

namespace Sys2Proof.Machine

/-! ### Control cores -/

/-- The value of a register of the present core (09 R248). -/
def val (s : State) (r : BitVec 5) : Word := rget (cc s) r.toNat

/-- The registers are full (09 R249). -/
def allFull (s : State) (rs : List (BitVec 5)) : Prop := ∀ r ∈ rs, isFull (cc s) r.toNat = true

/-- No fill is owed to the register (09 R250). -/
def notOwed (s : State) (d : BitVec 5) : Prop := isOwed (cc s) d.toNat = false

/-- The state after an instruction of the present core that leaves the core c (09 R251). -/
def after (s : State) (c : CC) : State := ccDone (setCc s c)

/-- The state after an instruction that writes v to xd and moves on (09 R250, R253). -/
def wrote (s : State) (d : BitVec 5) (v : Word) : State := after s (adv (rset (cc s) d.toNat v))

/-- A trap taken by the present core with TA clear: the state, with the cycle the core used (09 R251, R271). -/
def trapped (s : State) (kind code : Nat) (v : Word) : State :=
  { setCc s (trapEntry (ccTick s.free (cc s)) kind code v (cc s).pc) with free := s.free + 1 }

/-- A command of the present core can issue: its descriptor register is full, its reply register is not owed and no acquire is
pending (10 R278, R281). -/
def canIssue (s : State) (reply : BitVec 5) (desc : List (BitVec 5)) : Prop :=
  allFull s desc ∧ notOwed s reply ∧ (cc s).acq = none

/-- None of the data-SRAM words that n bytes from e touch has an uncorrectable error (21 R471). -/
def sramGood (s : State) (e n : Nat) : Prop := ∀ w ∈ (cc s).bad, w ∉ dsramWords e n

/-- The data SRAM holds the n-byte block at D, aligned to 32 bytes, in good words (10 R278, 21 R471). -/
def blockAt (s : State) (d : BitVec 5) (n b : Nat) : Prop :=
  (val s d).toNat + n ≤ 2 ^ 17 ∧ (val s d).toNat % 32 = 0 ∧ sramGood s (val s d).toNat n ∧ mgetN (cc s).dsram (val s d).toNat n = b

/-- Integer, shift, load, branch and jump instructions: what they may write in the core is their destination, if any, and the
PC (09 R253-R260). -/
def plainDest (i : Instr) : Option (Option (BitVec 5)) :=
  match i with
  | .add d _ _ _ _ => some (some d)
  | .sub d _ _ _ _ => some (some d)
  | .and d _ _ _ _ => some (some d)
  | .or d _ _ _ _ => some (some d)
  | .xor d _ _ _ _ => some (some d)
  | .sll d _ _ _ _ => some (some d)
  | .srl d _ _ _ _ => some (some d)
  | .sra d _ _ _ _ => some (some d)
  | .slt d _ _ _ _ => some (some d)
  | .sltu d _ _ _ _ => some (some d)
  | .min d _ _ _ _ => some (some d)
  | .max d _ _ _ _ => some (some d)
  | .minu d _ _ _ _ => some (some d)
  | .maxu d _ _ _ _ => some (some d)
  | .addw d _ _ _ _ => some (some d)
  | .subw d _ _ _ _ => some (some d)
  | .sllw d _ _ _ _ => some (some d)
  | .srlw d _ _ _ _ => some (some d)
  | .sraw d _ _ _ _ => some (some d)
  | .mul d _ _ _ _ => some (some d)
  | .mulh d _ _ _ _ => some (some d)
  | .mulhu d _ _ _ _ => some (some d)
  | .mulhsu d _ _ _ _ => some (some d)
  | .div d _ _ _ _ => some (some d)
  | .divu d _ _ _ _ => some (some d)
  | .rem d _ _ _ _ => some (some d)
  | .remu d _ _ _ _ => some (some d)
  | .clz d _ _ _ _ => some (some d)
  | .ctz d _ _ _ _ => some (some d)
  | .popc d _ _ _ _ => some (some d)
  | .bswap d _ _ _ _ => some (some d)
  | .feTst d _ _ _ _ => some (some d)
  | .feAny d _ _ _ _ => some (some d)
  | .feWait _ _ _ _ _ => some none
  | .wfe _ _ _ _ _ => some none
  | .addi d _ _ _ => some (some d)
  | .andi d _ _ _ => some (some d)
  | .ori d _ _ _ => some (some d)
  | .xori d _ _ _ => some (some d)
  | .slti d _ _ _ => some (some d)
  | .sltiu d _ _ _ => some (some d)
  | .slli d _ _ _ _ => some (some d)
  | .srli d _ _ _ _ => some (some d)
  | .srai d _ _ _ _ => some (some d)
  | .slliw d _ _ _ _ => some (some d)
  | .srliw d _ _ _ _ => some (some d)
  | .sraiw d _ _ _ _ => some (some d)
  | .lui d _ => some (some d)
  | .pcadd d _ => some (some d)
  | .lb d _ _ _ => some (some d)
  | .lh d _ _ _ => some (some d)
  | .lw d _ _ _ => some (some d)
  | .ld d _ _ _ => some (some d)
  | .lbu d _ _ _ => some (some d)
  | .lhu d _ _ _ => some (some d)
  | .lwu d _ _ _ => some (some d)
  | .beq _ _ _ _ _ => some none
  | .bne _ _ _ _ _ => some none
  | .blt _ _ _ _ _ => some none
  | .bge _ _ _ _ _ => some none
  | .bltu _ _ _ _ _ => some none
  | .bgeu _ _ _ _ _ => some none
  | .j _ _ => some none
  | .jal d _ => some (some d)
  | .jalr d _ _ _ => some (some d)
  | _ => none

/-- The value sources of an instruction of a control core in field order, each with its mark (09 R249); none for what is no such instruction. -/
def coreSources (i : Instr) : Option (List (BitVec 5 × BitVec 1)) :=
  match i with
  | .add _ a b p q => some [(a, p), (b, q)]
  | .sub _ a b p q => some [(a, p), (b, q)]
  | .and _ a b p q => some [(a, p), (b, q)]
  | .or _ a b p q => some [(a, p), (b, q)]
  | .xor _ a b p q => some [(a, p), (b, q)]
  | .sll _ a b p q => some [(a, p), (b, q)]
  | .srl _ a b p q => some [(a, p), (b, q)]
  | .sra _ a b p q => some [(a, p), (b, q)]
  | .slt _ a b p q => some [(a, p), (b, q)]
  | .sltu _ a b p q => some [(a, p), (b, q)]
  | .min _ a b p q => some [(a, p), (b, q)]
  | .max _ a b p q => some [(a, p), (b, q)]
  | .minu _ a b p q => some [(a, p), (b, q)]
  | .maxu _ a b p q => some [(a, p), (b, q)]
  | .addw _ a b p q => some [(a, p), (b, q)]
  | .subw _ a b p q => some [(a, p), (b, q)]
  | .sllw _ a b p q => some [(a, p), (b, q)]
  | .srlw _ a b p q => some [(a, p), (b, q)]
  | .sraw _ a b p q => some [(a, p), (b, q)]
  | .mul _ a b p q => some [(a, p), (b, q)]
  | .mulh _ a b p q => some [(a, p), (b, q)]
  | .mulhu _ a b p q => some [(a, p), (b, q)]
  | .mulhsu _ a b p q => some [(a, p), (b, q)]
  | .div _ a b p q => some [(a, p), (b, q)]
  | .divu _ a b p q => some [(a, p), (b, q)]
  | .rem _ a b p q => some [(a, p), (b, q)]
  | .remu _ a b p q => some [(a, p), (b, q)]
  | .beq a b p q _ => some [(a, p), (b, q)]
  | .bne a b p q _ => some [(a, p), (b, q)]
  | .blt a b p q _ => some [(a, p), (b, q)]
  | .bge a b p q _ => some [(a, p), (b, q)]
  | .bltu a b p q _ => some [(a, p), (b, q)]
  | .bgeu a b p q _ => some [(a, p), (b, q)]
  | .sb d a p q _ => some [(a, p), (d, q)]
  | .sh d a p q _ => some [(a, p), (d, q)]
  | .sw d a p q _ => some [(a, p), (d, q)]
  | .sd d a p q _ => some [(a, p), (d, q)]
  | .clz _ a _ p _ => some [(a, p)]
  | .ctz _ a _ p _ => some [(a, p)]
  | .popc _ a _ p _ => some [(a, p)]
  | .bswap _ a _ p _ => some [(a, p)]
  | .feWait _ a _ p _ => some [(a, p)]
  | .feTake _ a _ p _ => some [(a, p)]
  | .feAny _ a _ p _ => some [(a, p)]
  | .addi _ a p _ => some [(a, p)]
  | .andi _ a p _ => some [(a, p)]
  | .ori _ a p _ => some [(a, p)]
  | .xori _ a p _ => some [(a, p)]
  | .slti _ a p _ => some [(a, p)]
  | .sltiu _ a p _ => some [(a, p)]
  | .slli _ a p _ _ => some [(a, p)]
  | .srli _ a p _ _ => some [(a, p)]
  | .srai _ a p _ _ => some [(a, p)]
  | .slliw _ a p _ _ => some [(a, p)]
  | .srliw _ a p _ _ => some [(a, p)]
  | .sraiw _ a p _ _ => some [(a, p)]
  | .lb _ a p _ => some [(a, p)]
  | .lh _ a p _ => some [(a, p)]
  | .lw _ a p _ => some [(a, p)]
  | .ld _ a p _ => some [(a, p)]
  | .lbu _ a p _ => some [(a, p)]
  | .lhu _ a p _ => some [(a, p)]
  | .lwu _ a p _ => some [(a, p)]
  | .jalr _ a p _ => some [(a, p)]
  | .csrrw _ a p _ => some [(a, p)]
  | .csrrs _ a p _ => some [(a, p)]
  | .csrrc _ a p _ => some [(a, p)]
  | .inject a p _ _ => some [(a, p)]
  | .accrst a p _ => some [(a, p)]
  | .vbind a p _ => some [(a, p)]
  | .rmark a p => some [(a, p)]
  | .wcommit _ a p => some [(a, p)]
  | .kwr a p => some [(a, p)]
  | .copy _ a p _ => some [(a, p)]
  | .sbind _ a p _ => some [(a, p)]
  | .aflush _ a p _ => some [(a, p)]
  | .amoAddCmd _ a p _ => some [(a, p)]
  | .amoMinCmd _ a p _ => some [(a, p)]
  | .amoMaxCmd _ a p _ => some [(a, p)]
  | .amoAndCmd _ a p _ => some [(a, p)]
  | .amoOrCmd _ a p _ => some [(a, p)]
  | .amoXorCmd _ a p _ => some [(a, p)]
  | .amoXchgCmd _ a p _ => some [(a, p)]
  | .amoCasCmd _ a p _ => some [(a, p)]
  | .swap _ a p => some [(a, p)]
  | .revoke _ a p => some [(a, p)]
  | .relend _ a p => some [(a, p)]
  | .lease _ a p => some [(a, p)]
  | .launch _ a p => some [(a, p)]
  | .xinvVa a p => some [(a, p)]
  | .xinvFn a p => some [(a, p)]
  | .xinvPart a p => some [(a, p)]
  | _ => none

/-- A CSR instruction of operation op (1 write, 2 set, 3 clear) passes the checks of its number, its write and its mode (09 R252, R264). -/
def csrPasses (s : State) (op : Nat) (a : BitVec 5) (n : BitVec 12) : Prop :=
  (csrGuarded n.toNat = true ∨ csrRo n.toNat = true) ∧ (op = 1 ∨ a ≠ 0 → csrRo n.toNat = false ∧ (n = 0x010 → op = 3)) ∧
    (csrGuarded n.toNat = true → ccSupok (cc s) = true → ccMode (cc s) = true)

/-- The checks that come before the sources pass: those of a CSR instruction, and the reply, state and mode checks of a command (09 R249, 10
R278). -/
def sourcesDue (s : State) (i : Instr) : Prop :=
  match i with
  | .csrrw _ a _ n => csrPasses s 1 a n
  | .csrrs _ a _ n => csrPasses s 2 a n
  | .csrrc _ a _ n => csrPasses s 3 a n
  | .inject _ _ _ n => (vinOf (cc s) n.toNat).bind.isSome = true
  | .vbind _ _ n => (vinOf (cc s) n.toNat).bind = none
  | .wcommit r _ _ => r ≠ 0
  | .sbind r _ _ _ => r ≠ 0
  | .lease r _ _ => r ≠ 0
  | .kwr _ _ => ccMode (cc s) = true
  | .xinvVa _ _ => ccMode (cc s) = true
  | .xinvFn _ _ => ccMode (cc s) = true
  | .xinvPart _ _ => ccMode (cc s) = true
  | _ => True

/-- The halt of the present core by a second trap, with the cycle the core used and its report (09 R271). -/
def haltedBy (s : State) (kind code : Nat) : State :=
  haltReport { setCc s (doubleTrap (ccTick s.free (cc s)) kind code) with free := s.free + 1 } s.site.core

/-- The reply register of a stream command, x0 for one without a reply (10 R279, R282). -/
def commandReply (i : Instr) : Option (BitVec 5) :=
  match i with
  | .inject _ _ _ _ => some 0
  | .vend _ _ _ => some 0
  | .rdout r _ _ _ => some r
  | .accrst _ _ _ => some 0
  | .rdacc r _ _ _ => some r
  | .vbind _ _ _ => some 0
  | .rmark _ _ => some 0
  | .wcommit r _ _ => some r
  | .fencePl _ _ => some 0
  | .fenceRg _ _ => some 0
  | .fencePt _ _ => some 0
  | .fenceSy _ _ => some 0
  | .drainDm _ _ => some 0
  | .drainSp _ _ => some 0
  | .drainHm _ _ => some 0
  | .drainCf _ _ => some 0
  | .kwr _ _ => some 0
  | .copy r _ _ _ => some r
  | .sbind r _ _ _ => some r
  | .aflush r _ _ _ => some r
  | .amoAddCmd r _ _ _ => some r
  | .amoMinCmd r _ _ _ => some r
  | .amoMaxCmd r _ _ _ => some r
  | .amoAndCmd r _ _ _ => some r
  | .amoOrCmd r _ _ _ => some r
  | .amoXorCmd r _ _ _ => some r
  | .amoXchgCmd r _ _ _ => some r
  | .amoCasCmd r _ _ _ => some r
  | .swap r _ _ => some r
  | .revoke r _ _ => some r
  | .relend r _ _ => some r
  | .lease r _ _ => some r
  | .leaseEnd _ _ => some 0
  | .launch r _ _ => some r
  | .xinvVa _ _ => some 0
  | .xinvFn _ _ => some 0
  | .xinvPart _ _ => some 0
  | _ => none

/-- Width in bytes of a store, its data register, base and offset (09 R258). -/
def storeParts (i : Instr) : Option (Nat × BitVec 5 × BitVec 5 × BitVec 14) :=
  match i with
  | .sb d a _ _ o => some (1, d, a, o)
  | .sh d a _ _ o => some (2, d, a, o)
  | .sw d a _ _ o => some (4, d, a, o)
  | .sd d a _ _ o => some (8, d, a, o)
  | _ => none

/-- Everything outside the present core's registers, SRAM, PC and CSRs is as it was: every other core, every element and region, the
memories, the hub, device time and the bring-up state. -/
def outsideSame (s t : State) : Prop :=
  (∀ n, n ≠ s.site.core → ccOf t.fab n = ccOf s.fab n) ∧ t.fab.elems = s.fab.elems ∧ t.fab.regions = s.fab.regions ∧
    t.fab.fills = s.fab.fills ∧ t.fab.creds = s.fab.creds ∧ t.fab.loads = s.fab.loads ∧ t.mem = s.mem ∧ t.hub = s.hub ∧
    t.clk = s.clk ∧ t.sec = s.sec ∧ t.agenda = s.agenda ∧ t.site = s.site ∧ t.resp = s.resp

/-- The trap and event CSRs of a core are as they were (09 R264). -/
def csrsSame (c d : CC) : Prop :=
  d.tstat = c.tstat ∧ d.tvec = c.tvec ∧ d.tepc = c.tepc ∧ d.tcause = c.tcause ∧ d.tval = c.tval ∧ d.tscr = c.tscr ∧
    d.evpend = c.evpend ∧ d.evmask = c.evmask ∧ d.tcmp = c.tcmp ∧ d.skind = c.skind ∧ d.scode = c.scode

/-- The ports, accumulators and commands of a core are as they were (10 R280-R287). -/
def portsSame (c d : CC) : Prop :=
  d.accs = c.accs ∧ d.vins = c.vins ∧ d.sinks = c.sinks ∧ d.outs = c.outs ∧ d.nextId = c.nextId ∧ d.acq = c.acq ∧ d.wcs = c.wcs ∧
    d.started = c.started

/-! ### Slots -/

/-- What the present site's slot sees as it fires. -/
def seen (s : State) (op : Nat) (w : Slot) : FireCtx := fireCtx s.fab s.site op w

/-- The present site's slot fires: its trigger holds, its request wins its bank, the back-edge log has room, and no word that it reads
is bad (07 R192, 13 R358, 21 R471, R472). -/
def fires (s : State) (op : Nat) (w : Slot) : Prop :=
  slotReady s.fab s.site.key s.site.plane s.site.slot op w = true ∧ backlogFull (seen s op w) = false ∧
    badWord (seen s op w) = none ∧ badSource (seen s op w) = none

/-- The fabric as a firing begins to act: the class has issued, the slot's age has ended (14 R401). -/
def began (s : State) (op : Nat) (w : Slot) : Fab := markFired s.fab (seen s op w)

/-- The fabric once a firing has popped its inputs (08 R233). -/
def popped (s : State) (op : Nat) (w : Slot) : Fab := popAll (began s op w) (seen s op w)

/-- The machine with another fabric. -/
def withFab (s : State) (f : Fab) : State := { s with fab := f }

/-- The state after a vector operation with result r and condition c (11 R308-R310). -/
def vecDone (s : State) (op : Nat) (w : Slot) (r : Line) (c : Bool) : State :=
  withFab s (putResult (popped s op w) (seen s op w) r c (fireLvl (seen s op w)))

/-- A vector operation fires and no header latch contradicts its source format (11 R311). -/
def vecFires (s : State) (op : Nat) (w : Slot) : Prop :=
  fires s op w ∧ latchClash (seen s op w) op w.fmt.toNat w.fmt.toNat = none

/-- The sources of a vector operation (11 R308). -/
def srcA (s : State) (op : Nat) (w : Slot) : Line := vecSrc (seen s op w) w.fmt.toNat w.a.toNat
/-- srcB. -/
def srcB (s : State) (op : Nat) (w : Slot) : Line := vecSrc (seen s op w) w.fmt.toNat w.b.toNat
/-- srcC. -/
def srcC (s : State) (op : Nat) (w : Slot) : Line := vecSrc (seen s op w) w.fmt.toNat w.c.toNat

/-- Lane i of n bits of a line (03 R79). -/
def laneAt (n : Nat) (l : Line) (i : Nat) : Nat := fld l.toNat (n * i) n

/-- Float operations whose lanes are independent: opcode, operation, and the exact value of a lane under a rounding (11 R318, R325). -/
def floatOps : List (Nat × (Slot → Instr) × (Nat → FVal → FVal → FVal → FVal)) :=
  [(0x000, .vaddF, fun r x y _ => FVal.add r x y), (0x001, .vsubF, fun r x y _ => FVal.add r x y.neg),
   (0x002, .vmulF, fun _ x y _ => FVal.mul x y), (0x003, .vfma, fun r x y z => FVal.add r (FVal.mul x y) z),
   (0x004, .vfms, fun r x y z => FVal.add r (FVal.mul x y) z.neg), (0x005, .vfnma, fun r x y z => FVal.add r z (FVal.mul x y).neg),
   (0x006, .vminF, fun _ x y _ => FVal.min x y), (0x007, .vmaxF, fun _ x y _ => FVal.max x y),
   (0x008, .vabsF, fun _ x _ _ => x.abs), (0x009, .vnegF, fun _ x _ _ => x.neg), (0x00A, .vrnd, fun r x _ _ => x.integral r),
   (0x070, .vrcp, fun _ x _ _ => fRcp x), (0x071, .vrsqrt, fun _ x _ _ => fRsqrt x), (0x072, .vexp2, fun _ x _ _ => fExp2 x),
   (0x073, .vlog2, fun _ x _ _ => fLog2 x)]

/-- Integer operations with independent lanes: the exact integer of a lane (11 R319). -/
def integerOps : List (Nat × (Slot → Instr) × (Int → Int → Int → Int)) :=
  [(0x020, .vaddI, fun x y _ => x + y), (0x021, .vsubI, fun x y _ => x - y), (0x022, .vmulI, fun x y _ => x * y),
   (0x023, .vmac, fun x y z => x * y + z), (0x024, .vminI, fun x y _ => min x y), (0x025, .vmaxI, fun x y _ => max x y),
   (0x026, .vabsI, fun x _ _ => |x|), (0x027, .vnegI, fun x _ _ => -x)]

/-- Bitwise operations (11 R319). -/
def bitOps : List (Nat × (Slot → Instr) × (Bool → Bool → Bool)) :=
  [(0x02B, .vand, fun x y => x && y), (0x02C, .vor, fun x y => x || y), (0x02D, .vxor, fun x y => x != y), (0x02E, .vandn, fun x y => x && !y)]

/-- Complex operations: the exact parts of a lane from the rounding, the shift, and the parts of a, b, c (11 R320). -/
def complexOps : List (Nat × (Slot → Instr) × (Nat → Nat → Int × Int → Int × Int → Int × Int → Int × Int)) :=
  [(0x040, .vcadd, fun _ _ a b _ => (a.1 + b.1, a.2 + b.2)), (0x041, .vcsub, fun _ _ a b _ => (a.1 - b.1, a.2 - b.2)),
   (0x042, .vcmul, fun r n a b _ => (rndshift r (a.1 * b.1 - a.2 * b.2) n, rndshift r (a.1 * b.2 + a.2 * b.1) n)),
   (0x043, .vcmac, fun r n a b c => (rndshift r (c.1 * 2 ^ n + a.1 * b.1 - a.2 * b.2) n, rndshift r (c.2 * 2 ^ n + a.1 * b.2 + a.2 * b.1) n)),
   (0x044, .vcmulc, fun r n a b _ => (rndshift r (a.1 * b.1 + a.2 * b.2) n, rndshift r (a.2 * b.1 - a.1 * b.2) n)),
   (0x045, .vcmacc, fun r n a b c => (rndshift r (c.1 * 2 ^ n + a.1 * b.1 + a.2 * b.2) n, rndshift r (c.2 * 2 ^ n + a.2 * b.1 - a.1 * b.2) n)),
   (0x046, .vconj, fun _ _ a _ _ => (a.1, -a.2)), (0x047, .vcshr, fun r n a _ _ => (rndshift r a.1 n, rndshift r a.2 n)),
   (0x048, .vcrot, fun _ k a _ _ => if k = 0 then a else if k = 1 then (-a.2, a.1) else if k = 2 then (-a.1, -a.2) else (a.2, -a.1))]

/-- Comparisons: the outcome of a lane from less, equal and ordered (11 R321). -/
def compareOps : List (Nat × (Slot → Instr) × (Bool → Bool → Bool → Bool)) :=
  [(0x050, .vcmpeq, fun _ e _ => e), (0x051, .vcmpne, fun _ e _ => !e), (0x052, .vcmplt, fun l _ _ => l),
   (0x053, .vcmple, fun l e _ => l || e), (0x054, .vcmpgt, fun l e o => o && !l && !e), (0x055, .vcmpge, fun l _ o => o && !l)]

/-- Permutations: the value of destination lane i from n lanes of a, b and c (11 R327). -/
def permuteOps : List (Nat × (Slot → Instr) × (Nat → Nat → (Nat → Nat) → (Nat → Nat) → (Nat → Nat) → Nat → Nat)) :=
  [(0x080, .vrep, fun j _ a _ _ _ => a j), (0x081, .vperm, fun _ n a b _ i => a (b i % n)),
   (0x082, .vperm2, fun _ n a b c i => if c i % (2 * n) < n then a (c i % (2 * n)) else b (c i % (2 * n) - n)),
   (0x083, .vrot, fun j n a _ _ i => a ((i + j) % n)), (0x084, .vzipl, fun _ _ a b _ i => if i % 2 = 0 then a (i / 2) else b (i / 2)),
   (0x085, .vziph, fun _ n a b _ i => if i % 2 = 0 then a (n / 2 + i / 2) else b (n / 2 + i / 2)),
   (0x086, .vuzpe, fun _ n a b _ i => if i < n / 2 then a (2 * i) else b (2 * (i - n / 2))),
   (0x087, .vuzpo, fun _ n a b _ i => if i < n / 2 then a (2 * i + 1) else b (2 * (i - n / 2) + 1)),
   (0x088, .vins, fun j _ a b _ i => if i = j then b 0 else a i), (0x089, .vext, fun j _ a _ _ i => if i = 0 then a j else 0),
   (0x08A, .vbitrev, fun m _ a _ _ i => a (i / 2 ^ m * 2 ^ m + revBits m (i % 2 ^ m)))]

/-- The shared steps of an mma: the operands with marked words read as zero (12 R343, R350). -/
def mmaParts (s : State) (op : Nat) (w : Slot) : MAcc × MOp × MOp × Nat :=
  let x := seen s op w
  (accOf x w.dst.toNat, mopOf x (w.md.toNat % 8), mopOf x (w.md.toNat / 8 % 8),
    if bit w.md.toNat 6 then (tget 0 x.p.run.a (w.c.toNat - 0x18)).toNat else w.imm.toNat % 32)

/-- An mma meets its conditions: the step lies in the form, the accumulator's TYPE and every row's FMT suit it (12 R343, R344). -/
def mmaFits (s : State) (op : Nat) (w : Slot) : Prop :=
  let q := mmaParts s op w
  fires s op w ∧ q.2.2.2 < mmaSteps op ∧ q.1.int = (op == 0x10C) ∧ (q.2.1.fmts ++ q.2.2.1.fmts).all (mmaFmtOk op) = true

/-- The accumulator after an mma without band capture (12 R344-R350). -/
def mmaAcc (s : State) (op : Nat) (w : Slot) : MAcc :=
  let q := mmaParts s op w
  let a := cleanOp q.2.1
  let b := cleanOp q.2.2.1
  let m := if op = 0x10C then mmaI8 (w.sat == 1) q.1 a b q.2.2.2 else mmaFloat op q.1 a b q.2.2.2
  let m := if op = 0x10B then bandCapture m a b else m
  match uLog op q.2.1 q.2.2.1 with
  | none => m
  | some l => { m with ue := true, log := if m.ue then m.log else l }

/-- A request of a memory-tile slot passes its checks (13 R372). -/
def requestOk (s : State) (op : Nat) (w : Slot) (kinds align : Nat) (t : Token) : Prop :=
  fires s op w ∧ headOf (seen s op w).e w.a.toNat = some t ∧ memCheck (began s op w) (seen s op w) kinds align t = none

/-- A request's bytes in its tile: the line of an accumulate, else the field that it names (13 R372-R374, 05 R132). -/
def reqCovers (q : MemReq) (a : Nat) : Prop :=
  let b := bankByte q.bank q.line
  if q.op = 0x310 then b ≤ a ∧ a < b + 64 else b + q.addr.toNat % 64 ≤ a ∧ a < b + q.addr.toNat % 64 + q.size

/-- Every byte of every scratchpad and local store reads as it did. -/
def tilesSame (s t : State) : Prop :=
  ∀ k a, mget (elemOf t.fab k).mt.data a = mget (elemOf s.fab k).mt.data a ∧ mget (elemOf t.fab k).ct.ls a = mget (elemOf s.fab k).ct.ls a

/-! ### Mailbox -/

/-- A mailbox command of a physical function is in progress and passes its checks (23 R496, R497). -/
def mailboxTakes (s : State) (pf : Nat) (c : MbCmd) : Prop :=
  (partOf s.hub pf).mbBusy = true ∧ (partOf s.hub pf).mbOp.toNat = c.op ∧ mbCheck s pf c = 0

/-! ### Invariants -/

/-- Every spine runs at a multiplier of its range, and is set to one (22 R479). -/
def SpinesInRange (s : State) : Prop :=
  ∀ n, n < 8 → (16 ≤ spMult s.clk n ∧ spMult s.clk n ≤ if n = 7 then 92 else 91) ∧ (16 ≤ spCur s.clk n ∧ spCur s.clk n ≤ if n = 7 then 92 else 91)

/-- Every byte memory is in canonical form (log 3). -/
def MemoriesCanonical (s : State) : Prop :=
  memWf s.mem.hbm = true ∧ memWf s.mem.host = true ∧
    (∀ q ∈ s.fab.elems, memWf q.2.mt.data = true ∧ memWf q.2.ct.ls = true ∧ memWf q.2.ag.buf = true ∧ ∀ c ∈ q.2.ag.inbox, memWf c.block = true) ∧
    (∀ q ∈ s.fab.ccs, memWf q.2.isram = true ∧ memWf q.2.dsram = true) ∧ ∀ q ∈ s.hub.parts, memWf q.2.mbuf = true

/-- x0 of every control core holds zero, is full and is owed nothing (09 R248, R249). -/
def ZeroRegisterHolds (s : State) : Prop :=
  ∀ q ∈ s.fab.ccs, tget 0 q.2.x 0 = 0 ∧ q.2.full.getLsbD 0 = true ∧ q.2.owed.getLsbD 0 = false

/-- No register that is owed a fill is full (09 R250). -/
def OwedAreEmpty (s : State) : Prop := ∀ q ∈ s.fab.ccs, q.2.owed &&& q.2.full = 0

end Sys2Proof.Machine
end

