-- ==== Sys2Proof/Certificates/Slice0/Obligations.lean ====
section
/-! DEFINITION. The statements about the machine, in the order of OBLIGATIONS.json. -/

open Sys2Proof Sys2Proof.Machine

/-! ### Steps, decoding, encoding -/

/-- A core's action at the head of the agenda, with nothing due before the instruction and a good word at the PC, is exec of what the four bytes there
decode to; an event at the head is exec of that event. Each is charged to its energy account (01 R33, 09 R251, R269, 21 R471, 22 R486; log 1). -/
def Obligations.StepRunsDecodedInstruction : Prop :=
  (∀ (s : State) (n : Nat) (rest : List Action) (i : Instr), s.agenda = .core n :: rest → s.sec.supply = true → coreRuns s n = true →
    timerDue s n = false → eventDue (ccOf s.fab n) = false → (ccOf s.fab n).pc.toNat % 4 = 0 →
    (ccOf s.fab n).bad.contains ((ccOf s.fab n).pc.toNat / 8) = false → decodeBytes (pcBytes s n) = .instr i [] →
    step s = exec i { charged { s with agenda := rest } (.core n) with site := { core := n } }) ∧
  (∀ (s : State) (i : Instr) (rest : List Action), s.agenda = .event i :: rest → s.sec.supply = true →
    (∀ req off size v, i ≠ .registerWrite req off size v) → eventWf i = true →
    step s = exec i (charged { s with agenda := rest } (.event i))) ∧
  (∀ (s : State) (req : Requester) (off size : Nat) (v : BitVec 64) (rest : List Action),
    s.agenda = .event (.registerWrite req off size v) :: rest → s.sec.supply = true → req.wf = true →
    step s = exec (.registerWrite req off size v) (charged { s with agenda := rest } (.event (.registerWrite req off size v))))

/-- An element's issue at the head of the agenda is exec of the operation that the slot word chosen by the arbiter decodes to, at that slot (08 R227,
14 R401); while a breakpoint takes effect on a slot that some class would issue, none issues and that slot's stop begins (15 R425). Log 1. -/
def Obligations.StepIssuesChosenSlot : Prop :=
  ∀ (s : State) (key : Nat) (cls : IssueClass) (rest : List Action) (plane n : Nat),
    s.agenda = .issue key cls :: rest → s.sec.supply = true →
    let s1 := charged { s with agenda := rest } (.issue key cls)
    (∀ i, breakNow s.fab key = none → chooseSlot s.fab key cls = some (plane, n) →
      decodeSlot (slotWordOf (planeOf (elemOf s.fab key) plane) n) = some i →
      step s = exec i { s1 with site := { core := keyCore key, key := key, plane := plane, slot := n } }) ∧
    (breakNow s.fab key = some (plane, n) → step s = exec (.breakpointStop key plane n) s1)

/-- The arbiter of a class chooses a ready slot, one whenever there is one. Against any other ready slot of the class the chosen one is an owner's
unless both are drift slots, and among slots of one kind it is of the older or the same age; at equal ages an owner's slot lies outside every SMASK
unless both lie in one, then has the higher stage priority, then the predecessor plane, then the lower number, and a drift slot the lower plane, then
the lower number (14 R401). A stage priority is a count from 0 to 16 (14 R403). That a slot's age is the cycle at whose start it was found ready, and
that owner slots of one number in two planes go in plane order, are the model's (log 65). -/
def Obligations.ArbiterChoosesByKey : Prop :=
  ∀ (f : Fab) (key : Nat) (cls : IssueClass),
    let e := elemOf f key
    let drift (x : Nat × Nat) : Bool := isDrift key (planeOf e x.1)
    let age (x : Nat × Nat) : Nat := (slotOfRun (planeOf e x.1).run x.2).age.getD 0
    let stage (x : Nat × Nat) : Option StageE := (planeOf e x.1).stages.find? fun y => !y.dist && y.w3.getLsbD x.2
    let succ (x : Nat × Nat) : Bool := (planeOf e x.1).succ
    (chooseSlot f key cls = none ↔ readySlots f key cls = []) ∧
    ∀ q r, chooseSlot f key cls = some q → r ∈ readySlots f key cls →
      q ∈ readySlots f key cls ∧
      (drift q = true → drift r = true) ∧
      (drift q = drift r → age q ≤ age r) ∧
      (drift q = false → drift r = false → age q = age r →
        (stage r = none → stage q = none) ∧
        (∀ y z, stage q = some y → stage r = some z → z.prio ≤ 16 → z.prio ≤ y.prio) ∧
        ((stage q).map (fun y => y.prio) = (stage r).map (fun y => y.prio) →
          (succ q = true → succ r = true) ∧ (succ q = succ r → q.2 ≤ r.2 ∧ (q.2 = r.2 → q.1 ≤ r.1)))) ∧
      (drift q = true → age q = age r → q.1 ≤ r.1 ∧ (q.1 = r.1 → q.2 ≤ r.2))

/-- Words written out in the spec decode to the instructions that it gives them (09 R254, R256, R258, R263, R276). -/
def Obligations.SpecWordsDecode : Prop :=
  decodeWord 0x00E62C00 = .add 7 6 5 1 0 ∧ decodeWord 0x6CE27FF8 = .sd 7 2 0 1 (-8) ∧ decodeWord 0xC0021001 = .csrrw 0 2 0 1 ∧
    decodeWord 0xC1402003 = .csrrs 10 0 0 3 ∧ decodeWord 0x04001810 = .trap 0 0 3 0 0 ∧ decodeWord 0x10400024 = .addi 2 0 0 36 ∧
    decodeWord 0x04A00000 = .feClr 5 0 0 0 0 ∧ decodeWord 0x00C50400 = .add 6 5 0 1 0 ∧ decodeWord 0xA01FFFFF = .j 0 (-1) ∧
    decodeWord 0x298A100E = .srli 12 10 0 0 14 ∧ decodeWord 0x85800003 = .bne 12 0 0 0 3 ∧ decodeWord 0x04000011 = .tret 0 0 0 0 0 ∧
    decodeWord 0x04000012 = .wfe 0 0 0 0 0 ∧ decodeWord 0x116B0004 = .addi 11 11 0 4

/-- Every control-core instruction has a 32-bit word that decodes to it, every operand included, and decoding loses no bit: every 32-bit word is the
word of the instruction it decodes to (08 R208-R212, R247). -/
def Obligations.CoreWordsRoundTrip : Prop :=
  (∀ (i : Instr) (n : Nat), i.wf = true → encodeWord i = some n → n < 2 ^ 32 ∧ decodeWord n = i) ∧
  ∀ n : Nat, n < 2 ^ 32 → encodeWord (decodeWord n) = some n

/-- Every fabric operation with any fields has a 128-bit slot word that decodes to it; a slot word with an assigned opcode is the word of the
operation it decodes to, and any other opcode decodes to none (08 R227, R235). -/
def Obligations.SlotWordsRoundTrip : Prop :=
  (∀ (i : Instr) (n : Nat), encodeSlot i = some n → n < 2 ^ 128 ∧ decodeSlot n = some i) ∧
  ∀ n : Nat, n < 2 ^ 128 →
    match decodeSlot n with
    | some i => encodeSlot i = some n
    | none => ∀ i m, encodeSlot i = some m → m / 2 ^ 70 % 1024 ≠ n / 2 ^ 70 % 1024

/-! ### Control core: integer instructions -/

/-- The register forms of major 0x00 (09 R253): with full sources and nothing owed to d, each completes, writes its result to d and moves on; an fn
that the table does not list is ILLOP (09 R212). A unary form counts or reverses the bits of A alone, whatever b holds. Division (09 R254): the
quotient is rounded toward zero and the remainder takes the sign of the dividend, so that A = B · quotient + remainder; it never traps, and the two
exceptional cases give the results of the table. -/
def Obligations.RegisterFormResults : Prop :=
  (((∀ (s : State) (d a b : BitVec 5) (p q : BitVec 1), allFull s [a, b] → notOwed s d →
       exec (.add d a b p q) s = .next (wrote s d (val s a + val s b)) ∧
       exec (.sub d a b p q) s = .next (wrote s d (val s a - val s b)) ∧
       exec (.and d a b p q) s = .next (wrote s d (val s a &&& val s b)) ∧
       exec (.or d a b p q) s = .next (wrote s d (val s a ||| val s b)) ∧
       exec (.xor d a b p q) s = .next (wrote s d (val s a ^^^ val s b)) ∧
       exec (.sll d a b p q) s = .next (wrote s d (val s a <<< ((val s b).toNat % 64))) ∧
       exec (.srl d a b p q) s = .next (wrote s d (val s a >>> ((val s b).toNat % 64))) ∧
       exec (.sra d a b p q) s = .next (wrote s d ((val s a).sshiftRight ((val s b).toNat % 64))) ∧
       exec (.slt d a b p q) s = .next (wrote s d (if (val s a).toInt < (val s b).toInt then 1 else 0)) ∧
       exec (.sltu d a b p q) s = .next (wrote s d (if (val s a).toNat < (val s b).toNat then 1 else 0)) ∧
       exec (.min d a b p q) s = .next (wrote s d (BitVec.ofInt 64 (min (val s a).toInt (val s b).toInt))) ∧
       exec (.max d a b p q) s = .next (wrote s d (BitVec.ofInt 64 (max (val s a).toInt (val s b).toInt))) ∧
       exec (.minu d a b p q) s = .next (wrote s d (BitVec.ofNat 64 (min (val s a).toNat (val s b).toNat))) ∧
       exec (.maxu d a b p q) s = .next (wrote s d (BitVec.ofNat 64 (max (val s a).toNat (val s b).toNat))) ∧
       exec (.addw d a b p q) s = .next (wrote s d (sext32 (val s a + val s b))) ∧
       exec (.subw d a b p q) s = .next (wrote s d (sext32 (val s a - val s b))) ∧
       exec (.sllw d a b p q) s = .next (wrote s d (sext32 (val s a <<< ((val s b).toNat % 32)))) ∧
       exec (.srlw d a b p q) s = .next (wrote s d ((((val s a).setWidth 32) >>> ((val s b).toNat % 32)).signExtend 64)) ∧
       exec (.sraw d a b p q) s = .next (wrote s d ((((val s a).setWidth 32).sshiftRight ((val s b).toNat % 32)).signExtend 64)) ∧
       exec (.mul d a b p q) s = .next (wrote s d (val s a * val s b)) ∧
       exec (.mulh d a b p q) s = .next (wrote s d (BitVec.ofInt 64 ((val s a).toInt * (val s b).toInt / 2 ^ 64))) ∧
       exec (.mulhu d a b p q) s = .next (wrote s d (BitVec.ofNat 64 ((val s a).toNat * (val s b).toNat / 2 ^ 64))) ∧
       exec (.mulhsu d a b p q) s = .next (wrote s d (BitVec.ofInt 64 ((val s a).toInt * (val s b).toNat / 2 ^ 64)))) ∧
     ∀ n : Nat, n < 2 ^ 26 → (0x034 ≤ n % 512 ∨ n % 512 = 0x00E ∨ n % 512 = 0x00F ∨ (0x012 ≤ n % 512 ∧ n % 512 ≤ 0x014) ∨
       (0x018 ≤ n % 512 ∧ n % 512 ≤ 0x01F) ∨ (0x028 ≤ n % 512 ∧ n % 512 ≤ 0x02F)) → decodeWord n = .illegalInstruction (BitVec.ofNat 32 n)) ∧
   ∀ (s : State) (d a b : BitVec 5) (p q : BitVec 1), allFull s [a] → notOwed s d →
     (∃ v : Word, exec (.clz d a b p q) s = .next (wrote s d v) ∧ v.toNat ≤ 64 ∧ (∀ i, i < v.toNat → (val s a).getLsbD (63 - i) = false) ∧
       (v.toNat < 64 → (val s a).getLsbD (63 - v.toNat) = true)) ∧
     (∃ v : Word, exec (.ctz d a b p q) s = .next (wrote s d v) ∧ v.toNat ≤ 64 ∧ (∀ i, i < v.toNat → (val s a).getLsbD i = false) ∧
       (v.toNat < 64 → (val s a).getLsbD v.toNat = true)) ∧
     (∃ v : Word, exec (.popc d a b p q) s = .next (wrote s d v) ∧ v.toNat = ((List.range 64).filter fun i => (val s a).getLsbD i).length) ∧
     (∃ v : Word, exec (.bswap d a b p q) s = .next (wrote s d v) ∧
       ∀ k, k < 8 → v.extractLsb' (8 * k) 8 = (val s a).extractLsb' (8 * (7 - k)) 8)) ∧
  ∀ (s : State) (d a b : BitVec 5) (p q : BitVec 1), allFull s [a, b] → notOwed s d →
    ∃ x y u v : Word, exec (.div d a b p q) s = .next (wrote s d x) ∧ exec (.rem d a b p q) s = .next (wrote s d y) ∧
      exec (.divu d a b p q) s = .next (wrote s d u) ∧ exec (.remu d a b p q) s = .next (wrote s d v) ∧
      (val s b = 0 → x = BitVec.allOnes 64 ∧ y = val s a ∧ u = BitVec.allOnes 64 ∧ v = val s a) ∧
      (val s a = 0x8000000000000000#64 → val s b = BitVec.allOnes 64 → x = 0x8000000000000000#64 ∧ y = 0) ∧
      (val s b ≠ 0 → (val s a).toNat = (val s b).toNat * u.toNat + v.toNat ∧ v.toNat < (val s b).toNat) ∧
      (val s b ≠ 0 → ¬(val s a = 0x8000000000000000#64 ∧ val s b = BitVec.allOnes 64) →
        (val s a).toInt = (val s b).toInt * x.toInt + y.toInt ∧ y.toInt.natAbs < (val s b).toInt.natAbs ∧
        (y.toInt ≠ 0 → (y.toInt < 0 ↔ (val s a).toInt < 0)))

/-- The immediate forms (09 R255); the shifts by an immediate amount, imm[11:6] ignored, kinds 6 and 7 being ILLOP (09 R256); lui and pcadd, which
read no register (09 R257). -/
def Obligations.ImmediateFormResults : Prop :=
  (∀ (s : State) (d a : BitVec 5) (p : BitVec 1) (i : BitVec 15), allFull s [a] → notOwed s d →
     exec (.addi d a p i) s = .next (wrote s d (val s a + i.signExtend 64)) ∧
     exec (.andi d a p i) s = .next (wrote s d (val s a &&& i.signExtend 64)) ∧
     exec (.ori d a p i) s = .next (wrote s d (val s a ||| i.signExtend 64)) ∧
     exec (.xori d a p i) s = .next (wrote s d (val s a ^^^ i.signExtend 64)) ∧
     exec (.slti d a p i) s = .next (wrote s d (if (val s a).toInt < i.toInt then 1 else 0)) ∧
     exec (.sltiu d a p i) s = .next (wrote s d (if (val s a).toNat < (i.signExtend 64).toNat then 1 else 0))) ∧
  ((∀ (s : State) (d a : BitVec 5) (p : BitVec 1) (z n : BitVec 6), allFull s [a] → notOwed s d →
     exec (.slli d a p z n) s = .next (wrote s d (val s a <<< n.toNat)) ∧
     exec (.srli d a p z n) s = .next (wrote s d (val s a >>> n.toNat)) ∧
     exec (.srai d a p z n) s = .next (wrote s d ((val s a).sshiftRight n.toNat)) ∧
     exec (.slliw d a p z n) s = .next (wrote s d ((((val s a).setWidth 32) <<< (n.toNat % 32)).signExtend 64)) ∧
     exec (.srliw d a p z n) s = .next (wrote s d ((((val s a).setWidth 32) >>> (n.toNat % 32)).signExtend 64)) ∧
     exec (.sraiw d a p z n) s = .next (wrote s d ((((val s a).setWidth 32).sshiftRight (n.toNat % 32)).signExtend 64))) ∧
   ∀ n : Nat, n / 2 ^ 26 % 64 = 0x0A → 6 ≤ n / 4096 % 8 → decodeWord n = .illegalInstruction (BitVec.ofNat 32 n)) ∧
  ∀ (s : State) (d : BitVec 5) (i : BitVec 21), notOwed s d →
    exec (.lui d i) s = .next (wrote s d (BitVec.ofInt 64 (i.toInt * 4096))) ∧
    exec (.pcadd d i) s = .next (wrote s d (BitVec.ofNat 64 ((((cc s).pc.toNat : Int) + 4 * i.toInt) % 65536).toNat))

/-! ### Control core: memory and control flow -/

/-- Loads and stores reach the data SRAM at E = A + off once no acquire is pending (01 R34, 09 R258, 10 R281): an address outside it traps with PROT,
one inside that is not aligned with MISALIGN, both with TVAL E; else the store writes the low bytes of D, and the load writes xd unless a word that it
reads has an uncorrectable error: then it makes no change but that its region's fault is raised (21 R471; log 29). -/
def Obligations.LoadStoreResults : Prop :=
  (∀ (s : State) (d a : BitVec 5) (p q : BitVec 1), (cc s).acq = none →
      (∀ i : BitVec 15, allFull s [a] → notOwed s d →
        let e := (val s a + i.signExtend 64).toNat
        let m := (cc s).dsram
        e < 2 ^ 17 →
          (sramGood s e 1 → exec (.lb d a p i) s = .next (wrote s d ((BitVec.ofNat 8 (mgetN m e 1)).signExtend 64)) ∧
            exec (.lbu d a p i) s = .next (wrote s d (BitVec.ofNat 64 (mgetN m e 1)))) ∧
          (sramGood s e 2 → e % 2 = 0 → exec (.lh d a p i) s = .next (wrote s d ((BitVec.ofNat 16 (mgetN m e 2)).signExtend 64)) ∧
            exec (.lhu d a p i) s = .next (wrote s d (BitVec.ofNat 64 (mgetN m e 2)))) ∧
          (sramGood s e 4 → e % 4 = 0 → exec (.lw d a p i) s = .next (wrote s d ((BitVec.ofNat 32 (mgetN m e 4)).signExtend 64)) ∧
            exec (.lwu d a p i) s = .next (wrote s d (BitVec.ofNat 64 (mgetN m e 4)))) ∧
          (sramGood s e 8 → e % 8 = 0 → exec (.ld d a p i) s = .next (wrote s d (BitVec.ofNat 64 (mgetN m e 8)))) ∧
          ∀ (w : Nat) (mk : BitVec 5 → BitVec 5 → BitVec 1 → BitVec 15 → Instr),
            (w, mk) ∈ [(1, Instr.lb), (2, Instr.lh), (4, Instr.lw), (8, Instr.ld), (1, Instr.lbu), (2, Instr.lhu), (4, Instr.lwu)] →
            ¬sramGood s e w → e % w = 0 → exec (mk d a p i) s = .next (ccWait (withFab s (coreUncorr s.fab s.site.core)))) ∧
      (∀ i : BitVec 14, allFull s [a, d] →
        let e := (val s a + i.signExtend 64).toNat
        let st (n : Nat) : State := after s (adv { cc s with
          dsram := mputN (cc s).dsram e n (val s d).toNat
          bad := (cc s).bad.filter fun w => !(decide (8 ≤ n) && (dsramWords e n).contains w) })
        e < 2 ^ 17 →
          exec (.sb d a p q i) s = .next (st 1) ∧ (e % 2 = 0 → exec (.sh d a p q i) s = .next (st 2)) ∧
          (e % 4 = 0 → exec (.sw d a p q i) s = .next (st 4)) ∧ (e % 8 = 0 → exec (.sd d a p q i) s = .next (st 8)))) ∧
  ∀ (s : State) (d a : BitVec 5) (p q : BitVec 1), (cc s).acq = none → ccTa (cc s) = false →
    (∀ (w : Nat) (mk : BitVec 5 → BitVec 5 → BitVec 1 → BitVec 15 → Instr),
      (w, mk) ∈ [(1, Instr.lb), (2, Instr.lh), (4, Instr.lw), (8, Instr.ld), (1, Instr.lbu), (2, Instr.lhu), (4, Instr.lwu)] →
      ∀ i : BitVec 15, allFull s [a] →
        let e := val s a + i.signExtend 64
        (2 ^ 17 ≤ e.toNat → exec (mk d a p i) s = .next (trapped s 0 6 e)) ∧
        (e.toNat < 2 ^ 17 → e.toNat % w ≠ 0 → exec (mk d a p i) s = .next (trapped s 0 3 e))) ∧
    (∀ (w : Nat) (mk : BitVec 5 → BitVec 5 → BitVec 1 → BitVec 1 → BitVec 14 → Instr),
      (w, mk) ∈ [(1, Instr.sb), (2, Instr.sh), (4, Instr.sw), (8, Instr.sd)] →
      ∀ i : BitVec 14, allFull s [a, d] →
        let e := val s a + i.signExtend 64
        (2 ^ 17 ≤ e.toNat → exec (mk d a p q i) s = .next (trapped s 0 6 e)) ∧
        (e.toNat < 2 ^ 17 → e.toNat % w ≠ 0 → exec (mk d a p q i) s = .next (trapped s 0 3 e)))

/-- Branches (09 R259): when the condition holds PC becomes PC + 4 sext(offset) modulo 2^16, else it advances by 4; majors 0x26 and 0x27 are reserved.
Jumps (09 R260): j ignores d, jal and jalr write PC + 4, and jalr to a target that is not word-aligned traps with MISALIGN and TVAL T and writes
nothing. -/
def Obligations.BranchAndJumpTargets : Prop :=
  ((∀ (s : State) (a b : BitVec 5) (p q : BitVec 1) (o : BitVec 14), allFull s [a, b] →
     let go (t : Bool) : State := after s { cc s with pc := if t then (cc s).pc + BitVec.ofInt 16 (4 * o.toInt) else (cc s).pc + 4 }
     exec (.beq a b p q o) s = .next (go (decide (val s a = val s b))) ∧
     exec (.bne a b p q o) s = .next (go (decide (val s a ≠ val s b))) ∧
     exec (.blt a b p q o) s = .next (go (decide ((val s a).toInt < (val s b).toInt))) ∧
     exec (.bge a b p q o) s = .next (go (decide ((val s b).toInt ≤ (val s a).toInt))) ∧
     exec (.bltu a b p q o) s = .next (go (decide ((val s a).toNat < (val s b).toNat))) ∧
     exec (.bgeu a b p q o) s = .next (go (decide ((val s b).toNat ≤ (val s a).toNat)))) ∧
   ∀ n : Nat, n / 2 ^ 26 % 64 = 0x26 ∨ n / 2 ^ 26 % 64 = 0x27 → decodeWord n = .illegalInstruction (BitVec.ofNat 32 n)) ∧
  ∀ (s : State) (d a : BitVec 5) (p : BitVec 1),
    (∀ o : BitVec 21, exec (.j d o) s = .next (after s { cc s with pc := (cc s).pc + BitVec.ofInt 16 (4 * o.toInt) }) ∧
      (notOwed s d → exec (.jal d o) s = .next (after s
        { rset (cc s) d.toNat (((cc s).pc + 4).setWidth 64) with pc := (cc s).pc + BitVec.ofInt 16 (4 * o.toInt) }))) ∧
    ∀ i : BitVec 15, allFull s [a] →
      let t : BitVec 16 := (val s a + i.signExtend 64).setWidth 16
      (t.toNat % 4 = 0 → notOwed s d → exec (.jalr d a p i) s = .next (after s { rset (cc s) d.toNat (((cc s).pc + 4).setWidth 64) with pc := t })) ∧
      (t.toNat % 4 ≠ 0 → ccTa (cc s) = false → exec (.jalr d a p i) s = .next (trapped s 0 3 (t.setWidth 64)))

/-! ### Control core: full and empty, waits, traps, CSRs -/

/-- The full/empty instructions (09 R262). -/
def Obligations.FullEmptyResults : Prop :=
  ∀ (s : State) (d a b : BitVec 5) (p q : BitVec 1),
    let m : BitVec 32 := (val s a).setWidth 32
    let hit : BitVec 32 := m &&& ((cc s).full ||| 1)
    (notOwed s d → exec (.feClr d a b p q) s = .next (after s (adv (rclear (cc s) d.toNat)))) ∧
    (isOwed (cc s) d.toNat = true → exec (.feClr d a b p q) s = .next (ccWait s)) ∧
    (notOwed s d → exec (.feTst d a b p q) s = .next (wrote s d (if isFull (cc s) a.toNat then 1 else 0))) ∧
    (allFull s [a] → exec (.feWait d a b p q) s = .next (after s (adv (cc s)))) ∧
    (∀ i ∈ [Instr.feWait d a b p q, .feTake d a b p q, .feAny d a b p q], isFull (cc s) a.toNat = false →
      (p = 0 → exec i s = .next (ccWait s)) ∧ (p = 1 → ccTa (cc s) = false → exec i s = .next (trapped s 0 2 (a.setWidth 64)))) ∧
    (allFull s [a] → isOwed (cc s) d.toNat = true → ∀ i ∈ [Instr.feTst d a b p q, .feTake d a b p q, .feAny d a b p q], exec i s = .next (ccWait s)) ∧
    (allFull s [a] → notOwed s d →
      exec (.feTake d a b p q) s = .next (after s (adv (rset (rclear (cc s) a.toNat) d.toNat (val s a))))) ∧
    (allFull s [a] → notOwed s d → m = 0 ∨ hit ≠ 0 → exec (.feAny d a b p q) s = .next (wrote s d (hit.setWidth 64))) ∧
    (allFull s [a] → m ≠ 0 → hit = 0 → exec (.feAny d a b p q) s = .next (ccWait s))

/-- A source that is empty: marked, the first in field order traps with EMPTYREG and its number; unmarked, the instruction waits; nothing else has
changed. This holds of every form that reads a register: register, unary, immediate, load, store, branch and jump forms, CSR instructions and commands
whose earlier checks pass (09 R249-R251, 10 R278). An instruction with full sources whose destination is owed waits (09 R250). -/
def Obligations.EmptySourcesWaitOrTrap : Prop :=
  (∀ (s : State) (i : Instr) (l : List (BitVec 5 × BitVec 1)), coreSources i = some l → sourcesDue s i →
    (∀ r, ccTa (cc s) = false → l.find? (fun x => x.2 == 1 && !isFull (cc s) x.1.toNat) = some (r, 1) →
      exec i s = .next (trapped s 0 2 (r.setWidth 64))) ∧
    ((∀ x ∈ l, x.2 = 1 → isFull (cc s) x.1.toNat = true) → (∃ x ∈ l, isFull (cc s) x.1.toNat = false) → exec i s = .next (ccWait s))) ∧
  ∀ (s : State) (i : Instr) (d : BitVec 5), plainDest i = some (some d) → isOwed (cc s) d.toNat = true →
    (∀ l, coreSources i = some l → ∀ x ∈ l, isFull (cc s) x.1.toNat = true) →
    (∀ a p o, i ∉ [Instr.lb d a p o, .lh d a p o, .lw d a p o, .ld d a p o, .lbu d a p o, .lhu d a p o, .lwu d a p o, .jalr d a p o]) →
    exec i s = .next (ccWait s)

/-- trap n and brk enter the handler, and so does a word that no row assigns (09 R212, R270, R271): tepc, tcause and tval are saved, PMODE and PIE
keep MODE and IE, IE falls, TA rises, MODE becomes SUPOK and the PC tvec; nothing else of the core changes but its cycle count. -/
def Obligations.TrapInstructionsEnter : Prop :=
  ∀ (s : State) (d a b : BitVec 5) (p q : BitVec 1) (w : BitVec 32), ccTa (cc s) = false → 
    exec (.trap d a b p q) s = .next (trapped s 1 b.toNat (b.setWidth 64)) ∧
    exec (.brk d a b p q) s = .next (trapped s 0 0x0F 0) ∧
    (supervisorWord w.toNat = false → exec (.illegalInstruction w) s = .next (trapped s 0 1 (w.setWidth 64))) ∧
    ∀ (kind code : Nat) (v : Word), kind < 4 → code < 256 →
      let c := cc s
      let t := ccOf (trapped s kind code v).fab s.site.core
      t.tepc = c.pc.setWidth 64 ∧ t.tcause = BitVec.ofNat 64 (kind * 2 ^ 14 + code) ∧ t.tval = v ∧ ccPmode t = ccMode c ∧ ccPie t = ccIe c ∧
        ccIe t = false ∧ ccTa t = true ∧ ccMode t = ccSupok c ∧ ccSupok t = ccSupok c ∧ t.pc = c.tvec.setWidth 16 ∧
        t.x = c.x ∧ t.full = c.full ∧ t.owed = c.owed ∧ t.dsram = c.dsram ∧ t.isram = c.isram ∧ t.instret = c.instret ∧ portsSame c t

/-- tret is guarded: in user mode with SUPOK set it traps with PRIV; otherwise PC takes tepc, MODE takes PMODE and SUPOK, IE takes PIE and TA falls
(09 R252, R272). wfe completes when an unmasked event is pending and waits otherwise (09 R268). -/
def Obligations.ReturnAndWaitForEvent : Prop :=
  ∀ (s : State) (d a b : BitVec 5) (p q : BitVec 1),
    let c := cc s
    ((ccSupok c = true → ccMode c = true) → ∃ t, exec (.tret d a b p q) s = .next t ∧
      let u := ccOf t.fab s.site.core
      u.pc = c.tepc.setWidth 16 ∧ ccMode u = (ccPmode c && ccSupok c) ∧ ccIe u = ccPie c ∧ ccTa u = false ∧ ccSupok u = ccSupok c ∧
        u.x = c.x ∧ u.full = c.full ∧ u.dsram = c.dsram ∧ u.instret = c.instret + 1 ∧ outsideSame s t) ∧
    (ccSupok c = true → ccMode c = false → ccTa c = false → ∀ w, encodeWord (.tret d a b p q) = some w →
      exec (.tret d a b p q) s = .next (trapped s 0 4 (BitVec.ofNat 64 w))) ∧
    (c.evpend &&& c.evmask ≠ 0 → exec (.wfe d a b p q) s = .next (after s (adv c))) ∧
    (c.evpend &&& c.evmask = 0 → exec (.wfe d a b p q) s = .next (ccWait s))

/-- A CSR instruction returns the old value to xd and writes the CSR as its operation says, a = x0 writing nothing for csrrs and csrrc (09 R263,
R264). In this order, an unassigned number traps with ILLOP, so does a write of a read-only CSR, or of evpend but by csrrc, and a CSR marked G in user
mode with SUPOK set traps with PRIV; TVAL is the instruction word (09 R252, R264, R266). -/
def Obligations.CsrInstructions : Prop :=
  (∀ (s : State) (d a : BitVec 5) (p : BitVec 1) (n : BitVec 12), allFull s [a] → notOwed s d →
    let old := csrGet s s.site.core n.toNat 0
    let put (v : Word) : CC := csrPut (cc s) n.toNat v
    (csrPasses s 1 a n → exec (.csrrw d a p n) s = .next (after s (adv (rset (put (val s a)) d.toNat old)))) ∧
    (csrPasses s 2 a n → a ≠ 0 → exec (.csrrs d a p n) s = .next (after s (adv (rset (put (old ||| val s a)) d.toNat old)))) ∧
    (csrPasses s 3 a n → a ≠ 0 → exec (.csrrc d a p n) s = .next (after s (adv (rset (put (old &&& ~~~val s a)) d.toNat old)))) ∧
    (csrPasses s 2 0 n → exec (.csrrs d 0 p n) s = .next (wrote s d old)) ∧
    (csrPasses s 3 0 n → exec (.csrrc d 0 p n) s = .next (wrote s d old))) ∧
  ∀ (s : State) (d a : BitVec 5) (p : BitVec 1) (n : BitVec 12) (op : Nat) (mk : BitVec 5 → BitVec 5 → BitVec 1 → BitVec 12 → Instr) (w : Nat),
    (op, mk) ∈ [(1, Instr.csrrw), (2, Instr.csrrs), (3, Instr.csrrc)] → encodeWord (mk d a p n) = some w → ccTa (cc s) = false →
    let writes := op = 1 ∨ a ≠ 0
    let shut := csrRo n.toNat = true ∨ (n = 0x010 ∧ op ≠ 3)
    (csrGuarded n.toNat = false → csrRo n.toNat = false → exec (mk d a p n) s = .next (trapped s 0 1 (BitVec.ofNat 64 w))) ∧
    (writes → shut → exec (mk d a p n) s = .next (trapped s 0 1 (BitVec.ofNat 64 w))) ∧
    (¬(writes ∧ shut) → csrGuarded n.toNat = true → ccSupok (cc s) = true → ccMode (cc s) = false →
      exec (mk d a p n) s = .next (trapped s 0 4 (BitVec.ofNat 64 w)))

/-- A trap while TA is set halts the core, whether an instruction or a fault raises it: ccstat takes the second cause and STATE 2, the first trap's
registers stay, and the hub reports the halt with CAUSE the fault's code, or 0 after a trap instruction, and ccstat in INFO1 (09 R271, 15 R420). -/
def Obligations.DoubleTrapHalts : Prop :=
  ∀ (s : State) (d a b : BitVec 5) (p q : BitVec 1), ccTa (cc s) = true →
    exec (.trap d a b p q) s = .next (haltedBy s 1 b.toNat) ∧
    exec (.brk d a b p q) s = .next (haltedBy s 0 0x0F) ∧
    (∀ w : BitVec 32, supervisorWord w.toNat = false → exec (.illegalInstruction w) s = .next (haltedBy s 0 1)) ∧
    ((cc s).acq = none → ∀ (w : Nat) (mk : BitVec 5 → BitVec 5 → BitVec 1 → BitVec 15 → Instr),
      (w, mk) ∈ [(1, Instr.lb), (2, Instr.lh), (4, Instr.lw), (8, Instr.ld), (1, Instr.lbu), (2, Instr.lhu), (4, Instr.lwu)] →
      ∀ i : BitVec 15, allFull s [a] →
        (2 ^ 17 ≤ (val s a + i.signExtend 64).toNat → exec (mk d a p i) s = .next (haltedBy s 0 6)) ∧
        ((val s a + i.signExtend 64).toNat < 2 ^ 17 → (val s a + i.signExtend 64).toNat % w ≠ 0 → exec (mk d a p i) s = .next (haltedBy s 0 3))) ∧
    ((cc s).acq = none → ∀ (w : Nat) (mk : BitVec 5 → BitVec 5 → BitVec 1 → BitVec 1 → BitVec 14 → Instr),
      (w, mk) ∈ [(1, Instr.sb), (2, Instr.sh), (4, Instr.sw), (8, Instr.sd)] →
      ∀ i : BitVec 14, allFull s [a, d] →
        (2 ^ 17 ≤ (val s a + i.signExtend 64).toNat → exec (mk d a p q i) s = .next (haltedBy s 0 6)) ∧
        ((val s a + i.signExtend 64).toNat < 2 ^ 17 → (val s a + i.signExtend 64).toNat % w ≠ 0 → exec (mk d a p q i) s = .next (haltedBy s 0 3))) ∧
    (∀ i ∈ [Instr.beq a b p q 0, .bne a b p q 0, .blt a b p q 0, .bge a b p q 0, .bltu a b p q 0, .bgeu a b p q 0], p = 1 → isFull (cc s) a.toNat = false →
      exec i s = .next (haltedBy s 0 2)) ∧
    (∀ i : BitVec 15, allFull s [a] → ((val s a + i.signExtend 64).setWidth 16).toNat % 4 ≠ 0 → exec (.jalr d a p i) s = .next (haltedBy s 0 3)) ∧
    ∀ kind code : Nat, kind < 2 → code < 256 →
      let c := cc s
      let t := haltedBy s kind code
      let u := ccOf t.fab s.site.core
      u.state = 2 ∧ u.skind = BitVec.ofNat 2 kind ∧ u.scode = BitVec.ofNat 8 code ∧ u.tepc = c.tepc ∧ u.tcause = c.tcause ∧ u.tval = c.tval ∧
        u.tstat = c.tstat ∧ u.pc = c.pc ∧ u.x = c.x ∧ u.instret = c.instret ∧
      ∀ rid r, regionOf s.fab s.site.core = some (rid, r) →
        t = postReport { setCc s (doubleTrap (ccTick s.free c) kind code) with free := s.free + 1 } s.site.core r.plane
          { cause := if kind = 0 then code else 0, effect := 5, key := some (100 * s.site.core), info0 := c.tepc
            info1 := BitVec.ofNat 64 (kind * 2 ^ 16 + code * 2 ^ 8 + 2) }

/-- The frame of the integer, load, branch and jump instructions (09 R250-R260): nothing outside the core changes, but for the fault that a load of a
bad word raises (21 R471; log 29), nor its SRAM, owed bits, ports, trap and event CSRs (unless it traps), nor any register but the destination. -/
def Obligations.PlainInstructionsFrame : Prop :=
  ∀ (i : Instr) (d : Option (BitVec 5)) (s t : State), plainDest i = some d → ccTa (cc s) = false → exec i s = .next t →
    let c := cc s
    let u := ccOf t.fab s.site.core
    (outsideSame s t ∨ t = ccWait (withFab s (coreUncorr s.fab s.site.core))) ∧ (∀ x, mget u.dsram x = mget c.dsram x) ∧
      (∀ x, mget u.isram x = mget c.isram x) ∧ u.owed = c.owed ∧ portsSame c u ∧
      (∀ r : BitVec 5, some r ≠ d → rget u r.toNat = rget c r.toNat ∧ isFull u r.toNat = isFull c r.toNat) ∧
      rget u 0 = 0 ∧ isFull u 0 = true ∧ (csrsSame c u ∨ ∃ kind code v, t = trapped s kind code v)

/-- The frame of the stores (09 R258): every byte of the data SRAM outside the stored bytes at E = A + off, and every register, is as before; a store
that traps writes no byte. -/
def Obligations.StoresFrame : Prop :=
  ∀ (i : Instr) (n : Nat) (d a : BitVec 5) (o : BitVec 14) (s t : State), storeParts i = some (n, d, a, o) → ccTa (cc s) = false →
    exec i s = .next t →
    let c := cc s
    let u := ccOf t.fab s.site.core
    let e := (val s a + o.signExtend 64).toNat
    outsideSame s t ∧ (∀ x, x < e ∨ e + n ≤ x → mget u.dsram x = mget c.dsram x) ∧ (∀ x, mget u.isram x = mget c.isram x) ∧
      u.x = c.x ∧ u.full = c.full ∧ u.owed = c.owed ∧ portsSame c u ∧
      (csrsSame c u ∨ ∃ kind code v, t = trapped s kind code v ∧ u.dsram = c.dsram)

/-- The frame of the full/empty writes, the CSR instructions and tret (09 R262-R264, R272): nothing outside the core changes, nor its SRAM, owed bits
or ports; a register changes only as feTake or a CSR instruction writes d, a full bit only as feClr empties d, feTake empties a and fills d, or a CSR
instruction fills d; a CSR changes only as the instruction names it, or as a trap is taken. The frame of the stream commands (10 R278-R280): no
register and no SRAM word of the core changes, no full or owed bit but the reply register's, no CSR but the pending events unless it traps, and no
byte of a scratchpad or local store anywhere. -/
def Obligations.SystemInstructionsFrame : Prop :=
  (∀ (i : Instr) (d a b : BitVec 5) (p q : BitVec 1) (n : BitVec 12) (s t : State), ccTa (cc s) = false → exec i s = .next t →
    let c := cc s
    let u := ccOf t.fab s.site.core
    let csr := i = .csrrw d a p n ∨ i = .csrrs d a p n ∨ i = .csrrc d a p n
    let traps := ∃ kind code v, t = trapped s kind code v
    (i = .feClr d a b p q ∨ i = .feTake d a b p q ∨ i = .tret d a b p q ∨ csr →
      outsideSame s t ∧ u.dsram = c.dsram ∧ u.isram = c.isram ∧ u.owed = c.owed ∧ portsSame c u) ∧
    (i = .feClr d a b p q → u.x = c.x ∧ csrsSame c u ∧ ∀ r : BitVec 5, r ≠ d → isFull u r.toNat = isFull c r.toNat) ∧
    (i = .feTake d a b p q → (csrsSame c u ∨ traps) ∧
      ∀ r : BitVec 5, r ≠ d → rget u r.toNat = rget c r.toNat ∧ (r ≠ a → isFull u r.toNat = isFull c r.toNat)) ∧
    (csr → (∀ r : BitVec 5, r ≠ d → rget u r.toNat = rget c r.toNat ∧ isFull u r.toNat = isFull c r.toNat) ∧
      (traps ∨ u.skind = c.skind ∧ u.scode = c.scode ∧ (n ≠ 0x000 → u.tstat = c.tstat) ∧ (n ≠ 0x001 → u.tvec = c.tvec) ∧ (n ≠ 0x002 → u.tepc = c.tepc) ∧
        (n ≠ 0x003 → u.tcause = c.tcause) ∧ (n ≠ 0x004 → u.tval = c.tval) ∧ (n ≠ 0x005 → u.tscr = c.tscr) ∧ (n ≠ 0x010 → u.evpend = c.evpend) ∧
        (n ≠ 0x011 → u.evmask = c.evmask) ∧ (n ≠ 0x012 → u.tcmp = c.tcmp))) ∧
    (i = .tret d a b p q → u.x = c.x ∧ u.full = c.full ∧ (traps ∨ csrsSame { c with tstat := u.tstat } u))) ∧
  ∀ (i : Instr) (r : BitVec 5) (s t : State), commandReply i = some r → ccTa (cc s) = false → exec i s = .next t →
    let c := cc s
    let u := ccOf t.fab s.site.core
    u.x = c.x ∧ u.dsram = c.dsram ∧ u.isram = c.isram ∧ u.started = c.started ∧
      (∀ x : BitVec 5, x ≠ r → isFull u x.toNat = isFull c x.toNat ∧ isOwed u x.toNat = isOwed c x.toNat) ∧
      (csrsSame { c with evpend := u.evpend } u ∨ ∃ kind code v, t = trapped s kind code v) ∧ tilesSame s t

/-! ### Commands -/

/-- Source-port commands (10 R283-R285, R295): inject appends the descriptor's value to the log of a bound port with room, vend the end mark and
unbinds it, vbind binds an unbound port, rmark asks for an early edge; a port in the wrong state is ILLOP. That a context which comes to a port anew
starts there in its region's next round to commit is the model's reading, R283 naming no round (log 50). -/
def Obligations.PortCommands : Prop :=
  ∀ (s : State) (a : BitVec 5) (p : BitVec 1) (l : BitVec 3) (n : BitVec 4),
    let c := cc s
    let k := s.site.core
    let s1 := setCc s (adv c)
    let v := vinOf c n.toNat
    let d := val s a
    (∀ b : Word, v.bind = some b → v.kept.length + v.queue.length < 64 →
      (canIssue s 0 [a] → exec (.inject a p l n) s = .next (ccDone (withFab s1 (vinBoth s1.fab k n.toNat fun u =>
        { u with queue := u.queue ++ [(u.bind.getD 0, stamp false { data := d.setWidth 512, ctag := BitVec.ofNat 8 (b.toNat / 256), lvl := l
                                                                    ctx := BitVec.ofNat 2 b.toNat })] })))) ∧
      (canIssue s 0 [] → exec (.vend a p n) s = .next (ccDone (withFab s1 (vinBoth s1.fab k n.toNat fun u =>
        { u with queue := u.queue ++ [(u.bind.getD 0, stamp false { kind := 3, ctx := BitVec.ofNat 2 b.toNat })], bind := none }))))) ∧
    (v.bind = none → canIssue s 0 [a] → vbindOk d = true → exec (.vbind a p n) s = .next (ccDone (withFab s1 (vinBoth s1.fab k n.toNat fun u =>
        { u with bind := some d
                 ctxs := if (vinWord u (d.toNat % 4)).isSome then u.ctxs
                   else tins u.ctxs (d.toNat % 4) { round := match myRegion s with
                     | some (_, r) => (ctxOf r (d.toNat % 4)).cround + 1
                     | none => 0 } })))) ∧
    (d.toNat < 4 → canIssue s 0 [a] → exec (.rmark a p) s = .next (ccDone (withFab s1 (earlyEdge s1.fab k d.toNat)))) ∧
    (v.bind = none → ccTa c = false → ∃ x, exec (.inject a p l n) s = .next (trapped s 0 1 x)) ∧
    (v.bind = none → ccTa c = false → ∃ x, exec (.vend a p n) s = .next (trapped s 0 1 x)) ∧
    (v.bind.isSome → ccTa c = false → ∃ x, exec (.vbind a p n) s = .next (trapped s 0 1 x))

/-- Sink-port and reply commands (10 R286, R287, R296): rdout waits in its sink's list, accrst binds or unbinds an accumulator at the identity of its
operation, rdacc replies with the accumulator, wcommit owes its reply; what is due is served at once. -/
def Obligations.ReplyCommands : Prop :=
  ∀ (s : State) (r a : BitVec 5) (p : BitVec 1) (n : BitVec 4) (j : BitVec 3),
    let c := cc s
    let k := s.site.core
    let d := val s a
    let u := tget {} c.sinks n.toNat
    (canIssue s r [] → accOfPort c n.toNat = none → u.waiting.length < 8 →
      let s1 := setCc s { adv (rowe c r.toNat) with sinks := tins c.sinks n.toNat { u with waiting := u.waiting ++ [r.toNat] } }
      exec (.rdout r a p n) s = .next (ccDone (withFab s1 (serveCore s1.fab k n.toNat)))) ∧
    (canIssue s 0 [a] → d.toNat < 256 → bit d.toNat 4 = false →
      (bit d.toNat 7 = true → ∀ i, accOfPort c (d.toNat % 16) = some i → i = j.toNat) → (tget {} c.sinks (d.toNat % 16)).waiting = [] →
      let x : Acc := if bit d.toNat 7 then { val := accIdentity (fld d.toNat 5 2), bind := some d } else {}
      let s1 := setCc s (adv { c with accs := tins c.accs j.toNat x })
      exec (.accrst a p j) s = .next (ccDone (withFab s1 (serveCore s1.fab k (d.toNat % 16))))) ∧
    (canIssue s r [] → r ≠ 0 →
      let s1 := setCc s (adv (rowe c r.toNat))
      exec (.rdacc r a p j) s = .next (ccDone (withFab s1 (sendFill s1.fab k r.toNat (tget {} c.accs j.toNat).val)))) ∧
    (canIssue s r [a] → r ≠ 0 → fld d.toNat 2 30 = 0 →
      let s1 := setCc s { adv (rowe c r.toNat) with wcs := c.wcs ++ [(r.toNat, d.toNat % 4, BitVec.ofNat 32 (d.toNat / 2 ^ 32))] }
      exec (.wcommit r a p) s = .next (ccDone (withFab s1 (wcSettle s1.fab k))))

/-- Fences and drains (10 R293, R294): each completes once no earlier command of the core is outstanding in the memories that it covers, changing
nothing but the PC, and waits until then. -/
def Obligations.FencesAndDrains : Prop :=
  ∀ (s : State) (a : BitVec 5) (p : BitVec 1) (m : BitVec 9) (i : Instr),
    (m, i) ∈ [(scopeMems 0, Instr.fencePl a p), (scopeMems 1, .fenceRg a p), (scopeMems 2, .fencePt a p), (scopeMems 3, .fenceSy a p),
      (0x020, .drainDm a p), (0x040, .drainSp a p), (0x080, .drainHm a p), (0x100, .drainCf a p)] →
    (canIssue s 0 [] → owing (cc s) m = false → exec i s = .next (after s (adv (cc s)))) ∧
    (owing (cc s) m = true → exec i s = .next (ccWait s))

/-- kwr in supervisor mode (10 R303): with a legal block naming a compute tile of the region, the value replaces the one pending for the register, the
command it replaces completes, and the write is settled by the plane's state. In user mode kwr and the xinv commands trap with PRIV, whether SUPOK is
set or not (09 R252, 10 R303, 02 R65). -/
def Obligations.ConstantRegisterWrites : Prop :=
  (∀ (s : State) (a : BitVec 5) (p : BitVec 1) (b rid key : Nat) (g : Region), ccMode (cc s) = true → canIssue s 0 [a] → blockAt s a 32 b →
      myRegion s = some (rid, g) → relKey g (fld b 0 7) (fld b 7 7) = some key → kindOf key = .compute → fld b 19 45 = 0 → fld b 128 128 = 0 →
      let c := cc s
      let old := tget (0, 0, 0) (planeOf (elemOf s.fab key) (fld b 14 2)).kwr (fld b 16 3)
      let s1 := setCc s (issued c 0 0x100 false)
      exec (.kwr a p) s = .next (ccDone (withFab s1 (kwrRun (modElem (cmdDone s1.fab old.2.1 old.2.2) key fun e =>
        modPlane e (fld b 14 2) fun q => { q with kwr := tins q.kwr (fld b 16 3) (BitVec.ofNat 64 (fld b 64 64), s.site.core, c.nextId) })
        key (fld b 14 2))))) ∧
  ∀ (s : State) (a : BitVec 5) (p : BitVec 1), ccMode (cc s) = false → ccTa (cc s) = false →
    (∃ v, exec (.kwr a p) s = .next (trapped s 0 4 v)) ∧ (∃ v, exec (.xinvVa a p) s = .next (trapped s 0 4 v)) ∧
    (∃ v, exec (.xinvFn a p) s = .next (trapped s 0 4 v)) ∧ (∃ v, exec (.xinvPart a p) s = .next (trapped s 0 4 v))

/-- Commands to an AG node (10 R288-R292): with legal blocks and room in the inbox, copy, sbind and aflush enter the inbox of node n and owe their
reply. -/
def Obligations.AgNodeCommands : Prop :=
  ∀ (s : State) (r a : BitVec 5) (p : BitVec 1) (n : BitVec 4) (b : Nat), canIssue s r [a] → inboxFull s.fab (agKey s.site.core n.toNat) = false →
    let c := cc s
    let key := agKey s.site.core n.toNat
    let send (mems : BitVec 9) (x : AgCmd) : State :=
      let s1 := setCc s (issued c r.toNat mems false)
      ccDone (withFab s1 (agPush s1.fab key x))
    let x : AgCmd := { core := s.site.core, id := c.nextId, reg := r.toNat, cmd := 0, d := val s a, block := mputN [] 0 64 b, sup := ccMode c }
    (∀ rid g, myRegion s = some (rid, g) → blockAt s a 64 b → relWait c (copyOrd b) = false → fld b 232 24 = 0 → fld b 296 24 = 0 → fld b 330 6 = 0 →
      fld b 368 16 = 0 → fld b 384 128 = 0 → copyCnt0 b ≠ 0 → copyCnt1 b ≠ 0 → copySsp b ≠ 3 → copyDsp b ≠ 3 →
      ¬(copySsp b = 2 ∧ copyDsp b = 2) → bit (copyOrd b) 0 = false → latchOk (fld b 336 32) = true →
      (∀ y ∈ corners b copySrc, spaceProt g (copySsp b) y = false ∧ y % 64 = 0) →
      (∀ y ∈ corners b copyDst, spaceProt g (copyDsp b) y = false ∧ y % 64 = 0) →
      exec (.copy r a p n) s = .next (send (spaceMems (copySsp b) ||| spaceMems (copyDsp b) ||| drainMems (copyDsp b)) x)) ∧
    (r ≠ 0 → blockAt s a 128 b → bit b 3 = false → fld b 6 2 = 0 → fld b 11 245 = 0 →
      exec (.sbind r a p n) s = .next (send 0 { x with cmd := 1, block := mputN [] 0 128 b, sup := false })) ∧
    ((val s a).toNat < 4 → exec (.aflush r a p n) s = .next (send 1 { x with cmd := 2, block := [], sup := false }))

/-- Atomic commands (10 R297, R298): with a legal block that names a field of memory tile n and a free place of that tile's command queue, the request
goes to the tile over the configuration path with its operation, and an acquire makes the core wait for its reply. -/
def Obligations.AtomicCommands : Prop :=
  ∀ (s : State) (r a : BitVec 5) (p : BitVec 1) (n : BitVec 4) (b rid : Nat) (g : Region) (op : Nat)
    (mk : BitVec 5 → BitVec 5 → BitVec 1 → BitVec 4 → Instr),
    (op, mk) ∈ [(0, Instr.amoAddCmd), (1, Instr.amoMinCmd), (2, Instr.amoMaxCmd), (3, Instr.amoAndCmd), (4, Instr.amoOrCmd), (5, Instr.amoXorCmd),
      (6, Instr.amoXchgCmd), (7, Instr.amoCasCmd)] →
    canIssue s r [a] → blockAt s a 32 b → myRegion s = some (rid, g) → amoWaiting s.fab s.site.core (mtKey s.site.core n.toNat) < 16 →
    ¬(bit (fld b 32 4) 0 = true ∧ r = 0) → relWait (cc s) (fld b 32 4) = false → fld b 39 25 = 0 → fld b 192 64 = 0 →
    (∃ q, spPlace g (fld b 0 32) = some q ∧ q.1 = 16 * regionCoreNo g s.site.core + n.toNat) →
    fld b 0 32 % (if bit b 38 then 8 else 4) = 0 →
    let c := cc s
    let c1 := issued c r.toNat 1 false
    let s1 := setCc s (if bit (fld b 32 4) 0 then { c1 with acq := some r.toNat } else c1)
    let q : MemReq := { src := 1, plane := fld b 36 2, op := 0x304 + op, addr := BitVec.ofNat 32 (fld b 0 32), size := if bit b 38 then 8 else 4
                        key := s.site.core, data := BitVec.ofNat 512 (fld b 64 64), cmp := BitVec.ofNat 64 (fld b 128 64), id := c.nextId, reg := r.toNat
                        queue := mtKey s.site.core n.toNat }
    exec (mk r a p n) s = .next (ccDone (withFab s1 (modElem s1.fab (mtKey s.site.core n.toNat) fun e =>
      { e with mt := { e.mt with cfgq := e.mt.cfgq ++ [q] } })))

/-- Sequencer commands (10 R299, R300, 15 R412): a swap of a bound owner context at least the horizon ahead becomes pending; revoke and relend of a
drift context that stands otherwise send their messages, and a relend of one that its own fault revoked waits for its function. -/
def Obligations.SequencerCommands : Prop :=
  ∀ (s : State) (r a : BitVec 5) (p : BitVec 1) (rid : Nat) (g : Region), canIssue s r [a] → hubFull (cc s) = false → myRegion s = some (rid, g) →
    let c := cc s
    let s1 := setCc s (issued c r.toNat 0 (r != 0))
    (∀ b, blockAt s a 32 b → fld b 2 2 = 0 → fld b 6 58 = 0 → fld b 128 128 = 0 → fld b 0 2 ≠ fld b 4 2 → ctxBoundAll s.fab g (fld b 0 2) = true →
      (ctxOf g (fld b 0 2)).drift = false → g.swap = none → s.clk.dtime.toNat + 984 ≤ fld b 64 64 →
      let w : Swap := { old := fld b 0 2, new := fld b 4 2, tick := BitVec.ofNat 64 (fld b 64 64), core := s.site.core, id := c.nextId, reg := r.toNat }
      exec (.swap r a p) s = .next (ccDone (withFab s1 (modRegion s1.fab rid fun g => { g with swap := some w })))) ∧
    (∀ did x, (val s a).toNat < 4 → driftIn s.fab rid (val s a).toNat = some (did, x) →
      (x.restart = false → x.lent = true →
        exec (.revoke r a p) s = .next (ccDone (withFab s1 (sendDrift s1.fab did 1 (some (s.site.core, c.nextId, r.toNat)))))) ∧
      (x.restart = false → x.ownFault = false → x.lent = false → g.swap = none →
        exec (.relend r a p) s = .next (ccDone (withFab s1 (sendDrift s1.fab did 2 (some (s.site.core, c.nextId, r.toNat)))))) ∧
      (x.ownFault = true → exec (.relend r a p) s = .next (ccDone (withFab s1 (modRegion s1.fab did fun x =>
        { x with later := x.later ++ [(2, some (s.site.core, c.nextId, r.toNat))] })))))

/-- Hub commands (10 R301, R302, 02 R64, R65, 22 R484): a lease is granted or refused as the hub's estimate goes (the estimate itself is the model's
free choice, log 17), lease.end ends the core's lease, launch enters the child queue, an invalidation in supervisor mode begins. -/
def Obligations.HubCommands : Prop :=
  ∀ (s : State) (r a : BitVec 5) (p : BitVec 1) (rid : Nat) (g : Region), myRegion s = some (rid, g) →
    let c := cc s
    let k := s.site.core
    let d := val s a
    (canIssue s r [a] → hubFull c = false → r ≠ 0 → 0 < d.toNat → d.toNat ≤ 983040 → g.leaseEnd = none → bit (partOf s.hub g.launch.part).metcfg.toNat 63 = true →
      let s1 := { setCc s (issued c r.toNat 0 true) with free := s.free + 1 }
      let no := ccDone (withFab s1 (cmdReply s1.fab k c.nextId r.toNat 0))
      let s2 := { s1 with hub := modPart s.hub g.launch.part fun q => { q with leases := q.leases + 1 } }
      let yes := ccDone (withFab s2 (cmdReply (selectSpine (modRegion { s1.fab with nextLease := s1.fab.nextLease + 1 } rid fun g =>
        { g with leaseEnd := some (s.clk.dtime + d), leaseCore := k, lease := some s.clk.dtime, leaseNo := s1.fab.nextLease }) g 7) k c.nextId r.toNat
        (s.clk.dtime + d)))
      exec (.lease r a p) s = .next (if Config.leaseFits s.free then yes else no)) ∧
    (canIssue s 0 [] → hubFull c = false → g.leaseEnd.isSome → g.leaseCore = k →
      let s1 := setCc s (adv c)
      exec (.leaseEnd a p) s = .next (ccDone (withFab s1 (endLease s1.fab rid)))) ∧
    (canIssue s r [a] → hubFull c = false → d.toNat < 2 ^ 52 → d.toNat % 64 = 0 →
      let s1 := setCc s (issued c r.toNat 0 true)
      let fn := g.launch.fn
      exec (.launch r a p) s = .next (ccDone { s1 with hub := modPart s.hub g.launch.part fun q =>
        { q with
          children := tins q.children fn (tget [] q.children fn ++ [⟨d, k, c.nextId, r.toNat, lClass g.launch, tget 0 q.childIdx fn⟩])
          childIdx := tins q.childIdx fn (tget 0 q.childIdx fn + 1) } })) ∧
    (∀ part, corePart s.hub k = some part → canIssue s 0 [a] → ccMode c = true → ((partOf s.hub part).invals.countP fun i => i.core == some k) < 8 →
      let go (kind : Nat) : State :=
        ccDone { setCc s (issued c 0 0x100 false) with hub := modPart s.hub part fun q =>
          { q with invals := q.invals ++ [{ kind := kind, fn := d.toNat % 32, va := fld d.toNat 12 40 * 4096, core := some k, id := c.nextId }] } }
      (fld d.toNat 52 12 = 0 → fld d.toNat 5 7 = 0 → d.toNat % 32 ≤ vfCnt (partOf s.hub part) → exec (.xinvVa a p) s = .next (go 0)) ∧
      (d.toNat < 32 → d.toNat ≤ vfCnt (partOf s.hub part) → exec (.xinvFn a p) s = .next (go 1)) ∧
      (d = 0 → exec (.xinvPart a p) s = .next (go 2)))

/-! ### Vector operations -/

/-- Float operations on independent lanes (11 R316-R318, R325): every lane is the exact result rounded once under rnd and sat; the condition bit tells
whether some lane is NaN. The precision of vexp2 and vlog2 is the model's (log 8). -/
def Obligations.FloatLanes : Prop :=
  ∀ e ∈ floatOps, ∀ (s : State) (w : Slot), vecFires s e.1 w →
    let fm := w.fmt.toNat
    let n := laneBits fm
    let a := srcA s e.1 w
    let b := srcB s e.1 w
    let c := srcC s e.1 w
    let v (i : Nat) : Nat := (fencode fm w.rnd.toNat (w.sat == 1 && e.1 != 0x00A)
      (e.2.2 w.rnd.toNat (fdecode fm (laneAt n a i)) (fdecode fm (laneAt n b i)) (fdecode fm (laneAt n c i)))).bits
    ∃ (r : Line) (k : Bool), exec (e.2.1 w) s = .next (vecDone s e.1 w r k) ∧ (∀ i, i < 512 / n → laneAt n r i = v i % 2 ^ n) ∧
      (k = true ↔ ∃ i, i < 512 / n ∧ isNaNBits fm (v i) = true)

/-- Integer operations, shifts and bitwise operations (11 R315, R317, R319): every lane is the exact result, clamped or wrapped; the condition bit
tells of a lane out of range, or of a bit that a right shift discarded. That the condition bit tests the whole 512-bit result before any narrowing is
the model's reading (log 35). -/
def Obligations.IntegerLanes : Prop :=
  ∀ (s : State) (w : Slot),
    let fm := w.fmt.toNat
    let n := laneBits fm
    let sat := w.sat == 1
    (∀ e ∈ integerOps, vecFires s e.1 w →
      let v (i : Nat) : Nat × Bool := fitInt fm sat
        (e.2.2 (ival fm (laneAt n (srcA s e.1 w) i)) (ival fm (laneAt n (srcB s e.1 w) i)) (ival fm (laneAt n (srcC s e.1 w) i)))
      ∃ (r : Line) (k : Bool), exec (e.2.1 w) s = .next (vecDone s e.1 w r k) ∧ (∀ i, i < 512 / n → laneAt n r i = (v i).1 % 2 ^ n) ∧
        (k = true ↔ ∃ i, i < 512 / n ∧ (v i).2 = true)) ∧
    (∀ e ∈ bitOps, vecFires s e.1 w →
      ∃ r : Line, exec (e.2.1 w) s = .next (vecDone s e.1 w r (r != 0)) ∧
        ∀ i, i < 512 → r.getLsbD i = e.2.2 ((srcA s e.1 w).getLsbD i) ((srcB s e.1 w).getLsbD i)) ∧
    (vecFires s 0x028 w → fm ∈ [1, 2, 3, 11] →
      let v (i : Nat) : Nat × Bool := fitInt fm sat (ival fm (laneAt n (srcA s 0x028 w) i) * 2 ^ laneAt n (srcB s 0x028 w) i)
      ∃ (r : Line) (k : Bool), exec (.vshl w) s = .next (vecDone s 0x028 w r k) ∧ (∀ i, i < 512 / n → laneAt n r i = (v i).1) ∧
        (k = true ↔ ∃ i, i < 512 / n ∧ (v i).2 = true)) ∧
    (vecFires s 0x029 w → fm ∈ [1, 2, 3, 11] →
      let x (i : Nat) : Nat := laneAt n (srcA s 0x029 w) i
      let y (i : Nat) : Nat := laneAt n (srcB s 0x029 w) i
      ∃ (r : Line) (k : Bool), exec (.vshr w) s = .next (vecDone s 0x029 w r k) ∧ (∀ i, i < 512 / n → laneAt n r i = x i / 2 ^ y i) ∧
        (k = true ↔ ∃ i, i < 512 / n ∧ x i % 2 ^ y i ≠ 0)) ∧
    (vecFires s 0x02A w → fm ∈ [1, 2, 3, 11] →
      let x (i : Nat) : Int := ival fm (laneAt n (srcA s 0x02A w) i)
      let y (i : Nat) : Nat := laneAt n (srcB s 0x02A w) i
      ∃ (r : Line) (k : Bool), exec (.vsra w) s = .next (vecDone s 0x02A w r k) ∧
        (∀ i, i < 512 / n → laneAt n r i = wrapTo n (rndshift w.rnd.toNat (x i) (y i))) ∧
        (k = true ↔ ∃ i, i < 512 / n ∧ x i % 2 ^ y i ≠ 0))

/-- Complex operations (11 R320): both parts of every lane from the exact formula, each clamped or wrapped as INT16. -/
def Obligations.ComplexLanes : Prop :=
  ∀ e ∈ complexOps, ∀ (s : State) (w : Slot), vecFires s e.1 w →
    let part (l : Line) (i : Nat) : Int × Int := (sext 16 (laneAt 32 l i), sext 16 (laneAt 32 l i / 65536))
    let v (i : Nat) : Int × Int := e.2.2 w.rnd.toNat w.imm.toNat (part (srcA s e.1 w) i) (part (srcB s e.1 w) i) (part (srcC s e.1 w) i)
    let re (i : Nat) : Nat × Bool := fitInt 2 (w.sat == 1) (v i).1
    let im (i : Nat) : Nat × Bool := fitInt 2 (w.sat == 1) (v i).2
    ∃ (r : Line) (k : Bool), exec (e.2.1 w) s = .next (vecDone s e.1 w r k) ∧
      (∀ i, i < 16 → laneAt 16 r (2 * i) = (re i).1 ∧ laneAt 16 r (2 * i + 1) = (im i).1) ∧
      (k = true ↔ ∃ i, i < 16 ∧ ((re i).2 = true ∨ (im i).2 = true))

/-- Comparisons, select and clamp (11 R321): a true lane is all ones, a false one zero, and a NaN makes every comparison but ≠ false; vsel takes x
where lane z is nonzero; vclamp is min(max(x, y), z). That the condition bit of vsel tests the whole 512-bit result is the model's reading (log 35). -/
def Obligations.CompareLanes : Prop :=
  ∀ (s : State) (w : Slot),
    let fm := w.fmt.toNat
    let n := laneBits fm
    (∀ e ∈ compareOps, vecFires s e.1 w →
      let x (i : Nat) : Nat := laneAt n (srcA s e.1 w) i
      let y (i : Nat) : Nat := laneAt n (srcB s e.1 w) i
      let nan (i : Nat) : Bool := isFloat fm && (isNaNBits fm (x i) || isNaNBits fm (y i))
      let lt (i : Nat) : Bool := if isFloat fm then FVal.cmp (fdecode fm (x i)) (fdecode fm (y i)) == .lt else decide (ival fm (x i) < ival fm (y i))
      let eq (i : Nat) : Bool := if isFloat fm then FVal.cmp (fdecode fm (x i)) (fdecode fm (y i)) == .eq else ival fm (x i) == ival fm (y i)
      let t (i : Nat) : Bool := e.2.2 (!nan i && lt i) (!nan i && eq i) (!nan i)
      ∃ (r : Line) (k : Bool), exec (e.2.1 w) s = .next (vecDone s e.1 w r k) ∧
        (∀ i, i < 512 / n → laneAt n r i = if t i then 2 ^ n - 1 else 0) ∧ (k = true ↔ ∃ i, i < 512 / n ∧ t i = true)) ∧
    (vecFires s 0x056 w → ∃ r : Line, exec (.vsel w) s = .next (vecDone s 0x056 w r (r != 0)) ∧
      ∀ i, i < 512 / n → laneAt n r i =
        if laneAt n (srcC s 0x056 w) i ≠ 0 then laneAt n (srcA s 0x056 w) i else laneAt n (srcB s 0x056 w) i) ∧
    (vecFires s 0x057 w →
      let x (i : Nat) : Nat := laneAt n (srcA s 0x057 w) i
      let v (i : Nat) : Nat := laneMin fm (laneMax fm (x i) (laneAt n (srcB s 0x057 w) i)) (laneAt n (srcC s 0x057 w) i)
      ∃ (r : Line) (k : Bool), exec (.vclamp w) s = .next (vecDone s 0x057 w r k) ∧ (∀ i, i < 512 / n → laneAt n r i = v i % 2 ^ n) ∧
        (k = true ↔ ∃ i, i < 512 / n ∧ if isFloat fm then isNaNBits fm (v i) = true else v i ≠ x i))

/-- Conversions, scaling and header forwarding (11 R322-R324): vcvt converts each element and places it by the ratio of the widths and P; vscl
multiplies by 2^(S - 127), S = 0xFF giving NaN; vhdr sends a burst header ahead only where it differs from the last one sent. -/
def Obligations.ConvertScaleHeader : Prop :=
  ∀ (s : State) (w : Slot),
    (let x := seen s 0x060 w
     let df := w.fmt.toNat
     let sf := w.md.toNat % 16
     let ws := elemBits sf
     let wd := elemBits df
     let p := w.md.toNat / 16 % 4
     let a := vecSrc x sf w.a.toNat
     let b := vecSrc x df w.b.toNat
     let conv (v : Nat) : Nat × Bool := cvtElem sf df w.rnd.toNat (w.sat == 1) v
     fires s 0x060 w → latchClash x 0x060 sf df = none →
      ∃ (r : Line) (k : Bool), exec (.vcvt w) s = .next (vecDone s 0x060 w r k) ∧
        (wd < ws → ∀ i, i < 512 / wd → laneAt wd r i =
          if p * (512 / ws) ≤ i ∧ i < (p + 1) * (512 / ws) then (conv (laneAt ws a (i - p * (512 / ws)))).1 % 2 ^ wd else laneAt wd b i) ∧
        (wd = ws → ∀ i, i < 512 / wd → laneAt wd r i = (conv (laneAt ws a i)).1 % 2 ^ wd) ∧
        (ws < wd → p < wd / ws → ∀ i, i < 512 / wd → laneAt wd r i = (conv (laneAt ws a (p * (512 / wd) + i))).1 % 2 ^ wd) ∧
        (wd ≤ ws → (k = true ↔ ∃ i, i < 512 / ws ∧ (conv (laneAt ws a i)).2 = true)) ∧
        (ws < wd → p < wd / ws → (k = true ↔ ∃ i, i < 512 / wd ∧ (conv (laneAt ws a (p * (512 / wd) + i))).2 = true))) ∧
    (∀ (op sc : Nat) (mk : Slot → Instr),
      (op, sc, mk) ∈ [(0x061, (tget 0x7F00 (seen s 0x061 w).p.run.hdr w.a.toNat).toNat / 256, Instr.vsclL), (0x062, w.imm.toNat % 256, Instr.vsclI)] →
      vecFires s op w →
      let fm := w.fmt.toNat
      let n := laneBits fm
      let by2 (v : FVal) : FVal := match v with
        | .fin g m e => .fin g m (e + sc - 127)
        | u => u
      let v (i : Nat) : Nat := (fencode fm w.rnd.toNat (w.sat == 1) (if sc = 0xFF then .nan else by2 (fdecode fm (laneAt n (srcA s op w) i)))).bits
      ∃ (r : Line) (k : Bool), exec (mk w) s = .next (vecDone s op w r k) ∧ (∀ i, i < 512 / n → laneAt n r i = v i % 2 ^ n) ∧
        (k = true ↔ ∃ i, i < 512 / n ∧ isNaNBits fm (v i) = true)) ∧
    (∀ (op : Nat) (mk : Slot → Instr) (t : Token) (h : BitVec 16),
      (op, mk, h) ∈ [(0x063, Instr.vhdrF, tget 0x7F00 (seen s 0x063 w).p.run.hdr w.a.toNat),
        (0x064, Instr.vhdrS, BitVec.ofNat 16 (w.imm.toNat % 256 * 256 + w.fmt.toNat))] → fires s op w → headOf (seen s op w).e w.a.toNat = some t →
      let x := seen s op w
      let d := w.dst.toNat
      let u : Token := stamp true { t with ctag := ctagOf x.key x.p d, ctx := BitVec.ofNat 2 x.plane, kind := 0, sent := none }
      let same := h = tget 0x7F00 x.p.run.ohdr d
      (same → exec (mk w) s = .next (withFab s (putPwe (pushOut (popped s op w) x.key d u) x false))) ∧
      (¬same → exec (mk w) s = .next (withFab s (putPwe (pushOut (modElem
          (pushOut (popped s op w) x.key d
            (stamp true { data := h.setWidth 512, kind := 1, ctag := ctagOf x.key x.p d, ctx := BitVec.ofNat 2 x.plane })) x.key fun e =>
            modRun e x.plane fun r => { r with ohdr := tput 0x7F00 r.ohdr d h }) x.key d u) x true))))

/-- Permutes (11 R327): every destination lane is a whole source lane; the condition bit tells whether some bit is set. It tests the whole 512-bit
result, the model's reading (log 35). -/
def Obligations.PermuteLanes : Prop :=
  ∀ e ∈ permuteOps, ∀ (s : State) (w : Slot), vecFires s e.1 w →
    let n := laneBits w.fmt.toNat
    ∃ r : Line, exec (e.2.1 w) s = .next (vecDone s e.1 w r (r != 0)) ∧
      ∀ i, i < 512 / n → laneAt n r i =
        e.2.2 w.imm.toNat (512 / n) (laneAt n (srcA s e.1 w)) (laneAt n (srcB s e.1 w)) (laneAt n (srcC s e.1 w)) i % 2 ^ n

/-- Reductions (11 R326): integers give the exact sum, fitted once, or a lane that no other exceeds; floats combine neighbours level by level and
round each combination and each product; the result is lane 0 of a line that is zero elsewhere. -/
def Obligations.Reductions : Prop :=
  ∀ (s : State) (w : Slot),
    let fm := w.fmt.toNat
    let n := laneBits fm
    let num := List.range (512 / n)
    (fm ∈ [1, 2, 3, 11] →
      (vecFires s 0x078 w → ∃ (r : Nat) (k : Bool), exec (.vrsum w) s = .next (vecDone s 0x078 w (lane0 r) k) ∧
        (r, k) = fitInt fm (w.sat == 1) (num.map fun i => ival fm (laneAt n (srcA s 0x078 w) i)).sum) ∧
      (vecFires s 0x07B w → ∃ (r : Nat) (k : Bool), exec (.vrdot w) s = .next (vecDone s 0x07B w (lane0 r) k) ∧
        (r, k) = fitInt fm (w.sat == 1) (num.map fun i => ival fm (laneAt n (srcA s 0x07B w) i) * ival fm (laneAt n (srcB s 0x07B w) i)).sum) ∧
      (vecFires s 0x079 w → ∃ r : Nat, exec (.vrmax w) s = .next (vecDone s 0x079 w (lane0 r) false) ∧
        (∃ i ∈ num, r = laneAt n (srcA s 0x079 w) i) ∧ ∀ i ∈ num, ival fm (laneAt n (srcA s 0x079 w) i) ≤ ival fm r) ∧
      (vecFires s 0x07A w → ∃ r : Nat, exec (.vrmin w) s = .next (vecDone s 0x07A w (lane0 r) false) ∧
        (∃ i ∈ num, r = laneAt n (srcA s 0x07A w) i) ∧ ∀ i ∈ num, ival fm r ≤ ival fm (laneAt n (srcA s 0x07A w) i))) ∧
    (isFloat fm = true →
      let fin (v : FVal) : Nat := (fencode fm w.rnd.toNat (w.sat == 1) v).bits
      let add (u v : Nat) : Nat := fin (FVal.add w.rnd.toNat (fdecode fm u) (fdecode fm v))
      let pick (g : FVal → FVal → FVal) (u v : Nat) : Nat := (fencode fm 0 false (g (fdecode fm u) (fdecode fm v))).bits
      let line (r : Nat) : Line × Bool := (lane0 r, isNaNBits fm r)
      (vecFires s 0x078 w →
        let r := line ((tree add 6 (num.map fun i => laneAt n (srcA s 0x078 w) i)).headD 0)
        exec (.vrsum w) s = .next (vecDone s 0x078 w r.1 r.2)) ∧
      (vecFires s 0x07B w →
        let r := line ((tree add 6 (num.map fun i =>
          fin (FVal.mul (fdecode fm (laneAt n (srcA s 0x07B w) i)) (fdecode fm (laneAt n (srcB s 0x07B w) i))))).headD 0)
        exec (.vrdot w) s = .next (vecDone s 0x07B w r.1 r.2)) ∧
      (vecFires s 0x079 w →
        let r := line ((tree (pick FVal.max) 6 (num.map fun i => (fencode fm 0 false (fdecode fm (laneAt n (srcA s 0x079 w) i))).bits)).headD 0)
        exec (.vrmax w) s = .next (vecDone s 0x079 w r.1 r.2)) ∧
      (vecFires s 0x07A w →
        let r := line ((tree (pick FVal.min) 6 (num.map fun i => (fencode fm 0 false (fdecode fm (laneAt n (srcA s 0x07A w) i))).bits)).headD 0)
        exec (.vrmin w) s = .next (vecDone s 0x07A w r.1 r.2)))

/-- Butterflies (11 R328, R329): lanes h = 2^imm apart give their sum and difference, halved under SCL, fitted; vbflyt multiplies the upper lane by
its twiddle first. -/
def Obligations.Butterflies : Prop :=
  ∀ (s : State) (w : Slot),
    let h := 2 ^ w.imm.toNat
    let low (i : Nat) : Prop := i / h % 2 = 0
    let scl (v : Int) : Int := if w.md.toNat % 2 = 1 then rndshift w.rnd.toNat v 1 else v
    let fit (fm : Nat) (v : Int) : Nat × Bool := fitInt fm (w.sat == 1) (scl v)
    let re (l : Line) (i : Nat) : Int := sext 16 (laneAt 32 l i)
    let im (l : Line) (i : Nat) : Int := sext 16 (laneAt 32 l i / 65536)
    (vecFires s 0x08B w → w.fmt = 2 ∨ w.fmt = 3 →
      let fm := w.fmt.toNat
      let n := laneBits fm
      let x (i : Nat) : Int := ival fm (laneAt n (srcA s 0x08B w) i)
      let v (i : Nat) : Nat × Bool := fit fm (if low i then x i + x (i + h) else x (i - h) - x i)
      ∃ (r : Line) (k : Bool), exec (.vbfly w) s = .next (vecDone s 0x08B w r k) ∧ (∀ i, i < 512 / n → laneAt n r i = (v i).1) ∧
        (k = true ↔ ∃ i, i < 512 / n ∧ (v i).2 = true)) ∧
    (vecFires s 0x08B w → w.fmt = 4 →
      let a := srcA s 0x08B w
      let v (i : Nat) : Nat × Bool := fit 2 (if low i then re a i + re a (i + h) else re a (i - h) - re a i)
      let u (i : Nat) : Nat × Bool := fit 2 (if low i then im a i + im a (i + h) else im a (i - h) - im a i)
      ∃ (r : Line) (k : Bool), exec (.vbfly w) s = .next (vecDone s 0x08B w r k) ∧
        (∀ i, i < 16 → laneAt 16 r (2 * i) = (v i).1 ∧ laneAt 16 r (2 * i + 1) = (u i).1) ∧
        (k = true ↔ ∃ i, i < 16 ∧ ((v i).2 = true ∨ (u i).2 = true))) ∧
    (vecFires s 0x08B w → w.fmt = 7 →
      let x (i : Nat) : FVal := fdecode 7 (laneAt 32 (srcA s 0x08B w) i)
      let sum (i : Nat) : FVal := if low i then FVal.add w.rnd.toNat (x i) (x (i + h)) else FVal.add w.rnd.toNat (x (i - h)) (x i).neg
      let v (i : Nat) : Nat := (fencode 7 w.rnd.toNat (w.sat == 1) (if w.md.toNat % 2 = 1 then FVal.mul (sum i) (.fin false 1 (-1)) else sum i)).bits
      ∃ (r : Line) (k : Bool), exec (.vbfly w) s = .next (vecDone s 0x08B w r k) ∧ (∀ i, i < 16 → laneAt 32 r i = v i % 2 ^ 32) ∧
        (k = true ↔ ∃ i, i < 16 ∧ isNaNBits 7 (v i) = true)) ∧
    (vecFires s 0x08C w →
      let a := srcA s 0x08C w
      let b := srcB s 0x08C w
      let pr (i : Nat) : Int := rndshift w.rnd.toNat (re a (i + h) * re b (i + h) - im a (i + h) * im b (i + h)) 15
      let pi (i : Nat) : Int := rndshift w.rnd.toNat (re a (i + h) * im b (i + h) + im a (i + h) * re b (i + h)) 15
      let v (i : Nat) : Nat × Bool := fit 2 (if low i then re a i + pr i else re a (i - h) - pr (i - h))
      let u (i : Nat) : Nat × Bool := fit 2 (if low i then im a i + pi i else im a (i - h) - pi (i - h))
      ∃ (r : Line) (k : Bool), exec (.vbflyt w) s = .next (vecDone s 0x08C w r k) ∧
        (∀ i, i < 16 → laneAt 16 r (2 * i) = (v i).1 ∧ laneAt 16 r (2 * i + 1) = (u i).1) ∧
        (k = true ↔ ∃ i, i < 16 ∧ ((v i).2 = true ∨ (u i).2 = true)))

/-! ### Matrix operations -/

/-- mload (12 R336, R340-R342): from the local store it fills the eight rows of a half at BASE + i · RPITCH, or in the transposed forms the quarter it
names, and its reads stand among the local store's fills, whose banks then serve them (04 R113; log 41); from a register or queue it fills one row. An
address that is not aligned is MISALIGN, an odd register with a reserved value ILLOP. A half whose last byte lands is FULL with its readers. -/
def Obligations.OperandBufferLoads : Prop :=
  (∀ (s : State) (w : Slot), fires s 0x100 w →
      let x := seen s 0x100 w
      let f := began s 0x100 w
      let sel := w.a.toNat
      let h := w.md.toNat % 4
      let tag : BitVec 16 := BitVec.ofNat 16 ((if bit w.md.toNat 5 then latchScale x.p.run sel else w.imm.toNat / 256) * 256 + w.fmt.toNat)
      let q := pairOf x sel
      let form := fld w.md.toNat 2 2
      let addr (i : Nat) : Nat := (pBase q.1 + i * pPitch q.1) % 2 ^ 17
      let fine := ∀ i, i < (if form = 1 then 16 else 8) → addr i % fmtSize w.fmt.toNat = 0
      let inc (g : Fab) : Fab := if bit w.md.toNat 4 then pairInc x sel g else g
      let fill (g : Fab) : Fab := modElem g x.key fun e =>
        { e with ct := { e.ct with fills := e.ct.fills ++ [mloadFill x (pRot q.2) (pBase q.1) (pPitch q.1)] } }
      let row (u : Half) (i : Nat) : Half := halfRow u i (BitVec.ofNat 512 (lsRead x.e.ct.ls (pRot q.2) (addr i) 64)) tag (rowMarks x.e.ct (pRot q.2) (addr i))
      (selKind sel = 4 → pairOk q.2 = true → fine → form = 0 →
        let t := withFab s (inc (fill (modHalf (popped s 0x100 w) x.key h fun u => { (List.range 8).foldl row u with owner := some x.plane })))
        exec (.mload w) s = .next t ∧
          ∀ i, i < 8 → tget 0 (tget {} (elemOf t.fab x.key).ct.halves h).rows i = BitVec.ofNat 512 (lsRead x.e.ct.ls (pRot q.2) (addr i) 64) ∧
            tget 0 (tget {} (elemOf t.fab x.key).ct.halves h).tags i = tag) ∧
      (selKind sel = 4 → pairOk q.2 = true → fine → form ≠ 0 →
        exec (.mload w) s = .next (withFab s (inc (fill (modHalf (popped s 0x100 w) x.key h fun u =>
          { mloadT x.e.ct u (pRot q.2) (pBase q.1) (pPitch q.1) (fld w.imm.toNat 5 2) (if form = 2 then 2 else 1) tag with owner := some x.plane }))))) ∧
      (selKind sel = 4 → pairOk q.2 = true → addr 0 % fmtSize w.fmt.toNat ≠ 0 →
        exec (.mload w) s = .next (withFab s (slotRaise f x 3 none (addr 0) 4))) ∧
      (selKind sel = 4 → pairOk q.2 = false → exec (.mload w) s = .next (withFab s (slotRaise f x 1 none 0 0))) ∧
      (selKind sel ≠ 4 → latchClash x 0x100 w.fmt.toNat w.fmt.toNat = none →
        exec (.mload w) s = .next (withFab s (modHalf (popped s 0x100 w) x.key h fun u => halfFill
          { halfRow u (fld w.imm.toNat 5 3) (vecSrc x w.fmt.toNat sel) tag 0 with owner := some x.plane }
          (BitVec.ofNat 32 (15 * 16 ^ fld w.imm.toNat 5 3)) (w.imm.toNat % 16))))) ∧
  ∀ (h : Half) (bits : BitVec 32) (n : Nat), h.fill ||| bits = BitVec.allOnes 32 →
    (halfFill h bits n).full = true ∧ (halfFill h bits n).count = BitVec.ofNat 4 n

/-- Accumulator operations (12 R347-R349): mzero resets every item but TYPE, with the error marks of the accumulator; mband sets the band scales, and
is ILLOP on an integer one; mdrain gives two rows scaled, on a queue or to the local store, where its write stands among the fills and an older fill
of one of its banks makes it hold its slot (04 R113; log 41); mstat gives the status word. -/
def Obligations.AccumulatorOperations : Prop :=
  ∀ (s : State) (w : Slot),
    (let x := seen s 0x101 w
     fires s 0x101 w → exec (.mzero w) s = .next (withFab s (modAcc (modElem (popped s 0x101 w) x.key fun e =>
      { e with badReg := e.badReg.filter fun q => !(q.1 == x.plane && q.2.1 == w.dst.toNat) }) x (w.dst.toNat - 0x50) fun _ => { int := w.fmt == 3 }))) ∧
    (let x := seen s 0x102 w
     fires s 0x102 w →
      ((accOf x w.dst.toNat).int = false → exec (.mband w) s = .next (withFab s (modAcc (popped s 0x102 w) x (w.dst.toNat - 0x50) fun m =>
        { m with ba := BitVec.ofNat 16 (scalarOf x w.a.toNat), bb := BitVec.ofNat 16 (scalarOf x w.a.toNat / 2 ^ 16), cap := true, bandmis := false }))) ∧
      ((accOf x w.dst.toNat).int = true → exec (.mband w) s = .next (withFab s (slotRaise (began s 0x102 w) x 1 none 0 0)))) ∧
    (let x := seen s 0x103 w
     let m := accOf x w.a.toNat
     let q := w.imm.toNat % 4
     let cell (i : Nat) : Nat := (tget 0 m.cells (16 * q + i)).toNat
     let k := FVal.mul (fdecode 6 m.ba.toNat) (fdecode 6 m.bb.toNat)
     let v (i : Nat) : Nat :=
       if m.int then cell i else (fencode 7 w.rnd.toNat (w.sat == 1) (FVal.mul (fdecode 7 (cell i)) k)).bits
     let clr (f : Fab) : Fab := if bit w.md.toNat 1 then modAcc f x (w.a.toNat - 0x50) fun m => drainClr m q else f
     let p := pairOf x w.b.toNat
     let a := (pBase p.1 + q * pPitch p.1) % 2 ^ 17
     let banks := lsBanks (pRot p.2) a 64
     let older := ∃ g ∈ x.e.ct.fills, ∃ r ∈ g.reads, ∃ b ∈ r.1, b ∈ banks
     (bit w.md.toNat 0 = true → pairOk p.2 = true → older → exec (.mdrain w) s = .next s) ∧
     (fires s 0x103 w →
      ((w.fmt == 3) ≠ m.int → (bit w.md.toNat 0 = true → pairOk p.2 = true → ¬older) →
        exec (.mdrain w) s = .next (withFab s (slotRaise (began s 0x103 w) x 1 none 0 0))) ∧
      ((w.fmt == 3) = m.int →
        (bit w.md.toNat 0 = true → pairOk p.2 = false → exec (.mdrain w) s = .next (withFab s (slotRaise (began s 0x103 w) x 1 none 0 0))) ∧
        (bit w.md.toNat 0 = true → pairOk p.2 = true → ¬older → a % 4 ≠ 0 →
          exec (.mdrain w) s = .next (withFab s (slotRaise (began s 0x103 w) x 3 none a 4))) ∧
        ∃ (r : Line) (c : Bool), (∀ i, i < 16 → laneAt 32 r i = v i % 2 ^ 32) ∧ (m.int = false → (c = true ↔ ∃ i, i < 16 ∧ isNaNBits 7 (v i) = true)) ∧
          (m.int = true → (c = true ↔ r ≠ 0)) ∧
          (bit w.md.toNat 0 = false → exec (.mdrain w) s = .next (withFab s (putResult (clr (popped s 0x103 w)) x r c 0))) ∧
          (bit w.md.toNat 0 = true → pairOk p.2 = true → ¬older → a % 4 = 0 → lsRoom x.e x.plane x.p.run.round (lsLines (pRot p.2) a 64) = true →
            exec (.mdrain w) s = .next (withFab s (putPwe (addPend (modElem (clr (popped s 0x103 w)) x.key fun e =>
              { e with ct := { e.ct with fills := e.ct.fills ++ [{ half := none, plane := x.plane, readers := 0, reads := [(banks, 0)] }] } })
              x (.ls x.plane x.p.run.round (pRot p.2) a 64 r)) x c)))))) ∧
    (let x := seen s 0x104 w
     let m := accOf x w.a.toNat
     let clr (f : Fab) : Fab := if bit w.md.toNat 0 then modAcc f x (w.a.toNat - 0x50) fun m =>
       { m with ue := false, bandmis := false, nanf := false, satf := false, log := 0 } else f
     fires s 0x104 w → exec (.mstat w) s = .next (withFab s
      (putResult (clr (popped s 0x104 w)) x (BitVec.ofNat 512 (accStatus m)) (m.ue || m.bandmis) 0)))

/-- Matrix multiplies (12 R343-R346, R350): with a legal step, TYPE and row formats the accumulator takes the new cells, .inc the next step, and a
declared last read lowers the count of its half; otherwise ILLOP. A cell takes the group's exact products with one rounding, or the fitted integer
sum. Where in a row the first bad word stands, and NANF of a cell that was NaN before, are read as log 45 says. -/
def Obligations.MatrixMultiplies : Prop :=
  (∀ (s : State) (w : Slot) (op : Nat) (mk : Slot → Instr),
    (op, mk) ∈ [(0x108, Instr.mmaBf16), (0x109, Instr.mmaFp16), (0x10A, Instr.mmaFp8), (0x10B, Instr.mmaFp4), (0x10C, Instr.mmaI8)] →
      let x := seen s op w
      let q := mmaParts s op w
      let n := q.2.2.2
      let last (b : Nat) (h : Nat) (f : Fab) : Fab := if bit w.md.toNat b ∧ n = mmaSteps op - 1 then modHalf f x.key h halfRead else f
      let next (f : Fab) : Fab :=
        if bit w.md.toNat 7 then addPend f x (.a x.plane (w.c.toNat - 0x18) (BitVec.ofNat 32 ((n + 1) % mmaSteps op))) else f
      (mmaFits s op w → exec (mk w) s = .next (withFab s (last 9 (w.md.toNat / 8 % 8) (last 8 (w.md.toNat % 8) (next
        (modAcc (popped s op w) x (w.dst.toNat - 0x50) fun _ => mmaAcc s op w)))))) ∧
      (fires s op w → ¬mmaFits s op w → exec (mk w) s = .next (withFab s (slotRaise (began s op w) x 1 none 0 0)))) ∧
  ∀ (op : Nat) (sat : Bool) (m : MAcc) (a b : MOp) (n c : Nat), c < 64 →
    let g := mmaG op
    let e (o : MOp) (i k : Nat) : FVal := mmaElem (o.rows.getD i 0) (o.fmts.getD i 0) (o.scales.getD i 0) (n * g + k)
    let z (o : MOp) (i k : Nat) : Int := mmaInt (o.rows.getD i 0) (o.fmts.getD i 0) (2 * n + k)
    tget 0 (mmaFloat op m a b n).cells c = BitVec.ofNat 32 (fencode 7 0 false (FVal.add 0 (fdecode 7 (tget 0 m.cells c).toNat)
      (sumExact ((List.range g).map fun k => FVal.mul (e a (c / 8) k) (e b (c % 8) k))))).bits ∧
    tget 0 (mmaI8 sat m a b n).cells c = BitVec.ofNat 32 (fitInt 3 sat (sext 32 (tget 0 m.cells c).toNat +
      z a (c / 8) 0 * z b (c % 8) 0 + z a (c / 8) 1 * z b (c % 8) 1)).1

/-! ### Movement -/

/-- Steering, filtering, replication and delay (13 R360, R361, R364, R366): the popped token is forwarded where the operation says, and the condition
bit is as its rule gives it. -/
def Obligations.SteeringResults : Prop :=
  ∀ (s : State) (w : Slot),
    let d := w.dst.toNat
    let a := w.a.toNat
    let does (op : Nat) (i : Instr) (g : FireCtx → Fab → Fab) : Prop := fires s op w → exec i s = .next (withFab s (g (seen s op w) (popped s op w)))
    let give (x : FireCtx) (q : Nat) (f : Fab) : Fab := emitTo f x q (carry x q a (fireLvl x))
    does 0x200 (.pass w) (fun x f => putPwe (give x d f) x (tokCond (carry x d a (fireLvl x)))) ∧
    does 0x201 (.drop w) (fun x f => putPwe f x false) ∧
    does 0x203 (.steer w) (fun x f => putPwe (give x (if control x w.b.toNat then d else w.imm.toNat % 256) f) x (control x w.b.toNat)) ∧
    (∀ t, headOf (seen s 0x204 w).e a = some t →
      let ok := Nat.land t.ctag.toNat (w.imm.toNat / 256) == w.imm.toNat % 256
      does 0x204 (.filt w) fun x f => putPwe (if ok then give x d f else f) x ok) ∧
    does 0x205 (.repl w) (fun x f => putPwe ((d :: outQueues (isDrift x.key x.p) w.imm.toNat).foldl
      (fun f q => emitTo f x q (replCopy x a q)) f) x (tokCond (replCopy x a d))) ∧
    does 0x20D (.lastm w) (fun x f =>
      let t := carry x d a (BitVec.ofNat 3 (accWord x.e w.b.toNat))
      putPwe (emitTo f x d t) x (tokCond t)) ∧
    (∀ t, headOf (seen s 0x20E w).e a = some t → does 0x20E (.tagset w) fun x f =>
      let u := forwardToken x a d t (fireLvl x) (some (BitVec.ofNat 8 (scalarOf x w.b.toNat + w.imm.toNat)))
      putPwe (emitTo f x d u) x (tokCond u)) ∧
    (∀ t, headOf (seen s 0x20F w).e a = some t →
      let x := seen s 0x20F w
      let tag := (scalarOf x w.b.toNat + w.imm.toNat) % 256
      let differs := Nat.land (Nat.xor t.ctag.toNat tag) (w.imm.toNat / 256) ≠ 0
      (¬differs → does 0x20F (.tagchk w) fun x f => putPwe (give x d f) x (tokCond (carry x d a (fireLvl x)))) ∧
      (differs → fires s 0x20F w → exec (.tagchk w) s =
        .next (withFab s (slotRaise (began s 0x20F w) x 8 (some a) (tag * 256 + t.ctag.toNat) (t.data.toNat % 2 ^ 64))))) ∧
    (∀ t, headOf (seen s 0x202 w).e a = some t → does 0x202 (.delay w) fun x f =>
      let l := (slotOfRun x.p.run x.slot).line.getD (List.replicate (w.imm.toNat % 16) {}) ++ [t]
      let h := l.headD {}
      let u := forwardToken x a d h h.lvl none
      let u := if h.check = 0 ∧ h.data = 0 then stamp (isWideSel d) u else u
      putPwe (emitTo (modSelf f x fun q => { q with line := some (l.drop 1) }) x d u) x (tokCond u))

/-- Merges, joins, counter chains and comparators (13 R361-R365, R367): which head each takes and emits, and the state the slot keeps. A first
mismatch of cmpx asks for a replay, a second raises TWINMIS (21 R468). The LVL of a new token rests on log 41, the stream of the twin on log 11, and a
condition bit whose queue is 0x60 on log 78. -/
def Obligations.MergeJoinCountResults : Prop :=
  ∀ (s : State) (w : Slot),
    let d := w.dst.toNat
    let does (op : Nat) (i : Instr) (g : FireCtx → Fab → Fab) : Prop := fires s op w → exec i s = .next (withFab s (g (seen s op w) (popped s op w)))
    let move (x : FireCtx) (q : Nat) (f : Fab) : Fab := putPwe (emitTo f x d (carry x d q (fireLvl x))) x (tokCond (carry x d q (fireLvl x)))
    let slot (op : Nat) : SlotSt := slotOfRun (seen s op w).p.run s.site.slot
    (∀ q, mergeHit (seen s 0x206 w).e s.site.plane (slot 0x206).next w = some q →
      does 0x206 (.mergeO w) fun x f => modSelf (move x q f) x fun t => { t with next := t.next + 1 }) ∧
    does 0x207 (.mergeC w) (fun x f => move x (if control x w.c.toNat then w.a.toNat else w.b.toNat) f) ∧
    (let ha := holdsHead (seen s 0x208 w).e s.site.plane w.a.toNat
     let hb := holdsHead (seen s 0x208 w).e s.site.plane w.b.toNat
     w.kindc ≠ 1 → does 0x208 (.mergeU w) fun x f =>
      if ha && hb then modSelf (move x (if (slot 0x208).ptr then w.b.toNat else w.a.toNat) f) x fun t => { t with ptr := !t.ptr }
      else move x (if ha then w.a.toNat else w.b.toNat) f) ∧
    (∀ (op e : Nat) (mk : Slot → Instr) (want : Nat → Nat → Bool × Bool),
      (op, e, mk, want) ∈ [(0x209, d, Instr.joinLt, fun a b => (decide (a < b ∨ (a = 0xFFFFFFFF ∧ b = 0xFFFFFFFF)), false)),
        (0x20A, w.imm.toNat % 256, Instr.joinEq, fun a b => (decide (a = b), decide (a = b))),
        (0x20B, d, Instr.joinGt, fun a b => (false, decide (b < a ∨ (a = 0xFFFFFFFF ∧ b = 0xFFFFFFFF))))] →
      does op (mk w) fun x f =>
        let k := want (joinKey x w.a.toNat) (joinKey x w.b.toNat)
        let f := if k.1 then emitTo f x d (carry x d w.a.toNat (fireLvl x)) else f
        putPwe (if k.2 then emitTo f x e (carry x e w.b.toNat (fireLvl x)) else f) x (k.1 || k.2)) ∧
    (let x := seen s 0x20C w
     let n := scalarOf x w.b.toNat % 2 ^ 32
     let t := if w.a.toNat = 0x60 then 2 ^ 63 else accWord x.e w.a.toNat
     let e := bit t 63
     let q := slot 0x20C
     let last : Bool := decide (q.idx.toNat = n - 1)
     let k := fld w.imm.toNat 8 3
     let idx : BitVec 32 := if !e then q.idx else if last then 0 else q.idx + 1
     let out := if e && last then chainTok true k else chainTok false (t % 8)
     let ix := w.imm.toNat % 256
     (n ≠ 0 → does 0x20C (.cnt w) fun x f =>
        let f := modSelf f x fun r => { r with idx := idx, done := r.done || (e && last && bit w.imm.toNat 11) }
        let f := if e then emitTo f x ix (newToken x ix (BitVec.ofNat 512 (k * 2 ^ 61 + idx.toNat)) 0) else f
        putPwe (emitTo f x d (newToken x d out 0)) x (out != 0)) ∧
     (n = 0 → fires s 0x20C w → exec (.cnt w) s = .next (withFab s (slotRaise (began s 0x20C w) x 1 none 0 0)))) ∧
    (∀ t, headOf (seen s 0x211 w).e w.a.toNat = some t →
      let r := w.b.toNat
      (1 ≤ t.lvl.toNat ∧ t.lvl.toNat ≤ w.imm.toNat % 8 → does 0x211 (.accRst w) fun x f =>
        let u := newToken x d (tokenSrc x r) t.lvl
        putPwe (addPend (emitTo f x d u) x (if r < 0x10 then .v x.plane r 0 else .a x.plane (r - 0x18) 0)) x (d != 0x60 && tokCond u)) ∧
      (¬(1 ≤ t.lvl.toNat ∧ t.lvl.toNat ≤ w.imm.toNat % 8) → does 0x211 (.accRst w) fun _ f => f)) ∧
    (∀ a b, headOf (seen s 0x210 w).e w.a.toNat = some a → headOf (seen s 0x210 w).e w.b.toNat = some b →
      let x := seen s 0x210 w
      let f := began s 0x210 w
      let eq := a.data = b.data ∧ a.lvl = b.lvl ∧ a.ctag = b.ctag
      (eq → does 0x210 (.cmpx w) fun x f => modSelf (move x w.a.toNat f) x fun q => { q with twinSent := false }) ∧
      (¬eq → twinReplayed f x = false → fires s 0x210 w → exec (.cmpx w) s = .next (withFab s (slotRaise f x 0 none 0 7))) ∧
      (¬eq → twinReplayed f x = true → fires s 0x210 w → exec (.cmpx w) s = .next (withFab s
        (slotRaise f x 0x0D (some w.a.toNat) (Nat.xor (a.data.toNat % 2 ^ 64) (b.data.toNat % 2 ^ 64)) (sideband a * 2 ^ 32 + sideband b)))))

/-- lsld and lsst (04 R113, 13 R368, R369): in a cycle in which their bank is theirs, 64 bytes at the effective address under the rotation code, or
the store of the source's width, pending to the end of the tile cycle; one that loses its bank holds its slot; PROT and MISALIGN carry the address (01
R34). How a store ranks among the pending writes is the model's (logs 41, 73). -/
def Obligations.LocalStoreAccesses : Prop :=
  ∀ (s : State) (w : Slot),
    let inc (x : FireCtx) (f : Fab) : Fab := if bit w.md.toNat 1 then pairInc x w.a.toNat f else f
    (∀ a rot, lsAddr (seen s 0x220 w) = .inl (a, rot) → lsBad (seen s 0x220 w).e.ct rot a 64 = false →
      lsLoses s.fab (seen s 0x220 w) rot a 64 = false → fires s 0x220 w →
      let x := seen s 0x220 w
      let v : Line := BitVec.ofNat 512 (lsRead x.e.ct.ls rot a 64)
      let k := if selKind w.dst.toNat = 4 then decide (v.toNat % 2 ^ 32 ≠ 0) else if selKind w.dst.toNat = 64 then decide (v.toNat % 2 ^ 64 ≠ 0)
        else decide (v ≠ 0)
      exec (.lsld w) s = .next (withFab s (inc x (lsTwice x rot a 64 (putResult (popped s 0x220 w) x v k (fireLvl x)))))) ∧
    (∀ a rot, lsAddr (seen s 0x221 w) = .inl (a, rot) → fires s 0x221 w →
      let x := seen s 0x221 w
      let b := w.b.toNat
      let n := if selKind b = 1 ∨ selKind b = 8 then 64 else 8
      ¬(n = 8 ∧ 56 < a % 64) → lsLoses s.fab x rot a n = false → lsRoom x.e x.plane x.p.run.round (lsLines rot a n) = true →
      exec (.lsst w) s = .next (withFab s (inc x (lsTwice x rot a n (putPwe
        (addPend (popped s 0x221 w) x (.ls x.plane x.p.run.round rot a n (execLsst.tokenSrcLine x b))) x false))))) ∧
    (∀ (op : Nat) (mk : Slot → Instr) (a rot : Nat),
      (op, mk) ∈ [(0x220, Instr.lsld), (0x221, Instr.lsst)] → lsAddr (seen s op w) = .inl (a, rot) →
      lsLoses s.fab (seen s op w) rot a (if op = 0x221 ∧ selKind w.b.toNat ≠ 1 ∧ selKind w.b.toNat ≠ 8 then 8 else 64) = true →
      exec (mk w) s = .next s) ∧
    ∀ (op : Nat) (mk : Slot → Instr) (c a : Nat), (op, mk) ∈ [(0x220, Instr.lsld), (0x221, Instr.lsst)] → lsAddr (seen s op w) = .inr (c, a) →
      fires s op w → exec (mk w) s = .next (withFab s (slotRaise (began s op w) (seen s op w) c none a 4))

/-! ### Memory tiles -/

/-- Memory-tile accesses (01 R34, 13 R371-R374): a request that passes its checks leaves its slot with the address, width, data and tag its row gives;
one that fails a check raises its fault and does nothing else: KIND is ILLOP, then PROT before MISALIGN. That the head's CTAG names the slot rests on
log 44, and the formats of an immediate source on log 47. -/
def Obligations.MemoryAccesses : Prop :=
  (∀ (s : State) (w : Slot) (t : Token),
      let sent (op size : Nat) (g : FireCtx → MemReq → MemReq) (els : Line) : State :=
        let x := seen s op w
        let lanes := op = 0x302 ∨ op = 0x303
        withFab s (memSend (popped s op w) x (g x (slotReq (began s op w) x (if lanes then 0 else t.data.toNat % 2 ^ 32) size (if lanes then t.data else 0))) els)
      let tag : BitVec 16 := 0x7F00 ||| BitVec.ofNat 16 w.fmt.toNat
      let nl := if selKind w.dst.toNat = 16 then 64 else 8
      let ns := if selKind w.b.toNat = 8 then 64 else 8
      let es := fmtSize w.fmt.toNat
      let na := if w.fmt = 3 then 4 else 8
      (requestOk s 0x300 w 3 nl t → exec (.ldSlot w) s = .next (sent 0x300 nl (fun _ q => q) 0)) ∧
      (requestOk s 0x301 w 5 ns t → exec (.stSlot w) s = .next (sent 0x301 ns (fun x q =>
        let v := match (if isInSel w.b.toNat then headOf x.e w.b.toNat else none) with
          | some u => u.data
          | none => ((vecSrc x w.fmt.toNat w.b.toNat).setWidth 64).setWidth 512
        { q with data := v, tag := some (if bit w.md.toNat 8 then tget 0x7F00 x.p.run.hdr w.b.toNat else tag) }) 0)) ∧
      (requestOk s 0x302 w 3 es t → exec (.gather w) s = .next (sent 0x302 64 (fun _ q => q) 0)) ∧
      (∀ u, requestOk s 0x303 w 5 es t → headOf (seen s 0x303 w).e w.b.toNat = some u →
        exec (.scatter w) s = .next (sent 0x303 64 (fun _ q => { q with tag := some tag }) u.data)) ∧
      ∀ (op : Nat) (mk : Slot → Instr), (op, mk) ∈ [(0x304, Instr.amoAddSlot), (0x305, .amoMinSlot), (0x306, .amoMaxSlot), (0x307, .amoAndSlot),
          (0x308, .amoOrSlot), (0x309, .amoXorSlot), (0x30A, .amoXchgSlot), (0x30B, .amoCasSlot)] →
        requestOk s op w 15 na t → exec (mk w) s = .next (sent op na (fun x q =>
          { q with data := BitVec.ofNat 512 (scalarOf x w.b.toNat), cmp := BitVec.ofNat 64 (scalarOf x w.c.toNat) }) 0)) ∧
  ∀ (s : State) (w : Slot) (t : Token) (op kinds align : Nat) (mk : Slot → Instr), (op, kinds, align, mk) ∈
      [(0x300, 3, if selKind w.dst.toNat = 16 then 64 else 8, Instr.ldSlot), (0x301, 5, if selKind w.b.toNat = 8 then 64 else 8, .stSlot),
       (0x302, 3, fmtSize w.fmt.toNat, .gather), (0x303, 5, fmtSize w.fmt.toNat, .scatter)] ++
      [(0x304, Instr.amoAddSlot), (0x305, .amoMinSlot), (0x306, .amoMaxSlot), (0x307, .amoAndSlot), (0x308, .amoOrSlot), (0x309, .amoXorSlot),
       (0x30A, .amoXchgSlot), (0x30B, .amoCasSlot)].map (fun y => (y.1, 15, if w.fmt = 3 then 4 else 8, y.2)) →
    fires s op w → headOf (seen s op w).e w.a.toNat = some t →
    let x := seen s op w
    let f := began s op w
    let a := t.data.toNat % 2 ^ 32
    let stops (c v k : Nat) : Prop := exec (mk w) s = .next (withFab s (slotRaise f x c (some w.a.toNat) v k))
    (bit kinds (w.md.toNat % 4) = false → stops 1 0 0) ∧
    (bit kinds (w.md.toNat % 4) = true → op ≠ 0x302 → op ≠ 0x303 →
      (spLocate f (keyCore x.key) x.plane a = none → stops 6 a 1) ∧
      (∀ k b l, spLocate f (keyCore x.key) x.plane a = some (k, b, l) →
        (k ≠ x.key → stops 6 a 2) ∧ (k = x.key → bankAllowed f x.key x.plane b = false → stops 6 a 3) ∧
        (k = x.key → bankAllowed f x.key x.plane b = true → a % align ≠ 0 → stops 3 a 1)))

/-- Sections, fences and accumulates (05 R131, R134, R137, 06 R166-R169, 13 R375-R378): osec.b waits in its domain, osec.e gives its section's result,
fence.m forwards once nothing earlier is left, hacc sends request and addend with the firn entry's share, flres starts a flush, hrecv takes an
accumulate into its bank or refuses it back. An hrecv on a queue with a section is read as log 46 says, the firn entry that an addend takes as log 72. -/
def Obligations.SectionsAndAccumulates : Prop :=
  ∀ (s : State) (w : Slot) (t : Token),
    let q := w.a.toNat
    let d := w.dst.toNat
    let hd (op : Nat) : Prop := fires s op w ∧ headOf (seen s op w).e q = some t
    let shut (op : Nat) : Prop := sectOpen (seen s op w).e q = none
    let illop (op : Nat) : State := withFab s (slotRaise (began s op w) (seen s op w) 1 (some q) 0 0)
    (hd 0x30C → shut 0x30C →
      let x := seen s 0x30C w
      let y := poppedToken x q t
      let r := { slotReq (began s 0x30C w) x 0 0 y.data with ctag := y.ctag, check := y.check, no := x.e.mt.nextReq }
      exec (.osecB w) s = .next (withFab s (modElem (popped s 0x30C w) x.key fun e =>
        modRun { e with mt := { e.mt with nextReq := e.mt.nextReq + 1 } } x.plane fun u =>
          { u with domq := tput [] u.domq r.dom (tget [] u.domq r.dom ++ [r]) }))) ∧
    (hd 0x30C → ¬shut 0x30C → exec (.osecB w) s = .next (illop 0x30C)) ∧
    (hd 0x30D → shut 0x30D → exec (.osecE w) s = .next (illop 0x30D)) ∧
    (let x := seen s 0x30D w
     hd 0x30D → sectThrown x.e q = false → ∀ i, x.e.mt.sects.findIdx? (fun y => y.queue == q && y.result.isNone) = some i →
      exec (.osecE w) s = .next (withFab s (modMt (popped s 0x30D w) x.key fun m =>
        { m with sects := lmod x.e.mt.sects i fun y => { y with result := some (poppedToken x q t, d) } }))) ∧
    (let x := seen s 0x30E w
     fires s 0x30E w → shut 0x30E → exec (.fenceM w) s = .next (withFab s (emitTo (popAll (modElem (began s 0x30E w) x.key fun e =>
      modRun e x.plane fun r => { r with fences := r.fences.filter fun n => n.1 != x.slot }) x) x d (carry x d q (fireLvl x))))) ∧
    (let x := seen s 0x310 w
     let a := scalarOf x q % 2 ^ 32
     let held := firnFind x.e.firn x.plane (BitVec.ofNat 32 a) (w.md.toNat % 4) w.fmt.toNat
     fires s 0x310 w → fld w.md.toNat 2 2 % 2 = 0 → accCheck (began s 0x310 w) (keyCore x.key) x.plane a (w.md.toNat % 4) w.fmt.toNat = none →
      ((∃ y, held = some y ∧ y.bad = true) → exec (.hacc w) s = .next (withFab s (slotRaise (began s 0x310 w) x 0x0B none a 3))) ∧
      ((∀ y, held = some y → y.bad = false) →
      let y : FirnE := { ctx := x.plane, addr := BitVec.ofNat 32 a, acop := w.md.toNat % 4, fmt := w.fmt.toNat, data := vecSrc x w.fmt.toNat w.b.toNat }
      let p := selfXY (began s 0x310 w) x.key
      let f := modElem (popped s 0x310 w) x.key fun e => outAdd { e with firn := (firnTake x.e.firn y).1 } x.plane
      exec (.hacc w) s = .next (withFab s (putPwe (pushOut (pushOut f x.key d { newToken x d (accReq p.1 p.2 false y) (fireLvl x) with bnc := 3 })
        x.key d { newToken x d (firnTake x.e.firn y).2 (fireLvl x) with bnc := 4 }) x true)))) ∧
    (fires s 0x311 w → exec (.flres w) s = .next (withFab s (putPwe (modElem (popped s 0x311 w) s.site.key fun e =>
      flresStart e s.site.plane false) (seen s 0x311 w) false))) ∧
    (let x := seen s 0x30F w
     let f := modMt (began s 0x30F w) x.key fun m => { m with took := hrecvMark x.plane x.slot :: m.took }
     ∀ (u : Token) (l : List Token) (b r : Nat), fires s 0x30F w → tget [] x.e.net.rx q = t :: u :: l →
      (hrecvDecide f x.key x.plane w = (.refuse, b, r) → exec (.hrecv w) s = .next (withFab s
        (pushOut (pushOut (popAll f x) x.key d (bounceTok x t 1 true)) x.key d (bounceTok x u 2 false)))) ∧
      (hrecvDecide f x.key x.plane w = (.accept, b, r) → bankAllowed f x.key x.plane b = true →
        let v := t.data.toNat
        let a : MemReq := { src := 2, plane := x.plane, slot := x.slot, op := 0x310, fmt := fld v 36 8, bank := b, line := r, addr := BitVec.ofNat 32 v
                            size := 64, data := u.data, acop := fld v 32 4, fl := bit v 45, cr := bit v 60, sx := fld v 46 7, sy := fld v 53 7
                            port := q - 0x20, queue := q, round := x.p.run.round, no := x.e.mt.nextReq }
        let g := bankPush (modMt (popAll f x) x.key fun m => { m with nextReq := m.nextReq + 1 }) x.key a (if a.fl then none else some q)
        exec (.hrecv w) s = .next (withFab s (if a.fl then g else modMt g x.key fun m => countUse m b a.port))))

/-- No slot touches what is not its own: every operation leaves the control cores, the memories, the hub, the clocks, the bring-up state and the rest
of the agenda as they are (07 R192, 08 R234). -/
def Obligations.SlotsFrame : Prop :=
  ∀ (i : Instr) (n : Nat) (s t : State), encodeSlot i = some n → exec i s = .next t →
    t.mem = s.mem ∧ t.hub = s.hub ∧ t.clk = s.clk ∧ t.sec = s.sec ∧ t.agenda = s.agenda ∧ t.site = s.site ∧ t.free = s.free ∧ t.resp = s.resp ∧
      t.fab.ccs = s.fab.ccs ∧ t.fab.loads = s.fab.loads ∧ t.fab.fills = s.fab.fills ∧
      ∀ r, (region? t.fab r).isSome = (region? s.fab r).isSome

/-- Which bytes of the scratchpads and local stores change (04 R102, R113, 05 R132, 08 R234, 13 R369, R373): no slot writes one as it fires, nor does
a credit, a bounce or a swap; a store of lsst or mdrain.ls lands as its tile cycle ends, at the bytes of its address under its rotation code; a bank's
acceptance writes at most the bytes that the request at the head of its queue covers, and a section's retirement at most those of its buffered writes. -/
def Obligations.TileMemoryFrame : Prop :=
  (∀ (i : Instr) (n : Nat) (s t : State), encodeSlot i = some n → exec i s = .next t → tilesSame s t) ∧
  (∀ (s t : State) (key sel i rid : Nat), ∀ x ∈ [Instr.bounceArrival key sel, .creditArrival i, .creditSend key i, .swapCheck rid, .swapTick rid],
    exec x s = .next t → tilesSame s t) ∧
  (∀ (f : Fab) (key k a : Nat),
    let e := elemOf (tileTick f key) k
    mget e.mt.data a = mget (elemOf f k).mt.data a ∧
      ((k = key → ∀ cls n round rot b len v, (cls, PendW.ls n round rot b len v) ∈ (elemOf f key).pend → ∀ j, j < len → lsPhys rot ((b + j) % 2 ^ 17) ≠ a) →
        mget e.ct.ls a = mget (elemOf f k).ct.ls a)) ∧
  (∀ (s t : State) (key bank k a : Nat), exec (.bankAccept key bank) s = .next t →
    mget (elemOf t.fab k).ct.ls a = mget (elemOf s.fab k).ct.ls a ∧
      ((k = key → ∀ q l, tget [] (elemOf s.fab key).mt.bankq bank = q :: l → reqWrites q = true → ¬reqCovers q a) →
        mget (elemOf t.fab k).mt.data a = mget (elemOf s.fab k).mt.data a)) ∧
  ∀ (s t : State) (key plane dom k a : Nat), exec (.sectionRetire key plane dom) s = .next t →
    mget (elemOf t.fab k).ct.ls a = mget (elemOf s.fab k).ct.ls a ∧
      ((k = key → ∀ y ∈ (elemOf s.fab key).mt.sects, ∀ q ∈ y.writes, ¬reqCovers q a) →
        mget (elemOf t.fab k).mt.data a = mget (elemOf s.fab k).mt.data a)

/-! ### Events -/

/-- Events of a control core and its ports (09 R248, R267-R269, 10 R283-R286): a pending enabled event traps; TIMER rises once device time reaches
tcmp; a reply fills its register; a token for the core enters its sink port; a source port emits a mark that is due, before it the token at the head
of its log; the order of ports' marks and that TIMER is tested only while the core's clock runs rest on logs 50 and 79. That a wfe which waited
completes before its event's trap rests on log 37. -/
def Obligations.CoreEvents : Prop :=
  ∀ (s : State) (n : Nat),
    let c := ccOf s.fab n
    let key := 100 * n
    (∀ i, eventDue c = true → firstBit (c.evpend &&& c.evmask).toNat 6 = some i →
      let d := if inWfe c then { adv c with instret := c.instret + 1 } else c
      exec (.eventTrap n) s = .next (withFab s (modCc s.fab n fun _ =>
        (trapEntry d 2 i (BitVec.ofNat 64 (c.evpend.toNat + c.evmask.toNat * 2 ^ 32)) d.pc)))) ∧
    (c.started = true → (elemOf s.fab key).gated = false → c.tcmp.toNat ≤ s.clk.dtime.toNat → exec (.timerEvent n) s = .next (withFab s (modCc s.fab n fun c => { c with evpend := c.evpend ||| 8 }))) ∧
    (∀ i r v, s.fab.fills[i]? = some (n, r, v) → (elemOf s.fab key).gated = false → isOwed c r = true →
      exec (.registerFill i) s = .next (withFab s (modCc { s.fab with fills := s.fab.fills.eraseIdx i } n fun c =>
        { rset c r v with owed := c.owed &&& ~~~(1#32 <<< r), evpend := c.evpend ||| 1, acq := if c.acq = some r then none else c.acq }))) ∧
    (∀ (sel : Nat) (t : Token), headOf (elemOf s.fab key) sel = some t → halted s.fab key = false →
      (∀ rid r, regionOf s.fab n = some (rid, r) → driftIn s.fab rid t.ctx.toNat = none) →
      let port := t.ctag.toNat % 16
      let k := tget {} c.sinks port
      (isWideSel sel = true ∨ t.ctag.toNat / 16 ≠ 0 →
        exec (.sinkArrival n sel) s = .next (withFab s (tokFault (popQ s.fab key sel) key 9 4 (some sel) t))) ∧
      (isWideSel sel = false → t.ctag.toNat / 16 = 0 → isSecondary s.fab n = false →
        (t.kind = 0 → dropLeft k t.ctx.toNat (tget 0 k.mark t.ctx.toNat) = 0 → k.toks.length < 8) →
        exec (.sinkArrival n sel) s = .next (withFab s (serveCore (modCc (popQ s.fab key sel) n fun c =>
          { c with sinks := tins c.sinks port (sinkTake k t) }) n port)))) ∧
    ∀ (port rid : Nat) (r : Region), regionOf s.fab n = some (rid, r) → halted s.fab key = false →
      let v := vinOf c port
      (∀ (b : Word) (t : Token) (l : List (Word × Token)), v.queue = (b, t) :: l → t.kind ≠ 3 → outRoom (elemOf s.fab key) (vinOut b) ≠ 0 →
        (∀ a, a < 4 → vinDue s.fab rid r v a = false) →
        let x := vinCtx v (b.toNat % 4)
        let u : Vin := { v with
          queue := l, kept := v.kept ++ [(x.round, b, t)]
          ctxs := tmod {} (v.ctxs.map fun q => (q.1, { q.2 with markAt := q.2.markAt.map fun n => n - 1 })) (b.toNat % 4) fun y => { y with count := x.count + 1 } }
        exec (.vinPortEmit n port) s = .next (withFab s (pushOut (modCc s.fab n fun c => { c with vins := tins c.vins port u }) key (vinOut b) t))) ∧
      (∀ (a : Nat) (w : Word), a < 4 → (∀ b, b < a → vinDue s.fab rid r v b = false) → vinWord v a = some w → outRoom (elemOf s.fab key) (vinOut w) ≠ 0 →
        mayOpen r a (vinCtx v a).round = true →
        (if vEdge w then (vinCtx v a).count = edgeU s.fab rid r a (vinCtx v a).round (fld w.toNat 16 3) * fld w.toNat 24 8 else (vinCtx v a).markAt = some 0) →
        let m := (vinCtx v a).round + 1
        let u : Vin := { v with ctxs := tins v.ctxs a { round := m } }
        let g := modCc s.fab n fun c => { c with vins := tins c.vins port u }
        exec (.vinPortEmit n port) s = .next (withFab s (pushOut (if vEdge w then noteRound g n a m else g) key (vinOut w)
          (markToken false 2 a (vinTag w) m))))

/-- The network (07 R181-R187, R201, R202, 03 R94): a token enters a buffer with a free slot unless its arrival check throws it out; a switch passes a
head to the next element on the VC granted, unless the audit visits its link group (21 R474), and drops it at a border or before a dark element; a
permit frees a place; a burst header loads the latch. That the edge of the device counts as a border is the model's (log 79). The beats of one packet
stay together on a link (log 70), and CHECK is tested at arrival (log 48). -/
def Obligations.NetworkEvents : Prop :=
  ∀ (s : State) (key sel : Nat),
    let e := elemOf s.fab key
    (∀ t l, tget [] e.net.wire sel = t :: l → halted s.fab key = false → e.powerGated = false →
      (tget [] e.net.rx sel).length < linkSlots key (selDir sel) →
      let a := arrive (busy (modNet s.fab key fun n => { n with wire := tput [] n.wire sel l }) key t.ctx.toNat) key sel t
      exec (.tokenArrival key sel) s = .next (withFab s
        (if a.1 then modNet a.2 key fun n => { n with rx := tput [] n.rx sel (tget [] n.rx sel ++ [t]) } else permitBack a.2 key sel))) ∧
    (∀ (t : Token) (wide : Bool) (d : Nat), headToward s.fab key sel d = some t → halted s.fab key = false → isWideSel sel = wide → d < 4 →
      (auditOf s.fab (keyCore key) (rowOf key)).cyc = none →
      (isBorder s.fab key d = true →
        exec (.switchRoute key wide d sel) s = .next (withFab s (tokFault (takeSource s.fab key sel) key 7 d none t))) ∧
      (isBorder s.fab key d = false → isDark s.fab key d = true →
        exec (.switchRoute key wide d sel) s = .next (withFab s (tokFault (takeSource s.fab key sel) key 0x11 d none t))) ∧
      (∀ k, isBorder s.fab key d = false → isDark s.fab key d = false → mayLeave s.fab key wide d sel t = true → neighbour key d = some k →
        let v := if t.dest.isSome then 1 else selVc sel
        let o := outSel ((if wide then 0x20 else 0x40) + v) d
        let i := inSel ((if wide then 0x20 else 0x40) + v) (opposite d)
        let u : Token := { (if isOutSel sel then { t with sent := some key } else t) with twin := false }
        exec (.switchRoute key wide d sel) s = .next (withFab s (modNet (modNet (busy (noteMove (takeSource s.fab key sel) key t) key t.ctx.toNat) key fun n =>
          { n with
            used := tput 0 n.used o (tget 0 n.used o + 1)
            arbw := if wide && v != 3 then tput 0 n.arbw d v else n.arbw
            arbn := if wide || t.dest.isSome then n.arbn else tput 0 n.arbn d v
            pair := if t.bnc = 1 ∨ t.bnc = 3 then tins n.pair o (256 * t.ctx.toNat + sel) else if t.bnc = 2 ∨ t.bnc = 4 then tdel n.pair o else n.pair })
          k fun n => { n with wire := tput [] n.wire i (tget [] n.wire i ++ [u]) })))) ∧
    (tget 0 e.net.owed sel ≠ 0 → exec (.permitReturn key sel) s = .next (withFab s (modNet s.fab key fun n =>
      { n with owed := tput 0 n.owed sel (tget 0 n.owed sel - 1), used := tput 0 n.used sel (tget 0 n.used sel - 1) }))) ∧
    (∀ t, headOf e sel = some t → t.kind = 1 → halted s.fab key = false → hasPlanes key = true →
      let n := t.ctx.toNat
      let p := planeOf e n
      let h : BitVec 16 := t.data.setWidth 16
      let q := popPlane s.fab key n sel t
      p.st = .bound → p.revoked = false → q.2 = true →
      (h.toNat % 256 < 12 → exec (.burstHeaderArrival key sel) s = .next (withFab s (modElem q.1 key fun e => modRun e n fun r =>
        headerLatch key p sel h { r with hdr := tput 0x7F00 r.hdr sel h }))) ∧
      (12 ≤ h.toNat % 256 → exec (.burstHeaderArrival key sel) s = .next (withFab s (tokIllop q.1 key sel t))))

/-- Memory tiles between firings (04 R102-R104, 05 R133-R138, 06 R165-R169, 10 R298): an ordered request passes when its PRED is LAST, or opens its
section; a bank takes the request that stood at its head at the start of the cycle, performs it and replies: an accumulate combines its whole line (05
R130, R132), a read of an ordered section sees the section's own writes and a write is buffered, that of a thrown run dropped (06 R167, R168); a
finished section performs its writes in order and then sends its result; credits and bounces return to their senders. The 16 places of coalesced
credits counted by sender and the command's PROT and UNCORR rest on log 73, the order of a section's replies on log 46, packets' two beats on log 72,
bank arbitration on log 9. -/
def Obligations.MemoryTileEvents : Prop :=
  ∀ (s : State) (key : Nat),
    let f := s.fab
    let e := elemOf f key
    (∀ plane dom i y t q, sectFirst e.mt.sects plane dom = some i → e.mt.sects[i]? = some y → y.result = some (t, q) → halted f key = false →
      (∀ r rest, y.writes = r :: rest → e.mt.took.contains (pipeMark r.bank) = false → r.grp = 0 → replyPlaces r ≤ outRoom e r.reply →
        bankRoom e.mt r.bank r.line r.plane r.round = true → r.op = 0x301 →
        exec (.sectionRetire key plane dom) s = .next (withFab s (emitReply (modMt f key fun m => reqPerform
          { m with took := pipeMark r.bank :: m.took, sects := lmod m.sects i fun y => { y with writes := rest } } r (some r.round))
          key r.plane r.reply r.lvl none (r.addr.setWidth 512)))) ∧
      (∀ r rest, y.writes = r :: rest → e.mt.took.contains (pipeMark r.bank) = false → replyPlaces r ≤ outRoom e r.reply →
        bankRoom e.mt r.bank r.line r.plane r.round = false →
        exec (.sectionRetire key plane dom) s = .next (withFab s (askBank f key r.bank plane r.round))) ∧
      (y.writes = [] → y.replies = [] → q = 0x60 ∨ 1 ≤ outRoom e q → exec (.sectionRetire key plane dom) s = .next (withFab s
        (emitPass (modMt f key fun m => { m with sects := m.sects.eraseIdx i }) key plane y.queue q t)))) ∧
    (∀ plane dom q, halted f key = false → (planeOf e plane).revoked = false → spOpen f key plane = true → domNext e plane dom = some q →
      (q.op = 0x30C → (e.mt.sects.countP fun y => y.plane == plane && y.dom == dom) < 8 → q.reply = 0x60 ∨ 1 ≤ outRoom e q.reply →
        let t : Token := { data := q.data, lvl := q.lvl, ctag := q.ctag, ctx := BitVec.ofNat 2 plane, check := q.check }
        let x : Sect := { queue := q.queue, plane := plane, dom := dom, grant := q.reply, round := q.round, entry := t, run := e.mt.nextReq }
        exec (.domainSequence key plane dom) s = .next (withFab s (emitPass (modMt (setLast (domTake f key q) key q) key fun m =>
          { m with sects := m.sects ++ [x], nextReq := m.nextReq + 1 }) key plane q.queue q.reply t))) ∧
      (q.op ≠ 0x30C → q.grp = 0 → bankDepth e q.bank < 16 → wins f key q.bank (bidRank e q.bank false q.queue) (BitVec.ofNat 8 q.queue) = true →
        exec (.domainSequence key plane dom) s = .next (withFab s (bankPush (domTake f key q) key q (some q.queue))))) ∧
    (∀ bank q rest, halted f key = false → bankDepth e bank ≠ 0 → e.mt.took.contains (pipeMark bank) = false → tget [] e.mt.bankq bank = q :: rest →
      (q.src = 0 → q.sec = false → q.grp = 0 → ¬(reqWrites q = true ∧ bankRoom e.mt q.bank q.line q.plane q.round = false) →
        replyPlaces q ≤ outRoom e q.reply → ¬(q.op ≠ 0x301 ∧ q.op ≠ 0x303 ∧ reqBad e.mt q = true) →
        let g := modMt (bankPop f key q.bank) key fun m => reqPerform m q (some q.round)
        let done := emitReply g key q.plane q.reply q.lvl (if q.hdr then some (spTag e.mt q.bank q.line) else none)
          (if q.op = 0x301 then q.addr.setWidth 512 else BitVec.ofNat 512 (reqOld e.mt q))
        let u := setLast done key q
        exec (.bankAccept key bank) s = .next (withFab s
          (if q.ord.getLsbD 0 then modElem u key fun e => modRun e q.plane fun r => { r with acq := none, acqDom := none } else u))) ∧
      (q.src = 2 → q.sec = false → q.op = 0x310 → q.reply = 0x60 → bankRoom e.mt q.bank q.line q.plane q.round = true →
        let b := bankByte q.bank q.line
        let g := modMt (bankPop f key q.bank) key fun m => reqPerform m q (some q.round)
        (reqBad e.mt q = true → exec (.bankAccept key bank) s = .next (withFab s (reqUncorr (bankPop f key q.bank) key q))) ∧
        (reqBad e.mt q = false → q.grp = 0 → exec (.bankAccept key bank) s = .next (withFab s
          (if q.fl ∧ !q.cr then g else if q.port = 16 then { g with creds := g.creds ++ [(0, q.key, q.plane, 1, {})] } else creditAdd g key q))) ∧
        (elemOf g key).mt.data = putLine e.mt.data b (accLine q.acop q.fmt (lineAt e.mt.data b) q.data) ∧
        spTag (elemOf g key).mt q.bank q.line = (spTag e.mt q.bank q.line &&& 0xFF00#16) ||| BitVec.ofNat 16 q.fmt) ∧
      (q.src = 0 → q.sec = true → q.grp = 0 →
        let m := (elemOf (bankPop f key q.bank) key).mt
        (∀ i, sectOf e.mt q = some i → q.op = 0x300 → replyPlaces q ≤ outRoom e q.reply → sectBad e.mt q = false →
          let v := sectView e.mt i q
          exec (.bankAccept key bank) s = .next (withFab s (acqDone (emitReply (modMt f key fun _ => bankTouch m q.bank q.plane q.round) key q.plane q.reply q.lvl
            (if q.hdr then some (spTag v q.bank q.line) else none) (BitVec.ofNat 512 (reqOld v q))) key q))) ∧
        (∀ i, sectOf e.mt q = some i → q.op = 0x301 → sectTakes e.mt i q = .keep →
          exec (.bankAccept key bank) s = .next (withFab s (acqDone (modMt f key fun _ => sectKeep m i q) key q))) ∧
        (sectOf e.mt q = none → q.op = 0x301 →
          exec (.bankAccept key bank) s = .next (withFab s (acqDone (modMt f key fun _ => bankTouch m q.bank q.plane q.round) key q)))) ∧
      (q.src = 1 →
        let x : State := withFab s (cmdReply (bankPop f key q.bank) q.key q.id q.reg 0)
        (lentBank f key q.bank = true → exec (.bankAccept key bank) s = .next (cmdFault x key q 6 3)) ∧
        let room := ∀ r, cmdRound f key q.plane = some r → bankRoom e.mt q.bank q.line q.plane r = true
        (lentBank f key q.bank = false → room → reqBad e.mt q = true → exec (.bankAccept key bank) s = .next (cmdFault x key q 0x0B 1)) ∧
        (lentBank f key q.bank = false → room → reqBad e.mt q = false →
          exec (.bankAccept key bank) s = .next (withFab s (cmdReply (modMt (bankPop f key q.bank) key fun m => reqPerform m q (cmdRound f key q.plane))
            q.key q.id q.reg (BitVec.ofNat 64 (reqOld e.mt q))))))) ∧
    (∀ sel t u rest, tget [] e.net.bin sel = t :: u :: rest →
      let v := t.data.toNat
      let x : FirnE := { ctx := t.ctx.toNat, addr := BitVec.ofNat 32 v, acop := fld v 32 4, fmt := fld v 36 8, data := u.data }
      exec (.bounceArrival key sel) s = .next (withFab s (modElem f key fun e =>
        { outSub e x.ctx 1 with firn := firnPut e.firn x, net := { e.net with bin := tput [] e.net.bin sel rest } }))) ∧
    (∀ i sx sy ctx n cq, e.mt.credits[i]? = some (sx, sy, ctx, n, cq) →
      let t := stamp false { data := BitVec.ofNat 512 n, ctx := BitVec.ofNat 2 ctx, dest := some (sx, sy) }
      exec (.creditSend key i) s = .next (withFab s
        (modMt (modMt f key fun m => { m with credits := m.credits.eraseIdx i }) key fun m => { m with crq := m.crq ++ [(cq, t)] }))) ∧
    (∀ i ctx n x, f.creds[i]? = some (0, key, ctx, n, x) →
      exec (.creditArrival i) s = .next (withFab s (modElem { f with creds := f.creds.eraseIdx i } key fun e =>
        { e with out := tput 0 e.out ctx (tget 0 e.out ctx - n) }))) ∧
    (∀ i ctx n x, f.creds[i]? = some (1, key, ctx, n, x) →
      exec (.creditArrival i) s = .next (withFab s (modElem { f with creds := f.creds.eraseIdx i } key fun e =>
        { e with out := tput 0 e.out ctx (tget 0 e.out ctx - n), firn := firnPut e.firn x }))) ∧
    (e.mt.qdue = true → exec (.quotaWindowClear key) s = .next (withFab s (modMt f key fun m => { m with accepted := [], qdue := false })))

/-- Streams and translation (02 R54-R67, 04 R116, R119): a node performs one access of the stream in turn, or a step of its command. A read whose
addresses the stream's entry covers stands in flight with its physical lines, a store's bytes enter the hold side, and an access without an entry asks
the walker; a read returns its line; a walk that has started is answered, and the entry reaches its stream; an invalidation reaches its nodes and ends
once nothing is left of it. Which stream or command a node serves rests on log 54, which command on log 23, and a read issued too early again on log
76. -/
def Obligations.StreamEvents : Prop :=
  ∀ (s : State) (key : Nat),
    let e := elemOf s.fab key
    (∀ j, kindOf key = .ag → halted s.fab key = false → e.issued.contains .memory = false → ringPick s.fab key = some j →
      let n := j % 4
      let i := j / 4
      let p := planeOf e n
      let st := strSt p i
      let part := corePartOf s.fab (keyCore key)
      let fn := planeFn key p
      let a := nestAddr p i st.pos
      let s1 := withFab s (modElem s.fab key fun e => { e with issued := [.memory], ag := { e.ag with ring := j } })
      (j = 32 → exec (.streamAccess key) s = .next (cmdTurn s1 key)) ∧
      (j ≠ 32 → dbgHit e n i st.pos = false → strBad p i = none →
        (strDir p i = false → exec (.streamAccess key) s = .next (if strSpace p i then readSp s1 key n i else readIssue s1 key n i)) ∧
        (∀ t, strDir p i = true → headOf e (strQ p i) = some t → exec (.streamAccess key) s =
          .next (if strAcc p i then accIssue s1 key n i t else if strSpace p i then storeSp s1 key n i t else storeIssue s1 key n i t)) ∧
        (∀ x, st.tent = some x → st.half = none → strSpace p i = false → strAcc p i = false →
          (∀ y ∈ lineSpan a (strSize p i), y < 2 ^ 52 ∧ tCovers x part fn y = true ∧ tCheck s.hub x y (b2n (strDir p i)) false = none) →
          (strDir p i = false →
            let q : ReadOut := { no := e.ag.nextId, stream := i, plane := n, pos := st.pos, fn := fn, va := a, size := strSize p i
                                 pas := (lineSpan a (strSize p i)).map fun y => lineBase (tPa x y) }
            ∃ t, exec (.streamAccess key) s = .next t ∧ (elemOf t.fab key).ag.reads = e.ag.reads ++ [q] ∧
              (strSt (planeOf (elemOf t.fab key) n) i).pos = st.pos + 1 ∧ t.mem = s.mem ∧ t.hub = s.hub) ∧
          (∀ t, strDir p i = true → headOf e (strQ p i) = some t → logsBack key p (strQ p i) = false → alignBad (strLatch p i % 256) a = false →
            a % 64 + strSize p i ≤ 64 →
            let h : Held := { no := e.ag.nextId, pa := lineBase (tPa x a), va := a, fn := fn, route := pteRoute x.leaf.toNat, stream := i, ctx := n, round := p.run.round
                              mask := BitVec.ofNat 64 ((2 ^ strSize p i - 1) * 2 ^ (a % 64)), data := BitVec.ofNat 512 (t.data.toNat * 2 ^ (8 * (a % 64)))
                              tag := BitVec.ofNat 16 (strLatch p i % 65536) }
            (holdPut e.ag.hold h).length ≤ 1024 →
            ∃ u, exec (.streamAccess key) s = .next u ∧ (elemOf u.fab key).ag.hold = holdPut e.ag.hold h ∧
              (strSt (planeOf (elemOf u.fab key) n) i).pos = st.pos + 1 ∧ u.mem = s.mem ∧ u.hub = s.hub)) ∧
        (st.tent = none → st.xva ≠ some a → strDir p i = false → strSpace p i = false → (∀ y ∈ lineSpan a (strSize p i), y < 2 ^ 52) → st.half = none →
          ∃ t w, exec (.streamAccess key) s = .next t ∧ w ∈ (tget {} t.mem.walkers (dieOf (keyCore key))).queue ∧
            w.key = key ∧ w.stream = i ∧ w.plane = n ∧ w.part = part ∧ w.fn = fn ∧ w.va = a ∧
            (strSt (planeOf (elemOf t.fab key) n) i).wait = 1))) ∧
    (∀ i q, e.ag.reads[i]? = some q → q.line = none → q.id = 0 → readBehind e i q = false →
      let part := corePartOf s.fab (keyCore key)
      let latch := strLatch (planeOf e q.plane) q.stream
      (∀ m ls d tag, readLines s.mem e part q.pas = (m, .inl ls) → readDone (planeOf e q.plane) q.stream q.va q.size ls = some (d, tag) →
        let s1 := poisonPost { s with mem := m }
        exec (.streamReadReturn key i) s = .next (withFab s1 (modElem s1.fab key fun e =>
          { e with ag := { e.ag with reads := lmod e.ag.reads i fun q => { q with line := some d, tag := tag, seen := roundSeen s1.fab key q.plane } } }))) ∧
      (∀ pa, q.pas = [pa] → inHbm pa = false → alignBad (if fld latch 16 2 = 1 then latch % 256 else 0) q.va = false → s.mem.lost = [] →
        ∃ t r, exec (.streamReadReturn key i) s = .next t ∧ (elemOf t.fab key).ag.reads[i]? = some r ∧ t.mem = s.mem ∧
          r.line = some (fromLines [holdMerge e pa (lineAt s.mem.host (lineBase pa - 0x800000000000))] (q.va % 64) q.size) ∧ r.tag = 0x7F00)) ∧
    (∀ die i w, (tget {} s.mem.walkers die).queue[i]? = some w → w.ans = none → w.started = true →
      let r := walkerRun s.hub s.mem die w.part w.fn w.va
      let answer (k : Walker) : Walker := startWalk { k with queue := lmod k.queue i fun w => { w with ans := some (walkAns r.2) } }
      exec (.walk die i) s = .next (poisonPost { s with mem := { r.1 with walkers := tmod {} r.1.walkers die answer } }) ∧
      (r.1.lost = [] → ∃ t, exec (.walk die i) s = .next t ∧ (tget {} t.mem.walkers die).queue[i]? = some { w with ans := some (walkAns r.2) })) ∧
    (∀ die i w a, (tget {} s.mem.walkers die).queue[i]? = some w → w.ans = some a →
      let p := planeOf (elemOf s.fab w.key) w.plane
      let s1 := { s with mem := walkDrop s.mem die i }
      exec (.refillReturn die i) s = .next (if w.stream < 8 then refillStream s1 w a else if w.stream = 8 then refillCommand s1 w a
        else if hubWalk w then refillHub s1 w a else refillHeld s1 w a) ∧
      (∀ x, a = .inl x → w.stream < 8 → (strSt p w.stream).wait = 1 → walkWanted p w = true →
        exec (.refillReturn die i) s = .next { s1 with
          fab := modStr s.fab w.key w.plane w.stream fun t => { t with tent := some x, wait := 0 } })) ∧
    (∀ part i v, (partOf s.hub part).invals[i]? = some v →
      (v.held = none → exec (.invalidationComplete part i) s = .next (invReach s part i v) ∧
        ∃ t l, exec (.invalidationComplete part i) s = .next t ∧ (partOf t.hub part).invals[i]? = some { v with held := some l, reads := invReads s part v } ∧
          ∀ q ∈ t.mem.walkers, ∀ x ∈ q.2.leaves ++ q.2.tables, invEntry part v x = false) ∧
      (∀ l, v.held = some l →
        let left := l.filter fun q => !stoppedAt s.fab q.1
        let s1 := { s with
          fab := invStale s.fab l
          hub := modPart s.hub part fun p => { p with invals := lmod p.invals i fun v => { v with held := some left } } }
        (invOwed s1.fab v left = true → exec (.invalidationComplete part i) s = .next s1) ∧
        (invOwed s1.fab v left = false →
          let s2 := invWake s1 part v
          exec (.invalidationComplete part i) s = .next { s2 with
            hub := modPart s2.hub part fun p => { p with invals := p.invals.eraseIdx i, xbusy := if v.core.isNone then false else p.xbusy }
            fab := match v.core with
              | some c => cmdDone s2.fab c v.id
              | none => s2.fab } ∧
          ∃ t, exec (.invalidationComplete part i) s = .next t ∧ (partOf t.hub part).invals = (partOf s.hub part).invals.eraseIdx i)))

/-- Rounds (06 R170, 07 R195-R198, 04 R111, R121, 21 R466): a request for an early edge is taken once a round; an element with marks at every input
enters the next round once its accumulates are flushed, and ends with end marks; the sources that are no edges follow, once no start token is due; a
round commits in both twins when every element has passed its mark, and a held store that fails its check raises UNCORR in its place (21 R470). The
order of a stream's end and of edge requests is read as logs 38, 50 and 55 say. -/
def Obligations.RoundEvents : Prop :=
  ∀ (s : State) (key rid plane : Nat) (r : Region),
    let f := s.fab
    let e := elemOf f key
    let p := planeOf e plane
    let ready (g : Fab) : Prop := edgeClean g key plane = true ∧ (markOuts key p).all (fun q => decide (1 ≤ outRoom e q)) = true
    (∀ (l : List Src) (n : BitVec 32), regionOf f (keyCore key) = some (rid, r) → l = sourcesOf f r plane → n = openRound (ctxOf r plane) l → halted f key = false →
      ctxLive r plane = true → p.revoked = false → (ctxOf r plane).earlyDone ≠ some n → (ctxOf r plane).early = true →
      ((l.filter fun x => x.edge) = [] → mayOpen r plane n = true → exec (.earlyEdgeRequest key plane) s = .next (withFab s (modRegion f rid fun r =>
        modCtx r plane fun c => { c with round := n + 1, earlyDone := some n, early := false }))) ∧
      ((l.filter fun x => x.edge) ≠ [] → exec (.earlyEdgeRequest key plane) s = .next (withFab s (orderStreams (orderMarks
        (modRegion f rid fun g => modCtx g plane fun c => { c with u := cutCounts f rid r plane n l, uRound := some n, earlyDone := some n, early := false })
        plane l fun x => x.round == n) plane l fun x => x.round == n)))) ∧
    (hasPlanes key = true → planeStill f key plane = false →
      (hasBackMark f key plane = true → exec (.roundEntry key plane) s = .next (withFab s (backMarks f key plane))) ∧
      (hasBackMark f key plane = false → mayEnter e key plane = true →
        (∀ g, edgeFlush f key plane = some g → exec (.roundEntry key plane) s = .next (withFab s g)) ∧
        (edgeFlush f key plane = none → ready f → exec (.roundEntry key plane) s = .next (withFab s (enterRound f key plane)))) ∧
      (seesEnd f key plane = true → endSlots e key plane = true → edgeFlush f key plane = none → ready f →
        exec (.endMark key plane) s = .next (withFab s (modElem
          ((markOuts key p).foldl (fun f q => pushOut f key q (markToken (isWideSel q) 3 plane (ctagOf key p q) p.run.round))
            ((planeWaits key p).foldl (fun f q => popQ f key q) (busy f key plane)))
          key fun e => modPlane e plane fun p => { p with st := .retiring })))) ∧
    (region? f rid = some r → ctxLive r plane = true → r.phase = 0 → (launchOf f rid plane r).2.startDue = [] →
      let l := sourcesOf f r plane
      let n := openRound (ctxOf r plane) l
      let due (x : Src) : Bool := x.round != n && rle x.round n
      let g := (regionCores r).foldl (fun f c => modCc f c fun c => { c with rounds := tput 0 c.rounds plane n }) (orderStreams (orderMarks f plane l due) plane l due)
      exec (.nonedgeSignal rid plane) s = .next (withFab s ((planeKeys r).foldl (fun f k => modElem f k fun e =>
        let p := planeOf e plane
        if p.st == .bound && !p.revoked && (planeWaits k p).isEmpty && p.run.round != n && rle p.run.round n then
          modPlane e plane fun p => { p with told := some (p.run.round + 1) } else e) g))) ∧
    ((∀ q ∈ ctxPair f rid plane, mayCommit f q plane = true) →
      (((ctxPair f rid plane).head?.bind fun q => commitBad f q plane) = none →
        exec (.roundCommit rid plane) s = .next ((ctxPair f rid plane).foldl (commitRegion plane) s)) ∧
      (∀ k h, ((ctxPair f rid plane).head?.bind fun q => commitBad f q plane) = some (k, h) →
        exec (.roundCommit rid plane) s = .next (strRaise s k plane h.stream h.round 0x0B (BitVec.ofNat 64 h.pa) 4)))

/-- Stops (14 R401, 15 R410-R425, 21 R468): a fault sends the gate signal, each element stops on it, and with all of them gated the rounds are
discarded and the report posted; a replay rescans the planes and restarts the region, or stops it where a frame cannot be mended; a slot word that
fails its parity check raises UNCORR (21 R472); a timing error issues again; a breakpoint, quiescence and stray tokens are reported. What issues again
after a timing error rests on log 59, when patrol and parity errors act on log 29, the idle count on log 42, a discard for capacity on log 67. -/
def Obligations.StopEvents : Prop :=
  ∀ (s : State) (key rid plane slot : Nat) (r : Region),
    let f := s.fab
    let e := elemOf f key
    (∀ ctx, region? f rid = some r → r.owner = none → r.phase ≠ 2 → nextFault f rid r = some ctx →
      let x := firstFault (pairFaults f rid ctx)
      dkindOf (pairFaults f rid ctx) ≠ .stray → (ctxOf r ctx).drift = false →
      (r.phase = 0 → ∃ cause, exec (.roundDiscard rid) s = .next (withFab s (stopPair f rid cause ctx (if x.any noDiscard then 2 else 1)))) ∧
      (r.phase ≠ 0 → allGated f rid = true → r.restart = false → x.any noDiscard = false →
        let q := applyDiscard s rid ctx
        exec (.roundDiscard rid) s = .next (withFab q.1 (setPhase q.1.fab rid fun r =>
          if q.2 && r.phase != 4 then { r with restart := true }
          else { r with phase := if r.phase = 3 then 3 else 4, stays := r.phase == 3, stop := some (r.stop.getD 0), stopCtx := ctx })))) ∧
    (region? f rid = some r → r.owner = none → r.phase = 2 → allGated f rid = true →
      (firstFault (pairFaults f rid r.stopCtx)).any noDiscard = true →
      let t := stopReport s rid r.stopCtx 2
      exec (.roundDiscard rid) s = .next (withFab t (setPhase t.fab rid fun r => if r.phase = 3 then { r with stays := true } else { r with phase := 4 }))) ∧
    (regionOf f (keyCore key) = some (rid, r) → key ∈ r.gates → kindOf key = .ag →
      let g := modRegion (modElem f key fun e => { e with gated := true }) rid fun r => { r with gates := r.gates.filter fun k => k != key }
      exec (.gateSignalArrival key) s = .next (withFab s
        (if (region? g rid).any fun r => r.gates.isEmpty then modRegion g rid fun r => { r with gateAt := s.clk.dtime } else g))) ∧
    (region? f rid = some r → r.restart = true →
      (r.owner = none → r.phase ≠ 0 → r.phase < 3 → allGated f rid = true →
        let q := rescanPair s rid
        (q.2 = .done → exec (.replay rid) s = .next (restartPair q.1 rid)) ∧
        (q.2 = .waits → exec (.replay rid) s = .next q.1) ∧
        (∀ b, q.2 = .fails b → exec (.replay rid) s = .next (rescanStop q.1 rid r b))) ∧
      (r.owner.isSome → exec (.replay rid) s = .next (driftResume s rid))) ∧
    (∀ op w body n, slotReady f s.site.key s.site.plane s.site.slot op w = true → backlogFull (seen s op w) = false →
      ((firingFrames s.site.key s.site.slot).find? fun n => (planeOf (elemOf f s.site.key) s.site.plane).bad.contains n) = some n →
      fire s op w body = .next (withFab s (slotRaise (began s op w) (seen s op w) 0x0B none
        (cfgAddr s.site.key s.site.plane n (if n = s.site.slot / 2 then 16 * (s.site.slot % 2) else 0)).toNat 3))) ∧
    (kindOf key = .compute ∨ kindOf key = .ag → halted f key = false →
      (e.terr = [] → (∃ q ∈ e.opens, e.cyc < q.2 + 2) →
        exec (.timingError key) s = .next (withFab s (modElem f key fun e =>
          { e with issued := allClasses, terr := (openOps e).map fun q => (q.1, e.cyc) }))) ∧
      (∀ n c l, e.terr = (n, c) :: l → c + 4 < e.cyc →
        exec (.timingError key) s = .next (withFab s ((e.terr.map fun t => t.1).dedup.foldl (fun f n => raiseFault f (keyCore key) n
          { cause := 0x0B, key := key, round := (planeOf e n).run.round, info1 := 6 }) (modElem f key fun e => { e with terr := [] }))))) ∧
    (regionOf f (keyCore key) = some (rid, r) → r.phase = 0 → brkDue e key plane slot = true →
      slotReady f key plane slot (swOp (slotWordOf (planeOf e plane) slot)) (slotFields (slotWordOf (planeOf e plane) slot)) = true →
      ∃ x : FaultRec, x.cause = 0x0F ∧ x.key = key ∧ x.slot = some slot ∧ x.round = (planeOf e plane).run.round ∧
        let g := raiseFault (modElem f key fun e => modPlane e plane fun p => { p with brkskip := true, brkslot := slot }) (keyCore key) plane x
        exec (.breakpointStop key plane slot) s = .next (withFab s (if (driftIn g rid plane).isSome
          then modElem g key fun e => modPlane e plane fun p => { p with revoked := true } else gateElem (stopPair g rid 0x0F plane 2) rid key))) ∧
    (region? f rid = some r → ctxLive r plane = true → ctxBound f r plane = true → r.phase = 0 → (ctxOf r plane).drift = false → 4096 ≤ (ctxOf r plane).idle →
      (∀ d, driftIn f rid plane = some d → d.2.lent = true) → quietExcused f r plane = false →
      ∃ x : FaultRec, x.cause = 0x0A ∧ x.info0 = BitVec.ofNat 64 (blockedKeys f r plane).length ∧
        exec (.quiesceDetect rid plane) s = .next (withFab s (stopPair (raiseFault (modRegion f rid fun r => modCtx r plane fun c =>
          { c with idle := 0, faults := c.faults.filter fun y => y.cause != 0 }) (r.y0 * 8 + r.x0) plane x) rid 0x0A plane 2))) ∧
    (region? f rid = some r → (∀ q ∈ ctxPair f rid plane, ∃ g, region? f q = some g ∧ sweepDue f g plane = true ∧ ∀ k ∈ regionKeys g, strayIn f k plane = []) →
      exec (.retirementSweep rid plane) s = .next ((ctxPair f rid plane).foldl (fun s q => retireCtx s q plane) s))

/-- Scheduling (14 R385-R409, 15 R427-R436, 16 R437-R440): a record is fetched and checked, becomes a candidate, is promoted, placed, loaded frame by
frame and started; swaps and drift messages act at their tick and place; distributors deal records out; a gated region is saved and a saved launch
comes back. The order of records, drift placement and what of a save is translated again rest on logs 56, 57 and 58. -/
def Obligations.SchedulingEvents : Prop :=
  ∀ (s : State) (part fn q idx rid key plane : Nat),
    let f := s.fab
    let p := partOf s.hub part
    let e := elemOf f key
    let runs := partEn p = true ∧ p.prstState = 2
    (runs → fn ≤ vfCnt p → thas p.fwait (9 * fn + q) = false →
      (q < 8 → exec (.launchFetch part fn q) s = .next (fetchQueue s part fn q)) ∧
      (q = 8 → exec (.launchFetch part fn q) s = .next (fetchChild s part fn))) ∧
    (runs →
      let s1 := { s with hub := modPart s.hub part fun p => noteSince p s.clk.dtime }
      ∀ (i : Nat) (l : Launch) (a : List (Nat × Nat)) (n : Nat) (warm : Bool), pickLaunch s1 part = some (i, l, .place a n warm) →
        exec (.schedulerDecision part) s = .next (placeLaunch { s1 with hub := modPart s1.hub part fun p => wonPart p i l } l a n warm)) ∧
    (∀ l, p.accepted[idx]? = some l → lClass l = 2 → isCandidate p s.clk.dtime idx = true → (∃ t, l.since = some t ∧ 491520 ≤ (s.clk.dtime - t).toNat) →
      exec (.batchPromotion part idx) s = .next { s with hub := modPart s.hub part fun p =>
        { p with accepted := lmod p.accepted idx fun l => { l with promoted := true } } }) ∧
    (isCandidate p s.clk.dtime idx = true →
      exec (.notbeforeReached part idx) s = .next { s with hub := modPart s.hub part fun p =>
        { p with accepted := lmod p.accepted idx fun l => { l with since := some (l.since.getD s.clk.dtime) } } }) ∧
    (∀ l m x line, f.loads[idx]? = some l → l.wait = 0 → l.rid.isSome →
      (hubRead s.hub s.mem l.x l.part l.fn (l.image.toNat + 32 * l.k) = (m, x, .ok line) →
        let l1 : Load := { l with x := {} }
        let s1 := poisonPost { s with mem := m, fab := { f with loads := lmod f.loads idx fun _ => l1 } }
        exec (.planeLoadFrame idx) s = .next (loadFrame (withFab s1 (loadState s1.fab l1 .incomplete .loading)) idx l1
          (BitVec.ofNat 256 (line.toNat / 2 ^ (8 * ((l.image.toNat + 32 * l.k) % 64)))))) ∧
      (hubRead s.hub s.mem l.x l.part l.fn (l.image.toNat + 32 * l.k) = (m, x, .wait) →
        exec (.planeLoadFrame idx) s = .next (poisonPost { s with mem := m, fab := { f with loads := lmod f.loads idx fun _ => { l with x := x } } }))) ∧
    (∀ core r, startAt f core = some (rid, r) → r.twin = none → r.owner = none → ∃ t, exec (.startTokenArrival core) s = .next t ∧ t.mem = s.mem ∧
      (∀ e, e < 100 → hasPlanes (100 * core + e) = true → (planeOf (elemOf t.fab (100 * core + e)) r.plane).st = .bound) ∧
      ((ccOf t.fab core).started = true ∨ bit r.launch.lrec.toNat 25 = false)) ∧
    (∀ r w, region? f rid = some r → r.swap = some w →
      (w.checked = none → horizonCome s.clk.dtime w.tick = true → exec (.swapCheck rid) s = .next (withFab s
        (modRegion f rid fun r => { r with swap := some { w with checked := some (swapOk f r w) } }))) ∧
      (w.done = false → w.checked = some false → w.tick.toNat ≤ s.clk.dtime.toNat → exec (.swapTick rid) s = .next (withFab s (swapRefuse f rid r w))) ∧
      (w.done = false → w.checked = some true → r.phase = 0 → w.tick.toNat ≤ s.clk.dtime.toNat →
        let lent := (f.regions.filter fun q => q.2.owner == some rid && q.2.lent).map fun q => q.1
        let g := kwrAll ((planeKeys r).foldl (fun f k => bindPlane f k w.new true) f) (planeKeys r) w.new
        let g := ((planeKeys r).filter fun k => kindOf k == .ag).foldl (fun f k => modElem f k (endStreams w.old)) g
        let g := modRegion g rid fun r => { r with swap := some { w with done := true, relend := lent }, ctxs := tins r.ctxs w.new {} }
        exec (.swapTick rid) s = .next (withFab s (lent.foldl (fun f d => sendDrift f d 1 none) (cmdReply g w.core w.id w.reg 0))))) ∧
    (∀ did d, kindOf key = .ag →
      (driftMsg f key plane 1 = some (did, d) → exec (.revokeArrival key plane) s = .next (withFab s (msgDone (modElem f key fun e =>
        modPlane { (pendOrder (e.pend.filter fun q => pendPlane q.2 == plane)).foldl applyPend e with
          pend := e.pend.filter fun q => pendPlane q.2 != plane } plane fun p => { p with revoked := true }) did key))) ∧
      (driftMsg f key plane 2 = some (did, d) → ∃ g, exec (.relendArrival key plane) s = .next (withFab s (msgDone g did key)) ∧
        (planeOf (elemOf g key) plane).revoked = false)) ∧
    (∀ r, region? f rid = some r → r.withdraw = none → (f.regions.filter fun q => q.2.owner == some rid) ≠ [] →
      needsPlanes s rid r = true →
      let n := ownerRound f r
      exec (.lendWithdraw rid) s = .next (withFab s (modRegion f rid fun r =>
        (f.regions.filter fun q => q.2.owner == some rid).foldl (fun r d => modCtx r d.2.plane fun c => { c with early := true, earlyDone := none })
          { r with withdraw := some n }))) ∧
    (∀ j x t r, distNext e plane = some (j, x, t, r) → planeStill f key plane = false → IssueClass.movement ∉ e.issued →
      (popPlane f key plane (stDq x) t).2 = true →
      let seq := (tget {} (planeOf e plane).run.dists j).seq
      let step (u : Distr) : Distr :=
        let left := if u.left = 0 then stLen x - 1 else u.left - 1
        { u with dst := r, left := left, seq := if left = 0 then u.seq + 1 else u.seq
                 est := if u.left = 0 then tput 0 u.est r (tget 0 u.est r + 1) else u.est }
      let out := stamp (isWideSel (stOq x r)) { t with data := BitVec.ofNat 512 (setFld t.data.toNat 0 16 seq.toNat)
                                                       ctag := if ctagOf key (planeOf e plane) (stOq x r) = 0 then t.ctag else ctagOf key (planeOf e plane) (stOq x r) }
      exec (.distributorSend key plane) s = .next (withFab s (pushOut (modElem (busy (popPlane f key plane (stDq x) t).1 key plane) key fun e =>
        modRun { openWindow e plane with issued := .movement :: e.issued } plane fun v => { v with dists := tmod {} v.dists j step })
        key (stOq x r) out))) ∧
    (∀ x g i d j, (planeOf e plane).stages = [x] → regionOf f (keyCore key) = some (rid, g) → x.dist = false → planeStill f key plane = false →
      (planeOf e plane).cyc0 < e.cyc → (e.cyc - (planeOf e plane).cyc0) % 64 = 0 → (List.range (stRep x)).find? (fun r =>
        fld x.w2.toNat (14 * r) 7 == (relPlace g key).1 && fld x.w2.toNat (14 * r + 7) 7 == (relPlace g key).2) = some i →
      relKey g (fld x.w0.toNat 0 7) (fld x.w0.toNat 7 7) = some d → d ≠ key →
      (planeOf (elemOf f d) plane).stages.findIdx? (fun y => y.dist && sameStage x y) = some j →
      let n := min ((tget [] e.net.rx (fld x.w1.toNat (32 + 8 * i) 8)).countP fun t => t.ctx.toNat == plane) 16
      exec (.stageSample key plane) s = .next (withFab s (modElem (modElem f key fun e => modPlane e plane fun p =>
        { p with stages := p.stages.map fun y => if y = x then { x with prio := n } else y }) d fun e =>
        modRun e plane fun u => { u with dists := tmod {} u.dists j fun v => { v with est := tput 0 v.est i n } }))) ∧
    (∀ r, region? f rid = some r → r.saveDue = true →
      (r.phase = 0 → exec (.preemption rid) s = .next (withFab s (stopPair f rid 1 0 3))) ∧
      (r.phase = 4 → r.w * r.h * (if r.twin.isSome then 2 else 1) ≤ (freeSlots (partOf s.hub r.launch.part)).length →
        exec (.preemption rid) s = .next (saveAnswer (saveRegion s rid 1) r.launch.part 1))) ∧
    (∀ l sid x plan, pickLaunch s part = some (idx, l, plan) → l.saved = some sid → p.saved.find? (fun q => q.1 == sid) = some (sid, x) →
      let a := slotsRead s part x
      let won := { a.1 with hub := modPart a.1.hub part fun p => savedGone (wonPart p idx l) sid a.2 }
      let n := won.fab.nextRid
      (∀ host, plan = .backDrift host → x.partner = none → saveLost s part x = none →
        exec (.restoreSavedLaunch part idx) s = .next (restoreDrift won a.2 host)) ∧
      (∀ spot, plan = .back [spot] → x.partner = none → saveLost s part x = none →
        let t := restoreAt (withFab won { won.fab with nextRid := n + 2 }) a.2 spot n
        exec (.restoreSavedLaunch part idx) s = .next (if a.2.region.phase = 4 then t else restartPair t n)) ∧
      (∀ cause, (((sid, x) :: (x.partner.bind fun j => p.saved.find? fun z => z.1 == j).toList).findSome? fun q => saveLost s part q.2) = some cause →
        exec (.restoreSavedLaunch part idx) s = .next (corruptBack s part idx l
          ((sid, x) :: (x.partner.bind fun j => p.saved.find? fun z => z.1 == j).toList) x cause)))

/-- Reset and power (01 R42, 22 R477-R484, 23 R493-R505): a scrub ends with the new EN; REQ, a watchdog, REL and the end of boot move a partition
between its states; power-up runs the boot step by step, a power or clock fault enters the safe state, loss of supply ends all. Audits, patrols,
spines, buckets and leases; what the visit of an audit finds and which activities a patrol read meets is the schedule's choice (logs 29, 63). The
CAUSE of a partition reset and what survives it rest on log 62, an audit's idle window on log 63. -/
def Obligations.PowerAndUpkeepEvents : Prop :=
  ∀ (s : State) (part rid n : Nat) (r : Region),
    let p := partOf s.hub part
    (∀ v, p.scrub = some v → s.sec.stage ≠ 4 → exec (.scrubComplete part) s = .next { s with
      fab := (newCores s.hub part v).foldl wipeCore s.fab, mem := (newGroups s.mem part v).foldl (fun m g => wipeGroup m part g) s.mem
      hub := cfgTake s.hub part v }) ∧
    (s.sec.stage = 4 → exec (.scrubComplete part) s = .next s) ∧
    exec (.prstReq part) s = .next (partReset s part 1 true) ∧ exec (.watchdogExpiry part) s = .next (partReset s part 2 true) ∧
    (p.prstState = 0 → partEn p = true → p.scrub = none → s.sec.stage ≠ 4 → exec (.prstRel part) s = .next { s with hub := modPart s.hub part fun p =>
      { p with prstState := 1, mreg := tins (tdel p.mreg 2) 3 (sha512 (natBytes 8 p.cfg.toNat)) } }) ∧
    (p.prstState = 1 →
      let l := flashOf s.sec (2 + part)
      let boot (p : Part) : Part := { p with prstState := 2, mreg := tins p.mreg 2 (imgDigest l), bootSvn := imgSvn l, bootVer := imgVer l }
      let fail (p : Part) : Part := { p with prstState := 3 }
      exec (.partitionBootDone part) s = .next { s with hub := modPart s.hub part (if vcode s.sec 2 (some part) l = 0 then boot else fail) }) ∧
    (s.sec.supply = false → exec .powerUp s = .next (coldState s true)) ∧
    (s.sec.supply = true →
      (s.sec.stage = 0 → ∃ t, exec .powerUp s = .next t ∧ t.sec.stage = 1 ∧ ∀ q ∈ [0, 1, 2, 3], tget 0 (partOf t.hub q).mreg 0 = Config.bootRomDigest) ∧
      (s.sec.stage = 1 →
        (bootCopy s.sec = none → exec .powerUp s = .next { s with sec := { s.sec with stage := 4, code := 1 } }) ∧
        (∀ c, bootCopy s.sec = some c → ∃ t, exec .powerUp s = .next t ∧ t.sec = { s.sec with stage := 2, hubCopy := some c } ∧
          ∀ q ∈ [0, 1, 2, 3], tget 0 (partOf t.hub q).mreg 1 = imgDigest (flashOf s.sec c))) ∧
      (s.sec.stage = 2 → ∃ t, exec .powerUp s = .next t ∧ t.sec.powerUps = s.sec.powerUps + 1 ∧
        (Config.selfTest s.sec.powerUps = [] → t.sec.stage = 3 ∧ t.sec.ready = true) ∧
        (Config.selfTest s.sec.powerUps ≠ [] → t.sec.stage = 4 ∧ t.sec.code = 2 ∧ t.sec.nfail = (Config.selfTest s.sec.powerUps).length ∧
          t.sec.failing = (Config.selfTest s.sec.powerUps).map failWord))) ∧
    (s.sec.stage ≠ 4 → ∃ t, exec .powerClockFault s = .next t ∧ t.sec.stage = 4 ∧ t.sec.code = 3 ∧ t.sec.ready = false ∧ t.fab = {} ∧ t.agenda = [] ∧
      ∀ q ∈ [0, 1, 2, 3], (partOf t.hub q).prstState = 0) ∧
    (∃ t, exec .powerDown s = .next t ∧ t.sec.supply = false ∧ t.fab = {} ∧ t.agenda = [] ∧ t.sec.flash = s.sec.flash ∧ t.sec.floors = s.sec.floors) ∧
    (∀ core row, core < 64 → row < 10 →
      let a := auditOf s.fab core row
      let due : Prop := a.pend = true ∨ auditDue s core row = true
      let count (n k : Nat) : Hub := match corePart s.hub core with
        | some p => rasAdd s.hub p n k
        | none => s.hub
      (∀ n, a.cyc = some n →
        (n < 40 → exec (.auditVisit core row) s = .next s) ∧
        (40 ≤ n → exec (.auditVisit core row) s = .next { s with
          hub := count 1 (auditBad s.fab core row).length
          fab := modAudit ((auditBad s.fab core row).foldl auditFix s.fab) core row fun a => { a with cyc := none } })) ∧
      (a.cyc = none →
        (due → auditWaits s.fab core = false ∨ 64 ≤ a.quiet → exec (.auditVisit core row) s = .next (withFab s
          (modAudit s.fab core row fun a => { a with last := s.clk.dtime, cyc := some 0, pend := false }))) ∧
        (a.pend = false → auditDue s core row = true → auditWaits s.fab core = true → a.quiet < 64 → exec (.auditVisit core row) s = .next { s with
          hub := count 2 1, fab := modAudit s.fab core row fun a => { a with pend := true } }) ∧
        (¬due → exec (.auditVisit core row) s = .next s))) ∧
    (∀ a found, exec (.patrolRead 0 a found) s = .next (patrolHbm s a found) ∧
      exec (.patrolRead 1 a found) s = .next (patrolBank s (a / 2 ^ 18) (a % 2 ^ 18) found) ∧
      exec (.patrolRead 2 a found) s = .next (patrolPlane s (a / 4) (a % 4) found)) ∧
    (n < 8 → ∃ t, exec (.spineStep n) s = .next t ∧ t.clk.mult = s.clk.mult ∧ (∀ m, m ≠ n → spCur t.clk m = spCur s.clk m) ∧
      (spCur s.clk n = spMult s.clk n → spCur t.clk n = spCur s.clk n) ∧ (spCur s.clk n < spMult s.clk n → spCur t.clk n = spCur s.clk n + 1) ∧
      (spMult s.clk n < spCur s.clk n → spCur t.clk n + 1 = spCur s.clk n)) ∧
    (∀ core, corePart s.hub core = some part → exec (.droopStretch core) s = .next { s with hub := modPart s.hub part fun p =>
      { p with stretch := if p.stretch = 0xFFFFFFFF then p.stretch else p.stretch + 1 } }) ∧
    (region? s.fab rid = some r → r.owner = none → r.bfill < s.clk.dtime.toNat / 16 →
      let g := partOf s.hub r.launch.part
      let cap := bucketCap g r
      exec (.bucketRefill rid) s = .next (withFab s (modRegion s.fab rid fun r =>
        { r with bucket := min cap (r.bucket + fld g.metcfg.toNat 0 10 * (r.w * r.h)), bcap := cap, bfill := s.clk.dtime.toNat / 16 }))) ∧
    (∀ e, region? s.fab rid = some r → r.leaseEnd = some e → e.toNat ≤ s.clk.dtime.toNat →
      exec (.leaseExpiry rid) s = .next (withFab s (endLease s.fab rid))) ∧
    (∀ e, (s.fab.regions.filter fun q => q.2.leaseEnd.isSome) = [(rid, r)] → r.leaseEnd = some e → (s.clk.dtime + 9831).toNat < e.toNat →
      exec .leaseRevoke s = .next (postReport { s with
        fab := modCc (modRegion s.fab rid fun r => { r with leaseEnd := some (s.clk.dtime + 9831) }) r.leaseCore fun c => setEv c 4
        hub := modPart s.hub r.launch.part fun p => { p with lrevoke := p.lrevoke + 1 } } r.leaseCore (ownPlane r)
        { cause := 0x12, effect := 4, info0 := s.clk.dtime + 9831 }))

/-- Device time (23 R506, R507): an oscillator period moves the counter by 0, 1 or 2 or loads a pending value, and what falls due is next on the
agenda; DTSET loads only with READY 1 and every partition in reset, DTADJ and DTFREQ set the slew and the trim, PPSIN captures, and a read of PPSCAP
latches its count. That due actions come before the next period rests on log 26. -/
def Obligations.DeviceTimeEvents : Prop :=
  ∀ (s : State) (v : BitVec 64),
    (∃ t, exec .deviceTimePeriod s = .next t ∧ t.clk = clkPeriod s.clk ∧ t.agenda = dueActions { s with clk := t.clk, hub := t.hub } ++ s.agenda ∧
      t.mem = s.mem ∧ t.sec = s.sec ∧ (∀ w, s.clk.load = some w → t.clk.dtime = w) ∧
      (s.clk.load = none → t.clk.dtime = s.clk.dtime ∨ t.clk.dtime = s.clk.dtime + 1 ∨ t.clk.dtime = s.clk.dtime + 2)) ∧
    (s.sec.ready = true → (∀ p ∈ [0, 1, 2, 3], (partOf s.hub p).prstState = 0) →
      exec (.dtsetWrite v) s = .next { s with clk := { s.clk with load := some v } }) ∧
    (s.sec.ready = false ∨ (∃ p ∈ [0, 1, 2, 3], (partOf s.hub p).prstState ≠ 0) → exec (.dtsetWrite v) s = .next s) ∧
    exec (.dtadjWrite v) s = .next { s with clk := { s.clk with offset := v.setWidth 32 } } ∧
    (let t : BitVec 32 := v.setWidth 32
     (-8388608 ≤ t.toInt ∧ t.toInt ≤ 8388608 → exec (.dtfreqWrite v) s = .next { s with clk := { s.clk with trim := t } }) ∧
     (t.toInt < -8388608 ∨ 8388608 < t.toInt → exec (.dtfreqWrite v) s = .next s)) ∧
    exec .ppsinEdge s = .next { s with clk := { s.clk with ppscap := s.clk.dtime, ppsseq := s.clk.ppsseq + 1 } } ∧
    exec .ppscapRead s = .next { s with clk := { s.clk with ppslatched := s.clk.ppsseq }, resp := [0, s.clk.ppscap] }

/-- Host and device-agent accesses (01 R21-R44, 02 R69, 09 R273, 14 R385-R387, 15 R427, R428, 16 R440, 23 R489-R491, R508): what each register write
does in a running partition, and that a refused one answers with its code. Where an access leaves its answer (log 68), narrow writes (log 60),
reserved LOG2N (log 64) and the mailbox's order (log 61) are the model's. -/
def Obligations.HostAccessEvents : Prop :=
  ∀ (s : State) (part fn : Nat) (v : BitVec 64),
    let p := partOf s.hub part
    let live (n : Nat) : Prop := pageDead s part n = false
    let onPart (g : Part → Part) : State := { s with hub := modPart s.hub part g }
    (∀ (op : Nat) (mk : Nat → BitVec 64 → Instr), (op, mk) ∈ [(0, Instr.xinvCmdVa), (1, Instr.xinvCmdFn), (2, Instr.xinvCmdPart)] →
      live 0 → v.toNat / 2 ^ 62 = op → p.xbusy = false → fld v.toNat 52 10 = 0 → fld v.toNat 5 7 = 0 → v.toNat % 32 ≤ vfCnt p →
      exec (mk part v) s = .next (onPart fun p => { p with
        xbusy := true, invals := p.invals ++ [{ kind := op, fn := v.toNat % 32, va := fld v.toNat 12 40 * 4096, core := none, id := 0 }] })) ∧
    (live 0 → v.toNat / 2 ^ 62 = 3 → exec (.xinvCmdReserved part v) s = .next (onPart fun p => { p with xerr := true })) ∧
    (∀ (q : Nat) (tail : BitVec 32), live fn → q < 8 →
      ((tail - tget 0 p.lqhead (8 * fn + q)).toNat ≤ 2 ^ fld (tget 0 p.lqcfg (8 * fn + q)).toNat 54 4 →
        exec (.lqdbWrite part fn q tail) s = .next (onPart fun p => { p with lqtail := tput 0 p.lqtail (8 * fn + q) tail })) ∧
      (bit (tget 0 p.lqerr (8 * fn + q)).toNat 63 = true → exec (.lqerrClear part fn q) s = .next (onPart fun p => { p with
        lqerr := tput 0 p.lqerr (8 * fn + q) (tget 0 p.lqerr (8 * fn + q) &&& 0x7FFFFFFFFFFFFFFF)
        lqhead := tput 0 p.lqhead (8 * fn + q) (tget 0 p.lqhead (8 * fn + q) + 1) }))) ∧
    (∀ e, live fn → e < 64 → exec (.evdbWrite part fn e v) s = .next (onPart fun p => addEvent p fn e v)) ∧
    (∀ rid r, live fn → tget false p.rbusy fn = false → rcmdLaunch s part fn v = some (rid, r) → r.owner = none →
      (r.phase ≠ 4 → exec (.rcmdResume part fn v) s = .next (rstat s part fn 2)) ∧
      (r.phase = 4 → exec (.rcmdResume part fn v) s = .next (rstat
        (restartPair (withFab s (setPhase s.fab rid fun r => { r with phase := 1, restart := true })) rid) part fn 0)) ∧
      exec (.rcmdAbort part fn v) s = .next (rstat ((withTwin s.fab rid).foldl abortRegion s) part fn 0) ∧
      (∀ g, region? s.fab rid = some g → (ctxOf g (fld v.toNat 32 2)).stray = true → ctxLive g (fld v.toNat 32 2) = true →
        (∃ k ∈ planeKeys g, (planeOf (elemOf s.fab k) (fld v.toNat 32 2)).st = .retiring) →
        (∀ k ∈ planeKeys g, (planeOf (elemOf s.fab k) (fld v.toNat 32 2)).st ≠ .bound) →
        let rs := withTwin s.fab rid
        exec (.rcmdPurge part fn v) s = .next (rstat (rs.foldl (fun s q => retireCtx s q (fld v.toNat 32 2))
          (withFab s ((rs.flatMap fun q => ((region? s.fab q).map regionCores).getD []).foldl (fun f c => modCc f c (purgeCore (fld v.toNat 32 2))) s.fab)))
          part fn 0)) ∧
      (∀ g, region? s.fab rid = some g → (ctxOf g (fld v.toNat 32 2)).stray = false ∨ (∃ k ∈ planeKeys g, (planeOf (elemOf s.fab k) (fld v.toNat 32 2)).st = .bound) →
        exec (.rcmdPurge part fn v) s = .next (rstat s part fn 2)) ∧
      (fn = 0 → r.w * r.h * (if r.twin.isSome then 2 else 1) ≤ (freeSlots p).length →
        exec (.rcmdSave part fn v) s = .next { s with
          fab := modRegion s.fab rid fun r => { r with saveDue := true }
          hub := modPart s.hub part fun p => { p with rbusy := tput false p.rbusy fn true } })) ∧
    (live fn → fn ≠ 0 → tget false p.rbusy fn = false → exec (.rcmdSave part fn v) s = .next (rstat s part fn 4)) ∧
    (live fn → tget false p.rbusy fn = false → exec (.rcmdRefusedOp part fn v) s = .next (rstat s part fn 6)) ∧
    (∀ rid r, live 0 → p.plbusy = false → s.fab.regions.find? (fun q => q.2.owner.isNone && q.2.launch.part == part && q.2.launch.fn == fld v.toNat 36 5 &&
        q.2.launch.seq == v.setWidth 32) = some (rid, r) → preloadOk s.fab rid r (fld v.toNat 34 2) = true →
      let l : Load := { part := part, rid := none, fn := fld v.toNat 36 5, image := p.plimg, x0 := r.x0, y0 := r.y0, w := r.w, h := r.h
                        plane := fld v.toNat 34 2, cold := false }
      exec (.plcmdWrite part v) s = .next { s with
        fab := openLoad s.fab l, hub := modPart s.hub part fun p => { p with plbusy := true, plnfr := 0 } }) ∧
    (∀ (req : Requester) (core addr : Nat) (x : BitVec 256),
      (reach s req (.window core addr) = .ok → fld addr 21 7 < 100 →
        (∀ f, cfgWrite s.fab (100 * core + fld addr 21 7) (fld addr 18 3) (fld addr 5 13) x = some f →
          exec (.configSpaceWrite req core addr x) s = .next { s with fab := f, resp := [0] }) ∧
        (cfgWrite s.fab (100 * core + fld addr 21 7) (fld addr 18 3) (fld addr 5 13) x = none →
          exec (.configSpaceWrite req core addr x) s = .next (refuse s req 0x10))) ∧
      (reach s req (.window core addr) = .ok → 100 ≤ fld addr 21 7 → exec (.configSpaceWrite req core addr x) s = .next (refuse s req 0x10)) ∧
      (reach s req (.window core addr) = .abort → exec (.configSpaceWrite req core addr x) s = .next (refuse s req 6)) ∧
      (reach s req (.window core addr) = .absent → exec (.configSpaceWrite req core addr x) s = .next s) ∧
      (reach s req (.window core 0x10000000) = .ok →
        (2 ≤ (ccOf s.fab core).state.toNat → addr ≠ 0x42 → exec (.coreWindowCsrWrite req core addr v) s = .next { s with
          fab := modCc s.fab core fun c => csrPut c addr v, resp := [0] }) ∧
        (2 ≤ (ccOf s.fab core).state.toNat → exec (.ccstatResume req core) s = .next { s with fab := resumeCore s.fab core, resp := [0] }) ∧
        ((ccOf s.fab core).state.toNat < 2 → exec (.coreWindowCsrWrite req core addr v) s = .next (refuse s req 6)))) ∧
    (∀ (req : Requester) (off size : Nat), (size ≠ 4 ∧ size ≠ 8) ∨ off % size ≠ 0 → reach s req (mmioPlace off) ≠ .absent → exec (.registerWrite req off size v) s = .next (refuse s req 3) ∧
      readReg s req off size = (match req with
        | .host _ _ => .abort
        | _ => .misalign, 0)) ∧
    (part < 4 → fn ≤ 16 → fn ≤ vfCnt p → p.prstState ≠ 0 → s.sec.stage ≠ 4 → exec (.registerWrite (.host part 0) (2 ^ 32 * (part + 1) + pageBase fn) 8 v) s =
      .next { onPart (fun p => { p with ptroot := tput 0 p.ptroot fn (v &&& 0x8000FFFFFFFFFF80) }) with resp := [0] }) ∧
    exec (.registerWrite (.host 0 0) 0x210 8 v) s = .next { s with clk := { s.clk with offset := v.setWidth 32 }, resp := [0] } ∧
    (part < 4 → s.sec.stage ≠ 4 → p.mbBusy = false → v.toNat % 2 = 1 → fld v.toNat 32 16 ≤ 4096 →
      exec (.registerWrite (.host part 0) (2 ^ 32 * (part + 1) + 0x100) 8 v) s = .next { onPart (fun p =>
        { p with mbLen := BitVec.ofNat 16 (fld v.toNat 32 16), mbOp := BitVec.ofNat 8 (fld v.toNat 8 8), mbBusy := true }) with resp := [0] }) ∧
    (∀ off mask x, exec (.cxlMemRead part off) s = .next (hostRead s part off true) ∧ exec (.cxlMemWrite part off mask x) s = .next (hostWrite s part off mask x) ∧
      exec (.peerInboundAccess part true off mask x) s = .next (hostWrite s part off mask x) ∧
      exec (.peerInboundAccess part false off mask x) s = .next (hostRead s part off false)) ∧
    (∀ a, exec (.backInvalidate a) s = .next { s with mem := snoopClear s.mem a }) ∧
    (s.sec.stage = 3 →
      (∀ n en, exec (.vfEnableWrite part n en) s = .next (onPart fun p => { p with numVfs := n, vfen := en && decide (n ≤ vfCnt p) })) ∧
      exec (.hdmDecoderCommit part) s = .next (onPart fun p => { p with hdm := true })) ∧
    (s.sec.stage.toNat < 3 →
      (∀ n en, exec (.vfEnableWrite part n en) s = .next (cfgRetry s)) ∧ exec (.hdmDecoderCommit part) s = .next (cfgRetry s))

/-- Mailbox and SPDM (23 R496-R505): a command that passes its checks has its effect and replies; one that fails them ends with its RESULT and no
effect; an OP that is not assigned ends with RESULT 1. The bytes of SPDM replies, signatures and image checks are free (logs 6, 7). The order of the
checks rests on log 61, what a reset changes on log 62. -/
def Obligations.MailboxAndSpdm : Prop :=
  ∀ (s : State) (pf : Nat),
    let p := partOf s.hub pf
    let arg (o n : Nat) : Nat := mbReq p o n
    let ends (t : State) (code : Nat) (l : List Byte) : Host.Outcome State Fault Refusal := .next (mbDone t pf code l)
    (mailboxTakes s pf mbGetinfo → ∃ l, l.length = 64 ∧ exec (.getinfo pf) s = ends s 0 l) ∧
    (mailboxTakes s pf mbGetfail → exec (.getfail pf) s = ends s 0 (s.sec.failing.flatMap fun w => natBytes 8 w.toNat)) ∧
    (mailboxTakes s pf mbPartset → arg 0 8 < 4 → arg 16 8 = 0 →
      let x := cfgFields (BitVec.ofNat 64 (arg 8 8))
      let code := cfgCode s.hub (arg 0 8) x false
      let s1 := { s with hub := { s.hub with partCode := code, partOf := arg 0 8 } }
      exec (.partset pf) s = if code = 0 then ends (cfgWritePart s1 (arg 0 8) x) 0 (natBytes 8 (partStat s1.hub).toNat)
        else ends s1 5 (natBytes 8 (partStat s1.hub).toNat)) ∧
    (mailboxTakes s pf mbSpineset → arg 0 8 < 8 →
      let t := if multOk (arg 0 8) (arg 8 8) then { s with clk := { s.clk with mult := tins s.clk.mult (arg 0 8) (arg 8 8) } } else s
      exec (.spineset pf) s = ends t 0 (natBytes 8 (spfreq t.clk (arg 0 8)).toNat)) ∧
    (mailboxTakes s pf mbFwstage → arg 0 8 = 2 → s.sec.stage ≠ 4 →
      let n := min (arg 16 8) (256 + 0xFFFF00)
      let img := natBytes n (mgetN s.mem.host (arg 8 8) n)
      let code := vcode s.sec 2 (some pf) img
      let t := { s with sec := if code = 0 then { s.sec with flash := tins s.sec.flash (stageSlot s.sec pf 2) img } else s.sec }
      exec (.fwstage pf) s = ends t (if code = 0 then 0 else 5) (natBytes 8 code)) ∧
    (mailboxTakes s pf mbFwstage → s.sec.stage = 4 → arg 0 8 ≠ 1 → exec (.fwstage pf) s = ends s 6 []) ∧
    (mailboxTakes s pf mbFwstage → s.sec.stage ≠ 4 → arg 0 8 ≠ 1 → arg 0 8 ≠ 2 → exec (.fwstage pf) s = ends s 3 []) ∧
    (mailboxTakes s pf mbSvnlock → arg 0 8 = 2 → arg 8 8 < 4 → (partOf s.hub (arg 8 8)).prstState = 2 →
      let old := svnFloor s.sec 2
      let svn := (partOf s.hub (arg 8 8)).bootSvn
      let new := if old.toNat < svn.toNat then svn else old
      exec (.svnlock pf) s = ends { s with sec := { s.sec with floors := tins s.sec.floors 2 new } } 0 (natBytes 8 new.toNat)) ∧
    (mailboxTakes s pf mbOwnerkey → arg 0 8 < 4 → (partOf s.hub (arg 0 8)).prstState = 0 → exec (.ownerkey pf) s =
      ends { s with sec := { s.sec with ownerKeys := tins s.sec.ownerKeys (arg 0 8) (BitVec.ofNat 256 (arg 8 32)) } } 0 []) ∧
    (mailboxTakes s pf mbAttest → exec (.attest pf) s = ends s 0 (attestReport s pf (arg 0 32))) ∧
    (mailboxTakes s pf mbDevreset → exec (.devreset pf) s = .next (deviceReset s)) ∧
    (p.mbBusy = true → (∀ c ∈ mbCmds, c.op ≠ p.mbOp.toNat) → exec (.mailboxUnknownOp pf) s = ends s (if s.sec.stage = 4 then 6 else 1) []) ∧
    (∀ (c : MbCmd) (mk : Nat → Instr), (c, mk) ∈ [(mbGetinfo, Instr.getinfo), (mbGetfail, .getfail), (mbPartset, .partset), (mbSpineset, .spineset),
        (mbFwstage, .fwstage), (mbSvnlock, .svnlock), (mbOwnerkey, .ownerkey), (mbAttest, .attest), (mbDevreset, .devreset)] →
      p.mbBusy = true → p.mbOp.toNat = c.op → mbCheck s pf c ≠ 0 → exec (mk pf) s = ends s (mbCheck s pf c) []) ∧
    (s.sec.stage.toNat < 3 → exec (.getVersion pf) s = .next (cfgRetry s) ∧ exec (.getDigests pf) s = .next (cfgRetry s)) ∧
    (3 ≤ s.sec.stage.toNat → s.sec.stage ≠ 4 ∨ pf = 0 →
      let answers (n : Nat) (l : List Byte) : Host.Outcome State Fault Refusal := .next { s with hub := modPart s.hub pf fun p => { p with doe := l, spdm := n } }
      (∃ l, exec (.getVersion pf) s = answers 1 l) ∧ (∃ l, exec (.getCapabilities pf) s = answers (max p.spdm 2) l) ∧
      (∀ a, ∃ l, exec (.negotiateAlgorithms pf a) s = answers (if bit a 0 && bit a 1 then 3 else p.spdm) l) ∧
      (∃ l, exec (.getDigests pf) s = answers p.spdm l) ∧ (∀ o n, ∃ l, l.length ≤ n ∧ exec (.getCertificate pf o n) s = answers p.spdm l) ∧
      (∀ x, ∃ l, exec (.challenge pf x) s = answers p.spdm l) ∧
      ∀ i x, 1 ≤ i → i ≤ 4 → ∃ h g, exec (.getMeasurements pf i x) s = answers p.spdm (h ++ natBytes 64 (mregOf s pf (i - 1)).toNat ++ g))

/-! ### Reset and invariants -/

/-- What reset leaves (09 R264, R274, 14 R395, 22 R479, 23 R493, R504, R506): every partition in reset with CAUSE 0, no core started and every
register full, no plane bound, no region placed, device time 0 with no trim and nothing pending; the invariants hold. That the supply is on is the
model's choice (log 27), and so is the canonical form (log 3). Values that no rule gives are those of log 4. -/
def Obligations.ResetValues : Prop :=
  SpinesInRange State.reset ∧ MemoriesCanonical State.reset ∧ ZeroRegisterHolds State.reset ∧ OwedAreEmpty State.reset ∧
    (∀ p, (partOf State.reset.hub p).prstState = 0 ∧ (partOf State.reset.hub p).prstCause = 0) ∧
    (∀ n, (ccOf State.reset.fab n).started = false ∧ ∀ r, r < 32 → isFull (ccOf State.reset.fab n) r = true) ∧
    (∀ k n, (planeOf (elemOf State.reset.fab k) n).st = .empty) ∧ State.reset.fab.regions = [] ∧ State.reset.clk.dtime = 0 ∧ State.reset.clk.trim = 0 ∧
    State.reset.clk.load = none ∧ State.reset.agenda = []

/-- Whatever runs, every spine's target and present multiplier stay in its range (22 R479, R480). -/
def Obligations.SpinesStayInRange : Prop :=
  ∀ s t : State, SpinesInRange s → step s = .next t → SpinesInRange t

/-- Whatever runs, every byte memory (HBM, host memory, scratchpads, local stores, stream buffers and the operands of their nodes'
commands, the cores' SRAMs, mailbox buffers) keeps its canonical form: rising addresses and no zero byte listed, so that equal memories are equal data. The form of the bytes (01 R13) is the model's own (log 3). -/
def Obligations.MemoriesStayCanonical : Prop :=
  ∀ s t : State, MemoriesCanonical s → step s = .next t → MemoriesCanonical t

/-- Whatever runs, x0 of every control core reads zero, is full and is owed nothing (09 R248, R249, R262); and a core's turn and the fill of a
register keep every owed register empty (09 R250, 10 R278). -/
def Obligations.CoreRegistersHold : Prop :=
  (∀ s t : State, ZeroRegisterHolds s → step s = .next t → ZeroRegisterHolds t) ∧
  ∀ (s t : State) (n i : Nat) (rest : List Action), (s.agenda = .core n :: rest ∨ s.agenda = .event (.registerFill i) :: rest) →
    OwedAreEmpty s → step s = .next t → OwedAreEmpty t
end

