-- ==== Sys2Proof/Laws/Tab.lean ====
section
/-! SUPPORT. Laws of tables and byte memories: read after write, and the canonical form kept by every operation. -/

namespace Sys2Proof.Machine

/-! ### Tables -/

/-- An entry reads as what was set. -/
@[simp] theorem tget_tins_same {α : Type} (d : α) (t : Tab α) (i : Nat) (x : α) : tget d (tins t i x) i = x := by
  induction t with
  | nil => simp [tins, tget]
  | cons p r ih =>
    obtain ⟨j, y⟩ := p
    simp only [tins]
    split
    · simp [tget]
    · split
      · simp [tget]
      · simp only [tget]
        rw [if_neg (by omega), ih]

/-- Setting an entry leaves the others. -/
theorem tget_tins_ne {α : Type} (d : α) (t : Tab α) {i k : Nat} (x : α) (h : k ≠ i) : tget d (tins t i x) k = tget d t k := by
  induction t with
  | nil => simp [tins, tget, Ne.symm h]
  | cons p r ih =>
    obtain ⟨j, y⟩ := p
    simp only [tins]
    split
    · simp [tget, Ne.symm h]
    · split
      · subst_vars; simp [tget, Ne.symm h]
      · simp only [tget, ih]

/-- An entry that was removed reads as the default. -/
@[simp] theorem tget_tdel_same {α : Type} (d : α) (t : Tab α) (i : Nat) : tget d (tdel t i) i = d := by
  induction t with
  | nil => rfl
  | cons p r ih =>
    obtain ⟨j, y⟩ := p
    by_cases h : j = i
    · simpa [tdel, h] using ih
    · have : tdel ((j, y) :: r) i = (j, y) :: tdel r i := by simp [tdel, h]
      rw [this]
      simpa [tget, h] using ih

/-- Removing an entry leaves the others. -/
theorem tget_tdel_ne {α : Type} (d : α) (t : Tab α) {i k : Nat} (h : k ≠ i) : tget d (tdel t i) k = tget d t k := by
  induction t with
  | nil => rfl
  | cons p r ih =>
    obtain ⟨j, y⟩ := p
    by_cases hj : j = i
    · have : tdel ((j, y) :: r) i = tdel r i := by simp [tdel, hj]
      rw [this, ih]
      simp [tget, hj, Ne.symm h]
    · have : tdel ((j, y) :: r) i = (j, y) :: tdel r i := by simp [tdel, hj]
      rw [this]
      simp only [tget, ih]

/-- An entry reads as what was put. -/
@[simp] theorem tget_tput_same {α : Type} [DecidableEq α] (d : α) (t : Tab α) (i : Nat) (x : α) : tget d (tput d t i x) i = x := by
  simp only [tput]
  split
  · subst_vars; simp
  · simp

/-- Putting an entry leaves the others. -/
theorem tget_tput_ne {α : Type} [DecidableEq α] (d : α) (t : Tab α) {i k : Nat} (x : α) (h : k ≠ i) :
    tget d (tput d t i x) k = tget d t k := by
  simp only [tput]
  split
  · exact tget_tdel_ne d t h
  · exact tget_tins_ne d t x h

/-- A changed entry reads as the change of what it read as. -/
@[simp] theorem tget_tmod_same {α : Type} (d : α) (t : Tab α) (i : Nat) (f : α → α) : tget d (tmod d t i f) i = f (tget d t i) := by simp [tmod]

/-- Changing an entry leaves the others. -/
theorem tget_tmod_ne {α : Type} (d : α) (t : Tab α) {i k : Nat} (f : α → α) (h : k ≠ i) : tget d (tmod d t i f) k = tget d t k :=
  tget_tins_ne d t _ h

/-! ### Byte memories -/

/-- Writing a byte leaves every other address. -/
theorem mget_mput_ne (m : Mem) {a b : Nat} (v : Byte) (h : b ≠ a) : mget (mput m a v) b = mget m b := by
  induction m with
  | nil =>
    simp only [mput]
    split
    · rfl
    · simp [mget, Ne.symm h]
  | cons c r ih =>
    simp only [mput]
    split
    · split
      · rfl
      · simp [mget, Ne.symm h]
    · split
      · rename_i h1 h2
        split
        · simp [mget, ← h2, Ne.symm h]
        · simp [mget, ← h2, Ne.symm h]
      · simp only [mget, ih]

/-- Below the bound of a canonical memory nothing is listed. -/
theorem mget_below {lo : Nat} {m : Mem} (h : wfFrom lo m = true) {a : Nat} (ha : a < lo) : mget m a = 0 := by
  induction m generalizing lo with
  | nil => rfl
  | cons c r ih =>
    simp only [wfFrom, Bool.and_eq_true, decide_eq_true_eq] at h
    simp only [mget]
    rw [if_neg (by omega)]
    exact ih h.2 (by omega)

/-- A written byte reads back. -/
theorem mget_mput_same {lo : Nat} {m : Mem} (h : wfFrom lo m = true) (a : Nat) (v : Byte) : mget (mput m a v) a = v := by
  induction m generalizing lo with
  | nil =>
    simp only [mput]
    split
    · subst_vars; rfl
    · simp [mget]
  | cons c r ih =>
    simp only [wfFrom, Bool.and_eq_true, decide_eq_true_eq] at h
    simp only [mput]
    split
    · split
      · subst_vars
        simp only [mget]
        rw [if_neg (by omega)]
        exact mget_below h.2 (by omega)
      · simp [mget]
    · split
      · split
        · subst_vars
          exact mget_below h.2 (by omega)
        · simp [mget]
      · simp only [mget]
        rw [if_neg (by omega)]
        exact ih h.2

/-- A lower bound may fall. -/
theorem wfFrom_mono {lo hi : Nat} {m : Mem} (h : wfFrom hi m = true) (hl : lo ≤ hi) : wfFrom lo m = true := by
  cases m with
  | nil => rfl
  | cons c r =>
    simp only [wfFrom, Bool.and_eq_true, decide_eq_true_eq] at h ⊢
    exact ⟨⟨by omega, h.1.2⟩, h.2⟩

/-- Writing a byte at or above the bound keeps the canonical form. -/
theorem wfFrom_mput {lo : Nat} {m : Mem} (h : wfFrom lo m = true) {a : Nat} (ha : lo ≤ a) (v : Byte) : wfFrom lo (mput m a v) = true := by
  induction m generalizing lo with
  | nil =>
    simp only [mput]
    split
    · rfl
    · rename_i hv
      simpa [wfFrom, ha] using hv
  | cons c r ih =>
    have h' := h
    simp only [wfFrom, Bool.and_eq_true, decide_eq_true_eq] at h
    simp only [mput]
    split
    · split
      · exact h'
      · rename_i h1 hv
        simp only [wfFrom, Bool.and_eq_true, decide_eq_true_eq]
        exact ⟨⟨ha, hv⟩, ⟨by omega, h.1.2⟩, h.2⟩
    · split
      · split
        · exact wfFrom_mono h.2 (by omega)
        · rename_i h1 h2 hv
          simp only [wfFrom, Bool.and_eq_true, decide_eq_true_eq]
          exact ⟨⟨ha, hv⟩, h2 ▸ h.2⟩
      · simp only [wfFrom, Bool.and_eq_true, decide_eq_true_eq]
        exact ⟨h.1, ih h.2 (by omega)⟩

/-- Writing a byte keeps the canonical form. -/
theorem memWf_mput {m : Mem} (h : memWf m = true) (a : Nat) (v : Byte) : memWf (mput m a v) = true := wfFrom_mput h (Nat.zero_le a) v

/-- Writing n bytes keeps the canonical form. -/
theorem memWf_mputN {m : Mem} (h : memWf m = true) (a n v : Nat) : memWf (mputN m a n v) = true := by
  induction n generalizing m a v with
  | zero => exact h
  | succ n ih => exact ih (memWf_mput h a _) _ _

/-- Writing n bytes leaves every address outside them. -/
theorem mget_mputN_outside (m : Mem) (a n v : Nat) {b : Nat} (h : b < a ∨ a + n ≤ b) : mget (mputN m a n v) b = mget m b := by
  induction n generalizing m a v with
  | zero => rfl
  | succ n ih =>
    simp only [mputN]
    rw [ih _ _ _ (by omega), mget_mput_ne m _ (by omega)]

/-- Writing the masked bytes of a line keeps the canonical form. -/
theorem memWf_mputMask {m : Mem} (h : memWf m = true) (a mask v n : Nat) : memWf (mputMask m a mask v n) = true := by
  induction n generalizing m a mask v with
  | zero => exact h
  | succ n ih =>
    simp only [mputMask]
    split
    · exact ih (memWf_mput h a _) _ _ _
    · exact ih h _ _ _

/-- Writing a line keeps the canonical form. -/
theorem memWf_putLine {m : Mem} (h : memWf m = true) (a : Nat) (v : Line) : memWf (putLine m a v) = true := memWf_mputN h a 64 _

/-- Any selection of a canonical memory's bytes is canonical. -/
theorem wfFrom_filter {lo : Nat} {m : Mem} (h : wfFrom lo m = true) (p : Nat × Byte → Bool) : wfFrom lo (m.filter p) = true := by
  induction m generalizing lo with
  | nil => rfl
  | cons c r ih =>
    simp only [wfFrom, Bool.and_eq_true, decide_eq_true_eq] at h
    simp only [List.filter]
    split
    · simp only [wfFrom, Bool.and_eq_true, decide_eq_true_eq]
      exact ⟨h.1, ih h.2⟩
    · exact wfFrom_mono (ih h.2) (by omega)

/-- A scrub keeps the canonical form. -/
theorem memWf_mclear {m : Mem} (h : memWf m = true) (lo hi : Nat) : memWf (mclear m lo hi) = true := wfFrom_filter h _

end Sys2Proof.Machine
end

