-- ==== Sys2Proof/Laws/State.lean ====
section
/-! SUPPORT. The state's updates field by field: what each named update leaves, and that what it changes reads back. -/

namespace Sys2Proof.Machine

/-! ### setCc -/

@[simp] theorem setCc_site (s : State) (c : CC) : (setCc s c).site = s.site := rfl
@[simp] theorem setCc_agenda (s : State) (c : CC) : (setCc s c).agenda = s.agenda := rfl
@[simp] theorem setCc_turn (s : State) (c : CC) : (setCc s c).turn = s.turn := rfl
@[simp] theorem setCc_free (s : State) (c : CC) : (setCc s c).free = s.free := rfl
@[simp] theorem setCc_resp (s : State) (c : CC) : (setCc s c).resp = s.resp := rfl
@[simp] theorem setCc_clk (s : State) (c : CC) : (setCc s c).clk = s.clk := rfl
@[simp] theorem setCc_sec (s : State) (c : CC) : (setCc s c).sec = s.sec := rfl
@[simp] theorem setCc_hub (s : State) (c : CC) : (setCc s c).hub = s.hub := rfl
@[simp] theorem setCc_mem (s : State) (c : CC) : (setCc s c).mem = s.mem := rfl

/-! ### withFab -/

@[simp] theorem withFab_site (s : State) (f : Fab) : (withFab s f).site = s.site := rfl
@[simp] theorem withFab_agenda (s : State) (f : Fab) : (withFab s f).agenda = s.agenda := rfl
@[simp] theorem withFab_turn (s : State) (f : Fab) : (withFab s f).turn = s.turn := rfl
@[simp] theorem withFab_free (s : State) (f : Fab) : (withFab s f).free = s.free := rfl
@[simp] theorem withFab_resp (s : State) (f : Fab) : (withFab s f).resp = s.resp := rfl
@[simp] theorem withFab_clk (s : State) (f : Fab) : (withFab s f).clk = s.clk := rfl
@[simp] theorem withFab_sec (s : State) (f : Fab) : (withFab s f).sec = s.sec := rfl
@[simp] theorem withFab_hub (s : State) (f : Fab) : (withFab s f).hub = s.hub := rfl
@[simp] theorem withFab_mem (s : State) (f : Fab) : (withFab s f).mem = s.mem := rfl

/-! ### modElem -/

@[simp] theorem modElem_ccs (f : Fab) (k : Nat) (g : Elem → Elem) : (modElem f k g).ccs = f.ccs := rfl
@[simp] theorem modElem_regions (f : Fab) (k : Nat) (g : Elem → Elem) : (modElem f k g).regions = f.regions := rfl
@[simp] theorem modElem_nextRid (f : Fab) (k : Nat) (g : Elem → Elem) : (modElem f k g).nextRid = f.nextRid := rfl
@[simp] theorem modElem_nextLease (f : Fab) (k : Nat) (g : Elem → Elem) : (modElem f k g).nextLease = f.nextLease := rfl
@[simp] theorem modElem_lastUser (f : Fab) (k : Nat) (g : Elem → Elem) : (modElem f k g).lastUser = f.lastUser := rfl
@[simp] theorem modElem_fills (f : Fab) (k : Nat) (g : Elem → Elem) : (modElem f k g).fills = f.fills := rfl
@[simp] theorem modElem_creds (f : Fab) (k : Nat) (g : Elem → Elem) : (modElem f k g).creds = f.creds := rfl
@[simp] theorem modElem_loads (f : Fab) (k : Nat) (g : Elem → Elem) : (modElem f k g).loads = f.loads := rfl
@[simp] theorem modElem_twins (f : Fab) (k : Nat) (g : Elem → Elem) : (modElem f k g).twins = f.twins := rfl
@[simp] theorem modElem_audits (f : Fab) (k : Nat) (g : Elem → Elem) : (modElem f k g).audits = f.audits := rfl

/-! ### modCc -/

@[simp] theorem modCc_elems (f : Fab) (n : Nat) (g : CC → CC) : (modCc f n g).elems = f.elems := rfl
@[simp] theorem modCc_regions (f : Fab) (n : Nat) (g : CC → CC) : (modCc f n g).regions = f.regions := rfl
@[simp] theorem modCc_nextRid (f : Fab) (n : Nat) (g : CC → CC) : (modCc f n g).nextRid = f.nextRid := rfl
@[simp] theorem modCc_nextLease (f : Fab) (n : Nat) (g : CC → CC) : (modCc f n g).nextLease = f.nextLease := rfl
@[simp] theorem modCc_lastUser (f : Fab) (n : Nat) (g : CC → CC) : (modCc f n g).lastUser = f.lastUser := rfl
@[simp] theorem modCc_fills (f : Fab) (n : Nat) (g : CC → CC) : (modCc f n g).fills = f.fills := rfl
@[simp] theorem modCc_creds (f : Fab) (n : Nat) (g : CC → CC) : (modCc f n g).creds = f.creds := rfl
@[simp] theorem modCc_loads (f : Fab) (n : Nat) (g : CC → CC) : (modCc f n g).loads = f.loads := rfl
@[simp] theorem modCc_twins (f : Fab) (n : Nat) (g : CC → CC) : (modCc f n g).twins = f.twins := rfl
@[simp] theorem modCc_audits (f : Fab) (n : Nat) (g : CC → CC) : (modCc f n g).audits = f.audits := rfl

/-! ### modRegion -/

@[simp] theorem modRegion_elems (f : Fab) (r : Nat) (g : Region → Region) : (modRegion f r g).elems = f.elems := rfl
@[simp] theorem modRegion_ccs (f : Fab) (r : Nat) (g : Region → Region) : (modRegion f r g).ccs = f.ccs := rfl
@[simp] theorem modRegion_nextRid (f : Fab) (r : Nat) (g : Region → Region) : (modRegion f r g).nextRid = f.nextRid := rfl
@[simp] theorem modRegion_nextLease (f : Fab) (r : Nat) (g : Region → Region) : (modRegion f r g).nextLease = f.nextLease := rfl
@[simp] theorem modRegion_lastUser (f : Fab) (r : Nat) (g : Region → Region) : (modRegion f r g).lastUser = f.lastUser := rfl
@[simp] theorem modRegion_fills (f : Fab) (r : Nat) (g : Region → Region) : (modRegion f r g).fills = f.fills := rfl
@[simp] theorem modRegion_creds (f : Fab) (r : Nat) (g : Region → Region) : (modRegion f r g).creds = f.creds := rfl
@[simp] theorem modRegion_loads (f : Fab) (r : Nat) (g : Region → Region) : (modRegion f r g).loads = f.loads := rfl
@[simp] theorem modRegion_twins (f : Fab) (r : Nat) (g : Region → Region) : (modRegion f r g).twins = f.twins := rfl
@[simp] theorem modRegion_audits (f : Fab) (r : Nat) (g : Region → Region) : (modRegion f r g).audits = f.audits := rfl

/-! ### modPlane -/

@[simp] theorem modPlane_net (e : Elem) (n : Nat) (g : Plane → Plane) : (modPlane e n g).net = e.net := rfl
@[simp] theorem modPlane_mt (e : Elem) (n : Nat) (g : Plane → Plane) : (modPlane e n g).mt = e.mt := rfl
@[simp] theorem modPlane_ct (e : Elem) (n : Nat) (g : Plane → Plane) : (modPlane e n g).ct = e.ct := rfl
@[simp] theorem modPlane_ag (e : Elem) (n : Nat) (g : Plane → Plane) : (modPlane e n g).ag = e.ag := rfl
@[simp] theorem modPlane_firn (e : Elem) (n : Nat) (g : Plane → Plane) : (modPlane e n g).firn = e.firn := rfl
@[simp] theorem modPlane_heldW (e : Elem) (n : Nat) (g : Plane → Plane) : (modPlane e n g).heldW = e.heldW := rfl
@[simp] theorem modPlane_out (e : Elem) (n : Nat) (g : Plane → Plane) : (modPlane e n g).out = e.out := rfl
@[simp] theorem modPlane_gated (e : Elem) (n : Nat) (g : Plane → Plane) : (modPlane e n g).gated = e.gated := rfl
@[simp] theorem modPlane_powerGated (e : Elem) (n : Nat) (g : Plane → Plane) : (modPlane e n g).powerGated = e.powerGated := rfl
@[simp] theorem modPlane_spine (e : Elem) (n : Nat) (g : Plane → Plane) : (modPlane e n g).spine = e.spine := rfl
@[simp] theorem modPlane_dbg (e : Elem) (n : Nat) (g : Plane → Plane) : (modPlane e n g).dbg = e.dbg := rfl
@[simp] theorem modPlane_cyc (e : Elem) (n : Nat) (g : Plane → Plane) : (modPlane e n g).cyc = e.cyc := rfl
@[simp] theorem modPlane_issued (e : Elem) (n : Nat) (g : Plane → Plane) : (modPlane e n g).issued = e.issued := rfl
@[simp] theorem modPlane_badReg (e : Elem) (n : Nat) (g : Plane → Plane) : (modPlane e n g).badReg = e.badReg := rfl
@[simp] theorem modPlane_pend (e : Elem) (n : Nat) (g : Plane → Plane) : (modPlane e n g).pend = e.pend := rfl
@[simp] theorem modPlane_popd (e : Elem) (n : Nat) (g : Plane → Plane) : (modPlane e n g).popd = e.popd := rfl
@[simp] theorem modPlane_opens (e : Elem) (n : Nat) (g : Plane → Plane) : (modPlane e n g).opens = e.opens := rfl
@[simp] theorem modPlane_terr (e : Elem) (n : Nat) (g : Plane → Plane) : (modPlane e n g).terr = e.terr := rfl

/-! ### modRun -/

@[simp] theorem modRun_net (e : Elem) (n : Nat) (g : PRun → PRun) : (modRun e n g).net = e.net := rfl
@[simp] theorem modRun_mt (e : Elem) (n : Nat) (g : PRun → PRun) : (modRun e n g).mt = e.mt := rfl
@[simp] theorem modRun_ct (e : Elem) (n : Nat) (g : PRun → PRun) : (modRun e n g).ct = e.ct := rfl
@[simp] theorem modRun_ag (e : Elem) (n : Nat) (g : PRun → PRun) : (modRun e n g).ag = e.ag := rfl
@[simp] theorem modRun_firn (e : Elem) (n : Nat) (g : PRun → PRun) : (modRun e n g).firn = e.firn := rfl
@[simp] theorem modRun_heldW (e : Elem) (n : Nat) (g : PRun → PRun) : (modRun e n g).heldW = e.heldW := rfl
@[simp] theorem modRun_out (e : Elem) (n : Nat) (g : PRun → PRun) : (modRun e n g).out = e.out := rfl
@[simp] theorem modRun_gated (e : Elem) (n : Nat) (g : PRun → PRun) : (modRun e n g).gated = e.gated := rfl
@[simp] theorem modRun_powerGated (e : Elem) (n : Nat) (g : PRun → PRun) : (modRun e n g).powerGated = e.powerGated := rfl
@[simp] theorem modRun_spine (e : Elem) (n : Nat) (g : PRun → PRun) : (modRun e n g).spine = e.spine := rfl
@[simp] theorem modRun_dbg (e : Elem) (n : Nat) (g : PRun → PRun) : (modRun e n g).dbg = e.dbg := rfl
@[simp] theorem modRun_cyc (e : Elem) (n : Nat) (g : PRun → PRun) : (modRun e n g).cyc = e.cyc := rfl
@[simp] theorem modRun_issued (e : Elem) (n : Nat) (g : PRun → PRun) : (modRun e n g).issued = e.issued := rfl
@[simp] theorem modRun_badReg (e : Elem) (n : Nat) (g : PRun → PRun) : (modRun e n g).badReg = e.badReg := rfl
@[simp] theorem modRun_pend (e : Elem) (n : Nat) (g : PRun → PRun) : (modRun e n g).pend = e.pend := rfl
@[simp] theorem modRun_popd (e : Elem) (n : Nat) (g : PRun → PRun) : (modRun e n g).popd = e.popd := rfl
@[simp] theorem modRun_opens (e : Elem) (n : Nat) (g : PRun → PRun) : (modRun e n g).opens = e.opens := rfl
@[simp] theorem modRun_terr (e : Elem) (n : Nat) (g : PRun → PRun) : (modRun e n g).terr = e.terr := rfl

/-! ### modSlot -/

@[simp] theorem modSlot_v (r : PRun) (n : Nat) (g : SlotSt → SlotSt) : (modSlot r n g).v = r.v := rfl
@[simp] theorem modSlot_k (r : PRun) (n : Nat) (g : SlotSt → SlotSt) : (modSlot r n g).k = r.k := rfl
@[simp] theorem modSlot_a (r : PRun) (n : Nat) (g : SlotSt → SlotSt) : (modSlot r n g).a = r.a := rfl
@[simp] theorem modSlot_p (r : PRun) (n : Nat) (g : SlotSt → SlotSt) : (modSlot r n g).p = r.p := rfl
@[simp] theorem modSlot_cwid (r : PRun) (n : Nat) (g : SlotSt → SlotSt) : (modSlot r n g).cwid = r.cwid := rfl
@[simp] theorem modSlot_round (r : PRun) (n : Nat) (g : SlotSt → SlotSt) : (modSlot r n g).round = r.round := rfl
@[simp] theorem modSlot_hdr (r : PRun) (n : Nat) (g : SlotSt → SlotSt) : (modSlot r n g).hdr = r.hdr := rfl
@[simp] theorem modSlot_ohdr (r : PRun) (n : Nat) (g : SlotSt → SlotSt) : (modSlot r n g).ohdr = r.ohdr := rfl
@[simp] theorem modSlot_m (r : PRun) (n : Nat) (g : SlotSt → SlotSt) : (modSlot r n g).m = r.m := rfl
@[simp] theorem modSlot_last (r : PRun) (n : Nat) (g : SlotSt → SlotSt) : (modSlot r n g).last = r.last := rfl
@[simp] theorem modSlot_domq (r : PRun) (n : Nat) (g : SlotSt → SlotSt) : (modSlot r n g).domq = r.domq := rfl
@[simp] theorem modSlot_fences (r : PRun) (n : Nat) (g : SlotSt → SlotSt) : (modSlot r n g).fences = r.fences := rfl
@[simp] theorem modSlot_acq (r : PRun) (n : Nat) (g : SlotSt → SlotSt) : (modSlot r n g).acq = r.acq := rfl
@[simp] theorem modSlot_acqDom (r : PRun) (n : Nat) (g : SlotSt → SlotSt) : (modSlot r n g).acqDom = r.acqDom := rfl
@[simp] theorem modSlot_flush (r : PRun) (n : Nat) (g : SlotSt → SlotSt) : (modSlot r n g).flush = r.flush := rfl
@[simp] theorem modSlot_streams (r : PRun) (n : Nat) (g : SlotSt → SlotSt) : (modSlot r n g).streams = r.streams := rfl
@[simp] theorem modSlot_bmark (r : PRun) (n : Nat) (g : SlotSt → SlotSt) : (modSlot r n g).bmark = r.bmark := rfl
@[simp] theorem modSlot_dists (r : PRun) (n : Nat) (g : SlotSt → SlotSt) : (modSlot r n g).dists = r.dists := rfl

/-! ### modCtx -/

@[simp] theorem modCtx_launch (r : Region) (n : Nat) (g : RCtx → RCtx) : (modCtx r n g).launch = r.launch := rfl
@[simp] theorem modCtx_x0 (r : Region) (n : Nat) (g : RCtx → RCtx) : (modCtx r n g).x0 = r.x0 := rfl
@[simp] theorem modCtx_y0 (r : Region) (n : Nat) (g : RCtx → RCtx) : (modCtx r n g).y0 = r.y0 := rfl
@[simp] theorem modCtx_w (r : Region) (n : Nat) (g : RCtx → RCtx) : (modCtx r n g).w = r.w := rfl
@[simp] theorem modCtx_h (r : Region) (n : Nat) (g : RCtx → RCtx) : (modCtx r n g).h = r.h := rfl
@[simp] theorem modCtx_plane (r : Region) (n : Nat) (g : RCtx → RCtx) : (modCtx r n g).plane = r.plane := rfl
@[simp] theorem modCtx_owner (r : Region) (n : Nat) (g : RCtx → RCtx) : (modCtx r n g).owner = r.owner := rfl
@[simp] theorem modCtx_twin (r : Region) (n : Nat) (g : RCtx → RCtx) : (modCtx r n g).twin = r.twin := rfl
@[simp] theorem modCtx_startDue (r : Region) (n : Nat) (g : RCtx → RCtx) : (modCtx r n g).startDue = r.startDue := rfl
@[simp] theorem modCtx_started (r : Region) (n : Nat) (g : RCtx → RCtx) : (modCtx r n g).started = r.started := rfl
@[simp] theorem modCtx_stop (r : Region) (n : Nat) (g : RCtx → RCtx) : (modCtx r n g).stop = r.stop := rfl
@[simp] theorem modCtx_stopCtx (r : Region) (n : Nat) (g : RCtx → RCtx) : (modCtx r n g).stopCtx = r.stopCtx := rfl
@[simp] theorem modCtx_gates (r : Region) (n : Nat) (g : RCtx → RCtx) : (modCtx r n g).gates = r.gates := rfl
@[simp] theorem modCtx_phase (r : Region) (n : Nat) (g : RCtx → RCtx) : (modCtx r n g).phase = r.phase := rfl
@[simp] theorem modCtx_restart (r : Region) (n : Nat) (g : RCtx → RCtx) : (modCtx r n g).restart = r.restart := rfl
@[simp] theorem modCtx_stays (r : Region) (n : Nat) (g : RCtx → RCtx) : (modCtx r n g).stays = r.stays := rfl
@[simp] theorem modCtx_gateAt (r : Region) (n : Nat) (g : RCtx → RCtx) : (modCtx r n g).gateAt = r.gateAt := rfl
@[simp] theorem modCtx_swap (r : Region) (n : Nat) (g : RCtx → RCtx) : (modCtx r n g).swap = r.swap := rfl
@[simp] theorem modCtx_lease (r : Region) (n : Nat) (g : RCtx → RCtx) : (modCtx r n g).lease = r.lease := rfl
@[simp] theorem modCtx_leaseNo (r : Region) (n : Nat) (g : RCtx → RCtx) : (modCtx r n g).leaseNo = r.leaseNo := rfl
@[simp] theorem modCtx_leaseCore (r : Region) (n : Nat) (g : RCtx → RCtx) : (modCtx r n g).leaseCore = r.leaseCore := rfl
@[simp] theorem modCtx_leaseEnd (r : Region) (n : Nat) (g : RCtx → RCtx) : (modCtx r n g).leaseEnd = r.leaseEnd := rfl
@[simp] theorem modCtx_bucket (r : Region) (n : Nat) (g : RCtx → RCtx) : (modCtx r n g).bucket = r.bucket := rfl
@[simp] theorem modCtx_bcap (r : Region) (n : Nat) (g : RCtx → RCtx) : (modCtx r n g).bcap = r.bcap := rfl
@[simp] theorem modCtx_bfill (r : Region) (n : Nat) (g : RCtx → RCtx) : (modCtx r n g).bfill = r.bfill := rfl
@[simp] theorem modCtx_lent (r : Region) (n : Nat) (g : RCtx → RCtx) : (modCtx r n g).lent = r.lent := rfl
@[simp] theorem modCtx_msgs (r : Region) (n : Nat) (g : RCtx → RCtx) : (modCtx r n g).msgs = r.msgs := rfl
@[simp] theorem modCtx_msgKind (r : Region) (n : Nat) (g : RCtx → RCtx) : (modCtx r n g).msgKind = r.msgKind := rfl
@[simp] theorem modCtx_msgReply (r : Region) (n : Nat) (g : RCtx → RCtx) : (modCtx r n g).msgReply = r.msgReply := rfl
@[simp] theorem modCtx_later (r : Region) (n : Nat) (g : RCtx → RCtx) : (modCtx r n g).later = r.later := rfl
@[simp] theorem modCtx_ownFault (r : Region) (n : Nat) (g : RCtx → RCtx) : (modCtx r n g).ownFault = r.ownFault := rfl
@[simp] theorem modCtx_relendDue (r : Region) (n : Nat) (g : RCtx → RCtx) : (modCtx r n g).relendDue = r.relendDue := rfl
@[simp] theorem modCtx_foreign (r : Region) (n : Nat) (g : RCtx → RCtx) : (modCtx r n g).foreign = r.foreign := rfl
@[simp] theorem modCtx_saveDue (r : Region) (n : Nat) (g : RCtx → RCtx) : (modCtx r n g).saveDue = r.saveDue := rfl
@[simp] theorem modCtx_withdraw (r : Region) (n : Nat) (g : RCtx → RCtx) : (modCtx r n g).withdraw = r.withdraw := rfl
@[simp] theorem modCtx_rx (r : Region) (n : Nat) (g : RCtx → RCtx) : (modCtx r n g).rx = r.rx := rfl

/-! ### modPart -/

@[simp] theorem modPart_partCode (h : Hub) (n : Nat) (g : Part → Part) : (modPart h n g).partCode = h.partCode := rfl
@[simp] theorem modPart_partOf (h : Hub) (n : Nat) (g : Part → Part) : (modPart h n g).partOf = h.partOf := rfl
@[simp] theorem modPart_overhead (h : Hub) (n : Nat) (g : Part → Part) : (modPart h n g).overhead = h.overhead := rfl
@[simp] theorem modPart_coreOwner (h : Hub) (n : Nat) (g : Part → Part) : (modPart h n g).coreOwner = h.coreOwner := rfl
@[simp] theorem modPart_corrected (h : Hub) (n : Nat) (g : Part → Part) : (modPart h n g).corrected = h.corrected := rfl
@[simp] theorem modPart_acts (h : Hub) (n : Nat) (g : Part → Part) : (modPart h n g).acts = h.acts := rfl

/-! ### adv -/

@[simp] theorem adv_x (c : CC) : (adv c).x = c.x := rfl
@[simp] theorem adv_full (c : CC) : (adv c).full = c.full := rfl
@[simp] theorem adv_owed (c : CC) : (adv c).owed = c.owed := rfl
@[simp] theorem adv_tstat (c : CC) : (adv c).tstat = c.tstat := rfl
@[simp] theorem adv_tvec (c : CC) : (adv c).tvec = c.tvec := rfl
@[simp] theorem adv_tepc (c : CC) : (adv c).tepc = c.tepc := rfl
@[simp] theorem adv_tcause (c : CC) : (adv c).tcause = c.tcause := rfl
@[simp] theorem adv_tval (c : CC) : (adv c).tval = c.tval := rfl
@[simp] theorem adv_tscr (c : CC) : (adv c).tscr = c.tscr := rfl
@[simp] theorem adv_evpend (c : CC) : (adv c).evpend = c.evpend := rfl
@[simp] theorem adv_evmask (c : CC) : (adv c).evmask = c.evmask := rfl
@[simp] theorem adv_tcmp (c : CC) : (adv c).tcmp = c.tcmp := rfl
@[simp] theorem adv_cycle (c : CC) : (adv c).cycle = c.cycle := rfl
@[simp] theorem adv_instret (c : CC) : (adv c).instret = c.instret := rfl
@[simp] theorem adv_skind (c : CC) : (adv c).skind = c.skind := rfl
@[simp] theorem adv_scode (c : CC) : (adv c).scode = c.scode := rfl
@[simp] theorem adv_state (c : CC) : (adv c).state = c.state := rfl
@[simp] theorem adv_started (c : CC) : (adv c).started = c.started := rfl
@[simp] theorem adv_isram (c : CC) : (adv c).isram = c.isram := rfl
@[simp] theorem adv_dsram (c : CC) : (adv c).dsram = c.dsram := rfl
@[simp] theorem adv_accs (c : CC) : (adv c).accs = c.accs := rfl
@[simp] theorem adv_vins (c : CC) : (adv c).vins = c.vins := rfl
@[simp] theorem adv_sinks (c : CC) : (adv c).sinks = c.sinks := rfl
@[simp] theorem adv_outs (c : CC) : (adv c).outs = c.outs := rfl
@[simp] theorem adv_nextId (c : CC) : (adv c).nextId = c.nextId := rfl
@[simp] theorem adv_acq (c : CC) : (adv c).acq = c.acq := rfl
@[simp] theorem adv_wcs (c : CC) : (adv c).wcs = c.wcs := rfl
@[simp] theorem adv_rounds (c : CC) : (adv c).rounds = c.rounds := rfl
@[simp] theorem adv_bad (c : CC) : (adv c).bad = c.bad := rfl

/-! ### setEv -/

@[simp] theorem setEv_x (c : CC) (m : BitVec 6) : (setEv c m).x = c.x := rfl
@[simp] theorem setEv_full (c : CC) (m : BitVec 6) : (setEv c m).full = c.full := rfl
@[simp] theorem setEv_owed (c : CC) (m : BitVec 6) : (setEv c m).owed = c.owed := rfl
@[simp] theorem setEv_pc (c : CC) (m : BitVec 6) : (setEv c m).pc = c.pc := rfl
@[simp] theorem setEv_tstat (c : CC) (m : BitVec 6) : (setEv c m).tstat = c.tstat := rfl
@[simp] theorem setEv_tvec (c : CC) (m : BitVec 6) : (setEv c m).tvec = c.tvec := rfl
@[simp] theorem setEv_tepc (c : CC) (m : BitVec 6) : (setEv c m).tepc = c.tepc := rfl
@[simp] theorem setEv_tcause (c : CC) (m : BitVec 6) : (setEv c m).tcause = c.tcause := rfl
@[simp] theorem setEv_tval (c : CC) (m : BitVec 6) : (setEv c m).tval = c.tval := rfl
@[simp] theorem setEv_tscr (c : CC) (m : BitVec 6) : (setEv c m).tscr = c.tscr := rfl
@[simp] theorem setEv_evmask (c : CC) (m : BitVec 6) : (setEv c m).evmask = c.evmask := rfl
@[simp] theorem setEv_tcmp (c : CC) (m : BitVec 6) : (setEv c m).tcmp = c.tcmp := rfl
@[simp] theorem setEv_cycle (c : CC) (m : BitVec 6) : (setEv c m).cycle = c.cycle := rfl
@[simp] theorem setEv_instret (c : CC) (m : BitVec 6) : (setEv c m).instret = c.instret := rfl
@[simp] theorem setEv_skind (c : CC) (m : BitVec 6) : (setEv c m).skind = c.skind := rfl
@[simp] theorem setEv_scode (c : CC) (m : BitVec 6) : (setEv c m).scode = c.scode := rfl
@[simp] theorem setEv_state (c : CC) (m : BitVec 6) : (setEv c m).state = c.state := rfl
@[simp] theorem setEv_started (c : CC) (m : BitVec 6) : (setEv c m).started = c.started := rfl
@[simp] theorem setEv_isram (c : CC) (m : BitVec 6) : (setEv c m).isram = c.isram := rfl
@[simp] theorem setEv_dsram (c : CC) (m : BitVec 6) : (setEv c m).dsram = c.dsram := rfl
@[simp] theorem setEv_accs (c : CC) (m : BitVec 6) : (setEv c m).accs = c.accs := rfl
@[simp] theorem setEv_vins (c : CC) (m : BitVec 6) : (setEv c m).vins = c.vins := rfl
@[simp] theorem setEv_sinks (c : CC) (m : BitVec 6) : (setEv c m).sinks = c.sinks := rfl
@[simp] theorem setEv_outs (c : CC) (m : BitVec 6) : (setEv c m).outs = c.outs := rfl
@[simp] theorem setEv_nextId (c : CC) (m : BitVec 6) : (setEv c m).nextId = c.nextId := rfl
@[simp] theorem setEv_acq (c : CC) (m : BitVec 6) : (setEv c m).acq = c.acq := rfl
@[simp] theorem setEv_wcs (c : CC) (m : BitVec 6) : (setEv c m).wcs = c.wcs := rfl
@[simp] theorem setEv_rounds (c : CC) (m : BitVec 6) : (setEv c m).rounds = c.rounds := rfl
@[simp] theorem setEv_bad (c : CC) (m : BitVec 6) : (setEv c m).bad = c.bad := rfl

/-! ### trapEntry -/

@[simp] theorem trapEntry_x (c : CC) (k n : Nat) (v : Word) (p : BitVec 16) : (trapEntry c k n v p).x = c.x := rfl
@[simp] theorem trapEntry_full (c : CC) (k n : Nat) (v : Word) (p : BitVec 16) : (trapEntry c k n v p).full = c.full := rfl
@[simp] theorem trapEntry_owed (c : CC) (k n : Nat) (v : Word) (p : BitVec 16) : (trapEntry c k n v p).owed = c.owed := rfl
@[simp] theorem trapEntry_tvec (c : CC) (k n : Nat) (v : Word) (p : BitVec 16) : (trapEntry c k n v p).tvec = c.tvec := rfl
@[simp] theorem trapEntry_tscr (c : CC) (k n : Nat) (v : Word) (p : BitVec 16) : (trapEntry c k n v p).tscr = c.tscr := rfl
@[simp] theorem trapEntry_evpend (c : CC) (k n : Nat) (v : Word) (p : BitVec 16) : (trapEntry c k n v p).evpend = c.evpend := rfl
@[simp] theorem trapEntry_evmask (c : CC) (k n : Nat) (v : Word) (p : BitVec 16) : (trapEntry c k n v p).evmask = c.evmask := rfl
@[simp] theorem trapEntry_tcmp (c : CC) (k n : Nat) (v : Word) (p : BitVec 16) : (trapEntry c k n v p).tcmp = c.tcmp := rfl
@[simp] theorem trapEntry_cycle (c : CC) (k n : Nat) (v : Word) (p : BitVec 16) : (trapEntry c k n v p).cycle = c.cycle := rfl
@[simp] theorem trapEntry_instret (c : CC) (k n : Nat) (v : Word) (p : BitVec 16) : (trapEntry c k n v p).instret = c.instret := rfl
@[simp] theorem trapEntry_skind (c : CC) (k n : Nat) (v : Word) (p : BitVec 16) : (trapEntry c k n v p).skind = c.skind := rfl
@[simp] theorem trapEntry_scode (c : CC) (k n : Nat) (v : Word) (p : BitVec 16) : (trapEntry c k n v p).scode = c.scode := rfl
@[simp] theorem trapEntry_started (c : CC) (k n : Nat) (v : Word) (p : BitVec 16) : (trapEntry c k n v p).started = c.started := rfl
@[simp] theorem trapEntry_isram (c : CC) (k n : Nat) (v : Word) (p : BitVec 16) : (trapEntry c k n v p).isram = c.isram := rfl
@[simp] theorem trapEntry_dsram (c : CC) (k n : Nat) (v : Word) (p : BitVec 16) : (trapEntry c k n v p).dsram = c.dsram := rfl
@[simp] theorem trapEntry_accs (c : CC) (k n : Nat) (v : Word) (p : BitVec 16) : (trapEntry c k n v p).accs = c.accs := rfl
@[simp] theorem trapEntry_vins (c : CC) (k n : Nat) (v : Word) (p : BitVec 16) : (trapEntry c k n v p).vins = c.vins := rfl
@[simp] theorem trapEntry_sinks (c : CC) (k n : Nat) (v : Word) (p : BitVec 16) : (trapEntry c k n v p).sinks = c.sinks := rfl
@[simp] theorem trapEntry_outs (c : CC) (k n : Nat) (v : Word) (p : BitVec 16) : (trapEntry c k n v p).outs = c.outs := rfl
@[simp] theorem trapEntry_nextId (c : CC) (k n : Nat) (v : Word) (p : BitVec 16) : (trapEntry c k n v p).nextId = c.nextId := rfl
@[simp] theorem trapEntry_acq (c : CC) (k n : Nat) (v : Word) (p : BitVec 16) : (trapEntry c k n v p).acq = c.acq := rfl
@[simp] theorem trapEntry_wcs (c : CC) (k n : Nat) (v : Word) (p : BitVec 16) : (trapEntry c k n v p).wcs = c.wcs := rfl
@[simp] theorem trapEntry_rounds (c : CC) (k n : Nat) (v : Word) (p : BitVec 16) : (trapEntry c k n v p).rounds = c.rounds := rfl
@[simp] theorem trapEntry_bad (c : CC) (k n : Nat) (v : Word) (p : BitVec 16) : (trapEntry c k n v p).bad = c.bad := rfl

/-! ### What a change reads back as -/

/-- The fabric put into the machine. -/
@[simp] theorem withFab_fab (s : State) (f : Fab) : (withFab s f).fab = f := rfl
/-- A changed element. -/
@[simp] theorem elemOf_modElem_same (f : Fab) (k : Nat) (g : Elem → Elem) : elemOf (modElem f k g) k = g (elemOf f k) := by simp [elemOf, modElem]
/-- The other elements. -/
theorem elemOf_modElem_ne (f : Fab) {k j : Nat} (g : Elem → Elem) (h : j ≠ k) : elemOf (modElem f k g) j = elemOf f j := tget_tmod_ne _ _ _ h
/-- Elements when a core changes. -/
@[simp] theorem elemOf_modCc (f : Fab) (n k : Nat) (g : CC → CC) : elemOf (modCc f n g) k = elemOf f k := rfl
/-- Elements when a region changes. -/
@[simp] theorem elemOf_modRegion (f : Fab) (n k : Nat) (g : Region → Region) : elemOf (modRegion f n g) k = elemOf f k := rfl
/-- A changed control core. -/
@[simp] theorem ccOf_modCc_same (f : Fab) (n : Nat) (g : CC → CC) : ccOf (modCc f n g) n = g (ccOf f n) := by simp [ccOf, modCc]
/-- The other control cores. -/
theorem ccOf_modCc_ne (f : Fab) {n m : Nat} (g : CC → CC) (h : m ≠ n) : ccOf (modCc f n g) m = ccOf f m := tget_tmod_ne _ _ _ h
/-- Control cores when an element changes. -/
@[simp] theorem ccOf_modElem (f : Fab) (k n : Nat) (g : Elem → Elem) : ccOf (modElem f k g) n = ccOf f n := rfl
/-- Control cores when a region changes. -/
@[simp] theorem ccOf_modRegion (f : Fab) (k n : Nat) (g : Region → Region) : ccOf (modRegion f k g) n = ccOf f n := rfl
/-- The present core once set. -/
@[simp] theorem cc_setCc (s : State) (c : CC) : cc (setCc s c) = c := by simp [cc, setCc, ccOf]
/-- The present core once the fabric's cores have been set. -/
@[simp] theorem ccOf_setCc_same (s : State) (c : CC) : ccOf (setCc s c).fab s.site.core = c := by simp [setCc, ccOf]
/-- The other cores when the present one is set. -/
theorem ccOf_setCc_ne (s : State) (c : CC) {n : Nat} (h : n ≠ s.site.core) : ccOf (setCc s c).fab n = ccOf s.fab n := tget_tins_ne _ _ _ h
/-- A changed plane. -/
@[simp] theorem planeOf_modPlane_same (e : Elem) (n : Nat) (g : Plane → Plane) : planeOf (modPlane e n g) n = g (planeOf e n) := by
  simp [planeOf, modPlane]
/-- The other planes. -/
theorem planeOf_modPlane_ne (e : Elem) {n m : Nat} (g : Plane → Plane) (h : m ≠ n) : planeOf (modPlane e n g) m = planeOf e m := tget_tmod_ne _ _ _ h
/-- The run state of a changed plane. -/
@[simp] theorem planeOf_modRun_same (e : Elem) (n : Nat) (g : PRun → PRun) :
    planeOf (modRun e n g) n = { planeOf e n with run := g (planeOf e n).run } := by simp [modRun]
/-- A changed slot. -/
@[simp] theorem slotOfRun_modSlot_same (r : PRun) (n : Nat) (g : SlotSt → SlotSt) : slotOfRun (modSlot r n g) n = g (slotOfRun r n) := by
  simp [slotOfRun, modSlot]
/-- A changed context. -/
@[simp] theorem ctxOf_modCtx_same (r : Region) (n : Nat) (g : RCtx → RCtx) : ctxOf (modCtx r n g) n = g (ctxOf r n) := by simp [ctxOf, modCtx]
/-- A changed partition. -/
@[simp] theorem partOf_modPart_same (h : Hub) (n : Nat) (g : Part → Part) : partOf (modPart h n g) n = g (partOf h n) := by simp [partOf, modPart]
/-- The other partitions. -/
theorem partOf_modPart_ne (h : Hub) {n m : Nat} (g : Part → Part) (k : m ≠ n) : partOf (modPart h n g) m = partOf h m := tget_tmod_ne _ _ _ k
/-- x0 is always full (09 R248). -/
@[simp] theorem isFull_zero (c : CC) : isFull c 0 = true := rfl
/-- x0 reads as zero (09 R248). -/
@[simp] theorem rget_zero (c : CC) : rget c 0 = 0 := rfl
/-- Reset's memories are in canonical form. -/
theorem reset_memWf : memWf State.reset.mem.hbm = true ∧ memWf State.reset.mem.host = true := by decide

end Sys2Proof.Machine
end

