-- ==== Sys2Proof/Laws/Core.lean ====
section
/-! SUPPORT. What the shared operations of the control cores answer, once: sources, destinations, commands, traps (09 R249-R251, R271, 10 R278-R281). -/

namespace Sys2Proof.Machine

/-- With every source full the check passes. -/
theorem srcCheck_full {c : CC} {l : List (Nat × Bool)} (k : CRes) (h : ∀ p ∈ l, isFull c p.1 = true) : srcCheck c l k = k := by
  have h1 : l.find? (fun p => p.2 && !isFull c p.1) = none := by
    rw [List.find?_eq_none]
    intro p hp
    simp [h p hp]
  have h2 : l.any (fun p => !isFull c p.1) = false := by
    rw [List.any_eq_false]
    intro p hp
    simp [h p hp]
  simp [srcCheck, h1, h2]

/-- One source that is full. -/
theorem srcCheck_one {s : State} {a : BitVec 5} (w : Bool) (k : CRes) (h : allFull s [a]) : srcCheck (cc s) [(a.toNat, w)] k = k :=
  srcCheck_full k fun p hp => by
    have := List.mem_singleton.mp hp
    subst this
    exact h a (by simp)

/-- Two sources that are full. -/
theorem srcCheck_two {s : State} {a b : BitVec 5} (w v : Bool) (k : CRes) (h : allFull s [a, b]) :
    srcCheck (cc s) [(a.toNat, w), (b.toNat, v)] k = k :=
  srcCheck_full k fun p hp => by
    simp only [List.mem_cons, List.not_mem_nil, or_false] at hp
    rcases hp with rfl | rfl
    · exact h a (by simp)
    · exact h b (by simp)

/-- A destination that is not owed takes the change. -/
theorem toDest_free {s : State} {d : BitVec 5} (c : CC) (h : notOwed s d) : toDest s (cc s) d.toNat c = .done (setCc s c) := by
  have h : isOwed (cc s) d.toNat = false := h
  simp [toDest, h]

/-- A two-source form with full sources and a free destination. -/
theorem ccAlu_next {s : State} {d a b : BitVec 5} {p q : BitVec 1} {f : Word → Word → Word} (h : allFull s [a, b]) (hd : notOwed s d) :
    ccAlu s d a b p q f = .next (wrote s d (f (val s a) (val s b))) := by
  simp only [ccAlu]
  rw [srcCheck_two _ _ _ h, toDest_free _ hd]
  rfl

/-- A one-source form with a full source and a free destination. -/
theorem ccAlu1_next {s : State} {d a : BitVec 5} {p : BitVec 1} {f : Word → Word} (h : allFull s [a]) (hd : notOwed s d) :
    ccAlu1 s d a p f = .next (wrote s d (f (val s a))) := by
  simp only [ccAlu1]
  rw [srcCheck_one _ _ h, toDest_free _ hd]
  rfl

/-- A form without sources and with a free destination. -/
theorem ccAlu0_next {s : State} {d : BitVec 5} {v : Word} (hd : notOwed s d) : ccAlu0 s d v = .next (wrote s d v) := by
  simp only [ccAlu0]
  rw [toDest_free _ hd]
  rfl

/-- A read of good words goes on with what the data SRAM holds. -/
theorem sramRead_good {s : State} {e n : Nat} (k : Nat → CRes) (h : sramGood s e n) : sramRead s e n k = k (mgetN (cc s).dsram e n) := by
  have h : (cc s).bad.any (fun w => (dsramWords e n).contains w) = false := by
    rw [List.any_eq_false]
    intro w hw
    simpa using h w hw
  rw [sramRead, if_neg (by simp only [h, Bool.false_eq_true, not_false_eq_true])]

/-- A load inside the data SRAM, aligned, from good words, with no acquire pending. -/
theorem ccLoad_next {s : State} {d a : BitVec 5} {p : BitVec 1} {i : BitVec 15} {w : Nat} {f : Nat → Word} (h : allFull s [a]) (hd : notOwed s d)
    (hq : (cc s).acq = none) (hp : (val s a + sx i).toNat < 2 ^ 17) (hm : (val s a + sx i).toNat % w = 0)
    (hg : sramGood s (val s a + sx i).toNat w) :
    ccLoad s d a p i w f = .next (wrote s d (f (mgetN (cc s).dsram (val s a + sx i).toNat w))) := by
  simp only [ccLoad]
  rw [srcCheck_one _ _ h]
  simp only [hq, Option.isSome_none, Bool.false_eq_true, if_false, sramCheck]
  rw [if_neg (show ¬ 2 ^ 17 ≤ (rget (cc s) a.toNat + sx i).toNat from Nat.not_le.mpr hp),
    if_neg (show ¬ (rget (cc s) a.toNat + sx i).toNat % w ≠ 0 from fun h => h hm)]
  rw [show rget (cc s) a.toNat = val s a from rfl, sramRead_good _ hg, toDest_free _ hd]
  rfl

/-- A store inside the data SRAM, aligned, with no acquire pending. -/
theorem ccStore_next {s : State} {d a : BitVec 5} {p q : BitVec 1} {i : BitVec 14} {w : Nat} (h : allFull s [a, d]) (hq : (cc s).acq = none)
    (hp : (val s a + sx i).toNat < 2 ^ 17) (hm : (val s a + sx i).toNat % w = 0) :
    ccStore s d a p q i w =
      .next (after s (adv (sramWrite (cc s) (val s a + sx i).toNat w (val s d).toNat))) := by
  simp only [ccStore]
  rw [srcCheck_two _ _ _ h]
  simp only [hq, Option.isSome_none, Bool.false_eq_true, if_false, sramCheck]
  rw [if_neg (show ¬ 2 ^ 17 ≤ (rget (cc s) a.toNat + sx i).toNat from Nat.not_le.mpr hp),
    if_neg (show ¬ (rget (cc s) a.toNat + sx i).toNat % w ≠ 0 from fun h => h hm)]
  rfl

/-- A branch with full sources. -/
theorem ccBranch_next {s : State} {a b : BitVec 5} {p q : BitVec 1} {o : BitVec 14} {f : Word → Word → Bool} (h : allFull s [a, b]) :
    ccBranch s a b p q o f =
      .next (after s (if f (val s a) (val s b) then { cc s with pc := (cc s).pc + 4 * (sx o).setWidth 16 } else adv (cc s))) := by
  simp only [ccBranch]
  rw [srcCheck_two _ _ _ h]
  rfl

/-- A trap with TA clear. -/
theorem ccTrap_entry {s : State} (kind code : Nat) (v : Word) (h : ccTa (cc s) = false) : ccTrap s kind code v (cc s).pc = trapped s kind code v := by
  have h' : ccTa (ccTick s.free (cc s)) = false := h
  simp [ccTrap, h', trapped]

/-- A command whose checks pass and that need not wait runs its body on the value of its descriptor register. -/
theorem ccCmd_desc {s : State} {word : Word} {r a : BitVec 5} {req w : Bool} {body : Word → CRes} (h : canIssue s r [a])
    (hr : (req && r.toNat == 0) = false) : ccCmd s word r.toNat req false (some (a.toNat, w)) false body = ccFinish s (body (val s a)) := by
  obtain ⟨hf, ho, hq⟩ := h
  have ho : isOwed (cc s) r.toNat = false := ho
  simp only [ccCmd, hr, Bool.false_eq_true, if_false, Option.toList_some]
  rw [srcCheck_one _ _ hf]
  simp [ho, hq, val]

/-- The same for a command without a descriptor. -/
theorem ccCmd_none {s : State} {word : Word} {r : BitVec 5} {req : Bool} {body : Word → CRes} (h : canIssue s r [])
    (hr : (req && r.toNat == 0) = false) : ccCmd s word r.toNat req false none false body = ccFinish s (body 0) := by
  obtain ⟨-, ho, hq⟩ := h
  have ho : isOwed (cc s) r.toNat = false := ho
  simp only [ccCmd, hr, Bool.false_eq_true, if_false, Option.toList_none]
  rw [srcCheck_full _ (by simp)]
  simp [ho, hq]

/-- A block that lies in the data SRAM is what the command sees. -/
theorem withBlock_next {s : State} {a : BitVec 5} {n b : Nat} (k : Nat → CRes) (h : blockAt s a n b) (hn : 0 < n) :
    withBlock s (val s a) n k = k b := by
  obtain ⟨h1, h2, h3, h4⟩ := h
  simp only [withBlock]
  rw [if_neg (by omega), if_neg (by omega), sramRead_good _ h3, h4]

end Sys2Proof.Machine
end

