-- ==== Sys2Proof/Laws/Fire.lean ====
section
/-! SUPPORT. What a firing answers: the shared operations of the slot families, once (07 R192, 11 R308-R311, 13 R372). -/

namespace Sys2Proof.Machine

/-- A slot that fires acts through its body on the fabric in which its class has issued. -/
theorem fire_next {s : State} {op : Nat} {w : Slot} {body : FireCtx → Fab → Fab} (h : fires s op w) :
    fire s op w body = .next (withFab s (body (seen s op w) (began s op w))) := by
  obtain ⟨hr, hb, hw, hs⟩ := h
  simp only [seen] at hb hw hs
  simp only [fire]
  rw [if_pos (by simpa [fireCtx] using hr), if_neg (by simp [hb])]
  simp [hw, hs, onFab, withFab, seen, began]

/-- A slot that is not ready leaves the machine as it is. -/
theorem fire_wait {s : State} {op : Nat} {w : Slot} {body : FireCtx → Fab → Fab}
    (h : slotReady s.fab s.site.key s.site.plane s.site.slot op w = false) : fire s op w body = .next s := by
  simp only [fire]
  rw [if_neg (by simpa [fireCtx] using h)]

/-- A firing never faults and is never refused. -/
theorem fire_answers (s : State) (op : Nat) (w : Slot) (body : FireCtx → Fab → Fab) : ∃ t, fire s op w body = .next t := by
  simp only [fire]
  split
  · split
    · exact ⟨_, rfl⟩
    · split
      · exact ⟨_, rfl⟩
      · split <;> exact ⟨_, rfl⟩
  · exact ⟨_, rfl⟩

/-- A vector operation that fires writes what its lane function gives for its sources. -/
theorem vecFire_next {s : State} {op fa fb : Nat} {w : Slot} {lf : Slot → Line → Line → Line → Line × Bool} (h : fires s op w)
    (hl : latchClash (seen s op w) op fa fb = none) :
    vecFire s op w fa fb lf =
      .next (vecDone s op w
        (lf w (vecSrc (seen s op w) fa w.a.toNat) (vecSrc (seen s op w) fb w.b.toNat) (vecSrc (seen s op w) fa w.c.toNat)).1
        (lf w (vecSrc (seen s op w) fa w.a.toNat) (vecSrc (seen s op w) fb w.b.toNat) (vecSrc (seen s op w) fa w.c.toNat)).2) := by
  simp only [vecFire]
  rw [fire_next h]
  simp [hl, vecDone, popped]

/-- A vector operation whose formats all come from fmt. -/
theorem vec_next {s : State} {op : Nat} {w : Slot} {lf : Slot → Line → Line → Line → Line × Bool} (h : vecFires s op w) :
    vec s op w lf = .next (vecDone s op w (lf w (srcA s op w) (srcB s op w) (srcC s op w)).1
      (lf w (srcA s op w) (srcB s op w) (srcC s op w)).2) := vecFire_next h.1 h.2

/-- A memory-tile request that passes its checks is sent. -/
theorem memFire_next {s : State} {op kinds align size : Nat} {w : Slot} {mk : FireCtx → MemReq → MemReq} {els : FireCtx → Line} {t : Token}
    (h : requestOk s op w kinds align t) :
    memFire s op w kinds align mk size els = .next (withFab s (memSend (popped s op w) (seen s op w)
      (mk (seen s op w) (slotReq (began s op w) (seen s op w) (if op = 0x302 ∨ op = 0x303 then 0 else t.data.toNat % 2 ^ 32) size
        (if op = 0x302 ∨ op = 0x303 then t.data else 0))) (els (seen s op w)))) := by
  obtain ⟨hf, hh, hc⟩ := h
  simp only [memFire]
  rw [fire_next hf]
  simp only [hh, hc, popped]

end Sys2Proof.Machine
end

