-- ==== Sys2Proof/Tests/Slice0.lean ====
section
/-! SUPPORT. Tests and witnesses: ill-formed terms that the checks refuse, words written out from the spec's encodings, small steps on
small states with results worked out by hand from the rules, and for each statement states that meet its hypotheses. -/

set_option Elab.async false

namespace Sys2Proof.Tests

open Sys2Proof Sys2Proof.Machine

/-! ### Well-formedness (08 R212, R228-R236) -/

/-- A slot with all its fields zero but the valid bit. -/
def blank : Slot := { inmask := 0, outmask := 0, predreq := 0, predmask := 0, kindc := 0, lvlc := 0, brk := 0, valid := 1, dst := 0, a := 0, b := 0
                      c := 0, fmt := 0, rnd := 0, sat := 0, pwe := 0, pwn := 0, pwi := 0, md := 0, imm := 0 }

/-- pass from narrow queue 0x40 to narrow queue 0x48: inmask and outmask name them by bit 12 (R228). -/
def passSlot : Slot := { blank with a := 0x40, dst := 0x48, inmask := 0x1000, outmask := 0x1000 }

theorem test_wf_pass : (Instr.pass passSlot).wf = true := by decide +kernel
theorem test_wf_kind_reserved : (Instr.pass { passSlot with kindc := 2 }).wf = false := by decide +kernel
theorem test_wf_unused_source_named : (Instr.pass { passSlot with b := 0x40 }).wf = false := by decide +kernel
theorem test_wf_output_not_in_mask : (Instr.pass { passSlot with outmask := 0 }).wf = false := by decide +kernel
theorem test_wf_input_not_in_mask : (Instr.pass { passSlot with inmask := 0 }).wf = false := by decide +kernel
theorem test_wf_source_is_output : (Instr.pass { passSlot with a := 0x48 }).wf = false := by decide +kernel
theorem test_wf_level_reserved : (Instr.inject 1 0 7 0).wf = false := by decide +kernel
theorem test_wf_assigned_word_is_not_illegal : (Instr.illegalInstruction 0x00E62C00).wf = false := by decide +kernel
theorem test_wf_no_such_core : (Instr.eventTrap 64).wf = false := by decide +kernel
theorem test_wf_no_such_element : (Instr.tokenArrival 6400 0x40).wf = false := by decide +kernel
theorem test_wf_no_such_requester : (Instr.ccstatResume (.host 4 0) 0).wf = false := by decide +kernel
theorem test_wf_access_width : (Instr.registerWrite (.host 0 0) 0 2 0).wf = false := by decide +kernel

/-! ### Slots: every statement's hypotheses are met -/

/-- Core 0 alone in a region with context 0 bound, the slot as slot 0 of plane 0 of its element, the tokens its masks ask for at the heads, and the
element changed by g. -/
def slotSite (op : Nat) (w : Slot) (g : Elem → Elem := id) : State :=
  let s := fetchSlot .reset (slotWord op w)
  { s with fab := modElem s.fab (fetchKey op) g, site := { core := 0, key := fetchKey op, plane := 0, slot := 0 } }

/-- The present action's plane changed in what a discard restores. -/
def setRun (g : PRun → PRun) (e : Elem) : Elem := modRun e 0 g

/-- The element's queue holding these tokens. -/
def heads (l : Tab (List Token)) (e : Elem) : Elem := { e with net := { e.net with rx := l } }

/-- A vector operation on registers v0, v1, v2 to v3 in a format. -/
def vecSlot (fm : BitVec 4) : Slot := { blank with a := 0, b := 1, c := 2, dst := 3, fmt := fm }

theorem witness_float_lanes : ∀ e ∈ floatOps, vecFires (slotSite e.1 (vecSlot 7)) e.1 (vecSlot 7) := by
  unfold vecFires fires; decide +kernel
theorem witness_integer_lanes : ∀ e ∈ integerOps, vecFires (slotSite e.1 (vecSlot 11)) e.1 (vecSlot 11) := by
  unfold vecFires fires; decide +kernel
theorem witness_bit_lanes : ∀ e ∈ bitOps, vecFires (slotSite e.1 (vecSlot 1)) e.1 (vecSlot 1) := by
  unfold vecFires fires; decide +kernel
theorem witness_shift_lanes : ∀ op ∈ [0x028, 0x029, 0x02A], ∀ fm ∈ [1, 2, 3, 11],
    vecFires (slotSite op (vecSlot (BitVec.ofNat 4 fm))) op (vecSlot (BitVec.ofNat 4 fm)) ∧ (vecSlot (BitVec.ofNat 4 fm)).fmt.toNat = fm := by
  unfold vecFires fires; decide +kernel
theorem witness_complex_lanes : ∀ e ∈ complexOps, vecFires (slotSite e.1 (vecSlot 4)) e.1 (vecSlot 4) := by
  unfold vecFires fires; decide +kernel
theorem witness_compare_lanes : ∀ e ∈ compareOps, vecFires (slotSite e.1 (vecSlot 5)) e.1 (vecSlot 5) := by
  unfold vecFires fires; decide +kernel
theorem witness_select_clamp : ∀ op ∈ [0x056, 0x057], vecFires (slotSite op (vecSlot 3)) op (vecSlot 3) := by
  unfold vecFires fires; decide +kernel
theorem witness_permute_lanes : ∀ e ∈ permuteOps, vecFires (slotSite e.1 { vecSlot 2 with imm := 5 }) e.1 { vecSlot 2 with imm := 5 } := by
  unfold vecFires fires; decide +kernel
theorem witness_reductions : ∀ op ∈ [0x078, 0x079, 0x07A, 0x07B],
    (∀ fm ∈ [1, 2, 3, 11], vecFires (slotSite op (vecSlot (BitVec.ofNat 4 fm))) op (vecSlot (BitVec.ofNat 4 fm))) ∧
      vecFires (slotSite op (vecSlot 7)) op (vecSlot 7) ∧ isFloat (vecSlot 7).fmt.toNat = true := by
  unfold vecFires fires; decide +kernel
theorem witness_butterflies : (∀ fm ∈ [2, 3, 4, 7], vecFires (slotSite 0x08B (vecSlot fm)) 0x08B (vecSlot fm)) ∧
    vecFires (slotSite 0x08C { vecSlot 4 with imm := 3 }) 0x08C { vecSlot 4 with imm := 3 } := by
  unfold vecFires fires; decide +kernel

/-- vcvt to a format from another, part p. -/
def cvtSlot (df : BitVec 4) (sf p : Nat) : Slot := { blank with a := 0, b := 1, dst := 3, fmt := df, md := BitVec.ofNat 10 (16 * p + sf) }

theorem witness_convert : ∀ q ∈ [(2, 3, 0), (2, 3, 1), (3, 7, 0), (7, 6, 0), (7, 6, 1)],
    fires (slotSite 0x060 (cvtSlot q.1 q.2.1 q.2.2)) 0x060 (cvtSlot q.1 q.2.1 q.2.2) ∧
      latchClash (seen (slotSite 0x060 (cvtSlot q.1 q.2.1 q.2.2)) 0x060 (cvtSlot q.1 q.2.1 q.2.2)) 0x060 q.2.1 q.1.toNat = none := by
  unfold fires; decide +kernel
theorem witness_convert_widths : elemBits 2 < elemBits 3 ∧ elemBits 3 = elemBits 7 ∧ elemBits 6 < elemBits 7 ∧ 1 < elemBits 7 / elemBits 6 := by
  decide +kernel

theorem witness_scale : vecFires (slotSite 0x062 { vecSlot 7 with imm := 0xFF }) 0x062 { vecSlot 7 with imm := 0xFF } ∧
    vecFires (slotSite 0x061 { vecSlot 6 with a := 0x20, inmask := 1 }) 0x061 { vecSlot 6 with a := 0x20, inmask := 1 } := by
  unfold vecFires fires; decide +kernel

/-- vhdr from wide queue 0x20 to wide queue 0x30. -/
def hdrSlot : Slot := { blank with a := 0x20, dst := 0x30, inmask := 1, outmask := 1, imm := 0x7F }

theorem witness_header : ∀ op ∈ [0x063, 0x064],
    let s := slotSite op hdrSlot
    let u := slotSite op hdrSlot (setRun fun r => { r with ohdr := [(0x30, 0x0001)] })
    fires s op hdrSlot ∧ fires u op hdrSlot ∧ (headOf (seen s op hdrSlot).e 0x20).isSome ∧ (headOf (seen u op hdrSlot).e 0x20).isSome ∧
      tget 0x7F00 (seen s op hdrSlot).p.run.ohdr 0x30 = 0x7F00 ∧ tget 0x7F00 (seen u op hdrSlot).p.run.ohdr 0x30 = 0x0001 := by
  unfold fires; decide +kernel

/-! #### Matrix -/

/-- mload from a local-store pair A0, A1. -/
def loadSlot (form : Nat) : Slot := { blank with a := 0x18, fmt := 8, md := BitVec.ofNat 10 (4 * form), imm := 1 }

/-- A0 and A1 of the plane. -/
def pair (a b : Nat) : Elem → Elem := setRun fun r => { r with a := [(0, BitVec.ofNat 32 a), (1, BitVec.ofNat 32 b)] }

theorem witness_mload : ∀ form ∈ [0, 1, 2],
    (let s := slotSite 0x100 (loadSlot form) (pair 64 0)
     fires s 0x100 (loadSlot form) ∧ pairOf (seen s 0x100 (loadSlot form)) 0x18 = (64, 0)) ∧
    (let s := slotSite 0x100 (loadSlot form) (pair 64 (2 ^ 20))
     fires s 0x100 (loadSlot form) ∧ pairOk (pairOf (seen s 0x100 (loadSlot form)) 0x18).2 = false) := by
  unfold fires; decide +kernel
theorem witness_mload_pair : selKind 0x18 = 4 ∧ pairOk 0 = true ∧ ∀ i < 16, (pBase 64 + i * pPitch 64) % 2 ^ 17 % fmtSize 8 = 0 := by decide +kernel
theorem witness_mload_misaligned :
    let w : Slot := { loadSlot 0 with fmt := 3 }
    let s := slotSite 0x100 w (pair 2 0)
    fires s 0x100 w ∧ pairOf (seen s 0x100 w) 0x18 = (2, 0) ∧ (pBase 2 + 0 * pPitch 2) % 2 ^ 17 % fmtSize 3 ≠ 0 := by
  unfold fires; decide +kernel
theorem witness_mload_row :
    let w : Slot := { loadSlot 0 with a := 0 }
    fires (slotSite 0x100 w) 0x100 w ∧ selKind 0 ≠ 4 ∧ latchClash (seen (slotSite 0x100 w) 0x100 w) 0x100 8 8 = none := by
  unfold fires; decide +kernel
theorem witness_mzero_mband_mstat :
    (∀ fm ∈ [3, 7], fires (slotSite 0x101 { blank with dst := 0x50, fmt := fm }) 0x101 { blank with dst := 0x50, fmt := fm }) ∧
      (let w : Slot := { blank with a := 0x10, dst := 0x53 }
       fires (slotSite 0x102 w) 0x102 w ∧ (accOf (seen (slotSite 0x102 w) 0x102 w) 0x53).int = false) ∧
      (let w : Slot := { blank with a := 0x50, dst := 0x10, md := 1 }
       fires (slotSite 0x104 w) 0x104 w) := by
  unfold fires; decide +kernel
theorem witness_mdrain : ∀ q ∈ [0, 3],
    let w : Slot := { blank with a := 0x50, dst := 3, fmt := 7, imm := BitVec.ofNat 16 q, md := 2 }
    fires (slotSite 0x103 w) 0x103 w ∧ (w.fmt == 3) = (accOf (seen (slotSite 0x103 w) 0x103 w) 0x50).int := by
  unfold fires; decide +kernel

/-- mdrain of an integer accumulator to the local store at A0. -/
def drainSlot : Slot := { blank with a := 0x50, dst := 0x60, b := 0x18, fmt := 3, md := 1 }
/-- Its site. -/
def drainSite : State := slotSite 0x103 drainSlot fun e => pair 4 0 (setRun (fun r => { r with m := [(0, { int := true })] }) e)

theorem witness_mdrain_store : fires drainSite 0x103 drainSlot ∧
    (drainSlot.fmt == 3) = (accOf (seen drainSite 0x103 drainSlot) 0x50).int ∧ pairOf (seen drainSite 0x103 drainSlot) 0x18 = (4, 0) := by
  unfold fires; decide +kernel
theorem witness_mdrain_room : pairOk 0 = true ∧ (pBase 4 + 0 * pPitch 4) % 2 ^ 17 % 4 = 0 ∧
    lsRoom (seen drainSite 0x103 drainSlot).e 0 0 (lsLines 0 4 64) = true := by decide +kernel

/-- An mma of halves 0 and 1 into M0, step in imm. -/
def mmaSlot (n : Nat) : Slot := { blank with dst := 0x50, md := 8, imm := BitVec.ofNat 16 n }

/-- Full halves of rows in a format. -/
def fullHalves (fm : BitVec 16) (e : Elem) : Elem :=
  let h : Half := { full := true, owner := some 0, tags := (List.range 8).map fun i => (i, fm) }
  { e with ct := { e.ct with halves := [(0, h), (1, h)] } }

/-- The site of an mma with such halves. -/
def mmaSite (op : Nat) (fm : BitVec 16) (int : Bool) (n : Nat) : State :=
  slotSite op (mmaSlot n) fun e => fullHalves fm (setRun (fun r => { r with m := [(0, { int := int })] }) e)

theorem witness_mma : ∀ n ∈ [0, 23], mmaFits (mmaSite 0x108 6 false n) 0x108 (mmaSlot n) ∧ mmaFits (mmaSite 0x109 5 false n) 0x109 (mmaSlot n) ∧
    mmaFits (mmaSite 0x10A 8 false n) 0x10A (mmaSlot n) ∧ mmaFits (mmaSite 0x10B 10 false n) 0x10B (mmaSlot n) ∧
    mmaFits (mmaSite 0x10C 1 true n) 0x10C (mmaSlot n) := by
  unfold mmaFits fires; decide +kernel
theorem witness_mma_wrong_type : ∀ op ∈ [0x108, 0x109, 0x10A, 0x10B],
    let s := slotSite op (mmaSlot 0) (setRun fun r => { r with m := [(0, { int := true })] })
    fires s op (mmaSlot 0) ∧ ¬mmaFits s op (mmaSlot 0) := by
  unfold mmaFits fires; decide +kernel
theorem witness_mma_i8_wrong_type : fires (slotSite 0x10C (mmaSlot 0)) 0x10C (mmaSlot 0) ∧ ¬mmaFits (slotSite 0x10C (mmaSlot 0)) 0x10C (mmaSlot 0) := by
  unfold mmaFits fires; decide +kernel

/-! #### Movement -/

/-- A token of plane 0 with this data. -/
def word (v : Nat) : Token := { data := BitVec.ofNat 512 v }

/-- Movement from 0x40 to 0x48, with K0 as srcB. -/
def moveSlot : Slot := { passSlot with b := 0x10 }

theorem witness_steering : ∀ op ∈ [0x200, 0x201, 0x203, 0x204, 0x205, 0x20E, 0x20F],
    let w : Slot := { moveSlot with imm := 0x60 }
    fires (slotSite op w) op w ∧ (headOf (seen (slotSite op w) op w).e 0x40).isSome := by
  unfold fires; decide +kernel
theorem witness_lastm : fires (slotSite 0x20D { passSlot with b := 0x42, inmask := 0x3000 }) 0x20D { passSlot with b := 0x42, inmask := 0x3000 } := by
  unfold fires; decide +kernel
theorem witness_tagchk_differs :
    let w : Slot := { moveSlot with imm := 0xFF01 }
    let x := seen (slotSite 0x20F w) 0x20F w
    fires (slotSite 0x20F w) 0x20F w ∧ headOf x.e 0x40 = some {} ∧
      Nat.land (Nat.xor 0 ((scalarOf x 0x10 + w.imm.toNat) % 256)) (w.imm.toNat / 256) ≠ 0 := by
  unfold fires; decide +kernel
theorem witness_tagchk_agrees :
    let w : Slot := { moveSlot with imm := 0x0001 }
    let x := seen (slotSite 0x20F w) 0x20F w
    headOf x.e 0x40 = some {} ∧ ¬Nat.land (Nat.xor 0 ((scalarOf x 0x10 + w.imm.toNat) % 256)) (w.imm.toNat / 256) ≠ 0 := by decide +kernel
theorem witness_delay : ∀ n ∈ [1, 8],
    let w : Slot := { passSlot with imm := BitVec.ofNat 16 n }
    fires (slotSite 0x202 w) 0x202 w ∧ (headOf (seen (slotSite 0x202 w) 0x202 w).e 0x40).isSome := by
  unfold fires; decide +kernel

/-- Three narrow inputs 0x40, 0x42, 0x44. -/
def mergeSlot : Slot := { passSlot with b := 0x42, c := 0x44, inmask := 0x7000 }

theorem witness_merge :
    mergeSlot.kindc ≠ 1 ∧ fires (slotSite 0x206 mergeSlot) 0x206 mergeSlot ∧ mergeHit (seen (slotSite 0x206 mergeSlot) 0x206 mergeSlot).e 0 0 mergeSlot = some 0x40 ∧
      fires (slotSite 0x208 mergeSlot) 0x208 mergeSlot ∧ fires (slotSite 0x208 mergeSlot (heads [(0x42, [word 5])])) 0x208 mergeSlot ∧
      ∀ v ∈ [0, 1], fires (slotSite 0x207 mergeSlot (heads [(0x40, [word 5]), (0x42, [word 6]), (0x44, [word v])])) 0x207 mergeSlot := by
  unfold fires; decide +kernel
theorem witness_join : ∀ op ∈ [0x209, 0x20A, 0x20B], ∀ a ∈ [3, 4, 0xFFFFFFFF],
    fires (slotSite op { mergeSlot with imm := 0x60 } (heads [(0x40, [word a]), (0x42, [word 4])])) op { mergeSlot with imm := 0x60 } := by
  unfold fires; decide +kernel

/-- cnt of N in an immediate, chain from 0x40 or none. -/
def cntSlot (a b : BitVec 8) : Slot := { passSlot with a := a, b := b, imm := 0x0160, inmask := if a = 0x40 then 0x1000 else 0 }

theorem witness_cnt :
    (∀ a ∈ [0x40, 0x60], fires (slotSite 0x20C (cntSlot a 0x81)) 0x20C (cntSlot a 0x81) ∧
      fires (slotSite 0x20C (cntSlot a 0x10)) 0x20C (cntSlot a 0x10)) ∧
      scalarOf (seen (slotSite 0x20C (cntSlot 0x60 0x81)) 0x20C (cntSlot 0x60 0x81)) 0x81 % 2 ^ 32 = 1 ∧
      scalarOf (seen (slotSite 0x20C (cntSlot 0x60 0x10)) 0x20C (cntSlot 0x60 0x10)) 0x10 % 2 ^ 32 = 0 := by
  unfold fires; decide +kernel
theorem witness_acc_rst : ∀ v ∈ [0, 1],
    let w : Slot := { passSlot with b := 0x18, imm := 1, lvlc := v }
    fires (slotSite 0x211 w) 0x211 w ∧ (headOf (seen (slotSite 0x211 w) 0x211 w).e 0x40).map (fun t => t.lvl.toNat) = some v.toNat := by
  unfold fires; decide +kernel

/-- cmpx of 0x40 and 0x42. -/
def cmpxSlot : Slot := { passSlot with b := 0x42, inmask := 0x3000 }
/-- Its site with unlike heads. -/
def cmpxSite : State := slotSite 0x210 cmpxSlot (heads [(0x40, [word 1]), (0x42, [word 2])])
/-- The same after a replay of the round. -/
def cmpxAgain : State :=
  let s := cmpxSite
  { s with fab := modRegion s.fab 0 fun r => modCtx r 0 fun c => { c with twreplayed := [0] } }

theorem witness_cmpx : fires (slotSite 0x210 cmpxSlot) 0x210 cmpxSlot ∧ fires cmpxSite 0x210 cmpxSlot ∧ fires cmpxAgain 0x210 cmpxSlot ∧
    (∀ s ∈ [cmpxSite, cmpxAgain], headOf (seen s 0x210 cmpxSlot).e 0x40 = some (word 1) ∧ headOf (seen s 0x210 cmpxSlot).e 0x42 = some (word 2)) ∧
    twinReplayed (began cmpxSite 0x210 cmpxSlot) (seen cmpxSite 0x210 cmpxSlot) = false ∧
    twinReplayed (began cmpxAgain 0x210 cmpxSlot) (seen cmpxAgain 0x210 cmpxSlot) = true ∧ (word 1).data ≠ (word 2).data := by
  unfold fires; decide +kernel

/-- lsld and lsst at K0 + imm. -/
def lsSlot (b : Nat) (imm : Nat) : Slot := { blank with a := 0x10, b := BitVec.ofNat 8 b, dst := 3, fmt := 3, imm := BitVec.ofNat 16 imm }
/-- The site with K0 set. -/
def lsSite (op b imm k : Nat) : State := slotSite op (lsSlot b imm) (setRun fun r => { r with k := [(0, BitVec.ofNat 64 k)] })

theorem witness_lsld : fires (lsSite 0x220 0 4 0x1FFF8) 0x220 (lsSlot 0 4) ∧
    lsAddr (seen (lsSite 0x220 0 4 0x1FFF8) 0x220 (lsSlot 0 4)) = .inl (0x1FFFC, 0) ∧
    lsBad (seen (lsSite 0x220 0 4 0x1FFF8) 0x220 (lsSlot 0 4)).e.ct 0 0x1FFFC 64 = false ∧
    lsLoses (lsSite 0x220 0 4 0x1FFF8).fab (seen (lsSite 0x220 0 4 0x1FFF8) 0x220 (lsSlot 0 4)) 0 0x1FFFC 64 = false := by
  unfold fires; decide +kernel
theorem witness_lsst : ∀ b ∈ [1, 0x11],
    fires (lsSite 0x221 b 0 56) 0x221 (lsSlot b 0) ∧ lsAddr (seen (lsSite 0x221 b 0 56) 0x221 (lsSlot b 0)) = .inl (56, 0) ∧
      lsLoses (lsSite 0x221 b 0 56).fab (seen (lsSite 0x221 b 0 56) 0x221 (lsSlot b 0)) 0 56 (if b = 1 then 64 else 8) = false ∧
      lsRoom (seen (lsSite 0x221 b 0 56) 0x221 (lsSlot b 0)).e 0 0 (lsLines 0 56 (if b = 1 then 64 else 8)) = true := by
  unfold fires; decide +kernel
theorem witness_local_store_waits : ∀ op ∈ [0x220, 0x221],
    let s0 := lsSite op 1 0 64
    let s := { s0 with fab := modElem s0.fab 11 fun e => { e with ct := { e.ct with lsq := [0] } } }
    lsAddr (seen s op (lsSlot 1 0)) = .inl (64, 0) ∧ lsLoses s.fab (seen s op (lsSlot 1 0)) 0 64 64 = true := by decide +kernel
theorem witness_local_store_faults : ∀ op ∈ [0x220, 0x221],
    fires (lsSite op 1 0 0x20000) op (lsSlot 1 0) ∧ lsAddr (seen (lsSite op 1 0 0x20000) op (lsSlot 1 0)) = .inr (6, 0x20000) ∧
      fires (lsSite op 1 0 2) op (lsSlot 1 0) ∧ lsAddr (seen (lsSite op 1 0 2) op (lsSlot 1 0)) = .inr (3, 2) := by
  unfold fires; decide +kernel

/-! #### Memory tiles -/

/-- A memory-tile access by address token from 0x40, data from 0x20, reply to dst. -/
def memSlot (dst : BitVec 8) : Slot := { blank with a := 0x40, b := 0x20, dst := dst, fmt := 3, inmask := 0x1001, outmask := 0x1001 }

/-- Its site with an address at the head. -/
def memSite (op : Nat) (w : Slot) (addr : Nat) : State := slotSite op w (heads [(0x40, [word addr]), (0x20, [word 7])])

theorem witness_accesses :
    requestOk (memSite 0x300 (memSlot 0x30) 64) 0x300 (memSlot 0x30) 3 64 (word 64) ∧
      requestOk (memSite 0x300 (memSlot 0x48) 8) 0x300 (memSlot 0x48) 3 8 (word 8) ∧
      requestOk (memSite 0x301 (memSlot 0x60) 64) 0x301 (memSlot 0x60) 5 64 (word 64) ∧
      (∀ op ∈ [0x304, 0x305, 0x306, 0x307, 0x308, 0x309, 0x30A, 0x30B],
        requestOk (memSite op { memSlot 0x48 with b := 0x81, c := 0x82 } 4) op { memSlot 0x48 with b := 0x81, c := 0x82 } 15 4 (word 4)) := by
  unfold requestOk fires; decide +kernel
theorem witness_lane_accesses :
    let w : Slot := { memSlot 0x60 with a := 0x20, b := 0x24, inmask := 0x0009 }
    let s (op : Nat) := slotSite op w (heads [(0x20, [word 0]), (0x24, [word 7])])
    requestOk (s 0x302) 0x302 w 3 4 (word 0) ∧ requestOk (s 0x303) 0x303 w 5 4 (word 0) ∧ headOf (seen (s 0x303) 0x303 w).e 0x24 = some (word 7) := by
  unfold requestOk fires; decide +kernel
theorem witness_access_faults :
    let kind (op md : Nat) : State × Slot := (memSite op { memSlot 0x60 with md := BitVec.ofNat 10 md } 0, { memSlot 0x60 with md := BitVec.ofNat 10 md })
    let key := 10
    fires (kind 0x300 2).1 0x300 (kind 0x300 2).2 ∧ bit 3 2 = false ∧ fires (kind 0x301 1).1 0x301 (kind 0x301 1).2 ∧ bit 5 1 = false ∧
      (∀ op ∈ [0x300, 0x301, 0x304, 0x30B], ∀ a ∈ [2 ^ 32 - 1, 2 ^ 18, 1],
        fires (memSite op (memSlot 0x60) a) op (memSlot 0x60) ∧ headOf (seen (memSite op (memSlot 0x60) a) op (memSlot 0x60)).e 0x40 = some (word a)) ∧
      spLocate (began (memSite 0x300 (memSlot 0x60) 0) 0x300 (memSlot 0x60)) 0 0 (2 ^ 32 - 1) = none ∧
      (spLocate (began (memSite 0x300 (memSlot 0x60) 0) 0x300 (memSlot 0x60)) 0 0 (2 ^ 18)).any (fun q => q.1 != key) = true ∧
      (spLocate (began (memSite 0x300 (memSlot 0x60) 0) 0x300 (memSlot 0x60)) 0 0 1).any (fun q => q.1 == key) = true ∧
      bankAllowed (began (memSite 0x300 (memSlot 0x60) 0) 0x300 (memSlot 0x60)) key 0 0 = true := by
  unfold fires; decide +kernel

/-- A drift plane reading a bank outside the lend set. -/
def driftSlot : Slot := { memSlot 0x60 with a := 0x41, b := 0x10, inmask := 0x1000, outmask := 0 }
/-- Its site: plane 0 is a drift plane. -/
def driftSite : State := slotSite 0x300 driftSlot fun e => heads [(0x41, [word 0])] (modPlane e 0 fun p => { p with frames := tins p.frames 4 0x10 })

theorem witness_bank_not_lent : fires driftSite 0x300 driftSlot ∧ headOf (seen driftSite 0x300 driftSlot).e 0x41 = some (word 0) ∧
    spLocate (began driftSite 0x300 driftSlot) 0 0 0 = some (10, 0, 0) ∧ bankAllowed (began driftSite 0x300 driftSlot) 10 0 0 = false := by
  unfold fires; decide +kernel

/-- A slot of sections: request token from 0x40, grant to 0x48, SMODE 1. -/
def sectSlot : Slot := { blank with a := 0x40, dst := 0x48, inmask := 0x1000, outmask := 0x1000, md := 16 }
/-- Its site, with these sections in flight. -/
def sectSite (op : Nat) (l : List Sect) : State := slotSite op sectSlot fun e => { e with mt := { e.mt with sects := l } }
/-- A section of queue 0x40 in flight. -/
def openSect : Sect := { queue := 0x40, plane := 0, dom := 0, entry := {}, grant := 0x48 }

theorem witness_sections :
    (∀ op ∈ [0x30C, 0x30D], ∀ l ∈ [[], [openSect]], fires (sectSite op l) op sectSlot ∧ (headOf (seen (sectSite op l) op sectSlot).e 0x40).isSome ∧
      (sectOpen (seen (sectSite op l) op sectSlot).e 0x40 = none ↔ l = [])) ∧
      sectThrown (seen (sectSite 0x30D [openSect]) 0x30D sectSlot).e 0x40 = false ∧
      (seen (sectSite 0x30D [openSect]) 0x30D sectSlot).e.mt.sects.findIdx? (fun y => y.queue == 0x40 && y.result.isNone) = some 0 := by
  unfold fires; decide +kernel
theorem witness_fence_m : fires (slotSite 0x30E { sectSlot with md := 0 }) 0x30E { sectSlot with md := 0 } ∧
    sectOpen (seen (slotSite 0x30E { sectSlot with md := 0 }) 0x30E { sectSlot with md := 0 }).e 0x40 = none := by
  unfold fires; decide +kernel

/-- hacc of v1 at the address in K0, to wide queue 0x30. -/
def haccSlot : Slot := { blank with a := 0x10, b := 1, dst := 0x30, fmt := 7, outmask := 1 }

theorem witness_accumulate : fires (slotSite 0x310 haccSlot) 0x310 haccSlot ∧
    accCheck (began (slotSite 0x310 haccSlot) 0x310 haccSlot) 0 0 (scalarOf (seen (slotSite 0x310 haccSlot) 0x310 haccSlot) 0x10 % 2 ^ 32) 0 7 = none ∧
    fires (slotSite 0x311 { haccSlot with a := 0, b := 0 }) 0x311 { haccSlot with a := 0, b := 0 } := by
  unfold fires; decide +kernel

/-- hrecv from 0x20, bounces to 0x30, credits to 0x48. -/
def hrecvSlot : Slot := { blank with a := 0x20, dst := 0x30, inmask := 1, outmask := 0x1001, imm := 0x48 }
/-- Its site with an add of FP32 to line 0 at the head; with n requests waiting at the bank and n accumulates taken by it. -/
def hrecvSite (n : Nat) : State := slotSite 0x30F hrecvSlot fun e =>
  heads [(0x20, [word (7 * 2 ^ 36), word 9])] { e with mt := { e.mt with accepted := [(0, n)], bankq := [(0, List.replicate n {})], start := [(0, n)] } }

theorem witness_hrecv : (∀ n ∈ [0, 12], fires (hrecvSite n) 0x30F hrecvSlot ∧
      tget [] (seen (hrecvSite n) 0x30F hrecvSlot).e.net.rx 0x20 = [word (7 * 2 ^ 36), word 9]) ∧
    (let x := seen (hrecvSite 0) 0x30F hrecvSlot
     let f := modMt (began (hrecvSite 0) 0x30F hrecvSlot) 10 fun m => { m with took := hrecvMark 0 0 :: m.took }
     hrecvDecide f x.key 0 hrecvSlot = (.accept, 0, 0) ∧ bankAllowed f x.key 0 0 = true) ∧
    (let f := modMt (began (hrecvSite 12) 0x30F hrecvSlot) 10 fun m => { m with took := hrecvMark 0 0 :: m.took }
     hrecvDecide f 10 0 hrecvSlot = (.refuse, 0, 0)) := by
  unfold fires; decide +kernel

/-! ### Control cores: every statement's hypotheses are met -/

/-- Core 0 as given, in a region of its own. -/
def coreSite (c : CC) : State := { State.reset with fab := { ccs := [(0, c)], regions := [(0, fetchRegion .reset)] } }

/-- A started core with x1 and x2 as given. -/
def core2 (v w : Word) : CC := { started := true, x := [(1, v), (2, w)] }

/-- The same with x3 empty and x4 owed. -/
def coreGaps (v w : Word) : CC := { core2 v w with full := 0xFFFFFFE7, owed := 0x10 }

theorem witness_step_core :
    let s := State.reset.withFetchWord 32 0x00E62C00
    s.agenda = [.core 0] ∧ s.sec.supply = true ∧ coreRuns s 0 = true ∧ timerDue s 0 = false ∧ eventDue (ccOf s.fab 0) = false ∧
      (ccOf s.fab 0).pc.toNat % 4 = 0 ∧ decodeBytes (pcBytes s 0) = .instr (.add 7 6 5 1 0) [] := by decide +kernel
theorem witness_step_event : ({ State.reset with agenda := [.event .ppsinEdge] } : State).agenda = [.event .ppsinEdge] ∧ State.reset.sec.supply = true ∧
    eventWf .ppsinEdge = true := by decide +kernel
theorem witness_step_slot :
    let s := State.reset.withFetchWord 128 (slotWord 0x200 passSlot)
    s.agenda = [.issue 11 .movement] ∧ s.sec.supply = true ∧ chooseSlot s.fab 11 .movement = some (0, 0) ∧
      brkDue (elemOf s.fab 11) 11 0 0 = false ∧ decodeSlot (slotWordOf (planeOf (elemOf s.fab 11) 0) 0) = some (.pass passSlot) := by decide +kernel

/-- Two ready slots: pass in slot 0, older, and in slot 1. -/
def twoSlots : Fab :=
  (slotSite 0x200 passSlot fun e => modPlane e 0 fun p => { p with
    frames := [(0, BitVec.ofNat 256 (slotWord 0x200 passSlot * (2 ^ 128 + 1)))], run := { p.run with slots := [(1, { age := some 3 }), (0, { age := some 5 })] } }).fab

theorem witness_arbiter : (0, 0) ∈ readySlots twoSlots 11 .movement ∧ (0, 1) ∈ readySlots twoSlots 11 .movement ∧
    (chooseSlot twoSlots 11 .movement).isSome = true := by decide +kernel

theorem witness_encodings : (Instr.addi 31 31 1 (-16384)).wf = true ∧ (encodeWord (.addi 31 31 1 (-16384))).isSome ∧ (0xFFFFFFFF : Nat) < 2 ^ 32 ∧
    (encodeSlot (.pass passSlot)).isSome ∧ decodeSlot (slotWord 0x200 passSlot) = some (.pass passSlot) ∧ decodeSlot (0x3FF * 2 ^ 70) = none := by
  decide +kernel

theorem witness_register_forms : allFull (coreSite (core2 5 7)) [1, 2] ∧ allFull (coreSite (core2 5 7)) [1] ∧ notOwed (coreSite (core2 5 7)) 3 ∧
    notOwed (coreSite (core2 5 7)) 0 := by
  unfold allFull notOwed; decide +kernel
theorem witness_unassigned_functions : ∀ n ∈ [0x034, 0x1FF, 0x00E, 0x00F, 0x012, 0x014, 0x018, 0x01F, 0x028, 0x02F],
    n < 2 ^ 26 ∧ (0x034 ≤ n % 512 ∨ n % 512 = 0x00E ∨ n % 512 = 0x00F ∨ (0x012 ≤ n % 512 ∧ n % 512 ≤ 0x014) ∨
      (0x018 ≤ n % 512 ∧ n % 512 ≤ 0x01F) ∨ (0x028 ≤ n % 512 ∧ n % 512 ≤ 0x02F)) := by decide +kernel
theorem witness_division : ∀ q ∈ [(7, 0), (2 ^ 63, 2 ^ 64 - 1), (2 ^ 63, 1)],
    let s := coreSite (core2 (BitVec.ofNat 64 q.1) (BitVec.ofNat 64 q.2))
    allFull s [1, 2] ∧ notOwed s 3 ∧ (val s 1).toNat = q.1 ∧ (val s 2).toNat = q.2 := by
  unfold allFull notOwed; decide +kernel
theorem witness_reserved_majors : 0x9BFFFFFF / 2 ^ 26 % 64 = 0x26 ∧ 0x9C000000 / 2 ^ 26 % 64 = 0x27 ∧ 0x28006000 / 2 ^ 26 % 64 = 0x0A ∧
    6 ≤ 0x28006000 / 4096 % 8 ∧ 6 ≤ 0x2BFFFFFF / 4096 % 8 := by decide +kernel
theorem witness_loads_stores : ∀ e ∈ [0, 0x1FFF8, 0x1FFFF, 0x20000, 1],
    let s := coreSite (core2 (BitVec.ofNat 64 e) 9)
    (cc s).acq = none ∧ allFull s [1] ∧ allFull s [1, 2] ∧ notOwed s 3 ∧ ccTa (cc s) = false ∧
      (val s 1 + (0 : BitVec 15).signExtend 64).toNat = e ∧ (val s 1 + (0 : BitVec 14).signExtend 64).toNat = e := by
  unfold allFull notOwed; decide +kernel
theorem witness_jumps : ∀ a ∈ [8, 6], let s := coreSite (core2 (BitVec.ofNat 64 a) 9)
    allFull s [1] ∧ notOwed s 3 ∧ ccTa (cc s) = false ∧ ((val s 1 + (0 : BitVec 15).signExtend 64).setWidth 16 : BitVec 16).toNat = a := by
  unfold allFull notOwed; decide +kernel
theorem witness_full_empty :
    let s := coreSite (coreGaps 0x18 4)
    let u := coreSite (coreGaps 0 4)
    let v := coreSite (coreGaps 0x1A 4)
    notOwed s 3 ∧ isOwed (cc s) 4 = true ∧ isFull (cc s) 3 = false ∧ isFull (cc s) 4 = false ∧ ccTa (cc s) = false ∧ allFull s [1] ∧
      (val s 1).setWidth 32 &&& ((cc s).full ||| 1) = 0 ∧ (val s 1).setWidth 32 ≠ (0 : BitVec 32) ∧ allFull u [1] ∧ val u 1 = 0 ∧ allFull v [1] ∧
      (val v 1).setWidth 32 &&& ((cc v).full ||| 1) ≠ 0 := by
  unfold allFull notOwed; decide +kernel
theorem witness_empty_sources :
    let s := coreSite (coreGaps 5 7)
    ccTa (cc s) = false ∧ isFull (cc s) 3 = false ∧ isFull (cc s) 1 = true ∧ isFull (cc s) 2 = true ∧ isOwed (cc s) 4 = true := by decide +kernel
theorem witness_traps :
    ccTa (cc (coreSite (core2 0 0))) = false ∧ supervisorWord 0xFFFFFFFF = false ∧ ccTa (cc (coreSite { core2 0 0 with tstat := 0x10 })) = true := by
  decide +kernel
theorem witness_return_wait :
    (∀ t ∈ [0x00, 0x21], let c := cc (coreSite { core2 0 0 with tstat := t })
      (ccSupok c = true → ccMode c = true)) ∧
      (let c := cc (coreSite { core2 0 0 with tstat := 0x20 })
       ccSupok c = true ∧ ccMode c = false ∧ ccTa c = false) ∧
      (let c := cc (coreSite { core2 0 0 with evpend := 8, evmask := 8 })
       c.evpend &&& c.evmask ≠ 0) ∧
      (let c := cc (coreSite { core2 0 0 with evpend := 8, evmask := 4 })
       c.evpend &&& c.evmask = 0) := by decide +kernel
theorem witness_csrs :
    csrGuarded 0x001 = true ∧ csrRo 0x001 = false ∧ csrGuarded 0x010 = true ∧ csrRo 0x020 = true ∧
      (∀ t ∈ [0x00, 0x20, 0x21], let s := coreSite { core2 3 0 with tstat := t }
       allFull s [1] ∧ notOwed s 3 ∧ ccTa (cc s) = false) ∧
      (let c := cc (coreSite { core2 3 0 with tstat := 0x20 })
       ccSupok c = true ∧ ccMode c = false) ∧
      (let c := cc (coreSite { core2 3 0 with tstat := 0x21 })
       ccSupok c = true ∧ ccMode c = true) := by
  unfold allFull notOwed; decide +kernel
theorem witness_plain_frame : plainDest (.add 3 1 2 0 0) = some (some 3) ∧ plainDest (.j 0 (-1)) = some none ∧ ccTa (cc (coreSite (core2 5 7))) = false ∧
    (∃ t, exec (.add 3 1 2 0 0) (coreSite (core2 5 7)) = .next t) ∧ ∃ t, exec (.j 0 (-1)) (coreSite (core2 5 7)) = .next t :=
  ⟨rfl, rfl, rfl, ⟨_, rfl⟩, ⟨_, rfl⟩⟩
theorem witness_store_frame : storeParts (.sd 2 1 0 0 0) = some (8, 2, 1, 0) ∧ ccTa (cc (coreSite (core2 0x1FFF8 7))) = false ∧
    ∃ t, exec (.sd 2 1 0 0 0) (coreSite (core2 0x1FFF8 7)) = .next t := ⟨rfl, rfl, ⟨_, rfl⟩⟩
theorem witness_slot_frame : (encodeSlot (.pass passSlot)).isSome ∧ ∃ t, exec (.pass passSlot) (slotSite 0x200 passSlot) = .next t := by
  refine ⟨by decide +kernel, ?_⟩
  simp only [exec, execPass, fire]
  split
  · exact ⟨_, rfl⟩
  · exact ⟨_, rfl⟩

/-! #### Commands -/

/-- Core 0 with a block of n bytes at 64, the address in x1, in a mode. -/
def blockSite (n b : Nat) (t : BitVec 6 := 0) : State := coreSite { core2 64 0 with dsram := mputN [] 64 n b, tstat := t }

/-- Core 0 with source port 0 as given and x1. -/
def portSite (v : Vin) (d : Word) : State := coreSite { core2 d 0 with vins := [(0, v)] }

/-- A binding value: narrow, direction 2 of R285's legal ones, no edge group. -/
def bindWord : Word := 4

theorem witness_ports :
    (∀ k ∈ [0, 63], let s := portSite { bind := some bindWord, queue := List.replicate k (bindWord, {}) } 0
      canIssue s 0 [1] ∧ canIssue s 0 [] ∧ (vinOf (cc s) 0).bind = some bindWord ∧
        (vinOf (cc s) 0).kept.length + (vinOf (cc s) 0).queue.length < 64 ∧ ccTa (cc s) = false ∧ (vinOf (cc s) 0).bind.isSome = true) ∧
      (let s := portSite {} bindWord
       (vinOf (cc s) 0).bind = none ∧ canIssue s 0 [1] ∧ vbindOk (val s 1) = true ∧ ccTa (cc s) = false) ∧
      (let s := portSite {} 3
       (val s 1).toNat < 4 ∧ canIssue s 0 [1]) := by
  unfold canIssue allFull notOwed; decide +kernel
theorem witness_replies :
    (let s := portSite {} 0
     canIssue s 3 [] ∧ (3 : BitVec 5) ≠ 0 ∧ accOfPort (cc s) 15 = none ∧ (tget {} (cc s).sinks 15).waiting.length < 8) ∧
      (let s := portSite {} 0x8F
       canIssue s 0 [1] ∧ (val s 1).toNat < 256 ∧ bit (val s 1).toNat 4 = false ∧ bit (val s 1).toNat 7 = true ∧
         (∀ i, accOfPort (cc s) ((val s 1).toNat % 16) = some i → i = 0) ∧ (tget {} (cc s).sinks ((val s 1).toNat % 16)).waiting = []) ∧
      (let s := portSite {} 0x700000003
       canIssue s 3 [1] ∧ fld (val s 1).toNat 2 30 = 0) := by
  refine ⟨?_, ?_, ?_⟩
  · unfold canIssue allFull notOwed; decide +kernel
  · refine ⟨by unfold canIssue allFull notOwed; decide +kernel, by decide +kernel, by decide +kernel, by decide +kernel, ?_, by decide +kernel⟩
    have h : accOfPort (cc (portSite {} 0x8F)) ((val (portSite {} 0x8F) 1).toNat % 16) = none := by decide +kernel
    intro i hi
    exact absurd (h.symm.trans hi) (by simp)
  · unfold canIssue allFull notOwed; decide +kernel
theorem witness_fences : canIssue (coreSite (core2 0 0)) 0 [] ∧
    (∀ m ∈ ([scopeMems 0, scopeMems 1, scopeMems 2, scopeMems 3, 0x020, 0x040, 0x080, 0x100] : List (BitVec 9)), owing (cc (coreSite (core2 0 0))) m = false ∧
      owing (cc (coreSite { core2 0 0 with outs := [{ id := 1, mems := 0x1FF }] })) m = true) := by
  unfold canIssue allFull notOwed; decide +kernel
theorem witness_kwr :
    let b := 2 ^ 64 * 5 + 129
    let s := blockSite 32 b 1
    ccMode (cc s) = true ∧ canIssue s 0 [1] ∧ blockAt s 1 32 b ∧ myRegion s = some (0, fetchRegion .reset) ∧
      relKey (fetchRegion .reset) (fld b 0 7) (fld b 7 7) = some 11 ∧ kindOf 11 = .compute ∧ fld b 19 45 = 0 ∧ fld b 128 128 = 0 := by
  unfold canIssue allFull notOwed blockAt sramGood; decide +kernel
theorem witness_supervisor_only : ccMode (cc (coreSite (core2 0 0))) = false ∧ ccTa (cc (coreSite (core2 0 0))) = false := by decide +kernel

/-- A copy of one line from device address 0 to scratchpad address 0. -/
def copyBlock : Nat := 2 ^ 128 + 2 ^ 160 + 2 ^ 322

theorem witness_copy :
    let s := blockSite 64 copyBlock
    let g := fetchRegion .reset
    let b := copyBlock
    canIssue s 3 [1] ∧ inboxFull s.fab (agKey 0 15) = false ∧ myRegion s = some (0, g) ∧ blockAt s 1 64 b ∧ relWait (cc s) (copyOrd b) = false ∧
      fld b 232 24 = 0 ∧ fld b 296 24 = 0 ∧ fld b 330 6 = 0 ∧ fld b 368 16 = 0 ∧ fld b 384 128 = 0 ∧ copyCnt0 b ≠ 0 ∧ copyCnt1 b ≠ 0 ∧
      copySsp b ≠ 3 ∧ copyDsp b ≠ 3 ∧ ¬(copySsp b = 2 ∧ copyDsp b = 2) ∧ bit (copyOrd b) 0 = false ∧ latchOk (fld b 336 32) = true ∧
      (∀ y ∈ corners b copySrc, spaceProt g (copySsp b) y = false ∧ y % 64 = 0) ∧ (∀ y ∈ corners b copyDst, spaceProt g (copyDsp b) y = false ∧ y % 64 = 0) := by
  unfold canIssue allFull notOwed blockAt sramGood; decide +kernel
theorem witness_sbind_aflush :
    (let s := blockSite 128 7
     canIssue s 3 [1] ∧ blockAt s 1 128 7 ∧ bit 7 3 = false ∧ fld 7 6 2 = 0 ∧ fld 7 11 245 = 0) ∧
      (let s := coreSite (core2 3 0)
       canIssue s 3 [1] ∧ (val s 1).toNat < 4) := by
  unfold canIssue allFull notOwed blockAt sramGood; decide +kernel
theorem witness_atomic_command : ∀ b ∈ [0, 2 ^ 38 + 2 ^ 32, 2 ^ 32],
    let s := blockSite 32 b
    let g := fetchRegion .reset
    canIssue s 3 [1] ∧ blockAt s 1 32 b ∧ myRegion s = some (0, g) ∧ amoWaiting s.fab 0 (mtKey 0 0) < 16 ∧
      ¬(bit (fld b 32 4) 0 = true ∧ (3 : BitVec 5) = 0) ∧ relWait (cc s) (fld b 32 4) = false ∧ fld b 39 25 = 0 ∧ fld b 192 64 = 0 ∧
      (spPlace g (fld b 0 32)).any (fun q => q.1 == 16 * regionCoreNo g 0 + 0) = true ∧ fld b 0 32 % (if bit b 38 then 8 else 4) = 0 := by
  unfold canIssue allFull notOwed blockAt sramGood; decide +kernel
theorem witness_swap :
    let b := 2 ^ 4 + 2 ^ 64 * 984
    let s := blockSite 32 b
    let g := fetchRegion .reset
    canIssue s 3 [1] ∧ hubFull (cc s) = false ∧ myRegion s = some (0, g) ∧ blockAt s 1 32 b ∧ fld b 2 2 = 0 ∧ fld b 6 58 = 0 ∧ fld b 128 128 = 0 ∧
      fld b 0 2 ≠ fld b 4 2 ∧ ctxBoundAll s.fab g (fld b 0 2) = true ∧ (ctxOf g (fld b 0 2)).drift = false ∧ g.swap = none ∧
      s.clk.dtime.toNat + 984 ≤ fld b 64 64 := by
  unfold canIssue allFull notOwed blockAt sramGood; decide +kernel

/-- A region on core 0 with a drift launch in plane 1, lent or not. -/
def driftRegions (lent : Bool) : State :=
  let s := coreSite (core2 1 0)
  let r := fetchRegion .reset
  { s with fab := { s.fab with regions := [(0, r), (1, { r with owner := some 0, plane := 1, lent := lent, ctxs := [(1, { drift := true })] })] } }

theorem witness_drift_commands : ∀ lent ∈ [true, false], let s := driftRegions lent
    canIssue s 3 [1] ∧ hubFull (cc s) = false ∧ myRegion s = some (0, fetchRegion .reset) ∧ (val s 1).toNat < 4 ∧
      (driftIn s.fab 0 (val s 1).toNat).map (fun q => (q.1, q.2.lent)) = some (1, lent) ∧ (fetchRegion .reset).swap = none := by
  unfold canIssue allFull notOwed; decide +kernel

/-- A region on core 0 of partition 0, enabled with all of the device, with a lease or not, core 0 in supervisor mode. -/
def hubSite (d : Word) (e : Option Word) : State :=
  let s := coreSite { core2 d 0 with tstat := 1 }
  { s with
    fab := { s.fab with regions := [(0, { fetchRegion .reset with leaseEnd := e })] }
    hub := { parts := [(0, { cfg := 0x8010FFFF00000FC0, prstState := 2 })] } }

theorem witness_lease : ∀ d ∈ [1, 983040], let s := hubSite (BitVec.ofNat 64 d) none
    canIssue s 3 [1] ∧ hubFull (cc s) = false ∧ (3 : BitVec 5) ≠ 0 ∧ 0 < (val s 1).toNat ∧ (val s 1).toNat ≤ 983040 ∧
      (myRegion s).map (fun q => q.1) = some 0 ∧ (myRegion s).bind (fun q => q.2.leaseEnd) = none ∧ bit (partOf s.hub 0).metcfg.toNat 63 = true := by
  unfold canIssue allFull notOwed; decide +kernel
theorem witness_lease_end_launch :
    (let s := hubSite 0 (some 100)
     canIssue s 0 [] ∧ (myRegion s).map (fun q => (q.2.leaseEnd.isSome, q.2.leaseCore)) = some (true, 0)) ∧
      (let s := hubSite (BitVec.ofNat 64 (2 ^ 52 - 64)) none
       canIssue s 3 [1] ∧ (val s 1).toNat < 2 ^ 52 ∧ (val s 1).toNat % 64 = 0) := by
  unfold canIssue allFull notOwed; decide +kernel
theorem witness_invalidations : ∀ d ∈ [0, 16, 2 ^ 52 - 4096], let s := hubSite (BitVec.ofNat 64 d) none
    corePart s.hub 0 = some 0 ∧ canIssue s 0 [1] ∧ ccMode (cc s) = true ∧ ((partOf s.hub 0).invals.countP fun i => i.core == some 0) < 8 ∧
      fld (val s 1).toNat 52 12 = 0 ∧ fld (val s 1).toNat 5 7 = 0 ∧ (val s 1).toNat % 32 ≤ vfCnt (partOf s.hub 0) := by
  unfold canIssue allFull notOwed; decide +kernel

/-! ### Events: every statement's hypotheses are met -/

/-- One element as given in a one-core region. -/
def elemSite (key : Nat) (e : Elem) (g : Region → Region := id) : State :=
  { State.reset with fab := { elems := [(key, e)], regions := [(0, g (fetchRegion .reset))] } }

/-- A token of plane 0 for a port of the core at its element. -/
def portTok (tag : Byte) (kind : BitVec 3) : Token := { kind := kind, ctag := tag }

theorem witness_core_events :
    (let c : CC := { started := true, tstat := 4, evpend := 0x20, evmask := 0x30 }
     eventDue c = true ∧ firstBit (c.evpend &&& c.evmask).toNat 6 = some 5) ∧
      (let s := coreSite { started := true, tcmp := 0 }
       (ccOf s.fab 0).started = true ∧ (elemOf s.fab 0).gated = false ∧ (ccOf s.fab 0).tcmp.toNat ≤ s.clk.dtime.toNat) ∧
      (elemOf (coreSite (coreGaps 0 0)).fab 0).gated = false ∧ isOwed (coreGaps 0 0) 4 = true ∧ ([(0, 4, (9 : Word))] : List (Nat × Nat × Word))[0]? = some (0, 4, 9) := by decide +kernel
theorem witness_sink_arrival : ∀ q ∈ [(0x40, 0x0F, 0), (0x46, 0x10, 0), (0x41, 0x05, 2)],
    let s := elemSite 0 (heads [(q.1, [portTok (BitVec.ofNat 8 q.2.1) (BitVec.ofNat 3 q.2.2)])] {})
    headOf (elemOf s.fab 0) q.1 = some (portTok (BitVec.ofNat 8 q.2.1) (BitVec.ofNat 3 q.2.2)) ∧ halted s.fab 0 = false ∧
      (driftIn s.fab 0 0).isNone ∧ isWideSel 0x26 = true ∧ isSecondary s.fab 0 = false ∧ dropLeft {} 0 0 = 0 ∧ ([] : List Token).length < 8 ∧ isWideSel q.1 = false := by
  decide +kernel
theorem witness_port_emit :
    let r := fetchRegion .reset
    let s := coreSite { vins := [(0, { bind := some bindWord, queue := [(bindWord, {})] })] }
    let u := coreSite { vins := [(15, { bind := some bindWord, ctxs := [(0, { markAt := some 0 })] })] }
    let v := coreSite { vins := [(0, { bind := some 0x101000004, ctxs := [(0, {})] })] }
    regionOf s.fab 0 = some (0, r) ∧ halted s.fab 0 = false ∧ (vinOf (ccOf s.fab 0) 0).queue = [(bindWord, {})] ∧
      outRoom (elemOf s.fab 0) (vinOut bindWord) ≠ 0 ∧ (∀ a < 4, vinDue s.fab 0 r (vinOf (ccOf s.fab 0) 0) a = false) ∧
      vinWord (vinOf (ccOf u.fab 0) 15) 0 = some bindWord ∧ vEdge bindWord = false ∧ (vinCtx (vinOf (ccOf u.fab 0) 15) 0).markAt = some 0 ∧
      mayOpen r 0 (vinCtx (vinOf (ccOf u.fab 0) 15) 0).round = true ∧
      vinWord (vinOf (ccOf v.fab 0) 0) 0 = some 0x101000004 ∧ vEdge 0x101000004 = true ∧
      (vinCtx (vinOf (ccOf v.fab 0) 0) 0).count = edgeU v.fab 0 r 0 0 (fld 0x101000004 16 3) * fld 0x101000004 24 8 := by decide +kernel
theorem witness_edge_port : vEdge 0x101000004 = true ∧
    edgeU (coreSite {}).fab 0 (fetchRegion .reset) 0 0 (fld 0x101000004 16 3) * fld 0x101000004 24 8 = 0 ∧
    (let r := { fetchRegion .reset with launch := { (fetchRegion .reset).launch with lrec := BitVec.ofNat 1024 (2 ^ 192) } }
     edgeU { regions := [(0, r)] } 0 r 0 0 0 = 1) := by decide +kernel

theorem witness_network :
    (let s := elemSite 11 { net := { wire := [(0x40, [word 1])] } }
     tget [] (elemOf s.fab 11).net.wire 0x40 = [word 1] ∧ halted s.fab 11 = false ∧ (elemOf s.fab 11).powerGated = false ∧
       (tget [] (elemOf s.fab 11).net.rx 0x40).length < linkSlots 11 (selDir 0x40) ∧ linkSlots 11 (selDir 0x40) = 4) ∧
      (let s := elemSite 1 { net := { outq := [(0x48, [word 1])] } }
       headToward s.fab 1 0x48 0 = some (word 1) ∧ halted s.fab 1 = false ∧ isBorder s.fab 1 0 = true ∧ (auditOf s.fab 0 0).cyc = none) ∧
      (let s := elemSite 11 { net := { outq := [(0x3A, [word 1])] } }
       headToward s.fab 11 0x3A 2 = some (word 1) ∧ isBorder s.fab 11 2 = false ∧ isDark s.fab 11 2 = false ∧ mayLeave s.fab 11 true 2 0x3A (word 1) = true ∧
         neighbour 11 2 = some 21 ∧ (auditOf s.fab 0 1).cyc = none) ∧
      (let s := elemSite 21 { powerGated := true }
       isDark s.fab 11 2 = true) ∧
      (let s := elemSite 11 { net := { owed := [(0x40, 1)] } }
       tget 0 (elemOf s.fab 11).net.owed 0x40 ≠ 0) := by decide +kernel
theorem witness_headers : ∀ h ∈ [0, 11, 12, 255],
    let t : Token := { data := BitVec.ofNat 512 h, kind := 1 }
    let s := elemSite 11 { net := { rx := [(0x20, [t])] }, planes := [(0, { st := .bound })] }
    headOf (elemOf s.fab 11) 0x20 = some t ∧ halted s.fab 11 = false ∧ hasPlanes 11 = true ∧ (planeOf (elemOf s.fab 11) 0).st = .bound ∧
      (planeOf (elemOf s.fab 11) 0).revoked = false ∧ (popPlane s.fab 11 0 0x20 t).2 = true ∧ (t.data.setWidth 16 : BitVec 16).toNat = h := by decide +kernel

/-- An ordered request that waits in domain 3 with its predecessor served. -/
def domReq (op : Nat) : MemReq := { op := op, smode := 1, dom := 3, queue := 0x40, reply := 0x48 }

/-- A finished section with a write buffered, its bank's journal as given. -/
def retireSite (w : List MemReq) (j : List JEnt) : State :=
  elemSite 10 { mt := { sects := [{ openSect with result := some (word 1, 0x48), writes := w }], jr := [(2, j)] } }
/-- Journal entries that fill a bank. -/
def fullJournal : List JEnt := List.replicate 32 { line := 9, old := 0, tag := 0, ctx := 0, round := 0 }

theorem witness_section_retire :
    (∀ j ∈ [[], fullJournal],
      let r : MemReq := { op := 0x301, bank := 2, sec := true }
      let s := retireSite [r] j
      let e := elemOf s.fab 10
      sectFirst e.mt.sects 0 0 = some 0 ∧ (e.mt.sects[0]?).map (fun y => (y.writes, y.result)) = some ([r], some (word 1, 0x48)) ∧ halted s.fab 10 = false ∧
        e.mt.took.contains (pipeMark r.bank) = false ∧ r.grp = 0 ∧ replyPlaces r ≤ outRoom e r.reply ∧ bankRoom e.mt r.bank r.line r.plane r.round = decide (j = [])) ∧
      (let s := retireSite [] []
       let e := elemOf s.fab 10
       (e.mt.sects[0]?).map (fun y => (y.writes, y.replies)) = some ([], []) ∧ sectFirst e.mt.sects 0 0 = some 0 ∧ 1 ≤ outRoom e 0x48) := by decide +kernel
theorem witness_memory_tile :
      (∀ op ∈ [0x30C, 0x300],
        let s := elemSite 10 { planes := [(0, { st := .bound, run := { domq := [(3, [domReq op])] } })] }
        halted s.fab 10 = false ∧ (planeOf (elemOf s.fab 10) 0).revoked = false ∧ spOpen s.fab 10 0 = true ∧
          domNext (elemOf s.fab 10) 0 3 = some (domReq op) ∧
          ((elemOf s.fab 10).mt.sects.countP fun y => y.plane == 0 && y.dom == 3) < 8 ∧ 1 ≤ outRoom (elemOf s.fab 10) (domReq op).reply ∧
          (domReq op).grp = 0 ∧ bankDepth (elemOf s.fab 10) 0 < 16 ∧
          wins s.fab 10 0 (bidRank (elemOf s.fab 10) 0 false 0x40) 0x40 = true) ∧
      (∀ op ∈ [0x300, 0x301, 0x304],
        let q : MemReq := { op := op, bank := 5, size := 8, reply := 0x48, ord := 1 }
        let s := elemSite 10 { mt := { bankq := [(5, [q])], start := [(5, 1)] } }
        halted s.fab 10 = false ∧ bankDepth (elemOf s.fab 10) 5 ≠ 0 ∧ (elemOf s.fab 10).mt.took.contains (pipeMark 5) = false ∧
          tget [] (elemOf s.fab 10).mt.bankq 5 = [q] ∧ q.src = 0 ∧ q.sec = false ∧ q.grp = 0 ∧
          ¬(reqWrites q = true ∧ bankRoom (elemOf s.fab 10).mt q.bank q.line q.plane q.round = false) ∧ replyPlaces q ≤ outRoom (elemOf s.fab 10) q.reply ∧
          ¬(q.op ≠ 0x301 ∧ q.op ≠ 0x303 ∧ reqBad (elemOf s.fab 10).mt q = true)) := by decide +kernel
theorem witness_command_at_bank : ∀ c ∈ [(false, 0), (false, 1), (true, 0)],
    let q : MemReq := { src := 1, op := 0x304, bank := 5, size := 8, id := 1, reg := 3 }
    let p : Plane := { st := if c.1 then .bound else .empty, frames := [(6, BitVec.ofNat 256 (2 ^ 71))] }
    let e : Elem := { mt := { bankq := [(5, [q])], start := [(5, 1)], bad := if c.2 = 1 then [32768 * 5 / 8] else [] }, planes := [(1, p)] }
    let l := (fetchRegion .reset).launch
    let d : Region := { fetchRegion .reset with owner := some 0, plane := 2, launch := l }
    let s : State := { State.reset with fab := { elems := [(10, e)], regions := [(0, fetchRegion .reset), (1, d)] } }
    halted s.fab 10 = false ∧ lentBank s.fab 10 5 = c.1 ∧ cmdRound s.fab 10 q.plane = none ∧ reqBad (elemOf s.fab 10).mt q = decide (c.2 = 1) ∧
      bankDepth (elemOf s.fab 10) 5 ≠ 0 ∧ tget [] (elemOf s.fab 10).mt.bankq 5 = [q] := by decide +kernel
theorem witness_returns :
    (let v := 7 * 2 ^ 36 + 1 * 2 ^ 46 + 1 * 2 ^ 53
     tget [] (elemOf (elemSite 11 { net := { bin := [(0x20, [{ word v with bnc := 1 }, { word 3 with bnc := 2 }])] } }).fab 11).net.bin 0x20 =
       [{ word v with bnc := 1 }, { word 3 with bnc := 2 }]) ∧
      (elemOf (elemSite 10 { mt := { credits := [(1, 1, 0, 4, 0x48)] } }).fab 10).mt.credits[0]? = some (1, 1, 0, 4, 0x48) ∧
      (∀ k ∈ [0, 1], ([(k, 11, 0, 4, ({} : FirnE))] : List (Nat × Nat × Nat × Nat × FirnE))[0]? = some (k, 11, 0, 4, ({} : FirnE))) ∧
      (elemOf (elemSite 10 { mt := { qdue := true } }).fab 10).mt.qdue = true := by
  decide +kernel
theorem witness_accumulate_at_bank : ∀ b ∈ [[], [20480]],
    let q : MemReq := { src := 2, op := 0x310, fmt := 7, bank := 5, size := 64, reply := 0x60 }
    let s := elemSite 10 { mt := { bankq := [(5, [q])], start := [(5, 1)], bad := b } }
    halted s.fab 10 = false ∧ bankDepth (elemOf s.fab 10) 5 ≠ 0 ∧ (elemOf s.fab 10).mt.took.contains (pipeMark 5) = false ∧
      tget [] (elemOf s.fab 10).mt.bankq 5 = [q] ∧ bankRoom (elemOf s.fab 10).mt q.bank q.line q.plane q.round = true ∧
      reqBad (elemOf s.fab 10).mt q = decide (b ≠ []) ∧ q.grp = 0 := by decide +kernel
theorem witness_body_at_bank : ∀ op ∈ [0x300, 0x301], ∀ run ∈ [7, 8],
    let q : MemReq := { op := op, bank := 5, size := 8, reply := 0x48, sec := true, queue := 0x40, run := run }
    let s := elemSite 10 { mt := { bankq := [(5, [q])], start := [(5, 1)], sects := [{ openSect with run := 7 }] } }
    let m := (elemOf s.fab 10).mt
    halted s.fab 10 = false ∧ bankDepth (elemOf s.fab 10) 5 ≠ 0 ∧ m.took.contains (pipeMark 5) = false ∧ tget [] m.bankq 5 = [q] ∧ q.src = 0 ∧ q.grp = 0 ∧
      sectOf m q = (if run = 7 then some 0 else none) ∧ replyPlaces q ≤ outRoom (elemOf s.fab 10) q.reply ∧ sectBad m q = false ∧
      sectTakes m 0 q = .keep := by decide +kernel

/-- An AG node with plane 0 bound and stream 0, six loops of one pass, as its control frame says. -/
def agElem (ctl : Nat) (rx : Tab (List Token) := []) : Elem :=
  { net := { rx := rx }, planes := [(0, { st := .bound, frames := [(0, BitVec.ofNat 256 (2 ^ 64 + 2 ^ 96 + 2 ^ 128 + 2 ^ 160 + 2 ^ 192 + 2 ^ 224)), (2, BitVec.ofNat 256 (2 ^ 32 + ctl))] })] }

theorem witness_streams :
    (let s := elemSite 1 { agElem 0 with ag := { inbox := [{ core := 0, id := 1, reg := 3, cmd := 2, d := 0, block := [] }] }, planes := [] }
     kindOf 1 = .ag ∧ halted s.fab 1 = false ∧ (elemOf s.fab 1).issued = [] ∧ ringPick s.fab 1 = some 32) ∧
      (∀ sp ∈ [0, 2 ^ 33], let s := elemSite 1 (agElem sp)
       halted s.fab 1 = false ∧ (elemOf s.fab 1).issued = [] ∧ ringPick s.fab 1 = some 0 ∧ dbgHit (elemOf s.fab 1) 0 0 0 = false ∧ strBad (planeOf (elemOf s.fab 1) 0) 0 = none ∧
         strDir (planeOf (elemOf s.fab 1) 0) 0 = false ∧ strSpace (planeOf (elemOf s.fab 1) 0) 0 = decide (sp ≠ 0)) ∧
      (∀ sp ∈ [0, 2 ^ 33, 2 ^ 72], let s := elemSite 1 (agElem (2 ^ 34 + 0x20 * 2 ^ 56 + sp) [(0x20, [word 9])])
       ringPick s.fab 1 = some 0 ∧ strDir (planeOf (elemOf s.fab 1) 0) 0 = true ∧ headOf (elemOf s.fab 1) (strQ (planeOf (elemOf s.fab 1) 0) 0) = some (word 9) ∧
         headOf (elemOf (modElem (busy (modElem s.fab 1 fun e => { e with issued := [.memory], ag := { e.ag with ring := 0 } }) 1 0) 1 fun e =>
           modPlane e 0 fun p => brkDone p 0) 1) (strQ (planeOf (elemOf s.fab 1) 0) 0) = some (word 9) ∧
         strAcc (planeOf (elemOf s.fab 1) 0) 0 = decide (sp = 2 ^ 72) ∧ strSpace (planeOf (elemOf s.fab 1) 0) 0 = decide (sp = 2 ^ 33)) := by
  decide +kernel

/-- A read in flight of a line of the host window. -/
def hostRead0 : ReadOut := { stream := 0, plane := 0, pos := 0, pas := [0x800000000000] }

theorem witness_read_return :
    let e : Elem := { agElem 0 with ag := { reads := [hostRead0] } }
    e.ag.reads[0]? = some hostRead0 ∧ hostRead0.line = none ∧ readBehind e 0 hostRead0 = false ∧
      (match (readLines State.reset.mem e 0 hostRead0.pas).2 with
        | .inl ls => (readDone (planeOf e 0) 0 0 64 ls).isSome
        | .inr _ => false) = true := by decide +kernel

/-- The entry of the host window's first page for partition 0. -/
def hostPage : TEnt := { lg := 12, leaf := 0x80000000000D }
/-- Stream 0 of agElem with that entry. -/
def withEntry (e : Elem) : Elem := modRun e 0 fun r => { r with streams := [(0, { tent := some hostPage })] }

theorem witness_stream_completes :
    (let s := elemSite 1 (withEntry (agElem 0))
     let p := planeOf (elemOf s.fab 1) 0
     ringPick s.fab 1 = some 0 ∧ dbgHit (elemOf s.fab 1) 0 0 0 = false ∧ strBad p 0 = none ∧ (strSt p 0).tent = some hostPage ∧ (strSt p 0).half = none ∧
       strSpace p 0 = false ∧ strAcc p 0 = false ∧ strDir p 0 = false ∧ lineSpan (nestAddr p 0 0) (strSize p 0) = [0] ∧
       tCovers hostPage (corePartOf s.fab 0) (planeFn 1 p) 0 = true ∧ tCheck s.hub hostPage 0 0 false = none) ∧
    (let s := elemSite 1 (withEntry (agElem (2 ^ 34 + 0x20 * 2 ^ 56) [(0x20, [word 9])]))
     let p := planeOf (elemOf s.fab 1) 0
     ringPick s.fab 1 = some 0 ∧ dbgHit (elemOf s.fab 1) 0 0 0 = false ∧ strBad p 0 = none ∧ (strSt p 0).tent = some hostPage ∧ (strSt p 0).half = none ∧
       strSpace p 0 = false ∧ strAcc p 0 = false ∧ strDir p 0 = true ∧ headOf (elemOf s.fab 1) (strQ p 0) = some (word 9) ∧ logsBack 1 p (strQ p 0) = false ∧
       alignBad (strLatch p 0 % 256) 0 = false ∧ strSize p 0 = 64 ∧ tCheck s.hub hostPage 0 1 false = none ∧ (elemOf s.fab 1).ag.hold = []) ∧
    (let p := planeOf (elemOf (elemSite 1 (agElem 0)).fab 1) 0
     ringPick (elemSite 1 (agElem 0)).fab 1 = some 0 ∧ (strSt p 0).tent = none ∧ (strSt p 0).half = none ∧ lineSpan (nestAddr p 0 0) (strSize p 0) = [0]) := by
  decide +kernel
theorem witness_host_read_returns :
    let s := elemSite 1 { agElem 0 with ag := { reads := [hostRead0] } }
    hostRead0.id = 0 ∧ readBehind (elemOf s.fab 1) 0 hostRead0 = false ∧ hostRead0.pas = [0x800000000000] ∧ inHbm 0x800000000000 = false ∧
      alignBad (if fld (strLatch (planeOf (elemOf s.fab 1) 0) 0) 16 2 = 1 then strLatch (planeOf (elemOf s.fab 1) 0) 0 % 256 else 0) hostRead0.va = false ∧
      s.mem.lost = [] := by decide +kernel

/-- A walk of a stream that has started, and the same answered. -/
def walk0 (a : Option (TEnt ⊕ (Nat × Nat × Nat))) : Walk := { key := 1, stream := 0, plane := 0, part := 0, fn := 0, va := 0, started := true, ans := a }
/-- The machine whose die 0 has this request. -/
def walkSite (a : Option (TEnt ⊕ (Nat × Nat × Nat))) : State :=
  let s := elemSite 1 (modRun (agElem 0) 0 fun r => { r with streams := [(0, { wait := 1 })] })
  { s with mem := { s.mem with walkers := [(0, { queue := [walk0 a] })] } }

theorem witness_walks :
    ((tget {} (walkSite none).mem.walkers 0).queue[0]? = some (walk0 none) ∧ (walk0 none).ans = none ∧ (walk0 none).started = true ∧
      (walkerRun (walkSite none).hub (walkSite none).mem 0 0 0 0).1.lost = []) ∧
    (let s := walkSite (some (.inl hostPage))
     (tget {} s.mem.walkers 0).queue[0]? = some (walk0 (some (.inl hostPage))) ∧ (walk0 none).stream < 8 ∧
       (strSt (planeOf (elemOf s.fab 1) 0) 0).wait = 1 ∧ walkWanted (planeOf (elemOf s.fab 1) 0) (walk0 (some (.inl hostPage))) = true) ∧
    (tget {} (walkSite (some (.inr (6, 1, 7)))).mem.walkers 0).queue[0]? = some (walk0 (some (.inr (6, 1, 7)))) := by decide +kernel

/-- An invalidation of a partition's translations, and one of its function 0 that has reached the nodes with these stores outstanding. -/
def inval (h : Option (List (Nat × Nat))) : Inval := { kind := 2, fn := 0, va := 0, core := some 0, id := 1, held := h }
/-- A held store numbered 3. -/
def held3 : Held := { no := 3, pa := 0, va := 0, fn := 0, mask := 1, data := 0, tag := 0, stream := 0, ctx := 0, round := 0 }

theorem witness_invalidation : ∀ h ∈ [[], [held3]],
    let s0 := elemSite 1 { ag := { hold := h } }
    let s := { s0 with hub := { parts := [(0, { cfg := 0x8000000100000000, invals := [inval none] })] } }
    (partOf s.hub 0).invals[0]? = some (inval none) ∧ (inval none).held = none ∧
      invOwed (invStale s.fab [(1, 3)]) (inval (some [(1, 3)])) [(1, 3)] = decide (h ≠ []) := by decide +kernel

/-- A region whose context 0 waits for an early edge. -/
def earlySite (v : Tab Vin) : State :=
  { State.reset with fab := { ccs := [(0, { vins := v })], regions := [(0, { fetchRegion .reset with ctxs := [(0, { early := true })] })] } }

theorem witness_early_edge :
    (∀ v ∈ [[], [(0, { bind := some 0x101000004 })]],
      let s := earlySite v
      let r := { fetchRegion .reset with ctxs := [(0, { early := true })] }
      let l := sourcesOf s.fab r 0
      r.phase = 0 ∧ regionOf s.fab 0 = some (0, r) ∧ halted s.fab 11 = false ∧ ctxLive r 0 = true ∧ (planeOf (elemOf s.fab 11) 0).revoked = false ∧
        (ctxOf r 0).earlyDone ≠ some (openRound (ctxOf r 0) l) ∧ (ctxOf r 0).early = true ∧ ((l.filter fun x => x.edge) = [] ↔ v = []) ∧
        mayOpen r 0 (openRound (ctxOf r 0) l) = true) := by decide +kernel

/-- A compute tile with a pass from 0x40, its input holding a token. -/
def markElem (t : Token) (back : Bool := false) : Elem :=
  let w := slotWord 0x200 passSlot
  { net := { rx := [(0x40, [t])] }
    planes := [(0, { st := .bound, frames := [(0, BitVec.ofNat 256 w), (8, if back then BitVec.ofNat 256 (2 ^ 24) else 0)] })] }

theorem witness_round_entry :
    (let s := elemSite 11 (markElem (markToken false 2 0 0 1))
     hasPlanes 11 = true ∧ planeStill s.fab 11 0 = false ∧ hasBackMark s.fab 11 0 = false ∧ mayEnter (elemOf s.fab 11) 11 0 = true ∧ edgeFlush s.fab 11 0 = none ∧
       edgeClean s.fab 11 0 = true ∧ (markOuts 11 (planeOf (elemOf s.fab 11) 0)).all (fun q => decide (1 ≤ outRoom (elemOf s.fab 11) q)) = true) ∧
      (let s := elemSite 11 (markElem (markToken false 2 0 0 1) true)
       planeStill s.fab 11 0 = false ∧ hasBackMark s.fab 11 0 = true) ∧
      (let s := elemSite 11 { markElem (markToken false 2 0 0 1) with firn := [{}] }
       hasFirn 11 = true ∧ hasBackMark s.fab 11 0 = false ∧ mayEnter (elemOf s.fab 11) 11 0 = true ∧ (edgeFlush s.fab 11 0).isSome) ∧
      (let s := elemSite 11 (markElem (markToken false 3 0 0 1))
       planeStill s.fab 11 0 = false ∧ seesEnd s.fab 11 0 = true ∧ endSlots (elemOf s.fab 11) 11 0 = true ∧ edgeFlush s.fab 11 0 = none ∧ edgeClean s.fab 11 0 = true) := by
  decide +kernel
theorem witness_commit :
    (let s := elemSite 11 (modRun (markElem {}) 0 fun r => { r with round := 1 })
     (region? s.fab 0).isSome ∧ ctxLive (fetchRegion .reset) 0 = true ∧ (fetchRegion .reset).phase = 0 ∧ ctxPair s.fab 0 0 = [0] ∧ mayCommit s.fab 0 0 = true ∧ commitBad s.fab 0 0 = none ∧
       (launchOf s.fab 0 0 (fetchRegion .reset)).2.startDue = []) := by
  decide +kernel

/-- A one-core region in a phase, with faults of context 0. -/
def stopSite (phase : Nat) (l : List FaultRec) (restart : Bool := false) : State :=
  elemSite 1 {} fun r => { r with phase := phase, restart := restart, ctxs := [(0, { faults := l })] }

theorem witness_discard :
    ∀ ph ∈ [0, 1], let s := stopSite ph [{ cause := 6, key := 11 }]
    (region? s.fab 0).any (fun r => r.owner.isNone && nextFault s.fab 0 r == some 0 && dkindOf (pairFaults s.fab 0 0) != .stray &&
      !(ctxOf r 0).drift && r.phase == ph && !r.restart) = true ∧ (firstFault (pairFaults s.fab 0 0)).any noDiscard = false ∧ (ph = 1 → allGated s.fab 0 = true) := by decide +kernel
theorem witness_stop_report :
    let s := stopSite 2 [{ cause := 0x0A, key := 1 }]
    (region? s.fab 0).any (fun r => r.owner.isNone && r.phase == 2 && (firstFault (pairFaults s.fab 0 r.stopCtx)).any noDiscard) = true ∧ allGated s.fab 0 = true := by decide +kernel
theorem witness_gate :
    let s := elemSite 1 {} fun r => { r with gates := [1] }
    (regionOf s.fab 0).any (fun q => q.1 == 0 && q.2.gates.contains 1) = true ∧ kindOf 1 = .ag := by decide +kernel
theorem witness_replay :
    let s := stopSite 1 [] true
    (region? s.fab 0).any (fun r => r.restart && r.phase == 1) = true ∧ allGated s.fab 0 = true ∧ (rescanPair s 0).2 = .done := by decide +kernel
theorem witness_rescan_stop :
    let s := elemSite 11 { planes := [(0, { st := .bound, bad := [10], patched := [10] })] } fun r => { r with phase := 1, restart := true }
    allGated s.fab 0 = true ∧ (rescanPair s 0).2 = .fails (11, 0, 0, 10) := by decide +kernel
theorem witness_rescan_waits :
    let id : ImgId := { fn := 0, image := 0x1040, w := 1, h := 1, x0 := 0, y0 := 0, imageid := 0 }
    let s := elemSite 11 { planes := [(0, { st := .bound, img := some id, bad := [2] })] } fun r => { r with phase := 1, restart := true }
    allGated s.fab 0 = true ∧ (rescanPair s 0).2 = .waits := by decide +kernel
theorem witness_bad_word : ∀ n ∈ [0, 8, 44],
    let s := slotSite 0x200 passSlot fun e => modPlane e 0 fun p => { p with bad := [n] }
    slotReady s.fab s.site.key s.site.plane s.site.slot 0x200 passSlot = true ∧ backlogFull (seen s 0x200 passSlot) = false ∧
      ((firingFrames s.site.key s.site.slot).find? fun n => (planeOf (elemOf s.fab s.site.key) s.site.plane).bad.contains n) = some n := by decide +kernel
theorem witness_timing : kindOf 11 = .compute ∧ kindOf 1 = .ag ∧
    (let e : Elem := { cyc := 9, opens := [(0, 8), (1, 9)] }
     halted (elemSite 11 e).fab 11 = false ∧ e.terr = [] ∧ (∃ q ∈ e.opens, e.cyc < q.2 + 2)) ∧
    (let e : Elem := { cyc := 14, terr := [(0, 9), (1, 9)] }
     halted (elemSite 11 e).fab 11 = false ∧ e.terr = [(0, 9), (1, 9)] ∧ 9 + 4 < e.cyc) := by
  decide +kernel
theorem witness_breakpoint :
    let w : Slot := { passSlot with brk := 1 }
    let s := slotSite 0x200 w fun e => modPlane e 0 fun p => { p with brkskip := false }
    (regionOf s.fab 0).any (fun q => q.1 == 0 && q.2.phase == 0) = true ∧ brkDue (elemOf s.fab 11) 11 0 0 = true ∧
      slotReady s.fab 11 0 0 0x200 (slotFields (slotWordOf (planeOf (elemOf s.fab 11) 0) 0)) = true ∧ swOp (slotWordOf (planeOf (elemOf s.fab 11) 0) 0) = 0x200 := by
  decide +kernel
theorem witness_quiescence :
    let s := elemSite 1 { planes := [(0, { st := .bound })] } fun r => { r with ctxs := [(0, { idle := 4096 })] }
    (region? s.fab 0).any (fun r => ctxLive r 0 && ctxBound s.fab r 0 && r.phase == 0 && !(ctxOf r 0).drift && (ctxOf r 0).idle == 4096 && !quietExcused s.fab r 0) = true ∧
      (driftIn s.fab 0 0).isNone := by decide +kernel
theorem witness_sweep :
    let s := elemSite 11 { planes := [(0, { st := .retiring })] } fun r => { r with ctxs := [(0, { cround := 0 })] }
    ctxPair s.fab 0 0 = [0] ∧ (region? s.fab 0).any (fun g => sweepDue s.fab g 0 && (regionKeys g).all fun k => (strayIn s.fab k 0).isEmpty) = true := by
  decide +kernel

/-- Partition 0 enabled and running with core 0 and channel group 0 alone. -/
def onePart : Part := { cfg := 0x8000000100000000, prstState := 2, savecfg := 0x8000000000000001 }

/-- The machine with partition 0 as given, at a device time, and these regions. -/
def partSite (p : Part) (t : Word := 0) (l : List (Nat × Region) := []) : State :=
  { State.reset with hub := { parts := [(0, p)] }, clk := { dtime := t }, fab := { regions := l } }

/-- A launch record of one core, of a class. -/
def oneLaunch (cls : Nat) : Launch := { lrec := BitVec.ofNat 1024 (2 ^ 12 + 2 ^ 16 + 2 ^ 8 * cls), part := 0, fn := 0, queue := 0, index := 0, seq := 0 }

/-- A region on core 0 that takes drift launches, with one in plane 1. -/
def hostRegions (g : Region → Region := id) (d : Region → Region := id) : List (Nat × Region) :=
  let r := fetchRegion .reset
  let l := { r.launch with lrec := BitVec.ofNat 1024 (2 ^ 12 + 2 ^ 16 + 2 ^ 23) }
  [(0, g { r with launch := l }), (1, d { r with owner := some 0, plane := 1, launch := oneLaunch 3, ctxs := [(1, { drift := true })] })]

theorem witness_fetch_and_place :
    partEn onePart = true ∧ onePart.prstState = 2 ∧ 0 ≤ vfCnt onePart ∧ (∀ q ∈ [0, 7, 8], thas onePart.fwait (9 * 0 + q) = false) ∧
      (let s := partSite { onePart with accepted := [oneLaunch 0] }
       let s1 : State := { s with hub := modPart s.hub 0 fun p => noteSince p s.clk.dtime }
       (pickLaunch s1 0).any (fun q => match q.2.2 with
         | .place .. => true
         | _ => false) = true) := by decide +kernel
theorem witness_promotion_and_start :
    (let l : Launch := { oneLaunch 2 with since := some 0 }
     let s := partSite { onePart with accepted := [l] } 491520
     (partOf s.hub 0).accepted[0]? = some l ∧ lClass l = 2 ∧ l.since = some 0 ∧ 491520 ≤ (s.clk.dtime - 0).toNat ∧
       isCandidate (partOf s.hub 0) s.clk.dtime 0 = true) := by decide +kernel

/-- Memory whose lines have sound checks, of these line numbers. -/
def checkedLines (m : MemSys) (l : List Nat) : MemSys := { m with checks := l.map fun n => (n, lineCheck (lineAt m.hbm (64 * n)) 0) }

/-- Partition 0 with a page table at address 0: entry 0 names the table itself, entry 1 of the last level the page at 0. -/
def tableSite (f : Fab) : State :=
  { State.reset with
    hub := { parts := [(0, { onePart with ptroot := [(0, 0x8000000000000000)] })] }
    mem := checkedLines { hbm := mputN [] 0 16 (3 + 2 ^ 64 * 5), owner := [(0, 0)] } [0], fab := f }

theorem witness_load_frame :
    let l : Load := { part := 0, rid := some 0, fn := 0, image := 0x1000, x0 := 0, y0 := 0, w := 1, h := 1, plane := 0 }
    let s := tableSite { loads := [l] }
    s.fab.loads[0]? = some l ∧ l.wait = 0 ∧ l.rid.isSome = true ∧ (match (hubRead s.hub s.mem {} l.part l.fn (l.image.toNat + 32 * l.k)).2.2 with
      | .wait => true
      | _ => false) = true ∧ (match (hubRead s.hub s.mem { lines := [((0, 64), 5)] } l.part l.fn (l.image.toNat + 32 * l.k)).2.2 with
      | .ok d => d == 5
      | _ => false) = true := by decide +kernel
theorem witness_start_token :
    let s := partSite onePart 0 [(0, { fetchRegion .reset with startDue := [0] })]
    (startAt s.fab 0).any (fun q => q.1 == 0 && q.2.twin.isNone && q.2.owner.isNone) = true := by decide +kernel
theorem witness_swap_steps :
    (let w : Swap := { old := 0, new := 1, tick := 984, core := 0, id := 1, reg := 3 }
     (∀ c ∈ [none, some false, some true], (region? (partSite onePart 984 [(0, { fetchRegion .reset with swap := some { w with checked := c } })]).fab 0).any
       (fun r => r.swap == some { w with checked := c } && r.phase == 0) = true) ∧
     w.done = false ∧ horizonCome 0 w.tick = true ∧ w.tick.toNat ≤ (984 : Word).toNat) := by decide +kernel
theorem witness_drift_messages : ∀ k ∈ [1, 2],
    let s := partSite onePart 0 (hostRegions id fun d => { d with msgs := [1], msgKind := k })
    kindOf 1 = .ag ∧ (driftMsg s.fab 1 1 k).isSome = true := by decide +kernel
theorem witness_lend_withdraw :
    let s0 := partSite { onePart with accepted := [oneLaunch 3] } 0 hostRegions
    let s := { s0 with fab := { s0.fab with regions := hostRegions ++ [(2, { fetchRegion .reset with owner := some 0, plane := 2, launch := oneLaunch 3 })] } }
    (region? s.fab 0).any (fun r => r.withdraw.isNone && needsPlanes s 0 r) = true ∧
      (s.fab.regions.filter fun q => q.2.owner == some 0).isEmpty = false := by decide +kernel

/-- A stage entry of one replica and one-token records from 0x40 to 0x48, that of a distributor or of a sampled replica at place (1, 1). -/
def stageEntry (dist : Bool) : StageE :=
  { w0 := BitVec.ofNat 64 (0x40 * 2 ^ 14 + 2 ^ 22 + 1 * 2 ^ 25 + 2 + 128), w1 := BitVec.ofNat 64 (0x48 + 0x40 * 2 ^ 32), w2 := BitVec.ofNat 64 (1 + 128)
    w3 := 0, dist := dist }

theorem witness_distributor :
    let x := stageEntry true
    let s := elemSite 11 { net := { rx := [(0x40, [word 1])] }, planes := [(0, { st := .bound, stages := [x] })] }
    let e := elemOf s.fab 11
    distNext e 0 = some (0, x, word 1, 0) ∧ planeStill s.fab 11 0 = false ∧ IssueClass.movement ∉ e.issued ∧ stDq x = 0x40 ∧
      (popPlane s.fab 11 0 0x40 (word 1)).2 = true := by decide +kernel
theorem witness_stage_sample :
    let x := stageEntry false
    let s0 := elemSite 11 { cyc := 65, planes := [(0, { st := .bound, stages := [x], cyc0 := 1 })] }
    let s := { s0 with fab := modElem s0.fab 12 fun _ => { planes := [(0, { st := .bound, stages := [stageEntry true] })] } }
    (planeOf (elemOf s.fab 11) 0).stages = [x] ∧ regionOf s.fab 0 = some (0, fetchRegion .reset) ∧ x.dist = false ∧ planeStill s.fab 11 0 = false ∧
      (planeOf (elemOf s.fab 11) 0).cyc0 < (elemOf s.fab 11).cyc ∧ ((elemOf s.fab 11).cyc - (planeOf (elemOf s.fab 11) 0).cyc0) % 64 = 0 ∧
      ((List.range (stRep x)).find? (fun r => fld x.w2.toNat (14 * r) 7 == (relPlace (fetchRegion .reset) 11).1 &&
        fld x.w2.toNat (14 * r + 7) 7 == (relPlace (fetchRegion .reset) 11).2)) = some 0 ∧
      relKey (fetchRegion .reset) (fld x.w0.toNat 0 7) (fld x.w0.toNat 7 7) = some 12 ∧ (12 : Nat) ≠ 11 ∧
      (planeOf (elemOf s.fab 12) 0).stages.findIdx? (fun y => y.dist && sameStage x y) = some 0 := by decide +kernel
theorem witness_preemption : ∀ ph ∈ [0, 4],
    let s := partSite onePart 0 [(0, { fetchRegion .reset with saveDue := true, phase := ph })]
    (region? s.fab 0).any (fun r => r.saveDue && r.phase == ph && decide (r.w * r.h * (if r.twin.isSome then 2 else 1) ≤ (freeSlots (partOf s.hub r.launch.part)).length))
      = true := by decide +kernel

/-- Partition 0 with one saved launch, sound or corrupt, in save slot 0 at address 0. -/
def savedPart (l : Launch) (r : Region) (bad : Bool) : Part :=
  { onePart with accepted := [{ l with saved := some 1 }], saved := [(1, { region := r, base := 64, slots := [0], reason := 1, dtime := 0, corrupt := bad })] }

theorem witness_restore :
    (let s0 := partSite (savedPart (oneLaunch 3) { fetchRegion .reset with plane := 1 } false) 0 [((hostRegions).headD (0, fetchRegion .reset))]
     let image := 2 ^ 248 + 2 ^ 240 + 2 ^ 236 + 2 ^ 232 + 2 * 2 ^ 160 + 3 * 2 ^ 248 * 2 ^ 256
     let s := { s0 with mem := checkedLines { s0.mem with hbm := mputN [] 256 64 image } [4] }
     (pickLaunch s 0).any (fun q => q.2.2 == .backDrift 0 && q.2.1.saved == some 1) = true ∧
       ((partOf s.hub 0).saved.find? fun q => q.1 == 1).any (fun q => (saveLost s 0 q.2).isNone) = true) ∧
      (let s := partSite (savedPart (oneLaunch 0) (fetchRegion .reset) true)
       (pickLaunch s 0).any (fun q => q.2.1.saved == some 1) = true ∧ ((partOf s.hub 0).saved.find? fun q => q.1 == 1).any (fun q => saveLost s 0 q.2 == some 0x0B) = true) := by
  decide +kernel

theorem witness_reset_and_power :
    (partOf (partSite { onePart with scrub := some 0x8000000100000000 }).hub 0).scrub = some 0x8000000100000000 ∧
      (let s := partSite { onePart with prstState := 0 }
       (partOf s.hub 0).prstState = 0 ∧ partEn (partOf s.hub 0) = true ∧ (partOf s.hub 0).scrub = none ∧ s.sec.stage ≠ 4) ∧
      (partOf (partSite { onePart with prstState := 1 }).hub 0).prstState = 1 ∧ State.reset.sec.stage = 0 ∧
      ({ State.reset with sec := { stage := 3, ready := true } } : State).sec.stage = 3 ∧ regionOf State.reset.fab 63 = none ∧
      corePart (partSite onePart).hub 0 = some 0 := by decide +kernel
theorem witness_spines : ∀ n ∈ [0, 7],
    spCur State.reset.clk n = spMult State.reset.clk n ∧ spCur { cur := [(n, 16)] } n < spMult { cur := [(n, 16)] } n ∧
      spMult { mult := [(n, 16)] } n < spCur { mult := [(n, 16)] } n := by decide +kernel
theorem witness_bucket_lease :
    (let s := partSite onePart 16 [(0, fetchRegion .reset)]
     (region? s.fab 0).any (fun r => r.owner.isNone && decide (r.bfill < s.clk.dtime.toNat / 16)) = true) ∧
      (let r := { fetchRegion .reset with leaseEnd := some 9832 }
       let s := partSite onePart 9832 [(0, r)]
       let u := partSite onePart 0 [(0, r)]
       (region? s.fab 0).any (fun r => r.leaseEnd.any fun e => decide (e.toNat ≤ s.clk.dtime.toNat)) = true ∧
         (u.fab.regions.filter fun q => q.2.leaseEnd.isSome) = [(0, r)] ∧ r.leaseEnd = some 9832 ∧ (u.clk.dtime + 9831).toNat < (9832 : Word).toNat) := by
  decide +kernel
theorem witness_device_time :
    ({ load := some 5 } : Clk).load = some 5 ∧ State.reset.clk.load = none ∧ State.reset.sec.ready = false ∧
      (let s : State := { State.reset with sec := { ready := true } }
       s.sec.ready = true ∧ ∀ p ∈ [0, 1, 2, 3], (partOf s.hub p).prstState = 0) ∧
      (∀ v ∈ [8388608, 2 ^ 32 - 8388608], -8388608 ≤ ((BitVec.ofNat 64 v).setWidth 32 : BitVec 32).toInt ∧
        ((BitVec.ofNat 64 v).setWidth 32 : BitVec 32).toInt ≤ 8388608) ∧
      (8388608 < ((BitVec.ofNat 64 8388609).setWidth 32 : BitVec 32).toInt ∧ ((BitVec.ofNat 64 (2 ^ 32 - 8388609)).setWidth 32 : BitVec 32).toInt < -8388608) := by
  decide +kernel

theorem witness_partition_registers :
    let s := partSite onePart
    pageDead s 0 0 = false ∧ (partOf s.hub 0).xbusy = false ∧
      (∀ q ∈ [(0, 0), (1, 2 ^ 62), (2, 2 ^ 63), (3, 2 ^ 63 + 2 ^ 62)], q.2 / 2 ^ 62 = q.1 ∧ fld q.2 52 10 = 0 ∧ fld q.2 5 7 = 0 ∧ q.2 % 32 ≤ vfCnt (partOf s.hub 0)) ∧
      ((1 : BitVec 32) - tget 0 (partOf s.hub 0).lqhead (8 * 0 + 7)).toNat ≤ 2 ^ fld (tget 0 (partOf s.hub 0).lqcfg (8 * 0 + 7)).toNat 54 4 ∧
      bit (tget 0 ({ onePart with lqerr := [(7, 0x8000000000000000)] } : Part).lqerr 7).toNat 63 = true ∧
      (let u := partSite { onePart with cfg := onePart.cfg + 2 ^ 48 }
       pageDead u 0 1 = false ∧ tget false (partOf u.hub 0).rbusy 1 = false) := by decide +kernel
theorem witness_region_commands :
    ∀ ph ∈ [0, 4], let s := partSite onePart 0 [(0, { fetchRegion .reset with phase := ph, ctxs := [(0, { stray := true })] })]
    pageDead s 0 0 = false ∧ tget false (partOf s.hub 0).rbusy 0 = false ∧
      (rcmdLaunch s 0 0 0).any (fun q => q.1 == 0 && q.2.owner.isNone && q.2.phase == ph) = true ∧
      (region? s.fab 0).any (fun g => (ctxOf g 0).stray && ctxLive g 0) = true ∧ 1 * 1 * 1 ≤ (freeSlots (partOf s.hub 0)).length := by decide +kernel
theorem witness_preload :
    let s := partSite onePart 0 [(0, fetchRegion .reset)]
    let v : BitVec 64 := BitVec.ofNat 64 (3 * 2 ^ 34)
    (partOf s.hub 0).plbusy = false ∧
      (s.fab.regions.find? fun q => q.2.owner.isNone && q.2.launch.part == 0 && q.2.launch.fn == fld v.toNat 36 5 && q.2.launch.seq == v.setWidth 32).isSome = true ∧
      preloadOk s.fab 0 (fetchRegion .reset) (fld v.toNat 34 2) = true := by decide +kernel
theorem witness_config_space :
    let s := partSite onePart
    let a := 11 * 2 ^ 21 + 3 * 2 ^ 18
    let b := 99 * 2 ^ 21 + 2 ^ 18 - 32
    reach s (.host 0 0) (.window 0 a) = .ok ∧ fld a 21 7 < 100 ∧ (cfgWrite s.fab (100 * 0 + fld a 21 7) (fld a 18 3) (fld a 5 13) 0).isSome = true ∧
      reach s (.host 0 0) (.window 0 b) = .ok ∧ fld b 21 7 < 100 ∧ (cfgWrite s.fab (100 * 0 + fld b 21 7) (fld b 18 3) (fld b 5 13) 0).isNone = true ∧
      reach s (.host 0 0) (.window 0 (100 * 2 ^ 21)) = .ok ∧ 100 ≤ fld (100 * 2 ^ 21) 21 7 ∧
      reach s (.host 1 0) (.window 0 a) = .abort ∧ reach s (.host 0 0) (.window 0 0x10000000) = .ok := by decide +kernel
theorem witness_window_csrs :
    2 ≤ (ccOf (coreSite { state := 2 }).fab 0).state.toNat ∧ (ccOf (coreSite { state := 1 }).fab 0).state.toNat < 2 := by decide +kernel
theorem witness_register_writes :
    (∀ q ∈ [(0, 3), (4, 8), (2, 4)], (q.2 ≠ 4 ∧ q.2 ≠ 8) ∨ q.1 % q.2 ≠ 0) ∧
      (let s := partSite onePart
       (0 ≤ vfCnt (partOf s.hub 0)) ∧ (partOf s.hub 0).prstState ≠ 0 ∧ s.sec.stage ≠ 4 ∧ (partOf s.hub 0).mbBusy = false) ∧
      (let v : BitVec 64 := BitVec.ofNat 64 (2 ^ 32 * 4096 + 1)
       v.toNat % 2 = 1 ∧ fld v.toNat 32 16 ≤ 4096) := by decide +kernel

/-- Partition 0 with a mailbox request of an OP and an argument block. -/
def mailSite (op len : Nat) (arg : Mem := []) (stage : Byte := 3) (prst : BitVec 2 := 2) : State :=
  { partSite { onePart with mbBusy := true, mbOp := BitVec.ofNat 8 op, mbLen := BitVec.ofNat 16 len, mbuf := arg, prstState := prst } with
    sec := { stage := stage, ready := stage == 3 } }

theorem witness_mailbox : ∀ c ∈ mbCmds,
    mailboxTakes (mailSite c.op c.len) 0 c ∧ (partOf (mailSite c.op c.len).hub 0).mbBusy = true ∧ mbCheck (mailSite c.op 0x1001 (mputN [] 0x1000 1 1)) 0 c ≠ 0 := by
  unfold mailboxTakes; decide +kernel
theorem witness_mailbox_arguments :
    (let s := mailSite mbPartset.op mbPartset.len (mputN [] 0 1 3)
     mailboxTakes s 0 mbPartset ∧ mbReq (partOf s.hub 0) 0 8 < 4 ∧ mbReq (partOf s.hub 0) 16 8 = 0) ∧
      (let s := mailSite mbSpineset.op mbSpineset.len (mputN [] 0 1 7)
       mailboxTakes s 0 mbSpineset ∧ mbReq (partOf s.hub 0) 0 8 < 8) ∧
      (let s := mailSite mbFwstage.op mbFwstage.len (mputN [] 0 1 2)
       mailboxTakes s 0 mbFwstage ∧ mbReq (partOf s.hub 0) 0 8 = 2 ∧ s.sec.stage ≠ 4) ∧
      (let s := mailSite mbSvnlock.op mbSvnlock.len (mputN [] 0 1 2)
       mailboxTakes s 0 mbSvnlock ∧ mbReq (partOf s.hub 0) 0 8 = 2 ∧ mbReq (partOf s.hub 0) 8 8 < 4 ∧ (partOf s.hub 0).prstState = 2) ∧
      (let s := mailSite mbOwnerkey.op mbOwnerkey.len [] 3 0
       mailboxTakes s 0 mbOwnerkey ∧ mbReq (partOf s.hub 0) 0 8 < 4 ∧ (partOf s.hub (mbReq (partOf s.hub 0) 0 8)).prstState = 0) := by
  unfold mailboxTakes; decide +kernel
theorem witness_mailbox_unknown : ∀ c ∈ mbCmds, c.op ≠ (partOf (mailSite 0xFF 0).hub 0).mbOp.toNat := by decide +kernel
theorem witness_spdm : State.reset.sec.stage ≠ 4 ∧ 1 ≤ (4 : Nat) := by decide +kernel

/-- The machine after reset with a pulse on PPSIN next. -/
def pulseNext : State := { State.reset with agenda := [.event .ppsinEdge] }

theorem witness_spine_invariant : SpinesInRange pulseNext ∧ ∃ t, step pulseNext = .next t :=
  ⟨by unfold SpinesInRange; decide +kernel, ⟨_, rfl⟩⟩

/-! ### Words written out from the encodings (08 R208-R212, R227; the opcode table's fixed bits with every operand field set) -/

theorem test_words_1 :
    decodeWord 0x026AAE00 = .add 19 10 21 1 1 ∧
    decodeWord 0x026AAE01 = .sub 19 10 21 1 1 ∧
    decodeWord 0x026AAE02 = .and 19 10 21 1 1 ∧
    decodeWord 0x026AAE03 = .or 19 10 21 1 1 ∧
    decodeWord 0x026AAE04 = .xor 19 10 21 1 1 ∧
    decodeWord 0x026AAE05 = .sll 19 10 21 1 1 ∧
    decodeWord 0x026AAE06 = .srl 19 10 21 1 1 ∧
    decodeWord 0x026AAE07 = .sra 19 10 21 1 1 ∧
    decodeWord 0x026AAE08 = .slt 19 10 21 1 1 ∧
    decodeWord 0x026AAE09 = .sltu 19 10 21 1 1 ∧
    decodeWord 0x026AAE0A = .min 19 10 21 1 1 ∧
    decodeWord 0x026AAE0B = .max 19 10 21 1 1 ∧
    decodeWord 0x026AAE0C = .minu 19 10 21 1 1 ∧
    decodeWord 0x026AAE0D = .maxu 19 10 21 1 1 ∧
    decodeWord 0x026AAE10 = .addw 19 10 21 1 1 ∧
    decodeWord 0x026AAE11 = .subw 19 10 21 1 1 ∧
    decodeWord 0x026AAE15 = .sllw 19 10 21 1 1 ∧
    decodeWord 0x026AAE16 = .srlw 19 10 21 1 1 ∧
    decodeWord 0x026AAE17 = .sraw 19 10 21 1 1 := by decide +kernel
theorem test_words_2 :
    decodeWord 0x026AAE20 = .mul 19 10 21 1 1 ∧
    decodeWord 0x026AAE21 = .mulh 19 10 21 1 1 ∧
    decodeWord 0x026AAE22 = .mulhu 19 10 21 1 1 ∧
    decodeWord 0x026AAE23 = .mulhsu 19 10 21 1 1 ∧
    decodeWord 0x026AAE24 = .div 19 10 21 1 1 ∧
    decodeWord 0x026AAE25 = .divu 19 10 21 1 1 ∧
    decodeWord 0x026AAE26 = .rem 19 10 21 1 1 ∧
    decodeWord 0x026AAE27 = .remu 19 10 21 1 1 ∧
    decodeWord 0x026AAE30 = .clz 19 10 21 1 1 ∧
    decodeWord 0x026AAE31 = .ctz 19 10 21 1 1 ∧
    decodeWord 0x026AAE32 = .popc 19 10 21 1 1 ∧
    decodeWord 0x026AAE33 = .bswap 19 10 21 1 1 ∧
    decodeWord 0x066AAE00 = .feClr 19 10 21 1 1 ∧
    decodeWord 0x066AAE01 = .feTst 19 10 21 1 1 ∧
    decodeWord 0x066AAE02 = .feWait 19 10 21 1 1 ∧
    decodeWord 0x066AAE03 = .feTake 19 10 21 1 1 ∧
    decodeWord 0x066AAE04 = .feAny 19 10 21 1 1 ∧
    decodeWord 0x066AAE10 = .trap 19 10 21 1 1 ∧
    decodeWord 0x066AAE11 = .tret 19 10 21 1 1 := by decide +kernel
theorem test_words_3 :
    decodeWord 0x066AAE12 = .wfe 19 10 21 1 1 ∧
    decodeWord 0x066AAE13 = .brk 19 10 21 1 1 ∧
    decodeWord 0x126ADB6D = .addi 19 10 1 23405 ∧
    decodeWord 0x166ADB6D = .andi 19 10 1 23405 ∧
    decodeWord 0x1A6ADB6D = .ori 19 10 1 23405 ∧
    decodeWord 0x1E6ADB6D = .xori 19 10 1 23405 ∧
    decodeWord 0x226ADB6D = .slti 19 10 1 23405 ∧
    decodeWord 0x266ADB6D = .sltiu 19 10 1 23405 ∧
    decodeWord 0x2A6A8B6D = .slli 19 10 1 45 45 ∧
    decodeWord 0x2A6A9B6D = .srli 19 10 1 45 45 ∧
    decodeWord 0x2A6AAB6D = .srai 19 10 1 45 45 ∧
    decodeWord 0x2A6ABB6D = .slliw 19 10 1 45 45 ∧
    decodeWord 0x2A6ACB6D = .srliw 19 10 1 45 45 ∧
    decodeWord 0x2A6ADB6D = .sraiw 19 10 1 45 45 ∧
    decodeWord 0x3276DB6D = .lui 19 1497965 ∧
    decodeWord 0x3676DB6D = .pcadd 19 1497965 ∧
    decodeWord 0x426ADB6D = .lb 19 10 1 23405 ∧
    decodeWord 0x466ADB6D = .lh 19 10 1 23405 ∧
    decodeWord 0x4A6ADB6D = .lw 19 10 1 23405 := by decide +kernel
theorem test_words_4 :
    decodeWord 0x4E6ADB6D = .ld 19 10 1 23405 ∧
    decodeWord 0x526ADB6D = .lbu 19 10 1 23405 ∧
    decodeWord 0x566ADB6D = .lhu 19 10 1 23405 ∧
    decodeWord 0x5A6ADB6D = .lwu 19 10 1 23405 ∧
    decodeWord 0x626AEDB6 = .sb 19 10 1 1 11702 ∧
    decodeWord 0x666AEDB6 = .sh 19 10 1 1 11702 ∧
    decodeWord 0x6A6AEDB6 = .sw 19 10 1 1 11702 ∧
    decodeWord 0x6E6AEDB6 = .sd 19 10 1 1 11702 ∧
    decodeWord 0x826AEDB6 = .beq 19 10 1 1 11702 ∧
    decodeWord 0x866AEDB6 = .bne 19 10 1 1 11702 ∧
    decodeWord 0x8A6AEDB6 = .blt 19 10 1 1 11702 ∧
    decodeWord 0x8E6AEDB6 = .bge 19 10 1 1 11702 ∧
    decodeWord 0x926AEDB6 = .bltu 19 10 1 1 11702 ∧
    decodeWord 0x966AEDB6 = .bgeu 19 10 1 1 11702 ∧
    decodeWord 0xA276DB6D = .j 19 1497965 ∧
    decodeWord 0xA676DB6D = .jal 19 1497965 ∧
    decodeWord 0xAA6ADB6D = .jalr 19 10 1 23405 ∧
    decodeWord 0xC26A9001 = .csrrw 19 10 1 1 ∧
    decodeWord 0xC26AA001 = .csrrs 19 10 1 1 := by decide +kernel
theorem test_words_5 :
    decodeWord 0xC26AB001 = .csrrc 19 10 1 1 ∧
    decodeWord 0xE0134051 = .inject 19 0 5 1 ∧
    decodeWord 0xE0134085 = .vend 19 0 5 ∧
    decodeWord 0xE26AC091 = .rdout 19 10 1 1 ∧
    decodeWord 0xE01340A5 = .accrst 19 0 5 ∧
    decodeWord 0xE26AC0A9 = .rdacc 19 10 1 1 ∧
    decodeWord 0xE01340B5 = .vbind 19 0 5 ∧
    decodeWord 0xE01340C0 = .rmark 19 0 ∧
    decodeWord 0xE26AC0C1 = .wcommit 19 10 1 ∧
    decodeWord 0xE01340D0 = .fencePl 19 0 ∧
    decodeWord 0xE01340D1 = .fenceRg 19 0 ∧
    decodeWord 0xE01340D2 = .fencePt 19 0 ∧
    decodeWord 0xE01340D3 = .fenceSy 19 0 ∧
    decodeWord 0xE01340E0 = .drainDm 19 0 ∧
    decodeWord 0xE01340E1 = .drainSp 19 0 ∧
    decodeWord 0xE01340E2 = .drainHm 19 0 ∧
    decodeWord 0xE01340E3 = .drainCf 19 0 ∧
    decodeWord 0xE0134100 = .kwr 19 0 ∧
    decodeWord 0xE26A8200 = .copy 19 10 1 1 := by decide +kernel
theorem test_words_6 :
    decodeWord 0xE26A8201 = .sbind 19 10 1 1 ∧
    decodeWord 0xE26A8202 = .aflush 19 10 1 1 ∧
    decodeWord 0xE26AA200 = .amoAddCmd 19 10 1 1 ∧
    decodeWord 0xE26AA201 = .amoMinCmd 19 10 1 1 ∧
    decodeWord 0xE26AA202 = .amoMaxCmd 19 10 1 1 ∧
    decodeWord 0xE26AA203 = .amoAndCmd 19 10 1 1 ∧
    decodeWord 0xE26AA204 = .amoOrCmd 19 10 1 1 ∧
    decodeWord 0xE26AA205 = .amoXorCmd 19 10 1 1 ∧
    decodeWord 0xE26AA206 = .amoXchgCmd 19 10 1 1 ∧
    decodeWord 0xE26AA207 = .amoCasCmd 19 10 1 1 ∧
    decodeWord 0xE26AC200 = .swap 19 10 1 ∧
    decodeWord 0xE26AC201 = .revoke 19 10 1 ∧
    decodeWord 0xE26AC202 = .relend 19 10 1 ∧
    decodeWord 0xE26AC400 = .lease 19 10 1 ∧
    decodeWord 0xE0134401 = .leaseEnd 19 0 ∧
    decodeWord 0xE26AC402 = .launch 19 10 1 ∧
    decodeWord 0xE0134440 = .xinvVa 19 0 ∧
    decodeWord 0xE0134441 = .xinvFn 19 0 ∧
    decodeWord 0xE0134442 = .xinvPart 19 0 := by decide +kernel

/-- A slot with every field set. -/
def fullSlot : Slot := { inmask := 0x8123, outmask := 0x4567, predreq := 0x9, predmask := 0xB, kindc := 0x1, lvlc := 0x6, brk := 0x1, valid := 0x1, dst := 0x31, a := 0x22
                         b := 0x84, c := 0x13, fmt := 0x7, rnd := 0x3, sat := 0x1, pwe := 0x1, pwn := 0x0, pwi := 0x2, md := 0x2A5, imm := 0xBEEF }

/-- Its word but for the opcode in bits [79:70]. -/
def fullWord (op : Nat) : Nat := 0x812345679B3B000C48A104DDEAA5BEEF + op * 2 ^ 70

theorem test_slot_words_1 :
    decodeSlot (fullWord 0x000) = some (.vaddF fullSlot) ∧
    decodeSlot (fullWord 0x001) = some (.vsubF fullSlot) ∧
    decodeSlot (fullWord 0x002) = some (.vmulF fullSlot) ∧
    decodeSlot (fullWord 0x003) = some (.vfma fullSlot) ∧
    decodeSlot (fullWord 0x004) = some (.vfms fullSlot) ∧
    decodeSlot (fullWord 0x005) = some (.vfnma fullSlot) ∧
    decodeSlot (fullWord 0x006) = some (.vminF fullSlot) ∧
    decodeSlot (fullWord 0x007) = some (.vmaxF fullSlot) ∧
    decodeSlot (fullWord 0x008) = some (.vabsF fullSlot) ∧
    decodeSlot (fullWord 0x009) = some (.vnegF fullSlot) ∧
    decodeSlot (fullWord 0x00A) = some (.vrnd fullSlot) ∧
    decodeSlot (fullWord 0x020) = some (.vaddI fullSlot) ∧
    decodeSlot (fullWord 0x021) = some (.vsubI fullSlot) ∧
    decodeSlot (fullWord 0x022) = some (.vmulI fullSlot) ∧
    decodeSlot (fullWord 0x023) = some (.vmac fullSlot) ∧
    decodeSlot (fullWord 0x024) = some (.vminI fullSlot) ∧
    decodeSlot (fullWord 0x025) = some (.vmaxI fullSlot) ∧
    decodeSlot (fullWord 0x026) = some (.vabsI fullSlot) ∧
    decodeSlot (fullWord 0x027) = some (.vnegI fullSlot) ∧
    decodeSlot (fullWord 0x028) = some (.vshl fullSlot) := by decide +kernel
theorem test_slot_words_2 :
    decodeSlot (fullWord 0x029) = some (.vshr fullSlot) ∧
    decodeSlot (fullWord 0x02A) = some (.vsra fullSlot) ∧
    decodeSlot (fullWord 0x02B) = some (.vand fullSlot) ∧
    decodeSlot (fullWord 0x02C) = some (.vor fullSlot) ∧
    decodeSlot (fullWord 0x02D) = some (.vxor fullSlot) ∧
    decodeSlot (fullWord 0x02E) = some (.vandn fullSlot) ∧
    decodeSlot (fullWord 0x040) = some (.vcadd fullSlot) ∧
    decodeSlot (fullWord 0x041) = some (.vcsub fullSlot) ∧
    decodeSlot (fullWord 0x042) = some (.vcmul fullSlot) ∧
    decodeSlot (fullWord 0x043) = some (.vcmac fullSlot) ∧
    decodeSlot (fullWord 0x044) = some (.vcmulc fullSlot) ∧
    decodeSlot (fullWord 0x045) = some (.vcmacc fullSlot) ∧
    decodeSlot (fullWord 0x046) = some (.vconj fullSlot) ∧
    decodeSlot (fullWord 0x047) = some (.vcshr fullSlot) ∧
    decodeSlot (fullWord 0x048) = some (.vcrot fullSlot) ∧
    decodeSlot (fullWord 0x050) = some (.vcmpeq fullSlot) ∧
    decodeSlot (fullWord 0x051) = some (.vcmpne fullSlot) ∧
    decodeSlot (fullWord 0x052) = some (.vcmplt fullSlot) ∧
    decodeSlot (fullWord 0x053) = some (.vcmple fullSlot) ∧
    decodeSlot (fullWord 0x054) = some (.vcmpgt fullSlot) := by decide +kernel
theorem test_slot_words_3 :
    decodeSlot (fullWord 0x055) = some (.vcmpge fullSlot) ∧
    decodeSlot (fullWord 0x056) = some (.vsel fullSlot) ∧
    decodeSlot (fullWord 0x057) = some (.vclamp fullSlot) ∧
    decodeSlot (fullWord 0x060) = some (.vcvt fullSlot) ∧
    decodeSlot (fullWord 0x061) = some (.vsclL fullSlot) ∧
    decodeSlot (fullWord 0x062) = some (.vsclI fullSlot) ∧
    decodeSlot (fullWord 0x063) = some (.vhdrF fullSlot) ∧
    decodeSlot (fullWord 0x064) = some (.vhdrS fullSlot) ∧
    decodeSlot (fullWord 0x070) = some (.vrcp fullSlot) ∧
    decodeSlot (fullWord 0x071) = some (.vrsqrt fullSlot) ∧
    decodeSlot (fullWord 0x072) = some (.vexp2 fullSlot) ∧
    decodeSlot (fullWord 0x073) = some (.vlog2 fullSlot) ∧
    decodeSlot (fullWord 0x078) = some (.vrsum fullSlot) ∧
    decodeSlot (fullWord 0x079) = some (.vrmax fullSlot) ∧
    decodeSlot (fullWord 0x07A) = some (.vrmin fullSlot) ∧
    decodeSlot (fullWord 0x07B) = some (.vrdot fullSlot) ∧
    decodeSlot (fullWord 0x080) = some (.vrep fullSlot) ∧
    decodeSlot (fullWord 0x081) = some (.vperm fullSlot) ∧
    decodeSlot (fullWord 0x082) = some (.vperm2 fullSlot) ∧
    decodeSlot (fullWord 0x083) = some (.vrot fullSlot) := by decide +kernel
theorem test_slot_words_4 :
    decodeSlot (fullWord 0x084) = some (.vzipl fullSlot) ∧
    decodeSlot (fullWord 0x085) = some (.vziph fullSlot) ∧
    decodeSlot (fullWord 0x086) = some (.vuzpe fullSlot) ∧
    decodeSlot (fullWord 0x087) = some (.vuzpo fullSlot) ∧
    decodeSlot (fullWord 0x088) = some (.vins fullSlot) ∧
    decodeSlot (fullWord 0x089) = some (.vext fullSlot) ∧
    decodeSlot (fullWord 0x08A) = some (.vbitrev fullSlot) ∧
    decodeSlot (fullWord 0x08B) = some (.vbfly fullSlot) ∧
    decodeSlot (fullWord 0x08C) = some (.vbflyt fullSlot) ∧
    decodeSlot (fullWord 0x100) = some (.mload fullSlot) ∧
    decodeSlot (fullWord 0x101) = some (.mzero fullSlot) ∧
    decodeSlot (fullWord 0x102) = some (.mband fullSlot) ∧
    decodeSlot (fullWord 0x103) = some (.mdrain fullSlot) ∧
    decodeSlot (fullWord 0x104) = some (.mstat fullSlot) ∧
    decodeSlot (fullWord 0x108) = some (.mmaBf16 fullSlot) ∧
    decodeSlot (fullWord 0x109) = some (.mmaFp16 fullSlot) ∧
    decodeSlot (fullWord 0x10A) = some (.mmaFp8 fullSlot) ∧
    decodeSlot (fullWord 0x10B) = some (.mmaFp4 fullSlot) ∧
    decodeSlot (fullWord 0x10C) = some (.mmaI8 fullSlot) ∧
    decodeSlot (fullWord 0x200) = some (.pass fullSlot) := by decide +kernel
theorem test_slot_words_5 :
    decodeSlot (fullWord 0x201) = some (.drop fullSlot) ∧
    decodeSlot (fullWord 0x202) = some (.delay fullSlot) ∧
    decodeSlot (fullWord 0x203) = some (.steer fullSlot) ∧
    decodeSlot (fullWord 0x204) = some (.filt fullSlot) ∧
    decodeSlot (fullWord 0x205) = some (.repl fullSlot) ∧
    decodeSlot (fullWord 0x206) = some (.mergeO fullSlot) ∧
    decodeSlot (fullWord 0x207) = some (.mergeC fullSlot) ∧
    decodeSlot (fullWord 0x208) = some (.mergeU fullSlot) ∧
    decodeSlot (fullWord 0x209) = some (.joinLt fullSlot) ∧
    decodeSlot (fullWord 0x20A) = some (.joinEq fullSlot) ∧
    decodeSlot (fullWord 0x20B) = some (.joinGt fullSlot) ∧
    decodeSlot (fullWord 0x20C) = some (.cnt fullSlot) ∧
    decodeSlot (fullWord 0x20D) = some (.lastm fullSlot) ∧
    decodeSlot (fullWord 0x20E) = some (.tagset fullSlot) ∧
    decodeSlot (fullWord 0x20F) = some (.tagchk fullSlot) ∧
    decodeSlot (fullWord 0x210) = some (.cmpx fullSlot) ∧
    decodeSlot (fullWord 0x211) = some (.accRst fullSlot) ∧
    decodeSlot (fullWord 0x220) = some (.lsld fullSlot) ∧
    decodeSlot (fullWord 0x221) = some (.lsst fullSlot) ∧
    decodeSlot (fullWord 0x300) = some (.ldSlot fullSlot) := by decide +kernel
theorem test_slot_words_6 :
    decodeSlot (fullWord 0x301) = some (.stSlot fullSlot) ∧
    decodeSlot (fullWord 0x302) = some (.gather fullSlot) ∧
    decodeSlot (fullWord 0x303) = some (.scatter fullSlot) ∧
    decodeSlot (fullWord 0x304) = some (.amoAddSlot fullSlot) ∧
    decodeSlot (fullWord 0x305) = some (.amoMinSlot fullSlot) ∧
    decodeSlot (fullWord 0x306) = some (.amoMaxSlot fullSlot) ∧
    decodeSlot (fullWord 0x307) = some (.amoAndSlot fullSlot) ∧
    decodeSlot (fullWord 0x308) = some (.amoOrSlot fullSlot) ∧
    decodeSlot (fullWord 0x309) = some (.amoXorSlot fullSlot) ∧
    decodeSlot (fullWord 0x30A) = some (.amoXchgSlot fullSlot) ∧
    decodeSlot (fullWord 0x30B) = some (.amoCasSlot fullSlot) ∧
    decodeSlot (fullWord 0x30C) = some (.osecB fullSlot) ∧
    decodeSlot (fullWord 0x30D) = some (.osecE fullSlot) ∧
    decodeSlot (fullWord 0x30E) = some (.fenceM fullSlot) ∧
    decodeSlot (fullWord 0x30F) = some (.hrecv fullSlot) ∧
    decodeSlot (fullWord 0x310) = some (.hacc fullSlot) ∧
    decodeSlot (fullWord 0x311) = some (.flres fullSlot) := by decide +kernel
theorem test_unassigned_opcodes : ∀ op ∈ [0x00B, 0x01F, 0x02F, 0x049, 0x058, 0x065, 0x074, 0x07C, 0x08D, 0x105, 0x10D, 0x212, 0x222, 0x312, 0x3FF],
    decodeSlot (fullWord op) = none := by decide +kernel
theorem test_slot_word_vfma : decodeSlot 0x02000000000100C0C04B049C80000000 =
    some (.vfma { blank with inmask := 0x0200, dst := 3, a := 1, b := 0x2C, c := 0x12, fmt := 7, rnd := 1 }) := by decide +kernel
theorem test_slot_word_mma_fp4 : decodeSlot 0x00000000000142D4400006E803D00000 =
    some (.mmaFp4 { blank with dst := 0x51, c := 0x1B, fmt := 0xA, md := 0x3D0 }) := by decide +kernel
theorem test_slot_word_ld : decodeSlot 0x800000080001C00D1180000C00550005 =
    some (.ldSlot { blank with inmask := 0x8000, outmask := 8, dst := 0x34, a := 0x46, fmt := 3, md := 0x55, imm := 5 }) := by decide +kernel
theorem test_table_words : decodeTableWord 32 0xE0094440 = some (.xinvVa 9 0) ∧ decodeTableWord 32 0xE009C440 = some (.xinvVa 9 1) ∧
    decodeTableWord 128 (fullWord 0x200) = some (.pass fullSlot) ∧ decodeTableWord 16 0 = none := by decide +kernel

/-! ### Worked examples of the spec: each result is the one its example gives -/

/-- The state of a next outcome; the reset state elsewhere. -/
def after (o : Out) : State :=
  match o with
  | .next s => s
  | _ => .reset

/-- The registers of core 0 after an instruction. -/
def coreAfter (i : Instr) (c : CC) : CC := ccOf (after (exec i (coreSite c))).fab 0

/-- 09, the example under R254: x6 = -7 and x5 = 2. -/
theorem test_divide_examples :
    let c := core2 (-7) 2
    rget (coreAfter (.div 3 1 2 0 0) c) 3 = -3 ∧ rget (coreAfter (.rem 3 1 2 0 0) c) 3 = -1 ∧
      rget (coreAfter (.divu 3 1 2 0 0) c) 3 = 0x7FFFFFFFFFFFFFFC := by decide +kernel
/-- 09, the example under R254. -/
theorem test_clz_sraw_examples :
    rget (coreAfter (.clz 3 2 0 0 0) (core2 (-7) 2)) 3 = 62 ∧ rget (coreAfter (.sraw 3 1 2 0 0) (core2 (-7) 2)) 3 = 0xFFFFFFFFFFFFFFFE := by
  decide +kernel
/-- 09, the example under R249: the tagged source a is empty and the add traps with TVAL its number, though b is empty too. -/
theorem test_empty_register_example :
    let c := coreAfter (.add 7 6 5 1 0) { core2 0 0 with full := 0xFFFFFF9F, tvec := 0x40, pc := 0x10 }
    c.tval = 6 ∧ c.tepc = 0x10 ∧ c.pc = 0x40 := by decide +kernel
/-- 09, the example under R258: MISALIGN with TVAL 0xFFFC, and PROT below address 0. -/
theorem test_store_address_examples :
    (coreAfter (.sd 1 2 0 0 (-8)) (core2 5 0x10004)).tval = 0xFFFC ∧
      (coreAfter (.sd 1 2 0 0 (-8)) (core2 5 0)).tcause ≠ (coreAfter (.sd 1 2 0 0 (-8)) (core2 5 0x10004)).tcause := by decide +kernel
/-- 09, the example under R262: x3 is owed, x4 full, and the mask is 0x18. -/
theorem test_fe_any_example :
    let c : CC := { core2 0x18 0 with full := 0xFFFFFFF7, owed := 0x8 }
    rget (coreAfter (.feAny 8 1 0 0 0) c) 8 = 0x10 := by decide +kernel

/-- A line with the same 16-bit lane throughout. -/
def lanes16 (x : BitVec 16) : Line := BitVec.ofNat 512 (x.toNat * ((2 ^ 512 - 1) / (2 ^ 16 - 1)))
/-- A line whose first 32-bit lanes are as given. -/
def lanes32 (l : List Nat) : Line := BitVec.ofNat 512 ((List.range l.length).foldl (fun a i => a + l.getD i 0 * 2 ^ (32 * i)) 0)
/-- Vector registers v0, v1, v2 of the present plane. -/
def vecs (a b c : Line) : Elem → Elem := setRun fun r => { r with v := [(0, a), (1, b), (2, c)] }
/-- The vector result of the present tile cycle. -/
def vecOut (op : Nat) (i : Instr) (w : Slot) (g : Elem → Elem) : Option Line :=
  (elemOf (after (exec i (slotSite op w g))).fab (fetchKey op)).pend.findSome? fun q =>
    match q.2 with
    | .v _ _ x => some x
    | _ => none
/-- Lane n of width b of a result. -/
def lane (b n : Nat) (l : Option Line) : Option Nat := l.map fun x => x.toNat / 2 ^ (b * n) % 2 ^ b

/-- 11, the example under R319: -5 shifted by 1 under RNE, RTZ, RDN, RUP and RNA. -/
theorem test_vsra_example : (List.range 5).map (fun r =>
    let w : Slot := { vecSlot 2 with c := 0, rnd := BitVec.ofNat 3 r }
    lane 16 3 (vecOut 0x02A (.vsra w) w (vecs (lanes16 0xFFFB) (lanes16 1) 0))) =
      [some 0xFFFE, some 0xFFFE, some 0xFFFD, some 0xFFFE, some 0xFFFD] := by decide +kernel
/-- 11, the example under R320: one lane of complex multiply-accumulate, with and without saturation. -/
theorem test_vcmac_example : [(1, 0), (1, 1), (0, 0)].map (fun q =>
    let w : Slot := { vecSlot 4 with imm := 15, sat := BitVec.ofNat 1 q.1, rnd := BitVec.ofNat 3 q.2 }
    lane 32 0 (vecOut 0x043 (.vcmac w) w (vecs (lanes32 [0x20014000]) (lanes32 [0xC0004000]) (lanes32 [0x6000])))) =
      [some 0xF0007FFF, some 0xF0017FFF, some 0xF0009000] := by decide +kernel
/-- 11, the example under R322, and 03, the example under R89: FP32 to E4M3 into quarter 2. -/
theorem test_vcvt_example : [(0x43960000, 0, 0), (0x43960000, 0, 3), (0x43FA0000, 0, 0), (0x43FA0000, 1, 0), (0x43E60000, 0, 0)].map (fun q =>
    let w : Slot := { cvtSlot 8 7 2 with sat := BitVec.ofNat 1 q.2.1, rnd := BitVec.ofNat 3 q.2.2 }
    lane 8 32 (vecOut 0x060 (.vcvt w) w (vecs (lanes32 [q.1]) 0 0))) =
      [some 0x79, some 0x7A, some 0x7F, some 0x7E, some 0x7E] := by decide +kernel
/-- 11, the example under R326: the reduction tree rounds level by level. -/
theorem test_vrsum_example :
    let w : Slot := { vecSlot 7 with b := 0, c := 0 }
    lane 32 0 (vecOut 0x078 (.vrsum w) w (vecs (lanes32 (0x4B800000 :: List.replicate 15 0x3F800000)) 0 0)) = some 0x4B800007 := by decide +kernel
/-- 11, the example under R329. -/
theorem test_vbflyt_example : [0, 1].map (fun scl =>
    let w : Slot := { vecSlot 4 with c := 0, md := BitVec.ofNat 10 scl }
    let x := vecOut 0x08C (.vbflyt w) w (vecs (lanes32 [0x4000, 0x20002000]) (lanes32 [0, 0x80000000]) 0)
    (lane 32 0 x, lane 32 1 x)) = [(some 0xE0006000, some 0x20002000), (some 0xF0003000, some 0x10001000)] := by decide +kernel
/-- 11, the example under R325. -/
theorem test_vrsqrt_vlog2_example :
    (let w : Slot := { vecSlot 7 with b := 0, c := 0, sat := 1 }
     lane 32 0 (vecOut 0x071 (.vrsqrt w) w (vecs (lanes32 [0x80000000]) 0 0)) = some 0xFF7FFFFF) ∧
      (let w : Slot := { vecSlot 7 with b := 0, c := 0, rnd := 2 }
       lane 32 0 (vecOut 0x073 (.vlog2 w) w (vecs (lanes32 [0x3F800000]) 0 0)) = some 0) := by decide +kernel

/-- 12, the example under R345: rows of FP4 packs whose block 3 holds the bytes given, block scale 1.0. -/
def packRow (b : Nat) : Half :=
  { full := true, owner := some 0, rows := [(0, BitVec.ofNat 512 (b * 2 ^ 120 + 0x60 * 2 ^ 152))], tags := (List.range 8).map fun i => (i, 0x7F0A) }
theorem test_mma_fp4_example :
    let s := slotSite 0x10B (mmaSlot 6) fun e =>
      let e := setRun (fun r => { r with m := [(0, { cells := [(0, 0x4B800000)], cap := true })] }) e
      { e with ct := { e.ct with halves := [(0, packRow 0x22), (1, packRow 0x12)] } }
    tget 0 (accOf (seen (after (exec (.mmaFp4 (mmaSlot 6)) s)) 0x10B (mmaSlot 6)) 0x50).cells 0 = 0x4B800001 := by decide +kernel
/-- 12, the example under R348: bands 0.25 and 2.0. -/
theorem test_mdrain_example :
    let w : Slot := { blank with a := 0x50, dst := 4, fmt := 7 }
    lane 32 0 (vecOut 0x103 (.mdrain w) w (setRun fun r => { r with m := [(0, { cells := [(0, 0x4B800001)], ba := 0x3E80, bb := 0x4000 })] })) =
      some 0x4B000001 := by decide +kernel

/-! ### Digests and signatures (23 R498, R499; examples of FIPS 180-4 and RFC 8032) -/

/-- A number written with its first byte highest, as bytes from the first. -/
def firstHigh (n v : Nat) : Nat := bytesNat (natBytes n v).reverse

theorem test_sha512_abc :
    sha512 [0x61, 0x62, 0x63] = BitVec.ofNat 512 (firstHigh 64
      0xDDAF35A193617ABACC417349AE20413112E6FA4E89A97EA20A9EEEE64B55D39A2192992A274FC1A836BA3C23A3FEEBBD454D4423643CE80E2A9AC94FA54CA49F) := by
  decide +kernel

/-- The seed of the first example of RFC 8032. -/
def exSeed : BitVec 256 := BitVec.ofNat 256 (firstHigh 32 0x9D61B19DEFFD5A60BA844AF492EC2CC44449C5697B326919703BAC031CAE7F60)

theorem test_ed25519_sign :
    ed25519Public exSeed = BitVec.ofNat 256 (firstHigh 32 0xD75A980182B10AB7D54BFED3C964073A0EE172F3DAA62325AF021A68F707511A) ∧
    ed25519Sign exSeed [] = BitVec.ofNat 512 (firstHigh 64
      0xE5564300C360AC729086E2CC806E828A84877F1EB8E5D974D873E065224901555FB8821590A33BACC61E39701CF9B46BD25BF5F0595BBE24655141438E7A100B) := by
  decide +kernel

/-- A partition image without a body under an owner key, with the SIG that sig makes of its DIGEST. -/
def exImage (sig : List Byte → BitVec 512) : List Byte :=
  let h := natBytes 64 (0x4D464C47 + 2 * 2 ^ 32 + 4 * 2 ^ 48)
  let d := natBytes 64 (sha512 h).toNat
  h ++ d ++ natBytes 64 (sig d).toNat ++ natBytes 64 0

/-- Partition 1 has the example's key as its owner key, and the floor of KIND 2 is 0. -/
def exSec : Sec := { (default : Sec) with ownerKeys := [(1, ed25519Public exSeed)], floors := [(2, 0)] }

theorem test_owner_image :
    vcode exSec 2 (some 1) (exImage (ed25519Sign exSeed)) = 0 ∧ vcode exSec 2 (some 1) (exImage fun d => ed25519Sign exSeed (1 :: d)) = 5 ∧
    vcode exSec 2 (some 0) (exImage (ed25519Sign exSeed)) = 2 := by decide +kernel

/-! ### Rescan of a plane (15 R415) -/

/-- A region whose element (1, 1) has a failing frame 2, loaded from the image at 0x1040 (header, one group, one frame, end
frame), whose lines the hub has read. -/
def mendSite : State :=
  let id : ImgId := { fn := 0, image := 0x1040, w := 1, h := 1, x0 := 0, y0 := 0, imageid := 0 }
  let image := (2 ^ 248 + 2 ^ 240 + 2 ^ 236 + 2 ^ 232 + 2 ^ 192 + 4 * 2 ^ 160) +
    (2 * 2 ^ 248 + 2 ^ 247 + 2 ^ 235 + 2 ^ 228 + 2 * 2 ^ 215 + 2 ^ 201) * 2 ^ 256 + 0x1234 * 2 ^ 512 + 3 * 2 ^ 248 * 2 ^ 768
  let rx : HubX := { lines := [((0, 0x41), BitVec.ofNat 512 image), ((0, 0x42), BitVec.ofNat 512 (image / 2 ^ 512))] }
  tableSite { elems := [(11, { planes := [(0, { st := .bound, img := some id, bad := [2] })] })]
              regions := [(0, { fetchRegion .reset with phase := 1, restart := true, rx := rx })] }

theorem test_rescan_mends :
    (rescanPair mendSite 0).2 = .done ∧
    (let p := planeOf (elemOf (rescanPair mendSite 0).1.fab 11) 0
     p.bad = [] ∧ tget 0 p.frames 2 = 0x1234) := by decide +kernel

/-! ### BRKSKIP (15 R425) -/

/-- The next firing of the stopped slot ignores BRK once, and the one after it stops again. -/
theorem test_brkskip_once :
    let w : Slot := { passSlot with brk := 1 }
    let s := slotSite 0x200 w fun e => modPlane e 0 fun p => { p with brkskip := true, brkslot := 0 }
    brkDue (elemOf s.fab 11) 11 0 0 = false ∧ brkDue (elemOf (began s 0x200 w) 11) 11 0 0 = true ∧
      brkDue (modPlane (elemOf s.fab 11) 0 fun p => { p with brkslot := 1 }) 11 0 0 = true := by decide +kernel

/-! ### Further clauses: a state for each that meets its hypotheses -/

theorem witness_step_conditions :
    (ccOf (State.reset.withFetchWord 32 0x00E62C00).fab 0).bad.contains ((ccOf (State.reset.withFetchWord 32 0x00E62C00).fab 0).pc.toNat / 8) = false ∧
      (Requester.host 0 0).wf = true ∧ (let s := State.reset.withFetchWord 128 (slotWord 0x200 passSlot)
        breakNow s.fab 11 = none) ∧
      (let s := slotSite 0x200 { passSlot with brk := 1 } fun e => modPlane e 0 fun p => { p with brkskip := false }
       breakNow s.fab 11 = some (0, 0)) := by decide +kernel

/-- Slot 0 of planes 0 and 1 ready, each aged as given, plane 0 and plane 1 drift planes or not, with stage entries of these priorities over slot 0. -/
def twoPlanes (age0 age1 : Nat) (drift0 drift1 : Bool) (st0 st1 : Option Nat) (succ0 : Bool) : Fab :=
  let frames (d : Bool) : Tab (BitVec 256) := [(0, BitVec.ofNat 256 (slotWord 0x200 passSlot)), (44, if d then 0x10 else 0)]
  let stages (o : Option Nat) : List StageE := o.toList.map fun n => { stageEntry false with w3 := 1, prio := n }
  let f := (slotSite 0x200 passSlot (heads [(0x40, [word 1, { word 2 with ctx := 1 }])])).fab
  let f := modRegion f 0 fun r => { r with ctxs := [(0, {}), (1, {})] }
  modElem f 11 fun e =>
    let e := modPlane e 0 fun p => { p with frames := frames drift0, stages := stages st0, succ := succ0, run := { p.run with slots := [(0, { age := some age0 })] } }
    modPlane e 1 fun p => { (planeOf e 0) with frames := frames drift1, stages := stages st1, succ := false, run := { p.run with slots := [(0, { age := some age1 })] } }

theorem witness_arbiter_clauses :
    (∀ q ∈ [(3, 5, false, false, none, none, false), (5, 5, false, false, none, some 4, false), (5, 5, false, false, some 4, some 16, false),
        (5, 5, false, false, none, none, true), (5, 5, false, false, none, none, false)],
      let f := twoPlanes q.1 q.2.1 q.2.2.1 q.2.2.2.1 q.2.2.2.2.1 q.2.2.2.2.2.1 q.2.2.2.2.2.2
      (0, 0) ∈ readySlots f 11 .movement ∧ (chooseSlot f 11 .movement).isSome = true) ∧
    readySlots (elemSite 11 {}).fab 11 .movement = [] := by decide +kernel

theorem witness_bad_sram :
    let s := coreSite { core2 8 9 with bad := [2 ^ 32 + 1] }
    ¬sramGood s 8 1 ∧ (cc s).acq = none ∧ allFull s [1] ∧ notOwed s 3 := by
  unfold sramGood allFull notOwed; decide +kernel
theorem witness_empty_source_forms :
    let s := coreSite { coreGaps 5 7 with tstat := 1 }
    (∀ i ∈ [Instr.add 4 3 2 1 0, .clz 4 3 2 1 0, .addi 4 3 1 0, .lw 4 3 1 0, .sw 1 3 1 0 0, .beq 3 2 1 0 0, .jalr 4 3 1 0, .csrrw 4 3 1 1, .csrrs 4 3 1 1, .vbind 3 1 0, .sbind 1 3 1 0,
        .lease 1 3 1, .kwr 3 1, .xinvVa 3 1, .wcommit 1 3 1, .copy 1 3 1 0],
      ((coreSources i).bind fun l => l.find? fun x => x.2 == 1 && !isFull (cc s) x.1.toNat) = some (3, 1)) ∧
    plainDest (.add 4 1 2 0 0) = some (some 4) ∧ isOwed (cc s) 4 = true := by
  decide +kernel
theorem witness_sources_due_of_commands :
    let s := coreSite { coreGaps 5 7 with tstat := 1 }
    sourcesDue s (.csrrw 4 3 1 1) ∧ sourcesDue s (.csrrs 4 3 1 1) ∧ sourcesDue s (.vbind 3 1 0) ∧ sourcesDue s (.sbind 1 3 1 0) ∧ sourcesDue s (.lease 1 3 1) ∧
      sourcesDue s (.kwr 3 1) ∧ sourcesDue s (.add 4 3 2 1 0) := by
  simp only [sourcesDue, csrPasses]
  refine ⟨?_, ?_, ?_, ?_, ?_, ?_, trivial⟩ <;> decide +kernel
theorem witness_csr_checks :
    (∀ s, s = coreSite (core2 3 0) → csrPasses s 1 1 0x001 ∧ csrPasses s 2 1 0x001 ∧ csrPasses s 3 1 0x010 ∧ csrPasses s 2 0 0x020 ∧ csrPasses s 3 0 0x010) ∧
    csrGuarded 0x7FF = false ∧ csrRo 0x7FF = false ∧ csrRo 0x020 = true ∧ csrGuarded 0x001 = true ∧ csrRo 0x001 = false ∧
      ∀ op ∈ [Instr.csrrw 3 1 0 0x7FF, .csrrs 3 1 0 0x010, .csrrc 3 1 0 0x020], (encodeWord op).isSome = true := by
  refine ⟨?_, by decide +kernel⟩
  rintro s rfl
  unfold csrPasses
  refine ⟨?_, ?_, ?_, ?_, ?_⟩ <;> decide +kernel
theorem witness_double_traps :
    let s := coreSite { core2 0x20001 3 with tstat := 0x10, full := 0xFFFFFFF7 }
    ccTa (cc s) = true ∧ (cc s).acq = none ∧ allFull s [1] ∧ allFull s [1, 2] ∧ 2 ^ 17 ≤ (val s 1 + (0 : BitVec 15).signExtend 64).toNat ∧
      (val s 2 + (0 : BitVec 15).signExtend 64).toNat % 2 ≠ 0 ∧ allFull s [2] ∧ isFull (cc s) 3 = false ∧
      ((val s 2 + (0 : BitVec 15).signExtend 64).setWidth 16 : BitVec 16).toNat % 4 ≠ 0 ∧ regionOf s.fab s.site.core = some (0, fetchRegion .reset) := by
  unfold allFull; decide +kernel
theorem witness_system_frame :
    let s := coreSite { core2 64 0 with dsram := [], sinks := [] }
    ccTa (cc s) = false ∧ (∃ t, exec (.feClr 3 0 0 0 0) s = .next t) ∧ (∃ t, exec (.feTake 3 1 0 0 0) s = .next t) ∧ (∃ t, exec (.tret 0 0 0 0 0) s = .next t) ∧
      (∃ t, exec (.csrrw 3 1 0 1) s = .next t) ∧ (∃ t, exec (.csrrs 3 1 0 1) s = .next t) ∧ (∃ t, exec (.csrrc 3 1 0 1) s = .next t) ∧
      (∀ i ∈ [Instr.inject 1 0 0 0, .vend 0 0 0, .rdout 3 0 0 0, .aflush 3 1 0 0, .fencePl 0 0, .swap 3 1 0, .lease 3 1 0, .xinvVa 1 0], commandReply i ≠ none) ∧
      ∃ t, exec (.fencePl 0 0) s = .next t := by
  exact ⟨by decide +kernel, ⟨_, rfl⟩, ⟨_, rfl⟩, ⟨_, rfl⟩, ⟨_, rfl⟩, ⟨_, rfl⟩, ⟨_, rfl⟩, by decide +kernel, ⟨_, rfl⟩⟩

theorem witness_half_fills : (0x0FFFFFFF : BitVec 32) ||| BitVec.ofNat 32 (15 * 16 ^ 7) = BitVec.allOnes 32 := by decide +kernel
theorem witness_mband_integer :
    let w : Slot := { blank with a := 0x10, dst := 0x53 }
    let s := slotSite 0x102 w (setRun fun r => { r with m := [(3, { int := true })] })
    fires s 0x102 w ∧ (accOf (seen s 0x102 w) 0x53).int = true := by
  unfold fires; decide +kernel

/-- The drain's site with A0 and A1 as given and these fills of the local store. -/
def drainWith (a0 a1 : Nat) (l : List LsFill) : State :=
  slotSite 0x103 drainSlot fun e => pair a0 a1 (setRun (fun r => { r with m := [(0, { int := true })] }) { e with ct := { e.ct with fills := l } })

theorem witness_mdrain_clauses :
    (let s := drainWith 4 0 [{ half := some 0, plane := 0, readers := 1, reads := [(lsBanks 0 4 64, 0)] }]
     let x := seen s 0x103 drainSlot
     pairOf x 0x18 = (4, 0) ∧ bit drainSlot.md.toNat 0 = true ∧ ∃ g ∈ x.e.ct.fills, ∃ r ∈ g.reads, ∃ b ∈ r.1, b ∈ lsBanks (pRot 0) ((pBase 4 + 0 * pPitch 4) % 2 ^ 17) 64) ∧
    (let w : Slot := { drainSlot with fmt := 7 }
     let s := slotSite 0x103 w fun e => pair 4 0 (setRun (fun r => { r with m := [(0, { int := true })] }) e)
     fires s 0x103 w ∧ (w.fmt == 3) ≠ (accOf (seen s 0x103 w) 0x50).int ∧ (seen s 0x103 w).e.ct.fills = []) ∧
    (fires (drainWith 4 (2 ^ 20) []) 0x103 drainSlot ∧ pairOk (pairOf (seen (drainWith 4 (2 ^ 20) []) 0x103 drainSlot) 0x18).2 = false) ∧
    (fires (drainWith 2 0 []) 0x103 drainSlot ∧ pairOf (seen (drainWith 2 0 []) 0x103 drainSlot) 0x18 = (2, 0) ∧ (pBase 2 + 0 * pPitch 2) % 2 ^ 17 % 4 ≠ 0) := by
  unfold fires; decide +kernel

/-- hacc's site with a firn entry of its address, sound or failing. -/
def firnSite (bad : Bool) : State := slotSite 0x310 haccSlot fun e => { e with firn := [{ ctx := 0, addr := 0, acop := 0, fmt := 7, data := 1, bad := bad }] }

theorem witness_accumulate_entry : ∀ bad ∈ [true, false],
    fires (firnSite bad) 0x310 haccSlot ∧ accCheck (began (firnSite bad) 0x310 haccSlot) 0 0 0 0 7 = none ∧
      (firnFind (seen (firnSite bad) 0x310 haccSlot).e.firn 0 0 0 7).map (fun y => y.bad) = some bad := by
  unfold fires; decide +kernel
theorem witness_twins :
    let s := slotSite 0x210 cmpxSlot (heads [(0x40, [word 1]), (0x42, [word 1])])
    fires s 0x210 cmpxSlot ∧ headOf (seen s 0x210 cmpxSlot).e 0x40 = some (word 1) ∧ headOf (seen s 0x210 cmpxSlot).e 0x42 = some (word 1) := by
  unfold fires; decide +kernel

theorem witness_tile_frame :
    (let q : MemReq := { op := 0x301, bank := 5, size := 8 }
     let s := elemSite 10 { mt := { bankq := [(5, [q])], start := [(5, 1)] } }
     tget [] (elemOf s.fab 10).mt.bankq 5 = [q] ∧ reqWrites q = true ∧ ¬reqCovers q 0 ∧ reqCovers q (bankByte 5 0)) ∧
    (let r : MemReq := { op := 0x301, bank := 2, size := 8, sec := true }
     ((elemOf (retireSite [r] []).fab 10).mt.sects.flatMap fun y => y.writes) = [r] ∧ ¬reqCovers r 0) ∧
    (elemOf (elemSite 11 { pend := [(.memory, .ls 0 0 0 64 8 5)] }).fab 11).pend = [(.memory, .ls 0 0 0 64 8 5)] ∧ lsPhys 0 64 ≠ 0 := by
  unfold reqCovers; decide +kernel
theorem witness_tile_steps :
    (∃ t, exec (.bounceArrival 11 0x20) (elemSite 11 {}) = .next t) ∧ (∃ t, exec (.creditArrival 0) (elemSite 11 {}) = .next t) ∧
      (∃ t, exec (.swapTick 0) State.reset = .next t) ∧ (∃ t, exec (.bankAccept 10 5) (elemSite 10 {}) = .next t) ∧
      ∃ t, exec (.sectionRetire 10 0 0) (elemSite 10 {}) = .next t := ⟨⟨_, rfl⟩, ⟨_, rfl⟩, ⟨_, rfl⟩, ⟨_, rfl⟩, ⟨_, rfl⟩⟩

theorem witness_invariants :
    MemoriesCanonical pulseNext ∧ ZeroRegisterHolds pulseNext ∧ (∃ t, step pulseNext = .next t) ∧
      (let s := { coreSite (coreGaps 0 0) with agenda := [.event (.registerFill 0)] }
       OwedAreEmpty s ∧ ZeroRegisterHolds s ∧ MemoriesCanonical s) ∧
      ∃ t, step { coreSite (coreGaps 0 0) with agenda := [.event (.registerFill 0)] } = .next t := by
  refine ⟨by unfold MemoriesCanonical; decide +kernel, by unfold ZeroRegisterHolds; decide +kernel, ⟨_, rfl⟩, ?_, ⟨_, rfl⟩⟩
  unfold OwedAreEmpty ZeroRegisterHolds MemoriesCanonical; decide +kernel

theorem witness_sources_due :
    let r := { fetchRegion .reset with ctxs := [(0, {})] }
    let s := elemSite 11 {} fun _ => r
    region? s.fab 0 = some r ∧ ctxLive r 0 = true ∧ r.phase = 0 ∧ (launchOf s.fab 0 0 r).2.startDue = [] := by decide +kernel
theorem witness_commit_fails :
    let h : Held := { held3 with bad := true }
    let s := elemSite 1 { modRun (markElem {}) 0 (fun r => { r with round := 1 }) with ag := { hold := [h] } }
    (ctxPair s.fab 0 0).head? = some 0 ∧ (commitBad s.fab 0 0).map (fun q => q.1) = some 1 := by decide +kernel
theorem witness_drift_replay :
    (region? (partSite onePart 0 (hostRegions id fun d => { d with restart := true })).fab 1).any (fun r => r.restart && r.owner.isSome) = true := by decide +kernel
theorem witness_drift_relend :
    let s0 := driftRegions false
    let s := { s0 with fab := modRegion s0.fab 1 fun d => { d with ownFault := true } }
    (driftIn s.fab 0 1).map (fun q => (q.1, q.2.ownFault)) = some (1, true) := by decide +kernel

theorem witness_boot_steps :
    (∀ st ∈ [0, 1, 2], ({ State.reset with sec := { stage := st } } : State).sec.stage = st) ∧ State.reset.sec.supply = true ∧
      ({ State.reset with sec := { supply := false } } : State).sec.supply = false := by decide +kernel
theorem witness_audit :
    (∀ n ∈ [0, 39, 40], (auditOf (modAudit State.reset.fab 0 0 fun a => { a with cyc := some n }) 0 0).cyc = some n) ∧
      (auditOf State.reset.fab 0 0).cyc = none ∧ auditDue State.reset 0 0 = false ∧ auditDue { State.reset with clk := { dtime := 0x100000 } } 0 0 = true ∧
      auditWaits State.reset.fab 0 = false ∧ auditWaits (elemSite 11 {}).fab 0 = true ∧ (auditOf State.reset.fab 0 0).pend = false ∧
      (auditOf (modAudit State.reset.fab 0 0 fun a => { a with pend := true, quiet := 64 }) 0 0).quiet = 64 := by decide +kernel
theorem witness_device_time_refused :
    let s : State := { partSite onePart with sec := { ready := true } }
    s.sec.ready = true ∧ ∃ p ∈ [0, 1, 2, 3], (partOf s.hub p).prstState ≠ 0 := by decide +kernel
theorem witness_safe_state :
    ({ State.reset with sec := { stage := 4 } } : State).sec.stage = 4 ∧
      (let s := { mailSite mbFwstage.op mbFwstage.len (mputN [] 0 1 3) with sec := { stage := 3, ready := true } }
       mailboxTakes s 0 mbFwstage ∧ mbReq (partOf s.hub 0) 0 8 = 3 ∧ s.sec.stage ≠ 4) ∧
      (let s := mailSite mbFwstage.op mbFwstage.len (mputN [] 0 1 2) 4
       mailboxTakes s 0 mbFwstage ∧ s.sec.stage = 4 ∧ mbReq (partOf s.hub 0) 0 8 ≠ 1) ∧
      ({ State.reset with sec := { stage := 3 } } : State).sec.stage = 3 := by
  unfold mailboxTakes; decide +kernel
theorem witness_purge :
    (let s := elemSite 11 { planes := [(0, { st := .retiring })] } fun r => { r with ctxs := [(0, { stray := true })] }
     (region? s.fab 0).any (fun g => (ctxOf g 0).stray && ctxLive g 0 && (planeKeys g).any (fun k => (planeOf (elemOf s.fab k) 0).st == .retiring) &&
       (planeKeys g).all fun k => (planeOf (elemOf s.fab k) 0).st != .bound) = true) ∧
      (let s := elemSite 11 { planes := [(0, { st := .bound })] } fun r => { r with ctxs := [(0, { stray := true })] }
       (region? s.fab 0).any (fun g => (planeKeys g).any fun k => (planeOf (elemOf s.fab k) 0).st == .bound) = true) := by decide +kernel
theorem witness_absent_unit : reach (partSite onePart) (.host 0 0) (mmioPlace 0x100000003) ≠ .absent := by decide +kernel
end Sys2Proof.Tests
end

section
/-! SUPPORT. Every step keeps every memory in canonical form (01 R13, log 3): one lemma for each function of the model through which a step passes
from state to state, in the order of the model. -/

namespace Sys2Proof.Machine

/-! ### Canonical form, part by part -/

/-- The bank storage of a memory tile is canonical. -/
structure MtSt.Canon (m : MtSt) : Prop where
  data : memWf m.data = true

/-- The local store of a compute tile is canonical. -/
structure CtSt.Canon (c : CtSt) : Prop where
  ls : memWf c.ls = true

/-- The operand block of a command of an AG node is canonical. -/
structure AgCmd.Canon (c : AgCmd) : Prop where
  block : memWf c.block = true

/-- Every entry of a list has a property. -/
def ListAll {α : Type} (P : α → Prop) (l : List α) : Prop := ∀ x ∈ l, P x

/-- The stream buffer of an AG node and the blocks of its commands are canonical. -/
structure AgSt.Canon (a : AgSt) : Prop where
  buf : memWf a.buf = true
  inbox : ListAll AgCmd.Canon a.inbox

/-- The memories of an element are canonical. -/
structure Elem.Canon (e : Elem) : Prop where
  mt : e.mt.Canon
  ct : e.ct.Canon
  ag : e.ag.Canon

/-- The SRAMs of a control core are canonical. -/
structure CC.Canon (c : CC) : Prop where
  isram : memWf c.isram = true
  dsram : memWf c.dsram = true

/-- The mailbox buffer of a partition is canonical. -/
structure Part.Canon (p : Part) : Prop where
  mbuf : memWf p.mbuf = true

/-- Every entry of a table has a property. -/
def TabAll {α : Type} (P : α → Prop) (t : Tab α) : Prop := ∀ q ∈ t, P q.2

/-- The mailbox buffers of the hub are canonical. -/
structure Hub.Canon (h : Hub) : Prop where
  parts : TabAll Part.Canon h.parts

/-- Device and host memory are canonical. -/
structure MemSys.Canon (m : MemSys) : Prop where
  hbm : memWf m.hbm = true
  host : memWf m.host = true

/-- The memories of the fabric are canonical. -/
structure Fab.Canon (f : Fab) : Prop where
  elems : TabAll Elem.Canon f.elems
  ccs : TabAll CC.Canon f.ccs

/-- The memories of a state are canonical: `MemoriesCanonical` by the parts of the state. -/
structure State.Canon (s : State) : Prop where
  hub : s.hub.Canon
  mem : s.mem.Canon
  fab : s.fab.Canon

/-- A step's next state, where it has one, is canonical. -/
def OutCanon : Out → Prop
  | .next t => t.Canon
  | .fault _ => True
  | .refused _ => True

/-- The state in which an instruction of a control core ends, where it names one, is canonical. -/
def CRes.Canon : CRes → Prop
  | .done t => t.Canon
  | .lost t => t.Canon
  | .wait => True
  | .trap _ _ _ => True

/-- The state that one side of a copy leaves, where it names one, is canonical. -/
def CopyRes.Canon : CopyRes → Prop
  | .done t _ _ => t.Canon
  | .refused t _ _ => t.Canon
  | .refill _ => True
  | .bank _ _ => True
  | .fault _ _ _ _ => True

/-- An optional value has a property where there is one. -/
def OptAll {α : Type} (P : α → Prop) : Option α → Prop
  | none => True
  | some x => P x

/-- Writing an item of a record keeps a property of what the record describes. -/
def Item.Keeps {σ : Type} (P : σ → Prop) (x : Item σ) : Prop := ∀ v s, P s → P (x.set v s)

/-- The parts together say what `MemoriesCanonical` says. -/
theorem memoriesCanonical_iff (s : State) : MemoriesCanonical s ↔ s.Canon := by
  constructor
  · rintro ⟨hhbm, hhost, helems, hccs, hparts⟩
    refine ⟨⟨fun q hq => ⟨hparts q hq⟩⟩, ⟨hhbm, hhost⟩, ⟨fun q hq => ?_, fun q hq => ?_⟩⟩
    · obtain ⟨hdata, hls, hbuf, hbox⟩ := helems q hq
      exact ⟨⟨hdata⟩, ⟨hls⟩, ⟨hbuf, fun c hc => ⟨hbox c hc⟩⟩⟩
    · obtain ⟨hi, hd⟩ := hccs q hq
      exact ⟨hi, hd⟩
  · rintro ⟨hhub, hmem, hfab⟩
    refine ⟨hmem.hbm, hmem.host, fun q hq => ?_, fun q hq => ?_, fun q hq => (hhub.parts q hq).mbuf⟩
    · have he := hfab.elems q hq
      exact ⟨he.mt.data, he.ct.ls, he.ag.buf, fun c hc => (he.ag.inbox c hc).block⟩
    · have hc := hfab.ccs q hq
      exact ⟨hc.isram, hc.dsram⟩

/-! ### Records with some of their fields changed -/

/-- Other fields of a state may change. -/
theorem State.Canon.others {s : State} {site : Site} {agenda : List Action} {turn free : Nat} {resp : List Word} {clk : Clk} {sec : Sec}
    (h : s.Canon) : State.Canon { s with site, agenda, turn, free, resp, clk, sec } :=
  ⟨h.hub, h.mem, h.fab⟩

/-- The fabric of a state may become another canonical one, and other fields anything. -/
theorem State.Canon.withFab {s : State} {fab : Fab} {site : Site} {agenda : List Action} {turn free : Nat} {resp : List Word} {clk : Clk}
    {sec : Sec} (h : s.Canon) (hf : fab.Canon) : State.Canon { s with site, agenda, turn, free, resp, clk, sec, fab } :=
  ⟨h.hub, h.mem, hf⟩

/-- The hub of a state may become another canonical one, and other fields anything. -/
theorem State.Canon.withHub {s : State} {hub : Hub} {site : Site} {agenda : List Action} {turn free : Nat} {resp : List Word} {clk : Clk}
    {sec : Sec} (h : s.Canon) (hu : hub.Canon) : State.Canon { s with site, agenda, turn, free, resp, clk, sec, hub } :=
  ⟨hu, h.mem, h.fab⟩

/-- The memories of a state may become other canonical ones, and other fields anything. -/
theorem State.Canon.withMem {s : State} {mem : MemSys} {site : Site} {agenda : List Action} {turn free : Nat} {resp : List Word} {clk : Clk}
    {sec : Sec} (h : s.Canon) (hm : mem.Canon) : State.Canon { s with site, agenda, turn, free, resp, clk, sec, mem } :=
  ⟨h.hub, hm, h.fab⟩

/-- The hub and the fabric of a state may become other canonical ones, and other fields anything. -/
theorem State.Canon.withHubFab {s : State} {hub : Hub} {fab : Fab} {site : Site} {agenda : List Action} {turn free : Nat} {resp : List Word}
    {clk : Clk} {sec : Sec} (h : s.Canon) (hu : hub.Canon) (hf : fab.Canon) :
    State.Canon { s with site, agenda, turn, free, resp, clk, sec, hub, fab } :=
  ⟨hu, h.mem, hf⟩

/-- The memories and the fabric of a state may become other canonical ones, and other fields anything. -/
theorem State.Canon.withMemFab {s : State} {mem : MemSys} {fab : Fab} {site : Site} {agenda : List Action} {turn free : Nat} {resp : List Word}
    {clk : Clk} {sec : Sec} (h : s.Canon) (hm : mem.Canon) (hf : fab.Canon) :
    State.Canon { s with site, agenda, turn, free, resp, clk, sec, mem, fab } :=
  ⟨h.hub, hm, hf⟩

/-- The hub and the memories of a state may become other canonical ones, and other fields anything. -/
theorem State.Canon.withHubMem {s : State} {hub : Hub} {mem : MemSys} {site : Site} {agenda : List Action} {turn free : Nat} {resp : List Word}
    {clk : Clk} {sec : Sec} (h : s.Canon) (hu : hub.Canon) (hm : mem.Canon) :
    State.Canon { s with site, agenda, turn, free, resp, clk, sec, hub, mem } :=
  ⟨hu, hm, h.fab⟩

/-- Other fields of the fabric may change. -/
theorem Fab.Canon.others {f : Fab} {regions : Tab Region} {nextRid nextLease : Nat} {lastUser : Tab Nat} {fills : List (Nat × Nat × Word)}
    {creds : List (Nat × Nat × Nat × Nat × FirnE)} {loads : List Load} {twins : List (Nat × Nat × Token)} {audits : Tab Audit} (h : f.Canon) :
    Fab.Canon { f with regions, nextRid, nextLease, lastUser, fills, creds, loads, twins, audits } :=
  ⟨h.elems, h.ccs⟩

/-- The elements of the fabric may become other canonical ones, and other fields anything. -/
theorem Fab.Canon.withElems {f : Fab} {elems : Tab Elem} {regions : Tab Region} {nextRid nextLease : Nat} {lastUser : Tab Nat}
    {fills : List (Nat × Nat × Word)} {creds : List (Nat × Nat × Nat × Nat × FirnE)} {loads : List Load} {twins : List (Nat × Nat × Token)}
    {audits : Tab Audit} (h : f.Canon) (he : TabAll Elem.Canon elems) :
    Fab.Canon { f with regions, nextRid, nextLease, lastUser, fills, creds, loads, twins, audits, elems } :=
  ⟨he, h.ccs⟩

/-- The control cores of the fabric may become other canonical ones, and other fields anything. -/
theorem Fab.Canon.withCcs {f : Fab} {ccs : Tab CC} {regions : Tab Region} {nextRid nextLease : Nat} {lastUser : Tab Nat}
    {fills : List (Nat × Nat × Word)} {creds : List (Nat × Nat × Nat × Nat × FirnE)} {loads : List Load} {twins : List (Nat × Nat × Token)}
    {audits : Tab Audit} (h : f.Canon) (hc : TabAll CC.Canon ccs) :
    Fab.Canon { f with regions, nextRid, nextLease, lastUser, fills, creds, loads, twins, audits, ccs } :=
  ⟨h.elems, hc⟩

/-- Other fields of an element may change. -/
theorem Elem.Canon.others {e : Elem} {net : Net} {planes : Tab Plane} {firn : List FirnE} {heldW out : Tab Nat} {gated powerGated : Bool}
    {spine : Nat} {dbg : Word} {cyc : Nat} {issued : List IssueClass} {badReg : List (Nat × Nat × Nat)} {pend : List (IssueClass × PendW)}
    {popd : List Nat} {opens terr : List (Nat × Nat)} (h : e.Canon) :
    Elem.Canon { e with net, planes, firn, heldW, out, gated, powerGated, spine, dbg, cyc, issued, badReg, pend, popd, opens, terr } :=
  ⟨h.mt, h.ct, h.ag⟩

/-- The memory tile of an element may become another canonical one, and other fields anything. -/
theorem Elem.Canon.withMt {e : Elem} {mt : MtSt} {net : Net} {planes : Tab Plane} {firn : List FirnE} {heldW out : Tab Nat}
    {gated powerGated : Bool} {spine : Nat} {dbg : Word} {cyc : Nat} {issued : List IssueClass} {badReg : List (Nat × Nat × Nat)}
    {pend : List (IssueClass × PendW)} {popd : List Nat} {opens terr : List (Nat × Nat)} (h : e.Canon) (hm : mt.Canon) :
    Elem.Canon { e with net, planes, firn, heldW, out, gated, powerGated, spine, dbg, cyc, issued, badReg, pend, popd, opens, terr, mt } :=
  ⟨hm, h.ct, h.ag⟩

/-- The compute tile of an element may become another canonical one, and other fields anything. -/
theorem Elem.Canon.withCt {e : Elem} {ct : CtSt} {net : Net} {planes : Tab Plane} {firn : List FirnE} {heldW out : Tab Nat}
    {gated powerGated : Bool} {spine : Nat} {dbg : Word} {cyc : Nat} {issued : List IssueClass} {badReg : List (Nat × Nat × Nat)}
    {pend : List (IssueClass × PendW)} {popd : List Nat} {opens terr : List (Nat × Nat)} (h : e.Canon) (hc : ct.Canon) :
    Elem.Canon { e with net, planes, firn, heldW, out, gated, powerGated, spine, dbg, cyc, issued, badReg, pend, popd, opens, terr, ct } :=
  ⟨h.mt, hc, h.ag⟩

/-- The AG node of an element may become another canonical one, and other fields anything. -/
theorem Elem.Canon.withAg {e : Elem} {ag : AgSt} {net : Net} {planes : Tab Plane} {firn : List FirnE} {heldW out : Tab Nat}
    {gated powerGated : Bool} {spine : Nat} {dbg : Word} {cyc : Nat} {issued : List IssueClass} {badReg : List (Nat × Nat × Nat)}
    {pend : List (IssueClass × PendW)} {popd : List Nat} {opens terr : List (Nat × Nat)} (h : e.Canon) (ha : ag.Canon) :
    Elem.Canon { e with net, planes, firn, heldW, out, gated, powerGated, spine, dbg, cyc, issued, badReg, pend, popd, opens, terr, ag } :=
  ⟨h.mt, h.ct, ha⟩

/-- The memory tile and the AG node of an element may become other canonical ones, and other fields anything. -/
theorem Elem.Canon.withMtAg {e : Elem} {mt : MtSt} {ag : AgSt} {net : Net} {planes : Tab Plane} {firn : List FirnE} {heldW out : Tab Nat}
    {gated powerGated : Bool} {spine : Nat} {dbg : Word} {cyc : Nat} {issued : List IssueClass} {badReg : List (Nat × Nat × Nat)}
    {pend : List (IssueClass × PendW)} {popd : List Nat} {opens terr : List (Nat × Nat)} (h : e.Canon) (hm : mt.Canon) (ha : ag.Canon) :
    Elem.Canon { e with net, planes, firn, heldW, out, gated, powerGated, spine, dbg, cyc, issued, badReg, pend, popd, opens, terr, mt, ag } :=
  ⟨hm, h.ct, ha⟩

/-- The memory tile and the compute tile of an element may become other canonical ones, and other fields anything. -/
theorem Elem.Canon.withMtCt {e : Elem} {mt : MtSt} {ct : CtSt} {net : Net} {planes : Tab Plane} {firn : List FirnE} {heldW out : Tab Nat}
    {gated powerGated : Bool} {spine : Nat} {dbg : Word} {cyc : Nat} {issued : List IssueClass} {badReg : List (Nat × Nat × Nat)}
    {pend : List (IssueClass × PendW)} {popd : List Nat} {opens terr : List (Nat × Nat)} (h : e.Canon) (hm : mt.Canon) (hc : ct.Canon) :
    Elem.Canon { e with net, planes, firn, heldW, out, gated, powerGated, spine, dbg, cyc, issued, badReg, pend, popd, opens, terr, mt, ct } :=
  ⟨hm, hc, h.ag⟩

/-- The compute tile and the AG node of an element may become other canonical ones, and other fields anything. -/
theorem Elem.Canon.withCtAg {e : Elem} {ct : CtSt} {ag : AgSt} {net : Net} {planes : Tab Plane} {firn : List FirnE} {heldW out : Tab Nat}
    {gated powerGated : Bool} {spine : Nat} {dbg : Word} {cyc : Nat} {issued : List IssueClass} {badReg : List (Nat × Nat × Nat)}
    {pend : List (IssueClass × PendW)} {popd : List Nat} {opens terr : List (Nat × Nat)} (h : e.Canon) (hc : ct.Canon) (ha : ag.Canon) :
    Elem.Canon { e with net, planes, firn, heldW, out, gated, powerGated, spine, dbg, cyc, issued, badReg, pend, popd, opens, terr, ct, ag } :=
  ⟨h.mt, hc, ha⟩

/-- Other fields of a control core may change. -/
theorem CC.Canon.others {c : CC} {x : Tab Word} {full owed : BitVec 32} {pc : BitVec 16} {tstat : BitVec 6} {tvec tepc tcause tval tscr : Word}
    {evpend evmask : BitVec 6} {tcmp cycle instret : Word} {skind : BitVec 2} {scode : BitVec 8} {state : BitVec 2} {started : Bool}
    {accs : Tab Acc} {vins : Tab Vin} {sinks : Tab Sink} {outs : List Outst} {nextId : Nat} {acq : Option Nat} {wcs : List (Nat × Nat × BitVec 32)}
    {rounds : Tab (BitVec 32)} {bad : List Nat} (h : c.Canon) :
    CC.Canon { c with
      x, full, owed, pc, tstat, tvec, tepc, tcause, tval, tscr, evpend, evmask, tcmp, cycle, instret, skind, scode, state, started, accs, vins, sinks,
      outs, nextId, acq, wcs, rounds, bad } :=
  ⟨h.isram, h.dsram⟩

/-- The instruction SRAM of a control core may become another canonical one, and other fields anything. -/
theorem CC.Canon.withIsram {c : CC} {isram : Mem} {x : Tab Word} {full owed : BitVec 32} {pc : BitVec 16} {tstat : BitVec 6}
    {tvec tepc tcause tval tscr : Word} {evpend evmask : BitVec 6} {tcmp cycle instret : Word} {skind : BitVec 2} {scode : BitVec 8}
    {state : BitVec 2} {started : Bool} {accs : Tab Acc} {vins : Tab Vin} {sinks : Tab Sink} {outs : List Outst} {nextId : Nat} {acq : Option Nat}
    {wcs : List (Nat × Nat × BitVec 32)} {rounds : Tab (BitVec 32)} {bad : List Nat} (h : c.Canon) (hi : memWf isram = true) :
    CC.Canon { c with
      x, full, owed, pc, tstat, tvec, tepc, tcause, tval, tscr, evpend, evmask, tcmp, cycle, instret, skind, scode, state, started, accs, vins, sinks,
      outs, nextId, acq, wcs, rounds, bad, isram } :=
  ⟨hi, h.dsram⟩

/-- The data SRAM of a control core may become another canonical one, and other fields anything. -/
theorem CC.Canon.withDsram {c : CC} {dsram : Mem} {x : Tab Word} {full owed : BitVec 32} {pc : BitVec 16} {tstat : BitVec 6}
    {tvec tepc tcause tval tscr : Word} {evpend evmask : BitVec 6} {tcmp cycle instret : Word} {skind : BitVec 2} {scode : BitVec 8}
    {state : BitVec 2} {started : Bool} {accs : Tab Acc} {vins : Tab Vin} {sinks : Tab Sink} {outs : List Outst} {nextId : Nat} {acq : Option Nat}
    {wcs : List (Nat × Nat × BitVec 32)} {rounds : Tab (BitVec 32)} {bad : List Nat} (h : c.Canon) (hd : memWf dsram = true) :
    CC.Canon { c with
      x, full, owed, pc, tstat, tvec, tepc, tcause, tval, tscr, evpend, evmask, tcmp, cycle, instret, skind, scode, state, started, accs, vins, sinks,
      outs, nextId, acq, wcs, rounds, bad, dsram } :=
  ⟨h.isram, hd⟩

/-- Other fields of an AG node may change. -/
theorem AgSt.Canon.others {a : AgSt} {hold : List Held} {replay : List (Nat × Nat × BitVec 32 × Token)} {reads : List ReadOut} {ring : Nat}
    {tent : Option TEnt} {nextId : Nat} {spw : Tab Nat} (h : a.Canon) : AgSt.Canon { a with hold, replay, reads, ring, tent, nextId, spw } :=
  ⟨h.buf, h.inbox⟩

/-- The stream buffer of an AG node may become another canonical one, and other fields anything. -/
theorem AgSt.Canon.withBuf {a : AgSt} {buf : Mem} {hold : List Held} {replay : List (Nat × Nat × BitVec 32 × Token)} {reads : List ReadOut}
    {ring : Nat} {tent : Option TEnt} {nextId : Nat} {spw : Tab Nat} (h : a.Canon) (hb : memWf buf = true) :
    AgSt.Canon { a with hold, replay, reads, ring, tent, nextId, spw, buf } :=
  ⟨hb, h.inbox⟩

/-- The commands of an AG node may become other canonical ones, and other fields anything. -/
theorem AgSt.Canon.withInbox {a : AgSt} {inbox : List AgCmd} {hold : List Held} {replay : List (Nat × Nat × BitVec 32 × Token)}
    {reads : List ReadOut} {ring : Nat} {tent : Option TEnt} {nextId : Nat} {spw : Tab Nat} (h : a.Canon) (hi : ListAll AgCmd.Canon inbox) :
    AgSt.Canon { a with hold, replay, reads, ring, tent, nextId, spw, inbox } :=
  ⟨h.buf, hi⟩

/-- Other fields of a memory tile may change. -/
theorem MtSt.Canon.others {m : MtSt} {tags checks : Tab (BitVec 16)} {bankq : Tab (List MemReq)} {start rr : Tab Nat} {took : List Nat}
    {jr : Tab (List JEnt)} {accepted : Tab Nat} {qdue : Bool} {credits : List (Nat × Nat × Nat × Nat × Nat)} {groups : Tab Group}
    {nextGrp nextReq : Nat} {sects : List Sect} {cfgq : List MemReq} {crq : List (Nat × Token)} {touch : List (Nat × Nat × BitVec 32)}
    {bad : List Nat} (h : m.Canon) :
    MtSt.Canon { m with
      tags, checks, bankq, start, rr, took, jr, accepted, qdue, credits, groups, nextGrp, nextReq, sects, cfgq, crq, touch, bad } :=
  ⟨h.data⟩

/-- Other fields of a compute tile may change. -/
theorem CtSt.Canon.others {c : CtSt} {jr : List JEnt} {halves : Tab Half} {fills : List LsFill} {lsq : List Nat} {reserve : List (Nat × PRun)}
    {bad : List Nat} (h : c.Canon) : CtSt.Canon { c with jr, halves, fills, lsq, reserve, bad } :=
  ⟨h.ls⟩

/-- Other fields of the memories may change. -/
theorem MemSys.Canon.others {m : MemSys} {tags checks : Tab (BitVec 16)} {poison bad lost : List Nat} {owner : Tab Nat}
    {failed snoop : Tab (List Nat)} {peer : List (Nat × BitVec 64 × Line)} {walkers : Tab Walker} (h : m.Canon) :
    MemSys.Canon { m with tags, checks, poison, bad, lost, owner, failed, snoop, peer, walkers } :=
  ⟨h.hbm, h.host⟩

/-- The device memory may become another canonical one, and other fields anything. -/
theorem MemSys.Canon.withHbm {m : MemSys} {hbm : Mem} {tags checks : Tab (BitVec 16)} {poison bad lost : List Nat} {owner : Tab Nat}
    {failed snoop : Tab (List Nat)} {peer : List (Nat × BitVec 64 × Line)} {walkers : Tab Walker} (h : m.Canon) (hb : memWf hbm = true) :
    MemSys.Canon { m with tags, checks, poison, bad, lost, owner, failed, snoop, peer, walkers, hbm } :=
  ⟨hb, h.host⟩

/-- The host memory may become another canonical one, and other fields anything. -/
theorem MemSys.Canon.withHost {m : MemSys} {host : Mem} {tags checks : Tab (BitVec 16)} {poison bad lost : List Nat} {owner : Tab Nat}
    {failed snoop : Tab (List Nat)} {peer : List (Nat × BitVec 64 × Line)} {walkers : Tab Walker} (h : m.Canon) (hh : memWf host = true) :
    MemSys.Canon { m with tags, checks, poison, bad, lost, owner, failed, snoop, peer, walkers, host } :=
  ⟨h.hbm, hh⟩

/-- A memory tile whose bank storage is canonical. -/
theorem MtSt.Canon.of_data {data : Mem} {tags checks : Tab (BitVec 16)} {bankq : Tab (List MemReq)} {start rr : Tab Nat} {took : List Nat}
    {jr : Tab (List JEnt)} {accepted : Tab Nat} {qdue : Bool} {credits : List (Nat × Nat × Nat × Nat × Nat)} {groups : Tab Group}
    {nextGrp nextReq : Nat} {sects : List Sect} {cfgq : List MemReq} {crq : List (Nat × Token)} {touch : List (Nat × Nat × BitVec 32)}
    {bad : List Nat} (h : memWf data = true) :
    MtSt.Canon { data, tags, checks, bankq, start, rr, took, jr, accepted, qdue, credits, groups, nextGrp, nextReq, sects, cfgq, crq, touch, bad } :=
  ⟨h⟩

/-- A compute tile whose local store is canonical. -/
theorem CtSt.Canon.of_ls {ls : Mem} {jr : List JEnt} {halves : Tab Half} {fills : List LsFill} {lsq : List Nat} {reserve : List (Nat × PRun)}
    {bad : List Nat} (h : memWf ls = true) :
    CtSt.Canon { ls, jr, halves, fills, lsq, reserve, bad } :=
  ⟨h⟩

/-- A command whose block is canonical. -/
theorem AgCmd.Canon.of_block {core id reg cmd : Nat} {d : Word} {block : Mem} {sup on : Bool} {fin : Option Word} {pos : Nat}
    {line : Option (Line × BitVec 16)} {code wait : Nat} (h : memWf block = true) :
    AgCmd.Canon { core, id, reg, cmd, d, block, sup, on, fin, pos, line, code, wait } :=
  ⟨h⟩

/-! ### Rules for the shapes that the model's functions are made of -/

/-- A fold keeps what each of its steps keeps. -/
theorem foldl_keeps {α β : Type} {P : β → Prop} {g : β → α → β} {l : List α} {b : β} (h : P b) (hg : ∀ b a, P b → P (g b a)) :
    P (l.foldl g b) :=
  List.foldlRecOn l g h fun b hb a _ => hg b a hb

/-- A fold over pairs keeps what each of its steps keeps of the first component. -/
theorem foldl_keeps_fst {α β γ : Type} {P : β → Prop} {g : β × γ → α → β × γ} {l : List α} {b : β × γ} (h : P b.1)
    (hg : ∀ (b : β × γ) (a : α), P b.1 → P (g b a).1) : P (l.foldl g b).1 :=
  foldl_keeps (P := fun b : β × γ => P b.1) h hg

/-- Both branches have the property. -/
theorem ite_keeps {α : Type} {P : α → Prop} {c : Prop} [Decidable c] {a b : α} (ha : P a) (hb : P b) : P (if c then a else b) := by
  split <;> assumption

theorem ite_keeps_fst {α β : Type} {P : α → Prop} {c : Prop} [Decidable c] {a b : α × β} (ha : P a.1) (hb : P b.1) :
    P (if c then a else b).1 :=
  ite_keeps (P := fun q : α × β => P q.1) ha hb

/-- An optional value that there is has the property. -/
theorem OptAll.get {α : Type} {P : α → Prop} {o : Option α} {x : α} (h : OptAll P o) (hx : o = some x) : P x := by
  subst hx
  exact h

/-- The empty memory. -/
theorem memWf_nil : memWf [] = true := rfl

/-- Writing bytes of a local store. -/
theorem memWf_lsWrite {m : Mem} {rot a n v : Nat} (h : memWf m = true) : memWf (lsWrite m rot a n v) = true := by
  induction n generalizing m a v with
  | zero => exact h
  | succ n ih => exact ih (memWf_mput h _ _)

/-- The empty table. -/
theorem tabAll_nil {α : Type} {P : α → Prop} : TabAll P [] := fun _ h => nomatch h

/-- What a table gives for a number, where the default has the property. -/
theorem tabAll_tget {α : Type} {P : α → Prop} {d : α} {t : Tab α} {i : Nat} (h : TabAll P t) (hd : P d) : P (tget d t i) := by
  induction t with
  | nil => exact hd
  | cons q r ih =>
    obtain ⟨hq, hr⟩ := List.forall_mem_cons.mp h
    exact ite_keeps hq (ih hr)

/-- Setting an entry. -/
theorem tabAll_tins {α : Type} {P : α → Prop} {t : Tab α} {i : Nat} {x : α} (h : TabAll P t) (hx : P x) : TabAll P (tins t i x) := by
  induction t with
  | nil => exact List.forall_mem_singleton.mpr hx
  | cons q r ih =>
    obtain ⟨hq, hr⟩ := List.forall_mem_cons.mp h
    simp only [tins]
    split
    · exact List.forall_mem_cons.mpr ⟨hx, h⟩
    · split
      · exact List.forall_mem_cons.mpr ⟨hx, hr⟩
      · exact List.forall_mem_cons.mpr ⟨hq, ih hr⟩

/-- Changing an entry. -/
theorem tabAll_tmod {α : Type} {P : α → Prop} {d : α} {t : Tab α} {i : Nat} {g : α → α} (h : TabAll P t) (hd : P d)
    (hg : ∀ x, P x → P (g x)) : TabAll P (tmod d t i g) :=
  tabAll_tins h (hg _ (tabAll_tget h hd))

/-- Leaving entries out. -/
theorem tabAll_filter {α : Type} {P : α → Prop} {t : Tab α} {p : Nat × α → Bool} (h : TabAll P t) : TabAll P (t.filter p) :=
  fun q hq => h q (List.mem_of_mem_filter hq)

/-- Removing an entry. -/
theorem tabAll_tdel {α : Type} {P : α → Prop} {t : Tab α} {i : Nat} (h : TabAll P t) : TabAll P (tdel t i) := tabAll_filter h

/-- Changing every entry. -/
theorem tabAll_map {α : Type} {P : α → Prop} {t : Tab α} {g : Nat × α → Nat × α} (h : TabAll P t) (hg : ∀ q, P q.2 → P (g q).2) :
    TabAll P (t.map g) :=
  List.forall_mem_map.mpr fun q hq => hg q (h q hq)

/-! ### Lists -/

theorem listAll_nil {α : Type} {P : α → Prop} : ListAll P [] := fun _ h => nomatch h

theorem listAll_cons {α : Type} {P : α → Prop} {x : α} {l : List α} (hx : P x) (h : ListAll P l) : ListAll P (x :: l) :=
  List.forall_mem_cons.mpr ⟨hx, h⟩

theorem listAll_append {α : Type} {P : α → Prop} {l r : List α} (hl : ListAll P l) (hr : ListAll P r) : ListAll P (l ++ r) :=
  List.forall_mem_append.mpr ⟨hl, hr⟩

theorem listAll_filter {α : Type} {P : α → Prop} {p : α → Bool} {l : List α} (h : ListAll P l) : ListAll P (l.filter p) :=
  fun x hx => h x (List.mem_of_mem_filter hx)

theorem listAll_map {α β : Type} {P : α → Prop} {Q : β → Prop} {g : α → β} {l : List α} (h : ListAll P l) (hg : ∀ x, P x → Q (g x)) :
    ListAll Q (l.map g) :=
  List.forall_mem_map.mpr fun x hx => hg x (h x hx)

/-- What a search finds. -/
theorem listAll_find {α : Type} {P : α → Prop} {p : α → Bool} {l : List α} (h : ListAll P l) : OptAll P (l.find? p) := by
  cases hf : l.find? p with
  | none => trivial
  | some x => exact h x (List.mem_of_find?_eq_some hf)

/-- Entry i. -/
theorem listAll_getElem {α : Type} {P : α → Prop} {l : List α} {i : Nat} (h : ListAll P l) : OptAll P l[i]? := by
  cases hf : l[i]? with
  | none => trivial
  | some x => exact h x (List.mem_of_getElem? hf)

theorem listAll_lmod {α : Type} {P : α → Prop} {g : α → α} {l : List α} {i : Nat} (h : ListAll P l) (hg : ∀ x, P x → P (g x)) :
    ListAll P (lmod l i g) := by
  induction l generalizing i with
  | nil => exact h
  | cons x r ih =>
    obtain ⟨hx, hr⟩ := List.forall_mem_cons.mp h
    cases i with
    | zero => exact listAll_cons (hg x hx) hr
    | succ n => exact listAll_cons hx (ih hr)

/-- The value of an optional one, or the default. -/
theorem optAll_getD {α : Type} {P : α → Prop} {o : Option α} {d : α} (h : OptAll P o) (hd : P d) : P (o.getD d) := by
  cases o with
  | none => exact hd
  | some x => exact h

theorem optAll_map {α β : Type} {P : α → Prop} {Q : β → Prop} {g : α → β} {o : Option α} (h : OptAll P o) (hg : ∀ x, P x → Q (g x)) :
    OptAll Q (o.map g) := by
  cases o with
  | none => trivial
  | some x => exact hg x h

theorem optAll_bind {α β : Type} {P : α → Prop} {Q : β → Prop} {g : α → Option β} {o : Option α} (h : OptAll P o)
    (hg : ∀ x, P x → OptAll Q (g x)) : OptAll Q (o.bind g) := by
  cases o with
  | none => trivial
  | some x => exact hg x h

/-- A fold from the right keeps what each of its steps keeps. -/
theorem foldr_keeps {α β : Type} {P : β → Prop} {g : α → β → β} {l : List α} {b : β} (h : P b) (hg : ∀ a b, P b → P (g a b)) :
    P (l.foldr g b) :=
  List.foldrRecOn l g h fun b hb a _ => hg a b hb

/-- Lists one after another. -/
theorem listAll_flatten {α : Type} {P : α → Prop} {l : List (List α)} (h : ListAll (ListAll P) l) : ListAll P l.flatten := by
  intro x hx
  obtain ⟨r, hr, hxr⟩ := List.mem_flatten.mp hx
  exact h r hr x hxr

/-- Lists that a function gives, one after another. -/
theorem listAll_flatMap {α β : Type} {P : β → Prop} {g : α → List β} {l : List α} (h : ∀ a, ListAll P (g a)) : ListAll P (l.flatMap g) := by
  intro x hx
  obtain ⟨a, _, hxa⟩ := List.mem_flatMap.mp hx
  exact h a x hxa

/-- A fold that may end without a value keeps what each of its steps keeps. -/
theorem optAll_foldlM {α β : Type} {P : β → Prop} {g : β → α → Option β} {l : List α} {b : β} (h : P b)
    (hg : ∀ b a, P b → OptAll P (g b a)) : OptAll P (l.foldlM g b) := by
  induction l generalizing b with
  | nil => exact h
  | cons a r ih =>
    rw [List.foldlM_cons]
    exact optAll_bind (hg b a h) fun _ h1 => ih h1

/-- Setting an entry, of which the default is not listed. -/
theorem tabAll_tput {α : Type} [DecidableEq α] {P : α → Prop} {d : α} {t : Tab α} {i : Nat} {x : α} (h : TabAll P t) (hx : P x) :
    TabAll P (tput d t i x) :=
  ite_keeps (tabAll_tdel h) (tabAll_tins h hx)

/-! ### The empty parts -/

theorem canon_elem_default : ({} : Elem).Canon := ⟨⟨rfl⟩, ⟨rfl⟩, ⟨rfl, fun _ h => nomatch h⟩⟩

theorem canon_cc_default : ({} : CC).Canon := ⟨rfl, rfl⟩

theorem canon_part_default : ({} : Part).Canon := ⟨rfl⟩

/-! ### The named accessors and changes -/

theorem canon_elemOf {f : Fab} {k : Nat} (h : f.Canon) : (elemOf f k).Canon := tabAll_tget h.elems canon_elem_default

theorem canon_ccOf {f : Fab} {n : Nat} (h : f.Canon) : (ccOf f n).Canon := tabAll_tget h.ccs canon_cc_default

theorem canon_partOf {u : Hub} {n : Nat} (h : u.Canon) : (partOf u n).Canon := tabAll_tget h.parts canon_part_default

theorem canon_modElem {f : Fab} {k : Nat} {g : Elem → Elem} (h : f.Canon) (hg : ∀ e, e.Canon → (g e).Canon) : (modElem f k g).Canon :=
  ⟨tabAll_tmod h.elems canon_elem_default hg, h.ccs⟩

theorem canon_modCc {f : Fab} {n : Nat} {g : CC → CC} (h : f.Canon) (hg : ∀ c, c.Canon → (g c).Canon) : (modCc f n g).Canon :=
  ⟨h.elems, tabAll_tmod h.ccs canon_cc_default hg⟩

theorem canon_modPart {u : Hub} {n : Nat} {g : Part → Part} (h : u.Canon) (hg : ∀ p, p.Canon → (g p).Canon) : (modPart u n g).Canon :=
  ⟨tabAll_tmod h.parts canon_part_default hg⟩

theorem canon_onFab {s : State} {g : Fab → Fab} (h : s.Canon) (hg : (g s.fab).Canon) : OutCanon (onFab s g) := ⟨h.hub, h.mem, hg⟩

theorem canon_onHub {s : State} {g : Hub → Hub} (h : s.Canon) (hg : (g s.hub).Canon) : OutCanon (onHub s g) := ⟨hg, h.mem, h.fab⟩

theorem canon_onMem {s : State} {g : MemSys → MemSys} (h : s.Canon) (hg : (g s.mem).Canon) : OutCanon (onMem s g) := ⟨h.hub, hg, h.fab⟩

theorem canon_onClk {s : State} {g : Clk → Clk} (h : s.Canon) : OutCanon (onClk s g) := ⟨h.hub, h.mem, h.fab⟩

/-! ### The named operations over the state -/

theorem canon_modPlane {e : Elem} {n : Nat} {g : Plane → Plane} (h : e.Canon) : (modPlane e n g).Canon :=
  h.others

theorem canon_modRun {e : Elem} {n : Nat} {g : PRun → PRun} (h : e.Canon) : (modRun e n g).Canon :=
  canon_modPlane h

theorem canon_modRegion {f : Fab} {rid : Nat} {g : Region → Region} (h : f.Canon) : (modRegion f rid g).Canon :=
  h.others

theorem canon_fillBucket {s : State} {rid : Nat} (h : s.Canon) : (fillBucket s rid).Canon :=
  h.withFab (canon_modRegion h.fab)

theorem canon_rset {c : CC} {r : Nat} {v : Word} (h : c.Canon) : (rset c r v).Canon := by
  unfold rset
  split
  · exact h
  · exact h.others

theorem canon_rclear {c : CC} {r : Nat} (h : c.Canon) : (rclear c r).Canon := by
  unfold rclear
  split
  · exact h
  · exact h.others

theorem canon_rowe {c : CC} {r : Nat} (h : c.Canon) : (rowe c r).Canon := by
  unfold rowe
  split
  · exact h
  · exact h.others

theorem canon_rfill {c : CC} {r : Nat} {v : Word} (h : c.Canon) : (rfill c r v).Canon := by
  unfold rfill
  split
  · exact (canon_rset h).others
  · exact h

theorem canon_adv {c : CC} (h : c.Canon) : (adv c).Canon :=
  h.others

theorem canon_trapEntry {c : CC} {kind code : Nat} {val : Word} {epc : BitVec 16} (h : c.Canon) : (trapEntry c kind code val epc).Canon :=
  h.others

theorem canon_doubleTrap {c : CC} {kind code : Nat} (h : c.Canon) : (doubleTrap c kind code).Canon :=
  h.others

theorem canon_trapReturn {c : CC} (h : c.Canon) : (trapReturn c).Canon :=
  h.others

theorem canon_setEv {c : CC} {m : BitVec 6} (h : c.Canon) : (setEv c m).Canon :=
  h.others

theorem canon_regionEvent {f : Fab} {r : Region} {m : BitVec 6} (h : f.Canon) : (regionEvent f r m).Canon :=
  foldl_keeps h fun _ _ h1 => canon_modCc h1 fun _ h2 => canon_setEv h2

theorem canon_sendFill {f : Fab} {core reg : Nat} {v : Word} (h : f.Canon) : (sendFill f core reg v).Canon := by
  unfold sendFill
  split
  · exact h
  · exact h.others

theorem canon_cmdDone {f : Fab} {core id : Nat} (h : f.Canon) : (cmdDone f core id).Canon :=
  canon_modCc h fun _ h1 => h1.others

theorem canon_cmdReply {f : Fab} {core id reg : Nat} {v : Word} (h : f.Canon) : (cmdReply f core id reg v).Canon :=
  canon_sendFill (canon_cmdDone h)

theorem canon_addEvent {p : Part} {fn e : Nat} {v : Word} (h : p.Canon) : (addEvent p fn e v).Canon :=
  ⟨h.mbuf⟩

theorem canon_raiseFault {f : Fab} {core ctx : Nat} {x : FaultRec} (h : f.Canon) : (raiseFault f core ctx x).Canon := by
  unfold raiseFault
  split
  · exact h
  · exact canon_modRegion h

theorem canon_lsJournal {c : CtSt} {ctx : Nat} {round : BitVec 32} {line : Nat} (h : c.Canon) : (lsJournal c ctx round line).Canon := by
  unfold lsJournal
  split
  · exact h
  · exact h.others

/-! ### Device memory, host memory and walks (01 R21-R25, 02 R47-R62, 03 R73-R77) -/

theorem canon_snoopClear {m : MemSys} {pa : Nat} (h : m.Canon) : (snoopClear m pa).Canon :=
  h.others

theorem canon_failedAdd {m : MemSys} {pa : Nat} (h : m.Canon) : (failedAdd m pa).Canon :=
  h.others

theorem canon_failedDel {m : MemSys} {pa : Nat} (h : m.Canon) : (failedDel m pa).Canon :=
  h.others

theorem canon_hbmFail {m : MemSys} {pa : Nat} (h : m.Canon) : (hbmFail m pa).1.Canon := by
  unfold hbmFail
  dsimp only
  split
  · exact (canon_failedDel h).others
  · exact canon_failedAdd h

theorem canon_hbmRead {m : MemSys} {part pa : Nat} (h : m.Canon) : (hbmRead m part pa).1.Canon := by
  unfold hbmRead
  dsimp only
  split
  · exact h
  split
  · exact canon_snoopClear h
  split
  · exact canon_hbmFail (canon_snoopClear h)
  · exact canon_snoopClear h

theorem canon_hbmPut {m : MemSys} {pa mask : Nat} {data : Line} {tag : Option (BitVec 16)} (h : m.Canon) : (hbmPut m pa mask data tag).1.Canon := by
  unfold hbmPut
  dsimp only
  split
  · exact h
  · split
    · refine (canon_failedDel (MemSys.Canon.others ?_)).others
      split <;> exact h.withHbm (memWf_mputMask h.hbm _ _ _ _)
    · refine MemSys.Canon.others ?_
      split <;> exact h.withHbm (memWf_mputMask h.hbm _ _ _ _)

theorem canon_hbmWrite {m : MemSys} {part pa mask : Nat} {data : Line} {tag : Option (BitVec 16)} (h : m.Canon) :
    (hbmWrite m part pa mask data tag).1.Canon := by
  unfold hbmWrite
  split
  · exact h
  · exact canon_hbmPut (canon_snoopClear h)

theorem canon_walkFrom {u : Hub} {cache : List TEnt} {part fn va level : Nat} {m : MemSys} {table : Nat} {acc : List TEnt} (h : m.Canon) :
    (walkFrom u cache part fn va level m table acc).1.Canon := by
  induction level generalizing m table acc with
  | zero => exact h
  | succ level ih =>
    unfold walkFrom
    extract_lets pa key hit q r
    have hr : r.1.Canon := by
      unfold r hit
      split
      · exact h
      · exact canon_hbmRead h
    split
    · split
      · exact ih hr
      · exact hr
    all_goals exact hr

theorem canon_walkVa {u : Hub} {cache : List TEnt} {m : MemSys} {part fn va : Nat} (hm : m.Canon) : (walkVa u cache m part fn va).1.Canon := by
  unfold walkVa
  dsimp only
  split
  · exact hm
  split
  · exact hm
  · exact canon_walkFrom hm

theorem canon_walkerRun {u : Hub} {m : MemSys} {die part fn va : Nat} (hm : m.Canon) : (walkerRun u m die part fn va).1.Canon := by
  unfold walkerRun
  dsimp only
  split
  · exact hm.others
  · exact (canon_walkVa hm.others).others

theorem canon_lineRead {m : MemSys} {part pa : Nat} (h : m.Canon) : (lineRead m part pa).1.Canon := by
  unfold lineRead
  split
  · exact canon_hbmRead h
  · exact h

theorem canon_lineWrite {m : MemSys} {part pa route mask : Nat} {data : Line} {tag : BitVec 16} (h : m.Canon) :
    (lineWrite m part pa route mask data tag).1.Canon := by
  unfold lineWrite
  split
  · exact canon_hbmWrite h
  split
  · exact h.others
  · exact h.withHost (memWf_mputMask h.host _ _ _ _)

theorem canon_walkAsk {m : MemSys} {die : Nat} {w : Walk} (h : m.Canon) : (walkAsk m die w).Canon :=
  h.others

theorem canon_walkDrop {m : MemSys} {die idx : Nat} (h : m.Canon) : (walkDrop m die idx).Canon :=
  h.others

theorem canon_hubXlate {u : Hub} {m : MemSys} {x : HubX} {part fn va kind : Nat} (hm : m.Canon) : (hubXlate u m x part fn va kind).1.Canon := by
  unfold hubXlate
  split
  · exact hm
  split
  · exact hm
  split
  · exact hm
  split
  · exact hm
  · exact canon_walkAsk hm

theorem canon_hubLine {m : MemSys} {e : TEnt} {part fn va : Nat} (h : m.Canon) : (hubLine m e part fn va).1.Canon := by
  unfold hubLine
  dsimp only
  split <;> exact canon_lineRead h

theorem canon_hubRead {u : Hub} {m : MemSys} {x : HubX} {part fn va : Nat} (hm : m.Canon) : (hubRead u m x part fn va).1.Canon := by
  unfold hubRead
  dsimp only
  split
  · exact hm
  · split
    · exact canon_hubXlate hm
    · exact canon_hubXlate hm
    · split <;> exact canon_hubLine (canon_hubXlate hm)

theorem canon_hubWrite {u : Hub} {m : MemSys} {x : HubX} {part fn va : Nat} {data : Line} (hm : m.Canon) : (hubWrite u m x part fn va data).1.Canon := by
  unfold hubWrite
  dsimp only
  split
  · exact canon_hubXlate hm
  · exact canon_hubXlate hm
  · split
    · exact canon_hubXlate hm
    · split <;> exact canon_lineWrite (canon_hubXlate hm)

theorem canon_hubReadN {u : Hub} {part fn n : Nat} {m : MemSys} {x : HubX} {va : Nat} (h : m.Canon) :
    (hubReadN u part fn n m x va).1.Canon := by
  induction n generalizing m x va with
  | zero => exact h
  | succ n ih =>
    unfold hubReadN
    extract_lets q r
    have hq : q.1.Canon := canon_hubRead h
    have hr : r.1.Canon := ih hq
    split
    · split <;> exact hr
    · exact hq

/-! ### Fault reports (15 R419-R422) -/

theorem canon_dropReport {u : Hub} {part fn : Nat} (h : u.Canon) : (dropReport u part fn).Canon :=
  canon_modPart h fun _ h1 => ⟨h1.mbuf⟩

theorem canon_setPosts {u : Hub} {part fn : Nat} {l : List RepOut} (h : u.Canon) : (setPosts u part fn l).Canon :=
  canon_modPart h fun _ h1 => ⟨h1.mbuf⟩

theorem canon_repDone {s : State} {rid : Option Nat} (h : s.Canon) : (repDone s rid).Canon := by
  unfold repDone
  split
  · exact h
  · exact h.withFab (canon_regionEvent h.fab)

theorem canon_postNext {s : State} {part fn : Nat} (h : s.Canon) : (postNext s part fn).Canon := by
  unfold postNext
  dsimp only
  split
  · exact h
  split
  · exact canon_repDone (h.withHub (canon_setPosts (canon_dropReport h.hub)))
  split
  · exact h.withHubMem (canon_setPosts h.hub) (canon_hubWrite h.mem)
  · exact canon_repDone (h.withHubMem (canon_setPosts (canon_dropReport h.hub)) (canon_hubWrite h.mem))
  · exact canon_repDone (h.withHubMem (canon_setPosts (canon_modPart h.hub fun _ h1 => ⟨h1.mbuf⟩)) (canon_hubWrite h.mem))

theorem canon_postRun {s : State} {part fn : Nat} (h : s.Canon) : (postRun s part fn).Canon :=
  foldl_keeps h fun _ _ h1 => canon_postNext h1

theorem canon_postLine {s : State} {part fn : Nat} {rid : Option Nat} {line : Line} (h : s.Canon) : (postLine s part fn rid line).Canon :=
  canon_postRun (h.withHub (canon_setPosts h.hub))

theorem canon_poisonReport {s : State} {part pa : Nat} (h : s.Canon) : (poisonReport s part pa).Canon :=
  canon_postLine h

theorem canon_poisonPost {s : State} (h : s.Canon) : (poisonPost s).Canon :=
  foldl_keeps (h.withMem h.mem.others) fun _ _ h1 => canon_poisonReport h1

theorem canon_postReport {s : State} {core ctx : Nat} {p : Rep} (h : s.Canon) : (postReport s core ctx p).Canon := by
  unfold postReport
  split
  · exact h
  · exact canon_postLine h

theorem canon_haltReport {s : State} {core : Nat} (h : s.Canon) : (haltReport s core).Canon := by
  unfold haltReport
  split
  · exact h
  · exact canon_postReport h

/-! ### Completion of a control-core instruction (09 R249-R251) -/

theorem canon_cc {s : State} (h : s.Canon) : (cc s).Canon :=
  canon_ccOf h.fab

theorem canon_setCc {s : State} {c : CC} (hs : s.Canon) (hc : c.Canon) : (setCc s c).Canon :=
  hs.withFab (hs.fab.withCcs (tabAll_tins hs.fab.ccs hc))

theorem canon_srcCheck {c : CC} {srcs : List (Nat × Bool)} {k : CRes} (hk : k.Canon) : (srcCheck c srcs k).Canon := by
  unfold srcCheck
  split
  · exact trivial
  split
  · exact trivial
  · exact hk

theorem canon_toDest {s : State} {c : CC} {d : Nat} {c' : CC} (hs : s.Canon) (hc' : c'.Canon) : (toDest s c d c').Canon := by
  unfold toDest
  split
  · exact trivial
  · exact canon_setCc hs hc'

theorem canon_ccTick {free : Nat} {c : CC} (h : c.Canon) : (ccTick free c).Canon :=
  h.others

theorem canon_ccDone {s : State} (h : s.Canon) : (ccDone s).Canon :=
  (canon_setCc h (canon_ccTick (canon_cc h)).others).others

theorem canon_ccWait {s : State} (h : s.Canon) : (ccWait s).Canon :=
  (canon_setCc h (canon_ccTick (canon_cc h)).others).others

theorem canon_ccTrap {s : State} {kind code : Nat} {val : Word} {epc : BitVec 16} (h : s.Canon) : (ccTrap s kind code val epc).Canon := by
  unfold ccTrap
  dsimp only
  split
  · exact canon_haltReport (canon_setCc h (canon_doubleTrap (canon_ccTick (canon_cc h)))).others
  · exact (canon_setCc h (canon_trapEntry (canon_ccTick (canon_cc h)))).others

theorem canon_ccFinish {s : State} {r : CRes} (hs : s.Canon) (hr : r.Canon) : OutCanon (ccFinish s r) := by
  unfold ccFinish
  split
  · exact canon_ccDone hr
  · exact canon_ccWait hs
  · exact canon_ccWait hr
  · exact canon_ccTrap hs

theorem canon_coreUncorr {f : Fab} {core : Nat} (h : f.Canon) : (coreUncorr f core).Canon := by
  unfold coreUncorr
  split
  · exact h
  split
  · exact h
  split
  · exact h
  · exact canon_raiseFault h

theorem canon_sramRead {s : State} {a n : Nat} {k : Nat → CRes} (hs : s.Canon) (hk : ∀ x, (k x).Canon) : (sramRead s a n k).Canon := by
  unfold sramRead
  split
  · exact hs.withFab (canon_coreUncorr hs.fab)
  · exact hk _

theorem canon_sramWrite {c : CC} {a n v : Nat} (h : c.Canon) : (sramWrite c a n v).Canon :=
  h.withDsram (memWf_mputN h.dsram _ _ _)

/-! ### Integer instructions (09 R253-R257) -/

theorem canon_ccAlu {s : State} {d a b : BitVec 5} {p q : BitVec 1} {f : Word → Word → Word} (h : s.Canon) : OutCanon (ccAlu s d a b p q f) :=
  canon_ccFinish h (canon_srcCheck (canon_toDest h (canon_adv (canon_rset (canon_cc h)))))

theorem canon_ccAlu1 {s : State} {d a : BitVec 5} {p : BitVec 1} {f : Word → Word} (h : s.Canon) : OutCanon (ccAlu1 s d a p f) :=
  canon_ccFinish h (canon_srcCheck (canon_toDest h (canon_adv (canon_rset (canon_cc h)))))

theorem canon_ccAlu0 {s : State} {d : BitVec 5} {v : Word} (h : s.Canon) : OutCanon (ccAlu0 s d v) :=
  canon_ccFinish h (canon_toDest h (canon_adv (canon_rset (canon_cc h))))

/-! ### Loads, stores and branches (09 R258-R260) -/

theorem canon_sramCheck {e : Word} {width : Nat} {k : CRes} (h : k.Canon) : (sramCheck e width k).Canon := by
  unfold sramCheck
  split
  · exact trivial
  split
  · exact trivial
  · exact h

theorem canon_ccLoad {s : State} {d a : BitVec 5} {p : BitVec 1} {i : BitVec 15} {width : Nat} {f : Nat → Word} (h : s.Canon) :
    OutCanon (ccLoad s d a p i width f) := by
  unfold ccLoad
  refine canon_ccFinish h (canon_srcCheck ?_)
  split
  · exact trivial
  · exact canon_sramCheck (canon_sramRead h fun _ => canon_toDest h (canon_adv (canon_rset (canon_cc h))))

theorem canon_ccStore {s : State} {d a : BitVec 5} {p q : BitVec 1} {i : BitVec 14} {width : Nat} (h : s.Canon) :
    OutCanon (ccStore s d a p q i width) := by
  unfold ccStore
  refine canon_ccFinish h (canon_srcCheck ?_)
  split
  · exact trivial
  · exact canon_sramCheck (canon_setCc h (canon_adv (canon_sramWrite (canon_cc h))))

theorem canon_ccBranch {s : State} {a b : BitVec 5} {p q : BitVec 1} {o : BitVec 14} {f : Word → Word → Bool} (h : s.Canon) :
    OutCanon (ccBranch s a b p q o f) := by
  unfold ccBranch
  refine canon_ccFinish h (canon_srcCheck (canon_setCc h ?_))
  split
  · exact (canon_cc h).others
  · exact canon_adv (canon_cc h)

theorem canon_execJ {_d : BitVec 5} {o : BitVec 21} {s : State} (h : s.Canon) : OutCanon (execJ _d o s) := by
  unfold execJ
  exact canon_ccFinish h (canon_setCc h (canon_cc h).others)

theorem canon_execJal {d : BitVec 5} {o : BitVec 21} {s : State} (h : s.Canon) : OutCanon (execJal d o s) :=
  canon_ccFinish h (canon_toDest h (canon_rset (canon_cc h)).others)

theorem canon_execJalr {d a : BitVec 5} {p : BitVec 1} {i : BitVec 15} {s : State} (h : s.Canon) : OutCanon (execJalr d a p i s) := by
  unfold execJalr
  refine canon_ccFinish h (canon_srcCheck ?_)
  split
  · exact trivial
  · exact canon_toDest h (canon_rset (canon_cc h)).others

/-! ### Full/empty instructions, traps and CSRs (09 R261-R275) -/

theorem canon_execFeClr {d _a _b : BitVec 5} {_p _q : BitVec 1} {s : State} (h : s.Canon) : OutCanon (execFeClr d _a _b _p _q s) :=
  canon_ccFinish h (canon_toDest h (canon_adv (canon_rclear (canon_cc h))))

theorem canon_execFeTst {d a _b : BitVec 5} {_p _q : BitVec 1} {s : State} (h : s.Canon) : OutCanon (execFeTst d a _b _p _q s) :=
  canon_ccFinish h (canon_toDest h (canon_adv (canon_rset (canon_cc h))))

theorem canon_execFeWait {_d a _b : BitVec 5} {p _q : BitVec 1} {s : State} (h : s.Canon) : OutCanon (execFeWait _d a _b p _q s) :=
  canon_ccFinish h (canon_srcCheck (canon_setCc h (canon_adv (canon_cc h))))

theorem canon_execFeTake {d a _b : BitVec 5} {p _q : BitVec 1} {s : State} (h : s.Canon) : OutCanon (execFeTake d a _b p _q s) :=
  canon_ccFinish h (canon_srcCheck (canon_toDest h (canon_adv (canon_rset (canon_rclear (canon_cc h))))))

theorem canon_execFeAny {d a _b : BitVec 5} {p _q : BitVec 1} {s : State} (h : s.Canon) : OutCanon (execFeAny d a _b p _q s) := by
  unfold execFeAny
  refine canon_ccFinish h (canon_srcCheck ?_)
  split
  · exact trivial
  · exact canon_toDest h (canon_adv (canon_rset (canon_cc h)))

theorem canon_execTrap {_d _a b : BitVec 5} {_p _q : BitVec 1} {s : State} (h : s.Canon) : OutCanon (execTrap _d _a b _p _q s) :=
  canon_ccFinish h trivial

theorem canon_execTret {d a b : BitVec 5} {p q : BitVec 1} {s : State} (h : s.Canon) : OutCanon (execTret d a b p q s) := by
  unfold execTret
  refine canon_ccFinish h ?_
  split
  · exact trivial
  · exact canon_setCc h (canon_trapReturn (canon_cc h))

theorem canon_execWfe {_d _a _b : BitVec 5} {_p _q : BitVec 1} {s : State} (h : s.Canon) : OutCanon (execWfe _d _a _b _p _q s) := by
  unfold execWfe
  refine canon_ccFinish h ?_
  split
  · exact canon_setCc h (canon_adv (canon_cc h))
  · exact trivial

theorem canon_execBrk {_d _a _b : BitVec 5} {_p _q : BitVec 1} {s : State} (h : s.Canon) : OutCanon (execBrk _d _a _b _p _q s) :=
  canon_ccFinish h trivial

theorem canon_csrPut {c : CC} {n : Nat} {v : Word} (h : c.Canon) : (csrPut c n v).Canon := by
  unfold csrPut
  split
  · exact h.others
  · exact h.others
  · exact h.others
  · exact h.others
  · exact h.others
  · exact h.others
  · exact h.others
  · exact h.others
  · exact h.others
  · exact h

theorem canon_ccCsr {s : State} {op : Nat} {d a : BitVec 5} {p : BitVec 1} {n : BitVec 12} (h : s.Canon) : OutCanon (ccCsr s op d a p n) := by
  unfold ccCsr
  refine canon_ccFinish h ?_
  split
  · exact trivial
  split
  · exact trivial
  split
  · exact trivial
  · exact canon_srcCheck (canon_toDest h (canon_adv (canon_rset (ite_keeps (canon_csrPut (canon_cc h)) (canon_cc h)))))

theorem canon_execIllegalInstruction {w : BitVec 32} {s : State} (h : s.Canon) : OutCanon (execIllegalInstruction w s) :=
  canon_ccFinish h trivial

theorem canon_execEventTrap {core : Nat} {s : State} (h : s.Canon) : OutCanon (execEventTrap core s) := by
  unfold execEventTrap
  dsimp only
  split
  · refine canon_onFab h (h.fab.withCcs (tabAll_tins h.fab.ccs (canon_trapEntry ?_)))
    split
    · exact (canon_adv (canon_ccOf h.fab)).others
    · exact canon_ccOf h.fab
  · exact h

theorem canon_execTimerEvent {core : Nat} {s : State} (h : s.Canon) : OutCanon (execTimerEvent core s) := by
  unfold execTimerEvent
  split
  · exact canon_onFab h (canon_modCc h.fab fun _ h1 => canon_setEv h1)
  · exact h

theorem canon_execRegisterFill {idx : Nat} {s : State} (h : s.Canon) : OutCanon (execRegisterFill idx s) := by
  unfold execRegisterFill
  refine canon_onFab h ?_
  split
  · exact h.fab
  split
  · exact h.fab
  · exact canon_modCc h.fab.others fun _ h1 => canon_rfill h1

/-! ### Stream commands (10 R277-R303) -/

theorem canon_serveOne {c : CC} {port : Nat} (h : c.Canon) : OptAll (fun q => q.1.Canon) (serveOne c port) := by
  unfold serveOne
  dsimp only
  split
  · exact trivial
  split
  · exact h.others
  split
  · exact trivial
  · exact h.others

theorem canon_serveSink {n : Nat} {c : CC} {port : Nat} (h : c.Canon) : (serveSink n c port).1.Canon := by
  induction n generalizing c with
  | zero => exact h
  | succ n ih =>
    unfold serveSink
    split
    · exact h
    · exact ih ((canon_serveOne h).get ‹_›)

theorem canon_serveCore {f : Fab} {core port : Nat} (h : f.Canon) : (serveCore f core port).Canon :=
  foldl_keeps (canon_modCc h fun _ _ => canon_serveSink (canon_ccOf h)) fun _ _ h1 => canon_sendFill h1

theorem canon_ccCmd {s : State} {word : Word} {reg : Nat} {req bad : Bool} {desc : Option (Nat × Bool)} {wait : Bool} {body : Word → CRes}
    (hs : s.Canon) (hbody : ∀ x, (body x).Canon) :
    OutCanon (ccCmd s word reg req bad desc wait body) := by
  unfold ccCmd
  refine canon_ccFinish hs ?_
  split
  · exact trivial
  split
  · exact trivial
  refine canon_srcCheck ?_
  split
  · exact trivial
  · exact hbody _

theorem canon_withBlock {s : State} {d : Word} {n : Nat} {k : Nat → CRes} (hs : s.Canon) (hk : ∀ x, (k x).Canon) : (withBlock s d n k).Canon := by
  unfold withBlock
  split
  · exact trivial
  split
  · exact trivial
  · exact canon_sramRead hs fun _ => hk _

theorem canon_issued {c : CC} {reg : Nat} {mems : BitVec 9} {hub : Bool} (h : c.Canon) : (issued c reg mems hub).Canon :=
  (canon_rowe (canon_adv h)).others

theorem canon_quick {s : State} {reg : Nat} (h : s.Canon) : (quick s reg).Canon :=
  canon_setCc h (canon_adv (canon_rowe (canon_cc h)))

theorem canon_thenFab {s : State} {g : Fab → Fab} (hs : s.Canon) (hg : ∀ f, f.Canon → (g f).Canon) : (thenFab s g).Canon :=
  hs.withFab (hg _ hs.fab)

theorem canon_vinBoth {f : Fab} {core port : Nat} {g : Vin → Vin} (h : f.Canon) : (vinBoth f core port g).Canon := by
  unfold vinBoth
  dsimp only
  split
  · exact canon_modCc h fun _ h1 => h1.others
  · exact canon_modCc (canon_modCc h fun _ h1 => h1.others) fun _ h1 => h1.others

theorem canon_execInject {a : BitVec 5} {p : BitVec 1} {l : BitVec 3} {n : BitVec 4} {s : State} (h : s.Canon) : OutCanon (execInject a p l n s) :=
  canon_ccCmd h fun _ => canon_thenFab (canon_setCc h (canon_adv (canon_cc h))) fun _ h1 => canon_vinBoth h1

theorem canon_execVend {a : BitVec 5} {p : BitVec 1} {n : BitVec 4} {s : State} (h : s.Canon) : OutCanon (execVend a p n s) :=
  canon_ccCmd h fun _ => canon_thenFab (canon_setCc h (canon_adv (canon_cc h))) fun _ h1 => canon_vinBoth h1

theorem canon_execRdout {r a : BitVec 5} {p : BitVec 1} {n : BitVec 4} {s : State} (h : s.Canon) : OutCanon (execRdout r a p n s) :=
  canon_ccCmd h fun _ => canon_thenFab (canon_setCc h (canon_adv (canon_rowe (canon_cc h))).others) fun _ h1 => canon_serveCore h1

theorem canon_execAccrst {a : BitVec 5} {p : BitVec 1} {j : BitVec 3} {s : State} (h : s.Canon) : OutCanon (execAccrst a p j s) := by
  unfold execAccrst
  refine canon_ccCmd h fun _ => ?_
  exact ite_keeps trivial (canon_thenFab (canon_setCc h (canon_adv (canon_cc h).others)) fun _ h1 => canon_serveCore h1)

theorem canon_execRdacc {r a : BitVec 5} {p : BitVec 1} {j : BitVec 3} {s : State} (h : s.Canon) : OutCanon (execRdacc r a p j s) :=
  canon_ccCmd h fun _ => canon_thenFab (canon_quick h) fun _ h1 => canon_sendFill h1

theorem canon_execVbind {a : BitVec 5} {p : BitVec 1} {n : BitVec 4} {s : State} (h : s.Canon) : OutCanon (execVbind a p n s) := by
  unfold execVbind
  refine canon_ccCmd h fun _ => ?_
  split
  · exact trivial
  · exact canon_thenFab (canon_setCc h (canon_adv (canon_cc h))) fun _ h1 => canon_vinBoth h1

theorem canon_earlyEdge {f : Fab} {core ctx : Nat} (h : f.Canon) : (earlyEdge f core ctx).Canon := by
  unfold earlyEdge
  split
  · exact h
  split
  · exact canon_modRegion h
  · exact h

theorem canon_execRmark {a : BitVec 5} {p : BitVec 1} {s : State} (h : s.Canon) : OutCanon (execRmark a p s) := by
  unfold execRmark
  refine canon_ccCmd h fun _ => ?_
  split
  · exact trivial
  · exact canon_thenFab (canon_quick h) fun _ h1 => canon_earlyEdge h1

theorem canon_wcSettle {f : Fab} {core : Nat} (h : f.Canon) : (wcSettle f core).Canon :=
  foldl_keeps (canon_modCc h fun _ h1 => h1.others) fun _ _ h1 => canon_sendFill h1

theorem canon_execWcommit {r a : BitVec 5} {p : BitVec 1} {s : State} (h : s.Canon) : OutCanon (execWcommit r a p s) := by
  unfold execWcommit
  refine canon_ccCmd h fun _ => ?_
  split
  · exact trivial
  · exact canon_thenFab (canon_setCc h (canon_adv (canon_rowe (canon_cc h))).others) fun _ h1 => canon_wcSettle h1

theorem canon_ccFence {s : State} {sc : Nat} (h : s.Canon) : OutCanon (ccFence s sc) :=
  canon_ccCmd h fun _ => canon_quick h

theorem canon_ccDrain {s : State} {m : BitVec 9} (h : s.Canon) : OutCanon (ccDrain s m) :=
  canon_ccCmd h fun _ => canon_quick h

theorem canon_kwrRun {f : Fab} {key plane : Nat} (h : f.Canon) : (kwrRun f key plane).Canon :=
  foldl_keeps (canon_modElem h fun _ h1 => canon_modPlane h1) fun _ _ h1 => canon_cmdDone h1

theorem canon_execKwr {a : BitVec 5} {p : BitVec 1} {s : State} (h : s.Canon) : OutCanon (execKwr a p s) := by
  unfold execKwr
  dsimp only
  split
  · exact canon_ccFinish h trivial
  refine canon_ccCmd h fun _ => canon_withBlock h fun _ => ?_
  split
  · exact trivial
  split
  · exact trivial
  · exact canon_thenFab (canon_setCc h (canon_issued (canon_cc h))) fun _ h1 => canon_kwrRun (canon_modElem (canon_cmdDone h1) fun _ h2 =>
      canon_modPlane h2)

theorem canon_agPush {f : Fab} {key : Nat} {x : AgCmd} (hf : f.Canon) (hx : x.Canon) : (agPush f key x).Canon :=
  canon_modElem hf fun _ h => h.withAg (h.ag.withInbox (listAll_append h.ag.inbox (listAll_cons hx listAll_nil)))

theorem canon_execCopy {r a : BitVec 5} {p : BitVec 1} {n : BitVec 4} {s : State} (h : s.Canon) : OutCanon (execCopy r a p n s) := by
  unfold execCopy
  refine canon_ccCmd h fun _ => canon_withBlock h fun _ => ?_
  dsimp only
  split
  · exact trivial
  split
  · exact trivial
  split
  · exact trivial
  split
  · exact trivial
  · exact canon_thenFab (canon_setCc h (canon_issued (canon_cc h))) fun _ h1 => canon_agPush h1 (AgCmd.Canon.of_block (memWf_mputN memWf_nil _ _ _))

theorem canon_execSbind {r a : BitVec 5} {p : BitVec 1} {n : BitVec 4} {s : State} (h : s.Canon) : OutCanon (execSbind r a p n s) := by
  unfold execSbind
  refine canon_ccCmd h fun _ => canon_withBlock h fun _ => ?_
  split
  · exact trivial
  · exact canon_thenFab (canon_setCc h (canon_issued (canon_cc h))) fun _ h1 => canon_agPush h1 (AgCmd.Canon.of_block (memWf_mputN memWf_nil _ _ _))

theorem canon_execAflush {r a : BitVec 5} {p : BitVec 1} {n : BitVec 4} {s : State} (h : s.Canon) : OutCanon (execAflush r a p n s) := by
  unfold execAflush
  refine canon_ccCmd h fun _ => ?_
  split
  · exact trivial
  · exact canon_thenFab (canon_setCc h (canon_issued (canon_cc h))) fun _ h1 => canon_agPush h1 (AgCmd.Canon.of_block memWf_nil)

theorem canon_ccAmo {s : State} {op : Nat} {r a : BitVec 5} {p : BitVec 1} {n : BitVec 4} (h : s.Canon) : OutCanon (ccAmo s op r a p n) := by
  unfold ccAmo
  refine canon_ccCmd h fun _ => canon_withBlock h fun _ => ?_
  refine ite_keeps trivial (ite_keeps trivial (ite_keeps trivial (ite_keeps trivial (ite_keeps trivial ?_))))
  refine canon_thenFab (canon_setCc h ?_) fun _ h1 => canon_modElem h1 fun _ h2 => h2.withMt h2.mt.others
  exact ite_keeps (canon_issued (canon_cc h)).others (canon_issued (canon_cc h))

theorem canon_execSwap {r a : BitVec 5} {p : BitVec 1} {s : State} (h : s.Canon) : OutCanon (execSwap r a p s) := by
  refine canon_ccCmd h fun d => canon_withBlock h fun b => ?_
  extract_lets old new tick t w
  refine ite_keeps trivial ?_
  split
  · exact canon_quick h
  extract_lets refuse
  have ht : t.Canon := canon_setCc h (canon_issued (canon_cc h))
  have hrefuse (code : Word) : (refuse code).Canon := canon_thenFab ht fun _ h1 => canon_regionEvent (canon_cmdReply h1)
  exact ite_keeps (hrefuse 3) (ite_keeps (hrefuse 2) (canon_thenFab ht fun _ h1 => canon_modRegion h1))

theorem canon_sendDrift {f : Fab} {did kind : Nat} {reply : Option (Nat × Nat × Nat)} (h : f.Canon) : (sendDrift f did kind reply).Canon :=
  canon_modRegion h

theorem canon_ccDrift {s : State} {kind cmd : Nat} {r a : BitVec 5} {p : BitVec 1} (h : s.Canon) : OutCanon (ccDrift s kind cmd r a p) := by
  unfold ccDrift
  refine canon_ccCmd h fun d => ite_keeps trivial ?_
  extract_lets t answer
  have ht : t.Canon := canon_setCc h (canon_issued (canon_cc h))
  have hanswer (v : Word) : (answer v).Canon := canon_thenFab ht fun _ h1 => canon_cmdReply h1
  split
  · exact hanswer 1
  split
  · exact hanswer 1
  refine ite_keeps (canon_thenFab ht fun _ h1 => canon_modRegion h1) (ite_keeps (hanswer 2) (ite_keeps ?_ ?_))
  · exact canon_thenFab ht fun _ h1 => canon_cmdReply (canon_modRegion h1)
  · exact canon_thenFab ht fun _ h1 => canon_sendDrift h1

theorem canon_selectSpine {f : Fab} {r : Region} {n : Nat} (h : f.Canon) : (selectSpine f r n).Canon :=
  foldl_keeps h fun _ _ h1 => canon_modElem h1 fun _ h2 => h2.others

theorem canon_endLease {f : Fab} {rid : Nat} (h : f.Canon) : (endLease f rid).Canon := by
  unfold endLease
  split
  · exact h
  · exact canon_selectSpine (canon_modRegion h)

theorem canon_execLease {r a : BitVec 5} {p : BitVec 1} {s : State} (h : s.Canon) : OutCanon (execLease r a p s) := by
  unfold execLease
  refine canon_ccCmd h fun d => ite_keeps trivial ?_
  extract_lets t e
  have ht : t.Canon := canon_setCc h (canon_issued (canon_cc h))
  split
  · exact canon_thenFab ht fun _ h1 => canon_cmdReply h1
  extract_lets pt t1
  refine ite_keeps (canon_thenFab ht.others fun _ h1 => canon_cmdReply h1) ?_
  have ht1 : t1.Canon := ht.withHub (canon_modPart ht.hub fun _ h1 => ⟨h1.mbuf⟩)
  exact canon_thenFab ht1 fun _ h1 => canon_cmdReply (canon_selectSpine (canon_modRegion h1.others))

theorem canon_execLeaseEnd {_a : BitVec 5} {_p : BitVec 1} {s : State} (h : s.Canon) : OutCanon (execLeaseEnd _a _p s) := by
  unfold execLeaseEnd
  refine canon_ccCmd h fun _ => ?_
  split
  · exact canon_quick h
  split
  · exact canon_thenFab (canon_quick h) fun _ h1 => canon_endLease h1
  · exact canon_quick h

theorem canon_execLaunch {r a : BitVec 5} {p : BitVec 1} {s : State} (h : s.Canon) : OutCanon (execLaunch r a p s) := by
  unfold execLaunch
  refine canon_ccCmd h fun _ => ?_
  split
  · exact trivial
  split
  · exact trivial
  dsimp only
  split
  · exact canon_setCc h (canon_issued (canon_cc h))
  · exact (canon_setCc h (canon_issued (canon_cc h))).withHub (canon_modPart h.hub fun _ h1 => ⟨h1.mbuf⟩)

theorem canon_ccXinv {s : State} {kind cmd : Nat} {a : BitVec 5} {p : BitVec 1} (h : s.Canon) : OutCanon (ccXinv s kind cmd a p) := by
  unfold ccXinv
  refine ite_keeps (canon_ccFinish h trivial) ?_
  refine canon_ccCmd h fun _ => ?_
  exact ite_keeps trivial (ite_keeps trivial ((canon_setCc h (canon_issued (canon_cc h))).withHub (canon_modPart h.hub fun _ h1 => ⟨h1.mbuf⟩)))

/-! ### Memory-tile banks (04 R102-R110, 13 R372-R374) -/

theorem canon_putCheck {m : MtSt} {b line : Nat} (h : m.Canon) : (putCheck m b line).Canon :=
  h.others

theorem canon_bankJournal {m : MtSt} {b line ctx : Nat} {round : BitVec 32} (h : m.Canon) : (bankJournal m b line ctx round).Canon := by
  unfold bankJournal
  dsimp only
  split
  · exact h
  · exact h.others

theorem canon_clearBad {m : MtSt} {a n : Nat} (h : m.Canon) : (clearBad m a n).Canon :=
  h.others

theorem canon_reqData {m : MtSt} {q : MemReq} (h : m.Canon) : (reqData m q).Canon := by
  unfold reqData
  dsimp only
  split
  · exact MtSt.Canon.of_data (memWf_putLine h.data _ _)
  · split <;> exact MtSt.Canon.of_data (memWf_mputN h.data _ _ _)

theorem canon_reqWrite {m : MtSt} {q : MemReq} (h : m.Canon) : (reqWrite m q).Canon := by
  unfold reqWrite
  split
  · exact canon_putCheck (canon_reqData h)
  · exact h

theorem canon_bankTouch {m : MtSt} {b ctx : Nat} {round : BitVec 32} (h : m.Canon) : (bankTouch m b ctx round).Canon := by
  unfold bankTouch
  split
  · exact h
  · exact h.others

theorem canon_reqPerform {m : MtSt} {q : MemReq} {jrn : Option (BitVec 32)} (h : m.Canon) : (reqPerform m q jrn).Canon := by
  unfold reqPerform
  refine canon_reqWrite ?_
  split
  · exact canon_bankTouch (ite_keeps (canon_bankJournal h) h)
  · exact h

theorem canon_modMt {f : Fab} {key : Nat} {g : MtSt → MtSt} (hf : f.Canon) (hg : ∀ m, m.Canon → (g m).Canon) : (modMt f key g).Canon :=
  canon_modElem hf fun _ h => h.withMt (hg _ h.mt)

theorem canon_bankPush {f : Fab} {key : Nat} {q : MemReq} {rr : Option Nat} (h : f.Canon) : (bankPush f key q rr).Canon :=
  canon_modMt h fun _ h1 => h1.others

theorem canon_cfgPush {f : Fab} {key : Nat} {q : MemReq} (h : f.Canon) : (cfgPush f key q).Canon :=
  canon_modMt h fun _ h1 => h1.others

theorem canon_quotaClear {m : MtSt} (h : m.Canon) : (quotaClear m).Canon := by
  unfold quotaClear
  split
  · exact h.others
  · exact h

theorem canon_countUse {m : MtSt} {b s : Nat} (h : m.Canon) : (countUse m b s).Canon :=
  (canon_quotaClear h).others

/-! ### Firing a slot (07 R192, 08 R230-R234, 11 R308-R311) -/

theorem canon_popQ {f : Fab} {key sel : Nat} (h : f.Canon) : (popQ f key sel).Canon := by
  unfold popQ
  dsimp only
  split
  · exact h
  split
  · exact canon_modElem h fun _ h1 => h1.others
  · exact canon_modElem (canon_modElem h fun _ h1 => h1.others) fun _ h1 => h1.others

theorem canon_pushOut {f : Fab} {key sel : Nat} {t : Token} (h : f.Canon) : (pushOut f key sel t).Canon :=
  canon_modElem h fun _ h1 => h1.others

theorem canon_busy {f : Fab} {key ctx : Nat} (h : f.Canon) : (busy f key ctx).Canon := by
  unfold busy
  split
  · exact h
  · exact canon_modRegion h

theorem canon_openWindow {e : Elem} {plane : Nat} (h : e.Canon) : (openWindow e plane).Canon :=
  h.others

theorem canon_markFired {f : Fab} {x : FireCtx} (h : f.Canon) : (markFired f x).Canon :=
  canon_modElem (canon_busy h) fun _ h1 => canon_modPlane (canon_modRun (canon_openWindow h1).others)

theorem canon_slotRaise {f : Fab} {x : FireCtx} {cause : Nat} {qsel : Option Nat} {info0 info1 : Nat} (h : f.Canon) :
    (slotRaise f x cause qsel info0 info1).Canon :=
  canon_raiseFault h

theorem canon_popFor {f : Fab} {x : FireCtx} {sel : Nat} (h : f.Canon) : (popFor f x sel).Canon := by
  unfold popFor
  extract_lets f1
  have hf1 : f1.Canon := canon_modElem (canon_popQ h) fun _ h1 => h1.others
  split
  · exact h
  split
  · exact canon_modElem hf1 fun _ h1 => h1.others
  · exact hf1

theorem canon_popAll {f : Fab} {x : FireCtx} (h : f.Canon) : (popAll f x).Canon :=
  foldl_keeps h fun _ _ h1 => canon_popFor h1

theorem canon_addPend {f : Fab} {x : FireCtx} {q : PendW} (h : f.Canon) : (addPend f x q).Canon :=
  canon_modElem h fun _ h1 => h1.others

theorem canon_putPwe {f : Fab} {x : FireCtx} {cond : Bool} (h : f.Canon) : (putPwe f x cond).Canon := by
  unfold putPwe
  split
  · exact canon_addPend h
  · exact h

theorem canon_putResult {f : Fab} {x : FireCtx} {res : Line} {cond : Bool} {lvl : BitVec 3} (h : f.Canon) : (putResult f x res cond lvl).Canon := by
  unfold putResult
  refine canon_putPwe ?_
  split
  · exact canon_addPend h
  · exact canon_addPend h
  · exact canon_addPend h
  · exact canon_pushOut h
  · exact canon_pushOut h
  · exact h

theorem canon_fire {s : State} {op : Nat} {w : Slot} {body : FireCtx → Fab → Fab} (hs : s.Canon) (hbody : ∀ x f, f.Canon → (body x f).Canon) :
    OutCanon (fire s op w body) := by
  unfold fire
  dsimp only
  split
  · split
    · exact canon_onFab hs (canon_raiseFault hs.fab)
    split
    · exact canon_onFab hs (canon_slotRaise (canon_markFired hs.fab))
    split
    · exact canon_onFab hs (canon_slotRaise (canon_markFired hs.fab))
    · exact canon_onFab hs (hbody _ _ (canon_markFired hs.fab))
  · exact hs

theorem canon_cleanReg {e : Elem} {n sel : Nat} (h : e.Canon) : (applyPend.cleanReg e n sel).Canon := h.others

theorem canon_applyPend {e : Elem} {q : PendW} (h : e.Canon) : (applyPend e q).Canon := by
  unfold applyPend
  split
  · exact canon_modRun (canon_cleanReg h)
  · exact canon_modRun (canon_cleanReg h)
  · exact canon_modRun h
  · exact h.withCt (CtSt.Canon.of_ls (memWf_lsWrite (foldl_keeps h.ct fun _ _ h1 => canon_lsJournal h1).ls))

theorem canon_ageSlot {f : Fab} {key plane n cyc : Nat} {e : Elem} (he : e.Canon) : (ageSlot f key plane n cyc e).Canon := by
  unfold ageSlot
  dsimp only
  split <;> exact canon_modRun he

theorem canon_fencePending {e : Elem} {key plane : Nat} (h : e.Canon) : (fencePending e key plane).Canon := by
  unfold fencePending
  dsimp only
  split
  · exact h
  · exact canon_modRun h

theorem canon_endSettle {e : Elem} {key plane : Nat} (h : e.Canon) : (endSettle e key plane).Canon := by
  unfold endSettle
  dsimp only
  split
  · exact canon_modRun h
  · exact h

theorem canon_lsTick {c : CtSt} (h : c.Canon) : (lsTick c).Canon :=
  h.others

theorem canon_timingTick {e : Elem} (h : e.Canon) : (timingTick e).Canon :=
  h.others

theorem canon_tileTick {f : Fab} {key : Nat} (h : f.Canon) : (tileTick f key).Canon := by
  unfold tileTick
  extract_lets f1 e e1 e2 f2
  have hf1 : f1.Canon := by
    refine canon_modElem h fun e he => ?_
    have ht : (timingTick ((pendOrder e.pend).foldl applyPend e)).Canon := canon_timingTick (foldl_keeps he fun _ _ h1 => canon_applyPend h1)
    exact ht.withMtCt ht.mt.others (canon_lsTick ht.ct)
  have he : e.Canon := canon_elemOf hf1
  have he1 : e1.Canon := ite_keeps (foldl_keeps he fun _ _ h1 => canon_fencePending h1) he
  have he2 : e2.Canon := foldl_keeps he1 fun _ _ h1 => canon_endSettle h1
  have hf2 : f2.Canon := hf1.withElems (tabAll_tins hf1.elems he2)
  exact hf2.withElems (tabAll_tins hf2.elems (foldl_keeps he2 fun _ _ h1 => foldl_keeps h1 fun _ _ h2 => canon_ageSlot h2))

/-! ### Matrix operations (12 R334-R354) -/

theorem canon_pairInc {x : FireCtx} {sel : Nat} {f : Fab} (h : f.Canon) : (pairInc x sel f).Canon :=
  canon_addPend h

theorem canon_lsMisalign {f : Fab} {x : FireCtx} {a : Nat} (h : f.Canon) : (lsMisalign f x a).Canon :=
  canon_slotRaise h

theorem canon_modHalf {f : Fab} {key x : Nat} {g : Half → Half} (h : f.Canon) : (modHalf f key x g).Canon :=
  canon_modElem h fun _ h1 => h1.withCt h1.ct.others

theorem canon_execMload {w : Slot} {s : State} (h : s.Canon) : OutCanon (execMload w s) := by
  unfold execMload
  refine canon_fire h fun _ _ h1 => ?_
  dsimp only
  split
  · split
    · exact canon_slotRaise h1
    split
    · exact canon_lsMisalign h1
    split
    · exact canon_pairInc (canon_modElem (canon_modHalf (canon_popAll h1)) fun _ h2 => h2.withCt h2.ct.others)
    · exact canon_modElem (canon_modHalf (canon_popAll h1)) fun _ h2 => h2.withCt h2.ct.others
  split
  · exact canon_slotRaise h1
  · exact canon_modHalf (canon_popAll h1)

theorem canon_modAcc {f : Fab} {x : FireCtx} {j : Nat} {g : MAcc → MAcc} (h : f.Canon) : (modAcc f x j g).Canon :=
  canon_modElem h fun _ h1 => canon_modRun h1

theorem canon_mma {s : State} {op : Nat} {w : Slot} (h : s.Canon) : OutCanon (mma s op w) := by
  refine canon_fire h fun x f hf => ?_
  refine ite_keeps (canon_slotRaise hf) ?_
  have hacc {g : MAcc → MAcc} {j : Nat} : (modAcc (popAll f x) x j g).Canon := canon_modAcc (canon_popAll hf)
  have hpend {q : PendW} {c : Prop} [Decidable c] {f : Fab} (h : f.Canon) : (if c then addPend f x q else f).Canon :=
    ite_keeps (canon_addPend h) h
  have hhalf {i : Nat} {c : Prop} [Decidable c] {f : Fab} (h : f.Canon) : (if c then modHalf f x.key i halfRead else f).Canon :=
    ite_keeps (canon_modHalf h) h
  exact hhalf (hhalf (hpend hacc))

theorem canon_execMzero {w : Slot} {s : State} (h : s.Canon) : OutCanon (execMzero w s) :=
  canon_fire h fun _ _ h1 => canon_modAcc (canon_modElem (canon_popAll h1) fun _ h2 => h2.others)

theorem canon_execMband {w : Slot} {s : State} (h : s.Canon) : OutCanon (execMband w s) :=
  canon_fire h fun _ _ h1 => ite_keeps (canon_slotRaise h1) (canon_modAcc (canon_popAll h1))

theorem canon_execMdrain {w : Slot} {s : State} (h : s.Canon) : OutCanon (execMdrain w s) := by
  unfold execMdrain
  refine ite_keeps h (canon_fire h fun x f hf => ?_)
  extract_lets m q md r clr a rot
  have hclr : (clr f).Canon := ite_keeps (canon_modAcc (canon_popAll hf)) (canon_popAll hf)
  refine ite_keeps (canon_slotRaise hf) (ite_keeps ?_ (canon_putResult hclr))
  refine ite_keeps (canon_slotRaise hf) (ite_keeps (canon_lsMisalign hf) (ite_keeps (canon_raiseFault hf) ?_))
  exact canon_putPwe (canon_addPend (canon_modElem hclr fun _ h2 => h2.withCt h2.ct.others))

theorem canon_execMstat {w : Slot} {s : State} (h : s.Canon) : OutCanon (execMstat w s) :=
  canon_fire h fun _ _ h1 => canon_putResult (ite_keeps (canon_modAcc (canon_popAll h1)) (canon_popAll h1))

/-! ### Movement operations (13 R355-R369) -/

theorem canon_emitTo {f : Fab} {x : FireCtx} {sel : Nat} {t : Token} (h : f.Canon) : (emitTo f x sel t).Canon := by
  unfold emitTo
  split
  · exact h
  · exact canon_pushOut h

theorem canon_modSelf {f : Fab} {x : FireCtx} {g : SlotSt → SlotSt} (h : f.Canon) : (modSelf f x g).Canon :=
  canon_modElem h fun _ h1 => canon_modRun h1

theorem canon_forwardOne {f : Fab} {x : FireCtx} {src : Nat} (h : f.Canon) : (forwardOne f x src).Canon :=
  canon_putPwe (canon_emitTo (canon_popAll h))

theorem canon_execPass {w : Slot} {s : State} (h : s.Canon) : OutCanon (execPass w s) :=
  canon_fire h fun _ _ h1 => canon_forwardOne h1

theorem canon_execDrop {w : Slot} {s : State} (h : s.Canon) : OutCanon (execDrop w s) :=
  canon_fire h fun _ _ h1 => canon_putPwe (canon_popAll h1)

theorem canon_execDelay {w : Slot} {s : State} (h : s.Canon) : OutCanon (execDelay w s) := by
  unfold execDelay
  refine canon_fire h fun _ _ h1 => ?_
  split
  · exact h1
  · exact canon_putPwe (canon_emitTo (canon_modSelf (canon_popAll h1)))

theorem canon_execSteer {w : Slot} {s : State} (h : s.Canon) : OutCanon (execSteer w s) :=
  canon_fire h fun _ _ h1 => canon_putPwe (canon_emitTo (canon_popAll h1))

theorem canon_execFilt {w : Slot} {s : State} (h : s.Canon) : OutCanon (execFilt w s) := by
  unfold execFilt
  refine canon_fire h fun _ _ h1 => ?_
  split
  · exact h1
  · exact canon_putPwe (ite_keeps (canon_emitTo (canon_popAll h1)) (canon_popAll h1))

theorem canon_execRepl {w : Slot} {s : State} (h : s.Canon) : OutCanon (execRepl w s) :=
  canon_fire h fun _ _ h1 => canon_putPwe (foldl_keeps (canon_popAll h1) fun _ _ h2 => canon_emitTo h2)

theorem canon_execMergeO {w : Slot} {s : State} (h : s.Canon) : OutCanon (execMergeO w s) := by
  unfold execMergeO
  refine canon_fire h fun _ _ h1 => ?_
  split
  · exact h1
  · exact canon_modSelf (canon_forwardOne h1)

theorem canon_execMergeC {w : Slot} {s : State} (h : s.Canon) : OutCanon (execMergeC w s) :=
  canon_fire h fun _ _ h1 => canon_forwardOne h1

theorem canon_execMergeU {w : Slot} {s : State} (h : s.Canon) : OutCanon (execMergeU w s) :=
  canon_fire h fun _ _ h1 => ite_keeps (canon_modSelf (canon_forwardOne h1)) (canon_forwardOne h1)

theorem canon_join {s : State} {op : Nat} {w : Slot} {qb : Nat} {want : Nat → Nat → Bool × Bool} (h : s.Canon) : OutCanon (join s op w qb want) := by
  unfold join
  refine canon_fire h fun _ _ h1 => canon_putPwe ?_
  split
  · exact canon_emitTo (ite_keeps (canon_emitTo (canon_popAll h1)) (canon_popAll h1))
  split
  · exact canon_emitTo (canon_popAll h1)
  · exact canon_popAll h1

theorem canon_execCnt {w : Slot} {s : State} (h : s.Canon) : OutCanon (execCnt w s) := by
  unfold execCnt
  refine canon_fire h fun _ _ h1 => ?_
  refine ite_keeps (canon_slotRaise h1) ?_
  refine canon_putPwe (canon_emitTo ?_)
  exact ite_keeps (canon_emitTo (canon_modSelf (canon_popAll h1))) (canon_modSelf (canon_popAll h1))

theorem canon_execLastm {w : Slot} {s : State} (h : s.Canon) : OutCanon (execLastm w s) :=
  canon_fire h fun _ _ h1 => canon_putPwe (canon_emitTo (canon_popAll h1))

theorem canon_execAccRst {w : Slot} {s : State} (h : s.Canon) : OutCanon (execAccRst w s) := by
  unfold execAccRst
  refine canon_fire h fun _ _ h1 => ?_
  exact ite_keeps (canon_putPwe (canon_addPend (canon_emitTo (canon_popAll h1)))) (canon_popAll h1)

theorem canon_execTagset {w : Slot} {s : State} (h : s.Canon) : OutCanon (execTagset w s) := by
  unfold execTagset
  refine canon_fire h fun _ _ h1 => ?_
  split
  · exact h1
  · exact canon_putPwe (canon_emitTo (canon_popAll h1))

theorem canon_execTagchk {w : Slot} {s : State} (h : s.Canon) : OutCanon (execTagchk w s) := by
  unfold execTagchk
  refine canon_fire h fun _ _ h1 => ?_
  split
  · exact h1
  split
  · exact canon_slotRaise h1
  · exact canon_forwardOne h1

theorem canon_execCmpx {w : Slot} {s : State} (h : s.Canon) : OutCanon (execCmpx w s) := by
  unfold execCmpx
  refine canon_fire h (fun _ _ h1 => ?_)
  split
  · split
    · exact canon_modSelf (canon_forwardOne h1)
    · split <;> exact canon_slotRaise h1
  · exact h1

theorem canon_lsInc {x : FireCtx} {f : Fab} (h : f.Canon) : (lsInc x f).Canon := by
  unfold lsInc
  split
  · exact canon_pairInc h
  · exact h

theorem canon_lsTwice {x : FireCtx} {rot a n : Nat} {f : Fab} (h : f.Canon) : (lsTwice x rot a n f).Canon := by
  unfold lsTwice
  split
  · split
    · exact canon_modElem h fun _ h1 => h1.withCt h1.ct.others
    · exact h
  · exact h

theorem canon_lsFire {s : State} {op : Nat} {w : Slot} {n : Nat} {body : FireCtx → Nat → Nat → Fab → Fab} (hs : s.Canon)
    (hbody : ∀ x x1 x2 f, f.Canon → (body x x1 x2 f).Canon) :
    OutCanon (lsFire s op w n body) := by
  unfold lsFire
  refine ite_keeps hs ?_
  refine canon_fire hs fun _ _ h => ?_
  split
  · exact canon_slotRaise h
  · exact hbody _ _ _ _ h

theorem canon_execLsld {w : Slot} {s : State} (h : s.Canon) : OutCanon (execLsld w s) := by
  unfold execLsld
  refine canon_lsFire h fun _ _ _ _ h1 => ?_
  split
  · exact canon_slotRaise h1
  · exact canon_lsInc (canon_lsTwice (canon_putResult (canon_popAll h1)))

theorem canon_execLsst {w : Slot} {s : State} (h : s.Canon) : OutCanon (execLsst w s) := by
  unfold execLsst
  extract_lets b n
  refine canon_lsFire h fun _ _ _ _ h1 => ?_
  split
  · exact canon_slotRaise h1
  split
  · exact canon_slotRaise h1
  · exact canon_lsInc (canon_lsTwice (canon_putPwe (canon_addPend (canon_popAll h1))))

theorem canon_outAdd {e : Elem} {ctx : Nat} (h : e.Canon) : (outAdd e ctx).Canon :=
  h.others

theorem canon_outSub {e : Elem} {ctx n : Nat} (h : e.Canon) : (outSub e ctx n).Canon :=
  h.others

theorem canon_execHacc {w : Slot} {s : State} (h : s.Canon) : OutCanon (execHacc w s) := by
  unfold execHacc
  refine canon_fire h fun _ _ h1 => ?_
  dsimp only
  split
  · exact canon_slotRaise h1
  split
  · exact canon_slotRaise h1
  split
  · exact canon_slotRaise h1
  split
  · exact canon_slotRaise h1
  · exact canon_putPwe (canon_pushOut (canon_pushOut (canon_modElem (canon_popAll h1) fun _ h2 => canon_outAdd h2.others)))

theorem canon_flresStart {e : Elem} {plane : Nat} {cr : Bool} (h : e.Canon) : (flresStart e plane cr).Canon :=
  canon_modRun h

theorem canon_execFlres {w : Slot} {s : State} (h : s.Canon) : OutCanon (execFlres w s) :=
  canon_fire h fun _ _ h1 => canon_putPwe (canon_modElem (canon_popAll h1) fun _ h2 => canon_flresStart h2)

theorem canon_flushSend {f : Fab} {key plane : Nat} (h : f.Canon) : (flushSend f key plane).Canon := by
  unfold flushSend
  dsimp only
  split
  · split
    · exact h
    split
    · exact canon_modElem h fun _ h1 => canon_modRun h1
    split
    · exact canon_raiseFault (canon_modElem h fun _ h1 => canon_modRun h1)
    refine canon_pushOut (canon_pushOut (canon_modElem (canon_modElem h fun _ h1 => canon_modRun h1) fun _ h1 => ?_))
    split
    · exact canon_outAdd h1.others
    · exact h1.others
  · exact h

theorem canon_releaseFlush {f : Fab} {key plane : Nat} (h : f.Canon) : (releaseFlush f key plane).Canon := by
  unfold releaseFlush
  split
  · exact canon_modElem h fun _ h1 => canon_flresStart h1
  · exact h

theorem canon_twinSend {f : Fab} {key plane : Nat} (h : f.Canon) : (twinSend f key plane).Canon := by
  unfold twinSend
  split
  · exact h
  split
  · exact h
  dsimp only
  split
  · exact h
  refine foldl_keeps h fun _ _ h1 => ?_
  split
  · exact h1
  split
  · exact (canon_modElem h1 fun _ h2 => canon_modRun h2).others
  · exact h1

theorem canon_twinTake {f : Fab} {key : Nat} (h : f.Canon) : (twinTake f key).Canon := by
  unfold twinTake
  split
  · exact h
  dsimp only
  split
  · exact (canon_modElem (ite_keeps h (canon_raiseFault h)) fun _ h1 => h1.others).others
  · exact h

theorem canon_twinTick {f : Fab} {key : Nat} (h : f.Canon) : (twinTick f key).Canon :=
  canon_twinTake (foldl_keeps h fun _ _ h1 => canon_twinSend h1)

theorem canon_computeTick {f : Fab} {key : Nat} (h : f.Canon) : (computeTick f key).Canon :=
  canon_twinTick (foldl_keeps h fun _ _ h1 => canon_flushSend (canon_releaseFlush h1))

/-! ### Memory-tile operations and events (05 R133-R138, 06 R165-R170, 13 R371-R378) -/

theorem canon_emitReply {f : Fab} {key plane sel : Nat} {lvl : BitVec 3} {hdr : Option (BitVec 16)} {data : Line} (h : f.Canon) :
    (emitReply f key plane sel lvl hdr data).Canon := by
  unfold emitReply
  dsimp only
  split
  · exact h
  refine canon_pushOut ?_
  split
  · exact h
  split
  · exact h
  · exact canon_modElem (canon_pushOut h) fun _ h1 => canon_modRun h1

theorem canon_emitPass {f : Fab} {key plane src sel : Nat} {t : Token} (h : f.Canon) : (emitPass f key plane src sel t).Canon := by
  unfold emitPass
  split
  · exact h
  · exact canon_pushOut h

theorem canon_squashAt {m : MtSt} {j : Nat} (h : m.Canon) : (squashAt m j).Canon :=
  h.others

theorem canon_sectConflict {m : MtSt} {i b x : Nat} (h : m.Canon) : (sectConflict m i b x).Canon := by
  unfold sectConflict
  split
  · exact h
  · exact foldl_keeps h fun _ _ h1 => canon_squashAt h1

theorem canon_sectKeep {m : MtSt} {i : Nat} {q : MemReq} (h : m.Canon) : (sectKeep m i q).Canon := by
  unfold sectKeep
  dsimp only
  split
  · split
    · exact canon_squashAt h
    · exact canon_sectConflict (canon_squashAt h).others
  · exact canon_sectConflict h.others

theorem canon_groupReply {f : Fab} {key : Nat} {q : MemReq} {out : Line} (h : f.Canon) : (groupReply f key q out).Canon :=
  canon_emitReply h

theorem canon_acqDone {f : Fab} {key : Nat} {q : MemReq} (h : f.Canon) : (acqDone f key q).Canon := by
  unfold acqDone
  split
  · exact canon_modElem h fun _ h1 => canon_modRun h1
  · exact h

theorem canon_groupSend {f : Fab} {key : Nat} {q : MemReq} {els : Line} (h : f.Canon) : (groupSend f key q els).Canon := by
  unfold groupSend
  dsimp only
  split
  · exact canon_acqDone (canon_groupReply h)
  · exact canon_modMt h fun _ h1 => h1.others

theorem canon_sectReads {f : Fab} {key : Nat} {q : MemReq} (h : f.Canon) : (sectReads f key q).Canon := by
  unfold sectReads
  refine canon_modMt h fun _ h1 => ?_
  split
  · exact h1.others
  · exact h1

theorem canon_memSend {f : Fab} {x : FireCtx} {q : MemReq} {els : Line} (h : f.Canon) : (memSend f x q els).Canon := by
  unfold memSend
  extract_lets isGrp e q1 f1 hold send f2
  have hhold {d : Option Nat} {f : Fab} (hf : f.Canon) : (hold d f).Canon :=
    ite_keeps (canon_modElem hf fun _ h1 => canon_modRun h1) hf
  have hsend {f : Fab} {q : MemReq} (hf : f.Canon) : (send f q).Canon := ite_keeps (canon_groupSend hf) (canon_bankPush hf)
  have h1 : f1.Canon := canon_modMt h fun _ h => h.others
  have h2 : f2.Canon := ite_keeps (canon_modMt h1 fun _ h => h.others) h1
  split
  · exact hsend (canon_sectReads (hhold h1))
  · exact ite_keeps (canon_modElem (hhold h2) fun _ h => canon_modRun h) (hsend (hhold h1))

theorem canon_memFire {s : State} {op : Nat} {w : Slot} {kinds align : Nat} {mk : FireCtx → MemReq → MemReq} {size : Nat} {els : FireCtx → Line}
    (h : s.Canon) :
    OutCanon (memFire s op w kinds align mk size els) := by
  unfold memFire
  refine canon_fire h fun _ _ h1 => ?_
  split
  · exact h1
  split
  · exact canon_slotRaise h1
  · exact canon_memSend (canon_popAll h1)

theorem canon_execLdSlot {w : Slot} {s : State} (h : s.Canon) : OutCanon (execLdSlot w s) := by
  unfold execLdSlot
  exact canon_memFire h

theorem canon_execStSlot {w : Slot} {s : State} (h : s.Canon) : OutCanon (execStSlot w s) := by
  unfold execStSlot
  exact canon_memFire h

theorem canon_slotAmo {s : State} {op : Nat} {w : Slot} (h : s.Canon) : OutCanon (slotAmo s op w) := by
  unfold slotAmo
  exact canon_memFire h

theorem canon_execOsecB {w : Slot} {s : State} (h : s.Canon) : OutCanon (execOsecB w s) := by
  unfold execOsecB
  refine canon_fire h fun _ _ h1 => ?_
  dsimp only
  split
  · exact canon_slotRaise h1
  split
  · exact h1
  · exact canon_modElem (canon_popAll h1) fun _ h2 => canon_modRun (h2.withMt h2.mt.others)

theorem canon_execOsecE {w : Slot} {s : State} (h : s.Canon) : OutCanon (execOsecE w s) := by
  unfold execOsecE
  refine canon_fire h fun _ _ h1 => ?_
  dsimp only
  split
  · exact h1
  split
  · exact canon_slotRaise h1
  · exact canon_modMt (canon_popAll h1) fun _ h2 => h2.others

theorem canon_execFenceM {w : Slot} {s : State} (h : s.Canon) : OutCanon (execFenceM w s) := by
  unfold execFenceM
  refine canon_fire h fun _ _ h1 => ?_
  dsimp only
  split
  · exact canon_slotRaise h1
  · exact canon_emitTo (canon_popAll (canon_modElem h1 fun _ h2 => canon_modRun h2))

theorem canon_execHrecv {w : Slot} {s : State} (h : s.Canon) : OutCanon (execHrecv w s) := by
  unfold execHrecv
  refine canon_fire h fun _ _ h1 => ?_
  extract_lets f1 q q1 o f2
  have hf1 : f1.Canon := canon_modMt h1 fun _ h2 => h2.others
  have hf2 : f2.Canon := canon_modMt (canon_popAll hf1) fun _ h2 => h2.others
  split
  · extract_lets v r f3
    have hf3 : f3.Canon := canon_bankPush hf2
    split
    · exact canon_slotRaise hf1
    · exact canon_slotRaise hf1
    · exact hf1
    · exact canon_pushOut (canon_pushOut (canon_popAll hf1))
    split
    · exact canon_slotRaise hf1
    split
    · exact hf3
    · exact canon_modMt hf3 fun _ h2 => canon_countUse h2
  · exact hf1

theorem canon_creditGo {f : Fab} {key q sx sy ctx n : Nat} (h : f.Canon) : (creditGo f key q sx sy ctx n).Canon :=
  canon_modMt h fun _ h1 => h1.others

theorem canon_creditAdd {f : Fab} {key : Nat} {q : MemReq} (h : f.Canon) : (creditAdd f key q).Canon := by
  unfold creditAdd
  dsimp only
  split
  · split
    · exact canon_creditGo (canon_modMt h fun _ h1 => h1.others)
    · exact canon_modMt h fun _ h1 => h1.others
  split
  · exact canon_modMt h fun _ h1 => h1.others
  · exact canon_creditGo h

theorem canon_execCreditSend {key idx : Nat} {s : State} (h : s.Canon) : OutCanon (execCreditSend key idx s) := by
  unfold execCreditSend
  split
  · exact h
  · exact canon_onFab h (canon_creditGo (canon_modMt h.fab fun _ h1 => h1.others))

theorem canon_execCreditArrival {idx : Nat} {s : State} (h : s.Canon) : OutCanon (execCreditArrival idx s) := by
  unfold execCreditArrival
  split
  · exact h
  refine canon_onFab h (canon_modElem h.fab.others fun _ h1 => ?_)
  dsimp only
  split
  · exact (canon_outSub h1).others
  · exact canon_outSub h1

theorem canon_execBounceArrival {key sel : Nat} {s : State} (h : s.Canon) : OutCanon (execBounceArrival key sel s) := by
  unfold execBounceArrival
  split
  · exact canon_onFab h (canon_modElem h.fab fun _ h1 => (canon_outSub h1).others)
  · exact h

theorem canon_execQuotaWindowClear {key : Nat} {s : State} (h : s.Canon) : OutCanon (execQuotaWindowClear key s) :=
  canon_onFab h (canon_modMt h.fab fun _ h1 => canon_quotaClear h1)

theorem canon_setLast {f : Fab} {key : Nat} {q : MemReq} (h : f.Canon) : (setLast f key q).Canon := by
  unfold setLast
  split
  · exact h
  · exact canon_modElem h fun _ h1 => canon_modRun h1

theorem canon_domTake {f : Fab} {key : Nat} {q : MemReq} (h : f.Canon) : (domTake f key q).Canon :=
  canon_modElem h fun _ h1 => canon_modRun h1

theorem canon_execDomainSequence {key plane dom : Nat} {s : State} (h : s.Canon) : OutCanon (execDomainSequence key plane dom s) := by
  unfold execDomainSequence
  dsimp only
  split
  · exact h
  split
  · exact h
  split
  · split
    · exact h
    · exact canon_onFab h (canon_emitPass (canon_modMt (canon_setLast (canon_domTake h.fab)) fun _ h1 => h1.others))
  split
  · split
    · exact h
    refine canon_onFab h ?_
    split
    · exact canon_setLast (canon_groupSend (canon_modMt (canon_domTake h.fab) fun _ h1 => h1.others))
    · exact canon_groupSend (canon_modMt (canon_domTake h.fab) fun _ h1 => h1.others)
  split
  · exact h
  · exact canon_onFab h (canon_bankPush (canon_domTake h.fab))

theorem canon_askCapacity {f : Fab} {key plane : Nat} {code : Word} {round : BitVec 32} (h : f.Canon) :
    (askCapacity f key plane code round).Canon := by
  unfold askCapacity
  split
  · exact h
  split
  · exact h
  · exact canon_raiseFault h

theorem canon_askBank {f : Fab} {key bank plane : Nat} {round : BitVec 32} (h : f.Canon) : (askBank f key bank plane round).Canon :=
  canon_askCapacity h

theorem canon_reqUncorr {f : Fab} {key : Nat} {q : MemReq} (h : f.Canon) : (reqUncorr f key q).Canon :=
  canon_raiseFault h

theorem canon_execSectionRetire {key plane dom : Nat} {s : State} (h : s.Canon) : OutCanon (execSectionRetire key plane dom s) := by
  unfold execSectionRetire
  dsimp only
  split
  · exact h
  split
  · exact h
  split
  · exact h
  split
  · split
    · exact h
    split
    · exact canon_onFab h (canon_askBank h.fab)
    refine canon_onFab h ?_
    split
    · exact canon_reqUncorr (canon_modMt h.fab fun _ h1 => h1.others)
    split
    · exact canon_modMt h.fab fun _ h1 => canon_reqPerform h1.others
    · exact canon_emitReply (canon_modMt h.fab fun _ h1 => canon_reqPerform h1.others)
  split
  · split
    · exact h
    · exact canon_onFab h (canon_emitReply (canon_modMt h.fab fun _ h1 => h1.others))
  split
  · exact h
  · exact canon_onFab h (canon_emitPass (canon_modMt h.fab fun _ h1 => h1.others))

theorem canon_grantTick {f : Fab} {key : Nat} (h : f.Canon) : (grantTick f key).Canon := by
  unfold grantTick
  dsimp only
  split
  · exact h
  split
  · exact h
  · exact canon_emitPass (canon_modMt h fun _ h1 => h1.others)

theorem canon_bankPop {f : Fab} {key b : Nat} (h : f.Canon) : (bankPop f key b).Canon :=
  canon_modMt h fun _ h1 => h1.others

theorem canon_cmdFault {s : State} {key : Nat} {q : MemReq} {cause kind : Nat} (h : s.Canon) : (cmdFault s key q cause kind).Canon := by
  unfold cmdFault
  dsimp only
  split
  · exact h.withFab (canon_raiseFault h.fab)
  · exact canon_postReport h

theorem canon_cmdAccept {s : State} {key : Nat} {q : MemReq} (h : s.Canon) : (cmdAccept s key q).Canon := by
  unfold cmdAccept
  dsimp only
  split
  · exact canon_cmdFault (h.withFab (canon_cmdReply (canon_bankPop h.fab)))
  split
  · exact h.withFab (canon_askBank h.fab)
  split
  · exact canon_cmdFault (h.withFab (canon_cmdReply (canon_bankPop h.fab)))
  · exact h.withFab (canon_cmdReply (canon_modMt (canon_bankPop h.fab) fun _ h1 => canon_reqPerform h1))

theorem canon_modRead {f : Fab} {key id : Nat} {g : ReadOut → ReadOut} (h : f.Canon) : (modRead f key id g).Canon :=
  canon_modElem h fun _ h1 => h1.withAg h1.ag.others

theorem canon_streamAccept {f : Fab} {key : Nat} {q : MemReq} (h : f.Canon) : (streamAccept f key q).Canon := by
  unfold streamAccept
  extract_lets m f1 i
  have hf1 : f1.Canon := canon_modMt (canon_bankPop h) fun _ h1 => canon_reqPerform h1
  split
  · split
    · exact canon_raiseFault hf1
    · exact canon_modRead hf1
  split
  · exact canon_askBank h
  · exact canon_modElem hf1 fun _ h1 => h1.withAg h1.ag.others

theorem canon_modCmd {f : Fab} {key core id : Nat} {g : AgCmd → AgCmd} (hf : f.Canon) (hg : ∀ c, c.Canon → (g c).Canon) :
    (modCmd f key core id g).Canon :=
  canon_modElem hf fun _ h => h.withAg (h.ag.withInbox (listAll_map h.ag.inbox fun _ h1 => ite_keeps (hg _ h1) h1))

theorem canon_copyAccept {f : Fab} {key : Nat} {q : MemReq} (h : f.Canon) : (copyAccept f key q).Canon := by
  unfold copyAccept
  dsimp only
  split
  · refine canon_modCmd (canon_bankPop h) (fun _ h1 => ?_)
    split <;> exact AgCmd.Canon.of_block h1.block
  · split
    · exact canon_askBank h
    · exact canon_modCmd (canon_modMt (canon_bankPop h) (fun _ h1 => canon_reqPerform h1)) (fun _ h1 => AgCmd.Canon.of_block h1.block)

theorem canon_slotAccept {f : Fab} {key : Nat} {q : MemReq} (h : f.Canon) : (slotAccept f key q).Canon := by
  unfold slotAccept
  extract_lets e g places old tag f1 done out
  have h1 : f1.Canon := canon_modMt (canon_bankPop h) fun _ h => canon_reqPerform h
  have hdone {f : Fab} (h : f.Canon) : (done f).Canon := canon_acqDone (canon_setLast h)
  refine ite_keeps (canon_askBank h) (ite_keeps h (ite_keeps (canon_reqUncorr (canon_bankPop h)) (ite_keeps ?_ (ite_keeps ?_ ?_))))
  · exact ite_keeps h1 (ite_keeps h1.others (canon_creditAdd h1))
  · exact ite_keeps (hdone (canon_groupReply (canon_modMt h1 fun _ h => h.others))) (canon_modMt h1 fun _ h => h.others)
  · exact hdone (canon_emitReply h1)

theorem canon_bodyWrite {m : MtSt} {q : MemReq} (h : m.Canon) : (bodyWrite m q).Canon := by
  unfold bodyWrite
  split
  · exact canon_bankTouch h
  split
  · exact canon_bankTouch h
  split
  · exact canon_sectConflict (canon_reqPerform h).others
  · exact canon_sectKeep h

theorem canon_bodyAccept {f : Fab} {key : Nat} {q : MemReq} (h : f.Canon) : (bodyAccept f key q).Canon := by
  unfold bodyAccept
  extract_lets e m g m1 direct kept late last mute m2 bad old f1 out f2
  have hm1 : m1.Canon := canon_bodyWrite (canon_elemOf (canon_bankPop h)).mt
  have hf1 : f1.Canon := canon_modMt h fun _ _ => hm1
  have hf2 : f2.Canon := canon_modMt hf1 fun _ h1 => h1.others
  refine ite_keeps (canon_askBank h) (ite_keeps h (ite_keeps (canon_reqUncorr (canon_bankPop h)) ?_))
  refine ite_keeps (ite_keeps (canon_acqDone hf1) (canon_acqDone (canon_emitReply hf1))) ?_
  refine ite_keeps (canon_modMt hf1 fun _ h1 => h1.others) ?_
  refine ite_keeps ?_ ?_
  · refine canon_modMt hf2 fun _ h1 => ?_
    split
    · exact h1.others
    · exact h1
  · exact ite_keeps hf2 (canon_acqDone (canon_groupReply hf2))

theorem canon_execBankAccept {key bank : Nat} {s : State} (h : s.Canon) : OutCanon (execBankAccept key bank s) := by
  unfold execBankAccept
  dsimp only
  split
  · exact h
  split
  · exact h
  split
  · exact canon_cmdAccept h
  · exact canon_onFab h (canon_streamAccept h.fab)
  · exact canon_onFab h (canon_streamAccept h.fab)
  · exact canon_onFab h (canon_copyAccept h.fab)
  · exact canon_onFab h (canon_copyAccept h.fab)
  · exact canon_onFab h (ite_keeps (canon_bodyAccept h.fab) (canon_slotAccept h.fab))

theorem canon_cfgTick {f : Fab} {key : Nat} (h : f.Canon) : (cfgTick f key).Canon := by
  unfold cfgTick
  dsimp only
  split
  · exact h
  refine ite_keeps (canon_cfgPush (canon_modMt h fun _ h1 => h1.others)) ?_
  refine ite_keeps (canon_modMt h fun _ h1 => h1.others).others ?_
  split
  · exact h
  refine ite_keeps h ?_
  refine ite_keeps (canon_modMt (canon_modMt (canon_bankPush (canon_modMt h fun _ h1 => h1.others)) fun _ h1 => h1.others) fun _ h1 => canon_countUse
    h1) ?_
  exact canon_modMt (canon_bankPush (canon_modMt h fun _ h1 => h1.others)) fun _ h1 => h1.others

theorem canon_laneTick {f : Fab} {key b : Nat} (h : f.Canon) : (laneTick f key b).Canon := by
  unfold laneTick
  dsimp only
  split
  · exact h
  split
  · exact h
  · exact canon_modMt (canon_bankPush h) fun _ h1 => h1.others

theorem canon_creditTick {f : Fab} {key : Nat} (h : f.Canon) : (creditTick f key).Canon := by
  unfold creditTick
  dsimp only
  split
  · exact h
  split
  · exact h
  · exact canon_modMt (canon_pushOut h) fun _ h1 => h1.others

theorem canon_memTick {f : Fab} {key : Nat} (h : f.Canon) : (memTick f key).Canon :=
  canon_twinTick (canon_creditTick (canon_grantTick (foldl_keeps (canon_cfgTick h) fun _ _ h1 => canon_laneTick h1)))

/-! ### Switches, links and ports (07 R180-R191, 10 R286) -/

theorem canon_tokFault {f : Fab} {key cause port : Nat} {qsel : Option Nat} {t : Token} (h : f.Canon) : (tokFault f key cause port qsel t).Canon :=
  canon_raiseFault h

theorem canon_tokIllop {f : Fab} {key sel : Nat} {t : Token} (h : f.Canon) : (tokIllop f key sel t).Canon :=
  canon_raiseFault h

theorem canon_arrive {f : Fab} {key sel : Nat} {t : Token} (h : f.Canon) : (arrive f key sel t).2.Canon := by
  unfold arrive
  dsimp only
  split
  · exact h.others
  split
  · exact h
  split
  · exact canon_modElem h fun _ h1 => h1.others
  split
  · exact canon_raiseFault h
  split
  · exact canon_tokFault h
  · split
    · exact canon_tokFault h
    split
    · exact h
    split
    · exact canon_tokIllop h
    split
    · dsimp only
      split
      · exact h
      · exact canon_raiseFault h
    split
    · dsimp only
      split
      · exact h
      · exact canon_raiseFault h
    · split
      · exact canon_tokFault h
      · exact h
    · exact canon_tokFault h
  · exact h

theorem canon_permitBack {f : Fab} {key sel : Nat} (h : f.Canon) : (permitBack f key sel).Canon := by
  unfold permitBack
  split
  · exact h
  · exact canon_modElem h fun _ h1 => h1.others

theorem canon_modNet {f : Fab} {key : Nat} {g : Net → Net} (h : f.Canon) : (modNet f key g).Canon :=
  canon_modElem h fun _ h1 => h1.others

theorem canon_execTokenArrival {key sel : Nat} {s : State} (h : s.Canon) : OutCanon (execTokenArrival key sel s) := by
  unfold execTokenArrival
  dsimp only
  split
  · exact h
  split
  · exact h
  refine canon_onFab h ?_
  split
  · exact canon_modNet (canon_arrive (canon_busy (canon_modNet h.fab)))
  · exact canon_permitBack (canon_arrive (canon_busy (canon_modNet h.fab)))

theorem canon_takeSource {f : Fab} {key src : Nat} (h : f.Canon) : (takeSource f key src).Canon := by
  unfold takeSource
  split
  · exact canon_modNet h
  · exact canon_popQ h

theorem canon_modAudit {f : Fab} {core row : Nat} {g : Audit → Audit} (h : f.Canon) : (modAudit f core row g).Canon :=
  h.others

theorem canon_noteMove {f : Fab} {key : Nat} {t : Token} (h : f.Canon) : (noteMove f key t).Canon := by
  unfold noteMove
  extract_lets drift
  exact ite_keeps h (canon_modAudit h)

theorem canon_execSwitchRoute {key : Nat} {wide : Bool} {dir src : Nat} {s : State} (h : s.Canon) :
    OutCanon (execSwitchRoute key wide dir src s) := by
  unfold execSwitchRoute
  split
  · exact h
  split
  · exact h
  split
  · exact canon_onFab h (canon_tokFault (canon_takeSource h.fab))
  split
  · exact canon_onFab h (canon_tokFault (canon_takeSource h.fab))
  split
  · exact h
  split
  · exact h
  · exact canon_onFab h (canon_modNet (canon_modNet (canon_busy (canon_noteMove (canon_takeSource h.fab)))))

theorem canon_execPermitReturn {key sel : Nat} {s : State} (h : s.Canon) : OutCanon (execPermitReturn key sel s) := by
  unfold execPermitReturn
  split
  · exact h
  · exact canon_onFab h (canon_modNet h.fab)

theorem canon_popPlane {f : Fab} {key plane sel : Nat} {t : Token} (h : f.Canon) : (popPlane f key plane sel t).1.Canon := by
  unfold popPlane
  dsimp only
  split
  · dsimp only
    split
    · exact h
    · exact canon_raiseFault h
  split
  · split
    · dsimp only
      exact canon_askCapacity h
    dsimp only
    exact canon_modNet (canon_popQ h)
  dsimp only
  exact canon_popQ h

theorem canon_execBurstHeaderArrival {key sel : Nat} {s : State} (h : s.Canon) : OutCanon (execBurstHeaderArrival key sel s) := by
  unfold execBurstHeaderArrival
  split
  · exact h
  dsimp only
  split
  · exact h
  refine canon_onFab h ?_
  split
  · exact canon_popPlane h.fab
  split
  · exact canon_tokIllop (canon_popPlane h.fab)
  · exact canon_modElem (canon_popPlane h.fab) fun _ h1 => canon_modRun h1

theorem canon_execSinkArrival {core sel : Nat} {s : State} (h : s.Canon) : OutCanon (execSinkArrival core sel s) := by
  unfold execSinkArrival
  extract_lets key
  split
  · exact h
  extract_lets port k drift
  split
  · exact h
  split
  · exact canon_onFab h (canon_tokFault (canon_popQ h.fab))
  split
  · exact canon_onFab h (canon_popQ h.fab)
  split
  · exact h
  · exact canon_onFab h (canon_serveCore (canon_modCc (canon_popQ h.fab) fun _ h1 => h1.others))

theorem canon_noteRound {f : Fab} {core ctx : Nat} {n : BitVec 32} (h : f.Canon) : (noteRound f core ctx n).Canon := by
  unfold noteRound
  split
  · exact h
  · exact canon_modRegion h

theorem canon_execVinPortEmit {core port : Nat} {s : State} (h : s.Canon) : OutCanon (execVinPortEmit core port s) := by
  unfold execVinPortEmit
  dsimp only
  split
  · exact h
  split
  · exact h
  split
  · refine canon_onFab h (canon_pushOut ?_)
    split
    · exact canon_noteRound (canon_modCc h.fab fun _ h1 => h1.others)
    · exact canon_modCc h.fab fun _ h1 => h1.others
  split
  · exact h
  split
  · exact h
  · exact canon_onFab h (canon_pushOut (canon_modCc h.fab fun _ h1 => h1.others))

/-! ### Element state as records (15 R433, R434) -/

theorem canon_accMod {e : Elem} {j : Nat} {g : MAcc → MAcc} (h : e.Canon) : (accMod e j g).Canon := by
  unfold accMod
  split
  · exact canon_modRun h
  · exact h

theorem canon_accsWrite {e : Elem} {j : Nat} {v : BitVec 256} (h : e.Canon) : (accsWrite e j v).Canon := by
  unfold accsWrite
  split
  · exact canon_accMod h
  · exact foldl_keeps h fun _ _ h1 => canon_accMod h1

theorem canon_firnFrom {e : Elem} {ws : List Nat} (h : e.Canon) : (firnFrom e ws).Canon :=
  h.others

/-- Items one list after another. -/
theorem keeps_cat {σ : Type} {P : σ → Prop} {l : List (List (Item σ))}
   
    (h : ListAll (ListAll (Item.Keeps P)) l) :
    ListAll (Item.Keeps P)
   
    (cat l) :=
  listAll_flatten h

/-- Items of a part whose changes keep the property whatever they do to the part. -/
theorem keeps_partItems {σ α : Type} {P : σ → Prop}
   
    {part : σ → α} {change : (α → α) → σ → σ} {l : List (Item α)}
    (h : ∀ g s, P s → P (change g s)) :
    ListAll (Item.Keeps P)
    (partItems part change l) :=
  List.forall_mem_map.mpr fun _ _ _ _ hs => h _ _ hs

/-- Items of a part that keep a property of it, which the whole takes from the part. -/
theorem keeps_partItems_of {σ α : Type} {P : σ → Prop}
   
    {Q : α → Prop} {part : σ → α} {change : (α → α) → σ → σ} {l : List (Item α)}
    (hl : ListAll (Item.Keeps Q) l)
   
    (h : ∀ g s, (∀ y, Q y → Q (g y)) → P s → P (change g s)) :
    ListAll (Item.Keeps P)
   
    (partItems part change l) :=
  List.forall_mem_map.mpr fun x hx v _ hs => h _ _ (hl x hx v) hs

/-- Items of the entries of a list. -/
theorem keeps_listItems {α : Type} {Q : α → Prop} {d : α} {n : Nat} {l : List (Item α)}
   
    (hl : ListAll (Item.Keeps Q) l) :
    ListAll (Item.Keeps (ListAll Q))
   
    (listItems d n l) :=
  listAll_flatMap fun _ => keeps_partItems_of hl fun _ _ hg hs => listAll_lmod hs hg

theorem mem_of_mem_placed {σ : Type} {l : List (Item σ)} {o : Nat} {q : Nat × Item σ} (h : q ∈ placed o l) : q.2 ∈ l := by
  induction l generalizing o with
  | nil => exact nomatch h
  | cons x r ih =>
    obtain rfl | hr := List.mem_cons.mp h
    · exact List.mem_cons_self
    · exact List.mem_cons_of_mem x (ih hr)

/-- A write of a frame of a record changes what the items change. -/
theorem recWrite_keeps {σ : Type} {P : σ → Prop} {l : List (Item σ)} {s : σ}
   
    {j : Nat} {v : BitVec 256} (hl : ListAll (Item.Keeps P) l)
    (hs : P s) :
    P
    (recWrite l s j v) :=
  List.foldlRecOn _ _ hs fun _ hb q hq => ite_keeps hb (ite_keeps hb (hl q.2 (mem_of_mem_placed hq) _ _ hb))

/-- No item of a memory tile's record changes the bank storage. -/
theorem keeps_tileItems {e : Elem} : ListAll (Item.Keeps Elem.Canon) (tileItems e) := by
  have hmt {l : List (Item MtSt)} (hl : ListAll (Item.Keeps MtSt.Canon) l) :
      ListAll (Item.Keeps Elem.Canon) (partItems (fun e => e.mt) (fun g e => { e with mt := g e.mt }) l) :=
    keeps_partItems_of hl fun _ _ hg h => h.withMt (hg _ h.mt)
  refine keeps_cat (listAll_cons ?_ <| listAll_cons ?_ <| listAll_cons ?_ <| listAll_cons ?_ listAll_nil)
  · refine hmt ?_
    exact keeps_partItems fun _ _ h => h.others
  · refine hmt ?_
    exact listAll_flatMap fun _ => keeps_partItems fun _ _ h => h.others
  · exact listAll_cons (fun _ _ h => ⟨h.mt, h.ct, h.ag⟩) listAll_nil
  · refine hmt ?_
    exact keeps_partItems fun _ _ h => h.others

/-- A written operand block is canonical. -/
theorem keeps_cmdItems : ListAll (Item.Keeps AgCmd.Canon) cmdItems := by
  have hblock : Item.Keeps AgCmd.Canon
      (numItem 1024 (fun c => mgetN c.block 0 128) fun v c => { c with block := mputN c.block 0 128 v }) := by
    intro v c h
    have hb : memWf (mputN c.block 0 128 v) = true := memWf_mputN h.block _ _ _
    exact AgCmd.Canon.of_block hb
  unfold cmdItems
  iterate 4 refine listAll_cons (fun _ _ h => ⟨h.block⟩) ?_
  refine listAll_cons hblock ?_
  iterate 4 refine listAll_cons (fun _ _ h => ⟨h.block⟩) ?_
  exact listAll_nil

theorem keeps_agItems {e : Elem} : ListAll (Item.Keeps Elem.Canon) (agItems e) := by
  have hag {l : List (Item AgSt)} (hl : ListAll (Item.Keeps AgSt.Canon) l) :
      ListAll (Item.Keeps Elem.Canon) (partItems (fun e => e.ag) (fun g e => { e with ag := g e.ag }) l) :=
    keeps_partItems_of hl fun _ _ hg h => h.withAg (hg _ h.ag)
  refine keeps_cat (listAll_cons ?_ <| listAll_cons (hag ?_) <| listAll_cons (hag ?_) <| listAll_cons (hag ?_) <|
    listAll_cons (hag ?_) listAll_nil)
  · exact listAll_flatMap fun _ => keeps_partItems fun _ _ h => canon_modRun h
  · exact keeps_partItems_of (keeps_listItems keeps_cmdItems) fun _ _ hg h => h.withInbox (hg _ h.inbox)
  all_goals exact keeps_partItems fun _ _ h => h.others

theorem keeps_reserveItems {e : Elem} : ListAll (Item.Keeps Elem.Canon) (reserveItems e) :=
  listAll_flatMap fun _ => keeps_partItems fun _ _ h => h.withCt h.ct.others

theorem keeps_csrItems : ListAll (Item.Keeps CC.Canon) csrItems := by
  unfold csrItems
  iterate 12 refine listAll_cons (fun _ _ h => CC.Canon.others h) ?_
  exact listAll_nil

theorem keeps_coreItems {c : CC} : ListAll (Item.Keeps CC.Canon) (coreItems c) := by
  refine keeps_cat (listAll_cons ?_ <| listAll_cons ?_ <| listAll_cons keeps_csrItems <| listAll_cons ?_ <| listAll_cons ?_ <|
    listAll_cons ?_ listAll_nil)
  · exact listAll_flatMap fun _ => keeps_partItems fun _ _ h => h.others
  · iterate 3 refine listAll_cons (fun _ _ h => CC.Canon.others h) ?_
    exact listAll_nil
  all_goals exact listAll_flatMap fun _ => keeps_partItems fun _ _ h => h.others

theorem keeps_pendItems {f : Fab} {core : Nat} : ListAll (Item.Keeps Fab.Canon) (pendItems f core) :=
  listAll_flatMap fun _ => listAll_flatMap fun _ => keeps_partItems fun _ _ h => canon_modElem h fun _ he => canon_modPlane he

/-- The items of every record keep the memories canonical. -/
theorem keeps_recItems {f : Fab} {rid : Option Nat} {key t : Nat} : ListAll (Item.Keeps Fab.Canon) (recItems f rid key t) := by
  have hel {l : List (Item Elem)} (hl : ListAll (Item.Keeps Elem.Canon) l) :
      ListAll (Item.Keeps Fab.Canon) (partItems (fun f => elemOf f key) (fun g f => modElem f key g) l) :=
    keeps_partItems_of hl fun _ _ hg h => canon_modElem h hg
  have hplanes (g : Nat → List (Item Plane)) : ListAll (Item.Keeps Elem.Canon) ((List.range 4).flatMap fun n =>
      partItems (fun e => planeOf e n) (fun h e => modPlane e n h) (g n)) :=
    listAll_flatMap fun _ => keeps_partItems fun _ _ h => canon_modPlane h
  unfold recItems
  split
  · exact hel (hplanes _)
  · exact hel (hplanes _)
  · exact hel (keeps_partItems fun _ _ h => h.others)
  · exact hel (keeps_partItems fun _ _ h => h.withCt h.ct.others)
  · exact hel keeps_reserveItems
  · split
    · exact hel (listAll_flatMap fun _ => keeps_partItems fun _ _ h => h.withMt h.mt.others)
    · exact hel (keeps_partItems fun _ _ h => h.withCt h.ct.others)
  · exact hel keeps_tileItems
  · exact hel keeps_agItems
  · exact listAll_append (keeps_partItems_of keeps_coreItems fun _ _ hg h => canon_modCc h hg) keeps_pendItems
  · split
    · exact listAll_nil
    · exact listAll_flatMap fun _ => keeps_partItems fun _ _ h => canon_modRegion h
  · exact listAll_nil

theorem canon_stateWrite {f : Fab} {rid : Option Nat} {key idx : Nat} {v : BitVec 256} (h : f.Canon) : (stateWrite f rid key idx v).Canon := by
  unfold stateWrite
  split
  · exact h
  split
  · exact canon_modElem h fun _ h1 => canon_modPlane h1
  · exact canon_modElem h fun _ h1 => canon_modRun h1
  · exact canon_modElem h fun _ h1 => canon_accsWrite h1
  · exact canon_modElem h fun _ h1 => canon_firnFrom h1
  · exact canon_modElem h fun _ h1 => h1.others
  · exact recWrite_keeps keeps_recItems h

/-! ### Configuration space (01 R36-R38, 08 R213-R239) -/

theorem canon_storeWrite {f : Fab} {key idx : Nat} {v : BitVec 256} (h : f.Canon) : (storeWrite f key idx v).Canon := by
  unfold storeWrite
  dsimp only
  split
  · exact canon_modElem h (fun _ h1 => h1.withCt (CtSt.Canon.of_ls (memWf_mputN h1.ct.ls _ _ _)))
  · exact canon_modMt h (fun _ h1 => canon_putCheck (MtSt.Canon.of_data (memWf_mputN h1.data _ _ _)))
  · refine canon_modCc h (fun _ h1 => ?_)
    split
    · exact h1.withIsram (memWf_mputN h1.isram _ _ _)
    · exact canon_sramWrite h1
  · refine canon_modElem h (fun _ h1 => ?_)
    split <;> exact h1.withAg (h1.ag.withBuf (memWf_mputN h1.ag.buf _ _ _))
  · exact h

theorem canon_storeLogged {f : Fab} {key idx : Nat} {v : BitVec 256} (h : f.Canon) : OptAll Fab.Canon (storeLogged f key idx v) := by
  unfold storeLogged
  dsimp only
  split
  · exact canon_storeWrite h
  split
  · exact trivial
  · exact canon_storeWrite (canon_modElem h fun _ h1 => h1.withCt (canon_lsJournal (canon_elemOf h).ct))

theorem canon_linkWrite {e : Elem} {key : Nat} {v : BitVec 256} (h : e.Canon) : (linkWrite e key v).Canon :=
  h.others

theorem canon_putFrame {f : Fab} {key n idx : Nat} {v : BitVec 256} {image : Bool} (h : f.Canon) : (putFrame f key n idx v image).Canon :=
  canon_modElem h fun _ h1 => canon_modPlane h1

theorem canon_putRoute {f : Fab} {key n : Nat} {v : BitVec 256} (h : f.Canon) : (putRoute f key n v).Canon :=
  canon_modNet h

theorem canon_cfgWrite {f : Fab} {key space idx : Nat} {v : BitVec 256} (h : f.Canon) : OptAll Fab.Canon (cfgWrite f key space idx v) := by
  unfold cfgWrite
  split
  · exact trivial
  split
  · split
    · exact canon_stateWrite h
    · exact trivial
  · split
    · exact canon_storeLogged h
    · exact trivial
  · split
    · split
      · exact trivial
      · exact canon_putRoute h
    split
    · exact canon_modElem h fun _ h1 => canon_linkWrite h1
    · exact trivial
  split
  · exact trivial
  dsimp only
  split
  · exact canon_putFrame h
  · exact trivial

theorem canon_bindPlane {f : Fab} {key n : Nat} {succ : Bool} (h : f.Canon) : (bindPlane f key n succ).Canon :=
  canon_modElem h fun _ h1 => (canon_modPlane h1).withMt (canon_modPlane h1).mt.others

/-! ### AG nodes (04 R115-R122, 10 R288-R292) -/

theorem canon_modStr {f : Fab} {key n i : Nat} {g : StreamSt → StreamSt} (h : f.Canon) : (modStr f key n i g).Canon :=
  canon_modElem h fun _ h1 => canon_modRun h1

theorem canon_askWalk {f : Fab} {m : MemSys} {w : Walk} (hm : m.Canon) : (askWalk f m w).Canon :=
  canon_walkAsk hm

theorem canon_giveCredit {f : Fab} {key k : Nat} (h : f.Canon) : (giveCredit f key k).Canon := by
  unfold giveCredit
  split
  · exact h
  · exact canon_modRegion h

theorem canon_takeCredit {f : Fab} {key : Nat} (h : f.Canon) : (takeCredit f key).Canon := by
  unfold takeCredit
  split
  · exact h
  · exact canon_modRegion h

theorem canon_strRaise {s : State} {key n i : Nat} {round : BitVec 32} {cause : Nat} {info0 info1 : Word} (h : s.Canon) :
    (strRaise s key n i round cause info0 info1).Canon :=
  h.withFab (canon_raiseFault h.fab)

theorem canon_strRefill {s : State} {key n i fn va : Nat} {half : Option (Nat × Nat)} (h : s.Canon) : (strRefill s key n i fn va half).Canon := by
  unfold strRefill
  split
  · exact h.withFab (canon_modStr h.fab)
  · exact h.withMemFab (canon_askWalk h.mem) (canon_modStr h.fab)

theorem canon_strStep {f : Fab} {key n i : Nat} (h : f.Canon) : (strStep f key n i).Canon :=
  canon_modElem (canon_modStr (canon_busy h)) fun _ h1 => canon_modPlane (canon_openWindow h1)

theorem canon_readIssue {s : State} {key n i : Nat} (h : s.Canon) : (readIssue s key n i).Canon := by
  unfold readIssue
  dsimp only
  split
  · exact canon_strRaise h
  · exact canon_strRefill h
  · exact h.withFab (canon_strStep (canon_modElem (ite_keeps (canon_takeCredit h.fab) h.fab) fun _ h1 => h1.withAg h1.ag.others))

theorem canon_readSp {s : State} {key n i : Nat} (h : s.Canon) : (readSp s key n i).Canon := by
  unfold readSp
  dsimp only
  split
  · exact canon_strRaise h
  refine h.withFab (canon_strStep (canon_modElem (foldl_keeps (ite_keeps (canon_takeCredit h.fab) h.fab) fun _ _ h1 => ?_) fun _ h1 => h1.withAg
    h1.ag.others))
  split
  · exact h1
  · exact canon_cfgPush h1

theorem canon_spReadDone {f : Fab} {key : Nat} {q : ReadOut} (h : f.Canon) : (spReadDone f key q).Canon := by
  unfold spReadDone
  dsimp only
  split
  · exact h
  split
  · exact canon_modRead h
  · exact canon_raiseFault (canon_modElem h fun _ h1 => h1.withAg h1.ag.others)

theorem canon_spReadTick {f : Fab} {key : Nat} (h : f.Canon) : (spReadTick f key).Canon :=
  foldl_keeps h fun _ _ h1 => canon_spReadDone h1

theorem canon_readLines {m : MemSys} {e : Elem} {part : Nat} {x : List Nat} (hm : m.Canon) : (readLines m e part x).1.Canon := by
  induction x generalizing m with
  | nil => exact hm
  | cons pa rest ih =>
    unfold readLines
    extract_lets r q
    have hr : r.1.Canon := canon_lineRead hm
    have hq : q.1.Canon := ih hr
    split
    · split <;> exact hq
    · exact hr

theorem canon_execStreamReadReturn {key idx : Nat} {s : State} (h : s.Canon) : OutCanon (execStreamReadReturn key idx s) := by
  unfold execStreamReadReturn
  extract_lets e
  split
  · exact h
  extract_lets p left back drop round r t
  have hdrop {s : State} (h : s.Canon) : (drop s).Canon :=
    h.withFab (canon_modStr (canon_modElem h.fab fun _ h1 => h1.withAg h1.ag.others))
  have ht : t.Canon := canon_poisonPost (h.withMem (canon_readLines h.mem))
  refine ite_keeps h ?_
  split
  · exact canon_strRaise (hdrop ht)
  · exact canon_strRaise (hdrop ht)
  split
  · exact canon_strRaise (hdrop ht)
  · exact ht.withFab (canon_modElem ht.fab fun _ h1 => h1.withAg h1.ag.others)

theorem canon_storeIssue {s : State} {key n i : Nat} {t : Token} (h : s.Canon) : (storeIssue s key n i t).Canon := by
  unfold storeIssue
  dsimp only
  split
  · exact canon_strRaise h
  split
  · exact canon_strRaise h
  · exact canon_strRefill h
  split
  · exact h.withFab (canon_askCapacity h.fab)
  split
  · exact h.withFab (canon_popPlane h.fab)
  · exact h.withFab (canon_strStep (canon_modElem (canon_popPlane h.fab) fun _ h1 => h1.withAg h1.ag.others))

theorem canon_storeSp {s : State} {key n i : Nat} {t : Token} (h : s.Canon) : (storeSp s key n i t).Canon := by
  unfold storeSp
  dsimp only
  split
  · exact canon_strRaise h
  split
  · exact canon_strRaise h
  split
  · exact h.withFab (canon_popPlane h.fab)
  refine h.withFab (canon_modElem (canon_strStep (foldl_keeps (canon_popPlane h.fab) fun _ _ h1 => ?_)) fun _ h1 => h1.withAg h1.ag.others)
  split
  · exact h1
  · exact canon_cfgPush h1

theorem canon_accSend {f : Fab} {key n : Nat} {x : FirnE} {fl : Bool} (h : f.Canon) : (accSend f key n x fl).Canon := by
  unfold accSend
  split
  · exact h
  · exact canon_cfgPush h

theorem canon_accIssue {s : State} {key n i : Nat} {t : Token} (h : s.Canon) : (accIssue s key n i t).Canon := by
  unfold accIssue
  extract_lets e p st a fmt acop fault x q r f1 f2
  clear_value fault
  split
  · exact canon_strRaise h
  have hr : r.1.Canon := canon_popPlane h.fab
  have h2 : f2.Canon := canon_strStep (canon_modElem (canon_accSend hr) fun _ h1 => canon_outAdd h1.others)
  exact ite_keeps (h.withFab hr) (h.withFab (ite_keeps (canon_modElem h2 fun _ h1 => canon_flresStart h1) h2))

theorem canon_strEmit {f : Fab} {key n i : Nat} {t : Token} (h : f.Canon) : (strEmit f key n i t).Canon := by
  unfold strEmit
  dsimp only
  split
  · exact canon_pushOut h
  · exact canon_modElem (canon_pushOut h) fun _ h1 => h1.withAg h1.ag.others

theorem canon_blockFill {f : Fab} {key n i : Nat} (h : f.Canon) : (blockFill f key n i).Canon := by
  unfold blockFill
  dsimp only
  split
  · exact h
  split
  · exact h
  split
  · exact canon_askCapacity h
  · exact canon_modElem h fun _ h1 => canon_modRun (h1.withAg h1.ag.others)

theorem canon_strUnread {f : Fab} {key n i : Nat} (h : f.Canon) : (strUnread f key n i).Canon :=
  canon_modStr (canon_modElem (canon_giveCredit h) fun _ h1 => h1.withAg h1.ag.others)

theorem canon_edgeFlush {f : Fab} {key n : Nat} (h : f.Canon) : OptAll Fab.Canon (edgeFlush f key n) := by
  unfold edgeFlush
  dsimp only
  split
  · exact canon_modElem h fun _ h1 => canon_flresStart h1
  · exact trivial

theorem canon_markOut {f : Fab} {key n : Nat} {go : Fab → Fab} (hf : f.Canon) (hgo : ∀ f1, f1.Canon → (go f1).Canon) :
    (markOut f key n go).Canon := by
  unfold markOut
  split
  · exact hgo _ hf
  · exact optAll_getD (canon_edgeFlush hf) hf

theorem canon_strMark {f : Fab} {key n i : Nat} (h : f.Canon) : (strMark f key n i).Canon :=
  canon_pushOut (ite_keeps (canon_noteRound (canon_modStr h)) (canon_modStr h))

theorem canon_strPump {f : Fab} {key n i : Nat} (h : f.Canon) : (strPump f key n i).Canon := by
  unfold strPump
  extract_lets f1 e p st fault l
  have hf1 : f1.Canon := canon_blockFill h
  split
  · exact hf1
  split
  · exact hf1
  split
  · split
    · exact canon_markOut hf1 fun _ h1 => canon_strMark h1
    · exact hf1
  split
  · split
    · split
      · exact hf1
      · exact canon_raiseFault hf1
    split
    · exact hf1
    extract_lets f2 f3
    have hf2 : f2.Canon := ite_keeps (canon_takeCredit hf1) hf1
    have hf3 : f3.Canon := canon_modStr hf2
    exact canon_strEmit hf3
  split
  · extract_lets x f2 f3
    have hf2 : f2.Canon := canon_strEmit hf1
    have hf3 : f3.Canon := canon_modStr hf2
    split
    · exact canon_strUnread hf1
    split
    · exact canon_askCapacity hf1
    split
    · exact canon_strEmit (canon_modStr hf1)
    split
    · exact hf3
    · exact canon_modElem hf3 fun _ h1 => h1.withAg h1.ag.others
  split
  · exact canon_markOut hf1 fun _ h1 => canon_pushOut (canon_modStr h1)
  · exact hf1

theorem canon_agFlush {f : Fab} {key n : Nat} (h : f.Canon) : (agFlush f key n).Canon := by
  unfold agFlush
  dsimp only
  split
  · exact h
  split
  · exact h
  split
  · exact canon_modElem h fun _ h1 => canon_modRun h1
  refine canon_modElem (canon_modElem (canon_accSend h) fun _ h1 => canon_modRun h1) fun _ h1 => ?_
  split
  · exact canon_outAdd h1.others
  · exact h1.others

theorem canon_cmdSet {f : Fab} {key : Nat} {c : AgCmd} (hf : f.Canon) (hc : c.Canon) : (cmdSet f key c).Canon :=
  canon_modCmd hf fun _ _ => hc

theorem canon_cmdSettle {f : Fab} {key : Nat} (h : f.Canon) : (cmdSettle f key).Canon :=
  foldl_keeps (canon_modElem h fun _ h1 => h1.withAg (h1.ag.withInbox (listAll_filter h1.ag.inbox))) fun _ _ h1 => canon_cmdReply h1

theorem canon_cmdEnd {f : Fab} {key : Nat} {c : AgCmd} {v : Word} (hf : f.Canon) (hc : c.Canon) : (cmdEnd f key c v).Canon :=
  canon_cmdSettle (canon_cmdDone (canon_cmdSet hf (AgCmd.Canon.of_block hc.block)))

theorem canon_copyFail {s : State} {key : Nat} {c : AgCmd} {ctx cause : Nat} {info0 info1 : Word} (hs : s.Canon) (hc : c.Canon) :
    (copyFail s key c ctx cause info0 info1).Canon :=
  canon_postReport (hs.withFab (canon_cmdEnd hs.fab hc))

theorem canon_copyLine {s : State} {key : Nat} {c : AgCmd} {sp a ctx : Nat} {wr : Option (Line × BitVec 16)} (h : s.Canon) :
    (copyLine s key c sp a ctx wr).Canon := by
  unfold copyLine
  extract_lets part fn info dummy reg
  refine ite_keeps trivial (ite_keeps trivial ?_)
  split
  · split <;> exact trivial
  · split
    · exact h
    · exact h.withFab (canon_modCc h.fab fun _ h1 => canon_sramWrite h1)
  split
  · exact trivial
  · exact trivial
  extract_lets pa route r t
  have ht : t.Canon := canon_poisonPost (h.withMem (canon_readLines h.mem))
  split
  · split
    · exact trivial
    refine ite_keeps trivial ?_
    split
    · exact ite_keeps trivial h
    split
    · exact trivial
    next f hf =>
      split
      · exact trivial
      next g hg => exact h.withFab ((canon_cfgWrite ((canon_cfgWrite h.fab).get hf)).get hg)
  split
  · split
    · exact trivial
    · exact ht
    · split <;> exact ht
  · extract_lets r
    split
    · exact h.withMem (canon_lineWrite h.mem)
    all_goals exact trivial

theorem canon_copyStep {s : State} {key : Nat} {c : AgCmd} (hs : s.Canon) (hc : c.Canon) : (copyStep s key c).Canon := by
  unfold copyStep
  extract_lets b total ctx latch sp wr
  refine ite_keeps (hs.withFab (canon_cmdEnd hs.fab hc)) (ite_keeps (canon_copyFail hs hc) ?_)
  have hline : (copyLine s key c sp (copyAddr c) ctx wr).Canon := canon_copyLine hs
  split
  next t d tag heq =>
    rw [heq] at hline
    have ht : t.Canon := hline
    exact ite_keeps (ht.withFab (canon_cmdSet ht.fab ⟨hc.block⟩))
      (ite_keeps (ht.withFab (canon_cmdEnd ht.fab ⟨hc.block⟩)) (ht.withFab (canon_cmdSet ht.fab ⟨hc.block⟩)))
  · exact hs.withFab (canon_cfgPush (canon_cmdSet hs.fab ⟨hc.block⟩))
  · exact ite_keeps hs (hs.withMemFab (canon_askWalk hs.mem) (canon_cmdSet hs.fab ⟨hc.block⟩))
  next t cause i0 heq =>
    rw [heq] at hline
    exact canon_copyFail hline hc
  next cause i0 i1 too heq =>
    extract_lets t
    have ht : t.Canon := canon_copyFail hs hc
    split
    · exact ht
    · exact ite_keeps (ht.withFab (canon_raiseFault ht.fab)) ht

theorem canon_sbindWrite {f : Fab} {key n : Nat} {fs : List (Nat × BitVec 256)} (h : f.Canon) : (sbindWrite f key n fs).Canon :=
  foldl_keeps h fun _ _ h1 => canon_putFrame h1

theorem canon_sbindStep {s : State} {key : Nat} {c : AgCmd} (hs : s.Canon) (hc : c.Canon) : (sbindStep s key c).Canon := by
  unfold sbindStep
  extract_lets b i n p fs w live held
  split
  · exact hs.withFab (canon_cmdEnd hs.fab hc)
  split
  · exact hs.withFab (canon_cmdEnd hs.fab hc)
  split
  · exact hs.withFab (canon_cmdEnd hs.fab hc)
  split
  · exact hs.withFab (canon_modElem hs.fab fun _ h => canon_modPlane h)
  · exact hs.withFab (canon_cmdEnd (canon_sbindWrite hs.fab) hc)

theorem canon_aflushStep {s : State} {key : Nat} {c : AgCmd} (hs : s.Canon) (hc : c.Canon) : (aflushStep s key c).Canon := by
  unfold aflushStep
  dsimp only
  split
  · exact hs.withFab (canon_cmdSet (canon_modElem hs.fab fun _ h => canon_flresStart h) (AgCmd.Canon.of_block hc.block))
  split
  · exact hs
  · exact hs.withFab (canon_cmdEnd hs.fab hc)

theorem canon_cmdRun {s : State} {key : Nat} {c : AgCmd} (hs : s.Canon) (hc : c.Canon) : (cmdRun s key c).Canon := by
  unfold cmdRun
  extract_lets c1 s1
  have hc1 : c1.Canon := AgCmd.Canon.of_block hc.block
  have hs1 : s1.Canon := hs.withFab (canon_cmdSet hs.fab hc1)
  split
  · exact canon_copyStep hs1 hc1
  · exact canon_sbindStep hs1 hc1
  · exact canon_aflushStep hs1 hc1

theorem canon_cmdNexts {f : Fab} {key : Nat} (h : f.Canon) : ListAll AgCmd.Canon (cmdNexts f key) := by
  have hbox : ListAll AgCmd.Canon (elemOf f key).ag.inbox := (canon_elemOf h).ag.inbox
  refine listAll_filter (listAll_append (listAll_filter hbox) fun c hc => ?_)
  exact hbox c (List.mem_of_find?_eq_some (Option.mem_toList.mp hc))

theorem canon_cmdTurn {s : State} {key : Nat} (h : s.Canon) : (cmdTurn s key).Canon := by
  have hnext : ListAll AgCmd.Canon (cmdNexts s.fab key) := canon_cmdNexts h.fab
  unfold cmdTurn
  split
  · exact h
  next c heq =>
    rw [heq] at hnext
    exact canon_cmdRun h (hnext c List.mem_cons_self)
  · split
    · exact h
    next c hc => exact canon_cmdRun h.others ((listAll_getElem hnext).get hc)

theorem canon_beginStop {f : Fab} {rid cause ctx phase : Nat} (h : f.Canon) : (beginStop f rid cause ctx phase).Canon :=
  canon_modRegion h

theorem canon_gateElem {f : Fab} {rid key : Nat} (h : f.Canon) : (gateElem f rid key).Canon := by
  unfold gateElem
  exact canon_modRegion (canon_modElem (ite_keeps (canon_tileTick h) h) fun _ h1 => h1.others)

theorem canon_stopPair {f : Fab} {rid cause ctx phase : Nat} (h : f.Canon) : (stopPair f rid cause ctx phase).Canon :=
  foldl_keeps h fun _ _ h1 => canon_beginStop h1

theorem canon_breakStop {f : Fab} {key n which : Nat} {x : FaultRec} (h : f.Canon) : (breakStop f key n which x).Canon := by
  unfold breakStop
  split
  · exact h
  extract_lets f1 f2
  have hf1 : f1.Canon := canon_modElem h fun _ h1 => canon_modPlane h1
  have hf2 : f2.Canon := canon_raiseFault hf1
  split
  · exact canon_modElem hf2 fun _ h1 => canon_modPlane h1
  · exact canon_gateElem (canon_stopPair hf2)

theorem canon_execStreamAccess {key : Nat} {s : State} (h : s.Canon) : OutCanon (execStreamAccess key s) := by
  unfold execStreamAccess
  extract_lets e
  split
  · exact h
  split
  · exact h
  extract_lets n i p s1
  have hs1 : s1.Canon := h.withFab (canon_modElem h.fab fun _ h1 => h1.withAg h1.ag.others)
  split
  · exact canon_onFab h (canon_breakStop h.fab)
  split
  · exact canon_cmdTurn hs1
  split
  · exact canon_strRaise hs1
  split
  · split
    · exact canon_readSp hs1
    · exact canon_readIssue hs1
  split
  · exact hs1
  split
  · exact canon_accIssue hs1
  split
  · exact canon_storeSp hs1
  · exact canon_storeIssue hs1

theorem canon_agTick {f : Fab} {key : Nat} (h : f.Canon) : (agTick f key).Canon :=
  canon_modElem (foldl_keeps (foldl_keeps (canon_spReadTick (canon_cmdSettle h)) fun _ _ h1 => canon_agFlush (canon_releaseFlush h1)) fun _ _ h1 =>
    foldl_keeps h1 fun _ _ h2 => canon_strPump h2) fun _ h1 => canon_timingTick h1

/-! ### Walkers, refills and invalidations (02 R54-R72) -/

theorem canon_execWalk {die idx : Nat} {s : State} (h : s.Canon) : OutCanon (execWalk die idx s) := by
  unfold execWalk
  split
  · exact h
  split
  · exact h
  · exact canon_poisonPost (h.withMem (canon_walkerRun h.mem).others)

theorem canon_refillStream {s : State} {w : Walk} {a : TEnt ⊕ Nat × Nat × Nat} (h : s.Canon) : (refillStream s w a).Canon := by
  unfold refillStream
  dsimp only
  split
  · exact h
  split
  · exact h.withFab (canon_modStr h.fab)
  split
  · exact h.withFab (canon_modStr h.fab)
  split
  · exact canon_postReport (h.withFab (canon_modStr h.fab))
  · exact canon_strRaise (h.withFab (canon_modStr h.fab))

theorem canon_refillCommand {s : State} {w : Walk} {a : TEnt ⊕ Nat × Nat × Nat} (h : s.Canon) : (refillCommand s w a).Canon := by
  have hbox : ListAll AgCmd.Canon (elemOf s.fab w.key).ag.inbox := (canon_elemOf h.fab).ag.inbox
  unfold refillCommand
  split
  · exact h
  next c heq =>
    have hc : c.Canon := (listAll_find hbox).get heq
    split
    · exact h.withFab (canon_modElem (canon_cmdSet h.fab ⟨hc.block⟩) fun _ h1 => h1.withAg h1.ag.others)
    next k sub lvl =>
      exact ite_keeps (canon_postReport (h.withFab (canon_cmdSet h.fab ⟨hc.block⟩))) (canon_copyFail h ⟨hc.block⟩)

theorem canon_refillHeld {s : State} {w : Walk} {a : TEnt ⊕ Nat × Nat × Nat} (h : s.Canon) : (refillHeld s w a).Canon := by
  unfold refillHeld
  dsimp only
  split
  · exact h
  · exact h.withFab (canon_modStr h.fab)
  split
  · exact canon_postReport (h.withFab (canon_modElem h.fab fun _ h1 => h1.withAg h1.ag.others))
  · exact canon_strRaise (h.withFab (canon_modElem h.fab fun _ h1 => h1.withAg h1.ag.others))

theorem canon_postAll {s : State} {part : Nat} (h : s.Canon) : (postAll s part).Canon :=
  foldl_keeps h fun _ _ h1 => canon_postRun h1

theorem canon_refillHub {s : State} {w : Walk} {a : TEnt ⊕ Nat × Nat × Nat} (h : s.Canon) : (refillHub s w a).Canon :=
  foldl_keeps (h.withHubFab (canon_modPart h.hub fun _ h1 => ⟨h1.mbuf⟩) h.fab.others) fun _ _ h1 => canon_postAll h1

theorem canon_execRefillReturn {die idx : Nat} {s : State} (h : s.Canon) : OutCanon (execRefillReturn die idx s) := by
  unfold execRefillReturn
  split
  · exact h
  split
  · exact h
  extract_lets s1
  have hs1 : s1.Canon := h.withMem (canon_walkDrop h.mem)
  split
  · exact canon_refillStream hs1
  split
  · exact canon_refillCommand hs1
  split
  · exact canon_refillHub hs1
  · exact canon_refillHeld hs1

theorem canon_modAgs {s : State} {part : Nat} {g : Nat → Elem → Elem} (hs : s.Canon) (hg : ∀ x e, e.Canon → (g x e).Canon) :
    (modAgs s part g).Canon :=
  hs.withFab (hs.fab.withElems (listAll_map hs.fab.elems fun _ h => ite_keeps (hg _ _ h) h))

theorem canon_invForget {part : Nat} {v : Inval} {e : Elem} (h : e.Canon) : (invForget part v e).Canon :=
  h.withAg h.ag.others

theorem canon_invReach {s : State} {part idx : Nat} {v : Inval} (h : s.Canon) : (invReach s part idx v).Canon :=
  ⟨canon_modPart h.hub (fun _ h1 => ⟨h1.mbuf⟩), h.mem.others, (canon_modAgs h fun _ _ h1 => canon_invForget h1).fab.others⟩

theorem canon_invStale {f : Fab} {l : List (Nat × Nat)} (h : f.Canon) : (invStale f l).Canon :=
  foldl_keeps h fun _ _ h1 => canon_modElem h1 fun _ h2 => h2.withAg h2.ag.others

theorem canon_invWake {s : State} {part : Nat} {v : Inval} (h : s.Canon) : (invWake s part v).Canon := by
  unfold invWake
  extract_lets wake go t
  have hgo {c : AgCmd} (hc : c.Canon) : (go c).Canon := ite_keeps (AgCmd.Canon.of_block hc.block) hc
  have ht : t.Canon := canon_modAgs h fun _ _ h1 => h1.withAg (h1.ag.withInbox (listAll_map h1.ag.inbox fun _ h2 => hgo h2))
  exact ht.withHubFab (canon_modPart h.hub fun _ h1 => ⟨h1.mbuf⟩) ht.fab.others

theorem canon_execInvalidationComplete {part idx : Nat} {s : State} (h : s.Canon) : OutCanon (execInvalidationComplete part idx s) := by
  unfold execInvalidationComplete
  split
  · exact h
  split
  · exact canon_invReach h
  extract_lets left s1 s2 u
  have hs1 : s1.Canon := h.withHubFab (canon_modPart h.hub fun _ h1 => ⟨h1.mbuf⟩) (canon_invStale h.fab)
  have hs2 : s2.Canon := canon_invWake hs1
  have hu : u.Canon := canon_modPart hs2.hub fun _ h1 => ⟨h1.mbuf⟩
  split
  · exact hs1
  refine hs2.withHubFab hu ?_
  split
  · exact canon_cmdDone hs2.fab
  · exact hs2.fab

/-! ### What a stop does to a region (07 R200, 15 R429) -/

theorem canon_giveBack {f : Fab} {key sel c : Nat} {back : Bool} (h : f.Canon) : (giveBack f key sel c back).Canon := by
  unfold giveBack
  split
  · exact h
  dsimp only
  split
  · exact h
  · exact canon_modNet h

theorem canon_flushNet {f : Fab} {ctx key : Nat} (h : f.Canon) : (flushNet f ctx key).Canon := by
  unfold flushNet
  exact canon_modNet (foldl_keeps h fun _ _ h1 => canon_giveBack h1)

theorem canon_dropMarks {f : Fab} {ctx key : Nat} (h : f.Canon) : (dropMarks f ctx key).Canon := by
  unfold dropMarks
  exact canon_modNet (foldl_keeps h fun _ _ h1 => canon_giveBack h1)

theorem canon_flushReqs {ctx : Nat} {e : Elem} (h : e.Canon) : (flushReqs ctx e).Canon :=
  h.withMtAg h.mt.others h.ag.others

theorem canon_flushCtx {f : Fab} {keys : List Nat} {ctx : Nat} (h : f.Canon) : (flushCtx f keys ctx).Canon :=
  (foldl_keeps h fun _ _ h1 => canon_modElem (canon_flushNet h1) fun _ h2 => canon_flushReqs h2).others

theorem canon_moveElem {src dst : List Nat} {e : Elem} (h : e.Canon) : (moveElem src dst e).Canon :=
  h.withMtAg h.mt.others (h.ag.withInbox (listAll_map h.ag.inbox fun _ h1 => AgCmd.Canon.of_block h1.block))

theorem tabAll_moveTab {α : Type} {P : α → Prop} {t : Tab α} {inSrc inDst : Nat → Bool} {ren : Nat → Nat} {g : α → α} (h : TabAll P t)
    (hg : ∀ x, P x → P (g x)) :
    TabAll P (moveTab t inSrc inDst ren g) :=
  List.foldlRecOn _ _ (tabAll_filter h) fun _ hu q hq => tabAll_tins hu (hg _ (h q (List.mem_of_mem_filter hq)))

theorem canon_moveCores {s : State} {src dst : List Nat} (h : s.Canon) : (moveCores s src dst).Canon := by
  refine ⟨⟨tabAll_map h.hub.parts fun _ h1 => ⟨h1.mbuf⟩⟩, h.mem.others, ⟨?_, ?_⟩⟩
  · dsimp only [moveCores]
    exact tabAll_moveTab h.fab.elems fun _ h1 => canon_moveElem h1
  · dsimp only [moveCores]
    exact tabAll_moveTab h.fab.ccs fun _ h1 => h1

theorem canon_dropWalks {m : MemSys} {gone : Walk → Bool} (h : m.Canon) : (dropWalks m gone).Canon :=
  h.others

theorem canon_ctxPart {n : Nat} {e : Elem} (h : e.Canon) : (ctxPart n e).Canon :=
  ⟨(canon_quotaClear h.mt).others, CtSt.Canon.of_ls memWf_nil, ⟨memWf_nil, listAll_nil⟩⟩

theorem canon_dropStore {n : Nat} {e : Elem} (h : e.Canon) : (dropStore n e).Canon :=
  ⟨h.mt.others, h.ct.others, h.ag.others⟩

theorem canon_renameInvals {u : Hub} {ren : Nat × Nat → Nat × Nat} (h : u.Canon) : (renameInvals u ren).Canon :=
  ⟨listAll_map h.parts fun _ h1 => ⟨h1.mbuf⟩⟩

theorem canon_ctxMerge {n : Nat} {lent : Nat → Bool} {e x : Elem} (h : e.Canon) : (ctxMerge n lent e x).Canon := by
  have hdata (l : Mem) : memWf (l.foldl (fun t c => mput t c.1 c.2) []) = true :=
    foldl_keeps (P := fun m => memWf m = true) memWf_nil fun _ _ h1 => memWf_mput h1 _ _
  exact ⟨⟨hdata _⟩, ⟨h.ct.ls⟩, ⟨h.ag.buf, h.ag.inbox⟩⟩

theorem canon_slotHeader {m : MemSys} {part : Nat} {p : Part} {slot v : Nat} (hm : m.Canon) : (slotHeader m part p slot v).Canon :=
  foldl_keeps hm fun _ _ h => canon_hbmWrite h

theorem canon_saveHeaders {m : MemSys} {p : Part} {r : Region} {slots : List Nat} {corrupt : Bool} {reason : Nat} {dtime : Word} (hm : m.Canon) :
    (saveHeaders m p r slots corrupt reason dtime).Canon := by
  unfold saveHeaders
  extract_lets part m1
  have hm1 : m1.Canon := foldl_keeps hm fun _ _ h => ite_keeps h (canon_slotHeader h)
  split
  · exact hm1
  · exact canon_slotHeader hm1

theorem canon_writeImage {m : MemSys} {part : Nat} {p : Part} {slot : Nat} {frames : List (BitVec 256)} (hm : m.Canon) :
    (writeImage m part p slot frames).Canon :=
  foldr_keeps hm fun _ _ h => canon_hbmWrite h

theorem canon_writeSave {s : State} {p : Part} {r : Region} {id : Nat} {cores virt slots : List Nat} {reason : Nat} {dtime : Word} (hs : s.Canon) :
    (writeSave s p r id cores virt slots reason dtime).Canon :=
  hs.withHubMem (canon_modPart hs.hub fun _ h => ⟨h.mbuf⟩) (canon_saveHeaders (foldl_keeps hs.mem fun _ _ h => canon_writeImage h))

theorem canon_requeue {p : Part} {l : Launch} {id : Option Nat} (h : p.Canon) : (requeue p l id).Canon :=
  ⟨h.mbuf⟩

theorem canon_planesIncomplete {f : Fab} {l : Load} {keys : List Nat} (h : f.Canon) : (planesIncomplete f l keys).Canon :=
  foldl_keeps h fun _ _ h1 => canon_modElem h1 fun _ h2 => canon_modPlane h2

theorem canon_keepStore {e : Elem} (h : e.Canon) : (keepStore e).Canon :=
  ⟨h.mt.others, h.ct.others, h.ag.withInbox listAll_nil⟩

theorem canon_leaveStores {f : Fab} {cores virt : List Nat} (h : f.Canon) : (leaveStores f cores virt).Canon := by
  refine foldl_keeps h fun f q hf => ?_
  have hcc : (ccOf f q.2).Canon := canon_ccOf hf
  have hkept : Fab.Canon { f with
      ccs := tins f.ccs q.1 { isram := (ccOf f q.2).isram, dsram := (ccOf f q.2).dsram, bad := (ccOf f q.2).bad } } :=
    hf.withCcs (tabAll_tins hf.ccs ⟨hcc.isram, hcc.dsram⟩)
  exact foldl_keeps hkept fun _ _ h1 => h1.withElems (tabAll_tput h1.elems (canon_keepStore (canon_elemOf h1)))

theorem canon_saveLaunch {s : State} {rid : Nat} {r : Region} {reason keep : Nat} (h : s.Canon) : (saveLaunch s rid r reason keep).Canon := by
  unfold saveLaunch
  extract_lets part p slots cores base virt lds s1 s2 x f s3 s4 f1 n keys mine s5 f2 crd f3 f4 s6
  have hs1 : s1.Canon := h.withFab (foldl_keeps h.fab fun _ _ h1 => canon_planesIncomplete h1)
  have hs2 : s2.Canon := ite_keeps (hs1.withFab (canon_modCc hs1.fab fun _ h1 => canon_setEv h1)) hs1
  have hf : f.Canon := hs2.fab
  have hs3 : s3.Canon := hs2.withHubFab (canon_modPart hs2.hub fun _ h1 => canon_requeue ⟨h1.mbuf⟩) hf.others
  have hs4 : s4.Canon := canon_moveCores (hs3.withMem (canon_dropWalks hs3.mem))
  have hf1 : f1.Canon := canon_leaveStores hs4.fab
  have hs5 : s5.Canon := hs3.withHub (canon_renameInvals hs3.hub)
  have hf2 : f2.Canon := foldl_keeps hs5.fab fun _ _ h1 => h1.withElems (tabAll_tins h1.elems (canon_ctxPart (canon_elemOf h1)))
  have hf3 : f3.Canon := canon_flushCtx hf2.others
  have hf4 : f4.Canon := foldl_keeps hf3 fun _ _ h1 => canon_modElem h1 fun _ h2 => canon_modPlane (canon_dropStore h2)
  have hs6 : s6.Canon := hs5.withMem (canon_dropWalks hs5.mem)
  split
  · exact canon_writeSave (hs4.withFab hf1.others)
  · exact canon_writeSave (hs6.withFab hf4.others)

/-! ### Round controllers (04 R111-R125, 07 R194-R205) -/

theorem canon_backMarks {f : Fab} {key n : Nat} (h : f.Canon) : (backMarks f key n).Canon := by
  unfold backMarks
  refine foldl_keeps h fun _ _ h1 => ?_
  dsimp only
  split
  · exact canon_modElem (canon_popQ h1) fun _ h2 => canon_modRun h2
  · exact canon_modElem (canon_popQ h1) fun _ h2 => canon_modRun h2
  · exact h1

theorem canon_chainTake {f : Fab} {key n : Nat} (h : f.Canon) : (chainTake f key n).Canon := by
  unfold chainTake
  dsimp only
  split
  · exact h
  split
  · split
    · exact canon_popPlane h
    · exact canon_modElem (canon_popPlane h) fun _ h1 => canon_modRun h1
  · exact h

theorem canon_chainTick {f : Fab} {key : Nat} (h : f.Canon) : (chainTick f key).Canon :=
  foldl_keeps h fun _ _ h1 => canon_chainTake h1

theorem canon_enterPlane {n : Nat} {nxt : BitVec 32} {e : Elem} (h : e.Canon) : (enterPlane n nxt e).Canon :=
  canon_modPlane h

theorem canon_sbindEnd {f : Fab} {key : Nat} {t : Tab (List (Nat × BitVec 256) × Nat × Nat)} (h : f.Canon) : (sbindEnd f key t).Canon := by
  refine foldl_keeps h fun f b hf => ?_
  have hbox : ListAll AgCmd.Canon (elemOf f key).ag.inbox := (canon_elemOf hf).ag.inbox
  split
  next c heq => exact canon_cmdEnd hf ((listAll_find hbox).get heq)
  · exact hf

theorem canon_enterRound {f : Fab} {key n : Nat} (h : f.Canon) : (enterRound f key n).Canon := by
  unfold enterRound
  extract_lets p nxt f1 f2 f3
  have hf1 : f1.Canon := foldl_keeps h fun _ _ h1 => ite_keeps (canon_popQ h1) h1
  have hf2 : f2.Canon := foldl_keeps hf1 fun _ _ h1 => canon_pushOut h1
  have hf3 : f3.Canon := canon_modElem (canon_sbindEnd hf2) fun _ h1 => canon_enterPlane h1
  split
  · exact hf3
  split
  · exact canon_modRegion hf3
  · exact hf3

theorem canon_execRoundEntry {key plane : Nat} {s : State} (h : s.Canon) : OutCanon (execRoundEntry key plane s) := by
  unfold execRoundEntry
  extract_lets f e p
  refine ite_keeps h (ite_keeps (canon_onFab h (canon_backMarks h.fab)) (ite_keeps h ?_))
  split
  next g hg => exact h.withFab ((canon_edgeFlush h.fab).get hg)
  · exact ite_keeps (canon_onFab h (canon_enterRound h.fab)) h

theorem canon_execEndMark {key plane : Nat} {s : State} (h : s.Canon) : OutCanon (execEndMark key plane s) := by
  unfold execEndMark
  extract_lets f e p
  refine ite_keeps h ?_
  split
  next g hg => exact h.withFab ((canon_edgeFlush h.fab).get hg)
  · refine ite_keeps (canon_onFab h ?_) h
    have hpop {l : List Nat} : (l.foldl (fun f q => popQ f key q) s.fab).Canon := foldl_keeps h.fab fun _ _ h1 => canon_popQ h1
    exact canon_modElem (foldl_keeps hpop fun _ _ h1 => canon_pushOut h1) fun _ h1 => canon_modPlane h1

theorem canon_orderMarks {f : Fab} {n : Nat} {l : List Src} {ok : Src → Bool} (h : f.Canon) : (orderMarks f n l ok).Canon := by
  unfold orderMarks
  refine foldl_keeps h fun _ _ h1 => ?_
  split
  · exact h1
  · exact canon_modCc h1 fun _ h2 => h2.others

theorem canon_orderStreams {f : Fab} {n : Nat} {l : List Src} {ok : Src → Bool} (h : f.Canon) : (orderStreams f n l ok).Canon :=
  foldl_keeps h fun _ _ h1 => ite_keeps h1 (canon_modStr h1)

theorem canon_execEarlyEdgeRequest {key plane : Nat} {s : State} (h : s.Canon) : OutCanon (execEarlyEdgeRequest key plane s) := by
  unfold execEarlyEdgeRequest
  split
  · exact h
  dsimp only
  split
  · exact h
  split
  · split
    · exact h
    · exact canon_onFab h (canon_modRegion h.fab)
  · exact canon_onFab h (canon_orderStreams (canon_orderMarks (canon_modRegion h.fab)))

theorem canon_execNonedgeSignal {rid plane : Nat} {s : State} (h : s.Canon) : OutCanon (execNonedgeSignal rid plane s) := by
  unfold execNonedgeSignal
  split
  · exact h
  dsimp only
  split
  · exact h
  · exact canon_onFab h (foldl_keeps (foldl_keeps (canon_orderStreams (canon_orderMarks h.fab)) fun _ _ h1 => canon_modCc h1 fun _ h2 => h2.others)
      fun _ _ h1 => canon_modElem h1 fun _ h2 => ite_keeps (canon_modPlane h2) h2)

theorem canon_holdPerform {s : State} {key : Nat} {x : Held} (h : s.Canon) : (holdPerform s key x).Canon := by
  unfold holdPerform
  dsimp only
  split
  · exact canon_poisonPost (h.withMem (canon_lineWrite h.mem))
  · exact canon_strRaise (canon_poisonPost (h.withMem (canon_lineWrite h.mem)))

theorem canon_performAll {x : Nat} {s : State} {x1 : List (Nat × Nat × List Held)} (h : s.Canon) : (performAll x s x1).Canon := by
  induction x generalizing s x1 with
  | zero => exact h
  | succ fuel ih =>
    refine ite_keeps h ?_
    extract_lets i t
    split
    · exact ih (canon_holdPerform h.others)
    · exact h.others

theorem canon_commitElem {ctx : Nat} {n : BitVec 32} {e : Elem} (h : e.Canon) : (commitElem ctx n e).Canon := by
  unfold commitElem
  dsimp only
  split
  · exact canon_modPlane ⟨h.mt.others, h.ct.others, h.ag.others⟩
  · exact ⟨h.mt.others, h.ct.others, h.ag.others⟩

theorem canon_commitCore {ctx : Nat} {n : BitVec 32} {c : CC} (h : c.Canon) : (commitCore ctx n c).Canon :=
  h.others

theorem canon_commitRegion {ctx : Nat} {s : State} {rid : Nat} (h : s.Canon) : (commitRegion ctx s rid).Canon := by
  unfold commitRegion
  split
  · exact h
  extract_lets n held second s1 f f1 f2 f3 f4 l s2
  have hs1 : s1.Canon := ite_keeps h (canon_performAll h)
  have hf : f.Canon := foldl_keeps hs1.fab fun _ _ h1 => canon_modElem h1 fun _ h2 => canon_commitElem h2
  have hf1 : f1.Canon := foldl_keeps hf fun _ _ h1 => canon_modCc h1 fun _ h2 => canon_commitCore h2
  have hf2 : f2.Canon := canon_modRegion hf1
  have hf3 : f3.Canon := canon_regionEvent hf2
  have hf4 : f4.Canon := foldl_keeps hf3 fun _ _ h1 => canon_wcSettle h1
  have hs2 : s2.Canon := hs1.withFab hf4
  split
  · exact hs2
  · exact hs2.withHub (canon_modPart hs2.hub fun _ h1 => canon_addEvent h1)

theorem canon_execRoundCommit {rid plane : Nat} {s : State} (h : s.Canon) : OutCanon (execRoundCommit rid plane s) := by
  unfold execRoundCommit
  dsimp only
  split
  · exact h
  split
  · exact canon_strRaise h
  · exact foldl_keeps h fun _ _ h1 => canon_commitRegion h1

theorem canon_linkReset {f : Fab} {k o : Nat} (h : f.Canon) : (linkReset f k o).Canon :=
  canon_modElem h fun _ h1 => h1.others

theorem canon_linksReset {f : Fab} {keys : List Nat} {drift : Bool} (h : f.Canon) : (linksReset f keys drift).Canon :=
  foldl_keeps h fun _ _ h1 => foldl_keeps h1 fun _ _ h2 => canon_linkReset h2

theorem canon_journalLine {b : Nat} {j : JEnt} {m : MtSt} (h : m.Canon) : (journalLine b j m).Canon :=
  MtSt.Canon.of_data (memWf_putLine (canon_clearBad h).data _ _)

theorem canon_journalBank {ctxs : List Nat} {b : Nat} {m : MtSt} {l : List JEnt} (h : m.Canon) : (journalBank ctxs b m l).Canon :=
  (foldr_keeps h fun _ _ h1 => canon_journalLine h1).others

theorem canon_journalLs {j : JEnt} {c : CtSt} (h : c.Canon) : (journalLs j c).Canon :=
  CtSt.Canon.of_ls (memWf_putLine h.ls _ _)

theorem canon_journalBack {ctxs : List Nat} {e : Elem} (h : e.Canon) : (journalBack ctxs e).Canon :=
  h.withMtCt (foldl_keeps h.mt fun _ _ h1 => canon_journalBank h1) (foldr_keeps h.ct fun _ _ h1 => canon_journalLs h1).others

theorem canon_elemBack {key ctx : Nat} {n : BitVec 32} {e : Elem} (h : e.Canon) : (elemBack key ctx n e).Canon := by
  unfold elemBack
  split
  · exact h
  dsimp only
  split
  · exact (canon_modPlane (canon_journalBack h)).withAg (canon_modPlane (canon_journalBack h)).ag.others
  · exact (canon_modPlane (canon_journalBack h)).withCtAg (canon_modPlane (canon_journalBack h)).ct.others (canon_modPlane (canon_journalBack
      h)).ag.others

theorem canon_backlogBack {f : Fab} {key ctx : Nat} {n : BitVec 32} {log : List (Nat × BitVec 32 × Nat × Token)} (h : f.Canon) :
    (backlogBack f key ctx n log).Canon :=
  foldr_keeps h fun _ _ h1 => canon_giveBack (canon_modNet h1)

theorem canon_coreBack {ctx : Nat} {n : BitVec 32} {c : CC} (h : c.Canon) : (coreBack ctx n c).Canon :=
  h.others

theorem canon_discardCtx {ctx : Nat} {f : Fab} {rid : Nat} (h : f.Canon) : (discardCtx ctx f rid).Canon := by
  unfold discardCtx
  split
  · exact h
  · exact canon_modRegion (foldl_keeps (foldl_keeps (foldl_keeps (canon_linksReset (foldl_keeps (canon_flushCtx (foldl_keeps h fun _ _ h1 =>
      canon_modElem h1 fun _ h2 => canon_elemBack h2)) fun _ _ h1 => canon_modMt h1 fun _ h2 => h2.others)) fun _ _ h1 => ite_keeps (canon_kwrRun h1)
      h1) fun _ _ h1 => canon_backlogBack h1) fun _ _ h1 => canon_modCc h1 fun _ h2 => canon_coreBack h2)

theorem canon_reportFaults {s : State} {rid ctx effect : Nat} {both : BitVec 32 → Bool} (h : s.Canon) :
    (reportFaults s rid ctx effect both).Canon := by
  unfold reportFaults
  dsimp only
  split
  · exact canon_postReport h
  · exact h

theorem canon_discardAll {f : Fab} {rid ctx : Nat} (h : f.Canon) : (discardAll f rid ctx).Canon := by
  unfold discardAll
  refine foldl_keeps h fun _ _ h1 => ?_
  split
  · exact h1
  · exact foldl_keeps (foldl_keeps h1 fun _ _ h2 => canon_modElem h2 fun _ h3 => canon_journalBack h3) fun _ _ h2 => canon_discardCtx h2

theorem canon_noteReplay {f : Fab} {rid ctx : Nat} {g : RCtx → RCtx} (h : f.Canon) : (noteReplay f rid ctx g).Canon :=
  foldl_keeps h fun _ _ h1 => canon_modRegion h1

theorem canon_rasAdd {u : Hub} {part n k : Nat} (h : u.Canon) : (rasAdd u part n k).Canon :=
  canon_modPart h fun _ h1 => ⟨h1.mbuf⟩

theorem canon_applyDiscard {s : State} {rid ctx : Nat} (h : s.Canon) : (applyDiscard s rid ctx).1.Canon := by
  unfold applyDiscard
  dsimp only
  split
  · exact h
  split
  · exact (canon_reportFaults h).withFab (canon_noteReplay (canon_discardAll (canon_reportFaults h).fab))
  · exact h.withHubFab (canon_rasAdd h.hub) (canon_noteReplay (canon_discardAll h.fab))
  · exact h.withFab (canon_noteReplay (canon_discardAll h.fab))
  · exact h

theorem canon_setPhase {f : Fab} {rid : Nat} {g : Region → Region} (h : f.Canon) : (setPhase f rid g).Canon :=
  foldl_keeps h fun _ _ h1 => canon_modRegion h1

theorem canon_driftStop {f : Fab} {rid ctx : Nat} (h : f.Canon) : (driftStop f rid ctx).Canon := by
  unfold driftStop
  split
  · exact h
  dsimp only
  split
  · exact canon_sendDrift (canon_modRegion h)
  · exact canon_modRegion h

theorem canon_stopReport {s : State} {rid ctx effect : Nat} (h : s.Canon) : (stopReport s rid ctx effect).Canon :=
  (canon_reportFaults h).withFab (canon_noteReplay (canon_reportFaults h).fab)

theorem canon_actNow {s : State} {rid ctx : Nat} (h : s.Canon) : (actNow s rid ctx).Canon := by
  unfold actNow
  dsimp only
  split
  · exact (canon_reportFaults h).withFab (canon_noteReplay (canon_reportFaults h).fab)
  · split
    · exact h.withFab (canon_driftStop h.fab)
    split
    · exact canon_stopReport h
    · exact canon_applyDiscard h
  · exact canon_applyDiscard h

theorem canon_applyGated {s : State} {rid ctx : Nat} (h : s.Canon) : (applyGated s rid ctx).Canon := by
  unfold applyGated
  split
  · exact (canon_stopReport h).withFab (canon_setPhase (canon_stopReport h).fab)
  · exact (canon_applyDiscard h).withFab (canon_setPhase (canon_applyDiscard h).fab)

theorem canon_execRoundDiscard {rid : Nat} {s : State} (h : s.Canon) : OutCanon (execRoundDiscard rid s) := by
  unfold execRoundDiscard
  split
  · exact h
  split
  · exact h
  split
  · split
    · exact canon_applyGated h
    · exact h
  split
  · exact h
  dsimp only
  split
  · exact canon_actNow h
  split
  · exact canon_onFab h (canon_stopPair h.fab)
  split
  · exact h
  · exact canon_applyGated h

theorem canon_execGateSignalArrival {key : Nat} {s : State} (h : s.Canon) : OutCanon (execGateSignalArrival key s) := by
  unfold execGateSignalArrival
  split
  · exact h
  split
  · exact h
  refine canon_onFab h ?_
  extract_lets f f1
  have hf : f.Canon := canon_gateElem h.fab
  have hf1 : f1.Canon := ite_keeps (canon_modRegion hf) hf
  split
  · refine canon_modCc hf1 fun _ h1 => ?_
    split
    · exact h1.others
    · exact h1
  · exact hf1

theorem canon_auditFix {f : Fab} {x : Nat × Nat × Nat × Nat} (h : f.Canon) : (auditFix f x).Canon := by
  unfold auditFix
  dsimp only
  split
  · exact canon_linkReset h
  split
  · exact canon_linkReset h
  · exact foldl_keeps (canon_modElem h fun _ h1 => h1.others) fun _ _ h1 => canon_raiseFault h1

theorem canon_restartChecks {r : Region} {f : Fab} {k : Nat} (h : f.Canon) : (restartChecks r f k).Canon :=
  canon_modElem (foldl_keeps (foldl_keeps h fun _ _ h1 => canon_auditFix h1) fun _ _ h1 => canon_raiseFault h1) fun _ h1 => h1.others

theorem canon_ungate {f : Fab} {rid : Nat} (h : f.Canon) : (ungate f rid).Canon := by
  unfold ungate
  split
  · exact h
  refine foldl_keeps (canon_modRegion (foldl_keeps (foldl_keeps h fun _ _ h1 => canon_modElem h1 fun _ h2 => h2.others) fun _ _ h1 => canon_modCc h1
    fun _ h2 => ?_)) fun _ _ h1 => canon_restartChecks h1
  split
  · exact h2.others
  · exact h2

theorem canon_holdAgain {s : State} {key : Nat} {x : Held} (h : s.Canon) : (holdAgain s key x).1.Canon := by
  unfold holdAgain
  dsimp only
  split
  · exact h
  split
  · exact h
  split
  · exact h
  · exact canon_strRaise h
  split
  · exact h
  · exact h.withMem (canon_askWalk h.mem)

theorem canon_nodeAgain {who : Held → Bool} {s : State} {key : Nat} (h : s.Canon) : (nodeAgain who s key).1.Canon := by
  unfold nodeAgain
  extract_lets r
  have hr : r.1.Canon := by
    refine foldl_keeps_fst h fun a x ha => ?_
    exact ite_keeps_fst (canon_holdAgain ha) ha
  exact hr.withFab (canon_modElem hr.fab fun _ h1 => h1.withAg h1.ag.others)

theorem canon_regionAgain {who : Held → Bool} {s : State} {r : Region} (h : s.Canon) : (regionAgain who s r).1.Canon :=
  foldl_keeps_fst h fun _ _ h1 => canon_nodeAgain h1

theorem canon_restartPair {s : State} {rid : Nat} (h : s.Canon) : (restartPair s rid).Canon := by
  unfold restartPair
  extract_lets rs a
  have ha : a.1.Canon := by
    refine foldl_keeps_fst h fun b q hb => ?_
    split
    · exact hb
    · exact canon_regionAgain hb
  exact ite_keeps (ha.withFab (foldl_keeps ha.fab fun _ _ h1 => canon_ungate h1)) ha

theorem canon_driftResume {s : State} {did : Nat} (h : s.Canon) : (driftResume s did).Canon := by
  unfold driftResume
  split
  · exact h
  extract_lets a f go
  have ha : a.1.Canon := canon_regionAgain h
  have hf : f.Canon := canon_modRegion ha.fab
  have hgo {f : Fab} (h : f.Canon) : (go f).Canon := ite_keeps h (canon_sendDrift h)
  refine ite_keeps ha (ha.withFab (ite_keeps hf (hgo ?_)))
  exact foldl_keeps hf fun _ _ h1 => canon_modElem h1 fun _ h2 => canon_modPlane h2

theorem canon_imgFrame {u : Hub} {m : MemSys} {x : HubX} {part : Nat} {id : ImgId} {k : Nat} (hm : m.Canon) : (imgFrame u m x part id k).1.Canon :=
  canon_hubRead hm

theorem canon_imgSeek {u : Hub} {part : Nat} {id : ImgId} {xy : Nat × Nat} {sp idx x : Nat} {m : MemSys} {x1 : HubX} {x2 : Nat} (hm : m.Canon) :
    (imgSeek u part id xy sp idx x m x1 x2).1.Canon := by
  induction x generalizing m x1 x2 with
  | zero => exact hm
  | succ g ih =>
    unfold imgSeek
    extract_lets q
    have hq : q.1.Canon := canon_imgFrame hm
    split
    · exact hq
    · exact hq
    · exact ite_keeps_fst (canon_imgFrame hq) (ih hq)

theorem canon_imgAgain {u : Hub} {m : MemSys} {x : HubX} {part : Nat} {id : ImgId} {xy : Nat × Nat} {sp idx : Nat} (hm : m.Canon) :
    (imgAgain u m x part id xy sp idx).1.Canon := by
  unfold imgAgain
  extract_lets q
  have hq : q.1.Canon := canon_imgFrame hm
  split
  · exact hq
  · exact hq
  · exact canon_imgSeek hq

theorem canon_mendFrame {s : State} {rid : Nat} {r : Region} {q : Nat × Nat × Nat × Nat} (h : s.Canon) : (mendFrame s rid r q).1.Canon := by
  unfold mendFrame
  extract_lets p unmark clean
  have hclean {f : Fab} (hf : f.Canon) : (clean f).Canon :=
    canon_modElem hf fun _ h1 => ite_keeps h1.others (canon_modPlane h1)
  refine ite_keeps_fst h ?_
  split
  · exact h
  extract_lets x t s1
  have h1 : s1.Canon := canon_poisonPost (h.withMemFab (canon_imgAgain h.mem) (canon_modRegion h.fab))
  split
  · exact h1
  · exact h1
  · exact h1.withFab (hclean h1.fab)
  · exact h1.withFab (hclean (ite_keeps (canon_putRoute h1.fab) (canon_putFrame h1.fab)))

theorem canon_rescan {s : State} {rid : Nat} {r : Region} (h : s.Canon) : (rescan s rid r).1.Canon := by
  unfold rescan
  refine foldl_keeps_fst h fun _ _ h1 => ?_
  dsimp only
  split
  · exact h1
  · exact canon_mendFrame h1

theorem canon_rescanPair {s : State} {rid : Nat} (h : s.Canon) : (rescanPair s rid).1.Canon := by
  unfold rescanPair
  refine foldl_keeps_fst h fun _ _ h1 => ?_
  split
  · exact canon_rescan h1
  · exact h1

theorem canon_rescanStop {s : State} {rid : Nat} {r : Region} {q : Nat × Nat × Nat × Nat} (h : s.Canon) : (rescanStop s rid r q).Canon :=
  (canon_postReport h).withFab (canon_setPhase (canon_postReport h).fab)

theorem canon_execReplay {rid : Nat} {s : State} (h : s.Canon) : OutCanon (execReplay rid s) := by
  unfold execReplay
  split
  · exact h
  split
  · exact h
  split
  · exact canon_driftResume h
  split
  · exact h
  dsimp only
  split
  · exact canon_rescanStop (canon_rescanPair h)
  · exact canon_rescanPair h
  · exact canon_restartPair (canon_rescanPair h)

theorem canon_execTimingError {key : Nat} {s : State} (h : s.Canon) : OutCanon (execTimingError key s) := by
  unfold execTimingError
  dsimp only
  split
  · exact h
  split
  · split
    · exact h
    · exact canon_onFab h (foldl_keeps (canon_modElem h.fab fun _ h1 => h1.others) fun _ _ h1 => canon_raiseFault h1)
  split
  · exact h
  · exact canon_onFab h (canon_modElem h.fab fun _ h1 => h1.others)

theorem canon_execBreakpointStop {key plane slot : Nat} {s : State} (h : s.Canon) : OutCanon (execBreakpointStop key plane slot s) := by
  unfold execBreakpointStop
  dsimp only
  split
  · exact h
  split
  · exact h
  · exact canon_onFab h (canon_breakStop h.fab)

theorem canon_execQuiesceDetect {rid plane : Nat} {s : State} (h : s.Canon) : OutCanon (execQuiesceDetect rid plane s) := by
  unfold execQuiesceDetect
  split
  · exact h
  dsimp only
  split
  · exact h
  split
  · exact h.withFab (canon_driftStop (canon_raiseFault (canon_modRegion h.fab)))
  · exact h.withFab (canon_stopPair (canon_raiseFault (canon_modRegion h.fab)))

theorem canon_scrubBank {m : MtSt} {b : Nat} (h : m.Canon) : (scrubBank m b).Canon :=
  MtSt.Canon.of_data (memWf_mclear h.data _ _)

theorem canon_lendScrub {f : Fab} {r : Region} (h : f.Canon) : (lendScrub f r).Canon := by
  unfold lendScrub
  refine foldl_keeps h fun _ _ h1 => foldl_keeps h1 fun _ _ h2 => ?_
  split
  · exact canon_modMt h2 fun _ h3 => canon_scrubBank h3
  · exact h2

theorem canon_lendTo {f : Fab} {o fn : Nat} (h : f.Canon) : (lendTo f o fn).Canon := by
  unfold lendTo
  split
  · exact h
  split
  · exact h
  · exact canon_modRegion (canon_lendScrub h)

theorem canon_lendReturn {f : Fab} {o : Nat} (h : f.Canon) : (lendReturn f o).Canon := by
  unfold lendReturn
  split
  · exact h
  split
  · exact h
  · exact canon_modRegion (canon_lendScrub h)

theorem canon_msgsEnd {f : Fab} {did : Nat} (h : f.Canon) : (msgsEnd f did).Canon := by
  unfold msgsEnd
  split
  · exact h
  · exact canon_modRegion (foldl_keeps h fun _ _ h1 => canon_cmdReply h1)

theorem canon_coreForget {n : Nat} {c : CC} (h : c.Canon) : (coreForget n c).Canon :=
  h.others

theorem canon_driftLeaves {f : Fab} {did : Nat} (h : f.Canon) : (driftLeaves f did).Canon := by
  unfold driftLeaves
  split
  · exact h
  extract_lets f1 f2
  have hf1 : f1.Canon := foldl_keeps (canon_msgsEnd h) fun _ _ h1 => canon_modCc h1 fun _ h2 => canon_coreForget h2
  have hf2 : f2.Canon := hf1.others
  split
  · exact hf2
  · exact canon_lendReturn (canon_modRegion hf2)

theorem canon_settlePend {n : Nat} {e : Elem} (h : e.Canon) : (settlePend n e).Canon :=
  (foldl_keeps h fun _ _ h1 => canon_applyPend h1).others

theorem canon_planesEmpty {f : Fab} {keys : List Nat} {n : Nat} (h : f.Canon) : (planesEmpty f keys n).Canon := by
  unfold planesEmpty
  refine foldl_keeps h fun _ _ h1 => ?_
  split
  · exact canon_modElem h1 fun _ h2 => canon_modPlane h2
  · exact h1

theorem canon_kwrAll {f : Fab} {keys : List Nat} {n : Nat} (h : f.Canon) : (kwrAll f keys n).Canon :=
  foldl_keeps h fun _ _ h1 => ite_keeps (canon_kwrRun h1) h1

theorem canon_kwrDrop {s : State} {k n : Nat} (h : s.Canon) : (kwrDrop s k n).Canon := by
  unfold kwrDrop
  extract_lets p s1
  have hs1 : s1.Canon := foldl_keeps h fun _ _ h1 => canon_postReport (h1.withFab (canon_cmdDone h1.fab))
  split
  · exact h
  · exact hs1.withFab (canon_modElem hs1.fab fun _ h1 => canon_modPlane h1)

theorem canon_dropReplies {cores : List Nat} {e : Elem} (h : e.Canon) : (dropReplies cores e).Canon :=
  h.withMtAg h.mt.others (h.ag.withInbox (listAll_map h.ag.inbox fun _ h1 => ite_keeps (AgCmd.Canon.of_block h1.block) h1))

theorem canon_dropOwed {s : State} {cores : List Nat} (h : s.Canon) : (dropOwed s cores).Canon :=
  h.withHubFab ⟨listAll_map h.hub.parts fun _ h1 => ⟨h1.mbuf⟩⟩ (h.fab.withElems (listAll_map h.fab.elems fun _ h1 => canon_dropReplies h1))

theorem canon_driftAgain {s : State} {did : Nat} {d : Region} (h : s.Canon) : (driftAgain s did d).Canon :=
  ⟨canon_modPart h.hub (fun _ h1 => canon_requeue h1), canon_dropWalks h.mem, (foldl_keeps (canon_flushCtx h.fab) fun _ _ h1 => canon_modElem h1
    fun _ h2 => canon_modPlane (canon_dropStore (canon_journalBack h2))).others⟩

theorem canon_readsComplete {s : State} {r : Region} {mine : Nat → Bool} (h : s.Canon) : (readsComplete s r mine).Canon := by
  refine foldl_keeps h fun s k hs => foldl_keeps hs fun s i hs => ite_keeps ?_ hs
  have hread : OutCanon (execStreamReadReturn k i s) := canon_execStreamReadReturn hs
  split
  next t heq =>
    rw [heq] at hread
    exact hread
  · exact hs

theorem canon_driftFaults {s : State} {o did n : Nat} (h : s.Canon) : (driftFaults s o did n).Canon := by
  unfold driftFaults
  split
  · exact h
  split
  · exact h
  split
  · exact canon_actNow (h.withFab (canon_modRegion h.fab))
  · exact canon_actNow h

theorem canon_driftSaveAs {s : State} {did reason keep : Nat} (h : s.Canon) : (driftSaveAs s did reason keep).Canon := by
  unfold driftSaveAs
  extract_lets s1
  have hs1 : s1.Canon := h.withFab (canon_msgsEnd h.fab)
  split
  · exact hs1
  extract_lets o s2 s3 own ctxs s4 f
  have hs2 : s2.Canon := hs1.withFab (foldl_keeps hs1.fab fun _ _ h1 => canon_modElem h1 fun _ h2 => canon_settlePend h2)
  have hs3 : s3.Canon := canon_driftFaults (canon_readsComplete hs2)
  have hs4 : s4.Canon := ite_keeps (canon_driftAgain hs3) (canon_saveLaunch hs3)
  have hf : f.Canon := foldl_keeps hs4.fab fun _ _ h1 => canon_modCc h1 fun _ h2 => canon_coreForget h2
  exact hs4.withFab (canon_lendReturn (canon_modRegion hf))

theorem canon_driftSave {s : State} {did : Nat} (h : s.Canon) : (driftSave s did).Canon :=
  canon_driftSaveAs h

theorem canon_driftsOut {s : State} {rid keep : Nat} (h : s.Canon) : (driftsOut s rid keep).Canon :=
  foldl_keeps h fun _ _ h1 => canon_driftSaveAs h1

theorem canon_preloadsEnd {s : State} {rid : Nat} {r : Region} (h : s.Canon) : (preloadsEnd s rid r).Canon :=
  foldl_keeps h fun _ _ h1 => h1.withHubFab (canon_modPart h1.hub fun _ h2 => ⟨h2.mbuf⟩) (canon_kwrAll (canon_planesEmpty h1.fab)).others

theorem canon_freeRegion {s : State} {rid : Nat} (h : s.Canon) : (freeRegion s rid).Canon := by
  unfold freeRegion
  extract_lets s1 s2
  have hs1 : s1.Canon := canon_driftsOut h
  have hs2 : s2.Canon := hs1.withFab (canon_endLease hs1.fab)
  split
  · exact hs2
  extract_lets s3 s4 f f1 loads cores users gone
  have hs3 : s3.Canon := canon_preloadsEnd hs2
  have hs4 : s4.Canon := ite_keeps hs3 (hs3.withHub (canon_modPart hs3.hub fun _ h1 => ⟨h1.mbuf⟩))
  have hf : f.Canon := foldl_keeps hs4.fab fun _ _ h1 => canon_modElem h1 fun _ h2 => h2.others
  have hf1 : f1.Canon := foldl_keeps hf fun _ _ h1 => canon_modCc h1 fun _ h2 => h2.others
  exact hs4.withMemFab (canon_dropWalks hs4.mem) hf1.others

theorem canon_unbindPlane {f : Fab} {r : Region} {n : Nat} (h : f.Canon) : (unbindPlane f r n).Canon := by
  unfold unbindPlane
  refine foldl_keeps h fun _ _ h1 => ?_
  dsimp only
  split
  · exact canon_kwrRun (canon_modElem (canon_sbindEnd h1) fun _ h2 => canon_dropStore (canon_modPlane h2.others))
  · exact h1

theorem canon_swapEnds {f : Fab} {rid n : Nat} (h : f.Canon) : (swapEnds f rid n).Canon := by
  unfold swapEnds
  split
  · exact h
  split
  · exact h
  refine foldl_keeps (foldl_keeps (canon_modRegion h) fun _ _ h1 => canon_modElem h1 fun _ h2 => canon_modPlane h2) fun _ _ h1 => ?_
  split
  · exact h1
  split
  · exact h1
  · exact canon_sendDrift (canon_modRegion h1)

theorem canon_retireEvent {s : State} {rid ctx : Nat} {r : Region} (h : s.Canon) : (retireEvent s rid ctx r).Canon := by
  unfold retireEvent
  dsimp only
  split
  · exact h
  · exact h.withHub (canon_modPart h.hub fun _ h1 => canon_addEvent h1)

theorem canon_retireCtx {s : State} {rid ctx : Nat} (h : s.Canon) : (retireCtx s rid ctx).Canon := by
  unfold retireCtx
  split
  · exact h
  extract_lets second s1 drift last s2 f1 f2 f3 f4 f5 s3
  have h1 : s1.Canon := ite_keeps h (canon_retireEvent h)
  have h2 : s2.Canon := ite_keeps (canon_driftsOut h1) h1
  have hf3 : f3.Canon := canon_modRegion (canon_unbindPlane (canon_flushCtx h2.fab))
  have hf4 : f4.Canon := foldl_keeps hf3 fun _ _ h => canon_modCc (canon_wcSettle h) fun _ h => canon_coreForget h
  have h3 : s3.Canon := h2.withFab (canon_swapEnds hf4)
  clear_value drift
  split
  · exact h3.withFab (canon_driftLeaves h3.fab)
  split
  · exact h3
  · exact ite_keeps h3 (canon_freeRegion h3)

theorem canon_execRetirementSweep {rid plane : Nat} {s : State} (h : s.Canon) : OutCanon (execRetirementSweep rid plane s) := by
  unfold execRetirementSweep
  dsimp only
  split
  · exact h
  split
  · exact h
  split
  · exact foldl_keeps h fun _ _ h1 => canon_retireCtx h1
  split
  · exact h
  · exact canon_onFab (canon_postReport h) (canon_noteReplay (foldl_keeps (canon_postReport h).fab fun _ _ h1 => foldl_keeps h1 fun _ _ h2 =>
      canon_dropMarks h2))

/-! ### Launch records and image loads (08 R213-R217, 14 R383-R398) -/

theorem canon_fetchBytes {u : Hub} {m : MemSys} {x : HubX} {part fn va n : Nat} (hm : m.Canon) : (fetchBytes u m x part fn va n).1.Canon := by
  unfold fetchBytes
  dsimp only
  split <;> exact canon_hubReadN hm

theorem canon_fetchCheck {u : Hub} {m : MemSys} {t : HubX} {part fn v minClass : Nat} (hm : m.Canon) : (fetchCheck u m t part fn v minClass).1.Canon
    := by
  unfold fetchCheck
  dsimp only
  split
  · exact hm
  · split
    · exact hm
    · split
      · exact canon_fetchBytes hm
      · split
        · exact canon_fetchBytes hm
        · split
          · exact canon_fetchBytes (canon_fetchBytes hm)
          · split <;> exact canon_fetchBytes (canon_fetchBytes (canon_fetchBytes hm))

theorem canon_fetchRec {s : State} {part fn q va minClass : Nat} (h : s.Canon) : (fetchRec s part fn q va minClass).1.Canon := by
  unfold fetchRec
  refine canon_poisonPost (h.withHubMem (canon_modPart h.hub fun _ h1 => ⟨h1.mbuf⟩) ?_)
  split
  · exact canon_fetchBytes h.mem
  · exact canon_fetchCheck (canon_fetchBytes h.mem)

theorem canon_fetchReport {s : State} {part fn : Nat} {info : Word} (h : s.Canon) : (fetchReport s part fn info).Canon :=
  canon_postLine h

theorem canon_acceptRec {p : Part} {part fn q v : Nat} {index : BitVec 32} {bs ss : List Nat} (h : p.Canon) :
    (acceptRec p part fn q v index bs ss).Canon :=
  ⟨h.mbuf⟩

theorem canon_fetchQueue {s : State} {part fn q : Nat} (h : s.Canon) : (fetchQueue s part fn q).Canon := by
  unfold fetchQueue
  extract_lets p cfg head r t
  have ht : t.Canon := canon_fetchRec h
  refine ite_keeps h ?_
  split
  next bs ss _ =>
    refine ht.withHub (canon_modPart ht.hub fun p hp => ?_)
    have hacc : (acceptRec p part fn q r.2.1 head bs ss).Canon := canon_acceptRec hp
    exact ⟨hacc.mbuf⟩
  · exact ht
  · exact canon_fetchReport (ht.withHub (canon_modPart ht.hub fun _ h1 => ⟨h1.mbuf⟩))
  · exact ht.withHub (canon_modPart ht.hub fun _ h1 => ⟨h1.mbuf⟩)

theorem canon_fetchChild {s : State} {part fn : Nat} (h : s.Canon) : (fetchChild s part fn).Canon := by
  unfold fetchChild
  split
  · exact h
  extract_lets r t pop
  have ht : t.Canon := canon_fetchRec h
  have hpop {p : Part} (hp : p.Canon) : (pop p).Canon := ⟨hp.mbuf⟩
  split
  · exact ht.withHubFab (canon_modPart ht.hub fun _ h1 => canon_acceptRec (hpop h1)) (canon_cmdReply ht.fab)
  · exact ht
  · exact canon_fetchReport (ht.withHub (canon_modPart ht.hub fun _ h1 => ⟨h1.mbuf⟩))
  · exact ht.withHubFab (canon_modPart ht.hub fun _ h1 => hpop h1) (canon_cmdReply ht.fab)

theorem canon_execLaunchFetch {part fn q : Nat} {s : State} (h : s.Canon) : OutCanon (execLaunchFetch part fn q s) := by
  unfold execLaunchFetch
  dsimp only
  split
  · exact h
  split
  · exact canon_fetchQueue h
  split
  · exact canon_fetchChild h
  · exact h

theorem canon_refusePlaced {s : State} {rid code cause : Nat} (h : s.Canon) : (refusePlaced s rid code cause).Canon := by
  unfold refusePlaced
  split
  · exact h
  refine foldl_keeps ?_ fun _ _ h1 => ?_
  · split
    · exact canon_postReport h
    · exact (canon_postReport h).withHub (canon_modPart (canon_postReport h).hub fun _ h1 => canon_addEvent h1)
  · split
    · exact h1
    dsimp only
    split
    · exact h1.withFab (canon_driftLeaves (canon_kwrAll (canon_planesEmpty h1.fab)).others)
    · exact canon_freeRegion (h1.withFab (canon_kwrAll (canon_planesEmpty h1.fab)))

theorem canon_loadFail {s : State} {idx : Nat} {l : Load} {code cause : Nat} (h : s.Canon) : (loadFail s idx l code cause).Canon := by
  unfold loadFail
  dsimp only
  split
  · exact canon_refusePlaced (h.withFab (canon_kwrAll (canon_planesEmpty h.fab.others)))
  · exact h.withHubFab (canon_modPart h.hub fun _ h1 => ⟨h1.mbuf⟩) (canon_kwrAll (canon_planesEmpty h.fab.others))

theorem canon_bindStream {f : Fab} {r : Region} {v : Nat} (h : f.Canon) : OptAll Fab.Canon (bindStream f r v) := by
  unfold bindStream
  split
  · exact trivial
  dsimp only
  split
  · exact trivial
  · exact canon_putFrame h

theorem canon_placeStage {f : Fab} {r : Region} {v : Nat} (h : f.Canon) : OptAll Fab.Canon (placeStage f r v) := by
  unfold placeStage
  dsimp only
  split
  · exact trivial
  split
  · refine foldl_keeps (canon_modElem h fun _ h1 => canon_modPlane h1) fun _ _ h1 => ?_
    split
    · exact h1
    · exact canon_modElem h1 fun _ h2 => canon_modPlane h2
  · exact trivial

theorem canon_bindPorts {r : Region} {f : Fab} {core : Nat} (h : f.Canon) : (bindPorts r f core).Canon := by
  unfold bindPorts
  refine foldl_keeps h fun _ _ h1 => ?_
  split
  · exact canon_modCc h1 fun _ h2 => h2.others
  · exact h1

theorem canon_clockStart {f : Fab} {r : Region} (h : f.Canon) : (clockStart f r).Canon :=
  foldl_keeps h fun _ _ h1 => canon_modElem h1 fun _ h2 => h2.withMt h2.mt.others

theorem canon_prepareStart {s : State} {rid : Nat} (h : s.Canon) : (prepareStart s rid).Canon := by
  unfold prepareStart
  split
  · exact h
  extract_lets l step binds a b
  have hstep {o : Option Fab} {g : Fab → Option Fab} (ho : OptAll Fab.Canon o) (hg : ∀ f, f.Canon → OptAll Fab.Canon (g f)) :
      OptAll Fab.Canon (step o g) := optAll_bind ho hg
  have ha : OptAll Fab.Canon a := by
    refine foldl_keeps (P := OptAll Fab.Canon) h.fab fun o v ho => ?_
    exact ite_keeps (hstep ho fun _ h1 => canon_bindStream h1) (ite_keeps ho trivial)
  have hb : OptAll Fab.Canon b := foldl_keeps ha fun _ _ ho => hstep ho fun _ h1 => canon_placeStage h1
  refine ite_keeps (canon_refusePlaced h) ?_
  cases hf : b with
  | none => exact canon_refusePlaced h
  | some f =>
    dsimp -zeta only
    extract_lets f1 f2
    have h0 : f.Canon := hb.get hf
    have h1 : f1.Canon := ite_keeps h0 (canon_clockStart (canon_selectSpine h0))
    have h2 : f2.Canon := ite_keeps h1 (foldl_keeps h1 fun _ _ h => canon_bindPorts h)
    exact h.withFab (canon_modRegion h2)

theorem canon_startCore {s : State} {core : Nat} {sup : Bool} (h : s.Canon) : (startCore s core sup).Canon :=
  (canon_dropOwed h).withFab (canon_modCc (canon_dropOwed h).fab fun _ _ => (canon_ccOf h.fab).others)

theorem canon_execStartTokenArrival {core : Nat} {s : State} (h : s.Canon) : OutCanon (execStartTokenArrival core s) := by
  unfold execStartTokenArrival
  split
  · exact h
  extract_lets ready n home f f1 second s1 s2 f2 s3
  have hf : f.Canon := foldl_keeps h.fab fun _ _ h1 => ite_keeps (canon_bindPlane h1) h1
  have hf1 : f1.Canon := canon_modRegion hf
  have hs1 : s1.Canon := h.withFab hf1
  have hs2 : s2.Canon := ite_keeps (canon_startCore hs1) hs1
  have hf2 : f2.Canon := ite_keeps (canon_bindPorts hs2.fab) hs2.fab
  have hs3 : s3.Canon := hs2.withFab (canon_modRegion hf2)
  split
  · exact h
  split
  · exact hs3
  · exact canon_fillBucket hs3

theorem canon_loadBegin {f : Fab} {keys : List Nat} {n : Nat} (h : f.Canon) : (loadBegin f keys n).Canon := by
  unfold loadBegin
  refine foldl_keeps h fun _ _ h1 => canon_modElem h1 fun _ h2 => ?_
  dsimp only
  split
  · exact canon_modPlane h2.others
  · exact h2.others

theorem canon_loadData {f : Fab} {l : Load} {v : BitVec 256} (h : f.Canon) : OptAll (fun q => q.1.Canon) (loadData f l v) := by
  unfold loadData
  dsimp only
  split
  · exact trivial
  split
  · split
    · exact canon_putFrame h
    · exact trivial
  split
  · split
    · exact canon_putRoute h
    · exact trivial
  · exact canon_storeWrite h

theorem canon_loadDefaults {f : Fab} {l : Load} {drift : Bool} (h : f.Canon) : (loadDefaults f l drift).Canon := by
  unfold loadDefaults
  refine foldl_keeps h fun _ _ h1 => ?_
  split
  · exact h1
  dsimp only
  split
  · split
    · exact h1
    · exact canon_putFrame h1
  · exact foldl_keeps (ite_keeps h1 (canon_putFrame h1)) fun _ _ h2 => ite_keeps h2 (canon_putFrame h2)

theorem canon_loadedPlanes {f : Fab} {l : Load} (h : f.Canon) : (loadedPlanes f l).Canon := by
  unfold loadedPlanes
  refine canon_kwrAll (foldl_keeps h fun _ _ h1 => ?_)
  split
  · exact canon_modElem h1 fun _ h2 => canon_modPlane h2
  · exact h1

theorem canon_loadEnd {s : State} {idx : Nat} {l : Load} (h : s.Canon) : (loadEnd s idx l).Canon := by
  unfold loadEnd
  extract_lets drift f f1
  have hf : f.Canon := canon_loadDefaults h.fab
  have hf1 : f1.Canon := canon_loadedPlanes hf
  split
  · exact canon_loadFail (h.withFab hf)
  split
  · split
    · exact canon_loadFail (h.withFab hf)
    · exact h.withHubFab (canon_modPart h.hub fun _ h1 => ⟨h1.mbuf⟩) hf1.others
  extract_lets cls
  split
  · exact canon_loadFail (h.withFab hf)
  · exact canon_prepareStart (h.withFab hf1.others)

theorem canon_loadState {f : Fab} {l : Load} {a b : PSt} (h : f.Canon) : (loadState f l a b).Canon := by
  unfold loadState
  refine foldl_keeps h fun _ _ h1 => ?_
  split
  · exact canon_modElem h1 fun _ h2 => canon_modPlane h2
  · exact h1

theorem canon_openLoad {f : Fab} {l : Load} (h : f.Canon) : (openLoad f l).Canon := by
  unfold openLoad
  refine (foldl_keeps h fun _ _ h1 => ?_).others
  split
  · exact canon_modElem h1 fun _ h2 => canon_modPlane h2
  · exact h1

theorem canon_loadFrame {s : State} {idx : Nat} {l : Load} {v : BitVec 256} (h : s.Canon) : (loadFrame s idx l v).Canon := by
  unfold loadFrame
  extract_lets bad n last keep
  have hbad : bad.Canon := canon_loadFail h
  have hkeep {f : Fab} {l : Load} (hf : f.Canon) : (keep f l).Canon :=
    h.withHubFab (ite_keeps (canon_modPart h.hub fun _ h1 => ⟨h1.mbuf⟩) h.hub) (canon_loadState hf).others
  refine ite_keeps (ite_keeps (hkeep (canon_loadBegin h.fab)) hbad) (ite_keeps hbad (ite_keeps ?_ ?_))
  · split
    · exact hbad
    next q hq => exact hkeep ((canon_loadData h.fab).get hq)
  · exact ite_keeps (ite_keeps (canon_loadEnd h) hbad) (ite_keeps (hkeep h.fab) hbad)

theorem canon_execPlaneLoadFrame {idx : Nat} {s : State} (h : s.Canon) : OutCanon (execPlaneLoadFrame idx s) := by
  unfold execPlaneLoadFrame
  split
  · exact h
  extract_lets core held a r l' src t
  have ht : t.Canon := canon_poisonPost (h.withMemFab (canon_hubRead h.mem) h.fab.others)
  have hstate {x y : PSt} : (loadState t.fab l' x y).Canon := canon_loadState ht.fab
  refine ite_keeps h ?_
  split
  · exact ht
  · exact canon_loadFrame (ht.withFab hstate)
  · exact canon_postReport (ht.withFab hstate.others)
  · exact ite_keeps (canon_loadFail ht) (ht.withFab hstate.others)
  · exact canon_loadFail ht

/-! ### The scheduler, swaps, lending, saves and restores (14 R396-R409, 15 R429-R437) -/

theorem canon_scrubCore {f : Fab} {core : Nat} (h : f.Canon) : (scrubCore f core).Canon :=
  foldl_keeps h fun _ _ h1 => canon_modElem h1 fun _ _ => ⟨MtSt.Canon.of_data memWf_nil, CtSt.Canon.of_ls memWf_nil, ⟨memWf_nil, listAll_nil⟩⟩

theorem canon_joinCores {f : Fab} {cores : List Nat} {part fn : Nat} (h : f.Canon) : (joinCores f cores part fn).Canon :=
  foldl_keeps h fun _ _ h1 => (ite_keeps (canon_scrubCore h1) h1).others

theorem canon_wonPart {p : Part} {i : Nat} {l : Launch} (h : p.Canon) : (wonPart p i l).Canon :=
  ⟨h.mbuf⟩

theorem canon_beginLaunch {s : State} {rid : Nat} {warm cold : Bool} (h : s.Canon) : (beginLaunch s rid warm cold).Canon := by
  unfold beginLaunch
  split
  · exact h
  split
  · exact canon_prepareStart h
  · exact h.withFab (canon_openLoad h.fab)

theorem canon_placeLaunch {s : State} {l : Launch} {spots : List (Nat × Nat)} {n : Nat} {warm : Bool} (h : s.Canon) :
    (placeLaunch s l spots n warm).Canon :=
  foldl_keeps (h.withFab (canon_joinCores h.fab).others) fun _ _ h1 => canon_beginLaunch h1

theorem canon_placeDrift {s : State} {l : Launch} {host n : Nat} {warm : Bool} (h : s.Canon) : (placeDrift s l host n warm).Canon := by
  unfold placeDrift
  split
  · exact h
  · exact canon_beginLaunch (h.withFab (canon_lendTo h.fab).others)

theorem canon_noteSince {p : Part} {now : Word} (h : p.Canon) : (noteSince p now).Canon :=
  foldl_keeps h fun _ _ h1 => ⟨h1.mbuf⟩

theorem canon_execSchedulerDecision {part : Nat} {s : State} (h : s.Canon) : OutCanon (execSchedulerDecision part s) := by
  unfold execSchedulerDecision
  extract_lets p s1
  have hs1 : s1.Canon := h.withHub (canon_modPart h.hub fun _ h1 => canon_noteSince h1)
  split
  · exact h
  split
  · exact hs1
  extract_lets s2
  have hs2 : s2.Canon := hs1.withHub (canon_modPart hs1.hub fun _ h1 => canon_wonPart h1)
  split
  · exact canon_placeLaunch hs2
  · exact canon_placeDrift hs2
  · exact canon_onFab hs1 (canon_stopPair hs1.fab)
  · exact hs1

theorem canon_execNotbeforeReached {part idx : Nat} {s : State} (h : s.Canon) : OutCanon (execNotbeforeReached part idx s) := by
  unfold execNotbeforeReached
  split
  · exact canon_onHub h (canon_modPart h.hub fun _ h1 => ⟨h1.mbuf⟩)
  · exact h

theorem canon_execBatchPromotion {part idx : Nat} {s : State} (h : s.Canon) : OutCanon (execBatchPromotion part idx s) := by
  unfold execBatchPromotion
  split
  · exact h
  split
  · exact canon_onHub h (canon_modPart h.hub fun _ h1 => ⟨h1.mbuf⟩)
  · exact h

theorem canon_execSwapCheck {rid : Nat} {s : State} (h : s.Canon) : OutCanon (execSwapCheck rid s) := by
  unfold execSwapCheck
  split
  · exact h
  split
  · exact h
  split
  · exact h
  · exact canon_onFab h (canon_modRegion h.fab)

theorem canon_swapRefuse {f : Fab} {rid : Nat} {r : Region} {w : Swap} (h : f.Canon) : (swapRefuse f rid r w).Canon :=
  foldl_keeps (canon_kwrAll (canon_regionEvent (canon_cmdReply (canon_modRegion h)))) fun _ _ h1 => canon_sendDrift (canon_modRegion h1)

theorem canon_endStreams {n : Nat} {e : Elem} (h : e.Canon) : (endStreams n e).Canon := by
  unfold endStreams
  exact canon_modRun h

theorem canon_execSwapTick {rid : Nat} {s : State} (h : s.Canon) : OutCanon (execSwapTick rid s) := by
  unfold execSwapTick
  split
  · exact h
  split
  · exact h
  split
  · exact h
  split
  · exact canon_onFab h (canon_swapRefuse h.fab)
  · exact canon_onFab h (foldl_keeps (canon_cmdReply (canon_modRegion (foldl_keeps (canon_kwrAll (foldl_keeps h.fab fun _ _ h1 => canon_bindPlane
      h1)) fun _ _ h1 => canon_modElem h1 fun _ h2 => canon_endStreams h2))) fun _ _ h1 => canon_sendDrift h1)

theorem canon_msgDone {f : Fab} {did key : Nat} (h : f.Canon) : (msgDone f did key).Canon := by
  unfold msgDone
  dsimp only
  split
  · exact canon_modRegion h
  split
  · exact canon_modRegion h
  · exact canon_modRegion (foldl_keeps (canon_modRegion h) fun _ _ h1 => canon_cmdReply h1)

theorem canon_execRevokeArrival {key plane : Nat} {s : State} (h : s.Canon) : OutCanon (execRevokeArrival key plane s) := by
  unfold execRevokeArrival
  split
  · exact h
  refine canon_onFab h (canon_msgDone (canon_modElem h.fab fun _ h1 => ?_))
  extract_lets e1 c
  have he1 : e1.Canon := canon_modPlane (canon_settlePend h1)
  have hc : c.Canon := he1.ct
  split
  · exact he1.withCt hc.others
  · exact he1

theorem canon_execRelendArrival {key plane : Nat} {s : State} (h : s.Canon) : OutCanon (execRelendArrival key plane s) := by
  unfold execRelendArrival
  split
  · exact h
  refine canon_onFab h (canon_msgDone (canon_modElem h.fab fun _ h1 => canon_modPlane (Elem.Canon.withCt ?_ (CtSt.Canon.others ?_))))
  · split
    · exact canon_modRun h1
    · exact h1
  · split
    · exact (canon_modRun h1).ct
    · exact h1.ct

theorem canon_execLendWithdraw {rid : Nat} {s : State} (h : s.Canon) : OutCanon (execLendWithdraw rid s) := by
  unfold execLendWithdraw
  split
  · exact h
  extract_lets ds n s1
  have hs1 : s1.Canon := foldl_keeps h fun _ _ h1 => canon_driftSave h1
  split
  · split
    · exact h
    · exact canon_onFab h (canon_modRegion h.fab)
  split
  · exact h
  · exact hs1.withFab (canon_modRegion hs1.fab)

theorem canon_execDistributorSend {key plane : Nat} {s : State} (h : s.Canon) : OutCanon (execDistributorSend key plane s) := by
  unfold execDistributorSend
  dsimp only
  split
  · exact h
  split
  · exact h
  refine canon_onFab h ?_
  split
  · exact canon_popPlane h.fab
  · exact canon_pushOut (canon_modElem (canon_busy (canon_popPlane h.fab)) fun _ h1 => canon_modRun (canon_openWindow h1).others)

theorem canon_stageReport {g : Region} {plane r n : Nat} {f : Fab} {x : StageE} (h : f.Canon) : (stageReport g plane r n f x).Canon := by
  unfold stageReport
  split
  · exact h
  split
  · exact h
  · exact canon_modElem h fun _ h1 => canon_modRun h1

theorem canon_execStageSample {key plane : Nat} {s : State} (h : s.Canon) : OutCanon (execStageSample key plane s) := by
  unfold execStageSample
  dsimp only
  split
  · exact h
  split
  · exact h
  refine canon_onFab h (foldl_keeps (canon_modElem h.fab fun _ h1 => canon_modPlane h1) fun _ _ h1 => ?_)
  split
  · exact h1
  · exact canon_stageReport h1

theorem canon_saveRegion {s : State} {rid reason : Nat} (h : s.Canon) : (saveRegion s rid reason).Canon := by
  unfold saveRegion
  extract_lets rs need t
  have ht : t.Canon := foldl_keeps h fun _ _ h1 => canon_driftsOut h1
  clear_value rs t
  split
  · split
    next ra rb _ _ =>
      extract_lets s1 part ib s2 s3 ia
      have h1 : s1.Canon := canon_saveLaunch ht
      have h2 : s2.Canon := h1.withHub (canon_modPart h1.hub fun _ hp => ⟨hp.mbuf⟩)
      have h3 : s3.Canon := canon_saveLaunch h2
      exact h3.withHub (canon_modPart h3.hub fun _ hp => ⟨hp.mbuf⟩)
    · exact ht
  · split
    · exact canon_saveLaunch ht
    · exact ht

theorem canon_saveAnswer {s : State} {part reason : Nat} (h : s.Canon) : (saveAnswer s part reason).Canon := by
  unfold saveAnswer
  split
  · exact h
  · exact h.withHub (canon_modPart h.hub fun _ h1 => ⟨h1.mbuf⟩)

theorem canon_execPreemption {rid : Nat} {s : State} (h : s.Canon) : OutCanon (execPreemption rid s) := by
  unfold execPreemption
  split
  · exact h
  extract_lets n room reason s1
  have hs1 : s1.Canon := by
    refine foldl_keeps h fun _ _ h1 => ?_
    split
    · exact canon_readsComplete h1
    · exact h1
  split
  · exact canon_onFab h (canon_stopPair h.fab)
  split
  · exact canon_saveAnswer (canon_saveRegion h)
  split
  · exact h
  split
  · exact hs1
  · exact canon_saveAnswer (canon_saveRegion hs1)

theorem canon_restoredLines {m : MtSt} (h : m.Canon) : (restoredLines m).Canon :=
  foldl_keeps h.others fun _ _ h1 => canon_putCheck h1.others

theorem canon_wakeElem {old key : Nat} {e : Elem} (h : e.Canon) : (wakeElem old key e).Canon := by
  unfold wakeElem
  extract_lets e1 x c a
  have he1 : e1.Canon := foldl_keeps h fun _ _ h1 => canon_modRun h1
  have hc : c.Canon := he1.ct
  have ha : a.Canon := he1.ag
  exact ⟨ite_keeps (canon_restoredLines he1.mt) he1.mt, hc.others, ha.withInbox (listAll_map ha.inbox fun _ h1 => AgCmd.Canon.of_block h1.block)⟩

theorem canon_moveImg {old new : Region} {e : Elem} (h : e.Canon) : (moveImg old new e).Canon :=
  h.others

theorem canon_swapMissed {f : Fab} {rid : Nat} {now : Word} (h : f.Canon) : (swapMissed f rid now).Canon := by
  unfold swapMissed
  split
  · exact h
  split
  · exact h
  split
  · exact canon_swapRefuse h
  · exact h

theorem canon_restoreAt {s : State} {x : Saved} {q : Nat × Nat} {rid : Nat} (h : s.Canon) : (restoreAt s x q rid).Canon := by
  unfold restoreAt
  extract_lets r0 r1 dst src s1 s2 r r' olds f1 f2
  have h2 : s2.Canon := canon_moveCores (h.withFab (canon_joinCores h.fab))
  have hf1 : f1.Canon :=
    foldl_keeps h2.fab fun _ _ h1 => foldl_keeps h1 fun _ _ h1 => canon_modElem h1 fun _ h1 => canon_moveImg (canon_wakeElem h1)
  exact canon_fillBucket (h2.withFab (canon_swapMissed (canon_selectSpine hf1.others)))

theorem canon_slotWrite {r : Region} {virt key : Nat} {g : SlotGroup} {idx : Nat} {f : Fab} {v : BitVec 256} (h : f.Canon) :
    OptAll Fab.Canon (slotWrite r virt key g idx f v) := by
  unfold slotWrite
  split
  · exact h
  split
  · exact canon_stateWrite h
  · exact canon_storeWrite h
  · split
    · split
      · exact canon_putRoute h
      · exact trivial
    split
    · exact canon_modElem h fun _ h1 => canon_linkWrite h1
    · exact trivial
  split
  · exact canon_putFrame h
  · exact trivial

theorem canon_slotGroups {m : MemSys} {p : Part} {slot : Nat} {x : Saved} {x1 x2 : Nat} {x3 : List SlotGroup} {f : Fab} (hf : f.Canon) :
    OptAll (fun q => q.1.Canon) (slotGroups m p slot x x1 x2 x3 f) := by
  induction x1 generalizing x2 x3 f with
  | zero => exact hf
  | succ n ih =>
    refine ite_keeps trivial ?_
    split
    · exact trivial
    next g hg => exact ih ((optAll_foldlM hf fun _ _ h1 => canon_slotWrite h1).get hg)

theorem canon_slotImage {m : MemSys} {p : Part} {x : Saved} {f : Fab} {slot : Nat} (hf : f.Canon) :
    OptAll Fab.Canon (slotImage m p x f slot) := by
  refine ite_keeps trivial ?_
  split
  · exact trivial
  next g k hg => exact ite_keeps (P := OptAll Fab.Canon) ((canon_slotGroups hf).get hg) trivial

theorem canon_slotsWritten {s : State} {part : Nat} {x : Saved} (h : s.Canon) : OptAll (fun q => q.1.Canon) (slotsWritten s part x) := by
  unfold slotsWritten
  split
  · exact trivial
  next f hf =>
    have hfab : f.Canon := (optAll_foldlM h.fab.others fun _ _ h1 => canon_slotImage h1).get hf
    exact ite_keeps (P := OptAll fun q : Fab × Saved => q.1.Canon) hfab.others trivial

theorem canon_slotsRead {s : State} {part : Nat} {x : Saved} (h : s.Canon) : (slotsRead s part x).1.Canon := by
  unfold slotsRead
  split
  next q hq => exact h.withFab ((canon_slotsWritten h).get hq)
  · exact h

theorem canon_savedGone {p : Part} {id : Nat} {x : Saved} (h : p.Canon) : (savedGone p id x).Canon :=
  ⟨h.mbuf⟩

theorem canon_saveDropped {s : State} {part id : Nat} {x : Saved} (h : s.Canon) : (saveDropped s part id x).Canon := by
  unfold saveDropped
  extract_lets t pre
  have ht : t.Canon := by
    unfold t
    split
    · exact canon_poisonPost (h.withMem (canon_hbmRead h.mem))
    · exact h
  refine ht.withHub (canon_modPart ht.hub fun p hp => ?_)
  have hgone : (savedGone p id x).Canon := canon_savedGone hp
  exact ⟨hgone.mbuf⟩

theorem canon_corruptBack {s : State} {part i : Nat} {l : Launch} {saves : List (Nat × Saved)} {x : Saved} {cause : Nat} (h : s.Canon) :
    (corruptBack s part i l saves x cause).Canon :=
  canon_postLine ((foldl_keeps h fun _ _ h1 => canon_saveDropped h1).withHub (canon_modPart (foldl_keeps h fun _ _ h1 => canon_saveDropped h1).hub
    fun _ h1 => ⟨h1.mbuf⟩))

theorem canon_restoreDrift {s : State} {x : Saved} {host : Nat} (h : s.Canon) : (restoreDrift s x host).Canon := by
  unfold restoreDrift
  split
  · exact h
  · exact canon_driftResume ((h.withHub (canon_renameInvals h.hub)).withHubFab (canon_renameInvals h.hub) (canon_modRegion (foldl_keeps (canon_lendTo
      h.fab) fun _ _ h1 => foldl_keeps h1 fun _ _ h2 => canon_modElem (h2.withElems (tabAll_tdel h2.elems)) fun _ h3 => canon_ctxMerge h3).others))

theorem canon_execRestoreSavedLaunch {part idx : Nat} {s : State} (h : s.Canon) : OutCanon (execRestoreSavedLaunch part idx s) := by
  unfold execRestoreSavedLaunch
  split
  · exact h
  next i l plan _ =>
  split
  · exact h
  next id x _ =>
  extract_lets y saves a b t x' y' won rid
  refine ite_keeps h ?_
  split
  · exact canon_corruptBack h
  have ha : a.1.Canon := canon_slotsRead h
  have hb : OptAll (fun q : Nat × State × Saved => q.2.1.Canon) b := by
    unfold b
    cases y with
    | none => exact trivial
    | some q => exact canon_slotsRead ha
  have ht : t.Canon := optAll_getD (optAll_map hb fun _ h1 => h1) ha
  have hwon : won.Canon := ht.withHub (canon_modPart ht.hub fun _ h1 => canon_savedGone (canon_wonPart h1))
  split
  · exact canon_restoreDrift hwon
  next q more =>
    extract_lets s1 s2
    have h1 : s1.Canon := canon_restoreAt (hwon.withFab hwon.fab.others)
    have h2 : s2.Canon := by
      unfold s2
      clear_value y'
      split
      next j z q2 _ _ =>
        extract_lets s3
        have h3 : s3.Canon := canon_restoreAt (h1.withHub (canon_modPart h1.hub fun _ hp => canon_savedGone hp))
        exact h3.withFab (canon_modRegion (canon_modRegion h3.fab))
      · exact h1
    exact ite_keeps h2 (canon_restartPair h2)
  · exact ht

/-! ### Host accesses, device time, leases, audit and patrol (21 R473-R475, 22 R478-R485, 23 R489-R491) -/

theorem canon_poisoned {s : State} {l : Line} (h : s.Canon) : (poisoned s l).Canon :=
  h.others

theorem canon_snoopAdd {m : MemSys} {pa : Nat} (h : m.Canon) : (snoopAdd m pa).Canon :=
  (canon_snoopClear h).others

theorem canon_hostRead {s : State} {part off : Nat} {cache : Bool} (h : s.Canon) : (hostRead s part off cache).Canon := by
  unfold hostRead
  split
  · exact canon_poisoned h
  dsimp only
  split
  · exact canon_poisoned h
  split
  · exact canon_poisoned h.others
  split
  · exact canon_poisonPost (canon_poisoned (h.withMem (canon_hbmFail h.mem)))
  · exact h.withMem (ite_keeps (canon_snoopAdd h.mem) h.mem)

theorem canon_hostWrite {s : State} {part off : Nat} {mask : BitVec 64} {v : Line} (h : s.Canon) : (hostWrite s part off mask v).Canon := by
  unfold hostWrite
  dsimp only
  split
  · exact h.others
  split
  · exact h.others
  · exact h.withMem (canon_hbmPut h.mem)

theorem canon_execPeerInboundAccess {part : Nat} {write : Bool} {off : Nat} {mask : BitVec 64} {v : BitVec 512} {s : State} (h : s.Canon) :
    OutCanon (execPeerInboundAccess part write off mask v s) := by
  unfold execPeerInboundAccess
  split
  · exact canon_hostWrite h
  · exact canon_hostRead h

theorem canon_execBackInvalidate {addr : Nat} {s : State} (h : s.Canon) : OutCanon (execBackInvalidate addr s) :=
  canon_onMem h (canon_snoopClear h.mem)

theorem canon_cfgRetry {s : State} (h : s.Canon) : (cfgRetry s).Canon :=
  h.others

theorem canon_execHdmDecoderCommit {pf : Nat} {s : State} (h : s.Canon) : OutCanon (execHdmDecoderCommit pf s) := by
  unfold execHdmDecoderCommit
  split
  · exact canon_cfgRetry h
  split
  · exact h
  · exact canon_onHub h (canon_modPart h.hub fun _ h1 => ⟨h1.mbuf⟩)

theorem canon_execVfEnableWrite {pf n : Nat} {en : Bool} {s : State} (h : s.Canon) : OutCanon (execVfEnableWrite pf n en s) := by
  unfold execVfEnableWrite
  split
  · exact canon_cfgRetry h
  split
  · exact h
  · exact canon_onHub h (canon_modPart h.hub fun _ h1 => ⟨h1.mbuf⟩)

theorem canon_chargeEnergy {s : State} (h : s.Canon) : (chargeEnergy s).Canon := by
  unfold chargeEnergy
  extract_lets n part u
  have hu : u.Canon := by
    refine foldl_keeps h.hub fun v p hv => ?_
    exact ite_keeps hv (canon_modPart hv fun _ h1 => ⟨h1.mbuf⟩)
  exact h.withHub ⟨hu.parts⟩

theorem canon_execDeviceTimePeriod {s : State} (h : s.Canon) : OutCanon (execDeviceTimePeriod s) :=
  (canon_chargeEnergy h.others).others

theorem canon_execDtsetWrite {v : BitVec 64} {s : State} (h : s.Canon) : OutCanon (execDtsetWrite v s) := by
  unfold execDtsetWrite
  split
  · exact canon_onClk h
  · exact h

theorem canon_execDtadjWrite {v : BitVec 64} {s : State} (h : s.Canon) : OutCanon (execDtadjWrite v s) :=
  canon_onClk h

theorem canon_execDtfreqWrite {v : BitVec 64} {s : State} (h : s.Canon) : OutCanon (execDtfreqWrite v s) := by
  unfold execDtfreqWrite
  dsimp only
  split
  · exact canon_onClk h
  · exact h

theorem canon_execPpscapRead {s : State} (h : s.Canon) : OutCanon (execPpscapRead s) :=
  h.others

theorem canon_execSpineStep {n : Nat} {s : State} (h : s.Canon) : OutCanon (execSpineStep n s) := by
  unfold execSpineStep
  split
  · exact h
  · exact canon_onClk h

theorem canon_execDroopStretch {core : Nat} {s : State} (h : s.Canon) : OutCanon (execDroopStretch core s) := by
  unfold execDroopStretch
  split
  · exact h
  · exact canon_onHub h (canon_modPart h.hub fun _ h1 => ⟨h1.mbuf⟩)

theorem canon_execBucketRefill {rid : Nat} {s : State} (h : s.Canon) : OutCanon (execBucketRefill rid s) := by
  unfold execBucketRefill
  split
  · exact h
  split
  · exact h
  · exact canon_onFab h (canon_modRegion h.fab)

theorem canon_execLeaseExpiry {rid : Nat} {s : State} (h : s.Canon) : OutCanon (execLeaseExpiry rid s) := by
  unfold execLeaseExpiry
  split
  · exact h
  split
  · exact canon_onFab h (canon_endLease h.fab)
  · exact h

theorem canon_execLeaseRevoke {s : State} (h : s.Canon) : OutCanon (execLeaseRevoke s) := by
  unfold execLeaseRevoke
  dsimp only
  split
  · exact h
  split
  · exact h
  · exact canon_postReport (h.withHubFab (canon_modPart h.hub fun _ h1 => ⟨h1.mbuf⟩) (canon_modCc (canon_modRegion h.fab) fun _ h1 => canon_setEv h1))

theorem canon_auditStart {s : State} {core row : Nat} (h : s.Canon) : (auditStart s core row).Canon :=
  h.withFab (canon_modAudit h.fab)

theorem canon_auditStep {s : State} {core row : Nat} (h : s.Canon) : (auditStep s core row).Canon := by
  unfold auditStep
  dsimp only
  split
  · exact h
  split
  · split
    · exact h
    refine h.withHubFab ?_ (canon_modAudit (foldl_keeps h.fab fun _ _ h1 => canon_auditFix h1))
    split
    · exact canon_rasAdd h.hub
    · exact h.hub
  split
  · exact h
  split
  · exact canon_auditStart h
  split
  · exact h
  refine h.withHubFab ?_ (canon_modAudit h.fab)
  split
  · exact canon_rasAdd h.hub
  · exact h.hub

theorem canon_patrolOnce {s : State} {part kind addr : Nat} {go : State → State} (hs : s.Canon) (hgo : ∀ s1, s1.Canon → (go s1).Canon) :
    (patrolOnce s part kind addr go).Canon := by
  unfold patrolOnce
  exact ite_keeps hs (hgo _ (hs.withHub (canon_modPart hs.hub fun _ h => ⟨h.mbuf⟩)))

theorem canon_lineError {m : MemSys} {pa found : Nat} (h : m.Canon) : (lineError m pa found).Canon := by
  unfold lineError
  split
  · exact h.others
  split
  · exact h.others
  · exact h

theorem canon_patrolHbm {s : State} {pa found : Nat} (h : s.Canon) : (patrolHbm s pa found).Canon := by
  unfold patrolHbm
  extract_lets part
  split
  · exact h
  refine canon_patrolOnce h fun _ h1 => ?_
  extract_lets s2 m
  have hs2 : s2.Canon := ite_keeps (h1.withHub (canon_rasAdd h1.hub)) h1
  have hm : m.Canon := canon_lineError hs2.mem
  split
  · exact hs2.withMem hm
  · exact canon_poisonPost (hs2.withMem (canon_hbmFail hm))

theorem canon_patrolBank {s : State} {key word found : Nat} (h : s.Canon) : (patrolBank s key word found).Canon := by
  unfold patrolBank
  split
  · exact h
  split
  · exact h
  refine canon_patrolOnce h fun _ h1 => ?_
  split
  · exact h1.withHub (canon_rasAdd h1.hub)
  split
  · exact h1.withHubFab (canon_rasAdd h1.hub) (canon_modElem h1.fab fun _ h2 => h2.withMt h2.mt.others)
  · exact h1

theorem canon_patrolPlane {s : State} {key n found : Nat} (h : s.Canon) : (patrolPlane s key n found).Canon := by
  unfold patrolPlane
  dsimp only
  split
  · exact h
  split
  · exact h
  refine canon_patrolOnce h fun _ h1 => ?_
  split
  · exact h1
  · exact h1.withFab (canon_modElem h1.fab fun _ h2 => canon_modPlane h2.others).others

theorem canon_execPatrolRead {kind addr found : Nat} {s : State} (h : s.Canon) : OutCanon (execPatrolRead kind addr found s) := by
  unfold execPatrolRead
  split
  · exact canon_patrolHbm h
  · exact canon_patrolBank h
  · exact canon_patrolPlane h
  · exact h

/-! ### Resets, boot and bring-up (01 R39-R43, 23 R492-R505) -/

theorem canon_walkersForget {m : MemSys} {part : Nat} (h : m.Canon) : (walkersForget m part).Canon :=
  h.others

theorem canon_wipeCore {f : Fab} {c : Nat} (h : f.Canon) : (wipeCore f c).Canon :=
  ⟨listAll_filter h.elems, tabAll_tdel h.ccs⟩

theorem canon_wipeGroup {m : MemSys} {part g : Nat} (h : m.Canon) : (wipeGroup m part g).Canon :=
  h.withHbm (memWf_mclear h.hbm _ _)

theorem canon_cfgTake {u : Hub} {n : Nat} {v : Word} (h : u.Canon) : (cfgTake u n v).Canon :=
  canon_modPart ⟨h.parts⟩ fun _ h1 => ⟨h1.mbuf⟩

theorem canon_cfgWritePart {s : State} {n : Nat} {v : Word} (h : s.Canon) : (cfgWritePart s n v).Canon := by
  unfold cfgWritePart
  dsimp only
  split
  · exact h.withHubMem (canon_modPart (canon_cfgTake h.hub) fun _ h1 => ⟨h1.mbuf⟩) (canon_walkersForget h.mem)
  · exact h.withHubMem (canon_cfgTake h.hub) (canon_walkersForget h.mem)

theorem canon_execScrubComplete {part : Nat} {s : State} (h : s.Canon) : OutCanon (execScrubComplete part s) := by
  unfold execScrubComplete
  split
  · exact h
  split
  · exact h
  · exact ⟨canon_cfgTake h.hub, foldl_keeps h.mem (fun _ _ h1 => canon_wipeGroup h1), foldl_keeps h.fab fun _ _ h1 => canon_wipeCore h1⟩

theorem canon_partFresh {p : Part} {cause : Nat} {abort : Bool} (h : p.Canon) : (partFresh p cause abort).Canon :=
  ⟨h.mbuf⟩

theorem canon_partReset {s : State} {part cause : Nat} {abort : Bool} (h : s.Canon) : (partReset s part cause abort).Canon := by
  unfold partReset
  extract_lets p cores held s1 f f1 m m1
  have hs1 : s1.Canon := foldl_keeps h fun _ _ h1 => foldl_keeps h1 fun _ _ h2 => canon_kwrDrop h2
  have hf : f.Canon := foldl_keeps hs1.fab fun _ _ h1 => canon_wipeCore h1
  have hf1 : f1.Canon := hf.others
  have hm : m.Canon := canon_walkersForget hs1.mem
  have hm1 : m1.Canon := hm.others
  split
  · exact h
  · exact ⟨canon_modPart hs1.hub (fun _ h1 => canon_partFresh h1), hm1, hf1⟩

theorem canon_execPrstReq {part : Nat} {s : State} (h : s.Canon) : OutCanon (execPrstReq part s) :=
  canon_partReset h

theorem canon_execPrstRel {part : Nat} {s : State} (h : s.Canon) : OutCanon (execPrstRel part s) := by
  unfold execPrstRel
  dsimp only
  split
  · exact h
  · exact canon_onHub h (canon_modPart h.hub fun _ h1 => ⟨h1.mbuf⟩)

theorem canon_execPartitionBootDone {part : Nat} {s : State} (h : s.Canon) : OutCanon (execPartitionBootDone part s) := by
  unfold execPartitionBootDone
  dsimp only
  split
  · exact h
  · refine canon_onHub h (canon_modPart h.hub (fun _ h1 => ?_))
    split <;> exact ⟨h1.mbuf⟩

theorem canon_coldState {s : State} {on : Bool} (h : s.Canon) : (coldState s on).Canon :=
  ⟨⟨tabAll_nil⟩, h.mem.withHbm memWf_nil, ⟨tabAll_nil, tabAll_nil⟩⟩

theorem canon_modMregs {s : State} {i : Nat} {v : Line} (h : s.Canon) : (modMregs s i v).Canon :=
  h.withHub ⟨List.forall_mem_map.mpr fun _ _ => ⟨(canon_partOf h.hub).mbuf⟩⟩

theorem canon_bringUp {s : State} (h : s.Canon) : (bringUp s).Canon := by
  unfold bringUp
  split
  · exact canon_modMregs h.others
  split
  · split
    · exact h.others
    · exact canon_modMregs h.others
  split
  · exact h.others
  · exact h

theorem canon_execPowerUp {s : State} (h : s.Canon) : OutCanon (execPowerUp s) := by
  unfold execPowerUp
  split
  · exact canon_bringUp h
  · exact canon_coldState h

theorem canon_deviceReset {s : State} (h : s.Canon) : (deviceReset s).Canon :=
  (canon_coldState h).withHub ⟨List.forall_mem_map.mpr fun _ _ => ⟨memWf_nil⟩⟩

theorem canon_execPowerClockFault {s : State} (h : s.Canon) : OutCanon (execPowerClockFault s) := by
  unfold execPowerClockFault
  split
  · exact h
  · exact (foldl_keeps h fun _ _ h1 => canon_partReset h1).withFab ⟨tabAll_nil, tabAll_nil⟩

/-! ### Mailbox commands (23 R496-R502) -/

theorem canon_mbDone {s : State} {pf result : Nat} {reply : List Byte} (h : s.Canon) : (mbDone s pf result reply).Canon :=
  h.withHub (canon_modPart h.hub fun _ h1 => ⟨memWf_mputN h1.mbuf _ _ _⟩)

theorem canon_mbRun {s : State} {pf : Nat} {c : MbCmd} {body : Part → State} (hs : s.Canon) (hbody : ∀ p, p.Canon → (body p).Canon) :
    OutCanon (mbRun s pf c body) := by
  unfold mbRun
  dsimp only
  split
  · exact hs
  split
  · exact hbody _ (canon_partOf hs.hub)
  · exact canon_mbDone hs

theorem canon_execGetinfo {pf : Nat} {s : State} (h : s.Canon) : OutCanon (execGetinfo pf s) :=
  canon_mbRun h fun _ _ => canon_mbDone h

theorem canon_execGetfail {pf : Nat} {s : State} (h : s.Canon) : OutCanon (execGetfail pf s) :=
  canon_mbRun h fun _ _ => canon_mbDone h

theorem canon_forceParts {s : State} {n : Nat} {v : Word} (h : s.Canon) : (forceParts s n v).Canon :=
  foldl_keeps (foldl_keeps h fun _ _ h1 => canon_partReset h1) fun _ _ h1 => h1.withHubMem (canon_modPart h1.hub fun _ h2 => ⟨h2.mbuf⟩)
    (canon_walkersForget h1.mem)

theorem canon_execPartset {pf : Nat} {s : State} (h : s.Canon) : OutCanon (execPartset pf s) := by
  unfold execPartset
  refine canon_mbRun h fun _ _ => ?_
  dsimp only
  split
  · exact canon_mbDone h
  split
  · exact canon_mbDone (h.withHub ⟨h.hub.parts⟩)
  refine canon_mbDone (canon_cfgWritePart ?_)
  split
  · exact canon_forceParts (h.withHub ⟨h.hub.parts⟩)
  · exact h.withHub ⟨h.hub.parts⟩

theorem canon_execSpineset {pf : Nat} {s : State} (h : s.Canon) : OutCanon (execSpineset pf s) := by
  unfold execSpineset
  refine canon_mbRun h fun _ _ => ?_
  dsimp only
  split
  · exact canon_mbDone h
  refine canon_mbDone ?_
  split
  · exact h.others
  · exact h

theorem canon_execFwstage {pf : Nat} {s : State} (h : s.Canon) : OutCanon (execFwstage pf s) := by
  unfold execFwstage
  refine canon_mbRun h fun _ _ => ?_
  dsimp only
  split
  · exact canon_mbDone h
  split
  · exact canon_mbDone h
  split
  · exact canon_mbDone h
  · exact canon_mbDone h.others

theorem canon_execSvnlock {pf : Nat} {s : State} (h : s.Canon) : OutCanon (execSvnlock pf s) := by
  unfold execSvnlock
  refine canon_mbRun h fun _ _ => ?_
  dsimp only
  split
  · exact canon_mbDone h
  split
  · exact canon_mbDone h
  · exact canon_mbDone h.others

theorem canon_execOwnerkey {pf : Nat} {s : State} (h : s.Canon) : OutCanon (execOwnerkey pf s) := by
  unfold execOwnerkey
  refine canon_mbRun h fun _ _ => ?_
  dsimp only
  split
  · exact canon_mbDone h
  split
  · exact canon_mbDone h
  · exact canon_mbDone h.others

theorem canon_execAttest {pf : Nat} {s : State} (h : s.Canon) : OutCanon (execAttest pf s) :=
  canon_mbRun h fun _ _ => canon_mbDone h

theorem canon_execDevreset {pf : Nat} {s : State} (h : s.Canon) : OutCanon (execDevreset pf s) :=
  canon_mbRun h fun _ _ => canon_deviceReset h

theorem canon_execMailboxUnknownOp {pf : Nat} {s : State} (h : s.Canon) : OutCanon (execMailboxUnknownOp pf s) := by
  unfold execMailboxUnknownOp
  dsimp only
  split
  · exact h
  · exact canon_mbDone h

/-! ### The MMIO registers (01 R21-R28, 14 R383-R387) -/

theorem canon_refuse {s : State} {req : Requester} {cause : Nat} (h : s.Canon) : (refuse s req cause).Canon := by
  unfold refuse
  split <;> exact h.others

theorem canon_execLqdbWrite {part fn q : Nat} {tail : BitVec 32} {s : State} (h : s.Canon) : OutCanon (execLqdbWrite part fn q tail s) := by
  unfold execLqdbWrite
  dsimp only
  split
  · exact h
  · exact canon_onHub h (canon_modPart h.hub fun _ h1 => ⟨h1.mbuf⟩)

theorem canon_execLqerrClear {part fn q : Nat} {s : State} (h : s.Canon) : OutCanon (execLqerrClear part fn q s) := by
  unfold execLqerrClear
  dsimp only
  split
  · exact h
  · exact canon_onHub h (canon_modPart h.hub fun _ h1 => ⟨h1.mbuf⟩)

theorem canon_execEvdbWrite {part fn e : Nat} {v : BitVec 64} {s : State} (h : s.Canon) : OutCanon (execEvdbWrite part fn e v s) := by
  unfold execEvdbWrite
  split
  · exact h
  · exact canon_onHub h (canon_modPart h.hub fun _ h1 => canon_addEvent h1)

theorem canon_xinvCmd {part : Nat} {v : Word} {s : State} (h : s.Canon) : OutCanon (xinvCmd part v s) := by
  unfold xinvCmd
  dsimp only
  split
  · exact h
  · split <;> exact canon_onHub h (canon_modPart h.hub (fun _ h1 => ⟨h1.mbuf⟩))

theorem canon_rstat {s : State} {part page code : Nat} (h : s.Canon) : (rstat s part page code).Canon :=
  h.withHub (canon_modPart h.hub fun _ h1 => ⟨h1.mbuf⟩)

theorem canon_rcmd {part page : Nat} {v : Word} {s : State} {body : Nat → Region → State} (hs : s.Canon) (hbody : ∀ x x1, (body x x1).Canon) :
    OutCanon (rcmd part page v s body) := by
  unfold rcmd
  split
  · exact hs
  split
  · exact canon_rstat hs
  split
  · exact canon_rstat hs
  · exact hbody _ _

theorem canon_execRcmdResume {part page : Nat} {v : BitVec 64} {s : State} (h : s.Canon) : OutCanon (execRcmdResume part page v s) := by
  unfold execRcmdResume
  refine canon_rcmd h fun _ _ => ?_
  split
  · split
    · exact canon_rstat h
    refine canon_rstat (h.withFab ?_)
    split
    · exact canon_modRegion h.fab
    · exact canon_sendDrift (canon_modRegion h.fab)
  split
  · exact canon_rstat h
  · exact canon_rstat (canon_restartPair (h.withFab (canon_setPhase h.fab)))

theorem canon_abortDrop {s : State} {r : Region} (h : s.Canon) : (abortDrop s r).Canon :=
  (canon_dropOwed h).withFab (foldl_keeps (foldl_keeps (canon_dropOwed h).fab fun _ _ h1 => canon_modCc h1 fun _ h2 => h2.others) fun _ _ h1 =>
    canon_planesEmpty h1)

theorem canon_abortRegion {s : State} {rid : Nat} (h : s.Canon) : (abortRegion s rid).Canon := by
  unfold abortRegion
  extract_lets s1
  have hs1 : s1.Canon := canon_driftsOut h
  split
  · exact hs1
  extract_lets live own second s2 f f1
  have hs2 : s2.Canon := ite_keeps hs1 (foldl_keeps hs1 fun _ _ h1 => canon_retireEvent h1)
  have hf : f.Canon := foldl_keeps hs2.fab fun _ _ h1 => canon_discardCtx h1
  have hf1 : f1.Canon := foldl_keeps hf fun _ _ h1 => ite_keeps (canon_unbindPlane (canon_flushCtx h1)) h1
  exact canon_freeRegion (canon_abortDrop (hs2.withFab hf1))

theorem canon_abortDrift {s : State} {did : Nat} {d : Region} (h : s.Canon) : (abortDrift s did d).Canon := by
  unfold abortDrift
  split
  · exact h
  refine (canon_retireEvent h).withMemFab (canon_dropWalks (canon_retireEvent h).mem) (canon_driftLeaves (foldl_keeps (canon_unbindPlane
    (canon_flushCtx ?_)) fun _ _ h1 => canon_planesEmpty h1).others)
  split
  · exact canon_discardCtx (canon_retireEvent h).fab
  · exact (canon_retireEvent h).fab

theorem canon_execRcmdAbort {part page : Nat} {v : BitVec 64} {s : State} (h : s.Canon) : OutCanon (execRcmdAbort part page v s) := by
  unfold execRcmdAbort
  refine canon_rcmd h fun _ _ => canon_rstat ?_
  split
  · exact canon_abortDrift h
  · exact foldl_keeps h fun _ _ h1 => canon_abortRegion h1

theorem canon_purgeCore {n : Nat} {c : CC} (h : c.Canon) : (purgeCore n c).Canon :=
  h.others

theorem canon_execRcmdPurge {part page : Nat} {v : BitVec 64} {s : State} (h : s.Canon) : OutCanon (execRcmdPurge part page v s) := by
  unfold execRcmdPurge
  refine canon_rcmd h fun _ _ => ?_
  dsimp only
  split
  · exact canon_rstat h
  · exact canon_rstat (foldl_keeps (h.withFab (foldl_keeps h.fab fun _ _ h1 => canon_modCc h1 fun _ h2 => canon_purgeCore h2)) fun _ _ h1 =>
      canon_retireCtx h1)

theorem canon_execRcmdSave {part page : Nat} {v : BitVec 64} {s : State} (h : s.Canon) : OutCanon (execRcmdSave part page v s) := by
  unfold execRcmdSave
  split
  · exact canon_rstat h
  refine canon_rcmd h fun _ _ => ?_
  extract_lets n f
  have hf : f.Canon := canon_modRegion h.fab
  split
  · exact canon_rstat h
  split
  · exact canon_rstat (canon_driftSaveAs h)
  · exact h.withHubFab (canon_modPart h.hub fun _ h1 => ⟨h1.mbuf⟩) hf

theorem canon_execRcmdRefusedOp {part page : Nat} {_v : BitVec 64} {s : State} (h : s.Canon) : OutCanon (execRcmdRefusedOp part page _v s) := by
  unfold execRcmdRefusedOp
  split
  · exact h
  · exact canon_rstat h

theorem canon_rcmdWrite {part page : Nat} {v : Word} {s : State} (h : s.Canon) : OutCanon (rcmdWrite part page v s) := by
  unfold rcmdWrite
  split
  · exact canon_execRcmdResume h
  · exact canon_execRcmdAbort h
  · exact canon_execRcmdPurge h
  · exact canon_execRcmdSave h
  · exact canon_execRcmdRefusedOp h

theorem canon_plCode {s : State} {part code : Nat} (h : s.Canon) : (plCode s part code).Canon :=
  h.withHub (canon_modPart h.hub fun _ h1 => ⟨h1.mbuf⟩)

theorem canon_execPlcmdWrite {part : Nat} {v : BitVec 64} {s : State} (h : s.Canon) : OutCanon (execPlcmdWrite part v s) := by
  unfold execPlcmdWrite
  dsimp only
  split
  · exact h
  split
  · exact canon_plCode h
  split
  · exact canon_plCode h
  split
  · exact canon_plCode h
  · exact h.withHubFab (canon_modPart h.hub fun _ h1 => ⟨h1.mbuf⟩) (canon_openLoad h.fab)

theorem canon_execConfigSpaceWrite {req : Requester} {core addr : Nat} {v : BitVec 256} {s : State} (h : s.Canon) :
    OutCanon (execConfigSpaceWrite req core addr v s) := by
  unfold execConfigSpaceWrite
  split
  · refine ite_keeps (canon_refuse h) ?_
    split
    next f hf => exact h.withFab ((canon_cfgWrite h.fab).get hf)
    · exact canon_refuse h
  · exact h.others
  · exact h
  · exact canon_refuse h

theorem canon_resumeCore {f : Fab} {core : Nat} (h : f.Canon) : (resumeCore f core).Canon := by
  unfold resumeCore
  refine canon_modCc h fun _ h1 => ?_
  split
  · exact (canon_trapReturn h1).others
  · exact h1

theorem canon_execCoreWindowCsrWrite {req : Requester} {core csr : Nat} {v : BitVec 64} {s : State} (h : s.Canon) :
    OutCanon (execCoreWindowCsrWrite req core csr v s) := by
  unfold execCoreWindowCsrWrite
  split
  · dsimp only
    split
    · exact canon_refuse h
    refine h.withFab ?_
    split
    · split
      · exact canon_resumeCore h.fab
      · exact h.fab
    · exact canon_modCc h.fab fun _ h1 => canon_csrPut h1
  · exact h.others
  · exact h
  · exact canon_refuse h

theorem canon_rasWrite {p : Part} {v : Nat} (h : p.Canon) : (rasWrite p v).Canon :=
  ⟨h.mbuf⟩

theorem canon_pageFields {p : Part} {f o : Nat} {vf : Bool} {v : Word} (h : p.Canon) : (pageFields p f o vf v).Canon := by
  unfold pageFields
  refine ite_keeps (ite_keeps h ⟨h.mbuf⟩) ?_
  refine ite_keeps ⟨h.mbuf⟩ (ite_keeps ⟨h.mbuf⟩ (ite_keeps ⟨h.mbuf⟩ (ite_keeps h (ite_keeps ⟨h.mbuf⟩ ?_))))
  exact ite_keeps ⟨h.mbuf⟩ (ite_keeps ⟨h.mbuf⟩ (ite_keeps (canon_rasWrite h) (ite_keeps ⟨h.mbuf⟩ (ite_keeps ⟨h.mbuf⟩ (ite_keeps ⟨h.mbuf⟩ h)))))

theorem canon_pageWrite {s : State} {part f o : Nat} {vf : Bool} {w x : Word} {lo hi : Bool} (h : s.Canon) :
    OutCanon (pageWrite s part f o vf w x lo hi) := by
  unfold pageWrite
  split
  · exact h
  split
  · split
    · exact canon_execLqdbWrite h
    · exact h
  split
  · split
    · exact canon_execLqerrClear h
    · exact h
  split
  · exact canon_execEvdbWrite h
  split
  · exact canon_rcmdWrite h
  split
  · exact canon_xinvCmd h
  split
  · exact canon_onHub h (canon_modPart h.hub fun _ h1 => ⟨h1.mbuf⟩)
  split
  · exact canon_execPlcmdWrite h
  · exact canon_onHub h (canon_modPart h.hub fun _ h1 => canon_pageFields h1)

theorem canon_mbctlWrite {p : Part} {w x : Word} (h : p.Canon) : (mbctlWrite p w x).Canon := by
  unfold mbctlWrite
  split
  · exact h
  · dsimp only
    split
    · exact ⟨h.mbuf⟩
    · split <;> exact ⟨h.mbuf⟩

theorem canon_bootWrite {s : State} {part o : Nat} {w x : Word} (h : s.Canon) : OutCanon (bootWrite s part o w x) := by
  unfold bootWrite
  split
  · split
    · exact canon_execPrstReq h
    split
    · exact canon_execPrstRel h
    · exact h
  split
  · exact canon_onHub h (canon_modPart h.hub fun _ h1 => canon_mbctlWrite h1)
  split
  · refine canon_onHub h (canon_modPart h.hub fun _ h1 => ?_)
    split
    · exact h1
    · exact ⟨memWf_mputN h1.mbuf _ _ _⟩
  · exact h

theorem canon_hubBlockWrite {s : State} {req : Requester} {o : Nat} {w : Word} (h : s.Canon) : OutCanon (hubBlockWrite s req o w) := by
  unfold hubBlockWrite
  split
  · exact h
  split
  · exact canon_execDtfreqWrite h
  split
  · exact canon_execDtadjWrite h
  split
  · exact canon_execDtsetWrite h
  · exact h

theorem canon_windowWrite {s : State} {req : Requester} {n o off size : Nat} {v : Word} (h : s.Canon) :
    OutCanon (windowWrite s req n o off size v) := by
  unfold windowWrite
  split
  · exact canon_execConfigSpaceWrite h
  split
  · exact canon_execCoreWindowCsrWrite h
  · exact h

theorem canon_execRegisterWrite {req : Requester} {off size : Nat} {v : BitVec 64} {s : State} (h : s.Canon) :
    OutCanon (execRegisterWrite req off size v s) := by
  unfold execRegisterWrite
  dsimp only
  split
  · exact h
  · exact h.others
  · exact canon_refuse h.others
  · exact canon_refuse h.others
  · exact canon_refuse h.others
  split
  · exact canon_hubBlockWrite h.others
  · split
    · exact canon_pageWrite h.others
    split
    · exact canon_bootWrite h.others
    · exact h.others
  · exact canon_windowWrite h.others
  · exact h.others

/-! ### The SPDM responder (23 R503) -/

theorem canon_spdmReply {s : State} {pf : Nat} {st : Nat → Nat} {reply : List Byte} (h : s.Canon) : OutCanon (spdmReply s pf st reply) := by
  unfold spdmReply
  split
  · exact canon_cfgRetry h
  split
  · exact h
  · exact canon_onHub h (canon_modPart h.hub fun _ h1 => ⟨h1.mbuf⟩)

theorem canon_execNegotiateAlgorithms {pf algs : Nat} {s : State} (h : s.Canon) : OutCanon (execNegotiateAlgorithms pf algs s) := by
  unfold execNegotiateAlgorithms
  split <;> exact canon_spdmReply h

theorem canon_execGetMeasurements {pf index : Nat} {nonce : BitVec 256} {s : State} (h : s.Canon) : OutCanon (execGetMeasurements pf index nonce s) := by
  unfold execGetMeasurements
  split <;> exact canon_spdmReply h

/-! ### The next tile cycle (log 2) -/

theorem canon_idleTick {f : Fab} {key : Nat} (h : f.Canon) : (idleTick f key).Canon := by
  unfold idleTick
  split
  · exact h
  split
  · exact h
  · exact canon_modRegion h

theorem canon_auditTick {s : State} {key : Nat} (h : s.Canon) : (auditTick s key).Canon := by
  unfold auditTick
  dsimp only
  split
  · exact h
  split
  · exact canon_auditStep (h.withFab (canon_modAudit h.fab))
  · exact h.withFab (canon_modAudit h.fab)

theorem canon_tileCycle {s : State} {key : Nat} (h : s.Canon) : (tileCycle s key).Canon := by
  unfold tileCycle
  extract_lets s1 f
  have hs1 : s1.Canon := canon_auditTick h
  have hf : f.Canon := canon_tileTick (canon_chainTick (canon_memTick hs1.fab))
  split
  · exact hs1
  split
  · exact hs1.withFab (canon_tileTick (canon_chainTick (canon_computeTick hs1.fab)))
  · exact hs1.withFab hf
  · exact hs1.withFab (canon_agTick hs1.fab)
  · exact hs1.withFab (canon_idleTick hs1.fab)
  · exact hs1

/-! ### Vector operations (11 R318-R329) -/

theorem canon_vecFire {s : State} {op : Nat} {w : Slot} {fa fb : Nat} {lf : Slot → Line → Line → Line → Line × Bool} (h : s.Canon) :
    OutCanon (vecFire s op w fa fb lf) := by
  unfold vecFire
  refine canon_fire h fun _ _ h1 => ?_
  split
  · exact canon_slotRaise h1
  · exact canon_putResult (canon_popAll h1)

theorem canon_vec {s : State} {op : Nat} {w : Slot} {lf : Slot → Line → Line → Line → Line × Bool} (h : s.Canon) : OutCanon (vec s op w lf) :=
  canon_vecFire h

theorem canon_vhdr {s : State} {op : Nat} {w : Slot} (h : s.Canon) : OutCanon (vhdr s op w) := by
  unfold vhdr
  refine canon_fire h fun _ _ h1 => ?_
  split
  · exact h1
  refine canon_putPwe (canon_pushOut ?_)
  split
  · exact canon_modElem (canon_pushOut (canon_popAll h1)) fun _ h2 => canon_modRun h2
  · exact canon_popAll h1

/-! ### Every instruction and event -/

/-- Every instruction and event keeps the memories canonical; instructions that one function of the model performs stand together. -/
theorem canon_exec {i : Instr} {s : State} (h : s.Canon) : OutCanon (exec i s) := by
  cases i <;> dsimp only [exec]
  case add | sub | and | or | xor | sll | srl | sra | slt | sltu | min | max | minu | maxu | addw | subw | sllw | srlw | sraw | mul | mulh
      | mulhu | mulhsu | div | divu | rem | remu =>
    exact canon_ccAlu h
  case clz | ctz | popc | bswap | addi | andi | ori | xori | slti | sltiu | slli | srli | srai | slliw | srliw | sraiw =>
    exact canon_ccAlu1 h
  case feClr => exact canon_execFeClr h
  case feTst => exact canon_execFeTst h
  case feWait => exact canon_execFeWait h
  case feTake => exact canon_execFeTake h
  case feAny => exact canon_execFeAny h
  case trap => exact canon_execTrap h
  case tret => exact canon_execTret h
  case wfe => exact canon_execWfe h
  case brk => exact canon_execBrk h
  case lui | pcadd => exact canon_ccAlu0 h
  case lb | lh | lw | ld | lbu | lhu | lwu => exact canon_ccLoad h
  case sb | sh | sw | sd => exact canon_ccStore h
  case beq | bne | blt | bge | bltu | bgeu => exact canon_ccBranch h
  case j => exact canon_execJ h
  case jal => exact canon_execJal h
  case jalr => exact canon_execJalr h
  case csrrw | csrrs | csrrc => exact canon_ccCsr h
  case illegalInstruction => exact canon_execIllegalInstruction h
  case bucketRefill => exact canon_execBucketRefill h
  case leaseExpiry => exact canon_execLeaseExpiry h
  case swapCheck => exact canon_execSwapCheck h
  case swapTick => exact canon_execSwapTick h
  case notbeforeReached => exact canon_execNotbeforeReached h
  case quotaWindowClear => exact canon_execQuotaWindowClear h
  case inject => exact canon_execInject h
  case vend => exact canon_execVend h
  case rdout => exact canon_execRdout h
  case accrst => exact canon_execAccrst h
  case rdacc => exact canon_execRdacc h
  case vbind => exact canon_execVbind h
  case rmark => exact canon_execRmark h
  case wcommit => exact canon_execWcommit h
  case fencePl | fenceRg | fencePt | fenceSy => exact canon_ccFence h
  case drainDm | drainSp | drainHm | drainCf => exact canon_ccDrain h
  case kwr => exact canon_execKwr h
  case copy => exact canon_execCopy h
  case sbind => exact canon_execSbind h
  case aflush => exact canon_execAflush h
  case amoAddCmd | amoMinCmd | amoMaxCmd | amoAndCmd | amoOrCmd | amoXorCmd | amoXchgCmd | amoCasCmd => exact canon_ccAmo h
  case swap => exact canon_execSwap h
  case revoke | relend => exact canon_ccDrift h
  case lease => exact canon_execLease h
  case leaseEnd => exact canon_execLeaseEnd h
  case launch => exact canon_execLaunch h
  case xinvVa | xinvFn | xinvPart => exact canon_ccXinv h
  case eventTrap => exact canon_execEventTrap h
  case timerEvent => exact canon_execTimerEvent h
  case registerFill => exact canon_execRegisterFill h
  case sinkArrival => exact canon_execSinkArrival h
  case vinPortEmit => exact canon_execVinPortEmit h
  case vaddF | vsubF | vmulF | vfma | vfms | vfnma | vminF | vmaxF | vabsF | vnegF | vrnd | vaddI | vsubI | vmulI | vmac | vminI | vmaxI |
      vabsI | vnegI | vshl | vshr | vsra | vand | vor | vxor | vandn | vcadd | vcsub | vcmul | vcmac | vcmulc | vcmacc | vconj | vcshr | vcrot
      | vcmpeq | vcmpne | vcmplt | vcmple | vcmpgt | vcmpge | vsel | vclamp | vsclL | vsclI | vrcp | vrsqrt | vexp2 | vlog2 | vrsum | vrmax |
      vrmin | vrdot | vrep | vperm | vperm2 | vrot | vzipl | vziph | vuzpe | vuzpo | vins | vext | vbitrev | vbfly | vbflyt =>
    exact canon_vec h
  case vcvt => exact canon_vecFire h
  case vhdrF | vhdrS => exact canon_vhdr h
  case mload => exact canon_execMload h
  case mzero => exact canon_execMzero h
  case mband => exact canon_execMband h
  case mdrain => exact canon_execMdrain h
  case mstat => exact canon_execMstat h
  case mmaBf16 | mmaFp16 | mmaFp8 | mmaFp4 | mmaI8 => exact canon_mma h
  case pass => exact canon_execPass h
  case drop => exact canon_execDrop h
  case delay => exact canon_execDelay h
  case steer => exact canon_execSteer h
  case filt => exact canon_execFilt h
  case repl => exact canon_execRepl h
  case mergeO => exact canon_execMergeO h
  case mergeC => exact canon_execMergeC h
  case mergeU => exact canon_execMergeU h
  case joinLt | joinEq | joinGt => exact canon_join h
  case cnt => exact canon_execCnt h
  case lastm => exact canon_execLastm h
  case tagset => exact canon_execTagset h
  case tagchk => exact canon_execTagchk h
  case cmpx => exact canon_execCmpx h
  case accRst => exact canon_execAccRst h
  case lsld => exact canon_execLsld h
  case lsst => exact canon_execLsst h
  case ldSlot => exact canon_execLdSlot h
  case stSlot => exact canon_execStSlot h
  case gather | scatter => exact canon_memFire h
  case amoAddSlot | amoMinSlot | amoMaxSlot | amoAndSlot | amoOrSlot | amoXorSlot | amoXchgSlot | amoCasSlot => exact canon_slotAmo h
  case osecB => exact canon_execOsecB h
  case osecE => exact canon_execOsecE h
  case fenceM => exact canon_execFenceM h
  case hrecv => exact canon_execHrecv h
  case hacc => exact canon_execHacc h
  case flres => exact canon_execFlres h
  case sectionRetire => exact canon_execSectionRetire h
  case domainSequence => exact canon_execDomainSequence h
  case bankAccept => exact canon_execBankAccept h
  case bounceArrival => exact canon_execBounceArrival h
  case creditSend => exact canon_execCreditSend h
  case creditArrival => exact canon_execCreditArrival h
  case tokenArrival => exact canon_execTokenArrival h
  case switchRoute => exact canon_execSwitchRoute h
  case permitReturn => exact canon_execPermitReturn h
  case burstHeaderArrival => exact canon_execBurstHeaderArrival h
  case streamAccess => exact canon_execStreamAccess h
  case streamReadReturn => exact canon_execStreamReadReturn h
  case walk => exact canon_execWalk h
  case refillReturn => exact canon_execRefillReturn h
  case invalidationComplete => exact canon_execInvalidationComplete h
  case earlyEdgeRequest => exact canon_execEarlyEdgeRequest h
  case roundEntry => exact canon_execRoundEntry h
  case endMark => exact canon_execEndMark h
  case nonedgeSignal => exact canon_execNonedgeSignal h
  case roundCommit => exact canon_execRoundCommit h
  case roundDiscard => exact canon_execRoundDiscard h
  case gateSignalArrival => exact canon_execGateSignalArrival h
  case replay => exact canon_execReplay h
  case timingError => exact canon_execTimingError h
  case breakpointStop => exact canon_execBreakpointStop h
  case quiesceDetect => exact canon_execQuiesceDetect h
  case retirementSweep => exact canon_execRetirementSweep h
  case launchFetch => exact canon_execLaunchFetch h
  case schedulerDecision => exact canon_execSchedulerDecision h
  case batchPromotion => exact canon_execBatchPromotion h
  case planeLoadFrame => exact canon_execPlaneLoadFrame h
  case startTokenArrival => exact canon_execStartTokenArrival h
  case revokeArrival => exact canon_execRevokeArrival h
  case relendArrival => exact canon_execRelendArrival h
  case lendWithdraw => exact canon_execLendWithdraw h
  case distributorSend => exact canon_execDistributorSend h
  case stageSample => exact canon_execStageSample h
  case preemption => exact canon_execPreemption h
  case restoreSavedLaunch => exact canon_execRestoreSavedLaunch h
  case scrubComplete => exact canon_execScrubComplete h
  case auditVisit => exact canon_auditStep h
  case patrolRead => exact canon_execPatrolRead h
  case spineStep => exact canon_execSpineStep h
  case droopStretch => exact canon_execDroopStretch h
  case leaseRevoke => exact canon_execLeaseRevoke h
  case partset => exact canon_execPartset h
  case getinfo => exact canon_execGetinfo h
  case getfail => exact canon_execGetfail h
  case spineset => exact canon_execSpineset h
  case fwstage => exact canon_execFwstage h
  case svnlock => exact canon_execSvnlock h
  case ownerkey => exact canon_execOwnerkey h
  case attest => exact canon_execAttest h
  case devreset => exact canon_execDevreset h
  case mailboxUnknownOp => exact canon_execMailboxUnknownOp h
  case prstReq => exact canon_execPrstReq h
  case prstRel => exact canon_execPrstRel h
  case watchdogExpiry => exact canon_partReset h
  case partitionBootDone => exact canon_execPartitionBootDone h
  case powerUp => exact canon_execPowerUp h
  case powerClockFault => exact canon_execPowerClockFault h
  case xinvCmdVa | xinvCmdFn | xinvCmdPart | xinvCmdReserved => exact canon_xinvCmd h
  case lqdbWrite => exact canon_execLqdbWrite h
  case lqerrClear => exact canon_execLqerrClear h
  case evdbWrite => exact canon_execEvdbWrite h
  case rcmdResume => exact canon_execRcmdResume h
  case rcmdAbort => exact canon_execRcmdAbort h
  case rcmdPurge => exact canon_execRcmdPurge h
  case rcmdSave => exact canon_execRcmdSave h
  case rcmdRefusedOp => exact canon_execRcmdRefusedOp h
  case plcmdWrite => exact canon_execPlcmdWrite h
  case configSpaceWrite => exact canon_execConfigSpaceWrite h
  case coreWindowCsrWrite | ccstatResume => exact canon_execCoreWindowCsrWrite h
  case dtsetWrite => exact canon_execDtsetWrite h
  case dtadjWrite => exact canon_execDtadjWrite h
  case dtfreqWrite => exact canon_execDtfreqWrite h
  case ppsinEdge => exact canon_onClk h
  case registerWrite => exact canon_execRegisterWrite h
  case cxlMemRead => exact canon_hostRead h
  case cxlMemWrite => exact canon_hostWrite h
  case peerInboundAccess => exact canon_execPeerInboundAccess h
  case backInvalidate => exact canon_execBackInvalidate h
  case getVersion | getCapabilities | getDigests | getCertificate | challenge => exact canon_spdmReply h
  case negotiateAlgorithms => exact canon_execNegotiateAlgorithms h
  case getMeasurements => exact canon_execGetMeasurements h
  case deviceTimePeriod => exact canon_execDeviceTimePeriod h
  case ppscapRead => exact canon_execPpscapRead h
  case vfEnableWrite => exact canon_execVfEnableWrite h
  case hdmDecoderCommit => exact canon_execHdmDecoderCommit h
  case powerDown => exact canon_coldState h

/-! ### Errors in stored words (21 R470-R473) -/

theorem canon_sramCorrected {s : State} {core : Nat} (h : s.Canon) : (sramCorrected s core).Canon := by
  unfold sramCorrected
  split
  · exact h
  · exact h.withHub (canon_rasAdd h.hub)

theorem memWf_bitFlip {m : Mem} {word bit : Nat} (h : memWf m = true) : memWf (bitFlip m word bit) = true := memWf_mputN h _ _ _

theorem canon_elemUpset {at_ : UpsetAt} {found bit : Nat} {e : Elem} (h : e.Canon) : (elemUpset at_ found bit e).Canon := by
  unfold elemUpset
  split
  case h_1 =>
    exact ite_keeps (h.withMt h.mt.others) (ite_keeps (h.withMt (MtSt.Canon.of_data (memWf_bitFlip h.mt.data))) h)
  case h_2 => exact ite_keeps (h.withCt h.ct.others) h
  case h_3 => exact ite_keeps h.others h
  case h_6 => exact h.withAg h.ag.others
  case h_7 => exact ite_keeps h.others h
  case h_8 => exact ite_keeps h (ite_keeps (h.withCt h.ct.others) (h.withMt h.mt.others))
  case h_9 => exact h.withAg h.ag.others
  case h_10 => exact canon_modPlane h
  all_goals exact h.others

theorem canon_upset {at_ : UpsetAt} {found bit : Nat} {s : State} (h : s.Canon) : (upset at_ found bit s).Canon := by
  unfold upset
  split
  · split
    · exact h
    split
    · exact canon_sramCorrected h
    · exact h.withFab (canon_modElem h.fab fun _ h1 => canon_elemUpset h1)
  split
  · split
    · exact canon_sramCorrected h
    split
    · exact h.withFab (canon_modCc h.fab fun _ h1 => h1.others)
    · exact h
  · dsimp only
    split
    · exact h
    split
    · exact h.withHub (canon_rasAdd h.hub)
    split
    · exact h.withMem h.mem.others
    · exact h
  · split
    · exact h
    split
    · exact h.withHub (canon_rasAdd h.hub)
    · exact h.withMem (canon_lineError h.mem)
  split
  · exact h.withHub ⟨h.hub.parts⟩
  · exact h

/-! ### What an action does (01 R33, 14 R401) -/

theorem canon_coreFetch {s : State} (h : s.Canon) : OutCanon (coreFetch s) := by
  unfold coreFetch
  dsimp only
  split
  · exact canon_ccFinish h trivial
  split
  · exact canon_ccFinish h (h.withFab (canon_coreUncorr h.fab))
  · exact canon_exec h

theorem canon_coreAct {n : Nat} {s : State} (h : s.Canon) : OutCanon (coreAct n s) := by
  unfold coreAct
  split
  · exact h
  split
  · exact canon_execTimerEvent h
  split
  · exact canon_execEventTrap h
  · exact canon_coreFetch h.others

theorem canon_issueAct {key : Nat} {cls : IssueClass} {s : State} (h : s.Canon) : OutCanon (issueAct key cls s) := by
  unfold issueAct
  split
  · exact canon_execBreakpointStop h
  · exact h
  dsimp only
  split
  · exact canon_exec h.others
  · exact h

theorem canon_charged {s : State} {a : Action} (h : s.Canon) : (charged s a).Canon :=
  h.withHub ⟨h.hub.parts⟩

theorem canon_act {a : Action} {s : State} (h : s.Canon) : OutCanon (act a s) := by
  unfold act
  split
  · exact canon_coreAct h
  · exact canon_issueAct h
  · split
    · exact canon_exec h
    · exact h
  · split
    · exact canon_exec h
    · exact h
  · exact canon_tileCycle h
  · exact canon_upset h

theorem canon_takeAction {s : State} (h : s.Canon) : (takeAction s).2.Canon := by
  unfold takeAction
  split <;> exact h.others

/-! ### A step (log 1) -/

theorem canon_step {s : State} (h : s.Canon) : OutCanon (step s) := by
  unfold step
  dsimp only
  split
  · exact canon_act (canon_charged (canon_takeAction h))
  · exact canon_takeAction h

/-- Settles O59: no action that a step performs, and nothing that the step does beside it, takes a memory out of its canonical form. -/
theorem memoriesStayCanonical : Obligations.MemoriesStayCanonical := by
  intro s t h hstep
  have hout : OutCanon (step s) := canon_step ((memoriesCanonical_iff s).mp h)
  rw [hstep] at hout
  exact (memoriesCanonical_iff t).mpr hout

end Sys2Proof.Machine
end

section
/-! SUPPORT. What a step of the agenda's head does (log 1). -/

namespace Sys2Proof.Machine

/-- With supply, a step performs the action at the head of the agenda, charged to its account (22 R486; log 1). -/
theorem step_agenda {s : State} {a : Action} {rest : List Action} (h : s.agenda = a :: rest) (hp : s.sec.supply = true) :
    step s = act a (charged { s with agenda := rest } a) := by
  have htake : takeAction s = (a, { s with agenda := rest }) := by rw [takeAction, h]
  have hpow : powered s a = true := by simp [powered, hp]
  simp only [step, htake, hpow, if_true]

/-- A core that fetches an aligned good word executes what it decodes to (01 R33, 09 R251). -/
theorem coreFetch_good {s : State} {i : Instr} (ha : (ccOf s.fab s.site.core).pc.toNat % 4 = 0)
    (hb : (ccOf s.fab s.site.core).bad.contains ((ccOf s.fab s.site.core).pc.toNat / 8) = false)
    (hd : decodeBytes (pcBytes s s.site.core) = .instr i []) : coreFetch s = exec i s := by
  simp only [coreFetch]
  rw [if_neg (not_not_intro ha), if_neg (by simp only [hb, Bool.false_eq_true, not_false_eq_true]), hd]

/-- A core that runs, with nothing due before its instruction, fetches (09 R267, R269). -/
theorem coreAct_fetches {s : State} {n : Nat} (hr : coreRuns s n = true) (ht : timerDue s n = false) (he : eventDue (ccOf s.fab n) = false) :
    coreAct n s = coreFetch { s with site := { core := n } } := by
  simp [coreAct, hr, ht, he]

/-- A well-formed event takes place; register writes have their own arm. -/
theorem act_event {s : State} {i : Instr} (h : ∀ req off size v, i ≠ .registerWrite req off size v) (hw : eventWf i = true) :
    act (.event i) s = exec i s := by
  rw [act, if_pos hw]
  exact h

/-- Settles O1: the head of the agenda is the step's action, and a core's turn comes down to its fetch. -/
theorem stepRunsDecodedInstruction : Obligations.StepRunsDecodedInstruction := by
  refine ⟨fun s n rest i hag hsup hrun htim hev hpc hbad hdec => ?_, fun s i rest hag hsup hne hwf => ?_, fun s req off size v rest hag hsup hwf => ?_⟩
  · rw [step_agenda hag hsup]
    exact (coreAct_fetches (s := charged { s with agenda := rest } (.core n)) hrun htim hev).trans (coreFetch_good hpc hbad hdec)
  · rw [step_agenda hag hsup, act_event hne hwf]
  · rw [step_agenda hag hsup, act, if_pos hwf]

end Sys2Proof.Machine
end

section
/-! SUPPORT. Loads and stores of the control cores, once per outcome (01 R34, 09 R258, 10 R281, 21 R471). -/

namespace Sys2Proof.Machine

/-! ### The address check (09 R258) -/

theorem sramCheck_prot {e : Word} {w : Nat} (k : CRes) (h : 2 ^ 17 ≤ e.toNat) : sramCheck e w k = .trap 0 6 e := if_pos h

theorem sramCheck_misalign {e : Word} {w : Nat} (k : CRes) (h : e.toNat < 2 ^ 17) (hm : e.toNat % w ≠ 0) : sramCheck e w k = .trap 0 3 e := by
  rw [sramCheck, if_neg (Nat.not_le.mpr h), if_pos hm]

theorem sramCheck_pass {e : Word} {w : Nat} (k : CRes) (h : e.toNat < 2 ^ 17) (hm : e.toNat % w = 0) : sramCheck e w k = k := by
  rw [sramCheck, if_neg (Nat.not_le.mpr h), if_neg (not_not_intro hm)]

/-- A read that touches a bad word raises the fault of the core's region (21 R471). -/
theorem sramRead_bad {s : State} {e n : Nat} (k : Nat → CRes) (h : ¬sramGood s e n) :
    sramRead s e n k = .lost (withFab s (coreUncorr s.fab s.site.core)) := by
  have hbad : ((cc s).bad.any fun w => (dsramWords e n).contains w) = true := by
    simpa [sramGood] using h
  exact if_pos hbad

/-- A load whose base is full, with no acquire pending, is its address check and then its read. -/
theorem ccLoad_checked {s : State} {a : BitVec 5} (d : BitVec 5) (p : BitVec 1) (i : BitVec 15) (w : Nat) (f : Nat → Word) (h : allFull s [a])
    (hq : (cc s).acq = none) :
    ccLoad s d a p i w f = ccFinish s (sramCheck (val s a + sx i) w (sramRead s (val s a + sx i).toNat w fun v =>
      toDest s (cc s) d.toNat (adv (rset (cc s) d.toNat (f v))))) := by
  simp only [ccLoad]
  rw [srcCheck_one _ _ h, hq]
  rfl

/-- A store whose sources are full, with no acquire pending, is its address check and then its write. -/
theorem ccStore_checked {s : State} {a d : BitVec 5} (p q : BitVec 1) (i : BitVec 14) (w : Nat) (h : allFull s [a, d]) (hq : (cc s).acq = none) :
    ccStore s d a p q i w = ccFinish s (sramCheck (val s a + sx i) w
      (.done (setCc s (adv (sramWrite (cc s) (val s a + sx i).toNat w (val s d).toNat))))) := by
  simp only [ccStore]
  rw [srcCheck_two _ _ _ h, hq]
  rfl

/-- The trap by which an instruction of a core ends with TA clear (09 R271). -/
theorem ccFinish_trap {s : State} (kind code : Nat) (v : Word) (h : ccTa (cc s) = false) :
    ccFinish s (.trap kind code v) = .next (trapped s kind code v) := congrArg Host.Outcome.next (ccTrap_entry kind code v h)

/-- Where the address check of an instruction traps with TA clear: outside the data SRAM, and inside it where it is not aligned (09 R258). -/
theorem ccFinish_sramCheck_traps {s : State} (e : Word) (w : Nat) (k : CRes) (ht : ccTa (cc s) = false) :
    (2 ^ 17 ≤ e.toNat → ccFinish s (sramCheck e w k) = .next (trapped s 0 6 e)) ∧
    (e.toNat < 2 ^ 17 → e.toNat % w ≠ 0 → ccFinish s (sramCheck e w k) = .next (trapped s 0 3 e)) :=
  ⟨fun hp => by rw [sramCheck_prot k hp, ccFinish_trap _ _ _ ht], fun hp hm => by rw [sramCheck_misalign k hp hm, ccFinish_trap _ _ _ ht]⟩

/-- A load that touches a bad word makes no change but its region's fault. -/
theorem ccLoad_bad {s : State} {d a : BitVec 5} {p : BitVec 1} {i : BitVec 15} {w : Nat} {f : Nat → Word} (h : allFull s [a])
    (hq : (cc s).acq = none) (hp : (val s a + sx i).toNat < 2 ^ 17) (hm : (val s a + sx i).toNat % w = 0)
    (hg : ¬sramGood s (val s a + sx i).toNat w) :
    ccLoad s d a p i w f = .next (ccWait (withFab s (coreUncorr s.fab s.site.core))) := by
  rw [ccLoad_checked d p i w f h hq, sramCheck_pass _ hp hm, sramRead_bad _ hg]
  rfl

/-- The load instructions by the width that they read. -/
def loadForms : List (Nat × (BitVec 5 → BitVec 5 → BitVec 1 → BitVec 15 → Instr)) :=
  [(1, Instr.lb), (2, Instr.lh), (4, Instr.lw), (8, Instr.ld), (1, Instr.lbu), (2, Instr.lhu), (4, Instr.lwu)]

/-- Every load instruction is the shared load at its width. -/
theorem exec_loadForm {w : Nat} {mk : BitVec 5 → BitVec 5 → BitVec 1 → BitVec 15 → Instr} (h : (w, mk) ∈ loadForms) :
    ∃ f, ∀ s d a p i, exec (mk d a p i) s = ccLoad s d a p i w f := by
  simp only [loadForms, List.mem_cons, Prod.mk.injEq, List.not_mem_nil, or_false] at h
  rcases h with ⟨rfl, rfl⟩ | ⟨rfl, rfl⟩ | ⟨rfl, rfl⟩ | ⟨rfl, rfl⟩ | ⟨rfl, rfl⟩ | ⟨rfl, rfl⟩ | ⟨rfl, rfl⟩ <;>
    exact ⟨_, fun _ _ _ _ _ => rfl⟩

/-- The store instructions by the width that they write. -/
def storeForms : List (Nat × (BitVec 5 → BitVec 5 → BitVec 1 → BitVec 1 → BitVec 14 → Instr)) :=
  [(1, Instr.sb), (2, Instr.sh), (4, Instr.sw), (8, Instr.sd)]

/-- Every store instruction is the shared store at its width. -/
theorem exec_storeForm {w : Nat} {mk : BitVec 5 → BitVec 5 → BitVec 1 → BitVec 1 → BitVec 14 → Instr} (h : (w, mk) ∈ storeForms)
    (s : State) (d a : BitVec 5) (p q : BitVec 1) (i : BitVec 14) : exec (mk d a p q i) s = ccStore s d a p q i w := by
  simp only [storeForms, List.mem_cons, Prod.mk.injEq, List.not_mem_nil, or_false] at h
  rcases h with ⟨rfl, rfl⟩ | ⟨rfl, rfl⟩ | ⟨rfl, rfl⟩ | ⟨rfl, rfl⟩ <;> rfl

/-- Settles O9: each load and store is the shared one at its width, whose outcomes are the read or write, the lost word, and the traps of the address
check. -/
theorem loadStoreResults : Obligations.LoadStoreResults := by
  refine ⟨fun s d a p q hq => ⟨?_, ?_⟩, fun s d a p q hq ht => ⟨?_, ?_⟩⟩
  · intro i hf hd e m he
    refine ⟨fun hg => ?_, fun hg ha => ?_, fun hg ha => ?_, fun hg ha => ccLoad_next hf hd hq he ha hg, fun w mk hmk hg ha => ?_⟩
    · exact ⟨ccLoad_next hf hd hq he (Nat.mod_one _) hg, ccLoad_next hf hd hq he (Nat.mod_one _) hg⟩
    · exact ⟨ccLoad_next hf hd hq he ha hg, ccLoad_next hf hd hq he ha hg⟩
    · exact ⟨ccLoad_next hf hd hq he ha hg, ccLoad_next hf hd hq he ha hg⟩
    · obtain ⟨f, hload⟩ := exec_loadForm hmk
      exact (hload s d a p i).trans (ccLoad_bad hf hq he ha hg)
  · intro i hf e st he
    exact ⟨ccStore_next hf hq he (Nat.mod_one _), ccStore_next hf hq he, ccStore_next hf hq he, ccStore_next hf hq he⟩
  · intro w mk hmk i hf
    obtain ⟨f, hload⟩ := exec_loadForm hmk
    rw [hload, ccLoad_checked d p i w f hf hq]
    exact ccFinish_sramCheck_traps _ w _ ht
  · intro w mk hmk i hf
    rw [exec_storeForm hmk, ccStore_checked p q i w hf hq]
    exact ccFinish_sramCheck_traps _ w _ ht

end Sys2Proof.Machine
end

section
/-! SUPPORT. The requests of a memory tile and the checks that stop them (13 R371-R374). -/

namespace Sys2Proof.Machine

/-- A memory-tile request that fails a check raises its fault and does nothing else (13 R372). -/
theorem memFire_stops {s : State} {op kinds align size : Nat} {w : Slot} {mk : FireCtx → MemReq → MemReq} {els : FireCtx → Line} {t : Token}
    {c v k : Nat} (hf : fires s op w) (hh : headOf (seen s op w).e w.a.toNat = some t)
    (hc : memCheck (began s op w) (seen s op w) kinds align t = some (c, v, k)) :
    memFire s op w kinds align mk size els = .next (withFab s (slotRaise (began s op w) (seen s op w) c (some w.a.toNat) v k)) := by
  rw [memFire, fire_next hf]
  simp only [hh, hc]

/-! ### The checks in their order (13 R372) -/

theorem memCheck_kind {f : Fab} {x : FireCtx} {kinds : Nat} (align : Nat) (t : Token) (h : bit kinds (x.w.md.toNat % 4) = false) :
    memCheck f x kinds align t = some (1, 0, 0) := by
  simp [memCheck, h]

/-- With a legal kind the one address of an access that is no gather or scatter is checked. -/
theorem memCheck_single {f : Fab} {x : FireCtx} {kinds : Nat} (align : Nat) (t : Token) (h : bit kinds (x.w.md.toNat % 4) = true)
    (hg : x.op ≠ 0x302) (hs : x.op ≠ 0x303) :
    memCheck f x kinds align t = addrCheck f x.key x.plane (t.data.toNat % 2 ^ 32) align := by
  have haddr : reqAddrs x.op t = [(t.data.toNat % 2 ^ 32, 0)] := if_neg (not_or.mpr ⟨hg, hs⟩)
  simp [memCheck, h, haddr]

section
variable {f : Fab} {key plane a align k b l : Nat}

theorem addrCheck_outside (h : spLocate f (keyCore key) plane a = none) : addrCheck f key plane a align = some (6, a, 1) := by
  simp [addrCheck, h]

theorem addrCheck_otherTile (h : spLocate f (keyCore key) plane a = some (k, b, l)) (hk : k ≠ key) :
    addrCheck f key plane a align = some (6, a, 2) := by
  simp [addrCheck, h, hk]

theorem addrCheck_bankRefused (h : spLocate f (keyCore key) plane a = some (k, b, l)) (hk : k = key)
    (hb : bankAllowed f key plane b = false) : addrCheck f key plane a align = some (6, a, 3) := by
  simp [addrCheck, h, hk, hb]

theorem addrCheck_misaligned (h : spLocate f (keyCore key) plane a = some (k, b, l)) (hk : k = key)
    (hb : bankAllowed f key plane b = true) (ha : a % align ≠ 0) : addrCheck f key plane a align = some (3, a, 1) := by
  simp [addrCheck, h, hk, hb, ha]

end

/-! ### The access instructions -/

theorem exec_ldSlot (w : Slot) (s : State) : exec (.ldSlot w) s =
    memFire s 0x300 w 3 (if selKind w.dst.toNat = 16 then 64 else 8) (fun _ q => q) (if selKind w.dst.toNat = 16 then 64 else 8) fun _ => 0 := rfl

theorem exec_stSlot (w : Slot) (s : State) : exec (.stSlot w) s =
    memFire s 0x301 w 5 (if selKind w.b.toNat = 8 then 64 else 8)
      (fun x q => { q with data := execStSlot.storeData x w.b.toNat, tag := some (storeTag x) }) (if selKind w.b.toNat = 8 then 64 else 8)
      fun _ => 0 := rfl

theorem exec_gather (w : Slot) (s : State) :
    exec (.gather w) s = memFire s 0x302 w 3 (fmtSize w.fmt.toNat) (fun _ q => q) 64 fun _ => 0 := rfl

theorem exec_scatter (w : Slot) (s : State) : exec (.scatter w) s =
    memFire s 0x303 w 5 (fmtSize w.fmt.toNat) (fun _ q => { q with tag := some (0x7F00 ||| BitVec.ofNat 16 w.fmt.toNat) }) 64
      fun x => match headOf x.e w.b.toNat with
        | some t => t.data
        | none => 0 := rfl

theorem slotAmo_eq (s : State) (op : Nat) (w : Slot) : slotAmo s op w =
    memFire s op w 15 (if w.fmt = 3 then 4 else 8)
      (fun x q => { q with data := BitVec.ofNat 512 (scalarOf x w.b.toNat), cmp := BitVec.ofNat 64 (scalarOf x w.c.toNat) })
      (if w.fmt = 3 then 4 else 8) fun _ => 0 := rfl

/-- The atomic slot operations by opcode (13 R374). -/
def slotAtomics : List (Nat × (Slot → Instr)) :=
  [(0x304, Instr.amoAddSlot), (0x305, .amoMinSlot), (0x306, .amoMaxSlot), (0x307, .amoAndSlot), (0x308, .amoOrSlot), (0x309, .amoXorSlot),
    (0x30A, .amoXchgSlot), (0x30B, .amoCasSlot)]

/-- Every atomic slot operation is the shared one under its opcode, which is neither a gather's nor a scatter's. -/
theorem exec_slotAtomic {op : Nat} {mk : Slot → Instr} (h : (op, mk) ∈ slotAtomics) (s : State) (w : Slot) :
    exec (mk w) s = slotAmo s op w ∧ op ≠ 0x302 ∧ op ≠ 0x303 := by
  simp only [slotAtomics, List.mem_cons, Prod.mk.injEq, List.not_mem_nil, or_false] at h
  rcases h with ⟨rfl, rfl⟩ | ⟨rfl, rfl⟩ | ⟨rfl, rfl⟩ | ⟨rfl, rfl⟩ | ⟨rfl, rfl⟩ | ⟨rfl, rfl⟩ | ⟨rfl, rfl⟩ | ⟨rfl, rfl⟩ <;>
    exact ⟨rfl, by decide, by decide⟩

/-- The accesses of a memory tile by opcode, legal kinds and alignment (13 R371, R374). -/
def memForms (w : Slot) : List (Nat × Nat × Nat × (Slot → Instr)) :=
  [(0x300, 3, if selKind w.dst.toNat = 16 then 64 else 8, Instr.ldSlot), (0x301, 5, if selKind w.b.toNat = 8 then 64 else 8, .stSlot),
    (0x302, 3, fmtSize w.fmt.toNat, .gather), (0x303, 5, fmtSize w.fmt.toNat, .scatter)] ++
  slotAtomics.map (fun y => (y.1, 15, if w.fmt = 3 then 4 else 8, y.2))

/-- Every access is a checked request of its opcode, kinds and alignment. -/
theorem exec_memForm {op kinds align : Nat} {mk : Slot → Instr} {w : Slot} (h : (op, kinds, align, mk) ∈ memForms w) (s : State) :
    ∃ g size els, exec (mk w) s = memFire s op w kinds align g size els := by
  rw [memForms, List.mem_append] at h
  rcases h with h | h
  · simp only [List.mem_cons, Prod.mk.injEq, List.not_mem_nil, or_false] at h
    rcases h with ⟨rfl, rfl, rfl, rfl⟩ | ⟨rfl, rfl, rfl, rfl⟩ | ⟨rfl, rfl, rfl, rfl⟩ | ⟨rfl, rfl, rfl, rfl⟩
    · exact ⟨_, _, _, exec_ldSlot w s⟩
    · exact ⟨_, _, _, exec_stSlot w s⟩
    · exact ⟨_, _, _, exec_gather w s⟩
    · exact ⟨_, _, _, exec_scatter w s⟩
  · obtain ⟨⟨o, m⟩, hmem, heq⟩ := List.mem_map.mp h
    simp only [Prod.mk.injEq] at heq
    obtain ⟨rfl, rfl, rfl, rfl⟩ := heq
    exact ⟨_, _, _, (exec_slotAtomic hmem s w).1.trans (slotAmo_eq s _ w)⟩

/-- Settles O42: every access is a checked request, which is sent when its checks pass and stops at the first that fails. -/
theorem memoryAccesses : Obligations.MemoryAccesses := by
  refine ⟨?_, ?_⟩
  · intro s w t sent tag nl ns es na
    refine ⟨fun hok => ?_, fun hok => ?_, fun hok => ?_, fun u hok hu => ?_, fun op mk hmk hok => ?_⟩
    · exact (exec_ldSlot w s).trans (memFire_next hok)
    · rw [exec_stSlot, memFire_next hok]
      rfl
    · exact (exec_gather w s).trans (memFire_next hok)
    · rw [exec_scatter, memFire_next hok, hu]
    · obtain ⟨hexec, hg, hs⟩ := exec_slotAtomic hmk s w
      exact (hexec.trans (slotAmo_eq s op w)).trans (memFire_next hok)
  · intro s w t op kinds align mk hmk hf hh x f a stops
    have hstop {c v k : Nat} (hc : memCheck f x kinds align t = some (c, v, k)) : stops c v k := by
      obtain ⟨g, size, els, hexec⟩ := exec_memForm hmk s
      exact hexec.trans (memFire_stops hf hh hc)
    refine ⟨fun hk => hstop (memCheck_kind align t hk), fun hk hg hs => ?_⟩
    have hone := memCheck_single (f := f) (x := x) align t hk hg hs
    refine ⟨fun hn => hstop (hone.trans (addrCheck_outside hn)), fun k b l hl => ⟨fun hne => ?_, fun he hb => ?_, fun he hb ha => ?_⟩⟩
    · exact hstop (hone.trans (addrCheck_otherTile hl hne))
    · exact hstop (hone.trans (addrCheck_bankRefused hl he hb))
    · exact hstop (hone.trans (addrCheck_misaligned hl he hb ha))

end Sys2Proof.Machine
end

section
/-! SUPPORT. Reset, power, audits, spines and leases: what each event does, once (01 R42, 21 R474, R475, 22 R479-R485, 23 R493-R505). -/

namespace Sys2Proof.Machine

/-! ### What leaves the partitions' reset states (23 R493) -/

/-- The two states have every partition in the same state of reset. -/
def SameResets (s t : State) : Prop := ∀ q, (partOf t.hub q).prstState = (partOf s.hub q).prstState

theorem SameResets.refl (s : State) : SameResets s s := fun _ => rfl

theorem SameResets.trans {s t u : State} (h : SameResets s t) (k : SameResets t u) : SameResets s u := fun q => (k q).trans (h q)

/-- A fold whose steps keep the reset states keeps them. -/
theorem sameResets_foldl {α : Type} {g : State → α → State} (hg : ∀ s a, SameResets s (g s a)) (s : State) (l : List α) :
    SameResets s (l.foldl g s) :=
  foldl_keeps (P := SameResets s) (SameResets.refl s) fun b a h => h.trans (hg b a)

/-- A change of a partition that keeps its reset state keeps all of them. -/
theorem prstState_modPart {h : Hub} {n : Nat} {g : Part → Part} (hg : ∀ p, (g p).prstState = p.prstState) (q : Nat) :
    (partOf (modPart h n g) q).prstState = (partOf h q).prstState := by
  by_cases hq : q = n
  · rw [hq, partOf_modPart_same, hg]
  · rw [partOf_modPart_ne h g hq]

theorem prstState_setPosts (h : Hub) (part fn : Nat) (l : List RepOut) (q : Nat) :
    (partOf (setPosts h part fn l) q).prstState = (partOf h q).prstState := prstState_modPart (by intro p; rfl) q

theorem prstState_dropReport (h : Hub) (part fn q : Nat) : (partOf (dropReport h part fn) q).prstState = (partOf h q).prstState :=
  prstState_modPart (by intro p; rfl) q

@[simp] theorem repDone_hub (s : State) (rid : Option Nat) : (repDone s rid).hub = s.hub := by
  unfold repDone
  split <;> rfl

theorem sameResets_postNext (s : State) (part fn : Nat) : SameResets s (postNext s part fn) := by
  intro q
  unfold postNext
  dsimp only
  split
  · rfl
  split
  · rw [repDone_hub, prstState_setPosts, prstState_dropReport]
  split
  · exact prstState_setPosts s.hub part fn _ q
  · rw [repDone_hub, prstState_setPosts, prstState_dropReport]
  · rw [repDone_hub, prstState_setPosts]
    exact prstState_modPart (by intro p; rfl) q

theorem sameResets_postReport (s : State) (core ctx : Nat) (p : Rep) : SameResets s (postReport s core ctx p) := by
  unfold postReport
  split
  · exact SameResets.refl s
  · exact SameResets.trans (fun q => prstState_setPosts s.hub _ _ _ q) (sameResets_foldl (fun t _ => sameResets_postNext t _ _) _ _)

theorem sameResets_kwrDrop (s : State) (k n : Nat) : SameResets s (kwrDrop s k n) := by
  intro q
  unfold kwrDrop
  dsimp only
  split
  · rfl
  · refine sameResets_foldl (fun t w => ?_) s _ q
    exact SameResets.trans (t := { t with fab := cmdDone t.fab w.2.2.1 w.2.2.2 }) (SameResets.refl t) (sameResets_postReport _ _ _ _)

/-- Entry into reset puts its partition into reset and leaves the others (23 R493, R494). -/
theorem prstState_partReset (s : State) (part cause : Nat) (abort : Bool) (q : Nat) :
    (partOf (partReset s part cause abort).hub q).prstState = if q = part then 0 else (partOf s.hub q).prstState := by
  unfold partReset
  by_cases h0 : (partOf s.hub part).prstState = 0
  · rw [if_pos h0]
    split
    · next hq => rw [hq, h0]
    · rfl
  · rw [if_neg h0]
    dsimp only
    by_cases hq : q = part
    · rw [if_pos hq, hq, partOf_modPart_same]
      rfl
    · rw [if_neg hq, partOf_modPart_ne _ _ hq]
      exact sameResets_foldl (fun t _ => sameResets_foldl (fun u _ => sameResets_kwrDrop u _ _) t _) s _ q

/-- A power or clock fault puts every partition into reset, empties the fabric and the agenda, and enters the safe state with CODE 3 (23 R505). -/
theorem execPowerClockFault_safe {s : State} (h : s.sec.stage ≠ 4) : ∃ t, execPowerClockFault s = .next t ∧ t.sec.stage = 4 ∧ t.sec.code = 3 ∧
    t.sec.ready = false ∧ t.fab = {} ∧ t.agenda = [] ∧ ∀ q ∈ [0, 1, 2, 3], (partOf t.hub q).prstState = 0 := by
  rw [execPowerClockFault, if_neg h]
  refine ⟨_, rfl, rfl, rfl, rfl, rfl, rfl, fun q hq => ?_⟩
  simp only [List.foldl, prstState_partReset]
  simp only [List.mem_cons, List.not_mem_nil, or_false] at hq
  rcases hq with rfl | rfl | rfl | rfl <;> rfl

/-! ### Bring-up (23 R504) -/

/-- Every partition's measurement register takes the value. -/
theorem tget_mreg_modMregs (s : State) (i : Nat) (v : Line) : ∀ q ∈ [0, 1, 2, 3], tget 0 (partOf (modMregs s i v).hub q).mreg i = v := by
  intro q hq
  simp only [List.mem_cons, List.not_mem_nil, or_false] at hq
  rcases hq with rfl | rfl | rfl | rfl <;> simp [modMregs, partOf, tget]

/-- The boot ROM has started: its digest is measured (23 R501, R504). -/
theorem bringUp_bootRom {s : State} (h : s.sec.stage = 0) :
    (bringUp s).sec.stage = 1 ∧ ∀ q ∈ [0, 1, 2, 3], tget 0 (partOf (bringUp s).hub q).mreg 0 = Config.bootRomDigest := by
  rw [bringUp, if_pos h]
  exact ⟨rfl, tget_mreg_modMregs _ 0 _⟩

/-- No hub image passes: the safe state with CODE 1 (23 R500, R504). -/
theorem bringUp_noImage {s : State} (h : s.sec.stage = 1) (hc : bootCopy s.sec = none) :
    bringUp s = { s with sec := { s.sec with stage := 4, code := 1 } } := by
  rw [bringUp, if_neg (by rw [h]; decide), if_pos h, hc]

/-- A hub image passes: it runs and is measured (23 R500, R501, R504). -/
theorem bringUp_image {s : State} {c : Nat} (h : s.sec.stage = 1) (hc : bootCopy s.sec = some c) :
    (bringUp s).sec = { s.sec with stage := 2, hubCopy := some c } ∧
      ∀ q ∈ [0, 1, 2, 3], tget 0 (partOf (bringUp s).hub q).mreg 1 = imgDigest (flashOf s.sec c) := by
  rw [bringUp, if_neg (by rw [h]; decide), if_pos h, hc]
  exact ⟨rfl, tget_mreg_modMregs _ 1 _⟩

/-- The end of self-test: ready, or the safe state with the failing units (23 R504). -/
theorem bringUp_selfTest {s : State} (h : s.sec.stage = 2) : (bringUp s).sec.powerUps = s.sec.powerUps + 1 ∧
    (Config.selfTest s.sec.powerUps = [] → (bringUp s).sec.stage = 3 ∧ (bringUp s).sec.ready = true) ∧
    (Config.selfTest s.sec.powerUps ≠ [] → (bringUp s).sec.stage = 4 ∧ (bringUp s).sec.code = 2 ∧
      (bringUp s).sec.nfail = (Config.selfTest s.sec.powerUps).length ∧
      (bringUp s).sec.failing = (Config.selfTest s.sec.powerUps).map failWord) := by
  rw [bringUp, if_neg (by rw [h]; decide), if_neg (by rw [h]; decide), if_pos h]
  by_cases ht : Config.selfTest s.sec.powerUps = []
  · simp [ht]
  · simp [ht]

/-! ### Crevasse audit (21 R474, R475) -/

section
variable {s : State} {core row : Nat}

/-- The hub's count after an audit has added k to counter n of the partition that owns the core. -/
def auditCount (s : State) (core n k : Nat) : Hub := match corePart s.hub core with
  | some p => rasAdd s.hub p n k
  | none => s.hub

/-- A visit that is under way waits for its 40 tile cycles, then counts the links and ends. -/
theorem auditStep_visit {n : Nat} (hc : core < 64) (hr : row < 10) (ha : (auditOf s.fab core row).cyc = some n) :
    auditStep s core row = if n < 40 then s else { s with
      hub := auditCount s core 1 (auditBad s.fab core row).length
      fab := modAudit ((auditBad s.fab core row).foldl auditFix s.fab) core row fun a => { a with cyc := none } } := by
  rw [auditStep, if_neg (by omega), ha]
  rfl

/-- No visit is under way: one that is due begins in an idle window, and is marked and counted outside it. -/
theorem auditStep_idle (hc : core < 64) (hr : row < 10) (ha : (auditOf s.fab core row).cyc = none) :
    auditStep s core row =
      if ¬((auditOf s.fab core row).pend = true ∨ auditDue s core row = true) then s
      else if auditWaits s.fab core = false ∨ 64 ≤ (auditOf s.fab core row).quiet then auditStart s core row
      else if (auditOf s.fab core row).pend then s
      else { s with
        hub := auditCount s core 2 1
        fab := modAudit s.fab core row fun a => { a with pend := true } } := by
  simp only [auditStep, if_neg (show ¬(64 ≤ core ∨ 10 ≤ row) by omega), ha, Bool.not_eq_true', not_or, Bool.not_eq_true]
  rfl

end

/-! ### Spines and leases (22 R479-R484) -/

/-- The present multiplier of a spine whose entry is set. -/
theorem spCur_setCur (c : Clk) (n k : Nat) : spCur { c with cur := tins c.cur n k } n = k := tget_tins_same _ _ _ _

/-- A spine's present multiplier takes one step toward the one that is set; what is set and the other spines stay (22 R480). -/
theorem execSpineStep_moves {s : State} {n : Nat} (hn : n < 8) : ∃ t, execSpineStep n s = .next t ∧ t.clk.mult = s.clk.mult ∧
    (∀ m, m ≠ n → spCur t.clk m = spCur s.clk m) ∧
    (spCur s.clk n = spMult s.clk n → spCur t.clk n = spCur s.clk n) ∧ (spCur s.clk n < spMult s.clk n → spCur t.clk n = spCur s.clk n + 1) ∧
    (spMult s.clk n < spCur s.clk n → spCur t.clk n + 1 = spCur s.clk n) := by
  rw [execSpineStep, if_neg (by omega)]
  refine ⟨_, rfl, rfl, fun m hm => tget_tins_ne _ _ _ hm, ?_⟩
  dsimp only
  rw [spCur_setCur]
  refine ⟨fun h => ?_, fun h => ?_, fun h => ?_⟩
  · rw [if_neg (by omega), if_neg (by omega)]
  · rw [if_pos h]
  · rw [if_neg (by omega), if_pos h]
    omega

/-- The one lease is shortened to the notice, the core that holds it is told and a report is posted (22 R484). -/
theorem execLeaseRevoke_one {s : State} {rid : Nat} {r : Region} {e : Word} (h : (s.fab.regions.filter fun q => q.2.leaseEnd.isSome) = [(rid, r)])
    (he : r.leaseEnd = some e) (hl : (s.clk.dtime + 9831).toNat < e.toNat) :
    execLeaseRevoke s = .next (postReport { s with
      fab := modCc (modRegion s.fab rid fun r => { r with leaseEnd := some (s.clk.dtime + 9831) }) r.leaseCore fun c => setEv c 4
      hub := modPart s.hub r.launch.part fun p => { p with lrevoke := p.lrevoke + 1 } } r.leaseCore (ownPlane r)
      { cause := 0x12, effect := 4, info0 := s.clk.dtime + 9831 }) := by
  have hfind : [(rid, r)].find? (fun q => [(rid, r)].all fun x => x.1 == q.1 || leaseBefore q x) = some (rid, r) := by simp
  simp only [execLeaseRevoke, h, hfind]
  rw [if_neg (by rw [he]; exact Nat.not_le.mpr hl)]

/-- At a refill tick a bucket rises by RATE per core up to BURST per core (22 R482). -/
theorem execBucketRefill_tick {s : State} {rid : Nat} {r : Region} (hr : region? s.fab rid = some r) (ho : r.owner = none)
    (ht : r.bfill < s.clk.dtime.toNat / 16) :
    execBucketRefill rid s = .next (withFab s (modRegion s.fab rid fun q =>
      { q with bucket := min (bucketCap (partOf s.hub r.launch.part) r) (q.bucket + fld (partOf s.hub r.launch.part).metcfg.toNat 0 10 * (q.w * q.h))
               bcap := bucketCap (partOf s.hub r.launch.part) r, bfill := s.clk.dtime.toNat / 16 })) := by
  have hgo : ¬(r.owner.isSome ∨ s.clk.dtime.toNat / 16 ≤ r.bfill) := by simp [ho, ht]
  simp only [execBucketRefill, hr, if_neg hgo]
  rfl

/-! ### Partitions (01 R42, 23 R493-R495) -/

theorem execScrubComplete_pending {s : State} {part : Nat} {v : Word} (h : (partOf s.hub part).scrub = some v) (hs : s.sec.stage ≠ 4) :
    execScrubComplete part s = .next { s with
      fab := (newCores s.hub part v).foldl wipeCore s.fab, mem := (newGroups s.mem part v).foldl (fun m g => wipeGroup m part g) s.mem
      hub := cfgTake s.hub part v } := by
  simp only [execScrubComplete, h, if_neg hs]

theorem execScrubComplete_safeState {s : State} {part : Nat} (hs : s.sec.stage = 4) : execScrubComplete part s = .next s := by
  unfold execScrubComplete
  split
  · rfl
  · exact if_pos hs

theorem execPrstRel_boots {s : State} {part : Nat} (hp : (partOf s.hub part).prstState = 0) (he : partEn (partOf s.hub part) = true)
    (hc : (partOf s.hub part).scrub = none) (hs : s.sec.stage ≠ 4) :
    execPrstRel part s = .next { s with hub := modPart s.hub part fun p =>
      { p with prstState := 1, mreg := tins (tdel p.mreg 2) 3 (sha512 (natBytes 8 p.cfg.toNat)) } } := by
  have hgo : ¬((partOf s.hub part).prstState ≠ 0 ∨ (!partEn (partOf s.hub part)) = true ∨ (partOf s.hub part).scrub.isSome = true ∨
      s.sec.stage = 4) := by simpa [hp, he, hc] using hs
  exact if_neg hgo

/-- The partition's image is verified once more: it runs, or its boot has failed (23 R495, R500). -/
theorem execPartitionBootDone_verified {s : State} {part : Nat} (h : (partOf s.hub part).prstState = 1) :
    execPartitionBootDone part s = .next { s with hub := modPart s.hub part (
      if vcode s.sec 2 (some part) (flashOf s.sec (2 + part)) = 0 then fun p =>
        { p with prstState := 2, mreg := tins p.mreg 2 (imgDigest (flashOf s.sec (2 + part))), bootSvn := imgSvn (flashOf s.sec (2 + part)),
                 bootVer := imgVer (flashOf s.sec (2 + part)) }
      else fun p => { p with prstState := 3 }) } := by
  by_cases hv : vcode s.sec 2 (some part) (flashOf s.sec (2 + part)) = 0
  · simp only [execPartitionBootDone, if_neg (not_not_intro h), hv, if_true, onHub]
  · simp only [execPartitionBootDone, if_neg (not_not_intro h), hv, if_false, onHub]

theorem execDroopStretch_counted {s : State} {core part : Nat} (h : corePart s.hub core = some part) :
    execDroopStretch core s = .next { s with hub := modPart s.hub part fun p =>
      { p with stretch := if p.stretch = 0xFFFFFFFF then p.stretch else p.stretch + 1 } } := by
  simp only [execDroopStretch, h]
  rfl

theorem execLeaseExpiry_due {s : State} {rid : Nat} {r : Region} {e : Word} (hr : region? s.fab rid = some r) (he : r.leaseEnd = some e)
    (ht : e.toNat ≤ s.clk.dtime.toNat) : execLeaseExpiry rid s = .next (withFab s (endLease s.fab rid)) := by
  simp only [execLeaseExpiry, hr, Option.bind_some, he, if_pos ht]
  rfl

/-- Settles O53: each event by the lemma of its clause above. -/
theorem powerAndUpkeepEvents : Obligations.PowerAndUpkeepEvents := by
  intro s part rid n r p
  refine ⟨fun v hv hs => execScrubComplete_pending hv hs, execScrubComplete_safeState, rfl, rfl, execPrstRel_boots, ?boot, ?cold, ?up,
    execPowerClockFault_safe, ⟨_, rfl, rfl, rfl, rfl, rfl, rfl⟩, ?audit, fun a found => ⟨rfl, rfl, rfl⟩, execSpineStep_moves,
    fun core => execDroopStretch_counted, execBucketRefill_tick, fun e => execLeaseExpiry_due, fun e => execLeaseRevoke_one⟩
  case boot =>
    intro hp l boot fail
    exact execPartitionBootDone_verified hp
  case cold =>
    intro hs
    exact if_neg (by simp [hs])
  case up =>
    intro hs
    have hup : exec .powerUp s = .next (bringUp s) := if_pos hs
    rw [hup]
    refine ⟨fun h0 => ⟨_, rfl, bringUp_bootRom h0⟩, fun h1 => ⟨fun hc => ?_, fun c hc => ⟨_, rfl, bringUp_image h1 hc⟩⟩,
      fun h2 => ⟨_, rfl, bringUp_selfTest h2⟩⟩
    rw [bringUp_noImage h1 hc]
  case audit =>
    intro core row hc hr a due count
    have hstep : exec (.auditVisit core row) s = .next (auditStep s core row) := rfl
    refine ⟨fun n ha => ?_, fun ha => ?_⟩
    · rw [hstep, auditStep_visit hc hr ha]
      refine ⟨fun hn => by rw [if_pos hn], fun hn => ?_⟩
      rw [if_neg (Nat.not_lt.mpr hn)]
      rfl
    · rw [hstep, auditStep_idle hc hr ha]
      refine ⟨fun hdue hopen => ?_, fun hpend hd hw hq => ?_, fun hdue => ?_⟩
      · rw [if_neg (not_not_intro hdue), if_pos hopen]
        rfl
      · have hwait : ¬(auditWaits s.fab core = false ∨ 64 ≤ (auditOf s.fab core row).quiet) := by
          rintro (h | h)
          · exact absurd h (by simp [hw])
          · exact absurd h (Nat.not_le.mpr hq)
        rw [if_neg (not_not_intro (.inr hd)), if_neg hwait, if_neg (ne_true_of_eq_false hpend)]
        rfl
      · rw [if_pos hdue]

end Sys2Proof.Machine
end

section
/-! SUPPORT. Registers, doorbells and windows: what each access of the host or a device agent does, once (01 R21-R28, R36-R43, 02 R69, 14 R385-R387,
15 R427, R428, 16 R440, 23 R490-R496). -/

namespace Sys2Proof.Machine

/-! ### Doorbells and invalidations (02 R69, 14 R385-R387) -/

/-- A well-formed XINV_CMD is accepted (02 R69). -/
theorem xinvCmd_accepted {s : State} {part op : Nat} {v : Word} (hl : pageDead s part 0 = false) (hop : v.toNat / 2 ^ 62 = op) (h3 : op < 3)
    (hb : (partOf s.hub part).xbusy = false) (h52 : fld v.toNat 52 10 = 0) (h5 : fld v.toNat 5 7 = 0)
    (hfn : v.toNat % 32 ≤ vfCnt (partOf s.hub part)) :
    xinvCmd part v s = .next { s with hub := modPart s.hub part fun p => { p with
      xbusy := true, invals := p.invals ++ [{ kind := op, fn := v.toNat % 32, va := fld v.toNat 12 40 * 4096, core := none, id := 0 }] } } := by
  have hkind : fld v.toNat 62 2 = op := by rw [fld, hop]; omega
  have hfld : fld v.toNat 0 5 = v.toNat % 32 := by simp [fld]
  have hgo : ¬((partOf s.hub part).xbusy = true ∨ op = 3 ∨ fld v.toNat 52 10 ≠ 0 ∨ fld v.toNat 5 7 ≠ 0 ∨
      vfCnt (partOf s.hub part) < v.toNat % 32) := by
    simp only [hb, h52, h5, Bool.false_eq_true, false_or]
    omega
  simp only [xinvCmd, hl, Bool.false_eq_true, if_false, hkind, hfld, if_neg hgo]
  rfl

/-- The reserved OP of XINV_CMD sets ERR (02 R69). -/
theorem xinvCmd_reserved {s : State} {part : Nat} {v : Word} (hl : pageDead s part 0 = false) (hop : v.toNat / 2 ^ 62 = 3) :
    xinvCmd part v s = .next { s with hub := modPart s.hub part fun p => { p with xerr := true } } := by
  have hkind : fld v.toNat 62 2 = 3 := by rw [fld, hop]; rfl
  simp only [xinvCmd, hl, Bool.false_eq_true, if_false, hkind, true_or, or_true, if_true]
  rfl

/-- A TAIL at most the ring ahead of HEAD is taken (14 R385). -/
theorem execLqdbWrite_taken {s : State} {part fn q : Nat} {tail : BitVec 32} (hl : pageDead s part fn = false) (hq : q < 8)
    (ht : (tail - tget 0 (partOf s.hub part).lqhead (8 * fn + q)).toNat ≤ 2 ^ fld (tget 0 (partOf s.hub part).lqcfg (8 * fn + q)).toNat 54 4) :
    execLqdbWrite part fn q tail s = .next { s with hub := modPart s.hub part fun p => { p with lqtail := tput 0 p.lqtail (8 * fn + q) tail } } := by
  have hgo : ¬(pageDead s part fn = true ∨ 8 ≤ q ∨ 2 ^ fld (tget 0 (partOf s.hub part).lqcfg (8 * fn + q)).toNat 54 4 <
      (tail - tget 0 (partOf s.hub part).lqhead (8 * fn + q)).toNat) := by
    simp only [hl, Bool.false_eq_true, false_or]
    omega
  exact if_neg hgo

/-- Clearing V moves HEAD past the refused record (14 R386). -/
theorem execLqerrClear_cleared {s : State} {part fn q : Nat} (hl : pageDead s part fn = false) (hq : q < 8)
    (hv : bit (tget 0 (partOf s.hub part).lqerr (8 * fn + q)).toNat 63 = true) :
    execLqerrClear part fn q s = .next { s with hub := modPart s.hub part fun p => { p with
      lqerr := tput 0 p.lqerr (8 * fn + q) (tget 0 p.lqerr (8 * fn + q) &&& 0x7FFFFFFFFFFFFFFF)
      lqhead := tput 0 p.lqhead (8 * fn + q) (tget 0 p.lqhead (8 * fn + q) + 1) } } := by
  have hgo : ¬(pageDead s part fn = true ∨ 8 ≤ q ∨ (!bit (tget 0 (partOf s.hub part).lqerr (8 * fn + q)).toNat 63) = true) := by
    rw [hl, hv]
    simp [hq]
  exact if_neg hgo

theorem execEvdbWrite_added {s : State} {part fn e : Nat} {v : Word} (hl : pageDead s part fn = false) (he : e < 64) :
    execEvdbWrite part fn e v s = .next { s with hub := modPart s.hub part fun p => addEvent p fn e v } := by
  have hgo : ¬(pageDead s part fn = true ∨ 64 ≤ e) := by
    simp only [hl, Bool.false_eq_true, false_or]
    omega
  exact if_neg hgo

/-! ### Resume, abort, purge, save (15 R427, R428) -/

section
variable {s : State} {part fn rid : Nat} {v : Word} {r : Region}

/-- An RCMD that finds its launch, with BUSY clear, acts on it (15 R427). -/
theorem rcmd_found (body : Nat → Region → State) (hl : pageDead s part fn = false) (hb : tget false (partOf s.hub part).rbusy fn = false)
    (hr : rcmdLaunch s part fn v = some (rid, r)) : rcmd part fn v s body = .next (body rid r) := by
  simp only [rcmd, hl, hb, hr, Bool.false_eq_true, if_false]

variable (hl : pageDead s part fn = false) (hb : tget false (partOf s.hub part).rbusy fn = false)

include hl hb in
theorem execRcmdResume_owner (hr : rcmdLaunch s part fn v = some (rid, r)) (ho : r.owner = none) :
    execRcmdResume part fn v s = .next (if r.phase ≠ 4 then rstat s part fn 2 else rstat
      (restartPair (withFab s (setPhase s.fab rid fun r => { r with phase := 1, restart := true })) rid) part fn 0) := by
  rw [execRcmdResume, rcmd_found _ hl hb hr]
  simp only [ho, Option.isSome_none, Bool.false_eq_true, if_false]
  rfl

include hl hb in
theorem execRcmdAbort_owner (hr : rcmdLaunch s part fn v = some (rid, r)) (ho : r.owner = none) :
    execRcmdAbort part fn v s = .next (rstat ((withTwin s.fab rid).foldl abortRegion s) part fn 0) := by
  rw [execRcmdAbort, rcmd_found _ hl hb hr]
  simp only [ho, Option.isSome_none, Bool.false_eq_true, if_false]

/-- Plane n of a region may be purged: its STRAY context still lives, some element has the plane retiring and none has it bound (15 R428, R445). -/
def purgeable (s : State) (g : Region) (n : Nat) : Prop :=
  (ctxOf g n).stray = true ∧ ctxLive g n = true ∧ (∃ k ∈ planeKeys g, (planeOf (elemOf s.fab k) n).st = .retiring) ∧
    ∀ k ∈ planeKeys g, (planeOf (elemOf s.fab k) n).st ≠ .bound

/-- The model's check of a purge is purgeable. -/
theorem purgeCheck_iff (s : State) (g : Region) (n : Nat) :
    ((ctxOf g n).stray && ctxLive g n && (planeKeys g).any (fun k => (planeOf (elemOf s.fab k) n).st == .retiring) &&
      (planeKeys g).all fun k => (planeOf (elemOf s.fab k) n).st != .bound) = true ↔ purgeable s g n := by
  simp [purgeable, and_assoc]

include hl hb in
theorem execRcmdPurge_purged {g : Region} (hr : rcmdLaunch s part fn v = some (rid, r)) (ho : r.owner = none) (hg : region? s.fab rid = some g)
    (hp : purgeable s g (fld v.toNat 32 2)) :
    execRcmdPurge part fn v s = .next (rstat ((withTwin s.fab rid).foldl (fun s q => retireCtx s q (fld v.toNat 32 2))
      (withFab s (((withTwin s.fab rid).flatMap fun q => ((region? s.fab q).map regionCores).getD []).foldl
        (fun f c => modCc f c (purgeCore (fld v.toNat 32 2))) s.fab))) part fn 0) := by
  rw [execRcmdPurge, rcmd_found _ hl hb hr]
  simp only [ho, Option.getD_none, hg, Option.any_some, (purgeCheck_iff s g _).mpr hp, Bool.not_true, Bool.false_eq_true, if_false]
  rfl

include hl hb in
theorem execRcmdPurge_refused {g : Region} (hr : rcmdLaunch s part fn v = some (rid, r)) (ho : r.owner = none) (hg : region? s.fab rid = some g)
    (hp : ¬purgeable s g (fld v.toNat 32 2)) : execRcmdPurge part fn v s = .next (rstat s part fn 2) := by
  rw [execRcmdPurge, rcmd_found _ hl hb hr]
  have hcheck := eq_false_of_ne_true (mt (purgeCheck_iff s g _).mp hp)
  simp only [ho, Option.getD_none, hg, Option.any_some, hcheck, Bool.not_false, if_true]

include hl hb in
theorem execRcmdSave_due (hr : rcmdLaunch s part fn v = some (rid, r)) (ho : r.owner = none) (h0 : fn = 0)
    (hn : r.w * r.h * (if r.twin.isSome then 2 else 1) ≤ (freeSlots (partOf s.hub part)).length) :
    execRcmdSave part fn v s = .next { s with
      fab := modRegion s.fab rid fun r => { r with saveDue := true }
      hub := modPart s.hub part fun p => { p with rbusy := tput false p.rbusy fn true } } := by
  rw [execRcmdSave, if_neg (fun h => h.1 h0), rcmd_found _ hl hb hr]
  simp only [if_neg (Nat.not_lt.mpr hn), ho, Option.isSome_none, Bool.false_eq_true, if_false]

include hl in
theorem execRcmdSave_notPage0 (h0 : fn ≠ 0) (hb : tget false (partOf s.hub part).rbusy fn = false) :
    execRcmdSave part fn v s = .next (rstat s part fn 4) :=
  if_pos (by simp [h0, hl, hb])

include hl hb in
theorem execRcmdRefusedOp_code6 : execRcmdRefusedOp part fn v s = .next (rstat s part fn 6) := by
  simp only [execRcmdRefusedOp, hl, hb, Bool.false_eq_true, if_false]

end

/-- A preload that its checks pass starts its loader (16 R440). -/
theorem execPlcmdWrite_starts {s : State} {part rid : Nat} {v : Word} {r : Region} (hl : pageDead s part 0 = false)
    (hb : (partOf s.hub part).plbusy = false)
    (hr : s.fab.regions.find? (fun q => q.2.owner.isNone && q.2.launch.part == part && q.2.launch.fn == fld v.toNat 36 5 &&
      q.2.launch.seq == v.setWidth 32) = some (rid, r)) (hok : preloadOk s.fab rid r (fld v.toNat 34 2) = true) :
    execPlcmdWrite part v s = .next { s with
      fab := openLoad s.fab { part := part, rid := none, fn := fld v.toNat 36 5, image := (partOf s.hub part).plimg, x0 := r.x0, y0 := r.y0,
                              w := r.w, h := r.h, plane := fld v.toNat 34 2, cold := false }
      hub := modPart s.hub part fun p => { p with plbusy := true, plnfr := 0 } } := by
  simp only [execPlcmdWrite, hl, hb, hr, hok, Bool.false_eq_true, if_false, Bool.not_true]

/-! ### Core windows (01 R28, R36-R38, 09 R273) -/

section
variable {s : State} {req : Requester} {core : Nat}

theorem execConfigSpaceWrite_written {addr : Nat} {x : BitVec 256} {f : Fab} (h : reach s req (.window core addr) = .ok) (ha : fld addr 21 7 < 100)
    (hw : cfgWrite s.fab (100 * core + fld addr 21 7) (fld addr 18 3) (fld addr 5 13) x = some f) :
    execConfigSpaceWrite req core addr x s = .next { s with fab := f, resp := [0] } := by
  simp only [execConfigSpaceWrite, h, if_neg (Nat.not_le.mpr ha), hw]

theorem execConfigSpaceWrite_invalid {addr : Nat} {x : BitVec 256} (h : reach s req (.window core addr) = .ok) (ha : fld addr 21 7 < 100)
    (hw : cfgWrite s.fab (100 * core + fld addr 21 7) (fld addr 18 3) (fld addr 5 13) x = none) :
    execConfigSpaceWrite req core addr x s = .next (refuse s req 0x10) := by
  simp only [execConfigSpaceWrite, h, if_neg (Nat.not_le.mpr ha), hw]

theorem execConfigSpaceWrite_abort {addr : Nat} {x : BitVec 256} (h : reach s req (.window core addr) = .abort) :
    execConfigSpaceWrite req core addr x s = .next (refuse s req 6) := by
  simp only [execConfigSpaceWrite, h]

theorem execConfigSpaceWrite_absent {addr : Nat} {x : BitVec 256} (h : reach s req (.window core addr) = .absent) :
    execConfigSpaceWrite req core addr x s = .next s := by
  simp only [execConfigSpaceWrite, h]

theorem execConfigSpaceWrite_reserved {addr : Nat} {x : BitVec 256} (h : reach s req (.window core addr) = .ok) (ha : 100 ≤ fld addr 21 7) :
    execConfigSpaceWrite req core addr x s = .next (refuse s req 0x10) := by
  simp only [execConfigSpaceWrite, h, if_pos ha]

variable (h : reach s req (.window core 0x10000000) = .ok)

include h in
theorem execCoreWindowCsrWrite_stopped {csr : Nat} {v : Word} (hs : 2 ≤ (ccOf s.fab core).state.toNat) :
    execCoreWindowCsrWrite req core csr v s = .next { s with
      fab := if csr = 0x42 then (if v.toNat % 4 = 0 then resumeCore s.fab core else s.fab) else modCc s.fab core fun c => csrPut c csr v
      resp := [0] } := by
  simp only [execCoreWindowCsrWrite, h, if_neg (Nat.not_lt.mpr hs)]

include h in
theorem execCoreWindowCsrWrite_running {csr : Nat} {v : Word} (hs : (ccOf s.fab core).state.toNat < 2) :
    execCoreWindowCsrWrite req core csr v s = .next (refuse s req 6) := by
  simp only [execCoreWindowCsrWrite, h, if_pos hs]

end

/-! ### Writes by offset (01 R25, 23 R490, R496) -/

/-- A write of 8 aligned bytes is the whole new value. -/
theorem mergeBytes_whole (old : Word) {off : Nat} (v : Word) (h : off % 8 = 0) : mergeBytes old off 8 v = v := by
  have hset : setFld old.toNat 0 64 v.toNat = v.toNat := by
    simp only [setFld, fld]
    omega
  rw [mergeBytes, h, Nat.mul_zero, hset, BitVec.ofNat_toNat, BitVec.setWidth_eq]

/-- An access of 8 aligned bytes meets what stands at its place. -/
theorem access_aligned (s : State) (req : Requester) {off : Nat} (h : off % 8 = 0) : access s req off 8 = reach s req (mmioPlace off) :=
  if_neg (by omega)

/-- What an access meets does not depend on the answer that stands. -/
theorem access_resp (s : State) (l : List Word) (req : Requester) (off size : Nat) :
    access { s with resp := l } req off size = access s req off size := rfl

/-- What an access of a wrong size or alignment meets: a completer abort for the host, MISALIGN for a device agent (01 R25). -/
def misalignReach : Requester → Reach
  | .host _ _ => .abort
  | .agent _ => .misalign
  | .mgmt _ => .misalign

section
variable {s : State} {req : Requester} {off size : Nat} (h : (size ≠ 4 ∧ size ≠ 8) ∨ off % size ≠ 0)
  (hr : reach s req (mmioPlace off) ≠ .absent)

include h hr

theorem access_misaligned : access s req off size = misalignReach req := by
  cases req with
  | host pf vf => exact if_pos h
  | agent part => exact (if_pos h).trans (if_neg hr)
  | mgmt part => exact (if_pos h).trans (if_neg hr)

/-- Such a write is refused with its code. -/
theorem execRegisterWrite_misaligned (v : Word) : execRegisterWrite req off size v s = .next (refuse s req 3) := by
  have ha := access_misaligned h hr
  cases req <;> simp only [execRegisterWrite, access_resp, ha, misalignReach] <;> rfl

/-- Such a read gives nothing. -/
theorem readReg_misaligned : readReg s req off size = (misalignReach req, 0) := by
  have ha := access_misaligned h hr
  cases req <;> simp only [readReg, ha, misalignReach]

end

/-- The place of an offset of a partition's block (01 R25). -/
theorem mmioPlace_block {part o : Nat} (hp : part < 4) (ho : o < 2 ^ 32) : mmioPlace (2 ^ 32 * (part + 1) + o) = .block part o := by
  have hdiv : (2 ^ 32 * (part + 1) + o) / 2 ^ 32 - 1 = part := by omega
  have hmod : (2 ^ 32 * (part + 1) + o) % 2 ^ 32 = o := by omega
  rw [mmioPlace, if_neg (by omega), if_pos (by omega), hdiv, hmod]

/-- The host's own function reaches its partition's block, but for the pages of a partition in reset (01 R26, R43, 23 R490, R505). -/
theorem reach_block {s : State} {part o : Nat} (hs : s.sec.stage ≠ 4) (hr : 0x10000 ≤ o → (partOf s.hub part).prstState ≠ 0) :
    reach s (.host part 0) (.block part o) = .ok := by
  have h4 : ¬(s.sec.stage = 4 ∧ part ≠ 0) := fun h => hs h.1
  have hpage : ¬(0x10000 ≤ o ∧ (partOf s.hub part).prstState = 0) := fun h => hr h.1 h.2
  simp only [reach, if_neg h4, if_neg hpage]
  simp

section
variable {s : State} {pf part o off : Nat} (h8 : off % 8 = 0) (hplace : mmioPlace off = .block part o)
  (hreach : reach s (.host pf 0) (.block part o) = .ok)

include h8 hplace hreach

theorem access_block : access s (.host pf 0) off 8 = .ok := by rw [access_aligned s _ h8, hplace, hreach]

/-- A whole register of a function page takes the value through the page (01 R26). -/
theorem execRegisterWrite_page {f y : Nat} (v : Word) (hpage : pageOf o = some (f, y)) :
    execRegisterWrite (.host pf 0) off 8 v s = pageWrite { s with resp := [0] } part f y false v v true true := by
  have hacc := access_block h8 hplace hreach
  have hbase : off / 8 * 8 = off := Nat.div_mul_cancel (Nat.dvd_of_mod_eq_zero h8)
  simp only [execRegisterWrite, access_resp, hacc, hbase, hplace, hpage, mergeBytes_whole _ v h8, h8, beq_self_eq_true, bne_self_eq_false,
    Bool.true_or]

/-- A whole register of the reset and mailbox page takes the value through that page (23 R493, R496). -/
theorem execRegisterWrite_boot (v : Word) (hpage : pageOf o = none) (ho : o < 0x10000) :
    execRegisterWrite (.host pf 0) off 8 v s = bootWrite { s with resp := [0] } part o v v := by
  have hacc := access_block h8 hplace hreach
  have hbase : off / 8 * 8 = off := Nat.div_mul_cancel (Nat.dvd_of_mod_eq_zero h8)
  simp only [execRegisterWrite, access_resp, hacc, hbase, hplace, hpage, mergeBytes_whole _ v h8, if_pos ho]

end

/-- The first register of a function page (01 R26). -/
theorem pageOf_pageBase {fn : Nat} (h : fn ≤ 16) : pageOf (pageBase fn) = some (fn, 0) := by
  by_cases h0 : fn = 0
  · subst h0
    rfl
  · have hdiv : (0x100000 + fn * 0x10000 - 0x100000) / 0x10000 = fn := by omega
    have hmod : (0x100000 + fn * 0x10000) % 0x10000 = 0 := by omega
    rw [pageBase, if_neg h0, pageOf, if_neg (by omega), if_pos (by omega), hdiv, hmod]

/-- PTROOT takes a write of its physical function (02 R53). -/
theorem pageWrite_ptroot {s : State} {part fn : Nat} {w x : Word} (h : fn ≤ vfCnt (partOf s.hub part)) :
    pageWrite s part fn 0 false w x true true = .next { s with
      hub := modPart s.hub part fun p => { p with ptroot := tput 0 p.ptroot fn (w &&& 0x8000FFFFFFFFFF80) } } := by
  simp [pageWrite, pageFields, Nat.not_lt.mpr h, onHub]

theorem execRegisterWrite_ptroot {s : State} {part fn : Nat} {v : Word} (hp : part < 4) (hf : fn ≤ 16) (hv : fn ≤ vfCnt (partOf s.hub part))
    (hr : (partOf s.hub part).prstState ≠ 0) (hs : s.sec.stage ≠ 4) :
    execRegisterWrite (.host part 0) (2 ^ 32 * (part + 1) + pageBase fn) 8 v s = .next { s with
      hub := modPart s.hub part fun p => { p with ptroot := tput 0 p.ptroot fn (v &&& 0x8000FFFFFFFFFF80) }, resp := [0] } := by
  have hbase : pageBase fn < 2 ^ 32 ∧ pageBase fn % 8 = 0 := by
    unfold pageBase
    split <;> omega
  obtain ⟨hlt, h8⟩ := hbase
  rw [execRegisterWrite_page (by omega) (mmioPlace_block hp hlt) (reach_block hs fun _ => hr) v (pageOf_pageBase hf)]
  exact pageWrite_ptroot hv

/-- A partition whose mailbox has been given a request (23 R496). -/
def mbctlStarted (v : Word) (p : Part) : Part :=
  { p with mbLen := BitVec.ofNat 16 (fld v.toNat 32 16), mbOp := BitVec.ofNat 8 (fld v.toNat 8 8), mbBusy := true }

/-- MBCTL takes a request with GO while the mailbox is free (23 R496). -/
theorem mbctlWrite_go {p : Part} {v : Word} (hb : p.mbBusy = false) (hgo : v.toNat % 2 = 1) (hn : fld v.toNat 32 16 ≤ 4096) :
    mbctlWrite p v v = mbctlStarted v p := by
  have hbit : bit v.toNat 0 = true := by simp [bit, hgo]
  simp only [mbctlWrite, hb, hbit, Bool.false_eq_true, if_false, Bool.not_true, if_neg (Nat.not_lt.mpr hn)]
  rfl

/-- Changes of a partition that agree on it are one change of the hub. -/
theorem modPart_congr {h : Hub} {n : Nat} {f g : Part → Part} (hfg : f (partOf h n) = g (partOf h n)) : modPart h n f = modPart h n g :=
  congrArg (fun p => { h with parts := tins h.parts n p }) hfg

theorem execRegisterWrite_mbctl {s : State} {part : Nat} {v : Word} (hp : part < 4) (hs : s.sec.stage ≠ 4) (hb : (partOf s.hub part).mbBusy = false)
    (hgo : v.toNat % 2 = 1) (hn : fld v.toNat 32 16 ≤ 4096) :
    execRegisterWrite (.host part 0) (2 ^ 32 * (part + 1) + 0x100) 8 v s =
      .next { s with hub := modPart s.hub part (mbctlStarted v), resp := [0] } := by
  have hwrite : execRegisterWrite (.host part 0) (2 ^ 32 * (part + 1) + 0x100) 8 v s =
      .next { s with hub := modPart s.hub part fun p => mbctlWrite p v v, resp := [0] } :=
    execRegisterWrite_boot (by omega) (mmioPlace_block hp (by omega)) (reach_block hs (by omega)) v rfl (by omega)
  have hpart : modPart s.hub part (fun p => mbctlWrite p v v) = modPart s.hub part (mbctlStarted v) := modPart_congr (mbctlWrite_go hb hgo hn)
  rw [hwrite, hpart]

/-- DTADJ in the hub common block takes a write of physical function 0, whatever the stage (23 R490, R506). -/
theorem execRegisterWrite_dtadj (s : State) (v : Word) :
    execRegisterWrite (.host 0 0) 0x210 8 v s = .next { s with clk := { s.clk with offset := v.setWidth 32 }, resp := [0] } := by
  have hreach : reach s (.host 0 0) (.hub 0x210) = .ok := by simp [reach]
  have hacc : access s (.host 0 0) 0x210 8 = .ok := (access_aligned s _ rfl).trans hreach
  have hplace : mmioPlace (0x210 / 8 * 8) = .hub 0x210 := rfl
  simp only [execRegisterWrite, access_resp, hacc, hplace, mergeBytes_whole _ v (show 0x210 % 8 = 0 from rfl)]
  rfl

/-! ### Configuration requests of the host (23 R490, R491, R504) -/

section
variable {s : State} (h : s.sec.stage = 3)

include h

theorem execVfEnableWrite_ready (pf n : Nat) (en : Bool) : execVfEnableWrite pf n en s =
    .next { s with hub := modPart s.hub pf fun p => { p with numVfs := n, vfen := en && decide (n ≤ vfCnt p) } } := by
  rw [execVfEnableWrite, if_neg (by simp [h]), if_neg (by simp [h])]
  rfl

theorem execHdmDecoderCommit_ready (pf : Nat) :
    execHdmDecoderCommit pf s = .next { s with hub := modPart s.hub pf fun p => { p with hdm := true } } := by
  rw [execHdmDecoderCommit, if_neg (by simp [h]), if_neg (by simp [h])]
  rfl

end

/-- Settles O55: each access by the lemma of its clause above. -/
theorem hostAccessEvents : Obligations.HostAccessEvents := by
  intro s part fn v p live onPart
  refine ⟨?xinv, xinvCmd_reserved, fun q tail hl hq => ⟨execLqdbWrite_taken hl hq, execLqerrClear_cleared hl hq⟩,
    fun e => execEvdbWrite_added, ?rcmd, execRcmdSave_notPage0, execRcmdRefusedOp_code6 (v := v),
    fun rid r => execPlcmdWrite_starts, ?window, fun req off size h hr => ?misaligned,
    execRegisterWrite_ptroot, execRegisterWrite_dtadj s v, execRegisterWrite_mbctl, fun off mask x => ⟨rfl, rfl, rfl, rfl⟩, fun a => rfl,
    fun h3 => ⟨execVfEnableWrite_ready h3 part, execHdmDecoderCommit_ready h3 part⟩, fun h3 => ⟨fun n en => if_pos h3, if_pos h3⟩⟩
  case xinv =>
    intro op mk hmk hl hop hb h52 h5 hfn
    simp only [List.mem_cons, Prod.mk.injEq, List.not_mem_nil, or_false] at hmk
    rcases hmk with ⟨rfl, rfl⟩ | ⟨rfl, rfl⟩ | ⟨rfl, rfl⟩ <;> exact xinvCmd_accepted hl hop (by decide) hb h52 h5 hfn
  case rcmd =>
    intro rid r hl hb hr ho
    have hresume := execRcmdResume_owner hl hb hr ho
    refine ⟨fun hph => ?_, fun hph => ?_, execRcmdAbort_owner hl hb hr ho, fun g hg h1 h2 h3 h4 => ?_, fun g hg h1 => ?_, fun h0 hn => ?_⟩
    · exact hresume.trans (by rw [if_pos hph])
    · exact hresume.trans (by rw [if_neg (not_not_intro hph)])
    · exact execRcmdPurge_purged hl hb hr ho hg ⟨h1, h2, h3, h4⟩
    · refine execRcmdPurge_refused hl hb hr ho hg ?_
      rintro ⟨hstray, -, -, hfree⟩
      rcases h1 with h | ⟨k, hk, hbound⟩
      · exact absurd (h.symm.trans hstray) Bool.false_ne_true
      · exact hfree k hk hbound
    · exact execRcmdSave_due hl hb hr ho h0 hn
  case window =>
    intro req core addr x
    refine ⟨fun h ha => ⟨fun f => execConfigSpaceWrite_written h ha, execConfigSpaceWrite_invalid h ha⟩, execConfigSpaceWrite_reserved,
      execConfigSpaceWrite_abort, execConfigSpaceWrite_absent,
      fun h => ⟨fun hs hcsr => ?_, execCoreWindowCsrWrite_stopped h, execCoreWindowCsrWrite_running h⟩⟩
    exact (execCoreWindowCsrWrite_stopped h hs).trans (by rw [if_neg hcsr])
  case misaligned =>
    refine ⟨execRegisterWrite_misaligned h hr v, (readReg_misaligned h hr).trans ?_⟩
    cases req <;> rfl

end Sys2Proof.Machine
end

section
/-! SUPPORT. A store whose token stands in a queue word with an uncorrectable error does not issue (04 R119, 21 R471). -/

namespace Sys2Proof.Machine

@[simp] theorem elemOf_raiseFault (f : Fab) (core ctx : Nat) (x : FaultRec) (k : Nat) : elemOf (raiseFault f core ctx x) k = elemOf f k := by
  unfold raiseFault
  split <;> rfl

@[simp] theorem elemOf_askCapacity (f : Fab) (key plane : Nat) (code : Word) (round : BitVec 32) (k : Nat) :
    elemOf (askCapacity f key plane code round) k = elemOf f k := by
  unfold askCapacity
  split
  · rfl
  split
  · rfl
  · exact elemOf_raiseFault _ _ _ _ _

@[simp] theorem elemOf_strRaise (s : State) (key n i : Nat) (round : BitVec 32) (cause : Nat) (a b : Word) (k : Nat) :
    elemOf (strRaise s key n i round cause a b).fab k = elemOf s.fab k := elemOf_raiseFault _ _ _ _ _

@[simp] theorem ag_modStr (f : Fab) (key n i : Nat) (g : StreamSt → StreamSt) : (elemOf (modStr f key n i g) key).ag = (elemOf f key).ag := by
  rw [modStr, elemOf_modElem_same]
  rfl

@[simp] theorem ag_strRefill (s : State) (key n i fn va : Nat) (half : Option (Nat × Nat)) :
    (elemOf (strRefill s key n i fn va half).fab key).ag = (elemOf s.fab key).ag := by
  unfold strRefill
  split <;> exact ag_modStr _ _ _ _ _

/-- A head in a bad word is not popped, and no element changes (21 R471). -/
theorem popPlane_badHead {t : Token} (ht : t.bad = true) (f : Fab) (key plane sel : Nat) :
    (popPlane f key plane sel t).2 = false ∧ ∀ k, elemOf (popPlane f key plane sel t).1 k = elemOf f k := by
  simp only [popPlane, if_pos ht]
  refine ⟨trivial, fun k => ?_⟩
  split
  · rfl
  · exact elemOf_raiseFault _ _ _ _ _

/-- Whatever a store of such a head meets, its node's hold side stays as it was (04 R119, 21 R471). -/
theorem ag_storeIssue_badHead {t : Token} (ht : t.bad = true) (s : State) (key n i : Nat) :
    (elemOf (storeIssue s key n i t).fab key).ag = (elemOf s.fab key).ag := by
  obtain ⟨hpop, helems⟩ := popPlane_badHead ht s.fab key n (strQ (planeOf (elemOf s.fab key) n) i)
  simp only [storeIssue, hpop]
  split
  · simp
  split
  · simp
  · simp
  · split
    · simp
    · exact congrArg Elem.ag (helems key)

/-- A store that enters the hold side stands there, in an entry of its own or in that of its line (04 R119). -/
theorem holdPut_ne_nil (l : List Held) (x : Held) : holdPut l x ≠ [] := by
  cases l with
  | nil => exact List.cons_ne_nil _ _
  | cons h r =>
    simp only [holdPut]
    split
    · exact List.cons_ne_nil _ _
    · exact List.cons_ne_nil _ _

/-- It takes at most one entry more. -/
theorem length_holdPut_le (l : List Held) (x : Held) : (holdPut l x).length ≤ l.length + 1 := by
  simp only [holdPut]
  split
  · rw [List.length_map]
    exact Nat.le_succ _
  · rw [List.length_append, List.length_singleton]

/-- A leaf that maps function 0's first page of partition 0 to the host window, readable and writable (02 R49, R52). -/
def hostLeaf : TEnt := { lg := 12, leaf := 0x80000000000D }

/-- A data token whose queue word has an uncorrectable error. -/
def badToken : Token := { bad := true }

/-- AG node 1 with stream 0 of plane 0 bound as a write stream of one access at address 0 from queue 0x20 (EN, DIR, QSEL; 04 R115), its entry at hand,
and the bad token at the queue's head. -/
def badHeadNode : Elem :=
  { net := { rx := [(0x20, [badToken])] }
    planes := [(0, { st := .bound
                     frames := [(0, BitVec.ofNat 256 (2 ^ 64 + 2 ^ 96 + 2 ^ 128 + 2 ^ 160 + 2 ^ 192 + 2 ^ 224)),
                                (2, BitVec.ofNat 256 (2 ^ 32 + 2 ^ 34 + 0x20 * 2 ^ 56))]
                     run := { streams := [(0, { tent := some hostLeaf })] } })] }

/-- The machine with that node in a region of one core. -/
def badHeadState : State :=
  { State.reset with
    fab := { elems := [(1, badHeadNode)]
             regions := [(0, { launch := { lrec := 0, part := 0, fn := 0, queue := 0, index := 0, seq := 0 }
                               x0 := 0, y0 := 0, w := 1, h := 1, plane := 0, started := true, ctxs := [(0, {})] })] } }

/-- Stream 0 of the node has the next access, and nothing stops it before its store (04 R116). -/
theorem badHeadState_turn : kindOf 1 = .ag ∧ halted badHeadState.fab 1 = false ∧ (elemOf badHeadState.fab 1).issued.contains .memory = false ∧
    ringPick badHeadState.fab 1 = some 0 ∧ dbgHit (elemOf badHeadState.fab 1) 0 0 0 = false ∧ strBad (planeOf (elemOf badHeadState.fab 1) 0) 0 = none := by
  decide +kernel

/-- The stream is a write stream to memory whose entry covers the one line that its access touches, with the bad token as its head. -/
theorem badHeadState_store :
    let p := planeOf (elemOf badHeadState.fab 1) 0
    strDir p 0 = true ∧ strSpace p 0 = false ∧ strAcc p 0 = false ∧ (strSt p 0).tent = some hostLeaf ∧ (strSt p 0).half = none ∧
      headOf (elemOf badHeadState.fab 1) (strQ p 0) = some badToken ∧ logsBack 1 p (strQ p 0) = false ∧
      nestAddr p 0 (strSt p 0).pos = 0 ∧ strSize p 0 = 64 ∧ alignBad (strLatch p 0 % 256) 0 = false ∧
      tCovers hostLeaf (corePartOf badHeadState.fab (keyCore 1)) (planeFn 1 p) 0 = true ∧ tCheck badHeadState.hub hostLeaf 0 1 false = none := by
  decide +kernel

/-- Refutes O49: the clause of a store whose entry covers its address does not ask that the token's queue word be good. With an uncorrectable error in
that word (21 R471) nothing enters the hold side; the fault UNCORR waits at the round controller in its place. -/
theorem not_streamEvents : ¬ Obligations.StreamEvents := by
  unfold Obligations.StreamEvents
  intro h
  obtain ⟨hkind, hhalt, hissued, hring, hdbg, hbad⟩ := badHeadState_turn
  obtain ⟨hdir, hspace, hacc, htent, hhalf, hhead, hlog, haddr, hsize, halign, hcovers, hcheck⟩ := badHeadState_store
  obtain ⟨-, hturn⟩ := (h badHeadState 1).1 0 hkind hhalt hissued hring
  obtain ⟨-, hissue, hcovered, -⟩ := hturn (by decide) hdbg hbad
  have hexec := hissue badToken hdir hhead
  rw [if_neg (by rw [hacc]; decide), if_neg (by rw [hspace]; decide)] at hexec
  have hcover : ∀ y ∈ lineSpan 0 64, y < 2 ^ 52 ∧ tCovers hostLeaf (corePartOf badHeadState.fab (keyCore 1))
      (planeFn 1 (planeOf (elemOf badHeadState.fab 1) 0)) y = true ∧ tCheck badHeadState.hub hostLeaf y (b2n true) false = none := by
    intro y hy
    obtain rfl : y = 0 := List.mem_singleton.mp hy
    exact ⟨by decide, hcovers, hcheck⟩
  obtain ⟨u, hclaimed, hhold, -⟩ := (hcovered hostLeaf htent hhalf hspace hacc (by rw [hdir, haddr, hsize]; exact hcover)).2 badToken hdir hhead hlog
    (by rw [haddr]; exact halign) (by rw [haddr, hsize]) ((length_holdPut_le _ _).trans (by decide))
  rw [hexec, Host.Outcome.next.injEq] at hclaimed
  have hempty : (elemOf u.fab 1).ag.hold = [] := by
    rw [← hclaimed, ag_storeIssue_badHead rfl]
    rfl
  rw [hempty] at hhold
  exact holdPut_ne_nil _ _ hhold.symm

end Sys2Proof.Machine
end

section
/-! SUPPORT. What the firing of a slot does to the fabric: it changes elements, whose scratchpads and local stores it leaves, and regions, and nothing
else (07 R192, 08 R234). -/

namespace Sys2Proof.Machine

/-! ### Moves of a firing -/

/-- Two states of an element hold the same scratchpad and local store. -/
def SameTiles (e e' : Elem) : Prop := e'.mt.data = e.mt.data ∧ e'.ct.ls = e.ct.ls

theorem SameTiles.refl (e : Elem) : SameTiles e e := ⟨rfl, rfl⟩

theorem SameTiles.trans {a b c : Elem} (h : SameTiles a b) (k : SameTiles b c) : SameTiles a c := ⟨k.1.trans h.1, k.2.trans h.2⟩

/-- The fabrics that a slot's firing may make of f: by changes of elements that leave their scratchpads and local stores, and by changes of
regions. -/
inductive SlotMoves (f : Fab) : Fab → Prop
  | refl : SlotMoves f f
  | elem {g : Fab} {key : Nat} {h : Elem → Elem} : SlotMoves f g → (∀ e, SameTiles e (h e)) → SlotMoves f (modElem g key h)
  | region {g : Fab} {rid : Nat} {h : Region → Region} : SlotMoves f g → SlotMoves f (modRegion g rid h)

namespace SlotMoves

/-- An element changes, and its memories stay. -/
theorem sameTiles_modElem {f : Fab} {key : Nat} {h : Elem → Elem} (hs : SameTiles (elemOf f key) (h (elemOf f key))) (k : Nat) :
    SameTiles (elemOf f k) (elemOf (modElem f key h) k) := by
  by_cases hk : k = key
  · subst hk
    rwa [elemOf_modElem_same]
  · rw [elemOf_modElem_ne f h hk]
    exact SameTiles.refl _

/-- No move changes a scratchpad or a local store. -/
theorem sameTiles {f g : Fab} (h : SlotMoves f g) (k : Nat) : SameTiles (elemOf f k) (elemOf g k) := by
  induction h with
  | refl => exact SameTiles.refl _
  | elem _ hs ih => exact ih.trans (sameTiles_modElem (hs _) k)
  | region _ ih => exact ih

variable {f g : Fab} {x : FireCtx} {key plane sel : Nat}

theorem modMt {u : MtSt → MtSt} (h : SlotMoves f g) (hu : ∀ m, (u m).data = m.data) : SlotMoves f (modMt g key u) :=
  h.elem fun e => ⟨hu e.mt, rfl⟩

theorem raiseFault {core ctx : Nat} {y : FaultRec} (h : SlotMoves f g) : SlotMoves f (raiseFault g core ctx y) := by
  unfold Machine.raiseFault
  split
  · exact h
  · exact h.region

theorem slotRaise {cause : Nat} {q : Option Nat} {a b : Nat} (h : SlotMoves f g) : SlotMoves f (slotRaise g x cause q a b) := h.raiseFault

theorem busy {ctx : Nat} (h : SlotMoves f g) : SlotMoves f (busy g key ctx) := by
  unfold Machine.busy
  split
  · exact h
  · exact h.region

/-! ### Pops, emission, writes of the tile cycle (07 R192, 08 R230-R234, 11 R308-R311) -/

theorem markFired (h : SlotMoves f g) : SlotMoves f (markFired g x) := h.busy.elem fun _ => ⟨rfl, rfl⟩

theorem popQ (h : SlotMoves f g) : SlotMoves f (popQ g key sel) := by
  unfold Machine.popQ
  dsimp only
  split
  · exact h
  have hpop {u : Elem → Elem} (hu : ∀ e, SameTiles e (u e)) : SlotMoves f (modElem g key u) := h.elem hu
  split
  · exact hpop fun _ => ⟨rfl, rfl⟩
  · exact SlotMoves.elem (hpop fun _ => ⟨rfl, rfl⟩) fun _ => ⟨rfl, rfl⟩

theorem popFor (h : SlotMoves f g) : SlotMoves f (popFor g x sel) := by
  unfold Machine.popFor
  extract_lets g'
  have hg : SlotMoves f g' := h.popQ.elem fun _ => ⟨rfl, rfl⟩
  split
  · exact h
  · exact ite_keeps (hg.elem fun _ => ⟨rfl, rfl⟩) hg

theorem popAll (h : SlotMoves f g) : SlotMoves f (popAll g x) := foldl_keeps h fun _ _ h1 => h1.popFor

theorem pushOut {t : Token} (h : SlotMoves f g) : SlotMoves f (pushOut g key sel t) := h.elem fun _ => ⟨rfl, rfl⟩

theorem addPend {q : PendW} (h : SlotMoves f g) : SlotMoves f (addPend g x q) := h.elem fun _ => ⟨rfl, rfl⟩

theorem putPwe {c : Bool} (h : SlotMoves f g) : SlotMoves f (putPwe g x c) := ite_keeps h.addPend h

theorem putResult {v : Line} {c : Bool} {l : BitVec 3} (h : SlotMoves f g) : SlotMoves f (putResult g x v c l) := by
  unfold Machine.putResult
  refine SlotMoves.putPwe ?_
  split
  · exact h.addPend
  · exact h.addPend
  · exact h.addPend
  · exact h.pushOut
  · exact h.pushOut
  · exact h

theorem emitTo {t : Token} (h : SlotMoves f g) : SlotMoves f (emitTo g x sel t) := ite_keeps h h.pushOut

theorem forwardOne {src : Nat} (h : SlotMoves f g) : SlotMoves f (forwardOne g x src) := h.popAll.emitTo.putPwe

theorem modSelf {u : SlotSt → SlotSt} (h : SlotMoves f g) : SlotMoves f (modSelf g x u) := h.elem fun _ => ⟨rfl, rfl⟩

theorem modHalf {i : Nat} {u : Half → Half} (h : SlotMoves f g) : SlotMoves f (modHalf g key i u) := h.elem fun _ => ⟨rfl, rfl⟩

theorem modAcc {j : Nat} {u : MAcc → MAcc} (h : SlotMoves f g) : SlotMoves f (modAcc g x j u) := h.elem fun _ => ⟨rfl, rfl⟩

theorem pairInc (h : SlotMoves f g) : SlotMoves f (pairInc x sel g) := h.addPend

theorem lsInc (h : SlotMoves f g) : SlotMoves f (lsInc x g) := ite_keeps h.pairInc h

theorem lsTwice {rot a n : Nat} (h : SlotMoves f g) : SlotMoves f (lsTwice x rot a n g) := by
  unfold Machine.lsTwice
  split
  · exact ite_keeps (h.elem fun _ => ⟨rfl, rfl⟩) h
  · exact h

/-! ### Requests and replies of memory tiles (13 R371-R378) -/

theorem emitReply {l : BitVec 3} {hdr : Option (BitVec 16)} {v : Line} (h : SlotMoves f g) : SlotMoves f (emitReply g key plane sel l hdr v) := by
  unfold Machine.emitReply
  refine ite_keeps h (SlotMoves.pushOut ?_)
  split
  · exact h
  · exact ite_keeps h (h.pushOut.elem fun _ => ⟨rfl, rfl⟩)

theorem emitPass {src : Nat} {t : Token} (h : SlotMoves f g) : SlotMoves f (emitPass g key plane src sel t) := ite_keeps h h.pushOut

theorem groupReply {q : MemReq} {v : Line} (h : SlotMoves f g) : SlotMoves f (groupReply g key q v) := h.emitReply

theorem acqDone {q : MemReq} (h : SlotMoves f g) : SlotMoves f (acqDone g key q) := ite_keeps (h.elem fun _ => ⟨rfl, rfl⟩) h

theorem bankPush {q : MemReq} {rr : Option Nat} (h : SlotMoves f g) : SlotMoves f (bankPush g key q rr) := h.modMt fun _ => rfl

theorem groupSend {q : MemReq} {els : Line} (h : SlotMoves f g) : SlotMoves f (groupSend g key q els) :=
  ite_keeps h.groupReply.acqDone (h.modMt fun _ => rfl)

theorem sectReads {q : MemReq} (h : SlotMoves f g) : SlotMoves f (sectReads g key q) := by
  unfold Machine.sectReads
  refine h.modMt fun m => ?_
  split <;> rfl

theorem memSend {q : MemReq} {els : Line} (h : SlotMoves f g) : SlotMoves f (memSend g x q els) := by
  unfold Machine.memSend
  extract_lets isGrp e q1 g1 hold send g2
  have hhold {d : Option Nat} {g : Fab} (h : SlotMoves f g) : SlotMoves f (hold d g) := ite_keeps (h.elem fun _ => ⟨rfl, rfl⟩) h
  have hsend {g : Fab} {q : MemReq} (h : SlotMoves f g) : SlotMoves f (send g q) := ite_keeps h.groupSend h.bankPush
  have h1 : SlotMoves f g1 := h.modMt fun _ => rfl
  have h2 : SlotMoves f g2 := ite_keeps (h1.modMt fun _ => rfl) h1
  split
  · exact hsend (hhold h1).sectReads
  · exact ite_keeps ((hhold h2).elem fun _ => ⟨rfl, rfl⟩) (hsend (hhold h1))

end SlotMoves

/-! ### The slot operations -/

/-- An operation answers, where it answers a next state, the present one with a fabric that a firing's moves reach. -/
def OutMoves (s : State) : Out → Prop
  | .next t => ∃ g, t = withFab s g ∧ SlotMoves s.fab g
  | .fault _ => True
  | .refused _ => True

theorem outMoves_wait (s : State) : OutMoves s (.next s) := ⟨s.fab, rfl, .refl⟩

theorem outMoves_onFab {s : State} {g : Fab → Fab} (h : SlotMoves s.fab (g s.fab)) : OutMoves s (onFab s g) := ⟨_, rfl, h⟩

section
variable {s : State} {op : Nat} {w : Slot}

/-- A firing moves as its body moves. -/
theorem fire_moves {body : FireCtx → Fab → Fab} (h : ∀ x f g, SlotMoves f g → SlotMoves f (body x g)) : OutMoves s (fire s op w body) := by
  unfold fire
  dsimp only
  split
  · split
    · exact outMoves_onFab SlotMoves.refl.raiseFault
    split
    · exact outMoves_onFab SlotMoves.refl.markFired.slotRaise
    split
    · exact outMoves_onFab SlotMoves.refl.markFired.slotRaise
    · exact outMoves_onFab (h _ _ _ SlotMoves.refl.markFired)
  · exact outMoves_wait s

theorem vecFire_moves {fa fb : Nat} {lf : Slot → Line → Line → Line → Line × Bool} : OutMoves s (vecFire s op w fa fb lf) := by
  refine fire_moves fun _ _ _ h => ?_
  split
  · exact h.slotRaise
  · exact h.popAll.putResult

theorem vec_moves {lf : Slot → Line → Line → Line → Line × Bool} : OutMoves s (vec s op w lf) := vecFire_moves

theorem vhdr_moves : OutMoves s (vhdr s op w) := by
  refine fire_moves fun _ _ _ h => ?_
  split
  · exact h
  · refine SlotMoves.putPwe (SlotMoves.pushOut ?_)
    exact ite_keeps (h.popAll.pushOut.elem fun _ => ⟨rfl, rfl⟩) h.popAll

theorem execMload_moves : OutMoves s (execMload w s) := by
  refine fire_moves fun _ _ _ h => ?_
  dsimp only
  split
  · refine ite_keeps h.slotRaise ?_
    split
    · exact h.slotRaise
    · exact ite_keeps (SlotMoves.pairInc (h.popAll.modHalf.elem fun _ => ⟨rfl, rfl⟩)) (h.popAll.modHalf.elem fun _ => ⟨rfl, rfl⟩)
  split
  · exact h.slotRaise
  · exact h.popAll.modHalf

theorem mma_moves : OutMoves s (mma s op w) := by
  refine fire_moves fun x f g h => ite_keeps h.slotRaise ?_
  have hacc {u : MAcc → MAcc} {j : Nat} : SlotMoves f (modAcc (popAll g x) x j u) := h.popAll.modAcc
  have hpend {q : PendW} {c : Prop} [Decidable c] {g : Fab} (h : SlotMoves f g) : SlotMoves f (if c then addPend g x q else g) := ite_keeps h.addPend h
  have hhalf {i : Nat} {c : Prop} [Decidable c] {g : Fab} (h : SlotMoves f g) : SlotMoves f (if c then modHalf g x.key i halfRead else g) :=
    ite_keeps h.modHalf h
  exact hhalf (hhalf (hpend hacc))

theorem execMdrain_moves : OutMoves s (execMdrain w s) := by
  refine ite_keeps (outMoves_wait s) (fire_moves fun x f g h => ?_)
  extract_lets m q md r clr a rot
  have hclr : SlotMoves f (clr g) := ite_keeps h.popAll.modAcc h.popAll
  refine ite_keeps h.slotRaise (ite_keeps ?_ hclr.putResult)
  refine ite_keeps h.slotRaise (ite_keeps h.slotRaise (ite_keeps h.raiseFault ?_))
  exact SlotMoves.putPwe (SlotMoves.addPend (hclr.elem fun _ => ⟨rfl, rfl⟩))

theorem execDelay_moves : OutMoves s (execDelay w s) := by
  refine fire_moves fun _ _ _ h => ?_
  split
  · exact h
  · exact h.popAll.modSelf.emitTo.putPwe

theorem execFilt_moves : OutMoves s (execFilt w s) := by
  refine fire_moves fun _ _ _ h => ?_
  split
  · exact h
  · exact SlotMoves.putPwe (ite_keeps h.popAll.emitTo h.popAll)

theorem execRepl_moves : OutMoves s (execRepl w s) :=
  fire_moves fun _ _ _ h => SlotMoves.putPwe (foldl_keeps h.popAll fun _ _ h1 => h1.emitTo)

theorem execMergeO_moves : OutMoves s (execMergeO w s) := by
  refine fire_moves fun _ _ _ h => ?_
  split
  · exact h
  · exact h.forwardOne.modSelf

theorem join_moves {qb : Nat} {want : Nat → Nat → Bool × Bool} : OutMoves s (join s op w qb want) := by
  refine fire_moves fun x f g h => SlotMoves.putPwe ?_
  have hemit {c : Prop} [Decidable c] {q : Nat} {t : Token} {g : Fab} (h : SlotMoves f g) : SlotMoves f (if c then emitTo g x q t else g) :=
    ite_keeps h.emitTo h
  exact hemit (hemit h.popAll)

theorem execCnt_moves : OutMoves s (execCnt w s) :=
  fire_moves fun _ _ _ h => ite_keeps h.slotRaise (SlotMoves.putPwe (SlotMoves.emitTo (ite_keeps h.popAll.modSelf.emitTo h.popAll.modSelf)))

theorem execTagset_moves : OutMoves s (execTagset w s) := by
  refine fire_moves fun _ _ _ h => ?_
  split
  · exact h
  · exact h.popAll.emitTo.putPwe

theorem execTagchk_moves : OutMoves s (execTagchk w s) := by
  refine fire_moves fun _ _ _ h => ?_
  split
  · exact h
  · exact ite_keeps h.slotRaise h.forwardOne

theorem execCmpx_moves : OutMoves s (execCmpx w s) := by
  refine fire_moves fun _ _ _ h => ?_
  split
  · exact ite_keeps h.forwardOne.modSelf (ite_keeps h.slotRaise h.slotRaise)
  · exact h

theorem lsFire_moves {n : Nat} {body : FireCtx → Nat → Nat → Fab → Fab} (h : ∀ x a rot f g, SlotMoves f g → SlotMoves f (body x a rot g)) :
    OutMoves s (lsFire s op w n body) := by
  refine ite_keeps (outMoves_wait s) (fire_moves fun _ _ _ h1 => ?_)
  split
  · exact h1.slotRaise
  · exact h _ _ _ _ _ h1

theorem execLsld_moves : OutMoves s (execLsld w s) :=
  lsFire_moves fun _ _ _ _ _ h => ite_keeps h.slotRaise h.popAll.putResult.lsTwice.lsInc

theorem execLsst_moves : OutMoves s (execLsst w s) :=
  lsFire_moves fun _ _ _ _ _ h => ite_keeps h.slotRaise (ite_keeps h.slotRaise h.popAll.addPend.putPwe.lsTwice.lsInc)

theorem memFire_moves {kinds align size : Nat} {mk : FireCtx → MemReq → MemReq} {els : FireCtx → Line} :
    OutMoves s (memFire s op w kinds align mk size els) := by
  refine fire_moves fun _ _ _ h => ?_
  split
  · exact h
  split
  · exact h.slotRaise
  · exact h.popAll.memSend

theorem execLdSlot_moves : OutMoves s (execLdSlot w s) := by
  unfold execLdSlot
  exact memFire_moves

theorem execStSlot_moves : OutMoves s (execStSlot w s) := by
  unfold execStSlot
  exact memFire_moves

theorem slotAmo_moves : OutMoves s (slotAmo s op w) := by
  unfold slotAmo
  exact memFire_moves

theorem execOsecB_moves : OutMoves s (execOsecB w s) := by
  refine fire_moves fun _ _ _ h => ite_keeps h.slotRaise ?_
  split
  · exact h
  · exact h.popAll.elem fun _ => ⟨rfl, rfl⟩

theorem execOsecE_moves : OutMoves s (execOsecE w s) := by
  refine fire_moves fun _ _ _ h => ?_
  dsimp only
  split
  · exact h
  · exact ite_keeps h.slotRaise (h.popAll.modMt fun _ => rfl)

theorem execFenceM_moves : OutMoves s (execFenceM w s) :=
  fire_moves fun _ _ _ h => ite_keeps h.slotRaise (SlotMoves.emitTo (SlotMoves.popAll (h.elem fun _ => ⟨rfl, rfl⟩)))

theorem data_countUse (m : MtSt) (b n : Nat) : (countUse m b n).data = m.data := by
  unfold countUse quotaClear
  split <;> rfl

theorem execHrecv_moves : OutMoves s (execHrecv w s) := by
  refine fire_moves fun _ f _ h => ?_
  extract_lets g1 q q1 o g2
  have h1 : SlotMoves f g1 := h.modMt fun _ => rfl
  have h2 : SlotMoves f g2 := h1.popAll.modMt fun _ => rfl
  split
  · extract_lets v r g3
    have h3 : SlotMoves f g3 := h2.bankPush
    split
    · exact h1.slotRaise
    · exact h1.slotRaise
    · exact h1
    · exact h1.popAll.pushOut.pushOut
    · exact ite_keeps h1.slotRaise (ite_keeps h3 (h3.modMt fun m => data_countUse m _ _))
  · exact h1

theorem execHacc_moves : OutMoves s (execHacc w s) := by
  refine fire_moves fun _ _ _ h => ite_keeps h.slotRaise (ite_keeps h.slotRaise ?_)
  split
  · exact h.slotRaise
  · exact ite_keeps h.slotRaise (SlotMoves.putPwe (SlotMoves.pushOut (SlotMoves.pushOut (h.popAll.elem fun _ => ⟨rfl, rfl⟩))))

/-- Every slot operation moves as a firing does, whatever it answers (07 R192, 08 R234); operations that one function of the model performs stand
together. -/
theorem exec_slot_moves {i : Instr} {n : Nat} (hi : encodeSlot i = some n) : OutMoves s (exec i s) := by
  cases i <;> dsimp only [exec]
  case vaddF | vsubF | vmulF | vfma | vfms | vfnma | vminF | vmaxF | vabsF | vnegF | vrnd | vaddI | vsubI | vmulI | vmac | vminI | vmaxI | vabsI |
      vnegI | vshl | vshr | vsra | vand | vor | vxor | vandn | vcadd | vcsub | vcmul | vcmac | vcmulc | vcmacc | vconj | vcshr | vcrot | vcmpeq |
      vcmpne | vcmplt | vcmple | vcmpgt | vcmpge | vsel | vclamp | vsclL | vsclI | vrcp | vrsqrt | vexp2 | vlog2 | vrsum | vrmax | vrmin |
      vrdot | vrep | vperm | vperm2 | vrot | vzipl | vziph | vuzpe | vuzpo | vins | vext | vbitrev | vbfly | vbflyt => exact vec_moves
  case vcvt => exact vecFire_moves
  case vhdrF | vhdrS => exact vhdr_moves
  case mload => exact execMload_moves
  case mzero => exact fire_moves fun _ _ _ h => SlotMoves.modAcc (h.popAll.elem fun _ => ⟨rfl, rfl⟩)
  case mband => exact fire_moves fun _ _ _ h => ite_keeps h.slotRaise h.popAll.modAcc
  case mdrain => exact execMdrain_moves
  case mstat => exact fire_moves fun _ _ _ h => SlotMoves.putResult (ite_keeps h.popAll.modAcc h.popAll)
  case mmaBf16 | mmaFp16 | mmaFp8 | mmaFp4 | mmaI8 => exact mma_moves
  case pass | mergeC => exact fire_moves fun _ _ _ h => h.forwardOne
  case drop => exact fire_moves fun _ _ _ h => h.popAll.putPwe
  case delay => exact execDelay_moves
  case steer | lastm => exact fire_moves fun _ _ _ h => h.popAll.emitTo.putPwe
  case filt => exact execFilt_moves
  case repl => exact execRepl_moves
  case mergeO => exact execMergeO_moves
  case mergeU => exact fire_moves fun _ _ _ h => ite_keeps h.forwardOne.modSelf h.forwardOne
  case joinLt | joinEq | joinGt => exact join_moves
  case cnt => exact execCnt_moves
  case tagset => exact execTagset_moves
  case tagchk => exact execTagchk_moves
  case cmpx => exact execCmpx_moves
  case accRst => exact fire_moves fun _ _ _ h => ite_keeps h.popAll.emitTo.addPend.putPwe h.popAll
  case lsld => exact execLsld_moves
  case lsst => exact execLsst_moves
  case ldSlot => exact execLdSlot_moves
  case stSlot => exact execStSlot_moves
  case gather | scatter => exact memFire_moves
  case amoAddSlot | amoMinSlot | amoMaxSlot | amoAndSlot | amoOrSlot | amoXorSlot | amoXchgSlot | amoCasSlot => exact slotAmo_moves
  case osecB => exact execOsecB_moves
  case osecE => exact execOsecE_moves
  case fenceM => exact execFenceM_moves
  case hrecv => exact execHrecv_moves
  case hacc => exact execHacc_moves
  case flres => exact fire_moves fun _ _ _ h => SlotMoves.putPwe (h.popAll.elem fun _ => ⟨rfl, rfl⟩)
  all_goals exact nomatch hi

end

end Sys2Proof.Machine
end

section
/-! SUPPORT. Which bytes of scratchpads and local stores an operation writes: those of a set of one element's scratchpad, and no others (04 R102, R113,
05 R132, 13 R373). -/

namespace Sys2Proof.Machine

/-! ### What a change of the fabric writes -/

/-- Of the tile memories of f, g changes at most the bytes of P in the scratchpad of key. -/
def WritesOnly (key : Nat) (P : Nat → Prop) (f g : Fab) : Prop :=
  ∀ k a, mget (elemOf g k).ct.ls a = mget (elemOf f k).ct.ls a ∧
    ((k = key → ¬P a) → mget (elemOf g k).mt.data a = mget (elemOf f k).mt.data a)

namespace WritesOnly
variable {key : Nat} {P : Nat → Prop} {f g g' : Fab}

theorem refl : WritesOnly key P f f := fun _ _ => ⟨rfl, fun _ => rfl⟩

/-- A change outside the elements writes nothing. -/
theorem sameElems (h : WritesOnly key P f g) (he : g'.elems = g.elems) : WritesOnly key P f g' := by
  intro k a
  have hk : elemOf g' k = elemOf g k := congrArg (fun t => tget ({} : Elem) t k) he
  rw [hk]
  exact h k a

/-- The moves of a firing write nothing. -/
theorem moves (h : WritesOnly key P f g) (hm : SlotMoves g g') : WritesOnly key P f g' := by
  intro k a
  obtain ⟨hd, hl⟩ := hm.sameTiles k
  rw [hd, hl]
  exact h k a

theorem elem {k : Nat} {u : Elem → Elem} (h : WritesOnly key P f g) (hu : ∀ e, SameTiles e (u e)) : WritesOnly key P f (modElem g k u) :=
  h.moves (SlotMoves.refl.elem hu)

theorem region {rid : Nat} {u : Region → Region} (h : WritesOnly key P f g) : WritesOnly key P f (modRegion g rid u) := h.moves SlotMoves.refl.region

theorem core {n : Nat} {u : CC → CC} (h : WritesOnly key P f g) : WritesOnly key P f (modCc g n u) := h.sameElems rfl

theorem raiseFault {core ctx : Nat} {y : FaultRec} (h : WritesOnly key P f g) : WritesOnly key P f (raiseFault g core ctx y) :=
  h.moves SlotMoves.refl.raiseFault

/-- A change of key's tile that keeps the bytes outside P. -/
theorem write {u : MtSt → MtSt} (h : WritesOnly key P f g)
    (hu : ∀ a, ¬P a → mget (u (elemOf g key).mt).data a = mget (elemOf g key).mt.data a) : WritesOnly key P f (modMt g key u) := by
  intro k a
  obtain ⟨hl, hd⟩ := h k a
  by_cases hk : k = key
  · subst hk
    rw [modMt, elemOf_modElem_same]
    exact ⟨hl, fun hP => (hu a (hP rfl)).trans (hd hP)⟩
  · rw [modMt, elemOf_modElem_ne g _ hk]
    exact ⟨hl, hd⟩

/-- A change of key's tile that keeps its bytes. -/
theorem keep {u : MtSt → MtSt} (h : WritesOnly key P f g) (hu : ∀ m, (u m).data = m.data) : WritesOnly key P f (modMt g key u) :=
  h.write fun a _ => congrArg (mget · a) (hu _)

theorem mono {Q : Nat → Prop} (h : WritesOnly key P f g) (hPQ : ∀ a, P a → Q a) : WritesOnly key Q f g := fun k a =>
  ⟨(h k a).1, fun hQ => (h k a).2 fun hk hP => hQ hk (hPQ a hP)⟩

theorem cmdReply {core id reg : Nat} {v : Word} (h : WritesOnly key P f g) : WritesOnly key P f (cmdReply g core id reg v) := by
  have hd : WritesOnly key P f (cmdDone g core id) := h.core
  exact ite_keeps hd (hd.sameElems rfl)

theorem regionEvent {r : Region} {m : BitVec 6} (h : WritesOnly key P f g) : WritesOnly key P f (regionEvent g r m) :=
  foldl_keeps h fun _ _ h1 => h1.core

theorem sendDrift {did kind : Nat} {reply : Option (Nat × Nat × Nat)} (h : WritesOnly key P f g) : WritesOnly key P f (sendDrift g did kind reply) :=
  h.region

theorem kwrRun {k plane : Nat} (h : WritesOnly key P f g) : WritesOnly key P f (kwrRun g k plane) := by
  unfold Machine.kwrRun
  exact foldl_keeps (h.elem fun _ => ⟨rfl, rfl⟩) fun _ _ h1 => h1.core

theorem kwrAll {keys : List Nat} {n : Nat} (h : WritesOnly key P f g) : WritesOnly key P f (kwrAll g keys n) :=
  foldl_keeps h fun _ _ h1 => ite_keeps h1.kwrRun h1

theorem bindPlane {k n : Nat} {succ : Bool} (h : WritesOnly key P f g) : WritesOnly key P f (bindPlane g k n succ) := h.elem fun _ => ⟨rfl, rfl⟩

theorem swapRefuse {rid : Nat} {r : Region} {w : Swap} (h : WritesOnly key P f g) : WritesOnly key P f (swapRefuse g rid r w) :=
  foldl_keeps h.region.cmdReply.regionEvent.kwrAll fun _ _ h1 => h1.region.sendDrift

theorem creditGo {q sx sy ctx n : Nat} (h : WritesOnly key P f g) : WritesOnly key P f (creditGo g key q sx sy ctx n) := h.keep fun _ => rfl

theorem creditAdd {q : MemReq} (h : WritesOnly key P f g) : WritesOnly key P f (creditAdd g key q) := by
  unfold Machine.creditAdd
  dsimp only
  split
  · exact ite_keeps (WritesOnly.creditGo (h.keep fun _ => rfl)) (h.keep fun _ => rfl)
  · exact ite_keeps (h.keep fun _ => rfl) h.creditGo

theorem setLast {q : MemReq} (h : WritesOnly key P f g) : WritesOnly key P f (setLast g key q) := ite_keeps h (h.elem fun _ => ⟨rfl, rfl⟩)

theorem askBank {k bank plane : Nat} {round : BitVec 32} (h : WritesOnly key P f g) : WritesOnly key P f (askBank g k bank plane round) := by
  unfold Machine.askBank askCapacity
  split
  · exact h
  · exact ite_keeps h h.raiseFault

theorem reqUncorr {k : Nat} {q : MemReq} (h : WritesOnly key P f g) : WritesOnly key P f (reqUncorr g k q) := h.raiseFault

theorem bankPop {b : Nat} (h : WritesOnly key P f g) : WritesOnly key P f (bankPop g key b) := h.keep fun _ => rfl

end WritesOnly

/-- A step's next state, where it has one, differs in its tile memories by at most the bytes of P in the scratchpad of key. -/
def OutWritesOnly (key : Nat) (P : Nat → Prop) (s : State) : Out → Prop
  | .next t => WritesOnly key P s.fab t.fab
  | .fault _ => True
  | .refused _ => True

section
variable {key : Nat} {P : Nat → Prop} {s : State}

theorem outWritesOnly_wait : OutWritesOnly key P s (.next s) := WritesOnly.refl

theorem OutWritesOnly.next {t : State} {o : Out} (h : OutWritesOnly key P s o) (ho : o = .next t) : WritesOnly key P s.fab t.fab := by
  subst ho
  exact h

/-- What writes no byte leaves the tiles as they are. -/
theorem WritesOnly.tilesSame {t : State} (h : WritesOnly key (fun _ => False) s.fab t.fab) : tilesSame s t := fun k a =>
  ⟨(h k a).2 fun _ => not_false, (h k a).1⟩

/-! ### Slots, credits, bounces and swaps -/

theorem execBounceArrival_writes {k sel : Nat} : OutWritesOnly key P s (execBounceArrival k sel s) := by
  unfold execBounceArrival
  split
  · exact WritesOnly.refl.elem fun _ => ⟨rfl, rfl⟩
  · exact outWritesOnly_wait

theorem execCreditArrival_writes {i : Nat} : OutWritesOnly key P s (execCreditArrival i s) := by
  unfold execCreditArrival
  split
  · exact outWritesOnly_wait
  · refine (WritesOnly.refl.sameElems (g' := { s.fab with creds := s.fab.creds.eraseIdx i }) rfl).elem fun e => ?_
    dsimp only
    split <;> exact ⟨rfl, rfl⟩

theorem execCreditSend_writes {k i : Nat} : OutWritesOnly k P s (execCreditSend k i s) := by
  unfold execCreditSend
  split
  · exact outWritesOnly_wait
  · exact WritesOnly.creditGo (WritesOnly.refl.keep fun _ => rfl)

theorem execSwapCheck_writes {rid : Nat} : OutWritesOnly key P s (execSwapCheck rid s) := by
  unfold execSwapCheck
  split
  · exact outWritesOnly_wait
  split
  · exact outWritesOnly_wait
  split
  · exact outWritesOnly_wait
  · exact WritesOnly.refl.region

theorem execSwapTick_writes {rid : Nat} : OutWritesOnly key P s (execSwapTick rid s) := by
  unfold execSwapTick
  split
  · exact outWritesOnly_wait
  split
  · exact outWritesOnly_wait
  next r _ _ w _ =>
    split
    · exact outWritesOnly_wait
    split
    · exact WritesOnly.refl.swapRefuse
    have hbound : WritesOnly key P s.fab ((planeKeys r).foldl (fun f k => bindPlane f k w.new true) s.fab) :=
      foldl_keeps WritesOnly.refl fun _ _ h => h.bindPlane
    have hended {l : List Nat} {f : Fab} (h : WritesOnly key P s.fab f) :
        WritesOnly key P s.fab (l.foldl (fun f k => modElem f k (endStreams w.old)) f) := foldl_keeps h fun _ _ h1 => h1.elem fun _ => ⟨rfl, rfl⟩
    exact foldl_keeps (hended hbound.kwrAll).region.cmdReply fun _ _ h => h.sendDrift

/-- No slot writes a tile memory as it fires. -/
theorem exec_slot_tilesSame {i : Instr} {n : Nat} {t : State} (hi : encodeSlot i = some n) (ht : exec i s = .next t) : tilesSame s t := by
  have h := exec_slot_moves (s := s) hi
  rw [ht] at h
  obtain ⟨g, rfl, hm⟩ := h
  exact (WritesOnly.refl.moves hm).tilesSame (key := 0)

/-- Nor does a credit, a bounce or a swap. -/
theorem exec_creditSwap_tilesSame {t : State} {sel i rid : Nat} {x : Instr}
    (hx : x ∈ [Instr.bounceArrival key sel, .creditArrival i, .creditSend key i, .swapCheck rid, .swapTick rid]) (ht : exec x s = .next t) :
    tilesSame s t := by
  have h : OutWritesOnly key (fun _ => False) s (exec x s) := by
    simp only [List.mem_cons, List.not_mem_nil, or_false] at hx
    obtain rfl | rfl | rfl | rfl | rfl := hx
    · exact execBounceArrival_writes
    · exact execCreditArrival_writes
    · exact execCreditSend_writes
    · exact execSwapCheck_writes
    · exact execSwapTick_writes
  exact (h.next ht).tilesSame

/-! ### Banks (05 R132-R138, 13 R373) -/

@[simp] theorem data_bankTouch (m : MtSt) (b ctx : Nat) (round : BitVec 32) : (bankTouch m b ctx round).data = m.data := by
  unfold bankTouch
  split <;> rfl

@[simp] theorem data_bankJournal (m : MtSt) (b line ctx : Nat) (round : BitVec 32) : (bankJournal m b line ctx round).data = m.data := by
  unfold bankJournal
  dsimp only
  split <;> rfl

@[simp] theorem data_putCheck (m : MtSt) (b line : Nat) : (putCheck m b line).data = m.data := rfl

@[simp] theorem data_squashAt (m : MtSt) (j : Nat) : (squashAt m j).data = m.data := rfl

@[simp] theorem data_sectConflict (m : MtSt) (i b h : Nat) : (sectConflict m i b h).data = m.data := by
  unfold sectConflict
  split
  · rfl
  · exact foldl_keeps (P := fun n : MtSt => n.data = m.data) rfl fun _ _ h => h

@[simp] theorem data_sectKeep (m : MtSt) (i : Nat) (q : MemReq) : (sectKeep m i q).data = m.data := by
  unfold sectKeep
  dsimp only
  split
  · split
    · exact data_squashAt m i
    · exact data_sectConflict _ _ _ _
  · exact data_sectConflict _ _ _ _

/-- The bytes that a request writes. -/
def ReqWritten (q : MemReq) (a : Nat) : Prop := reqWrites q = true ∧ reqCovers q a

theorem mget_putLine_outside (m : Mem) (b : Nat) (v : Line) {a : Nat} (h : a < b ∨ b + 64 ≤ a) : mget (putLine m b v) a = mget m a := by
  rw [putLine]
  exact mget_mputN_outside m b 64 v.toNat h

theorem mget_reqData_outside (m : MtSt) (q : MemReq) {a : Nat} (h : ¬reqCovers q a) : mget (reqData m q).data a = mget m.data a := by
  unfold reqCovers at h
  unfold reqData
  dsimp only at h ⊢
  split at h
  case isTrue h310 =>
    have hout : a < bankByte q.bank q.line ∨ bankByte q.bank q.line + 64 ≤ a := by omega
    rw [if_pos h310]
    dsimp only
    rw [mget_putLine_outside _ _ _ hout]
  case isFalse h310 =>
    have hout : a < bankByte q.bank q.line + q.addr.toNat % 64 ∨ bankByte q.bank q.line + q.addr.toNat % 64 + q.size ≤ a := by omega
    rw [if_neg h310]
    split <;> exact mget_mputN_outside _ _ _ _ hout

/-- A request that a bank performs writes at most the bytes it covers. -/
theorem mget_reqPerform_outside (m : MtSt) (q : MemReq) (jrn : Option (BitVec 32)) {a : Nat} (h : ¬ReqWritten q a) :
    mget (reqPerform m q jrn).data a = mget m.data a := by
  have hwrite (n : MtSt) : mget (reqWrite n q).data a = mget n.data a := by
    unfold reqWrite
    split
    case isTrue hw => exact mget_reqData_outside n q fun hc => h ⟨hw, hc⟩
    case isFalse => rfl
  unfold reqPerform
  dsimp only
  rw [hwrite]
  split
  · rw [data_bankTouch]
    split <;> simp
  · rfl

theorem mget_bodyWrite_outside (m : MtSt) (q : MemReq) {a : Nat} (h : ¬ReqWritten q a) : mget (bodyWrite m q).data a = mget m.data a := by
  unfold bodyWrite
  split
  · rw [data_bankTouch]
  split
  · rw [data_bankTouch]
  split
  · rw [data_sectConflict]
    exact mget_reqPerform_outside m q _ h
  · rw [data_sectKeep]

theorem WritesOnly.perform {q : MemReq} {jrn : Option (BitVec 32)} {f g : Fab} (h : WritesOnly key (ReqWritten q) f g) :
    WritesOnly key (ReqWritten q) f (modMt g key fun m => reqPerform m q jrn) :=
  h.write fun _ ha => mget_reqPerform_outside _ q jrn ha

end

end Sys2Proof.Machine
end

section
/-! SUPPORT. The bytes that a bank's acceptance and a section's retirement write, and those that the end of a tile cycle does (04 R102, R113, 05 R132,
06 R168, 13 R369, R373). -/

namespace Sys2Proof.Machine

/-! ### Reports leave the elements (14 R421) -/

theorem elems_regionEvent (f : Fab) (r : Region) (m : BitVec 6) : (regionEvent f r m).elems = f.elems :=
  foldl_keeps (P := fun g : Fab => g.elems = f.elems) rfl fun _ _ h => h

theorem elems_repDone (s : State) (rid : Option Nat) : (repDone s rid).fab.elems = s.fab.elems := by
  unfold repDone
  split
  · rfl
  · exact elems_regionEvent _ _ _

theorem elems_postNext (s : State) (part fn : Nat) : (postNext s part fn).fab.elems = s.fab.elems := by
  unfold postNext
  dsimp only
  split
  · rfl
  split
  · exact elems_repDone _ _
  split
  · rfl
  · exact elems_repDone _ _
  · exact elems_repDone _ _

theorem elems_postReport (s : State) (core ctx : Nat) (p : Rep) : (postReport s core ctx p).fab.elems = s.fab.elems := by
  unfold postReport
  split
  · rfl
  · unfold postLine postRun
    exact foldl_keeps (P := fun t : State => t.fab.elems = s.fab.elems) rfl fun t _ h => (elems_postNext t _ _).trans h

section
variable {key : Nat} {P : Nat → Prop} {s : State} {f g : Fab} {q : MemReq}

/-! ### Acceptance by a bank, by the source of the request (05 R133-R138, 13 R373) -/

theorem cmdFault_writes {f : Fab} {k cause kind : Nat} (h : WritesOnly key P f s.fab) : WritesOnly key P f (cmdFault s k q cause kind).fab := by
  unfold cmdFault
  dsimp only
  split
  · exact h.raiseFault
  · exact h.sameElems (elems_postReport _ _ _ _)

theorem cmdAccept_writes : WritesOnly key (ReqWritten q) s.fab (cmdAccept s key q).fab := by
  unfold cmdAccept
  dsimp only
  split
  · exact cmdFault_writes WritesOnly.refl.bankPop.cmdReply
  split
  · exact WritesOnly.refl.askBank
  split
  · exact cmdFault_writes WritesOnly.refl.bankPop.cmdReply
  · exact WritesOnly.refl.bankPop.perform.cmdReply

theorem WritesOnly.modRead {k id : Nat} {u : ReadOut → ReadOut} (h : WritesOnly key P f g) : WritesOnly key P f (modRead g k id u) :=
  h.elem fun _ => ⟨rfl, rfl⟩

theorem WritesOnly.modCmd {k core id : Nat} {u : AgCmd → AgCmd} (h : WritesOnly key P f g) : WritesOnly key P f (modCmd g k core id u) :=
  h.elem fun _ => ⟨rfl, rfl⟩

theorem streamAccept_writes : WritesOnly key (ReqWritten q) f (streamAccept f key q) := by
  have hdone : WritesOnly key (ReqWritten q) f (modMt (bankPop f key q.bank) key fun m => reqPerform m q (some q.round)) :=
    WritesOnly.refl.bankPop.perform
  exact ite_keeps (ite_keeps hdone.raiseFault hdone.modRead) (ite_keeps WritesOnly.refl.askBank (hdone.elem fun _ => ⟨rfl, rfl⟩))

theorem copyAccept_writes : WritesOnly key (ReqWritten q) f (copyAccept f key q) :=
  ite_keeps WritesOnly.refl.bankPop.modCmd (ite_keeps WritesOnly.refl.askBank WritesOnly.refl.bankPop.perform.modCmd)

theorem WritesOnly.emitReply {k plane sel : Nat} {l : BitVec 3} {hdr : Option (BitVec 16)} {v : Line} (h : WritesOnly key P f g) :
    WritesOnly key P f (emitReply g k plane sel l hdr v) := h.moves SlotMoves.refl.emitReply

theorem WritesOnly.emitPass {k plane src sel : Nat} {t : Token} (h : WritesOnly key P f g) : WritesOnly key P f (emitPass g k plane src sel t) :=
  h.moves SlotMoves.refl.emitPass

theorem WritesOnly.groupReply {r : MemReq} {v : Line} (h : WritesOnly key P f g) : WritesOnly key P f (groupReply g key r v) := h.emitReply

theorem WritesOnly.acqDone {r : MemReq} (h : WritesOnly key P f g) : WritesOnly key P f (acqDone g key r) := h.moves SlotMoves.refl.acqDone

theorem slotAccept_writes : WritesOnly key (ReqWritten q) f (slotAccept f key q) := by
  unfold slotAccept
  extract_lets e gr places old tag f1 done out
  have h0 : WritesOnly key (ReqWritten q) f f := WritesOnly.refl
  have h1 : WritesOnly key (ReqWritten q) f f1 := h0.bankPop.perform
  have hdone {g : Fab} (h : WritesOnly key (ReqWritten q) f g) : WritesOnly key (ReqWritten q) f (done g) := h.setLast.acqDone
  refine ite_keeps h0.askBank (ite_keeps h0 (ite_keeps h0.bankPop.reqUncorr (ite_keeps ?_ (ite_keeps ?_ ?_))))
  · exact ite_keeps h1 (ite_keeps (h1.sameElems rfl) h1.creditAdd)
  · exact ite_keeps (hdone (WritesOnly.groupReply (h1.keep fun _ => rfl))) (h1.keep fun _ => rfl)
  · exact hdone h1.emitReply

theorem bodyAccept_writes : WritesOnly key (ReqWritten q) f (bodyAccept f key q) := by
  unfold bodyAccept
  extract_lets e m gr m1 direct kept late last mute view bad old f1 out f2
  have h0 : WritesOnly key (ReqWritten q) f f := WritesOnly.refl
  have h1 : WritesOnly key (ReqWritten q) f f1 := h0.write fun a ha => by
    have hm : (elemOf (bankPop f key q.bank) key).mt.data = (elemOf f key).mt.data := by
      rw [bankPop, modMt, elemOf_modElem_same]
    rw [← hm]
    exact mget_bodyWrite_outside _ q ha
  have h2 : WritesOnly key (ReqWritten q) f f2 := h1.keep fun _ => rfl
  refine ite_keeps h0.askBank (ite_keeps h0 (ite_keeps h0.bankPop.reqUncorr (ite_keeps ?_ (ite_keeps ?_ (ite_keeps ?_ ?_)))))
  · exact ite_keeps h1.acqDone h1.emitReply.acqDone
  · exact h1.keep fun _ => rfl
  · refine h2.keep fun m => ?_
    split <;> rfl
  · exact ite_keeps h2 h2.groupReply.acqDone

/-- The bytes that the request at the head of a bank's queue writes. -/
def HeadWritten (s : State) (key bank a : Nat) : Prop := ∃ q l, tget [] (elemOf s.fab key).mt.bankq bank = q :: l ∧ ReqWritten q a

theorem execBankAccept_writes {bank : Nat} : OutWritesOnly key (HeadWritten s key bank) s (execBankAccept key bank s) := by
  unfold execBankAccept
  dsimp only
  split
  · exact outWritesOnly_wait
  split
  · exact outWritesOnly_wait
  next q l hq =>
    have hhead (a : Nat) (h : ReqWritten q a) : HeadWritten s key bank a := ⟨q, l, hq, h⟩
    split
    · exact cmdAccept_writes.mono hhead
    · exact streamAccept_writes.mono hhead
    · exact streamAccept_writes.mono hhead
    · exact copyAccept_writes.mono hhead
    · exact copyAccept_writes.mono hhead
    · exact (ite_keeps bodyAccept_writes slotAccept_writes : WritesOnly key (ReqWritten q) s.fab _).mono hhead

/-! ### Retirement of a section (06 R165-R169) -/

/-- The bytes that the buffered writes of a tile's sections cover. -/
def SectionCovered (s : State) (key a : Nat) : Prop := ∃ y ∈ (elemOf s.fab key).mt.sects, ∃ q ∈ y.writes, reqCovers q a

theorem execSectionRetire_writes {plane dom : Nat} : OutWritesOnly key (SectionCovered s key) s (execSectionRetire key plane dom s) := by
  unfold execSectionRetire
  dsimp only
  split
  · exact outWritesOnly_wait
  next i y hy =>
    split
    · exact outWritesOnly_wait
    split
    · exact outWritesOnly_wait
    split
    · next q rest hw =>
      have hmem : y ∈ (elemOf s.fab key).mt.sects := by
        obtain ⟨j, _, hj⟩ := Option.bind_eq_some_iff.mp hy
        obtain ⟨z, hz, hzy⟩ := Option.map_eq_some_iff.mp hj
        cases hzy
        exact List.mem_of_getElem? hz
      split
      · exact outWritesOnly_wait
      split
      · exact WritesOnly.refl.askBank
      have hwrite : WritesOnly key (SectionCovered s key) s.fab (modMt s.fab key fun m =>
          if execSectionRetire.reqAtomic q && reqBad (elemOf s.fab key).mt q then
            { m with took := pipeMark q.bank :: m.took, sects := lmod m.sects i fun y => { y with writes := rest } }
          else reqPerform { m with took := pipeMark q.bank :: m.took, sects := lmod m.sects i fun y => { y with writes := rest } } q
            (some q.round)) := by
        refine WritesOnly.refl.write fun a ha => ?_
        split
        · rfl
        · exact mget_reqPerform_outside _ q _ fun hq => ha ⟨y, hmem, q, hw ▸ List.mem_cons_self, hq.2⟩
      exact ite_keeps hwrite.reqUncorr (ite_keeps hwrite hwrite.emitReply)
    split
    · split
      · exact outWritesOnly_wait
      · exact WritesOnly.emitReply (WritesOnly.refl.keep fun _ => rfl)
    split
    · exact outWritesOnly_wait
    · exact WritesOnly.emitPass (WritesOnly.refl.keep fun _ => rfl)

/-! ### The end of a tile cycle (04 R113, 07 R192) -/

/-- The bytes that a pending write of a local store covers. -/
def PendCovers (q : PendW) (a : Nat) : Prop :=
  ∃ n round rot b len v, q = .ls n round rot b len v ∧ ∃ j, j < len ∧ lsPhys rot ((b + j) % 2 ^ 17) = a

theorem mget_lsWrite_outside (m : Mem) (rot b n v : Nat) {a : Nat} (h : ∀ j, j < n → lsPhys rot ((b + j) % 2 ^ 17) ≠ a) :
    mget (lsWrite m rot b n v) a = mget m a := by
  induction n generalizing m b v with
  | zero => rfl
  | succ n ih =>
    rw [lsWrite, ih _ _ _ fun j hj => ?_, mget_mput_ne]
    · exact fun hb => h 0 (Nat.succ_pos n) hb.symm
    · rw [show b + 1 + j = b + (j + 1) by omega]
      exact h (j + 1) (Nat.succ_lt_succ hj)

theorem ls_lsJournal (c : CtSt) (n : Nat) (round : BitVec 32) (l : Nat) : (lsJournal c n round l).ls = c.ls := by
  unfold lsJournal
  split <;> rfl

theorem mt_applyPend (e : Elem) (q : PendW) : (applyPend e q).mt = e.mt := by
  cases q <;> rfl

theorem mget_applyPend_outside (e : Elem) {q : PendW} {a : Nat} (h : ¬PendCovers q a) : mget (applyPend e q).ct.ls a = mget e.ct.ls a := by
  cases q with
  | v | a | p => rfl
  | ls n round rot b len v =>
    have hj : ((lsLines rot b len).foldl (fun c l => lsJournal c n round l) e.ct).ls = e.ct.ls :=
      foldl_keeps (P := fun c : CtSt => c.ls = e.ct.ls) rfl fun c l hc => (ls_lsJournal c n round l).trans hc
    refine (mget_lsWrite_outside _ rot b len v.toNat fun j hlt ha => h ⟨n, round, rot, b, len, v, rfl, j, hlt, ha⟩).trans ?_
    rw [hj]

theorem foldl_applyPend_keeps (l : List PendW) (e : Elem) (a : Nat) :
    (l.foldl applyPend e).mt = e.mt ∧ ((∀ q ∈ l, ¬PendCovers q a) → mget (l.foldl applyPend e).ct.ls a = mget e.ct.ls a) := by
  induction l generalizing e with
  | nil => exact ⟨rfl, fun _ => rfl⟩
  | cons q l ih =>
    obtain ⟨hm, hl⟩ := ih (applyPend e q)
    refine ⟨hm.trans (mt_applyPend e q), fun h => (hl fun r hr => h r (List.mem_cons_of_mem _ hr)).trans ?_⟩
    exact mget_applyPend_outside e (h q List.mem_cons_self)

theorem mem_of_mem_pendOrder {l : List (IssueClass × PendW)} {q : PendW} (h : q ∈ pendOrder l) : ∃ cls, (cls, q) ∈ l := by
  simp only [pendOrder, List.mem_map, List.mem_flatMap, List.mem_filter] at h
  obtain ⟨⟨cls, p⟩, ⟨_, _, hp, _⟩, rfl⟩ := h
  exact ⟨cls, hp⟩

/-- After the pending writes a tile cycle settles slots and fences, which leaves both memories: slots here, fences and ends next. -/
theorem sameTiles_ageSlot (f : Fab) (key plane n cyc : Nat) (e : Elem) : SameTiles e (ageSlot f key plane n cyc e) := by
  unfold ageSlot
  dsimp only
  split <;> exact ⟨rfl, rfl⟩

theorem sameTiles_fencePending (e : Elem) (key plane : Nat) : SameTiles e (fencePending e key plane) := by
  unfold fencePending
  dsimp only
  split <;> exact ⟨rfl, rfl⟩

theorem sameTiles_endSettle (e : Elem) (key plane : Nat) : SameTiles e (endSettle e key plane) := by
  unfold endSettle
  dsimp only
  split <;> exact ⟨rfl, rfl⟩

theorem sameTiles_foldl {α : Type} {e e' : Elem} {l : List α} {u : Elem → α → Elem} (h : SameTiles e e') (hu : ∀ e x, SameTiles e (u e x)) :
    SameTiles e (l.foldl u e') :=
  foldl_keeps h fun d x hd => hd.trans (hu d x)

theorem elemOf_tileTick_ne (f : Fab) {key k : Nat} (h : k ≠ key) : elemOf (tileTick f key) k = elemOf f k := by
  unfold tileTick
  extract_lets f1 e e1 e2 f2
  have h1 : elemOf f1 k = elemOf f k := elemOf_modElem_ne f _ h
  rw [← h1]
  exact (tget_tins_ne _ _ _ h).trans (tget_tins_ne _ _ _ h)

/-- After a tile cycle the element holds the scratchpad that it held, and the local store that its pending writes make. -/
theorem sameTiles_tileTick (f : Fab) (key : Nat) :
    SameTiles ((pendOrder (elemOf f key).pend).foldl applyPend (elemOf f key)) (elemOf (tileTick f key) key) := by
  unfold tileTick
  extract_lets f1 e e1 e2 f2
  have he : SameTiles ((pendOrder (elemOf f key).pend).foldl applyPend (elemOf f key)) e := by
    rw [show e = _ from elemOf_modElem_same f key _]
    exact ⟨rfl, rfl⟩
  have he1 : SameTiles e e1 := ite_keeps (sameTiles_foldl (SameTiles.refl e) fun e n => sameTiles_fencePending e key n) (SameTiles.refl e)
  have he2 : SameTiles e e2 := sameTiles_foldl he1 fun e n => sameTiles_endSettle e key n
  refine he.trans (he2.trans ?_)
  rw [elemOf, tget_tins_same]
  exact sameTiles_foldl (SameTiles.refl e2) fun e' n => sameTiles_foldl (SameTiles.refl e') fun e'' i => sameTiles_ageSlot _ _ _ _ _ e''

/-- The end of a tile cycle writes at most the bytes of the pending writes of the element's local store. -/
theorem tileTick_writes (f : Fab) (key k a : Nat) :
    mget (elemOf (tileTick f key) k).mt.data a = mget (elemOf f k).mt.data a ∧
      ((k = key → ∀ cls q, (cls, q) ∈ (elemOf f key).pend → ¬PendCovers q a) →
        mget (elemOf (tileTick f key) k).ct.ls a = mget (elemOf f k).ct.ls a) := by
  by_cases hk : k = key
  · subst hk
    obtain ⟨hd, hl⟩ := sameTiles_tileTick f k
    obtain ⟨hm, hp⟩ := foldl_applyPend_keeps (pendOrder (elemOf f k).pend) (elemOf f k) a
    rw [hd, hl, hm]
    refine ⟨rfl, fun h => hp fun q hq => ?_⟩
    obtain ⟨cls, hc⟩ := mem_of_mem_pendOrder hq
    exact h rfl cls q hc
  · rw [elemOf_tileTick_ne f hk]
    exact ⟨rfl, fun _ => rfl⟩

end

/-! ### Which bytes change -/

/-- Settles O45: a firing moves no byte (`exec_slot_moves`), and every other event writes at most the bytes of the requests that it performs. -/
theorem tileMemoryFrame : Obligations.TileMemoryFrame := by
  unfold Obligations.TileMemoryFrame
  refine ⟨?firing, ?returns, ?cycleEnd, ?acceptance, ?retirement⟩
  case firing => exact fun _ _ _ _ hi ht => exec_slot_tilesSame hi ht
  case returns => exact fun _ _ _ _ _ _ _ hx ht => exec_creditSwap_tilesSame hx ht
  case cycleEnd =>
    intro f key k a
    obtain ⟨hd, hl⟩ := tileTick_writes f key k a
    refine ⟨hd, fun h => hl fun hk cls q hq hc => ?_⟩
    obtain ⟨n, round, rot, b, len, v, rfl, j, hj, ha⟩ := hc
    exact h hk cls n round rot b len v hq j hj ha
  case acceptance =>
    intro s t key bank k a ht
    obtain ⟨hl, hd⟩ := execBankAccept_writes.next ht k a
    refine ⟨hl, fun h => hd fun hk hw => ?_⟩
    obtain ⟨q, l, hq, hwr, hc⟩ := hw
    exact h hk q l hq hwr hc
  case retirement =>
    intro s t key plane dom k a ht
    obtain ⟨hl, hd⟩ := execSectionRetire_writes.next ht k a
    refine ⟨hl, fun h => hd fun hk hw => ?_⟩
    obtain ⟨y, hy, q, hq, hc⟩ := hw
    exact h hk y hy q hq hc

end Sys2Proof.Machine
end

section
/-! SUPPORT. Firings of lsld and lsst, by the outcome of their address and of their bank (04 R113, 13 R368, R369). -/

namespace Sys2Proof.Machine

section
variable {s : State} {op n a rot : Nat} {w : Slot} {body : FireCtx → Nat → Nat → Fab → Fab}

/-- An access that its bank takes acts at its address. -/
theorem lsFire_next (ha : lsAddr (seen s op w) = .inl (a, rot)) (hl : lsLoses s.fab (seen s op w) rot a n = false) (h : fires s op w) :
    lsFire s op w n body = .next (withFab s (body (seen s op w) a rot (began s op w))) := by
  unfold lsFire
  dsimp only
  rw [if_neg, fire_next h, ha]
  simp [show lsAddr (fireCtx s.fab s.site op w) = _ from ha, show lsLoses s.fab (fireCtx s.fab s.site op w) rot a n = _ from hl]

/-- One that loses its bank holds its slot. -/
theorem lsFire_loses (ha : lsAddr (seen s op w) = .inl (a, rot)) (hl : lsLoses s.fab (seen s op w) rot a n = true) :
    lsFire s op w n body = .next s := by
  unfold seen at ha hl
  simp [lsFire, ha, hl]

/-- One whose address fails a check raises its fault there. -/
theorem lsFire_fault {c : Nat} (ha : lsAddr (seen s op w) = .inr (c, a)) (h : fires s op w) :
    lsFire s op w n body = .next (withFab s (slotRaise (began s op w) (seen s op w) c none a 4)) := by
  unfold lsFire
  dsimp only
  rw [if_neg, fire_next h, ha]
  simp [show lsAddr (fireCtx s.fab s.site op w) = _ from ha]

end

theorem anyBit_eq_decide (v : Line) : anyBit v = decide (v ≠ 0) := by
  rw [Bool.eq_iff_iff]
  simp only [anyBit, bne_iff_ne, decide_eq_true_eq]

/-- A destination of k bits tells whether one of them is set. -/
theorem anyBit_setWidth (v : Line) {k : Nat} (hk : k ≤ 512) : anyBit ((v.setWidth k).setWidth 512) = decide (v.toNat % 2 ^ k ≠ 0) := by
  have hzero : (v.setWidth k).setWidth 512 = 0#512 ↔ v.toNat % 2 ^ k = 0 := by
    rw [← BitVec.toNat_inj, BitVec.toNat_setWidth_of_le hk, BitVec.toNat_setWidth, BitVec.toNat_zero]
  rw [anyBit_eq_decide]
  exact decide_eq_decide.mpr (not_congr hzero)

/-- lsld tells whether a bit of what its destination receives is set. -/
theorem anyBit_loaded (v : Line) (d : Nat) :
    anyBit (if selKind d = 4 then (v.setWidth 32).setWidth 512 else if selKind d = 64 then (v.setWidth 64).setWidth 512 else v) =
      if selKind d = 4 then decide (v.toNat % 2 ^ 32 ≠ 0) else if selKind d = 64 then decide (v.toNat % 2 ^ 64 ≠ 0) else decide (v ≠ 0) := by
  split
  · exact anyBit_setWidth v (by decide)
  split
  · exact anyBit_setWidth v (by decide)
  · exact anyBit_eq_decide v

/-- The bytes that an access of the local store takes. -/
theorem lsWidth_store (b : Nat) :
    (if (0x221 : Nat) = 0x221 ∧ selKind b ≠ 1 ∧ selKind b ≠ 8 then 8 else 64) = if selKind b = 1 ∨ selKind b = 8 then 64 else 8 := by
  by_cases h1 : selKind b = 1
  · simp [h1]
  by_cases h8 : selKind b = 8
  · simp [h8]
  · simp [h1, h8]

theorem execLsld_next {s : State} {w : Slot} {a rot : Nat} (ha : lsAddr (seen s 0x220 w) = .inl (a, rot))
    (hbad : lsBad (seen s 0x220 w).e.ct rot a 64 = false) (hl : lsLoses s.fab (seen s 0x220 w) rot a 64 = false) (h : fires s 0x220 w) :
    let x := seen s 0x220 w
    let v : Line := BitVec.ofNat 512 (lsRead x.e.ct.ls rot a 64)
    execLsld w s = .next (withFab s (lsInc x (lsTwice x rot a 64 (putResult (popped s 0x220 w) x v
      (if selKind w.dst.toNat = 4 then decide (v.toNat % 2 ^ 32 ≠ 0) else if selKind w.dst.toNat = 64 then decide (v.toNat % 2 ^ 64 ≠ 0)
        else decide (v ≠ 0)) (fireLvl x))))) := by
  unfold execLsld
  rw [lsFire_next ha hl h, if_neg (by rw [hbad]; decide)]
  dsimp only
  rw [anyBit_loaded]
  rfl

theorem execLsst_next {s : State} {w : Slot} {a rot n : Nat} (hn : n = if selKind w.b.toNat = 1 ∨ selKind w.b.toNat = 8 then 64 else 8)
    (ha : lsAddr (seen s 0x221 w) = .inl (a, rot)) (h : fires s 0x221 w) (hfit : ¬(n = 8 ∧ 56 < a % 64))
    (hl : lsLoses s.fab (seen s 0x221 w) rot a n = false)
    (hroom : lsRoom (seen s 0x221 w).e (seen s 0x221 w).plane (seen s 0x221 w).p.run.round (lsLines rot a n) = true) :
    let x := seen s 0x221 w
    execLsst w s = .next (withFab s (lsInc x (lsTwice x rot a n (putPwe
      (addPend (popped s 0x221 w) x (.ls x.plane x.p.run.round rot a n (execLsst.tokenSrcLine x w.b.toNat))) x false)))) := by
  subst hn
  unfold execLsst
  dsimp only
  rw [lsFire_next ha hl h, if_neg hfit, if_neg (by rw [hroom]; decide)]
  rfl

/-- Settles O41, by the outcome of the address and of the bank (`lsFire_next`, `lsFire_loses`, `lsFire_fault`). -/
theorem localStoreAccesses : Obligations.LocalStoreAccesses := by
  unfold Obligations.LocalStoreAccesses
  refine fun s w => ⟨?load, ?store, ?loses, ?fault⟩
  case load => exact fun _ _ ha hbad hl h => execLsld_next ha hbad hl h
  case store => exact fun _ _ ha h hfit hl hroom => execLsst_next rfl ha h hfit hl hroom
  case loses =>
    intro op mk a rot hop ha hl
    simp only [List.mem_cons, Prod.mk.injEq, List.not_mem_nil, or_false] at hop
    obtain ⟨rfl, rfl⟩ | ⟨rfl, rfl⟩ := hop
    · exact lsFire_loses ha hl
    · rw [lsWidth_store] at hl
      exact lsFire_loses ha hl
  case fault =>
    intro op mk c a hop ha h
    simp only [List.mem_cons, Prod.mk.injEq, List.not_mem_nil, or_false] at hop
    obtain ⟨rfl, rfl⟩ | ⟨rfl, rfl⟩ := hop
    · exact lsFire_fault ha h
    · exact lsFire_fault ha h

end Sys2Proof.Machine
end

section
/-! SUPPORT. Events of memory tiles, case by case: a section's retirement, an ordered request's passing, a bank's acceptance by the source of its
request, and the credits and bounces that return (04 R102-R104, 05 R133-R138, 06 R165-R169, 10 R298). -/

namespace Sys2Proof.Machine

section
variable {s : State} {key plane dom bank i : Nat} {q r : MemReq} {rest : List MemReq}

/-! ### Retirement of a section (06 R165-R169) -/

/-- The oldest section of an order domain has its result, and its tile runs. -/
structure Retires (s : State) (key plane dom i : Nat) (y : Sect) (t : Token) (out : Nat) : Prop where
  first : sectFirst (elemOf s.fab key).mt.sects plane dom = some i
  sect : (elemOf s.fab key).mt.sects[i]? = some y
  result : y.result = some (t, out)
  runs : halted s.fab key = false

section
variable {y : Sect} {t : Token} {out : Nat}

theorem Retires.store (h : Retires s key plane dom i y t out) (hw : y.writes = r :: rest)
    (htook : (elemOf s.fab key).mt.took.contains (pipeMark r.bank) = false) (hgrp : r.grp = 0)
    (hplaces : replyPlaces r ≤ outRoom (elemOf s.fab key) r.reply)
    (hroom : bankRoom (elemOf s.fab key).mt r.bank r.line r.plane r.round = true) (hop : r.op = 0x301) :
    execSectionRetire key plane dom s = .next (withFab s (emitReply (modMt s.fab key fun m => reqPerform
      { m with took := pipeMark r.bank :: m.took, sects := lmod m.sects i fun y => { y with writes := rest } } r (some r.round))
      key r.plane r.reply r.lvl none (r.addr.setWidth 512))) := by
  obtain ⟨hfirst, hsect, hresult, hruns⟩ := h
  have hstore : execSectionRetire.reqAtomic r = false := by simp [execSectionRetire.reqAtomic, hop]
  have hplaces' : ¬outRoom (elemOf s.fab key) r.reply < replyPlaces r := by omega
  simp [execSectionRetire, hfirst, hsect, hresult, hruns, hw, htook, hgrp, hplaces', hroom, hstore, replyData, hop, onFab, withFab,
    -List.contains_eq_mem]

theorem Retires.askRoom (h : Retires s key plane dom i y t out) (hw : y.writes = r :: rest)
    (htook : (elemOf s.fab key).mt.took.contains (pipeMark r.bank) = false) (hplaces : replyPlaces r ≤ outRoom (elemOf s.fab key) r.reply)
    (hroom : bankRoom (elemOf s.fab key).mt r.bank r.line r.plane r.round = false) :
    execSectionRetire key plane dom s = .next (withFab s (askBank s.fab key r.bank plane r.round)) := by
  obtain ⟨hfirst, hsect, hresult, hruns⟩ := h
  have hplaces' : ¬outRoom (elemOf s.fab key) r.reply < replyPlaces r := by omega
  simp [execSectionRetire, hfirst, hsect, hresult, hruns, hw, htook, hplaces', hroom, onFab, withFab, -List.contains_eq_mem]

theorem Retires.finish (h : Retires s key plane dom i y t out) (hw : y.writes = []) (hr : y.replies = [])
    (hout : out = 0x60 ∨ 1 ≤ outRoom (elemOf s.fab key) out) :
    execSectionRetire key plane dom s = .next (withFab s
      (emitPass (modMt s.fab key fun m => { m with sects := m.sects.eraseIdx i }) key plane y.queue out t)) := by
  obtain ⟨hfirst, hsect, hresult, hruns⟩ := h
  have hout' : ¬(out ≠ 0x60 ∧ outRoom (elemOf s.fab key) out < 1) := by omega
  simp only [execSectionRetire, hfirst, hsect, hresult, hruns, hw, hr, Option.bind_some, Option.map_some, if_neg hout', Bool.false_eq_true, if_false]
  rfl

end

/-! ### Ordered requests (06 R165, R166) -/

/-- The next ordered request of a domain, whose plane and round let it pass. -/
structure Passes (s : State) (key plane dom : Nat) (q : MemReq) : Prop where
  runs : halted s.fab key = false
  kept : (planeOf (elemOf s.fab key) plane).revoked = false
  opened : spOpen s.fab key plane = true
  next : domNext (elemOf s.fab key) plane dom = some q

theorem Passes.open_section (h : Passes s key plane dom q) (hop : q.op = 0x30C)
    (hflight : ((elemOf s.fab key).mt.sects.countP fun y => y.plane == plane && y.dom == dom) < 8)
    (hout : q.reply = 0x60 ∨ 1 ≤ outRoom (elemOf s.fab key) q.reply) :
    let t : Token := { data := q.data, lvl := q.lvl, ctag := q.ctag, ctx := BitVec.ofNat 2 plane, check := q.check }
    let run := (elemOf s.fab key).mt.nextReq
    let x : Sect := { queue := q.queue, plane := plane, dom := dom, grant := q.reply, round := q.round, entry := t, run := run }
    execDomainSequence key plane dom s = .next (withFab s (emitPass (modMt (setLast (domTake s.fab key q) key q) key fun m =>
      { m with sects := m.sects ++ [x], nextReq := m.nextReq + 1 }) key plane q.queue q.reply t)) := by
  obtain ⟨hruns, hkept, hopen, hnext⟩ := h
  have hwait : ¬(8 ≤ ((elemOf s.fab key).mt.sects.countP fun y => y.plane == plane && y.dom == dom) ∨
      (q.reply ≠ 0x60 ∧ outRoom (elemOf s.fab key) q.reply < 1)) := by omega
  simp only [execDomainSequence, hruns, hkept, hopen, hnext, if_pos hop, if_neg hwait, Bool.not_true, Bool.false_eq_true, or_false, if_false]
  rfl

theorem Passes.access (h : Passes s key plane dom q) (hop : q.op ≠ 0x30C) (hgrp : q.grp = 0) (hdepth : bankDepth (elemOf s.fab key) q.bank < 16)
    (hwins : wins s.fab key q.bank (bidRank (elemOf s.fab key) q.bank false q.queue) (BitVec.ofNat 8 q.queue) = true) :
    execDomainSequence key plane dom s = .next (withFab s (bankPush (domTake s.fab key q) key q (some q.queue))) := by
  obtain ⟨hruns, hkept, hopen, hnext⟩ := h
  have hdepth' : ¬16 ≤ bankDepth (elemOf s.fab key) q.bank := by omega
  simp only [execDomainSequence, hruns, hkept, hopen, hnext, if_neg hop, hgrp, hwins, hdepth', Bool.not_true, Bool.false_eq_true, or_false, if_false,
    ne_eq, not_true_eq_false]
  rfl

/-! ### Acceptance by a bank (05 R133-R138, 13 R373) -/

/-- The request that stood at the head of a bank's queue as the cycle began, which the bank has yet to take. -/
structure Stands (s : State) (key bank : Nat) (q : MemReq) (rest : List MemReq) : Prop where
  runs : halted s.fab key = false
  depth : bankDepth (elemOf s.fab key) bank ≠ 0
  free : (elemOf s.fab key).mt.took.contains (pipeMark bank) = false
  head : tget [] (elemOf s.fab key).mt.bankq bank = q :: rest

theorem Stands.accept_slot {g : Fab} (h : Stands s key bank q rest) (hsrc : q.src = 0 ∨ q.src = 2) (hsec : q.sec = false)
    (hg : slotAccept s.fab key q = g) : execBankAccept key bank s = .next (withFab s g) := by
  subst hg
  obtain ⟨hruns, hdepth, hfree, hhead⟩ := h
  obtain hsrc | hsrc := hsrc <;> simp [execBankAccept, hruns, hdepth, hfree, hhead, hsrc, hsec, onFab, withFab, -List.contains_eq_mem]

theorem Stands.accept_body {g : Fab} (h : Stands s key bank q rest) (hsrc : q.src = 0) (hsec : q.sec = true) (hg : bodyAccept s.fab key q = g) :
    execBankAccept key bank s = .next (withFab s g) := by
  subst hg
  obtain ⟨hruns, hdepth, hfree, hhead⟩ := h
  simp [execBankAccept, hruns, hdepth, hfree, hhead, hsrc, hsec, onFab, withFab, -List.contains_eq_mem]

theorem Stands.accept_cmd {t : State} (h : Stands s key bank q rest) (hsrc : q.src = 1) (ht : cmdAccept s key q = t) :
    execBankAccept key bank s = .next t := by
  subst ht
  obtain ⟨hruns, hdepth, hfree, hhead⟩ := h
  simp [execBankAccept, hruns, hdepth, hfree, hhead, hsrc, -List.contains_eq_mem]

end

end Sys2Proof.Machine
end

section
/-! SUPPORT. What a bank's acceptance does, by the source of the request: a slot's access, an accumulate, an access of an ordered section, a command
(05 R130-R138, 06 R167, R168, 10 R298, 13 R373). -/

namespace Sys2Proof.Machine

section
variable {f : Fab} {key i : Nat} {m : MtSt} {q : MemReq}

/-! ### The tile once its bank has popped its queue -/

theorem mt_bankPop (f : Fab) (key b : Nat) : (elemOf (bankPop f key b) key).mt =
    { (elemOf f key).mt with
      bankq := tput [] (elemOf f key).mt.bankq b ((tget [] (elemOf f key).mt.bankq b).drop 1), took := pipeMark b :: (elemOf f key).mt.took } := by
  rw [bankPop, modMt, elemOf_modElem_same]

@[simp] theorem sectOf_bankPop (f : Fab) (key b : Nat) (q : MemReq) : sectOf (elemOf (bankPop f key b) key).mt q = sectOf (elemOf f key).mt q := by
  rw [mt_bankPop]
  rfl

@[simp] theorem sectTakes_bankPop (f : Fab) (key b i : Nat) (q : MemReq) :
    sectTakes (elemOf (bankPop f key b) key).mt i q = sectTakes (elemOf f key).mt i q := by
  rw [mt_bankPop]
  rfl

@[simp] theorem sectOf_bankTouch (m : MtSt) (b ctx : Nat) (round : BitVec 32) (q : MemReq) : sectOf (bankTouch m b ctx round) q = sectOf m q := by
  unfold bankTouch
  split <;> rfl

/-! ### An access of a slot (13 R373) -/

theorem slotAccept_reply (hsrc : q.src = 0) (hgrp : q.grp = 0)
    (hroom : ¬(reqWrites q = true ∧ bankRoom (elemOf f key).mt q.bank q.line q.plane q.round = false))
    (hplaces : replyPlaces q ≤ outRoom (elemOf f key) q.reply)
    (hgood : ¬(q.op ≠ 0x301 ∧ q.op ≠ 0x303 ∧ reqBad (elemOf f key).mt q = true)) :
    slotAccept f key q = acqDone (setLast (emitReply (modMt (bankPop f key q.bank) key fun m => reqPerform m q (some q.round))
      key q.plane q.reply q.lvl
      (if q.hdr then some (spTag (elemOf f key).mt q.bank q.line) else none) (replyData q (reqOld (elemOf f key).mt q))) key q) key q := by
  have hplaces' : ¬outRoom (elemOf f key) q.reply < replyPlaces q := by omega
  have hroom' : ¬(reqWrites q = true ∧ (!bankRoom (elemOf f key).mt q.bank q.line q.plane q.round) = true) := by rwa [Bool.not_eq_true']
  unfold slotAccept
  extract_lets e g places old tag f1 done out
  have hnone : places = replyPlaces q := by simp [places, hsrc, hgrp]
  rw [if_neg hroom', hnone, if_neg hplaces', if_neg hgood, if_neg (by omega), if_neg (by omega)]

/-! ### An accumulate (05 R130, R132, R135, R136) -/

theorem reqWrites_acc (hop : q.op = 0x310) : reqWrites q = true := by simp [reqWrites, hop]

/-- A bad line answers with its fault alone; else the bank combines it and settles the credit. -/
theorem slotAccept_acc (hsrc : q.src = 2) (hop : q.op = 0x310) (hroom : bankRoom (elemOf f key).mt q.bank q.line q.plane q.round = true) :
    let g := modMt (bankPop f key q.bank) key fun m => reqPerform m q (some q.round)
    slotAccept f key q = if reqBad (elemOf f key).mt q then reqUncorr (bankPop f key q.bank) key q
      else if q.fl ∧ !q.cr then g else if q.port = 16 then { g with creds := g.creds ++ [(0, q.key, q.plane, 1, {})] } else creditAdd g key q := by
  have hroom' : ¬(reqWrites q = true ∧ (!bankRoom (elemOf f key).mt q.bank q.line q.plane q.round) = true) := by simp [hroom]
  unfold slotAccept
  extract_lets g e gr places old tag done out
  have hnone : places = 0 := if_pos (by omega)
  rw [if_neg hroom', hnone, if_neg (Nat.not_lt_zero _)]
  by_cases hbad : reqBad (elemOf f key).mt q = true
  · rw [if_pos ⟨by omega, by omega, hbad⟩, if_pos hbad]
  · rw [if_neg fun h => hbad h.2.2, if_neg hbad, if_pos hsrc]

@[simp] theorem tags_bankTouch (m : MtSt) (b ctx : Nat) (round : BitVec 32) : (bankTouch m b ctx round).tags = m.tags := by
  unfold bankTouch
  split <;> rfl

@[simp] theorem tags_bankJournal (m : MtSt) (b line ctx : Nat) (round : BitVec 32) : (bankJournal m b line ctx round).tags = m.tags := by
  unfold bankJournal
  dsimp only
  split <;> rfl

/-- What an accumulate makes of its line and of the line's tag. -/
theorem reqData_acc (m : MtSt) (hop : q.op = 0x310) :
    (reqData m q).data = putLine m.data (bankByte q.bank q.line) (accLine q.acop q.fmt (lineAt m.data (bankByte q.bank q.line)) q.data) ∧
      spTag (reqData m q) q.bank q.line = (spTag m q.bank q.line &&& 0xFF00#16) ||| BitVec.ofNat 16 q.fmt := by
  unfold reqData
  dsimp only
  rw [if_pos hop]
  refine ⟨?_, ?_⟩
  · dsimp only
  · rw [spTag]
    dsimp only
    rw [tget_tput_same]

theorem reqPerform_acc (m : MtSt) (hop : q.op = 0x310) (jrn : Option (BitVec 32)) :
    (reqPerform m q jrn).data = putLine m.data (bankByte q.bank q.line) (accLine q.acop q.fmt (lineAt m.data (bankByte q.bank q.line)) q.data) ∧
      spTag (reqPerform m q jrn) q.bank q.line = (spTag m q.bank q.line &&& 0xFF00#16) ||| BitVec.ofNat 16 q.fmt := by
  have hwrite (n : MtSt) (hd : n.data = m.data) (ht : n.tags = m.tags) :
      (reqWrite n q).data = putLine m.data (bankByte q.bank q.line) (accLine q.acop q.fmt (lineAt m.data (bankByte q.bank q.line)) q.data) ∧
        spTag (reqWrite n q) q.bank q.line = (spTag m q.bank q.line &&& 0xFF00#16) ||| BitVec.ofNat 16 q.fmt := by
    have htag : spTag n q.bank q.line = spTag m q.bank q.line := by rw [spTag, spTag, ht]
    obtain ⟨hdata, hspTag⟩ := reqData_acc n hop
    rw [hd] at hdata
    rw [htag] at hspTag
    rw [reqWrite, if_pos (reqWrites_acc hop)]
    exact ⟨hdata, hspTag⟩
  unfold reqPerform
  dsimp only
  rw [reqWrites_acc hop]
  cases jrn with
  | none => exact hwrite m rfl rfl
  | some r => exact hwrite _ (by simp) (by simp)

theorem bankPop_acc (f : Fab) (hop : q.op = 0x310) :
    let g := modMt (bankPop f key q.bank) key fun m => reqPerform m q (some q.round)
    let e := elemOf f key
    (elemOf g key).mt.data = putLine e.mt.data (bankByte q.bank q.line) (accLine q.acop q.fmt (lineAt e.mt.data (bankByte q.bank q.line)) q.data) ∧
      spTag (elemOf g key).mt q.bank q.line = (spTag e.mt q.bank q.line &&& 0xFF00#16) ||| BitVec.ofNat 16 q.fmt := by
  have h := reqPerform_acc (elemOf (bankPop f key q.bank) key).mt hop (some q.round)
  dsimp only
  rw [modMt, elemOf_modElem_same]
  rwa [show (elemOf (bankPop f key q.bank) key).mt.data = (elemOf f key).mt.data by rw [mt_bankPop],
    show spTag (elemOf (bankPop f key q.bank) key).mt q.bank q.line = spTag (elemOf f key).mt q.bank q.line by rw [mt_bankPop]; rfl] at h

/-! ### An access of an ordered section (06 R167, R168) -/

/-- A read of a section sees the section's own writes. -/
theorem bodyAccept_read (hgrp : q.grp = 0) (hsect : sectOf (elemOf f key).mt q = some i) (hop : q.op = 0x300)
    (hplaces : replyPlaces q ≤ outRoom (elemOf f key) q.reply) (hgood : sectBad (elemOf f key).mt q = false) :
    let v := sectView (elemOf f key).mt i q
    bodyAccept f key q = acqDone (emitReply (modMt f key fun _ => bankTouch (elemOf (bankPop f key q.bank) key).mt q.bank q.plane q.round)
      key q.plane q.reply q.lvl (if q.hdr then some (spTag v q.bank q.line) else none) (BitVec.ofNat 512 (reqOld v q))) key q := by
  have hread : reqWrites q = false := by simp [reqWrites, hop]
  have hwrite : bodyWrite (elemOf (bankPop f key q.bank) key).mt q = bankTouch (elemOf (bankPop f key q.bank) key).mt q.bank q.plane q.round := by
    simp [bodyWrite, hsect, hread]
  have hplaces' : ¬outRoom (elemOf f key) q.reply < replyPlaces q := by omega
  simp [bodyAccept, hwrite, hread, hgrp, hop, hsect, hgood, hplaces', replyData]

/-- A write that its section buffers answers later, and one of a run that the tile has thrown never: neither sends a reply now. -/
theorem bodyAccept_mute {m' : MtSt} (hgrp : q.grp = 0) (hop : q.op = 0x301) (hwrite : bodyWrite (elemOf (bankPop f key q.bank) key).mt q = m')
    (hdirect : ∀ i, sectOf (elemOf f key).mt q = some i → sectTakes (elemOf f key).mt i q ≠ .direct) :
    bodyAccept f key q = acqDone (modMt f key fun _ => m') key q := by
  have hw : reqWrites q = true := by simp [reqWrites, hop]
  have hnd : ((sectOf (elemOf f key).mt q).any fun i => reqWrites q && sectTakes (elemOf f key).mt i q == .direct) = false := by
    cases hs : sectOf (elemOf f key).mt q with
    | none => rfl
    | some i => simpa [hw] using hdirect i hs
  unfold bodyAccept
  extract_lets e m g m1 direct kept late last mute view bad old f1 out f2
  have hm1 : m1 = m' := hwrite
  have hd : direct = false := hnd
  have hquiet : (kept || mute) = true := by
    cases hs : sectOf m1 q <;> simp [kept, mute, hd, hw, hop, hs]
  have hlate : late = kept := if_neg (by omega)
  have hroom : (last && !late && !mute) = false := by
    rw [hlate]
    revert hquiet
    cases kept <;> cases mute <;> simp
  have hbad : bad = false := by simp [bad, hop]
  rw [if_neg (by simp [hd]), if_neg (by simp [hroom]), if_neg (by simp [hbad]), if_pos hgrp, if_pos (by simpa using hquiet)]
  simp only [f1, hm1]

theorem bodyWrite_keep (hop : q.op = 0x301) (hsect : sectOf m q = some i) (hkeep : sectTakes m i q = .keep) : bodyWrite m q = sectKeep m i q := by
  simp [bodyWrite, hsect, hkeep, reqWrites, hop]

theorem bodyWrite_thrown (hsect : sectOf m q = none) : bodyWrite m q = bankTouch m q.bank q.plane q.round := by
  simp [bodyWrite, hsect]

end

/-! ### A command of a control core (10 R298) -/

section
variable {s : State} {key : Nat} {q : MemReq}

theorem cmdAccept_lent (h : lentBank s.fab key q.bank = true) :
    cmdAccept s key q = cmdFault (withFab s (cmdReply (bankPop s.fab key q.bank) q.key q.id q.reg 0)) key q 6 3 := by
  simp [cmdAccept, h, withFab]

theorem cmdRoom_any (h : ∀ r, cmdRound s.fab key q.plane = some r → bankRoom (elemOf s.fab key).mt q.bank q.line q.plane r = true) :
    ((cmdRound s.fab key q.plane).any fun r => !bankRoom (elemOf s.fab key).mt q.bank q.line q.plane r) = false := by
  cases hr : cmdRound s.fab key q.plane with
  | none => rfl
  | some r => simpa using h r hr

theorem cmdAccept_bad (hown : lentBank s.fab key q.bank = false)
    (hroom : ∀ r, cmdRound s.fab key q.plane = some r → bankRoom (elemOf s.fab key).mt q.bank q.line q.plane r = true)
    (hbad : reqBad (elemOf s.fab key).mt q = true) :
    cmdAccept s key q = cmdFault (withFab s (cmdReply (bankPop s.fab key q.bank) q.key q.id q.reg 0)) key q 0x0B 1 := by
  simp [cmdAccept, hown, cmdRoom_any hroom, hbad, withFab]

theorem cmdAccept_performs (hown : lentBank s.fab key q.bank = false)
    (hroom : ∀ r, cmdRound s.fab key q.plane = some r → bankRoom (elemOf s.fab key).mt q.bank q.line q.plane r = true)
    (hgood : reqBad (elemOf s.fab key).mt q = false) :
    cmdAccept s key q = withFab s (cmdReply (modMt (bankPop s.fab key q.bank) key fun m => reqPerform m q (cmdRound s.fab key q.plane))
      q.key q.id q.reg (BitVec.ofNat 64 (reqOld (elemOf s.fab key).mt q))) := by
  simp [cmdAccept, hown, cmdRoom_any hroom, hgood, withFab]

end

/-! ### Credits, bounces, the window of the quota (05 R136-R138) -/

/-- Only what a change makes of the tile as it is matters. -/
theorem modMt_congr {f : Fab} {key : Nat} {g h : MtSt → MtSt} (hgh : g (elemOf f key).mt = h (elemOf f key).mt) : modMt f key g = modMt f key h :=
  congrArg (fun m => { f with elems := tins f.elems key { elemOf f key with mt := m } }) hgh

section
variable {s : State} {key : Nat}

theorem execBounceArrival_next {sel : Nat} {t u : Token} {rest : List Token} (h : tget [] (elemOf s.fab key).net.bin sel = t :: u :: rest) :
    let v := t.data.toNat
    let x : FirnE := { ctx := t.ctx.toNat, addr := BitVec.ofNat 32 v, acop := fld v 32 4, fmt := fld v 36 8, data := u.data }
    execBounceArrival key sel s = .next (withFab s (modElem s.fab key fun e =>
      { outSub e x.ctx 1 with firn := firnPut e.firn x, net := { e.net with bin := tput [] e.net.bin sel rest } })) := by
  rw [execBounceArrival, h]
  rfl

theorem execCreditSend_next {i sx sy ctx n cq : Nat} (h : (elemOf s.fab key).mt.credits[i]? = some (sx, sy, ctx, n, cq)) :
    let t := stamp false { data := BitVec.ofNat 512 n, ctx := BitVec.ofNat 2 ctx, dest := some (sx, sy) }
    execCreditSend key i s = .next (withFab s
      (modMt (modMt s.fab key fun m => { m with credits := m.credits.eraseIdx i }) key fun m => { m with crq := m.crq ++ [(cq, t)] })) := by
  rw [execCreditSend, h]
  rfl

theorem execCreditArrival_next {i kind ctx n : Nat} {x : FirnE} (h : s.fab.creds[i]? = some (kind, key, ctx, n, x)) :
    execCreditArrival i s = .next (withFab s (modElem { s.fab with creds := s.fab.creds.eraseIdx i } key fun e =>
      if kind = 1 then { outSub e ctx n with firn := firnPut e.firn x } else outSub e ctx n)) := by
  rw [execCreditArrival, h]
  rfl

theorem execQuotaWindowClear_due (h : (elemOf s.fab key).mt.qdue = true) :
    execQuotaWindowClear key s = .next (withFab s (modMt s.fab key fun m => { m with accepted := [], qdue := false })) := by
  unfold execQuotaWindowClear onFab
  dsimp only
  rw [modMt_congr (g := quotaClear) (h := fun m => { m with accepted := [], qdue := false }) (if_pos h)]
  rfl

end

/-! ### Memory tiles between firings -/

/-- Settles O48, event by event: the sections' (`Retires`), the ordered requests' (`Passes`), the banks' (`Stands`), the credits' and bounces'. -/
theorem memoryTileEvents : Obligations.MemoryTileEvents := by
  unfold Obligations.MemoryTileEvents
  refine fun s key => ⟨?retire, ?pass, ?accept, ?bounce, ?send, ?credit, ?firn, ?quota⟩
  case retire =>
    intro plane dom i y t q hfirst hsect hresult hruns
    have h : Retires s key plane dom i y t q := ⟨hfirst, hsect, hresult, hruns⟩
    exact ⟨fun _ _ hw htook hgrp hplaces hroom hop => h.store hw htook hgrp hplaces hroom hop,
      fun _ _ hw htook hplaces hroom => h.askRoom hw htook hplaces hroom, fun hw hr hout => h.finish hw hr hout⟩
  case pass =>
    intro plane dom q hruns hkept hopen hnext
    have h : Passes s key plane dom q := ⟨hruns, hkept, hopen, hnext⟩
    exact ⟨fun hop hflight hout => h.open_section hop hflight hout, fun hop hgrp hdepth hwins => h.access hop hgrp hdepth hwins⟩
  case accept =>
    intro bank q rest hruns hdepth hfree hhead
    have h : Stands s key bank q rest := ⟨hruns, hdepth, hfree, hhead⟩
    refine ⟨?slot, ?accumulate, ?body, ?command⟩
    case slot =>
      intro hsrc hsec hgrp hroom hplaces hgood
      exact h.accept_slot (.inl hsrc) hsec (slotAccept_reply hsrc hgrp hroom hplaces hgood)
    case accumulate =>
      intro hsrc hsec hop _ hroom
      refine ⟨fun hbad => ?_, fun hgood _ => ?_, bankPop_acc s.fab hop⟩
      · exact h.accept_slot (.inr hsrc) hsec ((slotAccept_acc hsrc hop hroom).trans (if_pos hbad))
      · exact h.accept_slot (.inr hsrc) hsec ((slotAccept_acc hsrc hop hroom).trans (if_neg (by rw [hgood]; decide)))
    case body =>
      intro hsrc hsec hgrp
      refine ⟨fun i hsect hop hplaces hgood => ?_, fun i hsect hop hkeep => ?_, fun hsect hop => ?_⟩
      · exact h.accept_body hsrc hsec (bodyAccept_read hgrp hsect hop hplaces hgood)
      · refine h.accept_body hsrc hsec (bodyAccept_mute hgrp hop (bodyWrite_keep hop (by simpa using hsect) (by simpa using hkeep)) fun j hj => ?_)
        obtain rfl : i = j := Option.some.inj (hsect.symm.trans hj)
        simp [hkeep]
      · refine h.accept_body hsrc hsec (bodyAccept_mute hgrp hop (bodyWrite_thrown (by simpa using hsect)) fun j hj => ?_)
        exact absurd (hsect.symm.trans hj) (by simp)
    case command =>
      intro hsrc
      exact ⟨fun hlent => h.accept_cmd hsrc (cmdAccept_lent hlent), fun hown hroom hbad => h.accept_cmd hsrc (cmdAccept_bad hown hroom hbad),
        fun hown hroom hgood => h.accept_cmd hsrc (cmdAccept_performs hown hroom hgood)⟩
  case bounce => exact fun _ _ _ _ h => execBounceArrival_next h
  case send => exact fun _ _ _ _ _ _ h => execCreditSend_next h
  case credit => exact fun _ _ _ _ h => execCreditArrival_next h
  case firn => exact fun _ _ _ _ h => execCreditArrival_next h
  case quota => exact execQuotaWindowClear_due

end Sys2Proof.Machine
end

section
/-! SUPPORT. Sections, fences and accumulates of slots: one lemma per outcome of a firing (05 R131, R134, R137, 06 R166-R169, 13 R375-R378). -/

namespace Sys2Proof.Machine

section
variable {s : State} {w : Slot} {t : Token}

/-! ### Ordered sections (06 R166, R168, 13 R375) -/

/-- A section found by its place in the list is open on its queue. -/
theorem sectOpen_ne_none {e : Elem} {q i : Nat} (h : e.mt.sects.findIdx? (fun y => y.queue == q && y.result.isNone) = some i) :
    sectOpen e q ≠ none := by
  intro hnone
  obtain ⟨hlt, hopen, -⟩ := List.findIdx?_eq_some_iff_getElem.mp h
  exact List.find?_eq_none.mp hnone _ (List.getElem_mem hlt) hopen

theorem execOsecB_waits (hf : fires s 0x30C w) (hh : headOf (seen s 0x30C w).e w.a.toNat = some t)
    (hshut : sectOpen (seen s 0x30C w).e w.a.toNat = none) :
    let x := seen s 0x30C w
    let y := poppedToken x w.a.toNat t
    let r := { slotReq (began s 0x30C w) x 0 0 y.data with ctag := y.ctag, check := y.check, no := x.e.mt.nextReq }
    execOsecB w s = .next (withFab s (modElem (popped s 0x30C w) x.key fun e =>
      modRun { e with mt := { e.mt with nextReq := e.mt.nextReq + 1 } } x.plane fun u =>
        { u with domq := tput [] u.domq r.dom (tget [] u.domq r.dom ++ [r]) })) := by
  rw [execOsecB, fire_next hf]
  simp only [hshut, hh, Option.isSome_none, Bool.false_eq_true, if_false, popped]

/-- A second osec.b on a queue whose section has not ended. -/
theorem execOsecB_illop (hf : fires s 0x30C w) (hopen : sectOpen (seen s 0x30C w).e w.a.toNat ≠ none) :
    execOsecB w s = .next (withFab s (slotRaise (began s 0x30C w) (seen s 0x30C w) 1 (some w.a.toNat) 0 0)) := by
  rw [execOsecB, fire_next hf]
  simp only [Option.isSome_iff_ne_none.mpr hopen, if_true]

/-- An osec.e on a queue without a section. -/
theorem execOsecE_illop (hf : fires s 0x30D w) (hh : headOf (seen s 0x30D w).e w.a.toNat = some t)
    (hshut : sectOpen (seen s 0x30D w).e w.a.toNat = none) :
    execOsecE w s = .next (withFab s (slotRaise (began s 0x30D w) (seen s 0x30D w) 1 (some w.a.toNat) 0 0)) := by
  rw [execOsecE, fire_next hf]
  simp only [hshut, hh, Option.isNone_none, if_true]

theorem execOsecE_result {i : Nat} (hf : fires s 0x30D w) (hh : headOf (seen s 0x30D w).e w.a.toNat = some t)
    (hkept : sectThrown (seen s 0x30D w).e w.a.toNat = false)
    (hi : (seen s 0x30D w).e.mt.sects.findIdx? (fun y => y.queue == w.a.toNat && y.result.isNone) = some i) :
    let x := seen s 0x30D w
    execOsecE w s = .next (withFab s (modMt (popped s 0x30D w) x.key fun m =>
      { m with sects := lmod x.e.mt.sects i fun y => { y with result := some (poppedToken x w.a.toNat t, w.dst.toNat) } })) := by
  have hopen : ¬(sectOpen (seen s 0x30D w).e w.a.toNat).isNone = true := fun h => sectOpen_ne_none hi (Option.isNone_iff_eq_none.mp h)
  rw [execOsecE, fire_next hf]
  simp only [hh, if_neg hopen, hkept, hi, Bool.false_eq_true, if_false, popped]

/-! ### Fences (13 R376) -/

theorem execFenceM_forwards (hf : fires s 0x30E w) (hshut : sectOpen (seen s 0x30E w).e w.a.toNat = none) :
    let x := seen s 0x30E w
    execFenceM w s = .next (withFab s (emitTo (popAll (modElem (began s 0x30E w) x.key fun e =>
      modRun e x.plane fun r => { r with fences := r.fences.filter fun n => n.1 != x.slot }) x) x w.dst.toNat
        (carry x w.dst.toNat w.a.toNat (fireLvl x)))) := by
  rw [execFenceM, fire_next hf]
  simp only [hshut, Option.isSome_none, Bool.false_eq_true, if_false]

/-! ### Senders of accumulates (05 R131, R137, 13 R377) -/

/-- Of the checks of R131 alignment is the first. -/
theorem accCheck_none_aligned {f : Fab} {core plane addr acop fmt : Nat} (h : accCheck f core plane addr acop fmt = none) : addr % 64 = 0 := by
  by_contra hne
  rw [accCheck, if_pos hne] at h
  cases h

/-- The address of an hacc (13 R377). -/
def haccAddr (x : FireCtx) : Nat := scalarOf x x.w.a.toNat % 2 ^ 32

/-- The addend of an hacc, as the firn tile would hold it (05 R136). -/
def haccAddend (x : FireCtx) : FirnE :=
  { ctx := x.plane, addr := BitVec.ofNat 32 (haccAddr x), acop := x.w.md.toNat % 4, fmt := x.w.fmt.toNat, data := vecSrc x x.w.fmt.toNat x.w.b.toNat }

/-- The valid entry of an hacc's address, operation and format. -/
def haccEntry (x : FireCtx) : Option FirnE := firnFind x.e.firn x.plane (BitVec.ofNat 32 (haccAddr x)) (x.w.md.toNat % 4) x.w.fmt.toNat

/-- The fabric once an hacc has sent its request and its addend with the entry's share (05 R137). -/
def haccSent (s : State) (w : Slot) : Fab :=
  let x := seen s 0x310 w
  let d := w.dst.toNat
  let p := selfXY (began s 0x310 w) x.key
  let f := modElem (popped s 0x310 w) x.key fun e => outAdd { e with firn := (firnTake x.e.firn (haccAddend x)).1 } x.plane
  putPwe (pushOut (pushOut f x.key d { newToken x d (accReq p.1 p.2 false (haccAddend x)) (fireLvl x) with bnc := 3 })
    x.key d { newToken x d (firnTake x.e.firn (haccAddend x)).2 (fireLvl x) with bnc := 4 }) x true

/-- An hacc's own checks and those of R131 pass. -/
def haccPasses (s : State) (w : Slot) : Prop :=
  let x := seen s 0x310 w
  fires s 0x310 w ∧ fld w.md.toNat 2 2 % 2 = 0 ∧
    accCheck (began s 0x310 w) (keyCore x.key) x.plane (haccAddr x) (w.md.toNat % 4) w.fmt.toNat = none

/-- With its checks passed, what hacc does turns on the firn entry of its address. -/
theorem execHacc_checked (h : haccPasses s w) :
    let x := seen s 0x310 w
    execHacc w s = .next (withFab s (if (haccEntry x).any fun y => y.bad then slotRaise (began s 0x310 w) x 0x0B none (haccAddr x) 3
      else haccSent s w)) := by
  obtain ⟨hf, hkind, hcheck⟩ := h
  have haligned := not_not_intro (accCheck_none_aligned hcheck)
  have heven : ¬fld w.md.toNat 2 2 % 2 = 1 := by omega
  have haddr : scalarOf (seen s 0x310 w) w.a.toNat % 2 ^ 32 = haccAddr (seen s 0x310 w) := rfl
  rw [execHacc, fire_next hf]
  simp only [haddr, if_neg haligned, if_neg heven, hcheck]
  rfl

theorem execHacc_uncorr (h : haccPasses s w) (hbad : ∃ y, haccEntry (seen s 0x310 w) = some y ∧ y.bad = true) :
    let x := seen s 0x310 w
    execHacc w s = .next (withFab s (slotRaise (began s 0x310 w) x 0x0B none (haccAddr x) 3)) := by
  dsimp only
  rw [execHacc_checked h, if_pos ((Option.any_eq_true _ _).mpr hbad)]

theorem execHacc_sends (h : haccPasses s w) (hgood : ∀ y, haccEntry (seen s 0x310 w) = some y → y.bad = false) :
    execHacc w s = .next (withFab s (haccSent s w)) := by
  rw [execHacc_checked h, if_neg]
  rw [Option.any_eq_true]
  rintro ⟨y, hy, hbad⟩
  exact absurd hbad (by rw [hgood y hy]; decide)

theorem execFlres_next (hf : fires s 0x311 w) :
    execFlres w s = .next (withFab s (putPwe (modElem (popped s 0x311 w) s.site.key fun e => flresStart e s.site.plane false)
      (seen s 0x311 w) false)) := fire_next hf

/-! ### Receivers of accumulates (05 R134, 13 R378; log 46) -/

/-- The fabric as an hrecv decides: its firing has been marked (14 R400). -/
def hrecvBegan (s : State) (w : Slot) : Fab :=
  let x := seen s 0x30F w
  modMt (began s 0x30F w) x.key fun m => { m with took := hrecvMark x.plane x.slot :: m.took }

variable {u : Token} {l : List Token} {b r : Nat}

theorem execHrecv_refuse (hf : fires s 0x30F w) (hrx : tget [] (seen s 0x30F w).e.net.rx w.a.toNat = t :: u :: l)
    (hd : hrecvDecide (hrecvBegan s w) (seen s 0x30F w).key (seen s 0x30F w).plane w = (.refuse, b, r)) :
    let x := seen s 0x30F w
    execHrecv w s = .next (withFab s (pushOut (pushOut (popAll (hrecvBegan s w) x) x.key w.dst.toNat (bounceTok x t 1 true))
      x.key w.dst.toNat (bounceTok x u 2 false))) := by
  unfold hrecvBegan at hd ⊢
  rw [execHrecv, fire_next hf]
  simp only [hrx, hd]

/-- The request that hrecv makes of the two beats of an accumulate, for line r of bank b (05 R129, R134). -/
def hrecvReq (x : FireCtx) (t u : Token) (b r : Nat) : MemReq :=
  let v := t.data.toNat
  { src := 2, plane := x.plane, slot := x.slot, op := 0x310, fmt := fld v 36 8, bank := b, line := r, addr := BitVec.ofNat 32 v
    size := 64, data := u.data, acop := fld v 32 4, fl := bit v 45, cr := bit v 60, sx := fld v 46 7, sy := fld v 53 7
    port := x.w.a.toNat - 0x20, queue := x.w.a.toNat, round := x.p.run.round, no := x.e.mt.nextReq }

theorem execHrecv_accept (hf : fires s 0x30F w) (hrx : tget [] (seen s 0x30F w).e.net.rx w.a.toNat = t :: u :: l)
    (hd : hrecvDecide (hrecvBegan s w) (seen s 0x30F w).key (seen s 0x30F w).plane w = (.accept, b, r))
    (hb : bankAllowed (hrecvBegan s w) (seen s 0x30F w).key (seen s 0x30F w).plane b = true) :
    let x := seen s 0x30F w
    let a := hrecvReq x t u b r
    let g := bankPush (modMt (popAll (hrecvBegan s w) x) x.key fun m => { m with nextReq := m.nextReq + 1 }) x.key a
      (if a.fl then none else some w.a.toNat)
    execHrecv w s = .next (withFab s (if a.fl then g else modMt g x.key fun m => countUse m b a.port)) := by
  unfold hrecvBegan at hd hb ⊢
  rw [execHrecv, fire_next hf]
  simp only [hrx, hd, hb, Bool.not_true, Bool.false_eq_true, if_false]
  rfl

end

/-- Settles O43, operation by operation, each by the lemma of its outcome above. -/
theorem sectionsAndAccumulates : Obligations.SectionsAndAccumulates := by
  unfold Obligations.SectionsAndAccumulates
  intro s w t q d hd shut illop
  refine ⟨?begins, ?beginsOpen, ?endsShut, ?ends, ?fence, ?accumulate, ?flush, ?receive⟩
  case begins => exact fun ⟨hf, hh⟩ hshut => execOsecB_waits hf hh hshut
  case beginsOpen => exact fun ⟨hf, _⟩ hopen => execOsecB_illop hf hopen
  case endsShut => exact fun ⟨hf, hh⟩ hshut => execOsecE_illop hf hh hshut
  case ends => exact fun ⟨hf, hh⟩ hkept _ hi => execOsecE_result hf hh hkept hi
  case fence => exact fun hf hshut => execFenceM_forwards hf hshut
  case accumulate =>
    intro x a held hf hkind hcheck
    exact ⟨fun hbad => execHacc_uncorr ⟨hf, hkind, hcheck⟩ hbad, fun hgood => execHacc_sends ⟨hf, hkind, hcheck⟩ hgood⟩
  case flush => exact fun hf => execFlres_next hf
  case receive =>
    intro x f u l b r hf hrx
    exact ⟨fun hdec => execHrecv_refuse hf hrx hdec, fun hdec hbank => execHrecv_accept hf hrx hdec hbank⟩

end Sys2Proof.Machine
end

section
/-! SUPPORT. The end of a plane at an element changes elements alone: the idle counts of its region stay (07 R195, 15 R423). -/

namespace Sys2Proof.Machine

/-- The end of a plane at an element: g with the plane's end marks popped, one emitted on each of its outputs, and the plane retiring (07 R190, R195).
Which queues and marks these are is read in f. -/
def planeEnded (f g : Fab) (key plane : Nat) : Fab :=
  let p := planeOf (elemOf f key) plane
  modElem
    ((markOuts key p).foldl (fun f q => pushOut f key q (markToken (isWideSel q) 3 plane (ctagOf key p q) p.run.round))
      ((planeWaits key p).foldl (fun f q => popQ f key q) g))
    key fun e => modPlane e plane fun p => { p with st := .retiring }

/-- An END_MARK that is due ends the plane in the present fabric: no idle count of a context changes (07 R195, 15 R423). -/
theorem execEndMark_ends {s : State} {key plane : Nat} (hplanes : hasPlanes key = true) (hmoves : planeStill s.fab key plane = false)
    (hend : seesEnd s.fab key plane = true) (hslots : endSlots (elemOf s.fab key) key plane = true) (hflush : edgeFlush s.fab key plane = none)
    (hclean : edgeClean s.fab key plane = true)
    (hroom : (markOuts key (planeOf (elemOf s.fab key) plane)).all (fun q => decide (1 ≤ outRoom (elemOf s.fab key) q)) = true) :
    execEndMark key plane s = .next (withFab s (planeEnded s.fab s.fab key plane)) := by
  simp only [execEndMark, hplanes, hmoves, hend, hslots, hflush]
  rw [if_neg (by decide), if_pos ⟨hclean, hroom⟩]
  rfl

@[simp] theorem popQ_regions (f : Fab) (key sel : Nat) : (popQ f key sel).regions = f.regions := by
  unfold popQ
  dsimp only
  split
  · rfl
  · split <;> rfl

/-- Ending a plane changes elements alone. -/
theorem planeEnded_regions (f g : Fab) (key plane : Nat) : (planeEnded f g key plane).regions = g.regions := by
  have hpop (l : List Nat) : (l.foldl (fun f q => popQ f key q) g).regions = g.regions :=
    foldl_keeps (P := fun h : Fab => h.regions = g.regions) rfl fun _ _ hh => (popQ_regions ..).trans hh
  exact foldl_keeps (P := fun h : Fab => h.regions = g.regions) (hpop _) fun _ _ hh => hh

/-- A pass from narrow queue 0x40 to narrow queue 0x48: inmask and outmask name them by bit 12 (08 R228). -/
def endPass : Slot :=
  { inmask := 0x1000, outmask := 0x1000, predreq := 0, predmask := 0, kindc := 0, lvlc := 0, brk := 0, valid := 1, dst := 0x48, a := 0x40, b := 0
    c := 0, fmt := 0, rnd := 0, sat := 0, pwe := 0, pwn := 0, pwi := 0, md := 0, imm := 0 }

/-- Compute tile 11 with that pass in slot 0 of plane 0, and the context's end mark at its input. -/
def endTile : Elem :=
  { net := { rx := [(0x40, [markToken false 3 0 0 0])] }
    planes := [(0, { st := .bound, frames := [(0, BitVec.ofNat 256 (slotWord 0x200 endPass))] })] }

/-- The machine with that tile in a region of one core, whose context 0 has stood idle for one tile cycle. -/
def endState : State :=
  { State.reset with
    fab := { elems := [(11, endTile)]
             regions := [(0, { launch := { lrec := 0, part := 0, fn := 0, queue := 0, index := 0, seq := 0 }
                               x0 := 0, y0 := 0, w := 1, h := 1, plane := 0, started := true, ctxs := [(0, { idle := 1 })] })] } }

/-- The tile sees the end of context 0, and nothing of the edge is left for it to do (07 R190, R195). -/
theorem endState_due : hasPlanes 11 = true ∧ planeStill endState.fab 11 0 = false ∧ seesEnd endState.fab 11 0 = true ∧
    endSlots (elemOf endState.fab 11) 11 0 = true ∧ edgeFlush endState.fab 11 0 = none ∧ edgeClean endState.fab 11 0 = true ∧
    (markOuts 11 (planeOf (elemOf endState.fab 11) 0)).all (fun q => decide (1 ≤ outRoom (elemOf endState.fab 11) q)) = true := by
  decide +kernel

/-- A return of the idle count to 0 would show in the region. -/
theorem endState_busy_ne : (busy endState.fab 11 0).regions ≠ endState.fab.regions := by
  decide +kernel

/-- Refutes O50: the clause of the end mark has the context's idle count return to 0 (`busy`). An end mark is none of the three things that return
it in R423, namely a slot's firing, a token's move on a link and a stream's issue, and END_MARK leaves it (`execEndMark_ends`): at `endState` it stays 1. -/
theorem not_roundEvents : ¬ Obligations.RoundEvents := by
  unfold Obligations.RoundEvents
  intro h
  obtain ⟨hplanes, hmoves, hend, hslots, hflush, hclean, hroom⟩ := endState_due
  obtain ⟨-, hmarks, -⟩ := h endState 11 0 0 (fetchRegion .reset)
  obtain ⟨-, -, hended⟩ := hmarks hplanes hmoves
  have hclaimed : execEndMark 11 0 endState = .next (withFab endState (planeEnded endState.fab (busy endState.fab 11 0) 11 0)) :=
    hended hend hslots hflush ⟨hclean, hroom⟩
  rw [execEndMark_ends hplanes hmoves hend hslots hflush hclean hroom, Host.Outcome.next.injEq] at hclaimed
  have hregions := congrArg (fun s => s.fab.regions) hclaimed
  simp only [withFab_fab, planeEnded_regions] at hregions
  exact endState_busy_ne hregions.symm

end Sys2Proof.Machine
end

section
/-! SUPPORT. What a slot's firing leaves alone: all that is neither an element nor a region, and which regions there are (07 R192, 08 R234). -/

namespace Sys2Proof.Machine

/-- A change of a region neither places nor removes one. -/
theorem isSome_region?_modRegion (f : Fab) (rid r : Nat) (g : Region → Region) : (region? (modRegion f rid g) r).isSome = (region? f r).isSome := by
  have hkey (q : Nat × Region) : ((if q.1 = rid then (q.1, g q.2) else q).1 == r) = (q.1 == r) := by
    split <;> rfl
  simp only [region?, modRegion, Option.isSome_map, List.isSome_find?, List.any_map, Function.comp_def, hkey]

/-- A firing's moves leave the control cores, the loads, the replies on their way and the set of regions. -/
theorem SlotMoves.frame {f g : Fab} (h : SlotMoves f g) :
    g.ccs = f.ccs ∧ g.loads = f.loads ∧ g.fills = f.fills ∧ ∀ r, (region? g r).isSome = (region? f r).isSome := by
  induction h with
  | refl => exact ⟨rfl, rfl, rfl, fun _ => rfl⟩
  | elem _ _ ih => exact ih
  | region _ ih =>
    obtain ⟨hccs, hloads, hfills, hregions⟩ := ih
    exact ⟨hccs, hloads, hfills, fun r => (isSome_region?_modRegion ..).trans (hregions r)⟩

/-- The next state of a slot operation is the present one with a fabric that a firing's moves reach. -/
theorem exec_slot_next {i : Instr} {n : Nat} {s t : State} (hi : encodeSlot i = some n) (ht : exec i s = .next t) :
    ∃ g, t = withFab s g ∧ SlotMoves s.fab g := by
  have h := exec_slot_moves (s := s) hi
  rwa [ht] at h

/-- Settles O44: a slot operation changes the fabric alone, and that by a firing's moves (`exec_slot_moves`), which leave what `SlotMoves.frame` names. -/
theorem slotsFrame : Obligations.SlotsFrame := by
  unfold Obligations.SlotsFrame
  intro i n s t hi ht
  obtain ⟨g, rfl, hmoves⟩ := exec_slot_next hi ht
  exact ⟨rfl, rfl, rfl, rfl, rfl, rfl, rfl, rfl, hmoves.frame⟩

end Sys2Proof.Machine
end

section
/-! SUPPORT. Events of the network, case by case: arrival at a receive buffer, a switch's head, permits, burst headers (03 R94, 07 R181-R187, R201,
R202). -/

namespace Sys2Proof.Machine

section
variable {s : State} {key sel : Nat}

/-! ### Arrival and permits (07 R181, R185, R187) -/

/-- The head of a link leaves it for a buffer with a free place; its arrival check decides whether it enters, or its place goes back as a permit. -/
theorem execTokenArrival_next {t : Token} {l : List Token} (hwire : tget [] (elemOf s.fab key).net.wire sel = t :: l)
    (hruns : halted s.fab key = false) (hpower : (elemOf s.fab key).powerGated = false)
    (hroom : (tget [] (elemOf s.fab key).net.rx sel).length < linkSlots key (selDir sel)) :
    let a := arrive (busy (modNet s.fab key fun n => { n with wire := tput [] n.wire sel l }) key t.ctx.toNat) key sel t
    execTokenArrival key sel s = .next (withFab s
      (if a.1 then modNet a.2 key fun n => { n with rx := tput [] n.rx sel (tget [] n.rx sel ++ [t]) } else permitBack a.2 key sel)) := by
  have hgo : ¬(halted s.fab key = true ∨ (elemOf s.fab key).powerGated = true ∨
      linkSlots key (selDir sel) ≤ (tget [] (elemOf s.fab key).net.rx sel).length) := by
    simpa [hruns, hpower] using hroom
  simp only [execTokenArrival, hwire, if_neg hgo]
  rfl

/-- An owed permit frees a place. -/
theorem execPermitReturn_owed (h : tget 0 (elemOf s.fab key).net.owed sel ≠ 0) :
    execPermitReturn key sel s = .next (withFab s (modNet s.fab key fun n =>
      { n with owed := tput 0 n.owed sel (tget 0 n.owed sel - 1), used := tput 0 n.used sel (tget 0 n.used sel - 1) })) := if_neg h

/-! ### The switch (07 R182, R184, R185, R201, R202) -/

/-- A head of sel that its switch may serve toward d now: the element runs and the audit does not visit its link group (21 R474). -/
structure HeadStands (s : State) (key : Nat) (wide : Bool) (d sel : Nat) (t : Token) : Prop where
  head : headToward s.fab key sel d = some t
  runs : halted s.fab key = false
  network : isWideSel sel = wide
  link : d < 4
  unvisited : (auditOf s.fab (keyCore key) (rowOf key)).cyc = none

namespace HeadStands
variable {wide : Bool} {d k : Nat} {t : Token}

/-- None of the conditions holds under which a switch leaves its head where it is. -/
theorem served (h : HeadStands s key wide d sel t) : ¬(halted s.fab key = true ∨ isWideSel sel ≠ wide ∨ 4 ≤ d ∨
    (auditOf s.fab (keyCore key) (rowOf key)).cyc.isSome = true) := by
  simp [h.runs, h.network, h.link, h.unvisited]

/-- At a border the head is thrown away and reported (R201). -/
theorem execSwitchRoute_border (h : HeadStands s key wide d sel t) (hborder : isBorder s.fab key d = true) :
    execSwitchRoute key wide d sel s = .next (withFab s (tokFault (takeSource s.fab key sel) key 7 d none t)) := by
  simp only [execSwitchRoute, h.head, if_neg h.served, if_pos hborder]
  rfl

/-- So it is before a dark element (R202). -/
theorem execSwitchRoute_dark (h : HeadStands s key wide d sel t) (hborder : isBorder s.fab key d = false) (hdark : isDark s.fab key d = true) :
    execSwitchRoute key wide d sel s = .next (withFab s (tokFault (takeSource s.fab key sel) key 0x11 d none t)) := by
  simp only [execSwitchRoute, h.head, if_neg h.served, if_neg (ne_true_of_eq_false hborder), if_pos hdark]
  rfl

/-- A head that may leave goes on the link to the next element, on its VC and with a permit of it (R184, R185). -/
theorem execSwitchRoute_leaves (h : HeadStands s key wide d sel t) (hborder : isBorder s.fab key d = false) (hdark : isDark s.fab key d = false)
    (hleave : mayLeave s.fab key wide d sel t = true) (hk : neighbour key d = some k) :
    let v := linkVc sel t
    let o := outSel ((if wide then 0x20 else 0x40) + v) d
    let i := inSel ((if wide then 0x20 else 0x40) + v) (opposite d)
    let u : Token := { (if isOutSel sel then { t with sent := some key } else t) with twin := false }
    execSwitchRoute key wide d sel s =
      .next (withFab s (modNet (modNet (busy (noteMove (takeSource s.fab key sel) key t) key t.ctx.toNat) key fun n =>
        { n with
          used := tput 0 n.used o (tget 0 n.used o + 1)
          arbw := if wide && v != 3 then tput 0 n.arbw d v else n.arbw
          arbn := if wide || t.dest.isSome then n.arbn else tput 0 n.arbn d v
          pair := if t.bnc = 1 ∨ t.bnc = 3 then tins n.pair o (256 * t.ctx.toNat + sel) else if t.bnc = 2 ∨ t.bnc = 4 then tdel n.pair o else n.pair })
        k fun n => { n with wire := tput [] n.wire i (tget [] n.wire i ++ [u]) })) := by
  have hgoes : ¬(!mayLeave s.fab key wide d sel t) = true := by simp [hleave]
  simp only [execSwitchRoute, h.head, if_neg h.served, if_neg (ne_true_of_eq_false hborder), if_neg (ne_true_of_eq_false hdark), if_neg hgoes, hk]
  rfl

end HeadStands

/-! ### Burst headers (03 R94, R96) -/

/-- A burst header of a plane that takes it: the element runs and has planes, and the plane is bound and not revoked. -/
structure HeaderStands (s : State) (key sel : Nat) (t : Token) : Prop where
  head : headOf (elemOf s.fab key) sel = some t
  header : t.kind = 1
  runs : halted s.fab key = false
  planes : hasPlanes key = true
  bound : (planeOf (elemOf s.fab key) t.ctx.toNat).st = .bound
  kept : (planeOf (elemOf s.fab key) t.ctx.toNat).revoked = false

namespace HeaderStands
variable {t : Token}

/-- None of the conditions holds under which a header stays at the head of its queue. -/
theorem taken (h : HeaderStands s key sel t) : ¬(t.kind ≠ 1 ∨ halted s.fab key = true ∨ (!hasPlanes key) = true ∨
    (planeOf (elemOf s.fab key) t.ctx.toNat).st ≠ .bound ∨ (planeOf (elemOf s.fab key) t.ctx.toNat).revoked = true) := by
  simp [h.header, h.runs, h.planes, h.bound, h.kept]

/-- A popped header of a format that is not reserved stands in the latch of its queue. -/
theorem execBurstHeaderArrival_latches (h : HeaderStands s key sel t) (hpop : (popPlane s.fab key t.ctx.toNat sel t).2 = true)
    (hfmt : (t.data.setWidth 16).toNat % 256 < 12) :
    execBurstHeaderArrival key sel s = .next (withFab s (modElem (popPlane s.fab key t.ctx.toNat sel t).1 key fun e => modRun e t.ctx.toNat fun r =>
      headerLatch key (planeOf (elemOf s.fab key) t.ctx.toNat) sel (t.data.setWidth 16) { r with hdr := tput 0x7F00 r.hdr sel (t.data.setWidth 16) })) := by
  have hpopped : ¬(!(popPlane s.fab key t.ctx.toNat sel t).2) = true := by simp [hpop]
  simp only [execBurstHeaderArrival, h.head, if_neg h.taken, onFab, if_neg hpopped, if_neg (Nat.not_le.mpr hfmt)]
  rfl

/-- One of a reserved format is ILLOP. -/
theorem execBurstHeaderArrival_reserved (h : HeaderStands s key sel t) (hpop : (popPlane s.fab key t.ctx.toNat sel t).2 = true)
    (hfmt : 12 ≤ (t.data.setWidth 16).toNat % 256) :
    execBurstHeaderArrival key sel s = .next (withFab s (tokIllop (popPlane s.fab key t.ctx.toNat sel t).1 key sel t)) := by
  have hpopped : ¬(!(popPlane s.fab key t.ctx.toNat sel t).2) = true := by simp [hpop]
  simp only [execBurstHeaderArrival, h.head, if_neg h.taken, onFab, if_neg hpopped, if_pos hfmt]
  rfl

end HeaderStands

end

/-! ### The network -/

/-- Settles O47, event by event: arrivals, the switch's head (`HeadStands`), permits, burst headers (`HeaderStands`). -/
theorem networkEvents : Obligations.NetworkEvents := by
  unfold Obligations.NetworkEvents
  refine fun s key sel => ⟨?arrival, ?switch, ?permit, ?header⟩
  case arrival => exact fun _ _ hwire hruns hpower hroom => execTokenArrival_next hwire hruns hpower hroom
  case switch =>
    intro t wide d hhead hruns hwide hd haudit
    have h : HeadStands s key wide d sel t := ⟨hhead, hruns, hwide, hd, haudit⟩
    exact ⟨fun hborder => h.execSwitchRoute_border hborder, fun hborder hdark => h.execSwitchRoute_dark hborder hdark,
      fun _ hborder hdark hleave hk => h.execSwitchRoute_leaves hborder hdark hleave hk⟩
  case permit => exact fun howed => execPermitReturn_owed howed
  case header =>
    intro t hhead hkind hruns hplanes n p hdr q hbound hkept hpop
    have h : HeaderStands s key sel t := ⟨hhead, hkind, hruns, hplanes, hbound, hkept⟩
    exact ⟨fun hfmt => h.execBurstHeaderArrival_latches hpop hfmt, fun hfmt => h.execBurstHeaderArrival_reserved hpop hfmt⟩

end Sys2Proof.Machine
end

section
/-! SUPPORT. Slot words: the fields of a word and those of a slot are one another's, and so are opcodes and operations (08 R227, R235). -/

namespace Sys2Proof

/-! ### Fields -/

/-- A field beside the bits above it. -/
theorem bits_join (w : Nat) {hi lo n : Nat} (h : hi = lo + n) :
    w / 2 ^ hi * 2 ^ hi + w / 2 ^ lo % 2 ^ n * 2 ^ lo = w / 2 ^ lo * 2 ^ lo := by
  subst h
  rw [pow_add, ← Nat.div_div_eq_div_mul, mul_comm (2 ^ lo), ← mul_assoc, ← add_mul, Nat.div_add_mod']

theorem bitsAt_eq_iff {w lo n : Nat} {f : BitVec n} : bitsAt w lo n = f ↔ w / 2 ^ lo % 2 ^ n = f.toNat := by
  rw [← BitVec.toNat_inj, bitsAt, BitVec.toNat_ofNat]

/-! ### The fields of a slot word (08 R227) -/

/-- The fields of a 128-bit word, put together from the top down, are the word. -/
theorem slotWord_slotOf {w : Nat} (h : w < 2 ^ 128) : slotWord (w / 2 ^ 70 % 1024) (slotOf w) = w := by
  have htop : w / 2 ^ 112 % 2 ^ 16 = w / 2 ^ 112 := Nat.mod_eq_of_lt (by omega)
  have hop : 1024 = 2 ^ 10 := rfl
  simp only [slotWord, slotOf, bitsAt, BitVec.toNat_ofNat, htop, hop]
  simp only [bits_join, Nat.reduceAdd]
  omega

section
variable {op : Nat} (h : op < 1024) (s : Slot)
include h

theorem slotWord_lt : slotWord op s < 2 ^ 128 := by
  unfold slotWord
  omega

theorem slotWord_opcode : slotWord op s / 2 ^ 70 % 1024 = op := by
  unfold slotWord
  omega

theorem slotOf_slotWord : slotOf (slotWord op s) = s := by
  cases s
  simp only [slotOf, Slot.mk.injEq]
  and_intros <;>
  · refine BitVec.eq_of_toNat_eq ?_
    simp only [bitsAt, BitVec.toNat_ofNat, slotWord]
    omega

end

/-! ### Opcodes (08 R235) -/

/-- The opcode of an operation is that operation's, whatever its fields. -/
theorem opcodeInstr_of_slotParts {i : Instr} {op : Nat} {w : Slot} (h : Machine.slotParts i = some (op, w)) :
    op < 1024 ∧ opcodeInstr op w = some i := by
  cases i <;> cases h <;> exact ⟨by decide, rfl⟩

/-- The operation of an opcode has that opcode, and the fields that it is given. -/
theorem slotParts_of_opcodeInstr {i : Instr} {op : Nat} {w : Slot} (h : opcodeInstr op w = some i) : Machine.slotParts i = some (op, w) := by
  unfold opcodeInstr at h
  split at h <;> cases h <;> rfl

/-- Whether an opcode is assigned does not depend on the fields. -/
theorem opcodeInstr_isSome (op : Nat) (v w : Slot) : (opcodeInstr op v).isSome = (opcodeInstr op w).isSome := by
  unfold opcodeInstr
  split <;> rfl

/-! ### Words -/

theorem encodeSlot_eq_some_iff {i : Instr} {n : Nat} :
    encodeSlot i = some n ↔ ∃ op w, Machine.slotParts i = some (op, w) ∧ slotWord op w = n := by
  simp [encodeSlot]

theorem decodeSlot_slotWord {op : Nat} (h : op < 1024) (w : Slot) : decodeSlot (slotWord op w) = opcodeInstr op w := by
  rw [decodeSlot, slotWord_opcode h, slotOf_slotWord h]

/-- The word of an operation decodes to it. -/
theorem decodeSlot_of_encodeSlot {i : Instr} {n : Nat} (h : encodeSlot i = some n) : n < 2 ^ 128 ∧ decodeSlot n = some i := by
  obtain ⟨op, w, hparts, rfl⟩ := encodeSlot_eq_some_iff.mp h
  obtain ⟨hop, hinstr⟩ := opcodeInstr_of_slotParts hparts
  exact ⟨slotWord_lt hop w, (decodeSlot_slotWord hop w).trans hinstr⟩

/-- A word that decodes to an operation is the operation's word. -/
theorem encodeSlot_of_decodeSlot {i : Instr} {n : Nat} (hn : n < 2 ^ 128) (h : decodeSlot n = some i) : encodeSlot i = some n :=
  encodeSlot_eq_some_iff.mpr ⟨_, _, slotParts_of_opcodeInstr h, slotWord_slotOf hn⟩

/-- Words of one opcode both decode or neither does. -/
theorem decodeSlot_isSome {m n : Nat} (h : m / 2 ^ 70 % 1024 = n / 2 ^ 70 % 1024) : (decodeSlot m).isSome = (decodeSlot n).isSome := by
  rw [decodeSlot, h, opcodeInstr_isSome _ _ (slotOf n), decodeSlot]

/-- Settles O6: an operation's fields are read back from its word, a word is put together from its fields, and the opcode alone decides whether a
word has an operation. -/
theorem slotWordsRoundTrip : Obligations.SlotWordsRoundTrip := by
  unfold Obligations.SlotWordsRoundTrip
  refine ⟨fun _ _ => decodeSlot_of_encodeSlot, fun n hn => ?_⟩
  cases h : decodeSlot n with
  | some i => exact encodeSlot_of_decodeSlot hn h
  | none =>
    intro i m hm hop
    have hsome := decodeSlot_isSome hop
    simp [(decodeSlot_of_encodeSlot hm).2, h] at hsome

end Sys2Proof
end

section
/-! SUPPORT. Control-core words: in each format a word is its fixed bits and its fields (08 R208-R212, R247). -/

namespace Sys2Proof

/-! ### Formats (08 R208) -/

/-- The fields from bit 15 up, beside a base with the major opcode and what the low fields leave of the low 15 bits. -/
theorem upper_fields_join {base w low : Nat} (hw : w < 2 ^ 32) (hmajor : w / 2 ^ 26 % 64 = base / 2 ^ 26) (hlow : w % 2 ^ 15 = base % 2 ^ 26 + low) :
    base + (bitsAt w 21 5).toNat * 2 ^ 21 + (bitsAt w 16 5).toNat * 2 ^ 16 + (bitsAt w 15 1).toNat * 2 ^ 15 + low = w := by
  have hbase : base = w / 2 ^ 26 * 2 ^ 26 + base % 2 ^ 26 := by omega
  rw [hbase]
  simp only [bitsAt, BitVec.toNat_ofNat, add_right_comm _ (base % 2 ^ 26)]
  simp only [bits_join, Nat.reduceAdd]
  omega

theorem encA_eq_iff {base w : Nat} {d a b : BitVec 5} {p q : BitVec 1} (hbase : base < 2 ^ 32 ∧ base % 2 ^ 26 < 512) :
    encA base d a b p q = w ↔ (w < 2 ^ 32 ∧ w / 2 ^ 26 % 64 = base / 2 ^ 26 ∧ w % 512 = base % 512) ∧
      bitsAt w 21 5 = d ∧ bitsAt w 16 5 = a ∧ bitsAt w 11 5 = b ∧ bitsAt w 10 1 = p ∧ bitsAt w 9 1 = q := by
  constructor
  · rintro rfl
    simp only [bitsAt_eq_iff, encA]
    omega
  · rintro ⟨⟨hw, hmajor, hfn⟩, rfl, rfl, rfl, rfl, rfl⟩
    have hjoin : base = w / 2 ^ 26 * 2 ^ 26 + w % 512 := by omega
    rw [hjoin]
    simp only [encA, bitsAt, BitVec.toNat_ofNat, add_right_comm _ (w % 512)]
    simp only [bits_join, Nat.reduceAdd]
    omega

theorem encI_eq_iff {base w : Nat} {d a : BitVec 5} {p : BitVec 1} {i : BitVec 15} (hbase : base < 2 ^ 32 ∧ base % 2 ^ 26 = 0) :
    encI base d a p i = w ↔ (w < 2 ^ 32 ∧ w / 2 ^ 26 % 64 = base / 2 ^ 26) ∧
      bitsAt w 21 5 = d ∧ bitsAt w 16 5 = a ∧ bitsAt w 15 1 = p ∧ bitsAt w 0 15 = i := by
  constructor
  · rintro rfl
    simp only [bitsAt_eq_iff, encI]
    omega
  · rintro ⟨⟨hw, hmajor⟩, rfl, rfl, rfl, rfl⟩
    exact upper_fields_join hw hmajor (by simp only [bitsAt, BitVec.toNat_ofNat]; omega)

theorem encShift_eq_iff {base w : Nat} {d a : BitVec 5} {p : BitVec 1} {z s : BitVec 6}
    (hbase : base < 2 ^ 32 ∧ base % 2 ^ 12 = 0 ∧ base % 2 ^ 26 < 2 ^ 15) :
    encShift base d a p z s = w ↔ (w < 2 ^ 32 ∧ w / 2 ^ 26 % 64 = base / 2 ^ 26 ∧ w / 4096 % 8 = base / 4096 % 8) ∧
      bitsAt w 21 5 = d ∧ bitsAt w 16 5 = a ∧ bitsAt w 15 1 = p ∧ bitsAt w 6 6 = z ∧ bitsAt w 0 6 = s := by
  constructor
  · rintro rfl
    simp only [bitsAt_eq_iff, encShift]
    omega
  · rintro ⟨⟨hw, hmajor, hkind⟩, rfl, rfl, rfl, rfl, rfl⟩
    rw [encShift, add_assoc]
    exact upper_fields_join hw hmajor (by simp only [bitsAt, BitVec.toNat_ofNat]; omega)

/-- A CSR instruction's format is the I format with 12 of the immediate's bits for the number. -/
theorem encI_csr_eq_iff {base w : Nat} {d a : BitVec 5} {p : BitVec 1} {c : BitVec 12}
    (hbase : base < 2 ^ 32 ∧ base % 2 ^ 12 = 0 ∧ base % 2 ^ 26 < 2 ^ 15) :
    encI base d a p c = w ↔ (w < 2 ^ 32 ∧ w / 2 ^ 26 % 64 = base / 2 ^ 26 ∧ w / 4096 % 8 = base / 4096 % 8) ∧
      bitsAt w 21 5 = d ∧ bitsAt w 16 5 = a ∧ bitsAt w 15 1 = p ∧ bitsAt w 0 12 = c := by
  constructor
  · rintro rfl
    simp only [bitsAt_eq_iff, encI]
    omega
  · rintro ⟨⟨hw, hmajor, hkind⟩, rfl, rfl, rfl, rfl⟩
    exact upper_fields_join hw hmajor (by simp only [bitsAt, BitVec.toNat_ofNat]; omega)

theorem encU_eq_iff {base w : Nat} {d : BitVec 5} {i : BitVec 21} (hbase : base < 2 ^ 32 ∧ base % 2 ^ 26 = 0) :
    encU base d i = w ↔ (w < 2 ^ 32 ∧ w / 2 ^ 26 % 64 = base / 2 ^ 26) ∧ bitsAt w 21 5 = d ∧ bitsAt w 0 21 = i := by
  simp only [bitsAt_eq_iff, encU]
  omega

theorem encB_eq_iff {base w : Nat} {d a : BitVec 5} {p q : BitVec 1} {i : BitVec 14} (hbase : base < 2 ^ 32 ∧ base % 2 ^ 26 = 0) :
    encB base d a p q i = w ↔ (w < 2 ^ 32 ∧ w / 2 ^ 26 % 64 = base / 2 ^ 26) ∧
      bitsAt w 21 5 = d ∧ bitsAt w 16 5 = a ∧ bitsAt w 15 1 = p ∧ bitsAt w 14 1 = q ∧ bitsAt w 0 14 = i := by
  constructor
  · rintro rfl
    simp only [bitsAt_eq_iff, encB]
    omega
  · rintro ⟨⟨hw, hmajor⟩, rfl, rfl, rfl, rfl, rfl⟩
    rw [encB, add_assoc]
    exact upper_fields_join hw hmajor (by simp only [bitsAt, BitVec.toNat_ofNat]; omega)

/-- A command's word, and what a number adds to its cmd (08 R211). -/
theorem encReply_add_eq_iff {base cmd w : Nat} {r a : BitVec 5} {p : BitVec 1} (hbase : base / 2 ^ 15 = 0xE0000000 / 2 ^ 15)
    (hcmd : base % 512 + cmd < 512) :
    encReply base r a p + cmd = w ↔ (w < 2 ^ 32 ∧ w / 2 ^ 26 % 64 = 0x38 ∧ w / 512 % 64 = base / 512 % 64 ∧ w % 512 = base % 512 + cmd) ∧
      bitsAt w 21 5 = r ∧ bitsAt w 16 5 = a ∧ bitsAt w 15 1 = p := by
  constructor
  · rintro rfl
    simp only [bitsAt_eq_iff, encReply]
    omega
  · rintro ⟨⟨hw, hmajor, heng, hfn⟩, rfl, rfl, rfl⟩
    exact upper_fields_join hw (by omega) (by omega)

theorem encCmd_add_eq_iff {base cmd w : Nat} {a : BitVec 5} {p : BitVec 1} (hbase : base / 2 ^ 15 = 0xE0000000 / 2 ^ 15)
    (hcmd : base % 512 + cmd < 512) :
    encCmd base a p + cmd = w ↔ (w < 2 ^ 32 ∧ w / 2 ^ 26 % 64 = 0x38 ∧ w / 512 % 64 = base / 512 % 64 ∧ w % 512 = base % 512 + cmd) ∧
      w / 2 ^ 21 % 32 = 0 ∧ bitsAt w 16 5 = a ∧ bitsAt w 15 1 = p :=
  (encReply_add_eq_iff (r := 0) hbase hcmd).trans (by rw [bitsAt_eq_iff (lo := 21)]; rfl)

theorem encReply_eq_iff {base w : Nat} {r a : BitVec 5} {p : BitVec 1} (hbase : base / 2 ^ 15 = 0xE0000000 / 2 ^ 15) :
    encReply base r a p = w ↔ (w < 2 ^ 32 ∧ w / 2 ^ 26 % 64 = 0x38 ∧ w / 512 % 64 = base / 512 % 64 ∧ w % 512 = base % 512) ∧
      bitsAt w 21 5 = r ∧ bitsAt w 16 5 = a ∧ bitsAt w 15 1 = p :=
  encReply_add_eq_iff (cmd := 0) hbase (Nat.mod_lt _ (by decide))

theorem encCmd_eq_iff {base w : Nat} {a : BitVec 5} {p : BitVec 1} (hbase : base / 2 ^ 15 = 0xE0000000 / 2 ^ 15) :
    encCmd base a p = w ↔ (w < 2 ^ 32 ∧ w / 2 ^ 26 % 64 = 0x38 ∧ w / 512 % 64 = base / 512 % 64 ∧ w % 512 = base % 512) ∧
      w / 2 ^ 21 % 32 = 0 ∧ bitsAt w 16 5 = a ∧ bitsAt w 15 1 = p :=
  encCmd_add_eq_iff (cmd := 0) hbase (Nat.mod_lt _ (by decide))

theorem encEngine_eq_iff {base w : Nat} {r a : BitVec 5} {p : BitVec 1} {n : BitVec 4} (hbase : base / 2 ^ 15 = 0xE0000000 / 2 ^ 15)
    (hnumber : base / 512 % 16 = 0) :
    encEngine base r a p n = w ↔ (w < 2 ^ 32 ∧ w / 2 ^ 26 % 64 = 0x38 ∧ w / 8192 % 4 = base / 8192 % 4 ∧ w % 512 = base % 512) ∧
      bitsAt w 21 5 = r ∧ bitsAt w 16 5 = a ∧ bitsAt w 15 1 = p ∧ bitsAt w 9 4 = n := by
  constructor
  · rintro rfl
    simp only [bitsAt_eq_iff, encEngine]
    omega
  · rintro ⟨⟨hw, hmajor, heng, hfn⟩, rfl, rfl, rfl, rfl⟩
    exact upper_fields_join hw (by omega) (by simp only [bitsAt, BitVec.toNat_ofNat]; omega)

/-- A number in the low bits of a command's cmd. -/
theorem cmd_number_iff {base w k : Nat} {n : BitVec k} (hk : k ≤ 9) (hnumber : base % 2 ^ k = 0) :
    w % 512 = base % 512 + n.toNat ↔ w % 512 / 2 ^ k = base % 512 / 2 ^ k ∧ bitsAt w 0 k = n := by
  have hdvd : 2 ^ k ∣ 512 := pow_dvd_pow 2 hk
  have hrow : 2 ^ k * (base % 512 / 2 ^ k) = base % 512 :=
    Nat.mul_div_cancel' ((Nat.dvd_mod_iff hdvd).mpr (Nat.dvd_of_mod_eq_zero hnumber))
  rw [bitsAt_eq_iff, pow_zero, Nat.div_one, ← Nat.mod_mod_of_dvd w hdvd, Nat.div_mod_unique (Nat.two_pow_pos k), hrow]
  have := n.isLt
  omega

theorem encCmdN_eq_iff {base w k : Nat} {a : BitVec 5} {p : BitVec 1} {n : BitVec k} (hbase : base / 2 ^ 15 = 0xE0000000 / 2 ^ 15)
    (hnumber : k ≤ 9 ∧ base % 2 ^ k = 0 ∧ base % 512 + 2 ^ k ≤ 512) :
    encCmdN base a p n = w ↔
      (w < 2 ^ 32 ∧ w / 2 ^ 26 % 64 = 0x38 ∧ w / 512 % 64 = base / 512 % 64 ∧ w % 512 / 2 ^ k = base % 512 / 2 ^ k ∧ bitsAt w 0 k = n) ∧
        w / 2 ^ 21 % 32 = 0 ∧ bitsAt w 16 5 = a ∧ bitsAt w 15 1 = p := by
  obtain ⟨hk, hmul, hroom⟩ := hnumber
  rw [← cmd_number_iff hk hmul]
  exact encCmd_add_eq_iff hbase ((Nat.add_lt_add_left n.isLt _).trans_le hroom)

/-- A numbered command with a reply has the I format with the number in the immediate's low bits. -/
theorem encI_number_eq_iff {base w k : Nat} {r a : BitVec 5} {p : BitVec 1} {n : BitVec k} (hbase : base / 2 ^ 15 = 0xE0000000 / 2 ^ 15)
    (hnumber : k ≤ 9 ∧ base % 2 ^ k = 0 ∧ base % 512 + 2 ^ k ≤ 512) :
    encI base r a p n = w ↔
      (w < 2 ^ 32 ∧ w / 2 ^ 26 % 64 = 0x38 ∧ w / 512 % 64 = base / 512 % 64 ∧ w % 512 / 2 ^ k = base % 512 / 2 ^ k ∧ bitsAt w 0 k = n) ∧
        bitsAt w 21 5 = r ∧ bitsAt w 16 5 = a ∧ bitsAt w 15 1 = p := by
  obtain ⟨hk, hmul, hroom⟩ := hnumber
  rw [← cmd_number_iff hk hmul]
  exact encReply_add_eq_iff hbase ((Nat.add_lt_add_left n.isLt _).trans_le hroom)

theorem encInject_eq_iff {base w : Nat} {a : BitVec 5} {p : BitVec 1} {l : BitVec 3} {n : BitVec 4} (hbase : base / 2 ^ 15 = 0xE0000000 / 2 ^ 15)
    (hcmd : base % 512 = 0) :
    encInject base a p l n = w ↔ (w < 2 ^ 32 ∧ w / 2 ^ 26 % 64 = 0x38 ∧ w / 512 % 64 = base / 512 % 64 ∧ w / 128 % 4 = 0) ∧
      w / 2 ^ 21 % 32 = 0 ∧ bitsAt w 16 5 = a ∧ bitsAt w 15 1 = p ∧ bitsAt w 4 3 = l ∧ bitsAt w 0 4 = n := by
  rw [encInject, add_assoc]
  refine (encCmd_add_eq_iff hbase (by omega)).trans ?_
  simp only [bitsAt_eq_iff]
  omega

/-! ### Every word is its instruction's (08 R210, R211) -/

theorem encodeWord_badWord {w : Nat} (hw : w < 2 ^ 32) : encodeWord (badWord w) = some w :=
  congrArg some (BitVec.toNat_ofNat w 32 |>.trans (Nat.mod_eq_of_lt hw))

/-- A word of a command without a reply is a bad one where its reply field is not zero (10 R279). -/
theorem encodeWord_replyZero {w : Nat} {i : Instr} (hw : w < 2 ^ 32) (h : w / 2 ^ 21 % 32 = 0 → encodeWord i = some w) :
    encodeWord (if w / 2 ^ 21 % 32 = 0 then i else badWord w) = some w := by
  split
  · exact h ‹_›
  · exact encodeWord_badWord hw

section
variable {w : Nat} (hw : w < 2 ^ 32)
include hw

theorem encodeWord_decMajor0 (hmajor : w / 2 ^ 26 % 64 = 0x00) : encodeWord (decMajor0 w) = some w := by
  unfold decMajor0
  split
  case h_32 => exact encodeWord_badWord hw
  all_goals exact congrArg some ((encA_eq_iff (by decide)).mpr ⟨⟨hw, hmajor, ‹_›⟩, rfl, rfl, rfl, rfl, rfl⟩)

theorem encodeWord_decMajor1 (hmajor : w / 2 ^ 26 % 64 = 0x01) : encodeWord (decMajor1 w) = some w := by
  unfold decMajor1
  split
  case h_10 => exact encodeWord_badWord hw
  all_goals exact congrArg some ((encA_eq_iff (by decide)).mpr ⟨⟨hw, hmajor, ‹_›⟩, rfl, rfl, rfl, rfl, rfl⟩)

theorem encodeWord_decShift (hmajor : w / 2 ^ 26 % 64 = 0x0A) : encodeWord (decShift w) = some w := by
  unfold decShift
  split
  case h_7 => exact encodeWord_badWord hw
  all_goals exact congrArg some ((encShift_eq_iff (by decide)).mpr ⟨⟨hw, hmajor, ‹_›⟩, rfl, rfl, rfl, rfl, rfl⟩)

theorem encodeWord_decCsr (hmajor : w / 2 ^ 26 % 64 = 0x30) : encodeWord (decCsr w) = some w := by
  unfold decCsr
  split
  case h_4 => exact encodeWord_badWord hw
  all_goals exact congrArg some ((encI_csr_eq_iff (by decide)).mpr ⟨⟨hw, hmajor, ‹_›⟩, rfl, rfl, rfl, rfl⟩)

section
variable (hmajor : w / 2 ^ 26 % 64 = 0x38)
include hmajor

theorem encodeWord_decAg (heng : w / 512 % 64 < 16) : encodeWord (decAg w) = some w := by
  have hkind : w / 8192 % 4 = 0 := by omega
  unfold decAg
  split
  case h_4 => exact encodeWord_badWord hw
  all_goals exact congrArg some ((encEngine_eq_iff (by decide) (by decide)).mpr ⟨⟨hw, hmajor, hkind, ‹_›⟩, rfl, rfl, rfl, rfl⟩)

theorem encodeWord_decMt (hlo : ¬w / 512 % 64 < 16) (hhi : w / 512 % 64 < 32) : encodeWord (decMt w) = some w := by
  have hkind : w / 8192 % 4 = 1 := by omega
  unfold decMt
  split
  case h_9 => exact encodeWord_badWord hw
  all_goals exact congrArg some ((encEngine_eq_iff (by decide) (by decide)).mpr ⟨⟨hw, hmajor, hkind, ‹_›⟩, rfl, rfl, rfl, rfl⟩)

theorem encodeWord_decSeq (heng : w / 512 % 64 = 33) : encodeWord (decSeq w) = some w := by
  unfold decSeq
  split
  case h_4 => exact encodeWord_badWord hw
  all_goals exact congrArg some ((encReply_eq_iff (by decide)).mpr ⟨⟨hw, hmajor, heng, ‹_›⟩, rfl, rfl, rfl⟩)

theorem encodeWord_decHub (heng : w / 512 % 64 = 34) : encodeWord (decHub w) = some w := by
  unfold decHub
  split
  case h_1 | h_3 =>
    exact congrArg some ((encReply_eq_iff (by decide)).mpr ⟨⟨hw, hmajor, heng, ‹_›⟩, rfl, rfl, rfl⟩)
  case h_7 => exact encodeWord_badWord hw
  all_goals
    refine encodeWord_replyZero hw fun hreply => congrArg some ?_
    exact (encCmd_eq_iff (by decide)).mpr ⟨⟨hw, hmajor, heng, ‹_›⟩, hreply, rfl, rfl⟩

theorem encodeWord_decRctl (heng : w / 512 % 64 = 32) : encodeWord (decRctl w) = some w := by
  unfold decRctl
  split
  case isTrue hcmd =>
    refine encodeWord_replyZero hw fun hreply => congrArg some ?_
    exact (encInject_eq_iff (by decide) (by decide)).mpr ⟨⟨hw, hmajor, heng, by omega⟩, hreply, rfl, rfl, rfl, rfl⟩
  split
  case h_1 hrow | h_4 hrow =>
    refine encodeWord_replyZero hw fun hreply => congrArg some ?_
    exact (encCmdN_eq_iff (by decide) (by decide)).mpr ⟨⟨hw, hmajor, heng, hrow, rfl⟩, hreply, rfl, rfl⟩
  case h_2 hrow => exact congrArg some ((encI_number_eq_iff (by decide) (by decide)).mpr ⟨⟨hw, hmajor, heng, hrow, rfl⟩, rfl, rfl, rfl⟩)
  case h_3 hrow =>
    split
    case isTrue hlow =>
      refine encodeWord_replyZero hw fun hreply => congrArg some ?_
      exact (encCmdN_eq_iff (by decide) (by decide)).mpr ⟨⟨hw, hmajor, heng, (by omega : w % 512 / 8 = 20), rfl⟩, hreply, rfl, rfl⟩
    case isFalse hhigh =>
      exact congrArg some ((encI_number_eq_iff (by decide) (by decide)).mpr
        ⟨⟨hw, hmajor, heng, (by omega : w % 512 / 8 = 21), rfl⟩, rfl, rfl, rfl⟩)
  split
  case h_2 => exact congrArg some ((encReply_eq_iff (by decide)).mpr ⟨⟨hw, hmajor, heng, ‹_›⟩, rfl, rfl, rfl⟩)
  case h_12 => exact encodeWord_badWord hw
  all_goals
    refine encodeWord_replyZero hw fun hreply => congrArg some ?_
    exact (encCmd_eq_iff (by decide)).mpr ⟨⟨hw, hmajor, heng, ‹_›⟩, hreply, rfl, rfl⟩

theorem encodeWord_decCommand : encodeWord (decCommand w) = some w := by
  unfold decCommand
  split
  case isTrue hag => exact encodeWord_decAg hw hmajor hag
  split
  case isTrue hlo hhi => exact encodeWord_decMt hw hmajor hlo hhi
  split
  case h_1 heng => exact encodeWord_decRctl hw hmajor heng
  case h_2 heng => exact encodeWord_decSeq hw hmajor heng
  case h_3 heng => exact encodeWord_decHub hw hmajor heng
  case h_4 => exact encodeWord_badWord hw

end

/-- Every word is the word of the instruction that it decodes to. The branches stand in the order of the majors: those of the U and J formats, of the
S and B formats, and of the majors with a decoder of their own are named, and the rest have the I format. -/
theorem encodeWord_decodeWord : encodeWord (decodeWord w) = some w := by
  unfold decodeWord
  split
  case h_1 hmajor => exact encodeWord_decMajor0 hw hmajor
  case h_2 hmajor => exact encodeWord_decMajor1 hw hmajor
  case h_9 hmajor => exact encodeWord_decShift hw hmajor
  case h_10 | h_11 | h_29 | h_30 => exact congrArg some ((encU_eq_iff (by decide)).mpr ⟨⟨hw, ‹_›⟩, rfl, rfl⟩)
  case h_19 | h_20 | h_21 | h_22 | h_23 | h_24 | h_25 | h_26 | h_27 | h_28 =>
    exact congrArg some ((encB_eq_iff (by decide)).mpr ⟨⟨hw, ‹_›⟩, rfl, rfl, rfl, rfl, rfl⟩)
  case h_32 hmajor => exact encodeWord_decCsr hw hmajor
  case h_33 hmajor => exact encodeWord_decCommand hw hmajor
  case h_34 => exact encodeWord_badWord hw
  all_goals exact congrArg some ((encI_eq_iff (by decide)).mpr ⟨⟨hw, ‹_›⟩, rfl, rfl, rfl, rfl⟩)

end

/-! ### Every instruction is its word's (08 R210, R211) -/

section
variable {w : Nat}

theorem decodeWord_major0 (hmajor : w / 2 ^ 26 % 64 = 0x00) : decodeWord w = decMajor0 w := by simp only [decodeWord, hmajor]

theorem decodeWord_major1 (hmajor : w / 2 ^ 26 % 64 = 0x01) : decodeWord w = decMajor1 w := by simp only [decodeWord, hmajor]

theorem decodeWord_shift (hmajor : w / 2 ^ 26 % 64 = 0x0A) : decodeWord w = decShift w := by simp only [decodeWord, hmajor]

theorem decodeWord_csr (hmajor : w / 2 ^ 26 % 64 = 0x30) : decodeWord w = decCsr w := by simp only [decodeWord, hmajor]

section
variable (hmajor : w / 2 ^ 26 % 64 = 0x38)
include hmajor

theorem decodeWord_command : decodeWord w = decCommand w := by simp only [decodeWord, hmajor]

theorem decodeWord_ag (hkind : w / 8192 % 4 = 0) : decodeWord w = decAg w := by
  rw [decodeWord_command hmajor, decCommand, if_pos (by omega)]

theorem decodeWord_mt (hkind : w / 8192 % 4 = 1) : decodeWord w = decMt w := by
  rw [decodeWord_command hmajor, decCommand, if_neg (by omega), if_pos (by omega)]

theorem decodeWord_rctl (heng : w / 512 % 64 = 32) : decodeWord w = decRctl w := by
  rw [decodeWord_command hmajor, decCommand, heng]
  rfl

theorem decodeWord_seq (heng : w / 512 % 64 = 33) : decodeWord w = decSeq w := by
  rw [decodeWord_command hmajor, decCommand, heng]
  rfl

theorem decodeWord_hub (heng : w / 512 % 64 = 34) : decodeWord w = decHub w := by
  rw [decodeWord_command hmajor, decCommand, heng]
  rfl

end

/-- A level other than the reserved one leaves an inject's cmd below the other commands' (10 R284). -/
theorem inject_cmd_lt (hcmd : w / 128 % 4 = 0) (hlevel : bitsAt w 4 3 ≠ 7) : w % 512 < 0x70 := by
  rw [Ne, bitsAt_eq_iff] at hlevel
  change w / 2 ^ 4 % 2 ^ 3 ≠ 7 at hlevel
  omega

end

/-- A well-formed word of the row ILLEGAL_INSTRUCTION is one that no other row assigns, and it decodes to itself (08 R212). -/
theorem decodeWord_illegal {w : BitVec 32} (h : (Instr.illegalInstruction w).wf = true) : decodeWord w.toNat = .illegalInstruction w := by
  have henc := encodeWord_decodeWord w.isLt
  have hun : unassigned w = true := h
  unfold unassigned at hun
  split at hun
  case h_1 v hv =>
    rw [hv] at henc ⊢
    rw [BitVec.eq_of_toNat_eq (Option.some.inj henc)]
  case h_2 => cases hun

/-- The word of a well-formed instruction decodes to it: for each format, the word's fixed bits select the decoder's branch, and its fields are the
operands. -/
theorem decodeWord_of_encodeWord {i : Instr} {n : Nat} (hwf : i.wf = true) (h : encodeWord i = some n) : n < 2 ^ 32 ∧ decodeWord n = i := by
  cases i
  case add | sub | and | or | xor | sll | srl | sra | slt | sltu | min | max | minu | maxu | addw | subw | sllw | srlw | sraw | mul | mulh | mulhu
    | mulhsu | div | divu | rem | remu | clz | ctz | popc | bswap =>
    replace h := (encA_eq_iff (by decide)).mp (Option.some.inj h)
    obtain ⟨⟨hn, hmajor, hfn⟩, rfl, rfl, rfl, rfl, rfl⟩ := h
    exact ⟨hn, by rw [decodeWord_major0 hmajor, decMajor0, hfn]; rfl⟩
  case feClr | feTst | feWait | feTake | feAny | trap | tret | wfe | brk =>
    replace h := (encA_eq_iff (by decide)).mp (Option.some.inj h)
    obtain ⟨⟨hn, hmajor, hfn⟩, rfl, rfl, rfl, rfl, rfl⟩ := h
    exact ⟨hn, by rw [decodeWord_major1 hmajor, decMajor1, hfn]; rfl⟩
  case addi | andi | ori | xori | slti | sltiu | lb | lh | lw | ld | lbu | lhu | lwu | jalr =>
    replace h := (encI_eq_iff (by decide)).mp (Option.some.inj h)
    obtain ⟨⟨hn, hmajor⟩, rfl, rfl, rfl, rfl⟩ := h
    exact ⟨hn, by rw [decodeWord, hmajor]; rfl⟩
  case slli | srli | srai | slliw | srliw | sraiw =>
    replace h := (encShift_eq_iff (by decide)).mp (Option.some.inj h)
    obtain ⟨⟨hn, hmajor, hkind⟩, rfl, rfl, rfl, rfl, rfl⟩ := h
    exact ⟨hn, by rw [decodeWord_shift hmajor, decShift, hkind]; rfl⟩
  case lui | pcadd | j | jal =>
    replace h := (encU_eq_iff (by decide)).mp (Option.some.inj h)
    obtain ⟨⟨hn, hmajor⟩, rfl, rfl⟩ := h
    exact ⟨hn, by rw [decodeWord, hmajor]; rfl⟩
  case sb | sh | sw | sd | beq | bne | blt | bge | bltu | bgeu =>
    replace h := (encB_eq_iff (by decide)).mp (Option.some.inj h)
    obtain ⟨⟨hn, hmajor⟩, rfl, rfl, rfl, rfl, rfl⟩ := h
    exact ⟨hn, by rw [decodeWord, hmajor]; rfl⟩
  case csrrw | csrrs | csrrc =>
    replace h := (encI_csr_eq_iff (by decide)).mp (Option.some.inj h)
    obtain ⟨⟨hn, hmajor, hkind⟩, rfl, rfl, rfl, rfl⟩ := h
    exact ⟨hn, by rw [decodeWord_csr hmajor, decCsr, hkind]; rfl⟩
  case inject =>
    replace h := (encInject_eq_iff (by decide) (by decide)).mp (Option.some.inj h)
    obtain ⟨⟨hn, hmajor, heng, hcmd⟩, hreply, rfl, rfl, rfl, rfl⟩ := h
    have hlow : n % 512 < 0x70 := inject_cmd_lt hcmd (bne_iff_ne.mp hwf)
    exact ⟨hn, by simp only [decodeWord_rctl hmajor heng, decRctl, if_pos hlow, if_pos hreply]⟩
  case vend =>
    replace h := (encCmdN_eq_iff (by decide) (by decide)).mp (Option.some.inj h)
    obtain ⟨⟨hn, hmajor, heng, (hrow : n % 512 / 16 = 8), rfl⟩, hreply, rfl, rfl⟩ := h
    have hhigh : ¬n % 512 < 0x70 := by omega
    exact ⟨hn, by simp only [decodeWord_rctl hmajor heng, decRctl, if_neg hhigh, hrow, if_pos hreply]⟩
  case rdout =>
    replace h := (encI_number_eq_iff (by decide) (by decide)).mp (Option.some.inj h)
    obtain ⟨⟨hn, hmajor, heng, (hrow : n % 512 / 16 = 9), rfl⟩, rfl, rfl, rfl⟩ := h
    have hhigh : ¬n % 512 < 0x70 := by omega
    exact ⟨hn, by simp only [decodeWord_rctl hmajor heng, decRctl, if_neg hhigh, hrow]⟩
  case accrst =>
    replace h := (encCmdN_eq_iff (by decide) (by decide)).mp (Option.some.inj h)
    obtain ⟨⟨hn, hmajor, heng, (hrow : n % 512 / 8 = 20), rfl⟩, hreply, rfl, rfl⟩ := h
    obtain ⟨hhigh, hrow', hlow⟩ : ¬n % 512 < 0x70 ∧ n % 512 / 16 = 10 ∧ n % 16 < 8 := by omega
    exact ⟨hn, by simp only [decodeWord_rctl hmajor heng, decRctl, if_neg hhigh, hrow', if_pos hlow, if_pos hreply]⟩
  case rdacc =>
    replace h := (encI_number_eq_iff (by decide) (by decide)).mp (Option.some.inj h)
    obtain ⟨⟨hn, hmajor, heng, (hrow : n % 512 / 8 = 21), rfl⟩, rfl, rfl, rfl⟩ := h
    obtain ⟨hhigh, hrow', hlow⟩ : ¬n % 512 < 0x70 ∧ n % 512 / 16 = 10 ∧ ¬n % 16 < 8 := by omega
    exact ⟨hn, by simp only [decodeWord_rctl hmajor heng, decRctl, if_neg hhigh, hrow', if_neg hlow]⟩
  case vbind =>
    replace h := (encCmdN_eq_iff (by decide) (by decide)).mp (Option.some.inj h)
    obtain ⟨⟨hn, hmajor, heng, (hrow : n % 512 / 16 = 11), rfl⟩, hreply, rfl, rfl⟩ := h
    have hhigh : ¬n % 512 < 0x70 := by omega
    exact ⟨hn, by simp only [decodeWord_rctl hmajor heng, decRctl, if_neg hhigh, hrow, if_pos hreply]⟩
  case rmark | fencePl | fenceRg | fencePt | fenceSy | drainDm | drainSp | drainHm | drainCf | kwr =>
    replace h := (encCmd_eq_iff (by decide)).mp (Option.some.inj h)
    obtain ⟨⟨hn, hmajor, heng, hcmd⟩, hreply, rfl, rfl⟩ := h
    exact ⟨hn, by simp only [decodeWord_rctl hmajor heng, decRctl, hcmd, if_pos hreply]; rfl⟩
  case wcommit =>
    replace h := (encReply_eq_iff (by decide)).mp (Option.some.inj h)
    obtain ⟨⟨hn, hmajor, heng, hcmd⟩, rfl, rfl, rfl⟩ := h
    exact ⟨hn, by rw [decodeWord_rctl hmajor heng, decRctl, hcmd]; rfl⟩
  case leaseEnd | xinvVa | xinvFn | xinvPart =>
    replace h := (encCmd_eq_iff (by decide)).mp (Option.some.inj h)
    obtain ⟨⟨hn, hmajor, heng, hcmd⟩, hreply, rfl, rfl⟩ := h
    exact ⟨hn, by simp only [decodeWord_hub hmajor heng, decHub, hcmd, if_pos hreply]⟩
  case lease | launch =>
    replace h := (encReply_eq_iff (by decide)).mp (Option.some.inj h)
    obtain ⟨⟨hn, hmajor, heng, hcmd⟩, rfl, rfl, rfl⟩ := h
    exact ⟨hn, by rw [decodeWord_hub hmajor heng, decHub, hcmd]; rfl⟩
  case swap | revoke | relend =>
    replace h := (encReply_eq_iff (by decide)).mp (Option.some.inj h)
    obtain ⟨⟨hn, hmajor, heng, hcmd⟩, rfl, rfl, rfl⟩ := h
    exact ⟨hn, by rw [decodeWord_seq hmajor heng, decSeq, hcmd]; rfl⟩
  case copy | sbind | aflush =>
    replace h := (encEngine_eq_iff (by decide) (by decide)).mp (Option.some.inj h)
    obtain ⟨⟨hn, hmajor, (heng : n / 8192 % 4 = 0), hcmd⟩, rfl, rfl, rfl, rfl⟩ := h
    exact ⟨hn, by rw [decodeWord_ag hmajor heng, decAg, hcmd]; rfl⟩
  case amoAddCmd | amoMinCmd | amoMaxCmd | amoAndCmd | amoOrCmd | amoXorCmd | amoXchgCmd | amoCasCmd =>
    replace h := (encEngine_eq_iff (by decide) (by decide)).mp (Option.some.inj h)
    obtain ⟨⟨hn, hmajor, (heng : n / 8192 % 4 = 1), hcmd⟩, rfl, rfl, rfl, rfl⟩ := h
    exact ⟨hn, by rw [decodeWord_mt hmajor heng, decMt, hcmd]; rfl⟩
  case illegalInstruction w =>
    cases h
    exact ⟨w.isLt, decodeWord_illegal hwf⟩
  all_goals cases h

/-- Settles O5: in each format a word is its fixed bits and its fields, read from the instruction's side and from the decoder's. -/
theorem coreWordsRoundTrip : Obligations.CoreWordsRoundTrip := by
  unfold Obligations.CoreWordsRoundTrip
  exact ⟨fun _ _ => decodeWord_of_encodeWord, fun _ => encodeWord_decodeWord⟩

end Sys2Proof
end

section
/-! SUPPORT. What an element's issue does: the chosen slot's operation, or the stop of a breakpoint (14 R401, 15 R425). -/

namespace Sys2Proof.Machine

theorem issueAct_breaks {s : State} {key plane n : Nat} (cls : IssueClass) (h : breakNow s.fab key = some (plane, n)) :
    issueAct key cls s = execBreakpointStop key plane n s := by
  rw [issueAct, h]

theorem issueAct_issues {s : State} {key plane n : Nat} {cls : IssueClass} {i : Instr} (hb : breakNow s.fab key = none)
    (hc : chooseSlot s.fab key cls = some (plane, n)) (hd : decodeSlot (slotWordOf (planeOf (elemOf s.fab key) plane) n) = some i) :
    issueAct key cls s = exec i { s with site := { core := keyCore key, key := key, plane := plane, slot := n } } := by
  simp only [issueAct, hb, hc, hd]

/-- Settles O2: the action at the head of the agenda is the class's issue, which the breakpoint or the chosen slot's operation decides. -/
theorem stepIssuesChosenSlot : Obligations.StepIssuesChosenSlot := by
  unfold Obligations.StepIssuesChosenSlot
  intro s key cls rest plane n hagenda hsupply s1
  have hstep : step s = issueAct key cls s1 := step_agenda hagenda hsupply
  refine ⟨fun i hbreak hchosen hdecode => ?_, fun hbreak => ?_⟩
  · exact hstep.trans (issueAct_issues (s := s1) hbreak hchosen hdecode)
  · exact hstep.trans (issueAct_breaks (s := s1) cls hbreak)

end Sys2Proof.Machine
end

section
/-! SUPPORT. What taking a trap does to the core's fields (09 R271). -/

namespace Sys2Proof.Machine

/-- The fields of a tstat value (09 R265). -/
theorem mkTstat_fields (supok ta pie ie pmode mode : Bool) :
    let t := mkTstat supok ta pie ie pmode mode
    t.getLsbD 5 = supok ∧ t.getLsbD 4 = ta ∧ t.getLsbD 3 = pie ∧ t.getLsbD 2 = ie ∧ t.getLsbD 1 = pmode ∧ t.getLsbD 0 = mode := by
  revert supok ta pie ie pmode mode
  decide

/-- The mode and the interrupt and trap bits after trap entry (09 R271). -/
theorem trapEntry_tstat (c : CC) (kind code : Nat) (v : Word) (epc : BitVec 16) :
    let t := trapEntry c kind code v epc
    ccPmode t = ccMode c ∧ ccPie t = ccIe c ∧ ccIe t = false ∧ ccTa t = true ∧ ccMode t = ccSupok c ∧ ccSupok t = ccSupok c := by
  obtain ⟨hsupok, hta, hpie, hie, hpmode, hmode⟩ := mkTstat_fields (ccSupok c) true (ccIe c) false (ccMode c) (ccSupok c)
  exact ⟨hpmode, hpie, hie, hta, hmode, hsupok⟩

/-- The core that takes a trap. -/
theorem ccOf_trapped (s : State) (kind code : Nat) (v : Word) :
    ccOf (trapped s kind code v).fab s.site.core = trapEntry (ccTick s.free (cc s)) kind code v (cc s).pc := ccOf_setCc_same s _

/-- A word that is no supervisor-only command is ILLOP in every mode (08 R212). -/
theorem execIllegalInstruction_illop {s : State} {w : BitVec 32} (h : supervisorWord w.toNat = false) :
    execIllegalInstruction w s = ccFinish s (.trap 0 1 (w.setWidth 64)) := by
  simp [execIllegalInstruction, h]

/-- Settles O13: each of the three is a trap of its cause, and the entry's fields are those of `trapEntry`. -/
theorem trapInstructionsEnter : Obligations.TrapInstructionsEnter := by
  unfold Obligations.TrapInstructionsEnter
  intro s d a b p q w hta
  refine ⟨ccFinish_trap _ _ _ hta, ccFinish_trap _ _ _ hta, fun hw => ?illegal, fun kind code v _ _ => ?entry⟩
  case illegal => exact (execIllegalInstruction_illop hw).trans (ccFinish_trap _ _ _ hta)
  case entry =>
    intro c t
    have ht : t = trapEntry (ccTick s.free c) kind code v c.pc := ccOf_trapped s kind code v
    obtain ⟨hpmode, hpie, hie, hta', hmode, hsupok⟩ := trapEntry_tstat (ccTick s.free c) kind code v c.pc
    rw [ht]
    exact ⟨rfl, rfl, rfl, hpmode, hpie, hie, hta', hmode, hsupok, rfl, rfl, rfl, rfl, rfl, rfl, rfl,
      ⟨rfl, rfl, rfl, rfl, rfl, rfl, rfl, rfl⟩⟩

end Sys2Proof.Machine
end

section
/-! SUPPORT. What holds of the registers of every control core, whatever a core's turn, an event of a core or a port does: a property of a core's
registers, full bits and owed bits that the named register operations keep (09 R248-R250, R262, 10 R278). -/

namespace Sys2Proof.Machine

/-! ### Properties of a core's registers -/

/-- Two states of a control core agree in its registers, full bits and owed bits. -/
def SameRegs (c d : CC) : Prop := d.x = c.x ∧ d.full = c.full ∧ d.owed = c.owed

/-- A property of the registers, full bits and owed bits of a core that a core never started has and that the register operations keep: writing a
register that is owed nothing, emptying one, owing one a fill, and the landing of a fill. -/
structure RegisterProp (P : CC → Prop) : Prop where
  fresh : P {}
  same {c d : CC} : P c → SameRegs c d → P d
  write {c : CC} {r : Nat} {v : Word} : isOwed c r = false → P c → P (rset c r v)
  clear {c : CC} {r : Nat} : P c → P (rclear c r)
  owe {c : CC} {r : Nat} : P c → P (rowe c r)
  fill {c : CC} {r : Nat} {v : Word} : P c → P (rfill c r v)

/-- Every control core of the fabric has such a property. -/
def Fab.Cores (P : CC → Prop) (f : Fab) : Prop := RegisterProp P ∧ TabAll P f.ccs

/-- Every control core of the machine has such a property. -/
def State.Cores (P : CC → Prop) (s : State) : Prop := s.fab.Cores P

/-- A step's next state, where it has one, keeps the property. -/
def OutCores (P : CC → Prop) : Out → Prop
  | .next t => t.Cores P
  | .fault _ => True
  | .refused _ => True

/-- The state in which an instruction of a control core ends, where it names one, keeps the property. -/
def CRes.Cores (P : CC → Prop) : CRes → Prop
  | .done t => t.Cores P
  | .lost t => t.Cores P
  | .wait => True
  | .trap _ _ _ => True

variable {P : CC → Prop}

/-! ### Cores with some of their fields changed -/

theorem cores_ccOf {f : Fab} {n : Nat} (h : f.Cores P) : P (ccOf f n) := tabAll_tget h.2 h.1.fresh

theorem cores_cc {s : State} (h : s.Cores P) : P (cc s) := cores_ccOf h

theorem cores_setCc {s : State} {c : CC} (h : s.Cores P) (hc : P c) : (setCc s c).Cores P := ⟨h.1, tabAll_tins h.2 hc⟩

/-- Other fields of the present core may change. -/
theorem cores_moved {s : State} {c : CC} (h : s.Cores P) (hc : SameRegs (cc s) c) : (setCc s c).Cores P := cores_setCc h (h.1.same (cores_cc h) hc)

theorem cores_modCc {f : Fab} {n : Nat} {g : CC → CC} (h : f.Cores P) (hg : ∀ c, P c → P (g c)) : (modCc f n g).Cores P :=
  ⟨h.1, tabAll_tmod h.2 h.1.fresh hg⟩

/-- Other fields of a core may change. -/
theorem cores_modCc_same {f : Fab} {n : Nat} {g : CC → CC} (h : f.Cores P) (hg : ∀ c, SameRegs c (g c)) : (modCc f n g).Cores P :=
  cores_modCc h fun c hc => h.1.same hc (hg c)

theorem sameRegs_ite {p : Prop} [Decidable p] {c d e : CC} (hd : SameRegs c d) (he : SameRegs c e) : SameRegs c (if p then d else e) :=
  ite_keeps hd he

theorem sameRegs_csrPut (c : CC) (n : Nat) (v : Word) : SameRegs c (csrPut c n v) := by
  unfold csrPut
  split <;> exact ⟨rfl, rfl, rfl⟩

/-- The firing of a slot leaves every core. -/
theorem cores_moves {f g : Fab} (hm : SlotMoves f g) (h : f.Cores P) : g.Cores P := by
  induction hm with
  | refl => exact h
  | elem _ _ ih => exact ih
  | region _ ih => exact ih

/-! ### The named operations over the state -/

theorem cores_regionEvent {f : Fab} {r : Region} {m : BitVec 6} (h : f.Cores P) : (regionEvent f r m).Cores P :=
  foldl_keeps h fun _ _ h1 => cores_modCc_same h1 fun _ => ⟨rfl, rfl, rfl⟩

theorem cores_sendFill {f : Fab} {core reg : Nat} {v : Word} (h : f.Cores P) : (sendFill f core reg v).Cores P := ite_keeps h h

theorem cores_cmdDone {f : Fab} {core id : Nat} (h : f.Cores P) : (cmdDone f core id).Cores P := cores_modCc_same h fun _ => ⟨rfl, rfl, rfl⟩

theorem cores_cmdReply {f : Fab} {core id reg : Nat} {v : Word} (h : f.Cores P) : (cmdReply f core id reg v).Cores P :=
  cores_sendFill (cores_cmdDone h)

theorem cores_raiseFault {f : Fab} {core ctx : Nat} {x : FaultRec} (h : f.Cores P) : (raiseFault f core ctx x).Cores P :=
  cores_moves SlotMoves.refl.raiseFault h

/-! ### Fault reports (15 R419-R422) -/

theorem cores_repDone {s : State} {rid : Option Nat} (h : s.Cores P) : (repDone s rid).Cores P := by
  unfold repDone
  split
  · exact h
  · exact cores_regionEvent h

theorem cores_postNext {s : State} {part fn : Nat} (h : s.Cores P) : (postNext s part fn).Cores P := by
  unfold postNext
  dsimp only
  split
  · exact h
  split
  · exact cores_repDone h
  split
  · exact h
  · exact cores_repDone h
  · exact cores_repDone h

theorem cores_postRun {s : State} {part fn : Nat} (h : s.Cores P) : (postRun s part fn).Cores P :=
  foldl_keeps h fun _ _ h1 => cores_postNext h1

theorem cores_postLine {s : State} {part fn : Nat} {rid : Option Nat} {line : Line} (h : s.Cores P) : (postLine s part fn rid line).Cores P :=
  cores_postRun h

theorem cores_poisonPost {s : State} (h : s.Cores P) : (poisonPost s).Cores P :=
  foldl_keeps h fun _ _ h1 => cores_postLine h1

theorem cores_postReport {s : State} {core ctx : Nat} {p : Rep} (h : s.Cores P) : (postReport s core ctx p).Cores P := by
  unfold postReport
  split
  · exact h
  · exact cores_postLine h

theorem cores_haltReport {s : State} {core : Nat} (h : s.Cores P) : (haltReport s core).Cores P := by
  unfold haltReport
  split
  · exact h
  · exact cores_postReport h

/-! ### Completion of a control-core instruction (09 R249-R251) -/

theorem cores_srcCheck {c : CC} {srcs : List (Nat × Bool)} {k : CRes} (hk : k.Cores P) : (srcCheck c srcs k).Cores P := by
  unfold srcCheck
  split
  · exact trivial
  · exact ite_keeps trivial hk

/-- A destination takes the change when it is owed nothing. -/
theorem cores_toDest {s : State} {c : CC} {d : Nat} {c' : CC} (h : s.Cores P) (hc : isOwed c d = false → P c') : (toDest s c d c').Cores P := by
  unfold toDest
  split
  · exact trivial
  next howed => exact cores_setCc h (hc (Bool.eq_false_iff.mpr howed))

theorem cores_ccDone {s : State} (h : s.Cores P) : (ccDone s).Cores P := cores_moved h ⟨rfl, rfl, rfl⟩

theorem cores_ccWait {s : State} (h : s.Cores P) : (ccWait s).Cores P := cores_moved h ⟨rfl, rfl, rfl⟩

theorem cores_ccTrap {s : State} {kind code : Nat} {val : Word} {epc : BitVec 16} (h : s.Cores P) : (ccTrap s kind code val epc).Cores P := by
  unfold ccTrap
  dsimp only
  split
  · exact cores_haltReport (cores_moved h ⟨rfl, rfl, rfl⟩)
  · exact cores_moved h ⟨rfl, rfl, rfl⟩

theorem cores_ccFinish {s : State} {r : CRes} (h : s.Cores P) (hr : r.Cores P) : OutCores P (ccFinish s r) := by
  cases r with
  | done t => exact cores_ccDone hr
  | wait => exact cores_ccWait h
  | lost t => exact cores_ccWait hr
  | trap kind code val => exact cores_ccTrap h

theorem cores_coreUncorr {f : Fab} {core : Nat} (h : f.Cores P) : (coreUncorr f core).Cores P := by
  unfold coreUncorr
  split
  · exact h
  split
  · exact h
  · exact ite_keeps h (cores_raiseFault h)

theorem cores_sramRead {s : State} {a n : Nat} {k : Nat → CRes} (h : s.Cores P) (hk : ∀ x, (k x).Cores P) : (sramRead s a n k).Cores P := by
  unfold sramRead
  split
  · exact cores_coreUncorr h
  · exact hk _

/-! ### Integer, load, store, branch and jump instructions (09 R253-R260) -/

/-- The registers of the present core after a write of one that is owed nothing, with other fields changed. -/
theorem cores_written {s : State} {d : Nat} {v : Word} {c : CC} (h : s.Cores P) (hc : SameRegs (rset (cc s) d v) c) (hd : isOwed (cc s) d = false) :
    P c :=
  h.1.same (h.1.write hd (cores_cc h)) hc

theorem cores_ccAlu {s : State} {d a b : BitVec 5} {p q : BitVec 1} {f : Word → Word → Word} (h : s.Cores P) : OutCores P (ccAlu s d a b p q f) :=
  cores_ccFinish h (cores_srcCheck (cores_toDest h (cores_written h ⟨rfl, rfl, rfl⟩)))

theorem cores_ccAlu1 {s : State} {d a : BitVec 5} {p : BitVec 1} {f : Word → Word} (h : s.Cores P) : OutCores P (ccAlu1 s d a p f) :=
  cores_ccFinish h (cores_srcCheck (cores_toDest h (cores_written h ⟨rfl, rfl, rfl⟩)))

theorem cores_ccAlu0 {s : State} {d : BitVec 5} {v : Word} (h : s.Cores P) : OutCores P (ccAlu0 s d v) :=
  cores_ccFinish h (cores_toDest h (cores_written h ⟨rfl, rfl, rfl⟩))

/-- An address check and a pending acquire stand before an access of the data SRAM. -/
theorem cores_sramCheck {e : Word} {width : Nat} {k : CRes} (h : k.Cores P) : (sramCheck e width k).Cores P :=
  ite_keeps trivial (ite_keeps trivial h)

theorem cores_ccLoad {s : State} {d a : BitVec 5} {p : BitVec 1} {i : BitVec 15} {width : Nat} {f : Nat → Word} (h : s.Cores P) :
    OutCores P (ccLoad s d a p i width f) :=
  cores_ccFinish h (cores_srcCheck (ite_keeps trivial (cores_sramCheck (cores_sramRead h fun _ => cores_toDest h (cores_written h ⟨rfl, rfl, rfl⟩)))))

theorem cores_ccStore {s : State} {d a : BitVec 5} {p q : BitVec 1} {i : BitVec 14} {width : Nat} (h : s.Cores P) :
    OutCores P (ccStore s d a p q i width) :=
  cores_ccFinish h (cores_srcCheck (ite_keeps trivial (cores_sramCheck (cores_moved h ⟨rfl, rfl, rfl⟩))))

theorem cores_ccBranch {s : State} {a b : BitVec 5} {p q : BitVec 1} {o : BitVec 14} {f : Word → Word → Bool} (h : s.Cores P) :
    OutCores P (ccBranch s a b p q o f) :=
  cores_ccFinish h (cores_srcCheck (cores_moved h (sameRegs_ite ⟨rfl, rfl, rfl⟩ ⟨rfl, rfl, rfl⟩)))

theorem cores_execJ {d : BitVec 5} {o : BitVec 21} {s : State} (h : s.Cores P) : OutCores P (execJ d o s) :=
  cores_ccFinish (r := .done _) h (cores_moved h ⟨rfl, rfl, rfl⟩)

theorem cores_execJal {d : BitVec 5} {o : BitVec 21} {s : State} (h : s.Cores P) : OutCores P (execJal d o s) :=
  cores_ccFinish h (cores_toDest h (cores_written h ⟨rfl, rfl, rfl⟩))

theorem cores_execJalr {d a : BitVec 5} {p : BitVec 1} {i : BitVec 15} {s : State} (h : s.Cores P) : OutCores P (execJalr d a p i s) :=
  cores_ccFinish h (cores_srcCheck (ite_keeps trivial (cores_toDest h (cores_written h ⟨rfl, rfl, rfl⟩))))

/-! ### Full/empty instructions, traps and CSRs (09 R261-R275) -/

theorem cores_execFeClr {d a b : BitVec 5} {p q : BitVec 1} {s : State} (h : s.Cores P) : OutCores P (execFeClr d a b p q s) :=
  cores_ccFinish h (cores_toDest h fun _ => h.1.same (h.1.clear (r := d.toNat) (cores_cc h)) ⟨rfl, rfl, rfl⟩)

theorem cores_execFeTst {d a b : BitVec 5} {p q : BitVec 1} {s : State} (h : s.Cores P) : OutCores P (execFeTst d a b p q s) :=
  cores_ccFinish h (cores_toDest h (cores_written h ⟨rfl, rfl, rfl⟩))

theorem cores_execFeWait {d a b : BitVec 5} {p q : BitVec 1} {s : State} (h : s.Cores P) : OutCores P (execFeWait d a b p q s) :=
  cores_ccFinish h (cores_srcCheck (k := .done _) (cores_moved h ⟨rfl, rfl, rfl⟩))

theorem isOwed_rclear (c : CC) (r d : Nat) : isOwed (rclear c r) d = isOwed c d := by
  unfold rclear
  split <;> rfl

theorem cores_execFeTake {d a b : BitVec 5} {p q : BitVec 1} {s : State} (h : s.Cores P) : OutCores P (execFeTake d a b p q s) := by
  refine cores_ccFinish h (cores_srcCheck (cores_toDest h fun howed => ?_))
  have hclear : P (rclear (cc s) a.toNat) := h.1.clear (cores_cc h)
  exact h.1.same (h.1.write ((isOwed_rclear _ _ _).trans howed) hclear) ⟨rfl, rfl, rfl⟩

theorem cores_execFeAny {d a b : BitVec 5} {p q : BitVec 1} {s : State} (h : s.Cores P) : OutCores P (execFeAny d a b p q s) :=
  cores_ccFinish h (cores_srcCheck (ite_keeps trivial (cores_toDest h (cores_written h ⟨rfl, rfl, rfl⟩))))

theorem cores_execTret {d a b : BitVec 5} {p q : BitVec 1} {s : State} (h : s.Cores P) : OutCores P (execTret d a b p q s) :=
  cores_ccFinish h (ite_keeps trivial (cores_moved h ⟨rfl, rfl, rfl⟩))

theorem cores_execWfe {d a b : BitVec 5} {p q : BitVec 1} {s : State} (h : s.Cores P) : OutCores P (execWfe d a b p q s) :=
  cores_ccFinish h (ite_keeps (cores_moved h ⟨rfl, rfl, rfl⟩) trivial)

/-- A core that only CSRs tell from another has the same registers owed. -/
theorem isOwed_same {c d : CC} (h : SameRegs c d) (r : Nat) : isOwed d r = isOwed c r := by
  obtain ⟨-, -, howed⟩ := h
  rw [isOwed, howed, isOwed]

theorem cores_ccCsr {s : State} {op : Nat} {d a : BitVec 5} {p : BitVec 1} {n : BitVec 12} (h : s.Cores P) : OutCores P (ccCsr s op d a p n) := by
  refine cores_ccFinish h (ite_keeps trivial (ite_keeps trivial (ite_keeps trivial (cores_srcCheck (cores_toDest h fun howed => ?_)))))
  have hput {q : Prop} [Decidable q] {v : Word} : SameRegs (cc s) (if q then csrPut (cc s) n.toNat v else cc s) :=
    sameRegs_ite (sameRegs_csrPut _ _ _) ⟨rfl, rfl, rfl⟩
  exact h.1.same (h.1.write ((isOwed_same hput _).trans howed) (h.1.same (cores_cc h) hput)) ⟨rfl, rfl, rfl⟩

theorem cores_execEventTrap {core : Nat} {s : State} (h : s.Cores P) : OutCores P (execEventTrap core s) := by
  unfold execEventTrap
  dsimp only
  split
  · exact ⟨h.1, tabAll_tins h.2 (h.1.same (cores_ccOf h) (by split <;> exact ⟨rfl, rfl, rfl⟩))⟩
  · exact h

theorem cores_execTimerEvent {core : Nat} {s : State} (h : s.Cores P) : OutCores P (execTimerEvent core s) := by
  unfold execTimerEvent
  split
  · exact cores_modCc_same (f := s.fab) h fun _ => ⟨rfl, rfl, rfl⟩
  · exact h

theorem cores_execRegisterFill {idx : Nat} {s : State} (h : s.Cores P) : OutCores P (execRegisterFill idx s) := by
  show Fab.Cores P _
  dsimp only
  split
  · exact h
  · exact ite_keeps h (cores_modCc (f := { s.fab with fills := s.fab.fills.eraseIdx idx }) h fun _ h1 => h.1.fill h1)

/-! ### Stream commands (10 R277-R303) -/

theorem sameRegs_serveOne {c : CC} {port : Nat} : OptAll (fun q => SameRegs c q.1) (serveOne c port) := by
  unfold serveOne
  dsimp only
  split
  · exact trivial
  split
  · exact ⟨rfl, rfl, rfl⟩
  split
  · exact trivial
  · exact ⟨rfl, rfl, rfl⟩

theorem sameRegs_serveSink {n : Nat} {c : CC} {port : Nat} : SameRegs c (serveSink n c port).1 := by
  induction n generalizing c with
  | zero => exact ⟨rfl, rfl, rfl⟩
  | succ n ih =>
    unfold serveSink
    split
    · exact ⟨rfl, rfl, rfl⟩
    next c' reg v heq =>
      obtain ⟨hx, hfull, howed⟩ := sameRegs_serveOne.get heq
      obtain ⟨hx', hfull', howed'⟩ := ih (c := c')
      exact ⟨hx'.trans hx, hfull'.trans hfull, howed'.trans howed⟩

theorem cores_serveCore {f : Fab} {core port : Nat} (h : f.Cores P) : (serveCore f core port).Cores P :=
  foldl_keeps (cores_modCc h fun _ _ => h.1.same (cores_ccOf h) sameRegs_serveSink) fun _ _ h1 => cores_sendFill h1

theorem cores_ccCmd {s : State} {word : Word} {reg : Nat} {req bad : Bool} {desc : Option (Nat × Bool)} {wait : Bool} {body : Word → CRes}
    (h : s.Cores P) (hbody : ∀ x, (body x).Cores P) : OutCores P (ccCmd s word reg req bad desc wait body) :=
  cores_ccFinish h (ite_keeps trivial (ite_keeps trivial (cores_srcCheck (ite_keeps trivial (hbody _)))))

theorem cores_withBlock {s : State} {d : Word} {n : Nat} {k : Nat → CRes} (h : s.Cores P) (hk : ∀ x, (k x).Cores P) : (withBlock s d n k).Cores P :=
  ite_keeps trivial (ite_keeps trivial (cores_sramRead h hk))

/-- The present core owes its reply register a fill. -/
theorem cores_owing {s : State} {r : Nat} {c : CC} (h : s.Cores P) (hc : SameRegs (rowe (cc s) r) c) : (setCc s c).Cores P :=
  cores_setCc h (h.1.same (h.1.owe (cores_cc h)) hc)

theorem sameRegs_issued (c : CC) (reg : Nat) (mems : BitVec 9) (hub : Bool) : SameRegs (rowe c reg) (issued c reg mems hub) := by
  unfold issued rowe
  split <;> exact ⟨rfl, rfl, rfl⟩

theorem cores_issued {s : State} {reg : Nat} {mems : BitVec 9} {hub : Bool} (h : s.Cores P) : (setCc s (issued (cc s) reg mems hub)).Cores P :=
  cores_owing h (sameRegs_issued _ _ _ _)

theorem cores_quick {s : State} {reg : Nat} (h : s.Cores P) : (quick s reg).Cores P := cores_owing (r := reg) h ⟨rfl, rfl, rfl⟩

theorem cores_vinBoth {f : Fab} {core port : Nat} {g : Vin → Vin} (h : f.Cores P) : (vinBoth f core port g).Cores P := by
  unfold vinBoth
  dsimp only
  split
  · exact cores_modCc_same h fun _ => ⟨rfl, rfl, rfl⟩
  · exact cores_modCc_same (cores_modCc_same h fun _ => ⟨rfl, rfl, rfl⟩) fun _ => ⟨rfl, rfl, rfl⟩

/-- A change of the fabric after issue. -/
theorem cores_thenFab {s : State} {g : Fab → Fab} (h : (g s.fab).Cores P) : (thenFab s g).Cores P := h

theorem cores_execInject {a : BitVec 5} {p : BitVec 1} {l : BitVec 3} {n : BitVec 4} {s : State} (h : s.Cores P) : OutCores P (execInject a p l n s) := by
  unfold execInject
  exact cores_ccCmd h fun _ => cores_thenFab (cores_vinBoth (cores_moved h ⟨rfl, rfl, rfl⟩))

theorem cores_execVend {a : BitVec 5} {p : BitVec 1} {n : BitVec 4} {s : State} (h : s.Cores P) : OutCores P (execVend a p n s) := by
  unfold execVend
  exact cores_ccCmd h fun _ => cores_thenFab (cores_vinBoth (cores_moved h ⟨rfl, rfl, rfl⟩))

theorem cores_execRdout {r a : BitVec 5} {p : BitVec 1} {n : BitVec 4} {s : State} (h : s.Cores P) : OutCores P (execRdout r a p n s) := by
  unfold execRdout
  exact cores_ccCmd h fun _ => cores_thenFab (cores_serveCore (cores_owing (r := r.toNat) h ⟨rfl, rfl, rfl⟩))

theorem cores_execAccrst {a : BitVec 5} {p : BitVec 1} {j : BitVec 3} {s : State} (h : s.Cores P) : OutCores P (execAccrst a p j s) := by
  unfold execAccrst
  refine cores_ccCmd h fun _ => ?_
  exact ite_keeps trivial (cores_thenFab (cores_serveCore (cores_moved h ⟨rfl, rfl, rfl⟩)))

theorem cores_execRdacc {r a : BitVec 5} {p : BitVec 1} {j : BitVec 3} {s : State} (h : s.Cores P) : OutCores P (execRdacc r a p j s) := by
  unfold execRdacc
  exact cores_ccCmd h fun _ => cores_thenFab (cores_sendFill (cores_quick h))

theorem cores_execVbind {a : BitVec 5} {p : BitVec 1} {n : BitVec 4} {s : State} (h : s.Cores P) : OutCores P (execVbind a p n s) := by
  unfold execVbind
  refine cores_ccCmd h fun _ => ?_
  exact ite_keeps trivial (cores_thenFab (cores_vinBoth (cores_moved h ⟨rfl, rfl, rfl⟩)))

theorem cores_earlyEdge {f : Fab} {core ctx : Nat} (h : f.Cores P) : (earlyEdge f core ctx).Cores P := by
  unfold earlyEdge
  split
  · exact h
  · exact ite_keeps h h

theorem cores_execRmark {a : BitVec 5} {p : BitVec 1} {s : State} (h : s.Cores P) : OutCores P (execRmark a p s) := by
  unfold execRmark
  refine cores_ccCmd h fun _ => ?_
  exact ite_keeps trivial (cores_thenFab (cores_earlyEdge (cores_quick h)))

theorem cores_wcSettle {f : Fab} {core : Nat} (h : f.Cores P) : (wcSettle f core).Cores P :=
  foldl_keeps (cores_modCc_same h fun _ => ⟨rfl, rfl, rfl⟩) fun _ _ h1 => cores_sendFill h1

theorem cores_execWcommit {r a : BitVec 5} {p : BitVec 1} {s : State} (h : s.Cores P) : OutCores P (execWcommit r a p s) := by
  unfold execWcommit
  refine cores_ccCmd h fun _ => ?_
  exact ite_keeps trivial (cores_thenFab (cores_wcSettle (cores_owing (r := r.toNat) h ⟨rfl, rfl, rfl⟩)))

theorem cores_ccFence {s : State} {sc : Nat} (h : s.Cores P) : OutCores P (ccFence s sc) := by
  unfold ccFence
  exact cores_ccCmd h fun _ => cores_quick h

theorem cores_ccDrain {s : State} {m : BitVec 9} (h : s.Cores P) : OutCores P (ccDrain s m) := by
  unfold ccDrain
  exact cores_ccCmd h fun _ => cores_quick h

theorem cores_kwrRun {f : Fab} {key plane : Nat} (h : f.Cores P) : (kwrRun f key plane).Cores P :=
  foldl_keeps (b := modElem f _ _) h fun _ _ h1 => cores_cmdDone h1

theorem cores_execKwr {a : BitVec 5} {p : BitVec 1} {s : State} (h : s.Cores P) : OutCores P (execKwr a p s) := by
  unfold execKwr
  refine ite_keeps (cores_ccFinish h trivial) (cores_ccCmd h fun _ => cores_withBlock h fun _ => ?_)
  extract_lets place
  clear_value place
  cases place with
  | none => exact trivial
  | some key =>
    refine ite_keeps trivial (cores_thenFab ?_)
    refine cores_kwrRun (f := modElem _ _ _) ?_
    exact cores_cmdDone (f := (setCc s _).fab) (cores_issued h)

theorem cores_execCopy {r a : BitVec 5} {p : BitVec 1} {n : BitVec 4} {s : State} (h : s.Cores P) : OutCores P (execCopy r a p n s) := by
  unfold execCopy
  refine cores_ccCmd h fun _ => cores_withBlock h fun _ => ite_keeps trivial (ite_keeps trivial ?_)
  split
  · exact trivial
  split
  · exact trivial
  · exact cores_thenFab (cores_issued h)

theorem cores_execSbind {r a : BitVec 5} {p : BitVec 1} {n : BitVec 4} {s : State} (h : s.Cores P) : OutCores P (execSbind r a p n s) := by
  unfold execSbind
  refine cores_ccCmd h fun _ => cores_withBlock h fun _ => ?_
  exact ite_keeps trivial (cores_thenFab (cores_issued h))

theorem cores_execAflush {r a : BitVec 5} {p : BitVec 1} {n : BitVec 4} {s : State} (h : s.Cores P) : OutCores P (execAflush r a p n s) := by
  unfold execAflush
  refine cores_ccCmd h fun _ => ?_
  exact ite_keeps trivial (cores_thenFab (cores_issued h))

theorem cores_ccAmo {s : State} {op : Nat} {r a : BitVec 5} {p : BitVec 1} {n : BitVec 4} (h : s.Cores P) : OutCores P (ccAmo s op r a p n) := by
  unfold ccAmo
  refine cores_ccCmd h fun _ => cores_withBlock h fun _ => ?_
  refine ite_keeps trivial (ite_keeps trivial (ite_keeps trivial (ite_keeps trivial (ite_keeps trivial (cores_thenFab ?_)))))
  exact cores_owing (r := r.toNat) h (ite_keeps (P := SameRegs _) (sameRegs_issued _ _ 1 false) (sameRegs_issued _ _ 1 false))

theorem cores_execSwap {r a : BitVec 5} {p : BitVec 1} {s : State} (h : s.Cores P) : OutCores P (execSwap r a p s) := by
  unfold execSwap
  refine cores_ccCmd h fun d => cores_withBlock h fun b => ite_keeps trivial ?_
  split
  · exact cores_quick h
  extract_lets t refuse
  have ht : t.Cores P := cores_issued h
  have hrefuse (code : Word) : (refuse code).Cores P := cores_thenFab (cores_regionEvent (cores_cmdReply ht))
  exact ite_keeps (hrefuse 3) (ite_keeps (hrefuse 2) (cores_thenFab ht))

theorem cores_ccDrift {s : State} {kind cmd : Nat} {r a : BitVec 5} {p : BitVec 1} (h : s.Cores P) : OutCores P (ccDrift s kind cmd r a p) := by
  unfold ccDrift
  refine cores_ccCmd h fun d => ite_keeps trivial ?_
  extract_lets t answer
  have ht : t.Cores P := cores_issued h
  have hanswer (v : Word) : (answer v).Cores P := cores_thenFab (cores_cmdReply ht)
  split
  · exact hanswer 1
  split
  · exact hanswer 1
  refine ite_keeps (cores_thenFab ht) (ite_keeps (hanswer 2) (ite_keeps ?_ (cores_thenFab ht)))
  exact cores_thenFab (cores_cmdReply (f := modRegion t.fab _ _) ht)

theorem cores_selectSpine {f : Fab} {r : Region} {n : Nat} (h : f.Cores P) : (selectSpine f r n).Cores P := foldl_keeps h fun _ _ h1 => h1

theorem cores_endLease {f : Fab} {rid : Nat} (h : f.Cores P) : (endLease f rid).Cores P := by
  unfold endLease
  split
  · exact h
  · exact cores_selectSpine (f := modRegion f _ _) h

theorem cores_execLease {r a : BitVec 5} {p : BitVec 1} {s : State} (h : s.Cores P) : OutCores P (execLease r a p s) := by
  unfold execLease
  refine cores_ccCmd h fun d => ite_keeps trivial ?_
  extract_lets t
  have ht : t.Cores P := cores_issued h
  split
  · exact cores_thenFab (cores_cmdReply ht)
  extract_lets pt t1
  refine ite_keeps (cores_thenFab (cores_cmdReply (f := t.fab) ht)) (cores_thenFab (cores_cmdReply (cores_selectSpine ?_)))
  exact ht

theorem cores_execLeaseEnd {a : BitVec 5} {p : BitVec 1} {s : State} (h : s.Cores P) : OutCores P (execLeaseEnd a p s) := by
  unfold execLeaseEnd
  refine cores_ccCmd h fun _ => ?_
  split
  · exact cores_quick h
  · exact ite_keeps (cores_thenFab (cores_endLease (cores_quick h))) (cores_quick h)

theorem cores_execLaunch {r a : BitVec 5} {p : BitVec 1} {s : State} (h : s.Cores P) : OutCores P (execLaunch r a p s) := by
  unfold execLaunch
  refine cores_ccCmd h fun _ => ite_keeps trivial (ite_keeps trivial ?_)
  dsimp only
  split
  · exact cores_issued h
  · exact cores_issued h

theorem cores_ccXinv {s : State} {kind cmd : Nat} {a : BitVec 5} {p : BitVec 1} (h : s.Cores P) : OutCores P (ccXinv s kind cmd a p) := by
  unfold ccXinv
  refine ite_keeps (cores_ccFinish h trivial) (cores_ccCmd h fun _ => ?_)
  exact ite_keeps trivial (ite_keeps trivial (cores_issued h))

end Sys2Proof.Machine
end

section
/-! SUPPORT. A control core's turn keeps every property of the registers (01 R33, 09 R251), and what the two invariants of the registers are. -/

namespace Sys2Proof.Machine

variable {P : CC → Prop}

/-! ### A turn -/

/-- Every instruction that has a word keeps the property; instructions that one function of the model performs stand together. -/
theorem cores_execWord {i : Instr} {n : Nat} {s : State} (hi : encodeWord i = some n) (h : s.Cores P) : OutCores P (exec i s) := by
  cases i <;> dsimp only [exec]
  case add | sub | and | or | xor | sll | srl | sra | slt | sltu | min | max | minu | maxu | addw | subw | sllw | srlw | sraw | mul | mulh
      | mulhu | mulhsu | div | divu | rem | remu =>
    exact cores_ccAlu h
  case clz | ctz | popc | bswap | addi | andi | ori | xori | slti | sltiu | slli | srli | srai | slliw | srliw | sraiw => exact cores_ccAlu1 h
  case lui | pcadd => exact cores_ccAlu0 h
  case feClr => exact cores_execFeClr h
  case feTst => exact cores_execFeTst h
  case feWait => exact cores_execFeWait h
  case feTake => exact cores_execFeTake h
  case feAny => exact cores_execFeAny h
  case trap | brk | illegalInstruction => exact cores_ccFinish h trivial
  case tret => exact cores_execTret h
  case wfe => exact cores_execWfe h
  case lb | lh | lw | ld | lbu | lhu | lwu => exact cores_ccLoad h
  case sb | sh | sw | sd => exact cores_ccStore h
  case beq | bne | blt | bge | bltu | bgeu => exact cores_ccBranch h
  case j => exact cores_execJ h
  case jal => exact cores_execJal h
  case jalr => exact cores_execJalr h
  case csrrw | csrrs | csrrc => exact cores_ccCsr h
  case inject => exact cores_execInject h
  case vend => exact cores_execVend h
  case rdout => exact cores_execRdout h
  case accrst => exact cores_execAccrst h
  case rdacc => exact cores_execRdacc h
  case vbind => exact cores_execVbind h
  case rmark => exact cores_execRmark h
  case wcommit => exact cores_execWcommit h
  case fencePl | fenceRg | fencePt | fenceSy => exact cores_ccFence h
  case drainDm | drainSp | drainHm | drainCf => exact cores_ccDrain h
  case kwr => exact cores_execKwr h
  case copy => exact cores_execCopy h
  case sbind => exact cores_execSbind h
  case aflush => exact cores_execAflush h
  case amoAddCmd | amoMinCmd | amoMaxCmd | amoAndCmd | amoOrCmd | amoXorCmd | amoXchgCmd | amoCasCmd => exact cores_ccAmo h
  case swap => exact cores_execSwap h
  case revoke | relend => exact cores_ccDrift h
  case lease => exact cores_execLease h
  case leaseEnd => exact cores_execLeaseEnd h
  case launch => exact cores_execLaunch h
  case xinvVa | xinvFn | xinvPart => exact cores_ccXinv h
  all_goals exact nomatch hi

/-- What four bytes decode to has a word. -/
theorem encodeWord_of_decodeBytes {l r : List Byte} {i : Instr} (h : decodeBytes l = .instr i r) : ∃ n, encodeWord i = some n := by
  unfold decodeBytes at h
  split at h
  next b0 b1 b2 b3 rest =>
    cases h
    exact ⟨_, encodeWord_decodeWord (by omega)⟩
  · cases h

theorem cores_coreFetch {s : State} (h : s.Cores P) : OutCores P (coreFetch s) := by
  unfold coreFetch
  dsimp only
  split
  · exact cores_ccFinish h trivial
  split
  · exact cores_ccFinish h (cores_coreUncorr (f := s.fab) h)
  split
  next i r hdecode =>
    obtain ⟨n, hword⟩ := encodeWord_of_decodeBytes hdecode
    exact cores_execWord hword h
  · exact h

theorem cores_coreAct {n : Nat} {s : State} (h : s.Cores P) : OutCores P (coreAct n s) := by
  unfold coreAct
  refine ite_keeps h (ite_keeps (cores_execTimerEvent h) (ite_keeps (cores_execEventTrap h) (cores_coreFetch ?_)))
  exact h

/-! ### The two invariants -/

/-- x0 of a core holds zero, is full and is owed nothing. -/
structure CC.ZeroRegister (c : CC) : Prop where
  value : tget 0 c.x 0 = 0
  full : c.full.getLsbD 0 = true
  owed : c.owed.getLsbD 0 = false

/-- No register of a core that is owed a fill is full. -/
def CC.OwedEmpty (c : CC) : Prop := ∀ i, i < 32 → c.owed.getLsbD i = true → c.full.getLsbD i = false

theorem getLsbD_registerBit (r : Nat) {i : Nat} (hi : i < 32) : (1#32 <<< r).getLsbD i = decide (i = r) := by
  by_cases h : i = r
  · subst h
    simp [hi]
  · rcases Nat.lt_or_ge i r with hlt | hge
    · simp [hlt, h]
    · simp [hi, h, Nat.sub_ne_zero_of_lt (Nat.lt_of_le_of_ne hge (Ne.symm h))]

/-- x0 is none of the registers that the operations write, empty or owe. -/
theorem registerProp_zeroRegister : RegisterProp CC.ZeroRegister where
  fresh := ⟨rfl, rfl, rfl⟩
  same := by
    rintro c d ⟨hv, hf, ho⟩ ⟨hx, hfull, howed⟩
    exact ⟨hx ▸ hv, hfull ▸ hf, howed ▸ ho⟩
  write := by
    rintro c r v - ⟨hv, hf, ho⟩
    unfold rset
    split
    · exact ⟨hv, hf, ho⟩
    next hr => exact ⟨(tget_tput_ne 0 c.x v (Ne.symm hr)).trans hv, by simp [hf], ho⟩
  clear := by
    rintro c r ⟨hv, hf, ho⟩
    unfold rclear
    split
    · exact ⟨hv, hf, ho⟩
    next hr => exact ⟨hv, by simp [hf, Nat.pos_of_ne_zero hr], ho⟩
  owe := by
    rintro c r ⟨hv, hf, ho⟩
    unfold rowe
    split
    · exact ⟨hv, hf, ho⟩
    next hr =>
      refine ⟨hv, by simp [hf, Nat.pos_of_ne_zero hr], ?_⟩
      simp only [BitVec.getLsbD_or, ho, getLsbD_registerBit r (show 0 < 32 by decide), Ne.symm hr, decide_false, Bool.or_false]
  fill := by
    rintro c r v ⟨hv, hf, ho⟩
    have howed : (c.owed &&& ~~~(1#32 <<< r)).getLsbD 0 = false := by simp only [BitVec.getLsbD_and, ho, Bool.false_and]
    unfold rfill rset
    split
    · split
      · exact ⟨hv, hf, howed⟩
      next hr => exact ⟨(tget_tput_ne 0 c.x v (Ne.symm hr)).trans hv, by simp [hf], howed⟩
    · exact ⟨hv, hf, ho⟩

theorem registerProp_owedEmpty : RegisterProp CC.OwedEmpty where
  fresh := fun i _ h => by simp at h
  same := by
    rintro c d h ⟨-, hfull, howed⟩
    rw [CC.OwedEmpty, hfull, howed]
    exact h
  write := by
    intro c r v howed h
    unfold rset
    split
    · exact h
    next hr =>
      intro i hi ho
      have hne : i ≠ r := by
        rintro rfl
        simp [isOwed, hr] at howed
        exact absurd ho (by simp [howed])
      simp only [BitVec.getLsbD_or, h i hi ho, getLsbD_registerBit r hi, hne, decide_false, Bool.or_false]
  clear := by
    intro c r h
    unfold rclear
    split
    · exact h
    · intro i hi ho
      simp only [BitVec.getLsbD_and, h i hi ho, Bool.false_and]
  owe := by
    intro c r h
    unfold rowe
    split
    · exact h
    · intro i hi ho
      simp only [BitVec.getLsbD_or, Bool.or_eq_true, getLsbD_registerBit r hi, decide_eq_true_eq] at ho
      rcases ho with ho | rfl
      · simp only [BitVec.getLsbD_and, h i hi ho, Bool.false_and]
      · simp [hi]
  fill := by
    intro c r v h
    unfold rfill
    split
    next howed =>
      have hr : r ≠ 0 := by
        rintro rfl
        simp [isOwed] at howed
      intro i hi ho
      simp only [BitVec.getLsbD_and, BitVec.getLsbD_not, hi, decide_true, Bool.true_and, getLsbD_registerBit r hi, Bool.and_eq_true,
        Bool.not_eq_true', decide_eq_false_iff_not] at ho
      obtain ⟨ho, hne⟩ := ho
      simp only [rset, if_neg hr, BitVec.getLsbD_or, h i hi ho, getLsbD_registerBit r hi, hne, decide_false, Bool.or_false]
    · exact h

theorem zeroRegisterHolds_iff (s : State) : ZeroRegisterHolds s ↔ s.Cores CC.ZeroRegister := by
  refine ⟨fun h => ⟨registerProp_zeroRegister, fun q hq => ?_⟩, fun h q hq => ?_⟩
  · obtain ⟨hv, hf, ho⟩ := h q hq
    exact ⟨hv, hf, ho⟩
  · obtain ⟨hv, hf, ho⟩ := h.2 q hq
    exact ⟨hv, hf, ho⟩

theorem owedEmpty_iff (c : CC) : c.owed &&& c.full = 0 ↔ c.OwedEmpty := by
  refine ⟨fun h i _ ho => ?_, fun h => BitVec.eq_of_getLsbD_eq fun i hi => ?_⟩
  · have hi : (c.owed &&& c.full).getLsbD i = false := by simp [h]
    simpa [ho] using hi
  · cases ho : c.owed.getLsbD i with
    | false => simp [ho]
    | true => simp [h i hi ho]

theorem owedAreEmpty_iff (s : State) : OwedAreEmpty s ↔ s.Cores CC.OwedEmpty :=
  ⟨fun h => ⟨registerProp_owedEmpty, fun q hq => (owedEmpty_iff q.2).mp (h q hq)⟩, fun h q hq => (owedEmpty_iff q.2).mpr (h.2 q hq)⟩

end Sys2Proof.Machine
end

section
/-! SUPPORT. Every instruction and event keeps the properties of the registers, or x0 alone where it writes records; the invariants of the registers
(09 R248-R250, R262). -/

namespace Sys2Proof.Machine

variable {P : CC → Prop}

/-! ### Shared forms -/

/-- A change of the fabric alone. -/
theorem cores_onFab {s : State} {g : Fab → Fab} (h : (g s.fab).Cores P) : OutCores P (onFab s g) := h

/-- A fabric with the same cores. -/
theorem Fab.Cores.of_ccs {f g : Fab} (h : f.Cores P) (hg : g.ccs = f.ccs) : g.Cores P := ⟨h.1, hg ▸ h.2⟩

theorem cores_modElem {f : Fab} {key : Nat} {g : Elem → Elem} (h : f.Cores P) : (modElem f key g).Cores P := h

theorem sameRegs_sramWrite (c : CC) (a n v : Nat) : SameRegs c (sramWrite c a n v) := ⟨rfl, rfl, rfl⟩

/-! ### Firing a slot (07 R192, 08 R230-R234, 11 R308-R311) -/

theorem cores_tileTick {f : Fab} {key : Nat} (h : f.Cores P) : (tileTick f key).Cores P := h

/-! ### Movement operations (13 R355-R369) -/

theorem cores_flushSend {f : Fab} {key plane : Nat} (h : f.Cores P) : (flushSend f key plane).Cores P := by
  unfold flushSend
  dsimp only
  split
  · split
    · exact h
    split
    · exact h
    split
    · exact cores_raiseFault h
    exact h
  · exact h

theorem cores_releaseFlush {f : Fab} {key plane : Nat} (h : f.Cores P) : (releaseFlush f key plane).Cores P := by
  unfold releaseFlush
  split <;> exact h

theorem cores_twinSend {f : Fab} {key plane : Nat} (h : f.Cores P) : (twinSend f key plane).Cores P := by
  unfold twinSend
  split
  · exact h
  split
  · exact h
  dsimp only
  split
  · exact h
  refine foldl_keeps h fun _ _ h1 => ?_
  split
  · exact h1
  split
  · exact h1
  · exact h1

theorem cores_twinTake {f : Fab} {key : Nat} (h : f.Cores P) : (twinTake f key).Cores P := by
  unfold twinTake
  split
  · exact h
  dsimp only
  split
  · exact ite_keeps h (cores_raiseFault h)
  · exact h

theorem cores_twinTick {f : Fab} {key : Nat} (h : f.Cores P) : (twinTick f key).Cores P :=
  cores_twinTake (foldl_keeps h fun _ _ h1 => cores_twinSend h1)

theorem cores_computeTick {f : Fab} {key : Nat} (h : f.Cores P) : (computeTick f key).Cores P :=
  cores_twinTick (foldl_keeps h fun _ _ h1 => cores_flushSend (cores_releaseFlush h1))

/-! ### Memory-tile operations and events (05 R133-R138, 06 R165-R170, 13 R371-R378) -/

/-- The release of a request's credit, its last mark and its replies leave every core, as they stand among the moves of a firing. -/
theorem cores_emitPass {f : Fab} {key plane src sel : Nat} {t : Token} (h : f.Cores P) : (emitPass f key plane src sel t).Cores P :=
  cores_moves SlotMoves.refl.emitPass h

theorem cores_emitReply {f : Fab} {key plane sel : Nat} {l : BitVec 3} {hdr : Option (BitVec 16)} {v : Line} (h : f.Cores P) :
    (emitReply f key plane sel l hdr v).Cores P :=
  cores_moves SlotMoves.refl.emitReply h

theorem cores_groupReply {f : Fab} {key : Nat} {q : MemReq} {v : Line} (h : f.Cores P) : (groupReply f key q v).Cores P :=
  cores_moves SlotMoves.refl.groupReply h

theorem cores_groupSend {f : Fab} {key : Nat} {q : MemReq} {els : Line} (h : f.Cores P) : (groupSend f key q els).Cores P :=
  cores_moves SlotMoves.refl.groupSend h

theorem cores_acqDone {f : Fab} {key : Nat} {q : MemReq} (h : f.Cores P) : (acqDone f key q).Cores P :=
  cores_moves SlotMoves.refl.acqDone h

theorem cores_popQ {f : Fab} {key sel : Nat} (h : f.Cores P) : (popQ f key sel).Cores P := cores_moves SlotMoves.refl.popQ h

theorem cores_busy {f : Fab} {key ctx : Nat} (h : f.Cores P) : (busy f key ctx).Cores P := cores_moves SlotMoves.refl.busy h

theorem cores_setLast {f : Fab} {key : Nat} {q : MemReq} (h : f.Cores P) : (setLast f key q).Cores P := ite_keeps h h

theorem cores_creditAdd {f : Fab} {key : Nat} {q : MemReq} (h : f.Cores P) : (creditAdd f key q).Cores P := by
  unfold creditAdd
  dsimp only
  repeat' split
  all_goals exact h

theorem cores_execCreditSend {key idx : Nat} {s : State} (h : s.Cores P) : OutCores P (execCreditSend key idx s) := by
  unfold execCreditSend
  split <;> exact h

theorem cores_execCreditArrival {idx : Nat} {s : State} (h : s.Cores P) : OutCores P (execCreditArrival idx s) := by
  unfold execCreditArrival
  split <;> exact h

theorem cores_execBounceArrival {key sel : Nat} {s : State} (h : s.Cores P) : OutCores P (execBounceArrival key sel s) := by
  unfold execBounceArrival
  split <;> exact h

theorem cores_execQuotaWindowClear {key : Nat} {s : State} (h : s.Cores P) : OutCores P (execQuotaWindowClear key s) :=
  h

theorem cores_execDomainSequence {key plane dom : Nat} {s : State} (h : s.Cores P) : OutCores P (execDomainSequence key plane dom s) := by
  unfold execDomainSequence
  dsimp only
  split
  · exact h
  split
  · exact h
  split
  · split
    · exact h
    · exact cores_emitPass (f := modMt _ _ _) (cores_setLast (f := domTake _ _ _) h)
  split
  · split
    · exact h
    split
    · exact cores_setLast (cores_groupSend (f := modMt _ _ _) h)
    · exact cores_groupSend (f := modMt _ _ _) h
  split
  · exact h
  · exact h

theorem cores_askCapacity {f : Fab} {key plane : Nat} {code : Word} {round : BitVec 32} (h : f.Cores P) :
    (askCapacity f key plane code round).Cores P := by
  unfold askCapacity
  split
  · exact h
  split
  · exact h
  · exact cores_raiseFault h

theorem cores_execSectionRetire {key plane dom : Nat} {s : State} (h : s.Cores P) : OutCores P (execSectionRetire key plane dom s) := by
  unfold execSectionRetire
  dsimp only
  split
  · exact h
  split
  · exact h
  split
  · exact h
  split
  · split
    · exact h
    split
    · exact cores_askCapacity h
    split
    · exact cores_raiseFault h
    split
    · exact h
    · exact cores_emitReply (f := modMt _ _ _) h
  split
  · split
    · exact h
    · exact cores_emitReply (f := modMt _ _ _) h
  split
  · exact h
  · exact cores_emitPass (f := modMt _ _ _) h

theorem cores_grantTick {f : Fab} {key : Nat} (h : f.Cores P) : (grantTick f key).Cores P := by
  unfold grantTick
  dsimp only
  split
  · exact h
  split
  · exact h
  · exact cores_emitPass (f := modMt _ _ _) h

theorem cores_cmdFault {s : State} {key : Nat} {q : MemReq} {cause kind : Nat} (h : s.Cores P) : (cmdFault s key q cause kind).Cores P := by
  unfold cmdFault
  dsimp only
  split
  · exact cores_raiseFault h
  · exact cores_postReport h

theorem cores_cmdAccept {s : State} {key : Nat} {q : MemReq} (h : s.Cores P) : (cmdAccept s key q).Cores P := by
  unfold cmdAccept
  dsimp only
  split
  · exact cores_cmdFault (cores_cmdReply h)
  split
  · exact cores_askCapacity h
  split
  · exact cores_cmdFault (cores_cmdReply h)
  · exact cores_cmdReply h

theorem cores_streamAccept {f : Fab} {key : Nat} {q : MemReq} (h : f.Cores P) : (streamAccept f key q).Cores P := by
  unfold streamAccept
  extract_lets m f1 i
  have hf1 : f1.Cores P := h
  split
  · split
    · exact cores_raiseFault hf1
    · exact hf1
  split
  · exact cores_askCapacity h
  · exact hf1

theorem cores_copyAccept {f : Fab} {key : Nat} {q : MemReq} (h : f.Cores P) : (copyAccept f key q).Cores P := by
  unfold copyAccept
  dsimp only
  split
  · exact h
  · split
    · exact cores_askCapacity h
    · exact h

theorem cores_slotAccept {f : Fab} {key : Nat} {q : MemReq} (h : f.Cores P) : (slotAccept f key q).Cores P := by
  unfold slotAccept
  extract_lets e g places old tag f1 done out
  have h1 : f1.Cores P := h
  have hdone {f : Fab} (h : f.Cores P) : (done f).Cores P := cores_acqDone (cores_setLast h)
  refine ite_keeps (cores_askCapacity h) (ite_keeps h (ite_keeps (cores_raiseFault h) (ite_keeps ?_ (ite_keeps ?_ ?_))))
  · exact ite_keeps h1 (ite_keeps h1 (cores_creditAdd h1))
  · exact ite_keeps (hdone (cores_groupReply h1)) h1
  · exact hdone (cores_emitReply h1)

theorem cores_bodyAccept {f : Fab} {key : Nat} {q : MemReq} (h : f.Cores P) : (bodyAccept f key q).Cores P := by
  unfold bodyAccept
  extract_lets e m g m1 direct kept late last mute m2 bad old f1 out f2
  have hf1 : f1.Cores P := h
  have hf2 : f2.Cores P := hf1
  refine ite_keeps (cores_askCapacity h) (ite_keeps h (ite_keeps (cores_raiseFault h) ?_))
  refine ite_keeps (ite_keeps (cores_acqDone hf1) (cores_acqDone (cores_emitReply hf1))) ?_
  refine ite_keeps hf1 ?_
  exact ite_keeps hf2 (ite_keeps hf2 (cores_acqDone (cores_groupReply hf2)))

theorem cores_execBankAccept {key bank : Nat} {s : State} (h : s.Cores P) : OutCores P (execBankAccept key bank s) := by
  unfold execBankAccept
  dsimp only
  split
  · exact h
  split
  · exact h
  split
  · exact cores_cmdAccept h
  · exact cores_streamAccept h
  · exact cores_streamAccept h
  · exact cores_copyAccept h
  · exact cores_copyAccept h
  · exact ite_keeps (cores_bodyAccept h) (cores_slotAccept h)

theorem cores_cfgTick {f : Fab} {key : Nat} (h : f.Cores P) : (cfgTick f key).Cores P := by
  unfold cfgTick
  dsimp only
  split
  · exact h
  refine ite_keeps h ?_
  refine ite_keeps h ?_
  split
  · exact h
  refine ite_keeps h ?_
  refine ite_keeps h ?_
  exact h

theorem cores_laneTick {f : Fab} {key b : Nat} (h : f.Cores P) : (laneTick f key b).Cores P := by
  unfold laneTick
  dsimp only
  repeat' split
  all_goals exact h

theorem cores_creditTick {f : Fab} {key : Nat} (h : f.Cores P) : (creditTick f key).Cores P := by
  unfold creditTick
  dsimp only
  repeat' split
  all_goals exact h

theorem cores_memTick {f : Fab} {key : Nat} (h : f.Cores P) : (memTick f key).Cores P :=
  cores_twinTick (cores_creditTick (cores_grantTick (foldl_keeps (cores_cfgTick h) fun _ _ h1 => cores_laneTick h1)))

/-! ### Switches, links and ports (07 R180-R191, 10 R286) -/

theorem cores_arrive {f : Fab} {key sel : Nat} {t : Token} (h : f.Cores P) : (arrive f key sel t).2.Cores P := by
  unfold arrive
  dsimp only
  split
  · exact h
  split
  · exact h
  split
  · exact h
  split
  · exact cores_raiseFault h
  split
  · exact cores_raiseFault h
  · split
    · exact cores_raiseFault h
    split
    · exact h
    split
    · exact cores_raiseFault h
    split
    · dsimp only
      split
      · exact h
      · exact cores_raiseFault h
    split
    · dsimp only
      split
      · exact h
      · exact cores_raiseFault h
    · split
      · exact cores_raiseFault h
      · exact h
    · exact cores_raiseFault h
  · exact h

theorem cores_permitBack {f : Fab} {key sel : Nat} (h : f.Cores P) : (permitBack f key sel).Cores P := by
  unfold permitBack
  split <;> exact h

theorem cores_execTokenArrival {key sel : Nat} {s : State} (h : s.Cores P) : OutCores P (execTokenArrival key sel s) := by
  unfold execTokenArrival
  dsimp only
  split
  · exact h
  split
  · exact h
  refine cores_onFab ?_
  split
  · exact cores_arrive (cores_busy h)
  · exact cores_permitBack (cores_arrive (cores_busy h))

theorem cores_takeSource {f : Fab} {key src : Nat} (h : f.Cores P) : (takeSource f key src).Cores P := by
  unfold takeSource
  split
  · exact h
  · exact cores_popQ h

theorem cores_noteMove {f : Fab} {key : Nat} {t : Token} (h : f.Cores P) : (noteMove f key t).Cores P := by
  unfold noteMove
  extract_lets drift
  exact ite_keeps h h

theorem cores_execSwitchRoute {key : Nat} {wide : Bool} {dir src : Nat} {s : State} (h : s.Cores P) :
    OutCores P (execSwitchRoute key wide dir src s) := by
  unfold execSwitchRoute
  split
  · exact h
  split
  · exact h
  split
  · exact cores_raiseFault (cores_takeSource h)
  split
  · exact cores_raiseFault (cores_takeSource h)
  split
  · exact h
  split
  · exact h
  · exact cores_busy (cores_noteMove (cores_takeSource h))

theorem cores_execPermitReturn {key sel : Nat} {s : State} (h : s.Cores P) : OutCores P (execPermitReturn key sel s) := by
  unfold execPermitReturn
  split <;> exact h

theorem cores_popPlane {f : Fab} {key plane sel : Nat} {t : Token} (h : f.Cores P) : (popPlane f key plane sel t).1.Cores P := by
  unfold popPlane
  dsimp only
  split
  · dsimp only
    split
    · exact h
    · exact cores_raiseFault h
  split
  · split
    · dsimp only
      exact cores_askCapacity h
    dsimp only
    exact cores_popQ h
  dsimp only
  exact cores_popQ h

theorem cores_execBurstHeaderArrival {key sel : Nat} {s : State} (h : s.Cores P) : OutCores P (execBurstHeaderArrival key sel s) := by
  unfold execBurstHeaderArrival
  split
  · exact h
  dsimp only
  split
  · exact h
  refine cores_onFab ?_
  split
  · exact cores_popPlane h
  split
  · exact cores_raiseFault (cores_popPlane h)
  · exact cores_popPlane h

theorem cores_execSinkArrival {core sel : Nat} {s : State} (h : s.Cores P) : OutCores P (execSinkArrival core sel s) := by
  unfold execSinkArrival
  extract_lets key
  split
  · exact h
  extract_lets port k drift
  split
  · exact h
  split
  · exact cores_raiseFault (cores_popQ h)
  split
  · exact cores_popQ h
  split
  · exact h
  · exact cores_serveCore (cores_modCc_same (cores_popQ h) fun _ => ⟨rfl, rfl, rfl⟩)

theorem cores_noteRound {f : Fab} {core ctx : Nat} {n : BitVec 32} (h : f.Cores P) : (noteRound f core ctx n).Cores P := by
  unfold noteRound
  split <;> exact h

theorem cores_execVinPortEmit {core port : Nat} {s : State} (h : s.Cores P) : OutCores P (execVinPortEmit core port s) := by
  unfold execVinPortEmit
  extract_lets key v room put
  split
  · exact h
  extract_lets due
  have hput (u : Vin) : (put s.fab u).Cores P := cores_modCc_same h fun _ => ⟨rfl, rfl, rfl⟩
  refine ite_keeps h ?_
  split
  · exact cores_onFab (ite_keeps (cores_noteRound (hput _)) (hput _))
  split
  · exact h
  · exact ite_keeps h (cores_onFab (hput _))

/-! ### Element state as records (15 R433, R434) -/

/-- Writes of other fields of a core keep its registers. -/
theorem keeps_sameRegs {part : CC → α} {change : (α → α) → CC → CC} {l : List (Item α)} (h : ∀ g c, SameRegs c (change g c)) :
    ListAll (Item.Keeps CC.ZeroRegister) (partItems part change l) :=
  keeps_partItems fun g c hc => registerProp_zeroRegister.same hc (h g c)

theorem keeps_zero_csrItems : ListAll (Item.Keeps CC.ZeroRegister) csrItems := by
  unfold csrItems
  iterate 12 refine listAll_cons (fun _ _ h => registerProp_zeroRegister.same h ⟨rfl, rfl, rfl⟩) ?_
  exact listAll_nil

/-- A record holds no value of x0, and its full and owed bits leave those of x0 (15 R433). -/
theorem keeps_zero_coreItems {c : CC} : ListAll (Item.Keeps CC.ZeroRegister) (coreItems c) := by
  refine keeps_cat (listAll_cons ?_ <| listAll_cons ?_ <| listAll_cons keeps_zero_csrItems <| listAll_cons ?_ <| listAll_cons ?_ <|
    listAll_cons ?_ listAll_nil)
  · refine listAll_flatMap fun n => List.forall_mem_map.mpr fun x hx v c hc => ?_
    obtain ⟨y, -, rfl⟩ := List.mem_map.mp hx
    exact ⟨(tget_tins_ne _ _ _ (Nat.succ_ne_zero n).symm).trans hc.value, hc.full, hc.owed⟩
  · refine listAll_cons (fun v c hc => ⟨hc.value, ?_, hc.owed⟩) (listAll_cons (fun v c hc => ⟨hc.value, hc.full, ?_⟩)
      (listAll_cons (fun _ _ h => registerProp_zeroRegister.same h ⟨rfl, rfl, rfl⟩) listAll_nil))
    · simp [numItem, bitsItem]
    · simp [numItem, bitsItem]
  all_goals exact listAll_flatMap fun _ => keeps_sameRegs fun _ _ => ⟨rfl, rfl, rfl⟩

/-- A record of an element other than a core, and of a region, leaves every core. -/
theorem keeps_cores {α : Type} {part : Fab → α} {change : (α → α) → Fab → Fab} {l : List (Item α)} (h : ∀ g f, (change g f).ccs = f.ccs) :
    ListAll (Item.Keeps (Fab.Cores P)) (partItems part change l) :=
  keeps_partItems fun g f hf => ⟨hf.1, (h g f).symm ▸ hf.2⟩

theorem keeps_zero_recItems {f : Fab} {rid : Option Nat} {key t : Nat} : ListAll (Item.Keeps (Fab.Cores CC.ZeroRegister)) (recItems f rid key t) := by
  unfold recItems
  split
  case h_9 =>
    refine listAll_append (keeps_partItems_of keeps_zero_coreItems fun _ _ hg h => cores_modCc h hg) ?_
    exact listAll_flatMap fun _ => listAll_flatMap fun _ => keeps_cores fun _ _ => rfl
  case h_10 =>
    split
    · exact listAll_nil
    · exact listAll_flatMap fun _ => keeps_cores fun _ _ => rfl
  case h_6 => split <;> exact keeps_cores fun _ _ => rfl
  case h_11 => exact listAll_nil
  all_goals exact keeps_cores fun _ _ => rfl

theorem cores_stateWrite {f : Fab} {rid : Option Nat} {key idx : Nat} {v : BitVec 256} (h : f.Cores CC.ZeroRegister) :
    (stateWrite f rid key idx v).Cores CC.ZeroRegister := by
  unfold stateWrite
  repeat' split
  case h_6 => exact recWrite_keeps keeps_zero_recItems h
  all_goals exact h

/-! ### Configuration space (01 R36-R38, 08 R213-R239) -/

theorem cores_storeWrite {f : Fab} {key idx : Nat} {v : BitVec 256} (h : f.Cores P) : (storeWrite f key idx v).Cores P := by
  unfold storeWrite
  dsimp only
  split
  case h_3 => exact cores_modCc_same h fun _ => sameRegs_ite ⟨rfl, rfl, rfl⟩ (sameRegs_sramWrite _ _ _ _)
  all_goals exact h.of_ccs rfl

theorem cores_storeLogged {f : Fab} {key idx : Nat} {v : BitVec 256} (h : f.Cores P) : OptAll (Fab.Cores P) (storeLogged f key idx v) := by
  unfold storeLogged
  dsimp only
  split
  · exact cores_storeWrite h
  split
  · exact trivial
  · exact cores_storeWrite h

theorem cores_cfgWrite {f : Fab} {key space idx : Nat} {v : BitVec 256} (h : f.Cores CC.ZeroRegister) :
    OptAll (Fab.Cores CC.ZeroRegister) (cfgWrite f key space idx v) := by
  unfold cfgWrite
  split
  · exact trivial
  split
  · split
    · exact cores_stateWrite h
    · exact trivial
  · split
    · exact cores_storeLogged h
    · exact trivial
  · split
    · split
      · exact trivial
      · exact h
    split
    · exact h
    · exact trivial
  split
  · exact trivial
  dsimp only
  split
  · exact h
  · exact trivial

/-! ### AG nodes (04 R115-R122, 10 R288-R292) -/

theorem cores_giveCredit {f : Fab} {key k : Nat} (h : f.Cores P) : (giveCredit f key k).Cores P := by
  unfold giveCredit
  split <;> exact h

theorem cores_takeCredit {f : Fab} {key : Nat} (h : f.Cores P) : (takeCredit f key).Cores P := by
  unfold takeCredit
  split <;> exact h

theorem cores_strRefill {s : State} {key n i fn va : Nat} {half : Option (Nat × Nat)} (h : s.Cores P) : (strRefill s key n i fn va half).Cores P := by
  unfold strRefill
  split <;> exact h

theorem cores_strStep {f : Fab} {key n i : Nat} (h : f.Cores P) : (strStep f key n i).Cores P :=
  cores_busy h

theorem cores_readIssue {s : State} {key n i : Nat} (h : s.Cores P) : (readIssue s key n i).Cores P := by
  unfold readIssue
  dsimp only
  split
  · exact cores_raiseFault h
  · exact cores_strRefill h
  · exact cores_strStep (ite_keeps (cores_takeCredit h) h)

theorem cores_readSp {s : State} {key n i : Nat} (h : s.Cores P) : (readSp s key n i).Cores P := by
  unfold readSp
  dsimp only
  split
  · exact cores_raiseFault h
  refine (cores_strStep (foldl_keeps (ite_keeps (cores_takeCredit h) h) fun _ _ h1 => ?_))
  split
  · exact h1
  · exact h1

theorem cores_spReadDone {f : Fab} {key : Nat} {q : ReadOut} (h : f.Cores P) : (spReadDone f key q).Cores P := by
  unfold spReadDone
  dsimp only
  split
  · exact h
  split
  · exact h
  · exact cores_raiseFault h

theorem cores_spReadTick {f : Fab} {key : Nat} (h : f.Cores P) : (spReadTick f key).Cores P :=
  foldl_keeps h fun _ _ h1 => cores_spReadDone h1

theorem cores_execStreamReadReturn {key idx : Nat} {s : State} (h : s.Cores P) : OutCores P (execStreamReadReturn key idx s) := by
  unfold execStreamReadReturn
  extract_lets e
  split
  · exact h
  extract_lets p left back drop round r t
  have hdrop {s : State} (h : s.Cores P) : (drop s).Cores P := h
  have ht : t.Cores P := cores_poisonPost h
  refine ite_keeps h ?_
  split
  · exact cores_raiseFault (hdrop ht)
  · exact cores_raiseFault (hdrop ht)
  split
  · exact cores_raiseFault (hdrop ht)
  · exact ht

theorem cores_storeIssue {s : State} {key n i : Nat} {t : Token} (h : s.Cores P) : (storeIssue s key n i t).Cores P := by
  unfold storeIssue
  dsimp only
  split
  · exact cores_raiseFault h
  split
  · exact cores_raiseFault h
  · exact cores_strRefill h
  split
  · exact cores_askCapacity h
  split
  · exact cores_popPlane h
  · exact cores_strStep (cores_popPlane h)

theorem cores_storeSp {s : State} {key n i : Nat} {t : Token} (h : s.Cores P) : (storeSp s key n i t).Cores P := by
  unfold storeSp
  extract_lets e p st a info l round aims r f j
  have hr : r.1.Cores P := cores_popPlane h
  have hf : f.Cores P := by
    refine foldl_keeps hr fun _ _ h1 => ?_
    split
    · exact h1
    · exact cores_modElem h1
  have hstep : (strStep f key n i).Cores P := cores_strStep hf
  clear_value r f
  split
  · exact cores_raiseFault h
  · generalize strStep f key n i = g at hstep
    exact ite_keeps (cores_raiseFault h) (ite_keeps hr (cores_modElem hstep))

theorem cores_accSend {f : Fab} {key n : Nat} {x : FirnE} {fl : Bool} (h : f.Cores P) : (accSend f key n x fl).Cores P := by
  unfold accSend
  split <;> exact h

theorem cores_accIssue {s : State} {key n i : Nat} {t : Token} (h : s.Cores P) : (accIssue s key n i t).Cores P := by
  unfold accIssue
  extract_lets e p st a fmt acop fault x q r f1 f2
  clear_value fault
  split
  · exact cores_raiseFault h
  have hr : r.1.Cores P := cores_popPlane h
  have h2 : f2.Cores P := cores_strStep (cores_accSend hr)
  exact ite_keeps hr (ite_keeps h2 h2)

theorem cores_strEmit {f : Fab} {key n i : Nat} {t : Token} (h : f.Cores P) : (strEmit f key n i t).Cores P := by
  unfold strEmit
  dsimp only
  repeat' split
  all_goals exact h

theorem cores_blockFill {f : Fab} {key n i : Nat} (h : f.Cores P) : (blockFill f key n i).Cores P := by
  unfold blockFill
  dsimp only
  split
  · exact h
  split
  · exact h
  split
  · exact cores_askCapacity h
  · exact h

theorem cores_strUnread {f : Fab} {key n i : Nat} (h : f.Cores P) : (strUnread f key n i).Cores P :=
  cores_giveCredit h

theorem cores_edgeFlush {f : Fab} {key n : Nat} (h : f.Cores P) : OptAll (Fab.Cores P) (edgeFlush f key n) := by
  unfold edgeFlush
  dsimp only
  split
  · exact h
  · exact trivial

theorem cores_markOut {f : Fab} {key n : Nat} {go : Fab → Fab} (hf : f.Cores P) (hgo : ∀ f1, f1.Cores P → (go f1).Cores P) :
    (markOut f key n go).Cores P := by
  unfold markOut
  split
  · exact hgo _ hf
  · exact optAll_getD (cores_edgeFlush hf) hf

theorem cores_strMark {f : Fab} {key n i : Nat} (h : f.Cores P) : (strMark f key n i).Cores P := by
  unfold strMark
  extract_lets p st r flying c f1 f2
  have hf1 : f1.Cores P := h
  have hf2 : f2.Cores P := ite_keeps (cores_noteRound hf1) hf1
  exact hf2

theorem cores_strPump {f : Fab} {key n i : Nat} (h : f.Cores P) : (strPump f key n i).Cores P := by
  unfold strPump
  extract_lets f1 e p st fault l
  have hf1 : f1.Cores P := cores_blockFill h
  split
  · exact hf1
  split
  · exact hf1
  split
  · split
    · exact cores_markOut hf1 fun _ h1 => cores_strMark h1
    · exact hf1
  split
  · split
    · split
      · exact hf1
      · exact cores_raiseFault hf1
    split
    · exact hf1
    extract_lets f2 f3
    have hf2 : f2.Cores P := ite_keeps (cores_takeCredit hf1) hf1
    have hf3 : f3.Cores P := hf2
    exact cores_strEmit hf3
  split
  · extract_lets x f2 f3
    have hf2 : f2.Cores P := cores_strEmit hf1
    have hf3 : f3.Cores P := hf2
    split
    · exact cores_strUnread hf1
    split
    · exact cores_askCapacity hf1
    split
    · exact cores_strEmit hf1
    split
    · exact hf3
    · exact hf3
  split
  · exact cores_markOut hf1 fun _ h1 => h1
  · exact hf1

theorem cores_agFlush {f : Fab} {key n : Nat} (h : f.Cores P) : (agFlush f key n).Cores P := by
  unfold agFlush
  dsimp only
  split
  · exact h
  split
  · exact h
  split
  · exact h
  exact cores_accSend h

theorem cores_cmdSettle {f : Fab} {key : Nat} (h : f.Cores P) : (cmdSettle f key).Cores P :=
  foldl_keeps h fun _ _ h1 => cores_cmdReply h1

theorem cores_cmdEnd {f : Fab} {key : Nat} {c : AgCmd} {v : Word} (hf : f.Cores P) : (cmdEnd f key c v).Cores P :=
  cores_cmdSettle (cores_cmdDone hf)

/-- The state that a line of a copy leaves, where it names one, keeps the property. -/
def CopyRes.Cores (P : CC → Prop) : CopyRes → Prop
  | .done t _ _ => t.Cores P
  | .refill _ => True
  | .bank _ _ => True
  | .fault _ _ _ _ => True
  | .refused t _ _ => t.Cores P

theorem cores_copyFail {s : State} {key : Nat} {c : AgCmd} {ctx cause : Nat} {info0 info1 : Word} (hs : s.Cores P) :
    (copyFail s key c ctx cause info0 info1).Cores P :=
  cores_postReport (cores_cmdEnd hs)

theorem cores_copyLine {s : State} {key : Nat} {c : AgCmd} {sp a ctx : Nat} {wr : Option (Line × BitVec 16)} (h : s.Cores CC.ZeroRegister) :
    (copyLine s key c sp a ctx wr).Cores CC.ZeroRegister := by
  unfold copyLine
  extract_lets part fn info dummy reg
  refine ite_keeps trivial (ite_keeps trivial ?_)
  split
  · split <;> exact trivial
  · split
    · exact h
    · exact cores_modCc_same h fun _ => sameRegs_sramWrite _ _ _ _
  split
  · exact trivial
  · exact trivial
  extract_lets pa route r t
  have ht : t.Cores CC.ZeroRegister := cores_poisonPost h
  split
  · split
    · exact trivial
    refine ite_keeps trivial ?_
    split
    · exact ite_keeps trivial h
    split
    · exact trivial
    next f hf =>
      split
      · exact trivial
      next g hg => exact (cores_cfgWrite ((cores_cfgWrite h).get hf)).get hg
  split
  · split
    · exact trivial
    · exact ht
    · split <;> exact ht
  · extract_lets r
    split
    · exact h
    all_goals exact trivial

theorem cores_copyStep {s : State} {key : Nat} {c : AgCmd} (hs : s.Cores CC.ZeroRegister) : (copyStep s key c).Cores CC.ZeroRegister := by
  unfold copyStep
  extract_lets b total ctx latch sp wr
  refine ite_keeps (cores_cmdEnd hs) (ite_keeps (cores_copyFail hs) ?_)
  have hline : (copyLine s key c sp (copyAddr c) ctx wr).Cores CC.ZeroRegister := cores_copyLine hs
  split
  next t d tag heq =>
    rw [heq] at hline
    have ht : t.Cores CC.ZeroRegister := hline
    exact ite_keeps ht (ite_keeps (cores_cmdEnd ht) ht)
  · exact hs
  · exact ite_keeps hs hs
  next t cause i0 heq =>
    rw [heq] at hline
    exact cores_copyFail hline
  next cause i0 i1 too heq =>
    extract_lets t
    have ht : t.Cores CC.ZeroRegister := cores_copyFail hs
    split
    · exact ht
    · exact ite_keeps (cores_raiseFault ht) ht

theorem cores_sbindWrite {f : Fab} {key n : Nat} {fs : List (Nat × BitVec 256)} (h : f.Cores P) : (sbindWrite f key n fs).Cores P :=
  foldl_keeps h fun _ _ h1 => h1

theorem cores_sbindStep {s : State} {key : Nat} {c : AgCmd} (hs : s.Cores P) : (sbindStep s key c).Cores P := by
  unfold sbindStep
  extract_lets b i n p fs w live held
  split
  · exact cores_cmdEnd hs
  split
  · exact cores_cmdEnd hs
  split
  · exact cores_cmdEnd hs
  split
  · exact hs
  · exact cores_cmdEnd (cores_sbindWrite hs)

theorem cores_aflushStep {s : State} {key : Nat} {c : AgCmd} (hs : s.Cores P) : (aflushStep s key c).Cores P := by
  unfold aflushStep
  dsimp only
  split
  · exact hs
  split
  · exact hs
  · exact cores_cmdEnd hs

theorem cores_cmdRun {s : State} {key : Nat} {c : AgCmd} (hs : s.Cores CC.ZeroRegister) : (cmdRun s key c).Cores CC.ZeroRegister := by
  unfold cmdRun
  extract_lets c1 s1
  have hs1 : s1.Cores CC.ZeroRegister := hs
  split
  · exact cores_copyStep hs1
  · exact cores_sbindStep hs1
  · exact cores_aflushStep hs1

theorem cores_cmdTurn {s : State} {key : Nat} (h : s.Cores CC.ZeroRegister) : (cmdTurn s key).Cores CC.ZeroRegister := by
  unfold cmdTurn
  split
  · exact h
  · exact cores_cmdRun h
  · split
    · exact h
    · exact cores_cmdRun h

theorem cores_gateElem {f : Fab} {rid key : Nat} (h : f.Cores P) : (gateElem f rid key).Cores P := by
  unfold gateElem
  exact ite_keeps (cores_tileTick h) h

theorem cores_stopPair {f : Fab} {rid cause ctx phase : Nat} (h : f.Cores P) : (stopPair f rid cause ctx phase).Cores P :=
  foldl_keeps h fun _ _ h1 => h1

theorem cores_breakStop {f : Fab} {key n which : Nat} {x : FaultRec} (h : f.Cores P) : (breakStop f key n which x).Cores P := by
  unfold breakStop
  split
  · exact h
  extract_lets f1 f2
  have hf1 : f1.Cores P := h
  have hf2 : f2.Cores P := cores_raiseFault hf1
  split
  · exact hf2
  · exact cores_gateElem (cores_stopPair hf2)

theorem cores_execStreamAccess {key : Nat} {s : State} (h : s.Cores CC.ZeroRegister) : OutCores CC.ZeroRegister (execStreamAccess key s) := by
  unfold execStreamAccess
  extract_lets e
  split
  · exact h
  split
  · exact h
  extract_lets n i p s1
  have hs1 : s1.Cores CC.ZeroRegister := h
  split
  · exact cores_breakStop h
  split
  · exact cores_cmdTurn hs1
  split
  · exact cores_raiseFault hs1
  split
  · split
    · exact cores_readSp hs1
    · exact cores_readIssue hs1
  split
  · exact hs1
  split
  · exact cores_accIssue hs1
  split
  · exact cores_storeSp hs1
  · exact cores_storeIssue hs1

theorem cores_agTick {f : Fab} {key : Nat} (h : f.Cores P) : (agTick f key).Cores P := by
  unfold agTick
  extract_lets f1 f2 f3
  have hf1 : f1.Cores P := cores_spReadTick (cores_cmdSettle h)
  clear_value f1
  have hf2 : f2.Cores P := foldl_keeps hf1 fun _ _ h => cores_agFlush (cores_releaseFlush h)
  clear_value f2
  have hf3 : f3.Cores P := foldl_keeps hf2 fun _ _ h => foldl_keeps h fun _ _ h => cores_strPump h
  clear_value f3
  exact hf3

/-! ### Walkers, refills and invalidations (02 R54-R72) -/

theorem cores_execWalk {die idx : Nat} {s : State} (h : s.Cores P) : OutCores P (execWalk die idx s) := by
  unfold execWalk
  split
  · exact h
  split
  · exact h
  · exact cores_poisonPost h

theorem cores_refillStream {s : State} {w : Walk} {a : TEnt ⊕ Nat × Nat × Nat} (h : s.Cores P) : (refillStream s w a).Cores P := by
  unfold refillStream
  dsimp only
  split
  · exact h
  split
  · exact h
  split
  · exact h
  split
  · exact cores_postReport h
  · exact cores_raiseFault h

theorem cores_refillCommand {s : State} {w : Walk} {a : TEnt ⊕ Nat × Nat × Nat} (h : s.Cores P) : (refillCommand s w a).Cores P := by
  unfold refillCommand
  split
  · exact h
  · split
    · exact h
    · exact ite_keeps (cores_postReport h) (cores_copyFail h)

theorem cores_refillHeld {s : State} {w : Walk} {a : TEnt ⊕ Nat × Nat × Nat} (h : s.Cores P) : (refillHeld s w a).Cores P := by
  unfold refillHeld
  dsimp only
  split
  · exact h
  · exact h
  split
  · exact cores_postReport h
  · exact cores_raiseFault h

theorem cores_postAll {s : State} {part : Nat} (h : s.Cores P) : (postAll s part).Cores P :=
  foldl_keeps h fun _ _ h1 => cores_postRun h1

theorem cores_refillHub {s : State} {w : Walk} {a : TEnt ⊕ Nat × Nat × Nat} (h : s.Cores P) : (refillHub s w a).Cores P :=
  foldl_keeps h fun _ _ h1 => cores_postAll h1

theorem cores_execRefillReturn {die idx : Nat} {s : State} (h : s.Cores P) : OutCores P (execRefillReturn die idx s) := by
  unfold execRefillReturn
  split
  · exact h
  split
  · exact h
  extract_lets s1
  have hs1 : s1.Cores P := h
  split
  · exact cores_refillStream hs1
  split
  · exact cores_refillCommand hs1
  split
  · exact cores_refillHub hs1
  · exact cores_refillHeld hs1

theorem cores_invStale {f : Fab} {l : List (Nat × Nat)} (h : f.Cores P) : (invStale f l).Cores P :=
  foldl_keeps h fun _ _ h1 => h1

theorem cores_invWake {s : State} {part : Nat} {v : Inval} (h : s.Cores P) : (invWake s part v).Cores P := h

theorem cores_execInvalidationComplete {part idx : Nat} {s : State} (h : s.Cores P) : OutCores P (execInvalidationComplete part idx s) := by
  unfold execInvalidationComplete
  split
  · exact h
  split
  · exact h
  extract_lets left s1 s2 u
  have hs1 : s1.Cores P := (cores_invStale h)
  have hs2 : s2.Cores P := cores_invWake hs1
  split
  · exact hs1
  show Fab.Cores P _
  dsimp only
  split
  · exact cores_cmdDone hs2
  · exact hs2

/-! ### What a stop does to a region (07 R200, 15 R429) -/

theorem cores_giveBack {f : Fab} {key sel c : Nat} {back : Bool} (h : f.Cores P) : (giveBack f key sel c back).Cores P := by
  unfold giveBack
  dsimp only
  repeat' split
  all_goals exact h

theorem cores_flushNet {f : Fab} {ctx key : Nat} (h : f.Cores P) : (flushNet f ctx key).Cores P := by
  unfold flushNet
  exact foldl_keeps h fun _ _ h1 => cores_giveBack h1

theorem cores_dropMarks {f : Fab} {ctx key : Nat} (h : f.Cores P) : (dropMarks f ctx key).Cores P := by
  unfold dropMarks
  exact foldl_keeps h fun _ _ h1 => cores_giveBack h1

theorem cores_flushCtx {f : Fab} {keys : List Nat} {ctx : Nat} (h : f.Cores P) : (flushCtx f keys ctx).Cores P :=
  foldl_keeps h fun _ _ h1 => (cores_flushNet h1)

theorem cores_moveCores {s : State} {src dst : List Nat} (h : s.Cores P) : (moveCores s src dst).Cores P :=
  ⟨h.1, tabAll_moveTab h.2 fun _ h1 => h1⟩

theorem cores_writeSave {s : State} {p : Part} {r : Region} {id : Nat} {cores virt slots : List Nat} {reason : Nat} {dtime : Word} (hs : s.Cores P) :
    (writeSave s p r id cores virt slots reason dtime).Cores P :=
  hs

theorem cores_planesIncomplete {f : Fab} {l : Load} {keys : List Nat} (h : f.Cores P) : (planesIncomplete f l keys).Cores P :=
  foldl_keeps h fun _ _ h1 => h1

/-- A core of which the memories alone stay. -/
theorem cores_leaveStores {f : Fab} {cores virt : List Nat} (h : f.Cores P) : (leaveStores f cores virt).Cores P := by
  refine foldl_keeps h fun f q hf => ?_
  have hkept : Fab.Cores P { f with ccs := tins f.ccs q.1 { isram := (ccOf f q.2).isram, dsram := (ccOf f q.2).dsram, bad := (ccOf f q.2).bad } } :=
    ⟨hf.1, tabAll_tins hf.2 (hf.1.same hf.1.fresh ⟨rfl, rfl, rfl⟩)⟩
  exact foldl_keeps hkept fun _ _ h1 => h1

theorem cores_saveLaunch {s : State} {rid : Nat} {r : Region} {reason keep : Nat} (h : s.Cores P) : (saveLaunch s rid r reason keep).Cores P := by
  unfold saveLaunch
  extract_lets part p slots cores base virt lds s1 s2 x f s3 s4 f1 n keys mine s5 f2 crd f3 f4 s6
  have hs1 : s1.Cores P := (foldl_keeps h fun _ _ h1 => cores_planesIncomplete h1)
  have hs2 : s2.Cores P := ite_keeps (cores_modCc_same hs1 fun _ => ⟨rfl, rfl, rfl⟩) hs1
  have hf : f.Cores P := hs2
  have hs3 : s3.Cores P := hf
  have hs4 : s4.Cores P := cores_moveCores hs3
  have hf1 : f1.Cores P := cores_leaveStores hs4
  have hs5 : s5.Cores P := hs3
  have hf2 : f2.Cores P := foldl_keeps hs5 fun _ _ h1 => h1
  have hf3 : f3.Cores P := cores_flushCtx hf2
  have hf4 : f4.Cores P := foldl_keeps hf3 fun _ _ h1 => h1
  have hs6 : s6.Cores P := hs5
  split
  · exact cores_writeSave hf1
  · exact cores_writeSave hf4

/-! ### Round controllers (04 R111-R125, 07 R194-R205) -/

theorem cores_backMarks {f : Fab} {key n : Nat} (h : f.Cores P) : (backMarks f key n).Cores P := by
  unfold backMarks
  refine foldl_keeps h fun _ _ h1 => ?_
  dsimp only
  split
  · exact cores_popQ h1
  · exact cores_popQ h1
  · exact h1

theorem cores_chainTake {f : Fab} {key n : Nat} (h : f.Cores P) : (chainTake f key n).Cores P := by
  unfold chainTake
  dsimp only
  split
  · exact h
  split
  · split
    · exact cores_popPlane h
    · exact cores_popPlane h
  · exact h

theorem cores_chainTick {f : Fab} {key : Nat} (h : f.Cores P) : (chainTick f key).Cores P :=
  foldl_keeps h fun _ _ h1 => cores_chainTake h1

theorem cores_sbindEnd {f : Fab} {key : Nat} {t : Tab (List (Nat × BitVec 256) × Nat × Nat)} (h : f.Cores P) : (sbindEnd f key t).Cores P := by
  refine foldl_keeps h fun f b hf => ?_
  split
  · exact cores_cmdEnd hf
  · exact hf

theorem cores_enterRound {f : Fab} {key n : Nat} (h : f.Cores P) : (enterRound f key n).Cores P := by
  unfold enterRound
  extract_lets p nxt f1 f2 f3
  have hf1 : f1.Cores P := foldl_keeps h fun _ _ h1 => ite_keeps (cores_popQ h1) h1
  have hf2 : f2.Cores P := foldl_keeps hf1 fun _ _ h1 => h1
  have hf3 : f3.Cores P := (cores_sbindEnd hf2)
  split
  · exact hf3
  split
  · exact hf3
  · exact hf3

theorem cores_execRoundEntry {key plane : Nat} {s : State} (h : s.Cores P) : OutCores P (execRoundEntry key plane s) := by
  unfold execRoundEntry
  extract_lets f e p
  refine ite_keeps h (ite_keeps (cores_backMarks h) (ite_keeps h ?_))
  split
  next g hg => exact (cores_edgeFlush h).get hg
  · exact ite_keeps (cores_enterRound h) h

theorem cores_execEndMark {key plane : Nat} {s : State} (h : s.Cores P) : OutCores P (execEndMark key plane s) := by
  unfold execEndMark
  extract_lets f e p
  refine ite_keeps h ?_
  split
  next g hg => exact (cores_edgeFlush h).get hg
  · refine ite_keeps ?_ h
    have hpop {l : List Nat} : (l.foldl (fun f q => popQ f key q) s.fab).Cores P := foldl_keeps h fun _ _ h1 => cores_popQ h1
    exact foldl_keeps hpop fun _ _ h1 => h1

theorem cores_orderMarks {f : Fab} {n : Nat} {l : List Src} {ok : Src → Bool} (h : f.Cores P) : (orderMarks f n l ok).Cores P := by
  unfold orderMarks
  refine foldl_keeps h fun _ _ h1 => ?_
  split
  · exact h1
  · exact cores_modCc_same h1 fun _ => ⟨rfl, rfl, rfl⟩

theorem cores_orderStreams {f : Fab} {n : Nat} {l : List Src} {ok : Src → Bool} (h : f.Cores P) : (orderStreams f n l ok).Cores P :=
  foldl_keeps h fun _ _ h1 => ite_keeps h1 h1

theorem cores_execEarlyEdgeRequest {key plane : Nat} {s : State} (h : s.Cores P) : OutCores P (execEarlyEdgeRequest key plane s) := by
  unfold execEarlyEdgeRequest
  split
  · exact h
  dsimp only
  split
  · exact h
  split
  · split
    · exact h
    · exact h
  · exact cores_orderStreams (cores_orderMarks h)

theorem cores_execNonedgeSignal {rid plane : Nat} {s : State} (h : s.Cores P) : OutCores P (execNonedgeSignal rid plane s) := by
  unfold execNonedgeSignal
  split
  · exact h
  dsimp only
  split
  · exact h
  · refine cores_onFab ?_
    exact foldl_keeps (foldl_keeps (cores_orderStreams (cores_orderMarks h)) fun _ _ h1 => cores_modCc_same h1 fun _ => ⟨rfl, rfl, rfl⟩)
        fun _ _ h1 => h1

theorem cores_holdPerform {s : State} {key : Nat} {x : Held} (h : s.Cores P) : (holdPerform s key x).Cores P := by
  unfold holdPerform
  dsimp only
  split
  · exact cores_poisonPost h
  · exact cores_raiseFault (cores_poisonPost h)

theorem cores_performAll {x : Nat} {s : State} {x1 : List (Nat × Nat × List Held)} (h : s.Cores P) : (performAll x s x1).Cores P := by
  induction x generalizing s x1 with
  | zero => exact h
  | succ fuel ih =>
    refine ite_keeps h ?_
    extract_lets i t
    split
    · exact ih (cores_holdPerform h)
    · exact h

theorem cores_commitRegion {ctx : Nat} {s : State} {rid : Nat} (h : s.Cores P) : (commitRegion ctx s rid).Cores P := by
  unfold commitRegion
  split
  · exact h
  extract_lets n held second s1 f f1 f2 f3 f4 l s2
  have hs1 : s1.Cores P := ite_keeps h (cores_performAll h)
  have hf : f.Cores P := foldl_keeps hs1 fun _ _ h1 => h1
  have hf1 : f1.Cores P := foldl_keeps hf fun _ _ h1 => cores_modCc_same h1 fun _ => ⟨rfl, rfl, rfl⟩
  have hf2 : f2.Cores P := hf1
  have hf3 : f3.Cores P := cores_regionEvent hf2
  have hf4 : f4.Cores P := foldl_keeps hf3 fun _ _ h1 => cores_wcSettle h1
  have hs2 : s2.Cores P := hf4
  split
  · exact hs2
  · exact hs2

theorem cores_execRoundCommit {rid plane : Nat} {s : State} (h : s.Cores P) : OutCores P (execRoundCommit rid plane s) := by
  unfold execRoundCommit
  dsimp only
  split
  · exact h
  split
  · exact cores_raiseFault h
  · exact foldl_keeps h fun _ _ h1 => cores_commitRegion h1

theorem cores_linksReset {f : Fab} {keys : List Nat} {drift : Bool} (h : f.Cores P) : (linksReset f keys drift).Cores P :=
  foldl_keeps h fun _ _ h1 => foldl_keeps h1 fun _ _ h2 => h2

theorem cores_backlogBack {f : Fab} {key ctx : Nat} {n : BitVec 32} {log : List (Nat × BitVec 32 × Nat × Token)} (h : f.Cores P) :
    (backlogBack f key ctx n log).Cores P :=
  foldr_keeps h fun _ _ h1 => cores_giveBack h1

theorem cores_discardCtx {ctx : Nat} {f : Fab} {rid : Nat} (h : f.Cores P) : (discardCtx ctx f rid).Cores P := by
  unfold discardCtx
  split
  · exact h
  extract_lets n keys logs f1 f2 f3 f4 edge f5 f6
  have hf1 : f1.Cores P := foldl_keeps h fun _ _ h1 => h1
  have hf2 : f2.Cores P := foldl_keeps (cores_flushCtx hf1) fun _ _ h1 => h1
  have hf3 : f3.Cores P := cores_linksReset hf2
  have hf4 : f4.Cores P := foldl_keeps hf3 fun _ _ h1 => ite_keeps (cores_kwrRun h1) h1
  have hf5 : f5.Cores P := foldl_keeps hf4 fun _ _ h1 => cores_backlogBack h1
  have hf6 : f6.Cores P := foldl_keeps hf5 fun _ _ h1 => cores_modCc_same h1 fun _ => ⟨rfl, rfl, rfl⟩
  exact hf6

theorem cores_reportFaults {s : State} {rid ctx effect : Nat} {both : BitVec 32 → Bool} (h : s.Cores P) :
    (reportFaults s rid ctx effect both).Cores P := by
  unfold reportFaults
  dsimp only
  split
  · exact cores_postReport h
  · exact h

theorem cores_discardAll {f : Fab} {rid ctx : Nat} (h : f.Cores P) : (discardAll f rid ctx).Cores P := by
  unfold discardAll
  refine foldl_keeps h fun _ _ h1 => ?_
  split
  · exact h1
  · exact foldl_keeps (foldl_keeps h1 fun _ _ h2 => h2) fun _ _ h2 => cores_discardCtx h2

theorem cores_noteReplay {f : Fab} {rid ctx : Nat} {g : RCtx → RCtx} (h : f.Cores P) : (noteReplay f rid ctx g).Cores P :=
  foldl_keeps h fun _ _ h1 => h1

theorem cores_applyDiscard {s : State} {rid ctx : Nat} (h : s.Cores P) : (applyDiscard s rid ctx).1.Cores P := by
  unfold applyDiscard
  dsimp only
  split
  · exact h
  split
  · exact cores_noteReplay (cores_discardAll (cores_reportFaults h))
  · exact cores_noteReplay (cores_discardAll h)
  · exact cores_noteReplay (cores_discardAll h)
  · exact h

theorem cores_setPhase {f : Fab} {rid : Nat} {g : Region → Region} (h : f.Cores P) : (setPhase f rid g).Cores P :=
  foldl_keeps h fun _ _ h1 => h1

theorem cores_driftStop {f : Fab} {rid ctx : Nat} (h : f.Cores P) : (driftStop f rid ctx).Cores P := by
  unfold driftStop
  dsimp only
  repeat' split
  all_goals exact h

theorem cores_stopReport {s : State} {rid ctx effect : Nat} (h : s.Cores P) : (stopReport s rid ctx effect).Cores P :=
  cores_noteReplay (cores_reportFaults h)

theorem cores_actNow {s : State} {rid ctx : Nat} (h : s.Cores P) : (actNow s rid ctx).Cores P := by
  unfold actNow
  dsimp only
  split
  · exact cores_noteReplay (cores_reportFaults h)
  · split
    · exact cores_driftStop h
    split
    · exact cores_stopReport h
    · exact cores_applyDiscard h
  · exact cores_applyDiscard h

theorem cores_applyGated {s : State} {rid ctx : Nat} (h : s.Cores P) : (applyGated s rid ctx).Cores P := by
  unfold applyGated
  split
  · exact cores_setPhase (cores_stopReport h)
  · exact cores_setPhase (cores_applyDiscard h)

theorem cores_execRoundDiscard {rid : Nat} {s : State} (h : s.Cores P) : OutCores P (execRoundDiscard rid s) := by
  unfold execRoundDiscard
  split
  · exact h
  split
  · exact h
  split
  · split
    · exact cores_applyGated h
    · exact h
  split
  · exact h
  dsimp only
  split
  · exact cores_actNow h
  split
  · exact cores_stopPair h
  split
  · exact h
  · exact cores_applyGated h

theorem cores_execGateSignalArrival {key : Nat} {s : State} (h : s.Cores P) : OutCores P (execGateSignalArrival key s) := by
  unfold execGateSignalArrival
  split
  · exact h
  split
  · exact h
  refine cores_onFab ?_
  extract_lets f f1
  have hf : f.Cores P := cores_gateElem h
  have hf1 : f1.Cores P := ite_keeps hf hf
  split
  · exact cores_modCc_same hf1 fun _ => sameRegs_ite ⟨rfl, rfl, rfl⟩ ⟨rfl, rfl, rfl⟩
  · exact hf1

theorem cores_auditFix {f : Fab} {x : Nat × Nat × Nat × Nat} (h : f.Cores P) : (auditFix f x).Cores P := by
  unfold auditFix
  dsimp only
  split
  · exact h
  split
  · exact h
  · exact foldl_keeps h fun _ _ h1 => cores_raiseFault h1

theorem cores_restartChecks {r : Region} {f : Fab} {k : Nat} (h : f.Cores P) : (restartChecks r f k).Cores P :=
  foldl_keeps (foldl_keeps h fun _ _ h1 => cores_auditFix h1) fun _ _ h1 => cores_raiseFault h1

theorem cores_ungate {f : Fab} {rid : Nat} (h : f.Cores P) : (ungate f rid).Cores P := by
  unfold ungate
  split
  · exact h
  extract_lets f1 f2
  have hf1 : f1.Cores P := foldl_keeps h fun _ _ h1 => h1
  have hf2 : f2.Cores P := foldl_keeps hf1 fun _ _ h1 => cores_modCc_same h1 fun _ => sameRegs_ite ⟨rfl, rfl, rfl⟩ ⟨rfl, rfl, rfl⟩
  exact foldl_keeps (b := modRegion f2 _ _) hf2 fun _ _ h1 => cores_restartChecks h1

theorem cores_holdAgain {s : State} {key : Nat} {x : Held} (h : s.Cores P) : (holdAgain s key x).1.Cores P := by
  unfold holdAgain
  dsimp only
  split
  · exact h
  split
  · exact h
  split
  · exact h
  · exact cores_raiseFault h
  split
  · exact h
  · exact h

theorem cores_nodeAgain {who : Held → Bool} {s : State} {key : Nat} (h : s.Cores P) : (nodeAgain who s key).1.Cores P := by
  unfold nodeAgain
  extract_lets r
  have hr : r.1.Cores P := by
    refine foldl_keeps_fst h fun a x ha => ?_
    exact ite_keeps_fst (cores_holdAgain ha) ha
  exact hr

theorem cores_regionAgain {who : Held → Bool} {s : State} {r : Region} (h : s.Cores P) : (regionAgain who s r).1.Cores P :=
  foldl_keeps_fst h fun _ _ h1 => cores_nodeAgain h1

theorem cores_restartPair {s : State} {rid : Nat} (h : s.Cores P) : (restartPair s rid).Cores P := by
  unfold restartPair
  extract_lets rs a
  have ha : a.1.Cores P := by
    refine foldl_keeps_fst h fun b q hb => ?_
    split
    · exact hb
    · exact cores_regionAgain hb
  exact ite_keeps (foldl_keeps ha fun _ _ h1 => cores_ungate h1) ha

theorem cores_driftResume {s : State} {did : Nat} (h : s.Cores P) : (driftResume s did).Cores P := by
  unfold driftResume
  split
  · exact h
  extract_lets a f go
  have ha : a.1.Cores P := cores_regionAgain h
  have hf : f.Cores P := ha
  have hgo {f : Fab} (h : f.Cores P) : (go f).Cores P := ite_keeps h h
  refine ite_keeps ha (ite_keeps hf (hgo ?_))
  exact foldl_keeps hf fun _ _ h1 => h1

theorem cores_mendFrame {s : State} {rid : Nat} {r : Region} {q : Nat × Nat × Nat × Nat} (h : s.Cores P) : (mendFrame s rid r q).1.Cores P := by
  unfold mendFrame
  extract_lets p unmark clean
  have hclean {f : Fab} (hf : f.Cores P) : (clean f).Cores P := hf
  refine ite_keeps_fst h ?_
  split
  · exact h
  extract_lets x t s1
  have h1 : s1.Cores P := cores_poisonPost h
  split
  · exact h1
  · exact h1
  · exact hclean h1
  · exact hclean (ite_keeps h1 h1)

theorem cores_rescan {s : State} {rid : Nat} {r : Region} (h : s.Cores P) : (rescan s rid r).1.Cores P := by
  unfold rescan
  refine foldl_keeps_fst h fun _ _ h1 => ?_
  dsimp only
  split
  · exact h1
  · exact cores_mendFrame h1

theorem cores_rescanPair {s : State} {rid : Nat} (h : s.Cores P) : (rescanPair s rid).1.Cores P := by
  unfold rescanPair
  refine foldl_keeps_fst h fun _ _ h1 => ?_
  split
  · exact cores_rescan h1
  · exact h1

theorem cores_rescanStop {s : State} {rid : Nat} {r : Region} {q : Nat × Nat × Nat × Nat} (h : s.Cores P) : (rescanStop s rid r q).Cores P :=
  cores_setPhase (cores_postReport h)

theorem cores_execReplay {rid : Nat} {s : State} (h : s.Cores P) : OutCores P (execReplay rid s) := by
  unfold execReplay
  split
  · exact h
  split
  · exact h
  split
  · exact cores_driftResume h
  split
  · exact h
  dsimp only
  split
  · exact cores_rescanStop (cores_rescanPair h)
  · exact cores_rescanPair h
  · exact cores_restartPair (cores_rescanPair h)

theorem cores_execTimingError {key : Nat} {s : State} (h : s.Cores P) : OutCores P (execTimingError key s) := by
  unfold execTimingError
  dsimp only
  split
  · exact h
  split
  · split
    · exact h
    · exact foldl_keeps (b := modElem s.fab _ _) h fun _ _ h1 => cores_raiseFault h1
  split
  · exact h
  · exact h

theorem cores_execBreakpointStop {key plane slot : Nat} {s : State} (h : s.Cores P) : OutCores P (execBreakpointStop key plane slot s) := by
  unfold execBreakpointStop
  dsimp only
  split
  · exact h
  split
  · exact h
  · exact cores_breakStop h

theorem cores_execQuiesceDetect {rid plane : Nat} {s : State} (h : s.Cores P) : OutCores P (execQuiesceDetect rid plane s) := by
  unfold execQuiesceDetect
  split
  · exact h
  dsimp only
  split
  · exact h
  split
  · exact cores_driftStop (cores_raiseFault h)
  · exact cores_stopPair (cores_raiseFault h)

theorem cores_lendScrub {f : Fab} {r : Region} (h : f.Cores P) : (lendScrub f r).Cores P := by
  unfold lendScrub
  refine foldl_keeps h fun _ _ h1 => foldl_keeps h1 fun _ _ h2 => ?_
  split
  · exact h2
  · exact h2

theorem cores_lendTo {f : Fab} {o fn : Nat} (h : f.Cores P) : (lendTo f o fn).Cores P := by
  unfold lendTo
  split
  · exact h
  split
  · exact h
  · exact cores_lendScrub h

theorem cores_lendReturn {f : Fab} {o : Nat} (h : f.Cores P) : (lendReturn f o).Cores P := by
  unfold lendReturn
  split
  · exact h
  split
  · exact h
  · exact cores_lendScrub h

theorem cores_msgsEnd {f : Fab} {did : Nat} (h : f.Cores P) : (msgsEnd f did).Cores P := by
  unfold msgsEnd
  split
  · exact h
  · exact foldl_keeps h fun _ _ h1 => cores_cmdReply h1

theorem cores_driftLeaves {f : Fab} {did : Nat} (h : f.Cores P) : (driftLeaves f did).Cores P := by
  unfold driftLeaves
  split
  · exact h
  extract_lets f1 f2
  have hf1 : f1.Cores P := foldl_keeps (cores_msgsEnd h) fun _ _ h1 => cores_modCc_same h1 fun _ => ⟨rfl, rfl, rfl⟩
  have hf2 : f2.Cores P := hf1
  split
  · exact hf2
  · exact cores_lendReturn hf2

theorem cores_planesEmpty {f : Fab} {keys : List Nat} {n : Nat} (h : f.Cores P) : (planesEmpty f keys n).Cores P := by
  unfold planesEmpty
  refine foldl_keeps h fun _ _ h1 => ?_
  split
  · exact h1
  · exact h1

theorem cores_kwrAll {f : Fab} {keys : List Nat} {n : Nat} (h : f.Cores P) : (kwrAll f keys n).Cores P :=
  foldl_keeps h fun _ _ h1 => ite_keeps (cores_kwrRun h1) h1

theorem cores_kwrDrop {s : State} {k n : Nat} (h : s.Cores P) : (kwrDrop s k n).Cores P := by
  unfold kwrDrop
  extract_lets p s1
  have hs1 : s1.Cores P := foldl_keeps h fun _ _ h1 => cores_postReport (cores_cmdDone h1)
  split
  · exact h
  · exact hs1

theorem cores_dropOwed {s : State} {cores : List Nat} (h : s.Cores P) : (dropOwed s cores).Cores P := h

theorem cores_driftAgain {s : State} {did : Nat} {d : Region} (h : s.Cores P) : (driftAgain s did d).Cores P :=
  foldl_keeps (cores_flushCtx h) fun _ _ h1 => h1

theorem cores_readsComplete {s : State} {r : Region} {mine : Nat → Bool} (h : s.Cores P) : (readsComplete s r mine).Cores P := by
  refine foldl_keeps h fun s k hs => foldl_keeps hs fun s i hs => ite_keeps ?_ hs
  have hread : OutCores P (execStreamReadReturn k i s) := cores_execStreamReadReturn hs
  split
  next t heq =>
    rw [heq] at hread
    exact hread
  · exact hs

theorem cores_driftFaults {s : State} {o did n : Nat} (h : s.Cores P) : (driftFaults s o did n).Cores P := by
  unfold driftFaults
  split
  · exact h
  split
  · exact h
  split
  · exact cores_actNow h
  · exact cores_actNow h

theorem cores_driftSaveAs {s : State} {did reason keep : Nat} (h : s.Cores P) : (driftSaveAs s did reason keep).Cores P := by
  unfold driftSaveAs
  extract_lets s1
  have hs1 : s1.Cores P := (cores_msgsEnd h)
  split
  · exact hs1
  extract_lets o s2 s3 own ctxs s4 f
  have hs2 : s2.Cores P := (foldl_keeps hs1 fun _ _ h1 => h1)
  have hs3 : s3.Cores P := cores_driftFaults (cores_readsComplete hs2)
  have hs4 : s4.Cores P := ite_keeps (cores_driftAgain hs3) (cores_saveLaunch hs3)
  have hf : f.Cores P := foldl_keeps hs4 fun _ _ h1 => cores_modCc_same h1 fun _ => ⟨rfl, rfl, rfl⟩
  exact cores_lendReturn hf

theorem cores_driftSave {s : State} {did : Nat} (h : s.Cores P) : (driftSave s did).Cores P :=
  cores_driftSaveAs h

theorem cores_driftsOut {s : State} {rid keep : Nat} (h : s.Cores P) : (driftsOut s rid keep).Cores P :=
  foldl_keeps h fun _ _ h1 => cores_driftSaveAs h1

theorem cores_preloadsEnd {s : State} {rid : Nat} {r : Region} (h : s.Cores P) : (preloadsEnd s rid r).Cores P :=
  foldl_keeps h fun _ _ h1 => cores_kwrAll (cores_planesEmpty h1)

theorem cores_freeRegion {s : State} {rid : Nat} (h : s.Cores P) : (freeRegion s rid).Cores P := by
  unfold freeRegion
  extract_lets s1 s2
  have hs1 : s1.Cores P := cores_driftsOut h
  have hs2 : s2.Cores P := (cores_endLease hs1)
  split
  · exact hs2
  extract_lets s3 s4 f f1 loads cores users gone
  have hs3 : s3.Cores P := cores_preloadsEnd hs2
  have hs4 : s4.Cores P := ite_keeps hs3 hs3
  have hf : f.Cores P := foldl_keeps hs4 fun _ _ h1 => h1
  have hf1 : f1.Cores P := foldl_keeps hf fun _ _ h1 => cores_modCc_same h1 fun _ => ⟨rfl, rfl, rfl⟩
  exact hf1

theorem cores_unbindPlane {f : Fab} {r : Region} {n : Nat} (h : f.Cores P) : (unbindPlane f r n).Cores P := by
  unfold unbindPlane
  refine foldl_keeps h fun _ _ h1 => ?_
  dsimp only
  split
  · exact cores_kwrRun (cores_sbindEnd h1)
  · exact h1

theorem cores_swapEnds {f : Fab} {rid n : Nat} (h : f.Cores P) : (swapEnds f rid n).Cores P := by
  unfold swapEnds
  split
  · exact h
  split
  · exact h
  refine foldl_keeps (foldl_keeps h fun _ _ h1 => h1) fun _ _ h1 => ?_
  split
  · exact h1
  split
  · exact h1
  · exact h1

theorem cores_retireEvent {s : State} {rid ctx : Nat} {r : Region} (h : s.Cores P) : (retireEvent s rid ctx r).Cores P := by
  unfold retireEvent
  dsimp only
  repeat' split
  all_goals exact h

theorem cores_retireCtx {s : State} {rid ctx : Nat} (h : s.Cores P) : (retireCtx s rid ctx).Cores P := by
  unfold retireCtx
  split
  · exact h
  extract_lets second s1 drift last s2 f1 f2 f3 f4 f5 s3
  have h1 : s1.Cores P := ite_keeps h (cores_retireEvent h)
  have h2 : s2.Cores P := ite_keeps (cores_driftsOut h1) h1
  have hf3 : f3.Cores P := (cores_unbindPlane (cores_flushCtx h2))
  have hf4 : f4.Cores P := foldl_keeps hf3 fun _ _ h => cores_modCc_same (cores_wcSettle h) fun _ => ⟨rfl, rfl, rfl⟩
  have h3 : s3.Cores P := (cores_swapEnds hf4)
  clear_value drift
  split
  · exact cores_driftLeaves h3
  split
  · exact h3
  · exact ite_keeps h3 (cores_freeRegion h3)

theorem cores_execRetirementSweep {rid plane : Nat} {s : State} (h : s.Cores P) : OutCores P (execRetirementSweep rid plane s) := by
  unfold execRetirementSweep
  dsimp only
  split
  · exact h
  split
  · exact h
  split
  · exact foldl_keeps h fun _ _ h1 => cores_retireCtx h1
  split
  · exact h
  · exact cores_noteReplay (foldl_keeps (cores_postReport h) fun _ _ h1 => foldl_keeps h1 fun _ _ h2 => cores_dropMarks h2)

/-! ### Launch records and image loads (08 R213-R217, 14 R383-R398) -/

theorem cores_fetchRec {s : State} {part fn q va minClass : Nat} (h : s.Cores P) : (fetchRec s part fn q va minClass).1.Cores P :=
  cores_poisonPost h

theorem cores_fetchReport {s : State} {part fn : Nat} {info : Word} (h : s.Cores P) : (fetchReport s part fn info).Cores P :=
  cores_postLine h

theorem cores_fetchQueue {s : State} {part fn q : Nat} (h : s.Cores P) : (fetchQueue s part fn q).Cores P := by
  unfold fetchQueue
  extract_lets p cfg head r t
  have ht : t.Cores P := cores_fetchRec h
  refine ite_keeps h ?_
  split
  · exact ht
  · exact ht
  · exact cores_fetchReport ht
  · exact ht

theorem cores_fetchChild {s : State} {part fn : Nat} (h : s.Cores P) : (fetchChild s part fn).Cores P := by
  unfold fetchChild
  split
  · exact h
  extract_lets r t pop
  have ht : t.Cores P := cores_fetchRec h
  split
  · exact cores_cmdReply ht
  · exact ht
  · exact cores_fetchReport ht
  · exact cores_cmdReply ht

theorem cores_execLaunchFetch {part fn q : Nat} {s : State} (h : s.Cores P) : OutCores P (execLaunchFetch part fn q s) := by
  unfold execLaunchFetch
  dsimp only
  split
  · exact h
  split
  · exact cores_fetchQueue h
  split
  · exact cores_fetchChild h
  · exact h

theorem cores_refusePlaced {s : State} {rid code cause : Nat} (h : s.Cores P) : (refusePlaced s rid code cause).Cores P := by
  unfold refusePlaced
  split
  · exact h
  refine foldl_keeps ?_ fun _ _ h1 => ?_
  · split
    · exact cores_postReport h
    · exact cores_postReport h
  · split
    · exact h1
    dsimp only
    split
    · exact cores_driftLeaves (cores_kwrAll (cores_planesEmpty h1))
    · exact cores_freeRegion (cores_kwrAll (cores_planesEmpty h1))

theorem cores_loadFail {s : State} {idx : Nat} {l : Load} {code cause : Nat} (h : s.Cores P) : (loadFail s idx l code cause).Cores P := by
  unfold loadFail
  dsimp only
  split
  · exact cores_refusePlaced (cores_kwrAll (cores_planesEmpty h))
  · exact cores_kwrAll (cores_planesEmpty h)

theorem cores_bindStream {f : Fab} {r : Region} {v : Nat} (h : f.Cores P) : OptAll (Fab.Cores P) (bindStream f r v) := by
  unfold bindStream
  split
  · exact trivial
  dsimp only
  split
  · exact trivial
  · exact h

theorem cores_placeStage {f : Fab} {r : Region} {v : Nat} (h : f.Cores P) : OptAll (Fab.Cores P) (placeStage f r v) := by
  unfold placeStage
  extract_lets w add x
  split
  · exact trivial
  extract_lets f1 f2
  have hf1 : f1.Cores P := h
  have hf2 : f2.Cores P := by
    refine foldl_keeps hf1 fun _ _ h1 => ?_
    split <;> exact h1
  exact ite_keeps (P := OptAll (Fab.Cores P)) hf2 trivial

theorem cores_bindPorts {r : Region} {f : Fab} {core : Nat} (h : f.Cores P) : (bindPorts r f core).Cores P := by
  unfold bindPorts
  refine foldl_keeps h fun _ _ h1 => ?_
  split
  · exact cores_modCc_same h1 fun _ => ⟨rfl, rfl, rfl⟩
  · exact h1

theorem cores_clockStart {f : Fab} {r : Region} (h : f.Cores P) : (clockStart f r).Cores P :=
  foldl_keeps h fun _ _ h1 => h1

theorem cores_prepareStart {s : State} {rid : Nat} (h : s.Cores P) : (prepareStart s rid).Cores P := by
  unfold prepareStart
  split
  · exact h
  extract_lets l step binds a b
  have hstep {o : Option Fab} {g : Fab → Option Fab} (ho : OptAll (Fab.Cores P) o) (hg : ∀ f, f.Cores P → OptAll (Fab.Cores P) (g f)) :
      OptAll (Fab.Cores P) (step o g) := optAll_bind ho hg
  have ha : OptAll (Fab.Cores P) a := by
    refine foldl_keeps (P := OptAll (Fab.Cores P)) h fun o v ho => ?_
    exact ite_keeps (hstep ho fun _ h1 => cores_bindStream h1) (ite_keeps ho trivial)
  have hb : OptAll (Fab.Cores P) b := foldl_keeps ha fun _ _ ho => hstep ho fun _ h1 => cores_placeStage h1
  refine ite_keeps (cores_refusePlaced h) ?_
  cases hf : b with
  | none => exact cores_refusePlaced h
  | some f =>
    dsimp -zeta only
    extract_lets f1 f2
    have h0 : f.Cores P := hb.get hf
    have h1 : f1.Cores P := ite_keeps h0 (cores_clockStart (cores_selectSpine h0))
    have h2 : f2.Cores P := ite_keeps h1 (foldl_keeps h1 fun _ _ h => cores_bindPorts h)
    exact h2

theorem cores_startCore {s : State} {core : Nat} {sup : Bool} (h : s.Cores P) : (startCore s core sup).Cores P :=
  cores_modCc (cores_dropOwed h) fun _ _ => h.1.same h.1.fresh ⟨rfl, rfl, rfl⟩

theorem cores_execStartTokenArrival {core : Nat} {s : State} (h : s.Cores P) : OutCores P (execStartTokenArrival core s) := by
  unfold execStartTokenArrival
  split
  · exact h
  extract_lets ready n home f f1 second s1 s2 f2 s3
  have hf : f.Cores P := foldl_keeps h fun _ _ h1 => ite_keeps h1 h1
  have hf1 : f1.Cores P := hf
  have hs1 : s1.Cores P := hf1
  have hs2 : s2.Cores P := ite_keeps (cores_startCore hs1) hs1
  have hf2 : f2.Cores P := ite_keeps (cores_bindPorts hs2) hs2
  have hs3 : s3.Cores P := hf2
  split
  · exact h
  split
  · exact hs3
  · exact hs3

theorem cores_loadBegin {f : Fab} {keys : List Nat} {n : Nat} (h : f.Cores P) : (loadBegin f keys n).Cores P :=
  foldl_keeps h fun _ _ h1 => h1

theorem cores_loadData {f : Fab} {l : Load} {v : BitVec 256} (h : f.Cores P) : OptAll (fun q => q.1.Cores P) (loadData f l v) := by
  unfold loadData
  dsimp only
  split
  · exact trivial
  split
  · split
    · exact h
    · exact trivial
  split
  · split
    · exact h
    · exact trivial
  · exact cores_storeWrite h

theorem cores_loadDefaults {f : Fab} {l : Load} {drift : Bool} (h : f.Cores P) : (loadDefaults f l drift).Cores P := by
  unfold loadDefaults
  refine foldl_keeps h fun _ _ h1 => ?_
  split
  · exact h1
  dsimp only
  split
  · split
    · exact h1
    · exact h1
  · exact foldl_keeps (ite_keeps h1 h1) fun _ _ h2 => ite_keeps h2 h2

theorem cores_loadedPlanes {f : Fab} {l : Load} (h : f.Cores P) : (loadedPlanes f l).Cores P := by
  unfold loadedPlanes
  refine cores_kwrAll (foldl_keeps h fun _ _ h1 => ?_)
  split
  · exact h1
  · exact h1

theorem cores_loadEnd {s : State} {idx : Nat} {l : Load} (h : s.Cores P) : (loadEnd s idx l).Cores P := by
  unfold loadEnd
  extract_lets drift f f1
  have hf : f.Cores P := cores_loadDefaults h
  have hf1 : f1.Cores P := cores_loadedPlanes hf
  split
  · exact cores_loadFail hf
  split
  · split
    · exact cores_loadFail hf
    · exact hf1
  extract_lets cls
  split
  · exact cores_loadFail hf
  · exact cores_prepareStart hf1

theorem cores_loadState {f : Fab} {l : Load} {a b : PSt} (h : f.Cores P) : (loadState f l a b).Cores P := by
  unfold loadState
  refine foldl_keeps h fun _ _ h1 => ?_
  split
  · exact h1
  · exact h1

theorem cores_openLoad {f : Fab} {l : Load} (h : f.Cores P) : (openLoad f l).Cores P := by
  unfold openLoad
  refine (foldl_keeps h fun _ _ h1 => ?_)
  split
  · exact h1
  · exact h1

theorem cores_loadFrame {s : State} {idx : Nat} {l : Load} {v : BitVec 256} (h : s.Cores P) : (loadFrame s idx l v).Cores P := by
  unfold loadFrame
  extract_lets bad n last keep
  have hbad : bad.Cores P := cores_loadFail h
  have hkeep {f : Fab} {l : Load} (hf : f.Cores P) : (keep f l).Cores P := (cores_loadState hf)
  refine ite_keeps (ite_keeps (hkeep (cores_loadBegin h)) hbad) (ite_keeps hbad (ite_keeps ?_ ?_))
  · split
    · exact hbad
    next q hq => exact hkeep ((cores_loadData h).get hq)
  · exact ite_keeps (ite_keeps (cores_loadEnd h) hbad) (ite_keeps (hkeep h) hbad)

theorem cores_execPlaneLoadFrame {idx : Nat} {s : State} (h : s.Cores P) : OutCores P (execPlaneLoadFrame idx s) := by
  unfold execPlaneLoadFrame
  split
  · exact h
  extract_lets core held a r l' src t
  have ht : t.Cores P := cores_poisonPost h
  have hstate {x y : PSt} : (loadState t.fab l' x y).Cores P := cores_loadState ht
  refine ite_keeps h ?_
  split
  · exact ht
  · exact cores_loadFrame hstate
  · exact cores_postReport hstate
  · exact ite_keeps (cores_loadFail ht) hstate
  · exact cores_loadFail ht

/-! ### The scheduler, swaps, lending, saves and restores (14 R396-R409, 15 R429-R437) -/

theorem cores_scrubCore {f : Fab} {core : Nat} (h : f.Cores P) : (scrubCore f core).Cores P :=
  foldl_keeps h fun _ _ h1 => h1

theorem cores_joinCores {f : Fab} {cores : List Nat} {part fn : Nat} (h : f.Cores P) : (joinCores f cores part fn).Cores P :=
  foldl_keeps h fun _ _ h1 => ite_keeps (cores_scrubCore h1) h1

theorem cores_beginLaunch {s : State} {rid : Nat} {warm cold : Bool} (h : s.Cores P) : (beginLaunch s rid warm cold).Cores P := by
  unfold beginLaunch
  split
  · exact h
  split
  · exact cores_prepareStart h
  · exact cores_openLoad h

theorem cores_placeLaunch {s : State} {l : Launch} {spots : List (Nat × Nat)} {n : Nat} {warm : Bool} (h : s.Cores P) :
    (placeLaunch s l spots n warm).Cores P :=
  foldl_keeps (cores_joinCores h) fun _ _ h1 => cores_beginLaunch h1

theorem cores_placeDrift {s : State} {l : Launch} {host n : Nat} {warm : Bool} (h : s.Cores P) : (placeDrift s l host n warm).Cores P := by
  unfold placeDrift
  split
  · exact h
  · exact cores_beginLaunch (cores_lendTo h)

theorem cores_execSchedulerDecision {part : Nat} {s : State} (h : s.Cores P) : OutCores P (execSchedulerDecision part s) := by
  unfold execSchedulerDecision
  extract_lets p s1
  have hs1 : s1.Cores P := h
  split
  · exact h
  split
  · exact hs1
  extract_lets s2
  have hs2 : s2.Cores P := hs1
  split
  · exact cores_placeLaunch hs2
  · exact cores_placeDrift hs2
  · exact cores_stopPair hs1
  · exact hs1

theorem cores_execNotbeforeReached {part idx : Nat} {s : State} (h : s.Cores P) : OutCores P (execNotbeforeReached part idx s) := by
  unfold execNotbeforeReached
  split <;> exact h

theorem cores_execBatchPromotion {part idx : Nat} {s : State} (h : s.Cores P) : OutCores P (execBatchPromotion part idx s) := by
  unfold execBatchPromotion
  repeat' split
  all_goals exact h

theorem cores_execSwapCheck {rid : Nat} {s : State} (h : s.Cores P) : OutCores P (execSwapCheck rid s) := by
  unfold execSwapCheck
  repeat' split
  all_goals exact h

theorem cores_swapRefuse {f : Fab} {rid : Nat} {r : Region} {w : Swap} (h : f.Cores P) : (swapRefuse f rid r w).Cores P :=
  foldl_keeps (cores_kwrAll (cores_regionEvent (cores_cmdReply h))) fun _ _ h1 => h1

theorem cores_execSwapTick {rid : Nat} {s : State} (h : s.Cores P) : OutCores P (execSwapTick rid s) := by
  unfold execSwapTick
  split
  · exact h
  split
  · exact h
  refine ite_keeps h (ite_keeps (cores_onFab (cores_swapRefuse h)) (cores_onFab ?_))
  extract_lets lent f1 f2 f3 f4
  have hf1 : f1.Cores P := cores_kwrAll (foldl_keeps h fun _ _ h1 => h1)
  have hf2 : f2.Cores P := foldl_keeps hf1 fun _ _ h1 => h1
  have hf4 : f4.Cores P := cores_cmdReply (f := f3) hf2
  exact foldl_keeps hf4 fun _ _ h1 => h1

theorem cores_msgDone {f : Fab} {did key : Nat} (h : f.Cores P) : (msgDone f did key).Cores P := by
  unfold msgDone
  extract_lets f1
  have hf1 : f1.Cores P := h
  split
  · exact hf1
  · refine ite_keeps hf1 ?_
    extract_lets f2
    have hf2 : f2.Cores P := foldl_keeps hf1 fun _ _ h1 => cores_cmdReply h1
    exact hf2

theorem cores_execRevokeArrival {key plane : Nat} {s : State} (h : s.Cores P) : OutCores P (execRevokeArrival key plane s) := by
  unfold execRevokeArrival
  split
  · exact h
  · exact cores_msgDone (f := modElem _ _ _) h

theorem cores_execRelendArrival {key plane : Nat} {s : State} (h : s.Cores P) : OutCores P (execRelendArrival key plane s) := by
  unfold execRelendArrival
  split
  · exact h
  · exact cores_msgDone (f := modElem _ _ _) h

theorem cores_execLendWithdraw {rid : Nat} {s : State} (h : s.Cores P) : OutCores P (execLendWithdraw rid s) := by
  unfold execLendWithdraw
  split
  · exact h
  extract_lets ds n s1
  have hs1 : s1.Cores P := foldl_keeps h fun _ _ h1 => cores_driftSave h1
  split
  · split
    · exact h
    · exact h
  split
  · exact h
  · exact hs1

theorem cores_execDistributorSend {key plane : Nat} {s : State} (h : s.Cores P) : OutCores P (execDistributorSend key plane s) := by
  unfold execDistributorSend
  dsimp only
  split
  · exact h
  split
  · exact h
  refine cores_onFab ?_
  split
  · exact cores_popPlane h
  · exact cores_busy (cores_popPlane h)

theorem cores_stageReport {g : Region} {plane r n : Nat} {f : Fab} {x : StageE} (h : f.Cores P) : (stageReport g plane r n f x).Cores P := by
  unfold stageReport
  repeat' split
  all_goals exact h

theorem cores_execStageSample {key plane : Nat} {s : State} (h : s.Cores P) : OutCores P (execStageSample key plane s) := by
  unfold execStageSample
  extract_lets e p
  split
  · exact h
  extract_lets mine
  refine ite_keeps h (cores_onFab (foldl_keeps (b := modElem _ _ _) h fun _ _ h1 => ?_))
  split
  · exact h1
  · exact cores_stageReport h1

theorem cores_saveRegion {s : State} {rid reason : Nat} (h : s.Cores P) : (saveRegion s rid reason).Cores P := by
  unfold saveRegion
  extract_lets rs need t
  have ht : t.Cores P := foldl_keeps h fun _ _ h1 => cores_driftsOut h1
  clear_value rs t
  split
  · split
    next ra rb _ _ =>
      extract_lets s1 part ib s2 s3 ia
      have h1 : s1.Cores P := cores_saveLaunch ht
      have h2 : s2.Cores P := h1
      have h3 : s3.Cores P := cores_saveLaunch h2
      exact h3
    · exact ht
  · split
    · exact cores_saveLaunch ht
    · exact ht

theorem cores_saveAnswer {s : State} {part reason : Nat} (h : s.Cores P) : (saveAnswer s part reason).Cores P := by
  unfold saveAnswer
  split <;> exact h

theorem cores_execPreemption {rid : Nat} {s : State} (h : s.Cores P) : OutCores P (execPreemption rid s) := by
  unfold execPreemption
  split
  · exact h
  extract_lets n room reason s1
  have hs1 : s1.Cores P := by
    refine foldl_keeps h fun _ _ h1 => ?_
    split
    · exact cores_readsComplete h1
    · exact h1
  split
  · exact cores_stopPair h
  split
  · exact cores_saveAnswer (cores_saveRegion h)
  split
  · exact h
  split
  · exact hs1
  · exact cores_saveAnswer (cores_saveRegion hs1)

theorem cores_swapMissed {f : Fab} {rid : Nat} {now : Word} (h : f.Cores P) : (swapMissed f rid now).Cores P := by
  unfold swapMissed
  split
  · exact h
  split
  · exact h
  split
  · exact cores_swapRefuse h
  · exact h

theorem cores_restoreAt {s : State} {x : Saved} {q : Nat × Nat} {rid : Nat} (h : s.Cores P) : (restoreAt s x q rid).Cores P := by
  unfold restoreAt
  extract_lets r0 r1 dst src s1 s2 r r' olds f1 f2
  have h2 : s2.Cores P := cores_moveCores (cores_joinCores h)
  have hf1 : f1.Cores P := foldl_keeps h2 fun _ _ h1 => foldl_keeps h1 fun _ _ h1 => h1
  exact cores_swapMissed (cores_selectSpine hf1)

theorem cores_slotWrite {r : Region} {virt key : Nat} {g : SlotGroup} {idx : Nat} {f : Fab} {v : BitVec 256} (h : f.Cores CC.ZeroRegister) :
    OptAll (Fab.Cores CC.ZeroRegister) (slotWrite r virt key g idx f v) := by
  unfold slotWrite
  split
  · exact h
  split
  · exact cores_stateWrite h
  · exact cores_storeWrite h
  · split
    · split
      · exact h
      · exact trivial
    split
    · exact h
    · exact trivial
  split
  · exact h
  · exact trivial

theorem cores_slotGroups {m : MemSys} {p : Part} {slot : Nat} {x : Saved} {x1 x2 : Nat} {x3 : List SlotGroup} {f : Fab} (hf :
    f.Cores CC.ZeroRegister) :
    OptAll (fun q => q.1.Cores CC.ZeroRegister) (slotGroups m p slot x x1 x2 x3 f) := by
  induction x1 generalizing x2 x3 f with
  | zero => exact hf
  | succ n ih =>
    refine ite_keeps trivial ?_
    split
    · exact trivial
    next g hg => exact ih ((optAll_foldlM hf fun _ _ h1 => cores_slotWrite h1).get hg)

theorem cores_slotImage {m : MemSys} {p : Part} {x : Saved} {f : Fab} {slot : Nat} (hf : f.Cores CC.ZeroRegister) :
    OptAll (Fab.Cores CC.ZeroRegister) (slotImage m p x f slot) := by
  refine ite_keeps trivial ?_
  split
  · exact trivial
  next g k hg => exact ite_keeps (P := OptAll (Fab.Cores CC.ZeroRegister)) ((cores_slotGroups hf).get hg) trivial

theorem cores_slotsWritten {s : State} {part : Nat} {x : Saved} (h : s.Cores CC.ZeroRegister) :
    OptAll (fun q => q.1.Cores CC.ZeroRegister) (slotsWritten s part x) := by
  unfold slotsWritten
  split
  · exact trivial
  next f hf =>
    have hopen : Fab.Cores CC.ZeroRegister { s.fab with regions := s.fab.regions ++ [(s.fab.nextRid, x.region)] } := h
    have hfab : f.Cores CC.ZeroRegister := (optAll_foldlM hopen fun _ _ h1 => cores_slotImage h1).get hf
    exact ite_keeps (P := OptAll fun q : Fab × Saved => q.1.Cores CC.ZeroRegister) hfab trivial

theorem cores_slotsRead {s : State} {part : Nat} {x : Saved} (h : s.Cores CC.ZeroRegister) : (slotsRead s part x).1.Cores CC.ZeroRegister := by
  unfold slotsRead
  split
  next q hq => exact (cores_slotsWritten h).get hq
  · exact h

theorem cores_saveDropped {s : State} {part id : Nat} {x : Saved} (h : s.Cores P) : (saveDropped s part id x).Cores P := by
  unfold saveDropped
  extract_lets t pre
  have ht : t.Cores P := by
    unfold t
    split
    · exact cores_poisonPost h
    · exact h
  exact ht

theorem cores_corruptBack {s : State} {part i : Nat} {l : Launch} {saves : List (Nat × Saved)} {x : Saved} {cause : Nat} (h : s.Cores P) :
    (corruptBack s part i l saves x cause).Cores P :=
  cores_postLine (foldl_keeps h fun _ _ h1 => cores_saveDropped h1)

theorem cores_restoreDrift {s : State} {x : Saved} {host : Nat} (h : s.Cores P) : (restoreDrift s x host).Cores P := by
  unfold restoreDrift
  split
  · exact h
  extract_lets n r0 r1 dst src f0 shift s1 f
  have hf : f.Cores P := foldl_keeps (cores_lendTo h) fun _ _ h1 => foldl_keeps h1 fun _ _ h2 => h2
  clear_value f
  exact cores_driftResume hf

theorem cores_execRestoreSavedLaunch {part idx : Nat} {s : State} (h : s.Cores CC.ZeroRegister) :
    OutCores CC.ZeroRegister (execRestoreSavedLaunch part idx s) := by
  unfold execRestoreSavedLaunch
  split
  · exact h
  next i l plan _ =>
  split
  · exact h
  next id x _ =>
  extract_lets y saves a b t x' y' won rid
  refine ite_keeps h ?_
  split
  · exact cores_corruptBack h
  have ha : a.1.Cores CC.ZeroRegister := cores_slotsRead h
  have hb : OptAll (fun q : Nat × State × Saved => q.2.1.Cores CC.ZeroRegister) b := by
    unfold b
    cases y with
    | none => exact trivial
    | some q => exact cores_slotsRead ha
  have ht : t.Cores CC.ZeroRegister := optAll_getD (optAll_map hb fun _ h1 => h1) ha
  have hwon : won.Cores CC.ZeroRegister := ht
  split
  · exact cores_restoreDrift hwon
  next q more =>
    extract_lets s1 s2
    have h1 : s1.Cores CC.ZeroRegister := cores_restoreAt hwon
    have h2 : s2.Cores CC.ZeroRegister := by
      unfold s2
      clear_value y'
      split
      next j z q2 _ _ =>
        extract_lets s3
        have h3 : s3.Cores CC.ZeroRegister := cores_restoreAt h1
        exact h3
      · exact h1
    exact ite_keeps h2 (cores_restartPair h2)
  · exact ht

/-! ### Host accesses, device time, leases, audit and patrol (21 R473-R475, 22 R478-R485, 23 R489-R491) -/

theorem cores_hostRead {s : State} {part off : Nat} {cache : Bool} (h : s.Cores P) : (hostRead s part off cache).Cores P := by
  unfold hostRead
  split
  · exact h
  dsimp only
  split
  · exact h
  split
  · exact h
  split
  · exact cores_poisonPost h
  · exact h

theorem cores_hostWrite {s : State} {part off : Nat} {mask : BitVec 64} {v : Line} (h : s.Cores P) : (hostWrite s part off mask v).Cores P := by
  unfold hostWrite
  dsimp only
  repeat' split
  all_goals exact h

theorem cores_execPeerInboundAccess {part : Nat} {write : Bool} {off : Nat} {mask : BitVec 64} {v : BitVec 512} {s : State} (h : s.Cores P) :
    OutCores P (execPeerInboundAccess part write off mask v s) := by
  unfold execPeerInboundAccess
  split
  · exact cores_hostWrite h
  · exact cores_hostRead h

theorem cores_execBackInvalidate {addr : Nat} {s : State} (h : s.Cores P) : OutCores P (execBackInvalidate addr s) :=
  h

theorem cores_execHdmDecoderCommit {pf : Nat} {s : State} (h : s.Cores P) : OutCores P (execHdmDecoderCommit pf s) := by
  unfold execHdmDecoderCommit
  repeat' split
  all_goals exact h

theorem cores_execVfEnableWrite {pf n : Nat} {en : Bool} {s : State} (h : s.Cores P) : OutCores P (execVfEnableWrite pf n en s) := by
  unfold execVfEnableWrite
  repeat' split
  all_goals exact h

theorem cores_chargeEnergy {s : State} (h : s.Cores P) : (chargeEnergy s).Cores P := h

theorem cores_execDeviceTimePeriod {s : State} (h : s.Cores P) : OutCores P (execDeviceTimePeriod s) :=
  cores_chargeEnergy h

theorem cores_execDtsetWrite {v : BitVec 64} {s : State} (h : s.Cores P) : OutCores P (execDtsetWrite v s) := by
  unfold execDtsetWrite
  split <;> exact h

theorem cores_execDtadjWrite {v : BitVec 64} {s : State} (h : s.Cores P) : OutCores P (execDtadjWrite v s) :=
  h

theorem cores_execDtfreqWrite {v : BitVec 64} {s : State} (h : s.Cores P) : OutCores P (execDtfreqWrite v s) := by
  unfold execDtfreqWrite
  dsimp only
  repeat' split
  all_goals exact h

theorem cores_execPpscapRead {s : State} (h : s.Cores P) : OutCores P (execPpscapRead s) :=
  h

theorem cores_execSpineStep {n : Nat} {s : State} (h : s.Cores P) : OutCores P (execSpineStep n s) := by
  unfold execSpineStep
  split <;> exact h

theorem cores_execDroopStretch {core : Nat} {s : State} (h : s.Cores P) : OutCores P (execDroopStretch core s) := by
  unfold execDroopStretch
  split <;> exact h

theorem cores_execBucketRefill {rid : Nat} {s : State} (h : s.Cores P) : OutCores P (execBucketRefill rid s) := by
  unfold execBucketRefill
  repeat' split
  all_goals exact h

theorem cores_execLeaseExpiry {rid : Nat} {s : State} (h : s.Cores P) : OutCores P (execLeaseExpiry rid s) := by
  unfold execLeaseExpiry
  split
  · exact h
  split
  · exact cores_endLease h
  · exact h

theorem cores_execLeaseRevoke {s : State} (h : s.Cores P) : OutCores P (execLeaseRevoke s) := by
  unfold execLeaseRevoke
  dsimp only
  split
  · exact h
  split
  · exact h
  · exact cores_postReport (cores_modCc_same (f := modRegion s.fab _ _) h fun _ => ⟨rfl, rfl, rfl⟩)

theorem cores_auditStep {s : State} {core row : Nat} (h : s.Cores P) : (auditStep s core row).Cores P := by
  unfold auditStep
  extract_lets a bad
  refine ite_keeps h ?_
  split
  · refine ite_keeps h ?_
    have hfix : (bad.foldl auditFix s.fab).Cores P := foldl_keeps h fun _ _ h1 => cores_auditFix h1
    exact hfix
  · exact ite_keeps h (ite_keeps h (ite_keeps h h))

theorem cores_patrolOnce {s : State} {part kind addr : Nat} {go : State → State} (hs : s.Cores P) (hgo : ∀ s1, s1.Cores P → (go s1).Cores P) :
    (patrolOnce s part kind addr go).Cores P := by
  unfold patrolOnce
  exact ite_keeps hs (hgo _ hs)

theorem cores_patrolHbm {s : State} {pa found : Nat} (h : s.Cores P) : (patrolHbm s pa found).Cores P := by
  unfold patrolHbm
  extract_lets part
  split
  · exact h
  refine cores_patrolOnce h fun _ h1 => ?_
  extract_lets s2 m
  have hs2 : s2.Cores P := ite_keeps h1 h1
  split
  · exact hs2
  · exact cores_poisonPost hs2

theorem cores_patrolBank {s : State} {key word found : Nat} (h : s.Cores P) : (patrolBank s key word found).Cores P := by
  unfold patrolBank
  split
  · exact h
  split
  · exact h
  refine cores_patrolOnce h fun _ h1 => ?_
  split
  · exact h1
  split
  · exact h1
  · exact h1

theorem cores_patrolPlane {s : State} {key n found : Nat} (h : s.Cores P) : (patrolPlane s key n found).Cores P := by
  unfold patrolPlane
  dsimp only
  split
  · exact h
  split
  · exact h
  refine cores_patrolOnce h fun _ h1 => ?_
  split
  · exact h1
  · exact h1

theorem cores_execPatrolRead {kind addr found : Nat} {s : State} (h : s.Cores P) : OutCores P (execPatrolRead kind addr found s) := by
  unfold execPatrolRead
  split
  · exact cores_patrolHbm h
  · exact cores_patrolBank h
  · exact cores_patrolPlane h
  · exact h

/-! ### Resets, boot and bring-up (01 R39-R43, 23 R492-R505) -/

theorem cores_wipeCore {f : Fab} {c : Nat} (h : f.Cores P) : (wipeCore f c).Cores P := ⟨h.1, tabAll_tdel h.2⟩

theorem cores_cfgWritePart {s : State} {n : Nat} {v : Word} (h : s.Cores P) : (cfgWritePart s n v).Cores P := by
  unfold cfgWritePart
  dsimp only
  repeat' split
  all_goals exact h

theorem cores_execScrubComplete {part : Nat} {s : State} (h : s.Cores P) : OutCores P (execScrubComplete part s) := by
  unfold execScrubComplete
  split
  · exact h
  split
  · exact h
  · exact foldl_keeps (b := s.fab) h fun _ _ h1 => cores_wipeCore h1

theorem cores_partReset {s : State} {part cause : Nat} {abort : Bool} (h : s.Cores P) : (partReset s part cause abort).Cores P := by
  unfold partReset
  extract_lets p cores held s1 f f1 m m1
  have hs1 : s1.Cores P := foldl_keeps h fun _ _ h1 => foldl_keeps h1 fun _ _ h2 => cores_kwrDrop h2
  have hf : f.Cores P := foldl_keeps hs1 fun _ _ h1 => cores_wipeCore h1
  have hf1 : f1.Cores P := hf
  split
  · exact h
  · exact hf1

theorem cores_execPrstReq {part : Nat} {s : State} (h : s.Cores P) : OutCores P (execPrstReq part s) :=
  cores_partReset h

theorem cores_execPrstRel {part : Nat} {s : State} (h : s.Cores P) : OutCores P (execPrstRel part s) := by
  unfold execPrstRel
  dsimp only
  repeat' split
  all_goals exact h

theorem cores_execPartitionBootDone {part : Nat} {s : State} (h : s.Cores P) : OutCores P (execPartitionBootDone part s) := by
  unfold execPartitionBootDone
  dsimp only
  repeat' split
  all_goals exact h

theorem cores_coldState {s : State} {on : Bool} (h : s.Cores P) : (coldState s on).Cores P := ⟨h.1, tabAll_nil⟩

theorem cores_bringUp {s : State} (h : s.Cores P) : (bringUp s).Cores P := by
  unfold bringUp
  repeat' split
  all_goals exact h

theorem cores_execPowerUp {s : State} (h : s.Cores P) : OutCores P (execPowerUp s) := by
  unfold execPowerUp
  split
  · exact cores_bringUp h
  · exact cores_coldState h

theorem cores_deviceReset {s : State} (h : s.Cores P) : (deviceReset s).Cores P :=
  cores_coldState (on := true) h

theorem cores_execPowerClockFault {s : State} (h : s.Cores P) : OutCores P (execPowerClockFault s) := by
  unfold execPowerClockFault
  split
  · exact h
  · exact ⟨h.1, tabAll_nil⟩

/-! ### Mailbox commands (23 R496-R502) -/

theorem cores_mbRun {s : State} {pf : Nat} {c : MbCmd} {body : Part → State} (hs : s.Cores P) (hbody : ∀ p, (body p).Cores P) :
    OutCores P (mbRun s pf c body) := by
  unfold mbRun
  dsimp only
  split
  · exact hs
  split
  · exact hbody _
  · exact hs

theorem cores_execGetinfo {pf : Nat} {s : State} (h : s.Cores P) : OutCores P (execGetinfo pf s) :=
  cores_mbRun h fun _ => h

theorem cores_execGetfail {pf : Nat} {s : State} (h : s.Cores P) : OutCores P (execGetfail pf s) :=
  cores_mbRun h fun _ => h

theorem cores_forceParts {s : State} {n : Nat} {v : Word} (h : s.Cores P) : (forceParts s n v).Cores P :=
  foldl_keeps (foldl_keeps h fun _ _ h1 => cores_partReset h1) fun _ _ h1 => h1

theorem cores_execPartset {pf : Nat} {s : State} (h : s.Cores P) : OutCores P (execPartset pf s) := by
  unfold execPartset
  refine cores_mbRun h fun _ => ?_
  dsimp only
  split
  · exact h
  split
  · exact h
  refine (cores_cfgWritePart ?_)
  split
  · exact cores_forceParts h
  · exact h

theorem cores_execSpineset {pf : Nat} {s : State} (h : s.Cores P) : OutCores P (execSpineset pf s) := by
  unfold execSpineset
  refine cores_mbRun h fun _ => ?_
  dsimp only
  split
  · exact h
  refine ?_
  split
  · exact h
  · exact h

theorem cores_execFwstage {pf : Nat} {s : State} (h : s.Cores P) : OutCores P (execFwstage pf s) := by
  unfold execFwstage
  refine cores_mbRun h fun _ => ?_
  dsimp only
  split
  · exact Fab.Cores.of_ccs h rfl
  split
  · exact Fab.Cores.of_ccs h rfl
  split
  · exact Fab.Cores.of_ccs h rfl
  · exact Fab.Cores.of_ccs h rfl

theorem cores_execSvnlock {pf : Nat} {s : State} (h : s.Cores P) : OutCores P (execSvnlock pf s) := by
  unfold execSvnlock
  refine cores_mbRun h fun _ => ?_
  dsimp only
  split
  · exact h
  split
  · exact h
  · exact h

theorem cores_execOwnerkey {pf : Nat} {s : State} (h : s.Cores P) : OutCores P (execOwnerkey pf s) := by
  unfold execOwnerkey
  refine cores_mbRun h fun _ => ?_
  dsimp only
  split
  · exact h
  split
  · exact h
  · exact h

theorem cores_execAttest {pf : Nat} {s : State} (h : s.Cores P) : OutCores P (execAttest pf s) :=
  cores_mbRun h fun _ => h

theorem cores_execDevreset {pf : Nat} {s : State} (h : s.Cores P) : OutCores P (execDevreset pf s) :=
  cores_mbRun h fun _ => cores_deviceReset h

theorem cores_execMailboxUnknownOp {pf : Nat} {s : State} (h : s.Cores P) : OutCores P (execMailboxUnknownOp pf s) := by
  unfold execMailboxUnknownOp
  dsimp only
  repeat' split
  all_goals exact h

/-! ### The MMIO registers (01 R21-R28, 14 R383-R387) -/

theorem cores_refuse {s : State} {req : Requester} {cause : Nat} (h : s.Cores P) : (refuse s req cause).Cores P := by
  unfold refuse
  split <;> exact h

theorem cores_execLqdbWrite {part fn q : Nat} {tail : BitVec 32} {s : State} (h : s.Cores P) : OutCores P (execLqdbWrite part fn q tail s) := by
  unfold execLqdbWrite
  dsimp only
  repeat' split
  all_goals exact h

theorem cores_execLqerrClear {part fn q : Nat} {s : State} (h : s.Cores P) : OutCores P (execLqerrClear part fn q s) := by
  unfold execLqerrClear
  dsimp only
  repeat' split
  all_goals exact h

theorem cores_execEvdbWrite {part fn e : Nat} {v : BitVec 64} {s : State} (h : s.Cores P) : OutCores P (execEvdbWrite part fn e v s) := by
  unfold execEvdbWrite
  split <;> exact h

theorem cores_xinvCmd {part : Nat} {v : Word} {s : State} (h : s.Cores P) : OutCores P (xinvCmd part v s) := by
  unfold xinvCmd
  dsimp only
  split
  · exact h
  · split <;> exact h

theorem cores_rcmd {part page : Nat} {v : Word} {s : State} {body : Nat → Region → State} (hs : s.Cores P) (hbody : ∀ x x1, (body x x1).Cores P) :
    OutCores P (rcmd part page v s body) := by
  unfold rcmd
  split
  · exact hs
  split
  · exact hs
  split
  · exact hs
  · exact hbody _ _

theorem cores_execRcmdResume {part page : Nat} {v : BitVec 64} {s : State} (h : s.Cores P) : OutCores P (execRcmdResume part page v s) := by
  unfold execRcmdResume
  refine cores_rcmd h fun _ _ => ?_
  split
  · split
    · exact h
    exact ite_keeps (P := Fab.Cores P) h h
  split
  · exact h
  · exact cores_restartPair (cores_setPhase h)

theorem cores_abortDrop {s : State} {r : Region} (h : s.Cores P) : (abortDrop s r).Cores P := by
  unfold abortDrop
  extract_lets cores s1 f lds
  have hs1 : s1.Cores P := cores_dropOwed h
  have hf : f.Cores P := foldl_keeps hs1 fun _ _ h1 => cores_modCc_same h1 fun _ => ⟨rfl, rfl, rfl⟩
  exact foldl_keeps hf fun _ _ h1 => cores_planesEmpty h1

theorem cores_abortRegion {s : State} {rid : Nat} (h : s.Cores P) : (abortRegion s rid).Cores P := by
  unfold abortRegion
  extract_lets s1
  have hs1 : s1.Cores P := cores_driftsOut h
  split
  · exact hs1
  extract_lets live own second s2 f f1
  have hs2 : s2.Cores P := ite_keeps hs1 (foldl_keeps hs1 fun _ _ h1 => cores_retireEvent h1)
  have hf : f.Cores P := foldl_keeps hs2 fun _ _ h1 => cores_discardCtx h1
  have hf1 : f1.Cores P := foldl_keeps hf fun _ _ h1 => ite_keeps (cores_unbindPlane (cores_flushCtx h1)) h1
  exact cores_freeRegion (cores_abortDrop hf1)

theorem cores_abortDrift {s : State} {did : Nat} {d : Region} (h : s.Cores P) : (abortDrift s did d).Cores P := by
  unfold abortDrift
  split
  · exact h
  refine (cores_driftLeaves (foldl_keeps (cores_unbindPlane (cores_flushCtx ?_)) fun _ _ h1 => cores_planesEmpty h1))
  split
  · exact cores_discardCtx (cores_retireEvent h)
  · exact cores_retireEvent h

theorem cores_execRcmdAbort {part page : Nat} {v : BitVec 64} {s : State} (h : s.Cores P) : OutCores P (execRcmdAbort part page v s) := by
  unfold execRcmdAbort
  refine cores_rcmd h fun _ _ => ?_
  split
  · exact cores_abortDrift h
  · exact foldl_keeps h fun _ _ h1 => cores_abortRegion h1

theorem cores_execRcmdPurge {part page : Nat} {v : BitVec 64} {s : State} (h : s.Cores P) : OutCores P (execRcmdPurge part page v s) := by
  unfold execRcmdPurge
  refine cores_rcmd h fun _ _ => ?_
  dsimp only
  split
  · exact h
  · refine foldl_keeps (P := State.Cores P) ?_ fun _ _ h1 => cores_retireCtx h1
    exact foldl_keeps (b := s.fab) h fun _ _ h1 => cores_modCc_same h1 fun _ => ⟨rfl, rfl, rfl⟩

theorem cores_execRcmdSave {part page : Nat} {v : BitVec 64} {s : State} (h : s.Cores P) : OutCores P (execRcmdSave part page v s) := by
  unfold execRcmdSave
  split
  · exact h
  refine cores_rcmd h fun _ _ => ?_
  extract_lets n f
  have hf : f.Cores P := h
  split
  · exact h
  split
  · exact cores_driftSaveAs h
  · exact hf

theorem cores_execRcmdRefusedOp {part page : Nat} {_v : BitVec 64} {s : State} (h : s.Cores P) : OutCores P (execRcmdRefusedOp part page _v s) := by
  unfold execRcmdRefusedOp
  split <;> exact h

theorem cores_rcmdWrite {part page : Nat} {v : Word} {s : State} (h : s.Cores P) : OutCores P (rcmdWrite part page v s) := by
  unfold rcmdWrite
  split
  · exact cores_execRcmdResume h
  · exact cores_execRcmdAbort h
  · exact cores_execRcmdPurge h
  · exact cores_execRcmdSave h
  · exact cores_execRcmdRefusedOp h

theorem cores_execPlcmdWrite {part : Nat} {v : BitVec 64} {s : State} (h : s.Cores P) : OutCores P (execPlcmdWrite part v s) := by
  unfold execPlcmdWrite
  dsimp only
  split
  · exact h
  split
  · exact h
  split
  · exact h
  split
  · exact h
  · exact cores_openLoad h

theorem cores_execConfigSpaceWrite {req : Requester} {core addr : Nat} {v : BitVec 256} {s : State} (h : s.Cores CC.ZeroRegister) :
    OutCores CC.ZeroRegister (execConfigSpaceWrite req core addr v s) := by
  unfold execConfigSpaceWrite
  split
  · refine ite_keeps (cores_refuse h) ?_
    split
    next f hf => exact (cores_cfgWrite h).get hf
    · exact cores_refuse h
  · exact h
  · exact h
  · exact cores_refuse h

theorem cores_resumeCore {f : Fab} {core : Nat} (h : f.Cores P) : (resumeCore f core).Cores P :=
  cores_modCc_same h fun _ => sameRegs_ite ⟨rfl, rfl, rfl⟩ ⟨rfl, rfl, rfl⟩

theorem cores_execCoreWindowCsrWrite {req : Requester} {core csr : Nat} {v : BitVec 64} {s : State} (h : s.Cores P) :
    OutCores P (execCoreWindowCsrWrite req core csr v s) := by
  unfold execCoreWindowCsrWrite
  split
  · extract_lets c f
    have hf : f.Cores P := ite_keeps (ite_keeps (cores_resumeCore h) h) (cores_modCc_same h fun _ => sameRegs_csrPut _ _ _)
    exact ite_keeps (cores_refuse h) hf
  · exact h
  · exact h
  · exact cores_refuse h

theorem cores_pageWrite {s : State} {part f o : Nat} {vf : Bool} {w x : Word} {lo hi : Bool} (h : s.Cores P) :
    OutCores P (pageWrite s part f o vf w x lo hi) := by
  unfold pageWrite
  split
  · exact h
  split
  · split
    · exact cores_execLqdbWrite h
    · exact h
  split
  · split
    · exact cores_execLqerrClear h
    · exact h
  split
  · exact cores_execEvdbWrite h
  split
  · exact cores_rcmdWrite h
  split
  · exact cores_xinvCmd h
  split
  · exact h
  split
  · exact cores_execPlcmdWrite h
  · exact h

theorem cores_bootWrite {s : State} {part o : Nat} {w x : Word} (h : s.Cores P) : OutCores P (bootWrite s part o w x) := by
  unfold bootWrite
  split
  · split
    · exact cores_execPrstReq h
    split
    · exact cores_execPrstRel h
    · exact h
  split
  · exact h
  split
  · exact h
  · exact h

theorem cores_hubBlockWrite {s : State} {req : Requester} {o : Nat} {w : Word} (h : s.Cores P) : OutCores P (hubBlockWrite s req o w) := by
  unfold hubBlockWrite
  split
  · exact h
  split
  · exact cores_execDtfreqWrite h
  split
  · exact cores_execDtadjWrite h
  split
  · exact cores_execDtsetWrite h
  · exact h

theorem cores_windowWrite {s : State} {req : Requester} {n o off size : Nat} {v : Word} (h : s.Cores CC.ZeroRegister) :
    OutCores CC.ZeroRegister (windowWrite s req n o off size v) := by
  unfold windowWrite
  split
  · exact cores_execConfigSpaceWrite h
  split
  · exact cores_execCoreWindowCsrWrite h
  · exact h

theorem cores_execRegisterWrite {req : Requester} {off size : Nat} {v : BitVec 64} {s : State} (h : s.Cores CC.ZeroRegister) :
    OutCores CC.ZeroRegister (execRegisterWrite req off size v s) := by
  unfold execRegisterWrite
  dsimp only
  split
  · exact h
  · exact h
  · exact cores_refuse h
  · exact cores_refuse h
  · exact cores_refuse h
  split
  · exact cores_hubBlockWrite h
  · split
    · exact cores_pageWrite h
    split
    · exact cores_bootWrite h
    · exact h
  · exact cores_windowWrite h
  · exact h

/-! ### The SPDM responder (23 R503) -/

theorem cores_spdmReply {s : State} {pf : Nat} {st : Nat → Nat} {reply : List Byte} (h : s.Cores P) : OutCores P (spdmReply s pf st reply) := by
  unfold spdmReply
  repeat' split
  all_goals exact h

theorem cores_execNegotiateAlgorithms {pf algs : Nat} {s : State} (h : s.Cores P) : OutCores P (execNegotiateAlgorithms pf algs s) := by
  unfold execNegotiateAlgorithms
  split <;> exact cores_spdmReply h

theorem cores_execGetMeasurements {pf index : Nat} {nonce : BitVec 256} {s : State} (h : s.Cores P) :
    OutCores P (execGetMeasurements pf index nonce s) := by
  unfold execGetMeasurements
  split <;> exact cores_spdmReply h

/-! ### The next tile cycle (log 2) -/

theorem cores_idleTick {f : Fab} {key : Nat} (h : f.Cores P) : (idleTick f key).Cores P := by
  unfold idleTick
  repeat' split
  all_goals exact h

theorem cores_auditTick {s : State} {key : Nat} (h : s.Cores P) : (auditTick s key).Cores P := by
  unfold auditTick
  dsimp only
  split
  · exact h
  split
  · exact cores_auditStep h
  · exact h

theorem cores_tileCycle {s : State} {key : Nat} (h : s.Cores P) : (tileCycle s key).Cores P := by
  unfold tileCycle
  extract_lets s1 f
  have hs1 : s1.Cores P := cores_auditTick h
  have hf : f.Cores P := cores_tileTick (cores_chainTick (cores_memTick hs1))
  split
  · exact hs1
  split
  · exact cores_tileTick (cores_chainTick (cores_computeTick hs1))
  · exact hf
  · exact cores_agTick hs1
  · exact cores_idleTick hs1
  · exact hs1

/-! ### Every instruction and event -/

/-- The firing of a slot keeps every property of the cores. -/
theorem cores_execSlot {i : Instr} {n : Nat} {s : State} (hi : encodeSlot i = some n) (h : s.Cores P) : OutCores P (exec i s) := by
  have hmoves : OutMoves s (exec i s) := exec_slot_moves hi
  cases hout : exec i s with
  | next t =>
    rw [hout] at hmoves
    obtain ⟨g, rfl, hg⟩ := hmoves
    exact cores_moves hg h
  | fault _ => exact trivial
  | refused _ => exact trivial

/-- Every event keeps the property. -/
theorem cores_execEvent {i : Instr} {s : State} (hi : ((encodeWord i).isNone && (encodeSlot i).isNone) = true) (h : s.Cores CC.ZeroRegister) :
    OutCores CC.ZeroRegister (exec i s) := by
  cases i <;> dsimp only [exec]
  case bucketRefill => exact cores_execBucketRefill h
  case leaseExpiry => exact cores_execLeaseExpiry h
  case swapCheck => exact cores_execSwapCheck h
  case swapTick => exact cores_execSwapTick h
  case notbeforeReached => exact cores_execNotbeforeReached h
  case quotaWindowClear => exact cores_execQuotaWindowClear h
  case eventTrap => exact cores_execEventTrap h
  case timerEvent => exact cores_execTimerEvent h
  case registerFill => exact cores_execRegisterFill h
  case sinkArrival => exact cores_execSinkArrival h
  case vinPortEmit => exact cores_execVinPortEmit h
  case sectionRetire => exact cores_execSectionRetire h
  case domainSequence => exact cores_execDomainSequence h
  case bankAccept => exact cores_execBankAccept h
  case bounceArrival => exact cores_execBounceArrival h
  case creditSend => exact cores_execCreditSend h
  case creditArrival => exact cores_execCreditArrival h
  case tokenArrival => exact cores_execTokenArrival h
  case switchRoute => exact cores_execSwitchRoute h
  case permitReturn => exact cores_execPermitReturn h
  case burstHeaderArrival => exact cores_execBurstHeaderArrival h
  case streamAccess => exact cores_execStreamAccess h
  case streamReadReturn => exact cores_execStreamReadReturn h
  case walk => exact cores_execWalk h
  case refillReturn => exact cores_execRefillReturn h
  case invalidationComplete => exact cores_execInvalidationComplete h
  case earlyEdgeRequest => exact cores_execEarlyEdgeRequest h
  case roundEntry => exact cores_execRoundEntry h
  case endMark => exact cores_execEndMark h
  case nonedgeSignal => exact cores_execNonedgeSignal h
  case roundCommit => exact cores_execRoundCommit h
  case roundDiscard => exact cores_execRoundDiscard h
  case gateSignalArrival => exact cores_execGateSignalArrival h
  case replay => exact cores_execReplay h
  case timingError => exact cores_execTimingError h
  case breakpointStop => exact cores_execBreakpointStop h
  case quiesceDetect => exact cores_execQuiesceDetect h
  case retirementSweep => exact cores_execRetirementSweep h
  case launchFetch => exact cores_execLaunchFetch h
  case schedulerDecision => exact cores_execSchedulerDecision h
  case batchPromotion => exact cores_execBatchPromotion h
  case planeLoadFrame => exact cores_execPlaneLoadFrame h
  case startTokenArrival => exact cores_execStartTokenArrival h
  case revokeArrival => exact cores_execRevokeArrival h
  case relendArrival => exact cores_execRelendArrival h
  case lendWithdraw => exact cores_execLendWithdraw h
  case distributorSend => exact cores_execDistributorSend h
  case stageSample => exact cores_execStageSample h
  case preemption => exact cores_execPreemption h
  case restoreSavedLaunch => exact cores_execRestoreSavedLaunch h
  case scrubComplete => exact cores_execScrubComplete h
  case auditVisit => exact cores_auditStep h
  case patrolRead => exact cores_execPatrolRead h
  case spineStep => exact cores_execSpineStep h
  case droopStretch => exact cores_execDroopStretch h
  case leaseRevoke => exact cores_execLeaseRevoke h
  case partset => exact cores_execPartset h
  case getinfo => exact cores_execGetinfo h
  case getfail => exact cores_execGetfail h
  case spineset => exact cores_execSpineset h
  case fwstage => exact cores_execFwstage h
  case svnlock => exact cores_execSvnlock h
  case ownerkey => exact cores_execOwnerkey h
  case attest => exact cores_execAttest h
  case devreset => exact cores_execDevreset h
  case mailboxUnknownOp => exact cores_execMailboxUnknownOp h
  case prstReq => exact cores_execPrstReq h
  case prstRel => exact cores_execPrstRel h
  case watchdogExpiry => exact cores_partReset h
  case partitionBootDone => exact cores_execPartitionBootDone h
  case powerUp => exact cores_execPowerUp h
  case powerClockFault => exact cores_execPowerClockFault h
  case xinvCmdVa | xinvCmdFn | xinvCmdPart | xinvCmdReserved => exact cores_xinvCmd h
  case lqdbWrite => exact cores_execLqdbWrite h
  case lqerrClear => exact cores_execLqerrClear h
  case evdbWrite => exact cores_execEvdbWrite h
  case rcmdResume => exact cores_execRcmdResume h
  case rcmdAbort => exact cores_execRcmdAbort h
  case rcmdPurge => exact cores_execRcmdPurge h
  case rcmdSave => exact cores_execRcmdSave h
  case rcmdRefusedOp => exact cores_execRcmdRefusedOp h
  case plcmdWrite => exact cores_execPlcmdWrite h
  case configSpaceWrite => exact cores_execConfigSpaceWrite h
  case coreWindowCsrWrite | ccstatResume => exact cores_execCoreWindowCsrWrite h
  case dtsetWrite => exact cores_execDtsetWrite h
  case dtadjWrite => exact cores_execDtadjWrite h
  case dtfreqWrite => exact cores_execDtfreqWrite h
  case ppsinEdge => exact h
  case registerWrite => exact cores_execRegisterWrite h
  case cxlMemRead => exact cores_hostRead h
  case cxlMemWrite => exact cores_hostWrite h
  case peerInboundAccess => exact cores_execPeerInboundAccess h
  case backInvalidate => exact cores_execBackInvalidate h
  case getVersion | getCapabilities | getDigests | getCertificate | challenge => exact cores_spdmReply h
  case negotiateAlgorithms => exact cores_execNegotiateAlgorithms h
  case getMeasurements => exact cores_execGetMeasurements h
  case deviceTimePeriod => exact cores_execDeviceTimePeriod h
  case ppscapRead => exact cores_execPpscapRead h
  case vfEnableWrite => exact cores_execVfEnableWrite h
  case hdmDecoderCommit => exact cores_execHdmDecoderCommit h
  case powerDown => exact cores_coldState h
  all_goals exact nomatch hi

/-- Core instructions have words, slot operations slot words, and the others are events. -/
theorem cores_exec {i : Instr} {s : State} (h : s.Cores CC.ZeroRegister) : OutCores CC.ZeroRegister (exec i s) := by
  cases hw : encodeWord i with
  | some n => exact cores_execWord hw h
  | none =>
    cases hs : encodeSlot i with
    | some n => exact cores_execSlot hs h
    | none => exact cores_execEvent (by rw [hw, hs]; rfl) h

/-! ### Errors in stored words (21 R470-R473) -/

theorem cores_sramCorrected {s : State} {core : Nat} (h : s.Cores P) : (sramCorrected s core).Cores P := by
  unfold sramCorrected
  split <;> exact h

theorem cores_upset {at_ : UpsetAt} {found bit : Nat} {s : State} (h : s.Cores P) : (upset at_ found bit s).Cores P := by
  unfold upset
  split
  · split
    · exact h
    split
    · exact cores_sramCorrected h
    · exact h
  split
  · split
    · exact cores_sramCorrected h
    split
    · exact cores_modCc_same h fun _ => ⟨rfl, rfl, rfl⟩
    · exact h
  · dsimp only
    split
    · exact h
    split
    · exact h
    split
    · exact h
    · exact h
  · split
    · exact h
    split
    · exact h
    · exact h
  split
  · exact h
  · exact h

/-! ### What an action does (01 R33, 14 R401) -/

theorem cores_issueAct {key : Nat} {cls : IssueClass} {s : State} (h : s.Cores CC.ZeroRegister) : OutCores CC.ZeroRegister (issueAct key cls s) := by
  unfold issueAct
  split
  · exact cores_execBreakpointStop h
  · exact h
  dsimp only
  split
  · exact cores_exec h
  · exact h

theorem cores_charged {s : State} {a : Action} (h : s.Cores P) : (charged s a).Cores P :=
  h

theorem cores_act {a : Action} {s : State} (h : s.Cores CC.ZeroRegister) : OutCores CC.ZeroRegister (act a s) := by
  unfold act
  split
  · exact cores_coreAct h
  · exact cores_issueAct h
  · split
    · exact cores_exec h
    · exact h
  · split
    · exact cores_exec h
    · exact h
  · exact cores_tileCycle h
  · exact cores_upset h

theorem cores_takeAction {s : State} (h : s.Cores P) : (takeAction s).2.Cores P := by
  unfold takeAction
  split <;> exact h

/-! ### A step (log 1) -/

theorem cores_step {s : State} (h : s.Cores CC.ZeroRegister) : OutCores CC.ZeroRegister (step s) := by
  unfold step
  dsimp only
  split
  · exact cores_act (cores_charged (cores_takeAction h))
  · exact cores_takeAction h

/-! ### The invariants of the registers -/

/-- A turn of a core and the fill of a register keep every property of the registers, whether the supply is on or not. -/
theorem cores_step_of_agenda {s : State} {n i : Nat} {rest : List Action}
    (hagenda : s.agenda = .core n :: rest ∨ s.agenda = .event (.registerFill i) :: rest) (h : s.Cores P) : OutCores P (step s) := by
  have hstep : ∃ a, (a = .core n ∨ a = .event (.registerFill i)) ∧ takeAction s = (a, { s with agenda := rest }) := by
    rcases hagenda with ha | ha
    · exact ⟨_, .inl rfl, by rw [takeAction, ha]⟩
    · exact ⟨_, .inr rfl, by rw [takeAction, ha]⟩
  obtain ⟨a, ha, htake⟩ := hstep
  rw [step, htake]
  refine ite_keeps ?_ h
  rcases ha with rfl | rfl
  · exact cores_coreAct (cores_charged h)
  · dsimp only
    rw [act_event (i := .registerFill i) (fun _ _ _ _ => nofun) rfl]
    exact cores_execRegisterFill (cores_charged h)

/-- Settles O60: each property of a core's registers is kept by the register operations, and the step changes registers only through these, but
for a restore, which leaves x0 alone. -/
theorem coreRegistersHold : Obligations.CoreRegistersHold := by
  refine ⟨fun s t h hstep => ?_, fun s t n i rest hagenda h hstep => ?_⟩
  · have hcores : OutCores CC.ZeroRegister (step s) := cores_step ((zeroRegisterHolds_iff s).mp h)
    rw [hstep] at hcores
    exact (zeroRegisterHolds_iff t).mpr hcores
  · have hcores : OutCores CC.OwedEmpty (step s) := cores_step_of_agenda hagenda ((owedAreEmpty_iff s).mp h)
    rw [hstep] at hcores
    exact (owedAreEmpty_iff t).mpr hcores

end Sys2Proof.Machine
end

section
/-! SUPPORT. Results of the integer, shift, branch and jump instructions, and the words that no row assigns (08 R212, 09 R253-R260). -/

namespace Sys2Proof.Machine

/-! ### Values -/

theorem ofBool64_decide (p : Prop) [Decidable p] : ofBool64 (decide p) = if p then 1 else 0 := by
  simp [ofBool64]

theorem slt_eq_if (x y : Word) : ofBool64 (x.slt y) = if x.toInt < y.toInt then 1 else 0 := by
  rw [BitVec.slt_eq_decide, ofBool64_decide]

theorem ult_eq_if (x y : Word) : ofBool64 (x.ult y) = if x.toNat < y.toNat then 1 else 0 := by
  rw [BitVec.ult_eq_decide, ofBool64_decide]

theorem not_slt_eq_decide (x y : Word) : (!x.slt y) = decide (y.toInt ≤ x.toInt) := by
  rw [BitVec.slt_eq_decide, ← decide_not, decide_eq_decide, not_lt]

theorem not_ult_eq_decide (x y : Word) : (!x.ult y) = decide (y.toNat ≤ x.toNat) := by
  rw [BitVec.ult_eq_decide, ← decide_not, decide_eq_decide, not_lt]

theorem smin_eq (x y : Word) : (if x.slt y then x else y) = BitVec.ofInt 64 (min x.toInt y.toInt) := by
  rw [BitVec.slt_eq_decide]
  rcases lt_or_ge x.toInt y.toInt with h | h
  · simp [h, min_eq_left h.le, BitVec.ofInt_toInt]
  · simp [not_lt.mpr h, min_eq_right h, BitVec.ofInt_toInt]

theorem smax_eq (x y : Word) : (if x.slt y then y else x) = BitVec.ofInt 64 (max x.toInt y.toInt) := by
  rw [BitVec.slt_eq_decide]
  rcases lt_or_ge x.toInt y.toInt with h | h
  · simp [h, max_eq_right h.le, BitVec.ofInt_toInt]
  · simp [not_lt.mpr h, max_eq_left h, BitVec.ofInt_toInt]

theorem umin_eq (x y : Word) : (if x.ult y then x else y) = BitVec.ofNat 64 (min x.toNat y.toNat) := by
  rw [BitVec.ult_eq_decide]
  rcases lt_or_ge x.toNat y.toNat with h | h
  · simp [h, min_eq_left h.le]
  · simp [not_lt.mpr h, min_eq_right h]

theorem umax_eq (x y : Word) : (if x.ult y then y else x) = BitVec.ofNat 64 (max x.toNat y.toNat) := by
  rw [BitVec.ult_eq_decide]
  rcases lt_or_ge x.toNat y.toNat with h | h
  · simp [h, max_eq_right h.le]
  · simp [not_lt.mpr h, max_eq_left h]

theorem hiMul_natCast (x y : Nat) : hiMul x y = BitVec.ofNat 64 (x * y / 2 ^ 64) := by
  rw [hiMul, ← BitVec.ofInt_natCast]
  push_cast
  rfl

theorem setWidth_ofInt (i : Int) : (BitVec.ofInt 64 i).setWidth 16 = BitVec.ofInt 16 i := by
  apply BitVec.eq_of_toNat_eq
  simp only [BitVec.toNat_setWidth, BitVec.toNat_ofInt]
  omega

/-- A jump's displacement in bytes, modulo 2^16 (09 R259, R260). -/
theorem displacement_eq {n : Nat} (o : BitVec n) : 4 * (sx o).setWidth 16 = BitVec.ofInt 16 (4 * o.toInt) := by
  rw [BitVec.ofInt_mul, ← setWidth_ofInt o.toInt]
  rfl

theorem sext32_shiftLeft (x : Word) (n : Nat) : sext32 (x <<< n) = (x.setWidth 32 <<< n).signExtend 64 := by
  rw [sext32, BitVec.setWidth_shiftLeft_of_le (by decide)]

theorem luiValue_eq {n : Nat} (i : BitVec n) : sx i <<< 12 = BitVec.ofInt 64 (i.toInt * 4096) := by
  rw [BitVec.shiftLeft_eq_mul_twoPow, BitVec.ofInt_mul]
  rfl

theorem pcaddValue_eq {n : Nat} (pc : BitVec 16) (i : BitVec n) :
    (pc + 4 * (sx i).setWidth 16).setWidth 64 = BitVec.ofNat 64 (((pc.toNat : Int) + 4 * i.toInt) % 65536).toNat := by
  rw [displacement_eq]
  apply BitVec.eq_of_toNat_eq
  simp only [BitVec.toNat_setWidth, BitVec.toNat_add, BitVec.toNat_ofInt, BitVec.toNat_ofNat]
  omega

/-! ### Unassigned words -/

theorem decMajor0_unassigned {n : Nat} (h : 0x034 ≤ n % 512 ∨ n % 512 = 0x00E ∨ n % 512 = 0x00F ∨ (0x012 ≤ n % 512 ∧ n % 512 ≤ 0x014) ∨
    (0x018 ≤ n % 512 ∧ n % 512 ≤ 0x01F) ∨ (0x028 ≤ n % 512 ∧ n % 512 ≤ 0x02F)) : decMajor0 n = .illegalInstruction (BitVec.ofNat 32 n) := by
  unfold decMajor0
  split
  case h_32 => rfl
  all_goals omega

theorem decShift_unassigned {n : Nat} (h : 6 ≤ n / 4096 % 8) : decShift n = .illegalInstruction (BitVec.ofNat 32 n) := by
  unfold decShift
  split
  case h_7 => rfl
  all_goals omega

theorem decodeWord_reservedBranch {n : Nat} (h : n / 2 ^ 26 % 64 = 0x26 ∨ n / 2 ^ 26 % 64 = 0x27) :
    decodeWord n = .illegalInstruction (BitVec.ofNat 32 n) := by
  rcases h with h | h <;> simp only [decodeWord, h] <;> rfl

/-! ### The tier 1 claims -/

/-- Settles O4: the decoder evaluated on each word. -/
theorem specWordsDecode : Obligations.SpecWordsDecode := by
  unfold Obligations.SpecWordsDecode
  decide

/-- Settles O8: each form's general equation at its own result. -/
theorem immediateFormResults : Obligations.ImmediateFormResults := by
  refine ⟨fun s d a p i hfull howed => ?_, ⟨fun s d a p z n hfull howed => ?_, fun n hmajor hkind => ?_⟩, fun s d i howed => ?_⟩
  · have hslti : ofBool64 ((val s a).slt (sx i)) = if (val s a).toInt < i.toInt then 1 else 0 := by
      rw [slt_eq_if, sx, BitVec.toInt_signExtend_of_le (by decide)]
    dsimp only [exec]
    refine ⟨ccAlu1_next hfull howed, ccAlu1_next hfull howed, ccAlu1_next hfull howed, ccAlu1_next hfull howed, ?_, ?_⟩
    · rw [← hslti]
      exact ccAlu1_next hfull howed
    · rw [← ult_eq_if]
      exact ccAlu1_next hfull howed
  · dsimp only [exec]
    refine ⟨ccAlu1_next hfull howed, ccAlu1_next hfull howed, ccAlu1_next hfull howed, ?_, ccAlu1_next hfull howed, ccAlu1_next hfull howed⟩
    rw [← sext32_shiftLeft]
    exact ccAlu1_next hfull howed
  · rw [decodeWord_shift hmajor]
    exact decShift_unassigned hkind
  · dsimp only [exec]
    rw [← luiValue_eq, ← pcaddValue_eq]
    exact ⟨ccAlu0_next howed, ccAlu0_next howed⟩

/-- jalr once its source is full: the alignment of its target decides (09 R260). -/
theorem execJalr_full {s : State} {d a : BitVec 5} {p : BitVec 1} {i : BitVec 15} (h : allFull s [a]) :
    let t : BitVec 16 := (val s a + i.signExtend 64).setWidth 16
    execJalr d a p i s = ccFinish s (if t.toNat % 4 ≠ 0 then .trap 0 3 (t.setWidth 64)
      else toDest s (cc s) d.toNat { rset (cc s) d.toNat (((cc s).pc + 4).setWidth 64) with pc := t }) :=
  congrArg (ccFinish s) (srcCheck_one _ _ h)

/-- Settles O10: branches and jumps add four times their offset, modulo 2^16. -/
theorem branchAndJumpTargets : Obligations.BranchAndJumpTargets := by
  refine ⟨⟨fun s a b p q o hfull => ?_, fun n hmajor => ?_⟩, fun s d a p => ⟨fun o => ?_, fun i hfull => ?_⟩⟩
  · have hpc (t : Bool) : (if t then { cc s with pc := (cc s).pc + 4 * (sx o).setWidth 16 } else adv (cc s)) =
        { cc s with pc := if t then (cc s).pc + BitVec.ofInt 16 (4 * o.toInt) else (cc s).pc + 4 } := by
      rw [displacement_eq]
      cases t <;> rfl
    have hbranch (f : Word → Word → Bool) : ccBranch s a b p q o f = .next (after s { cc s with
        pc := if f (val s a) (val s b) then (cc s).pc + BitVec.ofInt 16 (4 * o.toInt) else (cc s).pc + 4 }) := by
      rw [ccBranch_next hfull, hpc]
    dsimp only [exec]
    refine ⟨hbranch _, ?_, ?_, ?_, ?_, ?_⟩
    · rw [decide_not]
      exact hbranch _
    · rw [← BitVec.slt_eq_decide]
      exact hbranch _
    · rw [← not_slt_eq_decide]
      exact hbranch _
    · rw [← BitVec.ult_eq_decide]
      exact hbranch _
    · rw [← not_ult_eq_decide]
      exact hbranch _
  · exact decodeWord_reservedBranch hmajor
  · rw [← displacement_eq]
    refine ⟨rfl, fun howed => ?_⟩
    dsimp only [exec, execJal]
    rw [toDest_free _ howed]
    rfl
  · dsimp only [exec]
    rw [execJalr_full hfull]
    refine ⟨fun haligned howed => ?_, fun hodd hta => ?_⟩
    · rw [if_neg (not_not_intro haligned), toDest_free _ howed]
      rfl
    · rw [if_pos hodd]
      exact ccFinish_trap _ _ _ hta

end Sys2Proof.Machine
end

section
/-! SUPPORT. How sources and destinations hold an instruction up (09 R249-R251, 10 R278). -/

namespace Sys2Proof.Machine

/-! ### Empty sources and owed destinations -/

/-- Sources with their marks, as the source check takes them. -/
def marked (l : List (BitVec 5 × BitVec 1)) : List (Nat × Bool) := l.map fun x => (x.1.toNat, wbit x.2)

theorem srcCheck_trap {c : CC} {l : List (BitVec 5 × BitVec 1)} {r : BitVec 5} (k : CRes)
    (h : l.find? (fun x => x.2 == 1 && !isFull c x.1.toNat) = some (r, 1)) : srcCheck c (marked l) k = .trap 0 2 (r.setWidth 64) := by
  have hfind : (marked l).find? (fun p => p.2 && !isFull c p.1) = some (r.toNat, true) := by
    rw [marked, List.find?_map]
    exact congrArg (Option.map _) h
  rw [srcCheck, hfind]
  simp

theorem srcCheck_wait {c : CC} {l : List (BitVec 5 × BitVec 1)} (k : CRes) (hmarked : ∀ x ∈ l, x.2 = 1 → isFull c x.1.toNat = true)
    (hempty : ∃ x ∈ l, isFull c x.1.toNat = false) : srcCheck c (marked l) k = .wait := by
  have hfind : (marked l).find? (fun p => p.2 && !isFull c p.1) = none := by
    rw [marked, List.find?_map, Option.map_eq_none_iff, List.find?_eq_none]
    intro x hx
    by_cases hmark : x.2 = 1
    · simp [hmarked x hx hmark]
    · have hw : wbit x.2 = false := beq_false_of_ne hmark
      simp [hw]
  have hany : (marked l).any (fun p => !isFull c p.1) = true := by
    obtain ⟨x, hx, hfull⟩ := hempty
    exact List.any_eq_true.mpr ⟨_, List.mem_map_of_mem hx, by simp [hfull]⟩
  rw [srcCheck, hfind]
  simp only [hany, if_true]

theorem toDest_owed {s : State} {c : CC} {d : Nat} (c' : CC) (h : isOwed c d = true) : toDest s c d c' = .wait := if_pos h

/-- An instruction that begins with the check of these sources. -/
def ReadsSources (s : State) (l : List (BitVec 5 × BitVec 1)) (o : Out) : Prop := ∃ k, o = ccFinish s (srcCheck (cc s) (marked l) k)

section
variable {s : State} {l : List (BitVec 5 × BitVec 1)} {o : Out}

theorem ReadsSources.trapped {r : BitVec 5} (h : ReadsSources s l o) (hta : ccTa (cc s) = false)
    (hempty : l.find? (fun x => x.2 == 1 && !isFull (cc s) x.1.toNat) = some (r, 1)) : o = .next (trapped s 0 2 (r.setWidth 64)) := by
  obtain ⟨k, rfl⟩ := h
  rw [srcCheck_trap k hempty, ccFinish_trap _ _ _ hta]

theorem ReadsSources.wait (h : ReadsSources s l o) (hmarked : ∀ x ∈ l, x.2 = 1 → isFull (cc s) x.1.toNat = true)
    (hempty : ∃ x ∈ l, isFull (cc s) x.1.toNat = false) : o = .next (ccWait s) := by
  obtain ⟨k, rfl⟩ := h
  rw [srcCheck_wait k hmarked hempty]
  rfl

end

/-- A command whose reply and state checks pass comes to its descriptor (10 R278). -/
theorem readsSources_ccCmd {s : State} {word : Word} {reg : Nat} {req bad w : Bool} {a : BitVec 5} {p : BitVec 1} {body : Word → CRes}
    (hreq : (req && reg == 0) = false) (hbad : bad = false) :
    ReadsSources s [(a, p)] (ccCmd s word reg req bad (some (a.toNat, wbit p)) w body) := by
  rw [ccCmd, hreq, hbad]
  exact ⟨_, rfl⟩

theorem guardedPriv_eq_false {c : CC} (h : ccSupok c = true → ccMode c = true) : guardedPriv c = false := by
  unfold guardedPriv
  cases hs : ccSupok c with
  | false => rfl
  | true => rw [h hs]; rfl

/-- What a CSR instruction writes: operation 1 the source, 2 its bits set, 3 its bits cleared (09 R263). -/
def csrNew (op : Nat) (old x : Word) : Word :=
  match op with
  | 1 => x
  | 2 => old ||| x
  | _ => old &&& ~~~x

/-- The present core after a CSR instruction has written its CSR (09 R263). -/
def csrWritten (s : State) (op : Nat) (a : BitVec 5) (n : BitVec 12) : CC :=
  if op == 1 || a != 0 then csrPut (cc s) n.toNat (csrNew op (csrGet s s.site.core n.toNat 0) (val s a)) else cc s

/-- A CSR instruction whose number, write and mode pass comes to its source (09 R252, R264). -/
theorem ccCsr_passes {s : State} {op : Nat} {d a : BitVec 5} {p : BitVec 1} {n : BitVec 12} (h : csrPasses s op a n) :
    ccCsr s op d a p n = ccFinish s (srcCheck (cc s) [(a.toNat, wbit p)]
      (toDest s (cc s) d.toNat (adv (rset (csrWritten s op a n) d.toNat (csrGet s s.site.core n.toNat 0))))) := by
  obtain ⟨hnumber, hwrite, hmode⟩ := h
  have h1 : (!csrGuarded n.toNat && !csrRo n.toNat) = false := by
    rcases hnumber with h | h <;> simp [h]
  have h2 : ((op == 1 || a != 0) && (csrRo n.toNat || (n == 0x010 && op != 3))) = false := by
    by_cases hw : op = 1 ∨ a ≠ 0
    · obtain ⟨hro, hev⟩ := hwrite hw
      rw [hro]
      by_cases hn : n = 0x010
      · simp [hev hn]
      · have hne : (n == 0x010) = false := beq_false_of_ne hn
        rw [hne, Bool.false_and, Bool.or_false, Bool.and_false]
    · rw [not_or, not_not] at hw
      simp [hw.1, hw.2]
  have h3 : (csrGuarded n.toNat && guardedPriv (cc s)) = false := by
    cases hg : csrGuarded n.toNat with
    | false => rfl
    | true => exact guardedPriv_eq_false (hmode hg)
  simp only [ccCsr, h1, h2, h3, Bool.false_eq_true, if_false]
  rfl

theorem readsSources_ccCsr {s : State} {op : Nat} {d a : BitVec 5} {p : BitVec 1} {n : BitVec 12} (h : csrPasses s op a n) :
    ReadsSources s [(a, p)] (ccCsr s op d a p n) := ⟨_, ccCsr_passes h⟩

theorem reply_ne_zero {r : BitVec 5} (h : r ≠ 0) : (true && r.toNat == 0) = false := by
  rw [Bool.true_and, beq_eq_false_iff_ne]
  exact fun h0 => h (BitVec.eq_of_toNat_eq h0)

theorem supervisor_passes {c : CC} (h : ccMode c = true) : ¬(!ccMode c) = true := by simp [h]

theorem readsSources_ccAmo {s : State} {op : Nat} {r a : BitVec 5} {p : BitVec 1} {n : BitVec 4} : ReadsSources s [(a, p)] (ccAmo s op r a p n) := by
  dsimp only [ccAmo]
  exact readsSources_ccCmd rfl rfl

theorem readsSources_ccDrift {s : State} {kind cmd : Nat} {r a : BitVec 5} {p : BitVec 1} : ReadsSources s [(a, p)] (ccDrift s kind cmd r a p) := by
  dsimp only [ccDrift]
  exact readsSources_ccCmd rfl rfl

theorem readsSources_ccXinv {s : State} {kind cmd : Nat} {a : BitVec 5} {p : BitVec 1} (h : ccMode (cc s) = true) :
    ReadsSources s [(a, p)] (ccXinv s kind cmd a p) := by
  rw [ccXinv, if_neg (supervisor_passes h)]
  exact readsSources_ccCmd rfl rfl

/-- Every instruction with value sources comes to their check once what stands before it passes (09 R249). -/
theorem readsSources_exec {s : State} {i : Instr} {l : List (BitVec 5 × BitVec 1)} (hl : coreSources i = some l) (hdue : sourcesDue s i) :
    ReadsSources s l (exec i s) := by
  cases i <;> dsimp only [exec]
  case add | sub | and | or | xor | sll | srl | sra | slt | sltu | min | max | minu | maxu | addw | subw | sllw | srlw | sraw | mul | mulh
      | mulhu | mulhsu | div | divu | rem | remu | clz | ctz | popc | bswap | addi | andi | ori | xori | slti | sltiu | slli | srli | srai | slliw
      | srliw | sraiw | feWait | feTake | feAny | lb | lh | lw | ld | lbu | lhu | lwu | sb | sh | sw | sd | beq | bne | blt | bge | bltu | bgeu
      | jalr =>
    obtain rfl := Option.some.inj hl
    exact ⟨_, rfl⟩
  case csrrw | csrrs | csrrc =>
    obtain rfl := Option.some.inj hl
    exact readsSources_ccCsr hdue
  case accrst | rmark | copy | aflush | swap | launch =>
    obtain rfl := Option.some.inj hl
    dsimp only [execAccrst, execRmark, execCopy, execAflush, execSwap, execLaunch]
    exact readsSources_ccCmd rfl rfl
  case amoAddCmd | amoMinCmd | amoMaxCmd | amoAndCmd | amoOrCmd | amoXorCmd | amoXchgCmd | amoCasCmd =>
    obtain rfl := Option.some.inj hl
    exact readsSources_ccAmo
  case revoke | relend =>
    obtain rfl := Option.some.inj hl
    exact readsSources_ccDrift
  case inject =>
    obtain rfl := Option.some.inj hl
    dsimp only [execInject]
    exact readsSources_ccCmd rfl (Option.isNone_eq_false_iff.mpr hdue)
  case vbind =>
    obtain rfl := Option.some.inj hl
    dsimp only [execVbind]
    exact readsSources_ccCmd rfl (Option.isSome_eq_false_iff.mpr (Option.isNone_iff_eq_none.mpr hdue))
  case wcommit | sbind | lease =>
    obtain rfl := Option.some.inj hl
    dsimp only [execWcommit, execSbind, execLease]
    exact readsSources_ccCmd (reply_ne_zero hdue) rfl
  case kwr =>
    obtain rfl := Option.some.inj hl
    rw [execKwr, if_neg (supervisor_passes hdue)]
    exact readsSources_ccCmd rfl rfl
  case xinvVa | xinvFn | xinvPart =>
    obtain rfl := Option.some.inj hl
    exact readsSources_ccXinv hdue
  all_goals exact nomatch hl

/-! ### Owed destinations -/

section
variable {s : State} {d a : BitVec 5} {p : BitVec 1}

theorem ccAlu_owed {b : BitVec 5} {q : BitVec 1} {f : Word → Word → Word} (h : allFull s [a, b]) (hd : isOwed (cc s) d.toNat = true) :
    ccAlu s d a b p q f = .next (ccWait s) := by
  simp only [ccAlu]
  rw [srcCheck_two _ _ _ h, toDest_owed _ hd]
  rfl

theorem ccAlu1_owed {f : Word → Word} (h : allFull s [a]) (hd : isOwed (cc s) d.toNat = true) : ccAlu1 s d a p f = .next (ccWait s) := by
  simp only [ccAlu1]
  rw [srcCheck_one _ _ h, toDest_owed _ hd]
  rfl

theorem ccFinish_toDest_owed {c' : CC} (hd : isOwed (cc s) d.toNat = true) : ccFinish s (toDest s (cc s) d.toNat c') = .next (ccWait s) := by
  rw [toDest_owed _ hd]
  rfl

/-- fe.any once its source is full: the mask decides whether it waits (09 R262). -/
theorem execFeAny_full (b : BitVec 5) (q : BitVec 1) (h : allFull s [a]) :
    let m : BitVec 32 := (val s a).setWidth 32
    let hit : BitVec 32 := m &&& ((cc s).full ||| 1)
    execFeAny d a b p q s = ccFinish s (if m ≠ 0 ∧ hit = 0 then .wait else toDest s (cc s) d.toNat (adv (rset (cc s) d.toNat (hit.setWidth 64)))) :=
  congrArg (ccFinish s) (srcCheck_one _ _ h)

theorem execFeAny_owed (b : BitVec 5) (q : BitVec 1) (h : allFull s [a]) (hd : isOwed (cc s) d.toNat = true) : execFeAny d a b p q s = .next (ccWait s) := by
  rw [execFeAny_full b q h, toDest_owed _ hd, ite_self]
  rfl

theorem execFeTake_full (b : BitVec 5) (q : BitVec 1) (h : allFull s [a]) : execFeTake d a b p q s =
    ccFinish s (toDest s (cc s) d.toNat (adv (rset (rclear (cc s) a.toNat) d.toNat (val s a)))) :=
  congrArg (ccFinish s) (srcCheck_one _ _ h)

end

/-- Sources that are all full, as the instruction lists them. -/
theorem allFull_of_sources {s : State} {i : Instr} {l : List (BitVec 5 × BitVec 1)}
    (h : ∀ l, coreSources i = some l → ∀ x ∈ l, isFull (cc s) x.1.toNat = true) (hl : coreSources i = some l) : allFull s (l.map Prod.fst) := by
  intro r hr
  obtain ⟨x, hx, rfl⟩ := List.mem_map.mp hr
  exact h l hl x hx

/-- Settles O12: every such instruction comes to the check of its sources, and then to its destination. -/
theorem emptySourcesWaitOrTrap : Obligations.EmptySourcesWaitOrTrap := by
  refine ⟨fun s i l hl hdue => ?_, fun s i d hdest howed hfull hload => ?_⟩
  · have hreads : ReadsSources s l (exec i s) := readsSources_exec hl hdue
    exact ⟨fun r hta hempty => hreads.trapped hta hempty, fun hmarked hempty => hreads.wait hmarked hempty⟩
  · cases i <;> dsimp only [exec]
    case add | sub | and | or | xor | sll | srl | sra | slt | sltu | min | max | minu | maxu | addw | subw | sllw | srlw | sraw | mul | mulh
        | mulhu | mulhsu | div | divu | rem | remu =>
      obtain rfl := Option.some.inj (Option.some.inj hdest)
      exact ccAlu_owed (allFull_of_sources hfull rfl) howed
    case clz | ctz | popc | bswap | addi | andi | ori | xori | slti | sltiu | slli | srli | srai | slliw | srliw | sraiw =>
      obtain rfl := Option.some.inj (Option.some.inj hdest)
      exact ccAlu1_owed (allFull_of_sources hfull rfl) howed
    case feAny =>
      obtain rfl := Option.some.inj (Option.some.inj hdest)
      exact execFeAny_owed _ _ (allFull_of_sources hfull rfl) howed
    case feTst | lui | pcadd | jal =>
      obtain rfl := Option.some.inj (Option.some.inj hdest)
      exact ccFinish_toDest_owed howed
    case lb _ a p o | lh _ a p o | lw _ a p o | ld _ a p o | lbu _ a p o | lhu _ a p o | lwu _ a p o | jalr _ a p o =>
      obtain rfl := Option.some.inj (Option.some.inj hdest)
      exact absurd (by simp) (hload a p o)
    all_goals exact nomatch hdest

/-- Settles O11: the general rules for sources and destinations at each of the five instructions. -/
theorem fullEmptyResults : Obligations.FullEmptyResults := by
  intro s d a b p q m hit
  refine ⟨fun howed => ?_, ccFinish_toDest_owed, fun howed => ?_, fun hfull => ?_, fun i hi hempty => ?_, fun hfull howed i hi => ?_,
    fun hfull howed => ?_, fun hfull howed hm => ?_, fun hfull hm hhit => ?_⟩
  · exact congrArg (ccFinish s) (toDest_free _ howed)
  · exact congrArg (ccFinish s) (toDest_free _ howed)
  · exact congrArg (ccFinish s) (srcCheck_one _ _ hfull)
  · have hreads : ReadsSources s [(a, p)] (exec i s) := by
      simp only [List.mem_cons, List.not_mem_nil, or_false] at hi
      rcases hi with rfl | rfl | rfl <;> exact readsSources_exec rfl trivial
    refine ⟨fun hp => hreads.wait ?_ ⟨_, List.mem_singleton_self _, hempty⟩, fun hp hta => hreads.trapped hta ?_⟩
    · rintro x hx h1
      obtain rfl := List.mem_singleton.mp hx
      exact absurd (hp.symm.trans h1) (by decide)
    · rw [hp, List.find?_cons_of_pos (by simp [hempty])]
  · simp only [List.mem_cons, List.not_mem_nil, or_false] at hi
    rcases hi with rfl | rfl | rfl
    · exact ccFinish_toDest_owed howed
    · exact (execFeTake_full b q hfull).trans (ccFinish_toDest_owed howed)
    · exact execFeAny_owed b q hfull howed
  · exact (execFeTake_full b q hfull).trans (congrArg (ccFinish s) (toDest_free _ howed))
  · have hgo : ¬(m ≠ 0 ∧ hit = 0) := fun h => hm.elim h.1 fun h' => h' h.2
    refine (execFeAny_full b q hfull).trans ?_
    rw [if_neg hgo, toDest_free _ howed]
    rfl
  · refine (execFeAny_full b q hfull).trans ?_
    rw [if_pos ⟨hm, hhit⟩]
    rfl

end Sys2Proof.Machine
end

section
/-! SUPPORT. Bits, bytes and quotients that the register forms compute (09 R253, R254). -/

namespace Sys2Proof.Machine

/-! ### Counting bits -/

theorem bit_toNat (v : Word) (i : Nat) : bit v.toNat i = v.getLsbD i := by
  rw [bit, BitVec.getLsbD, Nat.testBit_eq_decide_div_mod_eq]
  exact beq_eq_decide _ _

theorem clz64_spec (x : Word) : (clz64 x).toNat ≤ 64 ∧ (∀ i, i < (clz64 x).toNat → x.getLsbD (63 - i) = false) ∧
    ((clz64 x).toNat < 64 → x.getLsbD (63 - (clz64 x).toNat) = true) := by
  by_cases hx : x = 0
  · have hv : (clz64 x).toNat = 64 := by rw [clz64, if_pos hx]; rfl
    subst hx
    exact ⟨hv.le, fun i _ => by simp, fun h => absurd hv h.ne⟩
  · have hx0 : x.toNat ≠ 0 := fun h => hx (BitVec.eq_of_toNat_eq h)
    have hlog : Nat.log2 x.toNat < 64 := (Nat.log2_lt hx0).mpr x.isLt
    have hv : (clz64 x).toNat = 63 - Nat.log2 x.toNat := by
      rw [clz64, if_neg hx, BitVec.toNat_ofNat, Nat.mod_eq_of_lt (by omega)]
    rw [hv]
    refine ⟨by omega, fun i hi => ?_, fun _ => ?_⟩
    · exact Nat.testBit_lt_two_pow ((Nat.log2_lt hx0).mp (by omega))
    · rw [show 63 - (63 - Nat.log2 x.toNat) = Nat.log2 x.toNat by omega]
      exact Nat.testBit_log2 hx0

theorem ctz64_spec (x : Word) : (ctz64 x).toNat ≤ 64 ∧ (∀ i, i < (ctz64 x).toNat → x.getLsbD i = false) ∧
    ((ctz64 x).toNat < 64 → x.getLsbD (ctz64 x).toNat = true) := by
  cases hbit : firstBit x.toNat 64 with
  | none =>
    have hv : (ctz64 x).toNat = 64 := by rw [ctz64, hbit]; rfl
    rw [hv]
    refine ⟨le_rfl, fun i hi => ?_, fun h => absurd h (lt_irrefl 64)⟩
    rw [← bit_toNat]
    exact Bool.eq_false_iff.mpr (List.find?_eq_none.mp hbit i (List.mem_range.mpr hi))
  | some k =>
    obtain ⟨hone, hlt, hzero⟩ := List.find?_range_eq_some.mp hbit
    replace hlt : k < 64 := List.mem_range.mp hlt
    have hv : (ctz64 x).toNat = k := by
      rw [ctz64, hbit, Option.getD_some, BitVec.toNat_ofNat, Nat.mod_eq_of_lt (by omega)]
    rw [hv]
    exact ⟨hlt.le, fun i hi => (bit_toNat x i).symm.trans (by simpa using hzero i hi), fun _ => bit_toNat x k ▸ hone⟩

theorem popc64_spec (x : Word) : (popc64 x).toNat = ((List.range 64).filter fun i => x.getLsbD i).length := by
  have hle : (List.range 64).countP (fun i => bit x.toNat i) ≤ 64 := by
    simpa using List.countP_le_length (l := List.range 64) (p := fun i => bit x.toNat i)
  rw [popc64, BitVec.toNat_ofNat, Nat.mod_eq_of_lt (by omega), List.countP_eq_length_filter]
  simp only [bit_toNat]

/-! ### Bytes -/

theorem bytesNat_byte {l : List Byte} {k : Nat} (h : k < l.length) : bytesNat l / 2 ^ (8 * k) % 256 = l[k].toNat := by
  induction l generalizing k with
  | nil => exact absurd h (Nat.not_lt_zero k)
  | cons b r ih =>
    have hb : b.toNat < 256 := b.isLt
    cases k with
    | zero => simp [bytesNat]; omega
    | succ k =>
      rw [bytesNat, show 8 * (k + 1) = 8 + 8 * k by ring, pow_add, ← Nat.div_div_eq_div_mul,
        show (b.toNat + 256 * bytesNat r) / 2 ^ 8 = bytesNat r by omega]
      exact ih (Nat.lt_of_succ_lt_succ h)

theorem length_natBytes (n v : Nat) : (natBytes n v).length = n := by
  induction n generalizing v with
  | zero => rfl
  | succ n ih => rw [natBytes, List.length_cons, ih]

theorem natBytes_byte {n v k : Nat} (h : k < (natBytes n v).length) : (natBytes n v)[k].toNat = v / 2 ^ (8 * k) % 256 := by
  induction n generalizing v k with
  | zero => exact absurd h (Nat.not_lt_zero k)
  | succ n ih =>
    cases k with
    | zero => simp [natBytes]
    | succ k =>
      have hk : k < (natBytes n (v / 256)).length := Nat.lt_of_succ_lt_succ h
      simp only [natBytes, List.getElem_cons_succ]
      rw [ih hk, show 8 * (k + 1) = 8 + 8 * k by ring, pow_add, ← Nat.div_div_eq_div_mul, show 2 ^ 8 = 256 from rfl]

theorem bytesNat_lt (l : List Byte) : bytesNat l < 256 ^ l.length := by
  induction l with
  | nil => exact Nat.one_pos
  | cons b r ih =>
    have hb : b.toNat < 256 := b.isLt
    rw [bytesNat, List.length_cons, pow_succ]
    omega

theorem extractByte_toNat (v : Word) (k : Nat) : (v.extractLsb' (8 * k) 8).toNat = v.toNat / 2 ^ (8 * k) % 256 := by
  rw [BitVec.extractLsb'_toNat, Nat.shiftRight_eq_div_pow]

theorem bswap64_spec (x : Word) {k : Nat} (hk : k < 8) : (bswap64 x).extractLsb' (8 * k) 8 = x.extractLsb' (8 * (7 - k)) 8 := by
  have hlen : (natBytes 8 x.toNat).length = 8 := length_natBytes 8 x.toNat
  have hlt : bytesNat (natBytes 8 x.toNat).reverse < 2 ^ 64 := by
    have h := bytesNat_lt (natBytes 8 x.toNat).reverse
    rwa [List.length_reverse, hlen] at h
  apply BitVec.eq_of_toNat_eq
  rw [extractByte_toNat, extractByte_toNat, bswap64, BitVec.toNat_ofNat, Nat.mod_eq_of_lt hlt, bytesNat_byte (by simpa [hlen] using hk),
    List.getElem_reverse, natBytes_byte, hlen]

/-! ### Division -/

theorem divS_zero (x : Word) : divS x 0 = BitVec.allOnes 64 ∧ remS x 0 = x ∧ divU x 0 = BitVec.allOnes 64 ∧ remU x 0 = x := ⟨rfl, rfl, rfl, rfl⟩

theorem divU_remU {x y : Word} (hy : y ≠ 0) : x.toNat = y.toNat * (divU x y).toNat + (remU x y).toNat ∧ (remU x y).toNat < y.toNat := by
  have hy0 : 0 < y.toNat := Nat.pos_of_ne_zero fun h => hy (BitVec.eq_of_toNat_eq h)
  have hq : (divU x y).toNat = x.toNat / y.toNat := by
    rw [divU, if_neg hy, BitVec.toNat_ofNat, Nat.mod_eq_of_lt ((Nat.div_le_self _ _).trans_lt x.isLt)]
  have hr : (remU x y).toNat = x.toNat % y.toNat := by
    rw [remU, if_neg hy, BitVec.toNat_ofNat, Nat.mod_eq_of_lt ((Nat.mod_le _ _).trans_lt x.isLt)]
  rw [hq, hr]
  exact ⟨(Nat.div_add_mod _ _).symm, Nat.mod_lt _ hy0⟩

/-- A quotient of 64-bit integers is one too, but for the one that overflows (09 R254). -/
theorem tdiv_range {a b : Int} (h1 : a < 2 ^ 63) (h2 : -2 ^ 63 ≤ a) (hb : b ≠ 0) (hov : a = -2 ^ 63 → b ≠ -1) :
    -2 ^ 63 ≤ a.tdiv b ∧ a.tdiv b < 2 ^ 63 := by
  have habs : (a.tdiv b).natAbs = a.natAbs / b.natAbs := Int.natAbs_tdiv a b
  by_cases h1b : b.natAbs = 1
  · obtain rfl | rfl := Int.natAbs_eq_natAbs_iff.mp (h1b.trans (by rfl : (1 : Nat) = (1 : Int).natAbs))
    · rw [Int.tdiv_one]
      exact ⟨h2, h1⟩
    · rw [Int.tdiv_neg, Int.tdiv_one]
      have hne : a ≠ -2 ^ 63 := fun h => hov h rfl
      omega
  · have hb2 : 2 ≤ b.natAbs := by omega
    have hle : a.natAbs / b.natAbs ≤ a.natAbs / 2 := Nat.div_le_div_left hb2 (by decide)
    omega

theorem divS_remS {x y : Word} (hy : y ≠ 0) (hov : ¬(x = 0x8000000000000000#64 ∧ y = BitVec.allOnes 64)) :
    x.toInt = y.toInt * (divS x y).toInt + (remS x y).toInt ∧ (remS x y).toInt.natAbs < y.toInt.natAbs ∧
    ((remS x y).toInt ≠ 0 → ((remS x y).toInt < 0 ↔ x.toInt < 0)) := by
  have hx1 : x.toInt < 2 ^ 63 := BitVec.toInt_lt
  have hx2 : -2 ^ 63 ≤ x.toInt := BitVec.le_toInt x
  have hy1 : y.toInt < 2 ^ 63 := BitVec.toInt_lt
  have hy2 : -2 ^ 63 ≤ y.toInt := BitVec.le_toInt y
  have hy0 : y.toInt ≠ 0 := fun h => hy (BitVec.toInt_inj.mp h)
  have hr : (remS x y).toInt = x.toInt.tmod y.toInt := by
    have habs : (x.toInt.tmod y.toInt).natAbs < y.toInt.natAbs := by
      rw [Int.natAbs_tmod]
      exact Nat.mod_lt _ (Int.natAbs_pos.mpr hy0)
    rw [remS, if_neg hy]
    exact BitVec.toInt_ofInt_eq_self (by decide) (by norm_num; omega) (by norm_num; omega)
  have hq : (divS x y).toInt = x.toInt.tdiv y.toInt := by
    obtain ⟨hle, hlt⟩ := tdiv_range hx1 hx2 hy0 fun h1 h2 => hov ⟨BitVec.toInt_inj.mp h1, BitVec.toInt_inj.mp h2⟩
    rw [divS, if_neg hy]
    exact BitVec.toInt_ofInt_eq_self (by decide) hle hlt
  rw [hq, hr]
  refine ⟨(Int.mul_tdiv_add_tmod _ _).symm, ?_, fun hne => ⟨fun hneg => ?_, fun hneg => ?_⟩⟩
  · rw [Int.natAbs_tmod]
    exact Nat.mod_lt _ (Int.natAbs_pos.mpr hy0)
  · by_contra hx
    exact absurd (Int.tmod_nonneg y.toInt (not_lt.mp hx)) (not_le.mpr hneg)
  · have h := Int.tmod_nonneg y.toInt (a := -x.toInt) (by omega)
    rw [Int.neg_tmod] at h
    omega

/-- Settles O7: each register form's general equation at its own result, and what the counts, the bytes and the quotients are. -/
theorem registerFormResults : Obligations.RegisterFormResults := by
  refine ⟨⟨⟨fun s d a b p q hfull howed => ?_, fun n hn hfn => ?_⟩, fun s d a b p q hfull howed => ?_⟩, fun s d a b p q hfull howed => ?_⟩
  · have halu (f : Word → Word → Word) : ccAlu s d a b p q f = .next (wrote s d (f (val s a) (val s b))) := ccAlu_next hfull howed
    rw [← slt_eq_if, ← ult_eq_if, ← smin_eq, ← smax_eq, ← umin_eq, ← umax_eq, ← hiMul_natCast]
    dsimp only [exec]
    exact ⟨halu _, halu _, halu _, halu _, halu _, halu _, halu _, halu _, halu _, halu _, halu _, halu _, halu _, halu _, halu _, halu _, halu _,
      halu _, halu _, halu _, halu _, halu _, halu _⟩
  · rw [decodeWord_major0 (by omega)]
    exact decMajor0_unassigned hfn
  · dsimp only [exec]
    exact ⟨⟨_, ccAlu1_next hfull howed, clz64_spec _⟩, ⟨_, ccAlu1_next hfull howed, ctz64_spec _⟩, ⟨_, ccAlu1_next hfull howed, popc64_spec _⟩,
      ⟨_, ccAlu1_next hfull howed, fun k hk => bswap64_spec _ hk⟩⟩
  · dsimp only [exec]
    refine ⟨_, _, _, _, ccAlu_next hfull howed, ccAlu_next hfull howed, ccAlu_next hfull howed, ccAlu_next hfull howed, fun hb => ?_,
      fun ha hb => ?_, divU_remU, divS_remS⟩
    · rw [hb]
      obtain ⟨hq, hr, hqu, hru⟩ := divS_zero (val s a)
      exact ⟨hq, hr, hqu, hru⟩
    · rw [ha, hb]
      exact ⟨by decide, by decide⟩

end Sys2Proof.Machine
end

section
/-! SUPPORT. What the other operations of the machine keep of a core's registers, program counter, CSRs and memories (09 R248-R273, 15 R421). -/

namespace Sys2Proof.Machine

/-! ### What is kept of a core -/

/-- Two states of a core agree but for its pending events, ports, commands and error marks. -/
structure CC.Kept (c d : CC) : Prop where
  x : d.x = c.x
  full : d.full = c.full
  owed : d.owed = c.owed
  pc : d.pc = c.pc
  tstat : d.tstat = c.tstat
  tvec : d.tvec = c.tvec
  tepc : d.tepc = c.tepc
  tcause : d.tcause = c.tcause
  tval : d.tval = c.tval
  tscr : d.tscr = c.tscr
  evmask : d.evmask = c.evmask
  tcmp : d.tcmp = c.tcmp
  instret : d.instret = c.instret
  skind : d.skind = c.skind
  scode : d.scode = c.scode
  state : d.state = c.state
  started : d.started = c.started
  isram : d.isram = c.isram
  dsram : d.dsram = c.dsram

theorem CC.Kept.refl (c : CC) : c.Kept c := by constructor <;> rfl

theorem CC.Kept.trans {c d e : CC} (h : c.Kept d) (h' : d.Kept e) : c.Kept e where
  x := h'.x.trans h.x
  full := h'.full.trans h.full
  owed := h'.owed.trans h.owed
  pc := h'.pc.trans h.pc
  tstat := h'.tstat.trans h.tstat
  tvec := h'.tvec.trans h.tvec
  tepc := h'.tepc.trans h.tepc
  tcause := h'.tcause.trans h.tcause
  tval := h'.tval.trans h.tval
  tscr := h'.tscr.trans h.tscr
  evmask := h'.evmask.trans h.evmask
  tcmp := h'.tcmp.trans h.tcmp
  instret := h'.instret.trans h.instret
  skind := h'.skind.trans h.skind
  scode := h'.scode.trans h.scode
  state := h'.state.trans h.state
  started := h'.started.trans h.started
  isram := h'.isram.trans h.isram
  dsram := h'.dsram.trans h.dsram

theorem CC.Kept.csrs {c d : CC} (h : c.Kept d) : csrsSame { c with evpend := d.evpend } d :=
  ⟨h.tstat, h.tvec, h.tepc, h.tcause, h.tval, h.tscr, rfl, h.evmask, h.tcmp, h.skind, h.scode⟩

/-- The cores of two fabrics agree in the same way. -/
def Fab.Kept (f g : Fab) : Prop := ∀ n, (ccOf f n).Kept (ccOf g n)

section
variable {f g : Fab}

theorem Fab.Kept.refl (f : Fab) : f.Kept f := fun _ => CC.Kept.refl _

theorem Fab.Kept.modCc {n : Nat} {k : CC → CC} (h : f.Kept g) (hk : (ccOf g n).Kept (k (ccOf g n))) : f.Kept (modCc g n k) := by
  intro m
  by_cases hm : m = n
  · subst hm
    rw [ccOf_modCc_same]
    exact (h m).trans hk
  · rw [ccOf_modCc_ne _ _ hm]
    exact h m

theorem Fab.Kept.sendFill {core reg : Nat} {v : Word} (h : f.Kept g) : f.Kept (sendFill g core reg v) := ite_keeps (P := Fab.Kept f) h h

theorem Fab.Kept.regionEvent {r : Region} {m : BitVec 6} (h : f.Kept g) : f.Kept (regionEvent g r m) :=
  foldl_keeps (P := Fab.Kept f) h fun _ _ h1 => h1.modCc (by constructor <;> rfl)

end

/-! ### Fault reports (15 R421) -/

section
variable {f : Fab} {s : State}

theorem Fab.Kept.repDone {rid : Option Nat} (h : f.Kept s.fab) : f.Kept (repDone s rid).fab := by
  unfold Machine.repDone
  split
  · exact h
  · exact h.regionEvent

theorem Fab.Kept.postNext {part fn : Nat} (h : f.Kept s.fab) : f.Kept (postNext s part fn).fab := by
  unfold Machine.postNext
  dsimp only
  split
  · exact h
  split
  · exact Fab.Kept.repDone (s := { s with mem := _, hub := _ }) h
  split
  · exact h
  · exact Fab.Kept.repDone (s := { s with mem := _, hub := _ }) h
  · exact Fab.Kept.repDone (s := { s with mem := _, hub := _ }) h

theorem Fab.Kept.postLine {part fn : Nat} {rid : Option Nat} {line : Line} (h : f.Kept s.fab) : f.Kept (postLine s part fn rid line).fab :=
  foldl_keeps (P := fun t : State => f.Kept t.fab) h fun _ _ h1 => h1.postNext

theorem Fab.Kept.postReport {core ctx : Nat} {p : Rep} (h : f.Kept s.fab) : f.Kept (postReport s core ctx p).fab := by
  unfold Machine.postReport
  split
  · exact h
  · exact h.postLine

theorem Fab.Kept.haltReport {core : Nat} (h : f.Kept s.fab) : f.Kept (haltReport s core).fab := by
  unfold Machine.haltReport
  split
  · exact h
  · exact h.postReport

end

/-! ### A trap within a trap (09 R271) -/

theorem ccFinish_trap_halts {s : State} (kind code : Nat) (v : Word) (h : ccTa (cc s) = true) :
    ccFinish s (.trap kind code v) = .next (haltedBy s kind code) := by
  have hta : ccTa (ccTick s.free (cc s)) = true := h
  exact congrArg Host.Outcome.next (if_pos hta)

theorem ccFinish_sramCheck_halts {s : State} (e : Word) (w : Nat) (k : CRes) (h : ccTa (cc s) = true) :
    (2 ^ 17 ≤ e.toNat → ccFinish s (sramCheck e w k) = .next (haltedBy s 0 6)) ∧
    (e.toNat < 2 ^ 17 → e.toNat % w ≠ 0 → ccFinish s (sramCheck e w k) = .next (haltedBy s 0 3)) :=
  ⟨fun hp => by rw [sramCheck_prot k hp, ccFinish_trap_halts _ _ _ h], fun hp hm => by rw [sramCheck_misalign k hp hm, ccFinish_trap_halts _ _ _ h]⟩

theorem ReadsSources.halted {s : State} {l : List (BitVec 5 × BitVec 1)} {o : Out} {r : BitVec 5} (h : ReadsSources s l o)
    (hta : ccTa (cc s) = true) (hempty : l.find? (fun x => x.2 == 1 && !isFull (cc s) x.1.toNat) = some (r, 1)) :
    o = .next (haltedBy s 0 2) := by
  obtain ⟨k, rfl⟩ := h
  rw [srcCheck_trap k hempty, ccFinish_trap_halts _ _ _ hta]

/-- The core that halts, before its report. -/
def haltedCore (s : State) (kind code : Nat) : CC := doubleTrap (ccTick s.free (cc s)) kind code

/-- The report leaves the halted core but for RFAULT. -/
theorem kept_haltedBy (s : State) (kind code : Nat) : (haltedCore s kind code).Kept (ccOf (haltedBy s kind code).fab s.site.core) := by
  have h : Fab.Kept (setCc s (haltedCore s kind code)).fab (haltedBy s kind code).fab :=
    Fab.Kept.haltReport (s := { setCc s (haltedCore s kind code) with free := s.free + 1 }) (Fab.Kept.refl _)
  have hcore := h s.site.core
  rwa [ccOf_setCc_same] at hcore

theorem haltReport_eq {s : State} {core rid : Nat} {r : Region} {c : CC} (hr : regionOf s.fab core = some (rid, r)) (hc : ccOf s.fab core = c) :
    haltReport s core = postReport s core r.plane
      { cause := if c.skind = 0 then c.scode.toNat else 0, effect := 5, key := some (100 * core), info0 := c.tepc
        info1 := BitVec.ofNat 64 (c.skind.toNat * 2 ^ 16 + c.scode.toNat * 2 ^ 8 + c.state.toNat) } := by
  rw [haltReport, hr, ← hc]

/-- The report of a halt names the second cause (15 R420). -/
theorem haltedBy_report {s : State} {kind code rid : Nat} {r : Region} (hkind : kind < 2) (hcode : code < 256)
    (hr : regionOf s.fab s.site.core = some (rid, r)) :
    haltedBy s kind code = postReport { setCc s (doubleTrap (ccTick s.free (cc s)) kind code) with free := s.free + 1 } s.site.core r.plane
      { cause := if kind = 0 then code else 0, effect := 5, key := some (100 * s.site.core), info0 := (cc s).tepc
        info1 := BitVec.ofNat 64 (kind * 2 ^ 16 + code * 2 ^ 8 + 2) } := by
  have hskind : (haltedCore s kind code).skind.toNat = kind := by
    rw [haltedCore, doubleTrap, BitVec.toNat_ofNat, Nat.mod_eq_of_lt (by omega)]
  have hscode : (haltedCore s kind code).scode.toNat = code := by
    rw [haltedCore, doubleTrap, BitVec.toNat_ofNat, Nat.mod_eq_of_lt hcode]
  have hzero : (haltedCore s kind code).skind = 0 ↔ kind = 0 := by
    rw [← BitVec.toNat_inj, hskind]
    rfl
  refine (haltReport_eq (s := { setCc s (doubleTrap (ccTick s.free (cc s)) kind code) with free := s.free + 1 })
    (c := haltedCore s kind code) hr (ccOf_setCc_same s _)).trans ?_
  rw [hskind, hscode]
  simp only [hzero]
  rfl

/-- Settles O16: each of the traps with TA set is the halt, whose report leaves the core's fields. -/
theorem doubleTrapHalts : Obligations.DoubleTrapHalts := by
  intro s d a b p q hta
  refine ⟨ccFinish_trap_halts _ _ _ hta, ccFinish_trap_halts _ _ _ hta, fun w hw => ?_, fun hacq w mk hmk i hfull => ?_,
    fun hacq w mk hmk i hfull => ?_, fun i hi hp hempty => ?_, fun i hfull hodd => ?_, fun kind code hkind hcode => ?_⟩
  · exact (execIllegalInstruction_illop hw).trans (ccFinish_trap_halts _ _ _ hta)
  · obtain ⟨f, hload⟩ := exec_loadForm hmk
    rw [hload, ccLoad_checked d p i w f hfull hacq]
    exact ccFinish_sramCheck_halts _ w _ hta
  · rw [exec_storeForm hmk, ccStore_checked p q i w hfull hacq]
    exact ccFinish_sramCheck_halts _ w _ hta
  · have hreads : ReadsSources s [(a, p), (b, q)] (exec i s) := by
      simp only [List.mem_cons, List.not_mem_nil, or_false] at hi
      rcases hi with rfl | rfl | rfl | rfl | rfl | rfl <;> exact readsSources_exec rfl trivial
    refine hreads.halted (r := a) hta ?_
    rw [hp, List.find?_cons_of_pos (by simp [hempty])]
  · dsimp only [exec]
    rw [execJalr_full hfull, if_pos hodd]
    exact ccFinish_trap_halts _ _ _ hta
  · intro c t u
    have h : (haltedCore s kind code).Kept u := kept_haltedBy s kind code
    exact ⟨h.state, h.skind, h.scode, h.tepc, h.tcause, h.tval, h.tstat, h.pc, h.x, h.instret, fun rid r hr => haltedBy_report hkind hcode hr⟩

/-! ### Ends of instructions of a core (09 R251) -/

/-- The core after an instruction that leaves the core c and completes. -/
theorem ccOf_ccDone (s : State) (c : CC) :
    ccOf (ccDone (setCc s c)).fab s.site.core = { ccTick s.free c with instret := c.instret + 1, state := 0 } := by
  rw [ccDone, cc_setCc]
  exact ccOf_setCc_same (setCc s c) _

theorem ccOf_ccWait (s : State) : ccOf (ccWait s).fab s.site.core = { ccTick s.free (cc s) with state := 1 } := ccOf_setCc_same s _

theorem outsideSame_setCc (s : State) (c : CC) (n : Nat) : outsideSame s { setCc s c with free := n } :=
  ⟨fun _ hm => ccOf_setCc_ne s c hm, rfl, rfl, rfl, rfl, rfl, rfl, rfl, rfl, rfl, rfl, rfl, rfl⟩

theorem outsideSame_ccDone (s : State) (c : CC) : outsideSame s (ccDone (setCc s c)) :=
  ⟨fun _ hm => (ccOf_setCc_ne (setCc s c) _ hm).trans (ccOf_setCc_ne s c hm), rfl, rfl, rfl, rfl, rfl, rfl, rfl, rfl, rfl, rfl, rfl, rfl⟩

/-- The return from a trap (09 R272). -/
theorem trapReturn_tstat (c : CC) : ccMode (trapReturn c) = (ccPmode c && ccSupok c) ∧ ccIe (trapReturn c) = ccPie c ∧
    ccTa (trapReturn c) = false ∧ ccSupok (trapReturn c) = ccSupok c := by
  obtain ⟨hsupok, hta, -, hie, -, hmode⟩ := mkTstat_fields (ccSupok c) false (ccPie c) (ccPie c) (ccPmode c) (ccPmode c && ccSupok c)
  exact ⟨hmode, hie, hta, hsupok⟩

/-- Settles O14: tret by its guard, wfe by the pending events. -/
theorem returnAndWaitForEvent : Obligations.ReturnAndWaitForEvent := by
  intro s d a b p q c
  refine ⟨fun hguard => ?_, fun hsupok hmode hta w hw => ?_, fun hevent => ?_, fun hevent => ?_⟩
  · have hexec : exec (.tret d a b p q) s = .next (ccDone (setCc s (trapReturn c))) :=
      congrArg (ccFinish s) (if_neg (Bool.not_eq_true _ ▸ guardedPriv_eq_false hguard))
    refine ⟨_, hexec, ?_⟩
    rw [ccOf_ccDone]
    obtain ⟨hmode, hie, hta, hsupok⟩ := trapReturn_tstat c
    exact ⟨rfl, hmode, hie, hta, hsupok, rfl, rfl, rfl, rfl, outsideSame_ccDone s _⟩
  · have hguard : guardedPriv c = true := by simp [guardedPriv, hsupok, hmode]
    have hword : fmtA1Word d a b p q 0x011 = BitVec.ofNat 64 w := by
      rw [← Option.some.inj hw]
      apply congrArg (BitVec.ofNat 64)
      simp only [encA]
      omega
    have hexec : exec (.tret d a b p q) s = ccFinish s (.trap 0 4 (fmtA1Word d a b p q 0x011)) := congrArg (ccFinish s) (if_pos hguard)
    rw [hexec, hword, ccFinish_trap _ _ _ hta]
  · exact congrArg (ccFinish s) (if_pos hevent)
  · exact congrArg (ccFinish s) (if_neg (not_not_intro hevent))

/-! ### CSR instructions (09 R263-R266) -/

/-- The CSR instructions by their operation. -/
def csrForms : List (Nat × (BitVec 5 → BitVec 5 → BitVec 1 → BitVec 12 → Instr)) := [(1, Instr.csrrw), (2, Instr.csrrs), (3, Instr.csrrc)]

/-- Word of a CSR instruction (09 R263). -/
def csrWord (op : Nat) (d a : BitVec 5) (p : BitVec 1) (n : BitVec 12) : Nat :=
  0x30 * 2 ^ 26 + d.toNat * 2 ^ 21 + a.toNat * 2 ^ 16 + p.toNat * 2 ^ 15 + op * 2 ^ 12 + n.toNat

/-- Every CSR instruction is the shared one at its operation, and its word is the one that its traps carry. -/
theorem exec_csrForm {op : Nat} {mk : BitVec 5 → BitVec 5 → BitVec 1 → BitVec 12 → Instr} (h : (op, mk) ∈ csrForms) (s : State) (d a : BitVec 5)
    (p : BitVec 1) (n : BitVec 12) : exec (mk d a p n) s = ccCsr s op d a p n ∧ encodeWord (mk d a p n) = some (csrWord op d a p n) := by
  simp only [csrForms, List.mem_cons, Prod.mk.injEq, List.not_mem_nil, or_false] at h
  rcases h with ⟨rfl, rfl⟩ | ⟨rfl, rfl⟩ | ⟨rfl, rfl⟩
  all_goals
    refine ⟨rfl, congrArg some ?_⟩
    simp only [encI, csrWord]
    omega

section
variable {s : State} {op : Nat} {d a : BitVec 5} {p : BitVec 1} {n : BitVec 12}

theorem ccCsr_unassigned (hg : csrGuarded n.toNat = false) (hro : csrRo n.toNat = false) :
    ccCsr s op d a p n = ccFinish s (.trap 0 1 (BitVec.ofNat 64 (csrWord op d a p n))) := by
  simp only [ccCsr, hg, hro]
  rfl

theorem ccCsr_shut (hw : op = 1 ∨ a ≠ 0) (hs : csrRo n.toNat = true ∨ (n = 0x010 ∧ op ≠ 3)) :
    ccCsr s op d a p n = ccFinish s (.trap 0 1 (BitVec.ofNat 64 (csrWord op d a p n))) := by
  have hwrite : ((op == 1 || a != 0) && (csrRo n.toNat || (n == 0x010 && op != 3))) = true := by
    simpa [bne_iff_ne] using And.intro hw hs
  simp only [ccCsr, hwrite, if_true, ite_self]
  rfl

theorem ccCsr_guarded (hopen : ¬((op = 1 ∨ a ≠ 0) ∧ (csrRo n.toNat = true ∨ (n = 0x010 ∧ op ≠ 3)))) (hg : csrGuarded n.toNat = true)
    (hp : guardedPriv (cc s) = true) : ccCsr s op d a p n = ccFinish s (.trap 0 4 (BitVec.ofNat 64 (csrWord op d a p n))) := by
  have hwrite : ((op == 1 || a != 0) && (csrRo n.toNat || (n == 0x010 && op != 3))) = false := by
    rw [Bool.eq_false_iff]
    exact fun h => hopen (by simpa [bne_iff_ne] using h)
  simp only [ccCsr, hwrite, hg, hp]
  rfl

/-- A CSR instruction whose checks pass, with a full source and a free destination. -/
theorem ccCsr_next (hpass : csrPasses s op a n) (hfull : allFull s [a]) (howed : notOwed s d) :
    ccCsr s op d a p n = .next (after s (adv (rset (csrWritten s op a n) d.toNat (csrGet s s.site.core n.toNat 0)))) := by
  rw [ccCsr_passes hpass, srcCheck_one _ _ hfull, toDest_free _ howed]
  rfl

theorem csrWritten_writes (h : op = 1 ∨ a ≠ 0) :
    csrWritten s op a n = csrPut (cc s) n.toNat (csrNew op (csrGet s s.site.core n.toNat 0) (val s a)) := if_pos (by simpa [bne_iff_ne] using h)

end

/-- Settles O15: the shared CSR instruction at each operation, by the order of its checks. -/
theorem csrInstructions : Obligations.CsrInstructions := by
  refine ⟨fun s d a p n hfull howed => ?_, fun s d a p n op mk w hmk hw hta => ?_⟩
  · intro old put
    refine ⟨fun hpass => ccCsr_next hpass hfull howed, fun hpass ha => ?_, fun hpass ha => ?_, fun hpass => ?_, fun hpass => ?_⟩
    · have h := ccCsr_next (p := p) hpass hfull howed
      rwa [csrWritten_writes (.inr ha)] at h
    · have h := ccCsr_next (p := p) hpass hfull howed
      rwa [csrWritten_writes (.inr ha)] at h
    · exact ccCsr_next hpass (fun r hr => by rw [List.mem_singleton.mp hr]; rfl) howed
    · exact ccCsr_next hpass (fun r hr => by rw [List.mem_singleton.mp hr]; rfl) howed
  · intro writes shut
    obtain ⟨hexec, hword⟩ := exec_csrForm hmk s d a p n
    obtain rfl := Option.some.inj (hword.symm.trans hw)
    rw [hexec]
    refine ⟨fun hg hro => ?_, fun hwrites hshut => ?_, fun hopen hg hsupok hmode => ?_⟩
    · rw [ccCsr_unassigned hg hro, ccFinish_trap _ _ _ hta]
    · rw [ccCsr_shut hwrites hshut, ccFinish_trap _ _ _ hta]
    · rw [ccCsr_guarded hopen hg (by simp [guardedPriv, hsupok, hmode]), ccFinish_trap _ _ _ hta]

end Sys2Proof.Machine
end

section
/-! SUPPORT. Reset, and the events of a control core and its ports (09 R264, R267-R269, R274, 10 R283-R286). -/

namespace Sys2Proof.Machine

/-! ### Reset -/

theorem isFull_default {r : Nat} (h : r < 32) : isFull {} r = true := by
  have hall : ∀ r : Fin 32, isFull {} r = true := by decide
  exact hall ⟨r, h⟩

/-- Settles O57: the reset state lists no core, element, region, partition or byte, so that each reads as its default. -/
theorem resetValues : Obligations.ResetValues := by
  refine ⟨fun n hn => ?_, ⟨reset_memWf.1, reset_memWf.2, ?_, ?_, ?_⟩, ?_, ?_, fun p => ⟨rfl, rfl⟩, fun n => ⟨rfl, fun r hr => isFull_default hr⟩,
    fun k n => rfl, rfl, rfl, rfl, rfl, rfl⟩
  · interval_cases n <;> decide
  all_goals exact fun q hq => absurd hq List.not_mem_nil

/-! ### Events of a core -/

section
variable {s : State} {n : Nat}

theorem execEventTrap_due {i : Nat} (hdue : eventDue (ccOf s.fab n) = true)
    (hi : firstBit ((ccOf s.fab n).evpend &&& (ccOf s.fab n).evmask).toNat 6 = some i) :
    let c := ccOf s.fab n
    let d := if inWfe c then { adv c with instret := c.instret + 1 } else c
    execEventTrap n s = .next (withFab s (modCc s.fab n fun _ =>
      trapEntry d 2 i (BitVec.ofNat 64 (c.evpend.toNat + c.evmask.toNat * 2 ^ 32)) d.pc)) := by
  intro c d
  have hpend : d.evpend = c.evpend := by dsimp only [d]; split <;> rfl
  have hmask : d.evmask = c.evmask := by dsimp only [d]; split <;> rfl
  have hcode : (firstBit (c.evpend &&& c.evmask).toNat 6).getD 0 = i := by rw [hi, Option.getD_some]
  rw [← hpend, ← hmask, ← hcode]
  exact if_pos hdue

theorem execTimerEvent_on (hstarted : (ccOf s.fab n).started = true) (hclock : (elemOf s.fab (100 * n)).gated = false)
    (hcmp : (ccOf s.fab n).tcmp.toNat ≤ s.clk.dtime.toNat) :
    execTimerEvent n s = .next (withFab s (modCc s.fab n fun c => { c with evpend := c.evpend ||| 8 })) := by
  have hon : timerOn s n = true := by simp [timerOn, hstarted, hclock, hcmp]
  exact if_pos hon

theorem execRegisterFill_owed {i r : Nat} {v : Word} (hfill : s.fab.fills[i]? = some (n, r, v)) (hclock : (elemOf s.fab (100 * n)).gated = false)
    (howed : isOwed (ccOf s.fab n) r = true) :
    execRegisterFill i s = .next (withFab s (modCc { s.fab with fills := s.fab.fills.eraseIdx i } n fun c =>
      { rset c r v with owed := c.owed &&& ~~~(1#32 <<< r), evpend := c.evpend ||| 1, acq := if c.acq = some r then none else c.acq })) := by
  have hrfill : rfill (ccOf s.fab n) r v = _ := if_pos howed
  simp only [execRegisterFill, onFab, hfill, hclock]
  exact congrArg (fun d => Host.Outcome.next (withFab s { s.fab with fills := s.fab.fills.eraseIdx i, ccs := tins s.fab.ccs n d })) hrfill

end

/-! ### Sink ports (10 R286) -/

section
variable {s : State} {n sel : Nat} {t : Token}

/-- No drift launch has the context of a token (14 R407). -/
def NoDrift (s : State) (n ctx : Nat) : Prop := ∀ rid r, regionOf s.fab n = some (rid, r) → driftIn s.fab rid ctx = none

theorem execSinkArrival_misrouted (hhead : headOf (elemOf s.fab (100 * n)) sel = some t) (hrun : halted s.fab (100 * n) = false)
    (hport : isWideSel sel = true ∨ t.ctag.toNat / 16 ≠ 0) :
    execSinkArrival n sel s = .next (withFab s (tokFault (popQ s.fab (100 * n) sel) (100 * n) 9 4 (some sel) t)) := by
  simp only [execSinkArrival, hhead, hrun, Bool.false_eq_true, if_false]
  exact if_pos (hport.imp id .inr)

theorem execSinkArrival_taken (hhead : headOf (elemOf s.fab (100 * n)) sel = some t) (hrun : halted s.fab (100 * n) = false)
    (hdrift : NoDrift s n t.ctx.toNat) (hnarrow : isWideSel sel = false) (hport : t.ctag.toNat / 16 = 0) (hfirst : isSecondary s.fab n = false)
    (hroom : t.kind = 0 → dropLeft (tget {} (ccOf s.fab n).sinks (t.ctag.toNat % 16)) t.ctx.toNat
      (tget 0 (tget {} (ccOf s.fab n).sinks (t.ctag.toNat % 16)).mark t.ctx.toNat) = 0 →
        (tget {} (ccOf s.fab n).sinks (t.ctag.toNat % 16)).toks.length < 8) :
    execSinkArrival n sel s = .next (withFab s (serveCore (modCc (popQ s.fab (100 * n) sel) n fun c =>
      { c with sinks := tins c.sinks (t.ctag.toNat % 16) (sinkTake (tget {} (ccOf s.fab n).sinks (t.ctag.toNat % 16)) t) })
        n (t.ctag.toNat % 16))) := by
  have hnone : (match regionOf s.fab n with | some (rid, _) => (driftIn s.fab rid t.ctx.toNat).isSome | none => false) = false := by
    split
    next hr => rw [hdrift _ _ hr, Option.isSome_none]
    next => rfl
  simp only [execSinkArrival, hhead, hrun, hfirst, Bool.false_eq_true, if_false]
  rw [if_neg, if_neg]
  · rfl
  · exact fun ⟨hdata, hdrop, hlong⟩ => absurd (hroom hdata hdrop) (by omega)
  · rintro (hwide | hsome | hbig)
    · exact absurd hwide (by simp [hnarrow])
    · exact absurd (hnone.symm.trans hsome) (by decide)
    · exact hbig hport

end

/-! ### Source ports (10 R283-R285) -/

section
variable {s : State} {n port rid : Nat} {r : Region}

theorem execVinPortEmit_token {b : Word} {t : Token} {l : List (Word × Token)} (hr : regionOf s.fab n = some (rid, r))
    (hrun : halted s.fab (100 * n) = false) (hqueue : (vinOf (ccOf s.fab n) port).queue = (b, t) :: l) (hkind : t.kind ≠ 3)
    (hroom : outRoom (elemOf s.fab (100 * n)) (vinOut b) ≠ 0) (hnone : ∀ a, a < 4 → vinDue s.fab rid r (vinOf (ccOf s.fab n) port) a = false) :
    execVinPortEmit n port s = .next (withFab s (pushOut (modCc s.fab n fun c =>
      { c with vins := tins c.vins port (vinSent (vinOf (ccOf s.fab n) port) (b.toNat % 4) b t
        ((ctxOf r (b.toNat % 4)).cround + 1)) }) (100 * n) (vinOut b) t)) := by
  have hdue : [0, 1, 2, 3].filter (vinDue s.fab rid r (vinOf (ccOf s.fab n) port)) = [] := by
    simp [hnone 0, hnone 1, hnone 2, hnone 3]
  have hout : 1 ≤ outRoom (elemOf s.fab (100 * n)) (vinOut b) := by omega
  simp only [execVinPortEmit, hr, hrun, hdue, hqueue, hout, if_neg hkind, List.find?_nil, List.contains_nil, Bool.false_eq_true, decide_true,
    Bool.not_true, or_false, if_false]
  rfl

theorem execVinPortEmit_mark {a : Nat} {w : Word} (hr : regionOf s.fab n = some (rid, r)) (hrun : halted s.fab (100 * n) = false) (ha : a < 4)
    (hfirst : ∀ b, b < a → vinDue s.fab rid r (vinOf (ccOf s.fab n) port) b = false) (hword : vinWord (vinOf (ccOf s.fab n) port) a = some w)
    (hroom : outRoom (elemOf s.fab (100 * n)) (vinOut w) ≠ 0) (hopen : mayOpen r a (vinCtx (vinOf (ccOf s.fab n) port) a).round = true)
    (hdue : vinDue s.fab rid r (vinOf (ccOf s.fab n) port) a = true) :
    let v := vinOf (ccOf s.fab n) port
    let m := (vinCtx v a).round + 1
    let g := modCc s.fab n fun c => { c with vins := tins c.vins port (vinMarked v a) }
    execVinPortEmit n port s = .next (withFab s (pushOut (if vEdge w then noteRound g n a m else g) (100 * n) (vinOut w)
      (markToken false 2 a (vinTag w) m))) := by
  have hout : 1 ≤ outRoom (elemOf s.fab (100 * n)) (vinOut w) := by omega
  have hfind : ([0, 1, 2, 3].filter (vinDue s.fab rid r (vinOf (ccOf s.fab n) port))).find? (fun c =>
      mayOpen r c (vinCtx (vinOf (ccOf s.fab n) port) c).round &&
        (vinWord (vinOf (ccOf s.fab n) port) c).any fun w => decide (1 ≤ outRoom (elemOf s.fab (100 * n)) (vinOut w))) = some a := by
    have hhead : ∃ l, [0, 1, 2, 3].filter (vinDue s.fab rid r (vinOf (ccOf s.fab n) port)) = a :: l := by
      interval_cases a <;> simp_all
    obtain ⟨l, hl⟩ := hhead
    rw [hl, List.find?_cons_of_pos]
    simp [hopen, hword, hout]
  intro v m g
  simp only [execVinPortEmit, hr, hrun, Bool.false_eq_true, if_false, hfind, hword]
  rfl

theorem vinDue_of_word {f : Fab} {v : Vin} {a : Nat} {w : Word} (hword : vinWord v a = some w)
    (h : if vEdge w then (vinCtx v a).count = edgeU f rid r a (vinCtx v a).round (fld w.toNat 16 3) * fld w.toNat 24 8
      else (vinCtx v a).markAt = some 0) : vinDue f rid r v a = true := by
  simp only [vinDue, hword]
  split at h
  next hedge => rw [if_pos hedge, beq_iff_eq, h]
  next hedge => rw [if_neg hedge, h, beq_self_eq_true]

end

/-- Settles O46: the event trap, the timer, the fill, and each kind of token at a sink and a source port. -/
theorem coreEvents : Obligations.CoreEvents := by
  intro s n c key
  refine ⟨fun i hdue hi => execEventTrap_due hdue hi, execTimerEvent_on, fun i r v hfill hclock howed => execRegisterFill_owed hfill hclock howed,
    fun sel t hhead hrun hdrift => ⟨execSinkArrival_misrouted hhead hrun, execSinkArrival_taken hhead hrun hdrift⟩, fun port rid r hr hrun => ?_⟩
  refine ⟨fun b t l hqueue hkind hroom hnone => ?_, fun a w ha hfirst hword hroom hopen hcount =>
    execVinPortEmit_mark hr hrun ha hfirst hword hroom hopen (vinDue_of_word hword hcount)⟩
  have hsent : vinSent (vinOf (ccOf s.fab n) port) (b.toNat % 4) b t ((ctxOf r (b.toNat % 4)).cround + 1) = _ := if_neg hkind
  have hemit := execVinPortEmit_token hr hrun hqueue hkind hroom hnone
  rw [hsent, vinStep, hqueue] at hemit
  exact hemit

end Sys2Proof.Machine
end

section
/-! SUPPORT. What an instruction of a control core leaves unchanged, by how it ends (09 R250-R264, R272). -/

namespace Sys2Proof.Machine

/-! ### Registers -/

theorem getLsbD_bit_ne {x r : Nat} (h : x ≠ r) : (1#32 <<< r).getLsbD x = false := by
  rw [BitVec.getLsbD_shiftLeft, BitVec.getLsbD_one]
  rcases Nat.lt_or_ge x r with hlt | hge
  · simp [hlt]
  · have hne : x - r ≠ 0 := by omega
    simp [hne]

section
variable {c : CC} {r x : Nat} {v : Word}

theorem rget_rset_ne (h : x ≠ r) : rget (rset c r v) x = rget c x := by
  unfold rget rset
  split
  · rfl
  split
  · rfl
  · exact tget_tput_ne _ _ _ h

theorem isFull_rset_ne (h : x ≠ r) : isFull (rset c r v) x = isFull c x := by
  unfold rset
  split
  · rfl
  · simp [isFull, getLsbD_bit_ne h]

theorem rclear_x : (rclear c r).x = c.x := by
  unfold rclear
  split <;> rfl

theorem isFull_rclear_ne (h : x ≠ r) : isFull (rclear c r) x = isFull c x := by
  unfold rclear
  split
  · rfl
  · simp only [isFull, BitVec.getLsbD_and, BitVec.getLsbD_not, getLsbD_bit_ne h]
    by_cases hx : x < 32
    · simp [hx]
    · simp [BitVec.getLsbD_of_ge _ _ (Nat.le_of_not_lt hx)]

end

/-- Two states of a core read alike in every register but those of D. -/
def RegsSame (D : BitVec 5 → Prop) (c u : CC) : Prop :=
  ∀ r : BitVec 5, ¬D r → rget u r.toNat = rget c r.toNat ∧ isFull u r.toNat = isFull c r.toNat

/-- What no instruction but a command changes of a core: its memories, what is owed to its registers, and its ports. -/
structure CC.Rest (c u : CC) : Prop where
  dsram : u.dsram = c.dsram
  isram : u.isram = c.isram
  owed : u.owed = c.owed
  ports : portsSame c u

theorem portsSame.refl (c : CC) : portsSame c c := ⟨rfl, rfl, rfl, rfl, rfl, rfl, rfl, rfl⟩

theorem csrsSame.refl (c : CC) : csrsSame c c := ⟨rfl, rfl, rfl, rfl, rfl, rfl, rfl, rfl, rfl, rfl, rfl⟩

theorem CC.Rest.refl (c : CC) : c.Rest c := ⟨rfl, rfl, rfl, portsSame.refl c⟩

theorem CC.Rest.rset {c u : CC} {r : Nat} {v : Word} (h : c.Rest u) : c.Rest (rset u r v) := by
  unfold Machine.rset
  split
  · exact h
  · exact { h with }

theorem CC.Rest.rclear {c u : CC} {r : Nat} (h : c.Rest u) : c.Rest (rclear u r) := by
  unfold Machine.rclear
  split
  · exact h
  · exact { h with }

theorem csrsSame_rset {c u : CC} {r : Nat} {v : Word} (h : csrsSame c u) : csrsSame c (rset u r v) := by
  unfold rset
  split <;> exact h

theorem csrsSame_rclear {c u : CC} {r : Nat} (h : csrsSame c u) : csrsSame c (rclear u r) := by
  unfold rclear
  split <;> exact h

/-! ### How an instruction ends (09 R251, R271) -/

/-- An instruction that completes leaves a state of Q, one whose word is lost a state of L. -/
def CRes.Ends (Q L : State → Prop) : CRes → Prop
  | .done t => Q t
  | .lost t => L t
  | .wait => True
  | .trap _ _ _ => True

/-- An instruction that ends so. -/
def OutEnds (s : State) (Q L : State → Prop) (o : Out) : Prop := ∃ r : CRes, r.Ends Q L ∧ o = ccFinish s r

section
variable {Q L : State → Prop} {s : State}

theorem outEnds_ccFinish {r : CRes} (h : r.Ends Q L) : OutEnds s Q L (ccFinish s r) := ⟨r, h, rfl⟩

theorem ends_srcCheck {c : CC} {srcs : List (Nat × Bool)} {k : CRes} (hk : k.Ends Q L) : (srcCheck c srcs k).Ends Q L := by
  unfold srcCheck
  split
  · exact trivial
  · exact ite_keeps trivial hk

theorem ends_toDest {c c' : CC} {d : Nat} (h : Q (setCc s c')) : (toDest s c d c').Ends Q L := ite_keeps trivial h

theorem ends_sramCheck {e : Word} {w : Nat} {k : CRes} (h : k.Ends Q L) : (sramCheck e w k).Ends Q L :=
  ite_keeps trivial (ite_keeps trivial h)

theorem ends_sramRead {a n : Nat} {k : Nat → CRes} (hlost : L (withFab s (coreUncorr s.fab s.site.core))) (hk : ∀ v, (k v).Ends Q L) :
    (sramRead s a n k).Ends Q L := by
  unfold sramRead
  split
  · exact hlost
  · exact hk _

/-- A core outside a trap completes, waits, or traps. -/
theorem OutEnds.next {o : Out} {t : State} (h : OutEnds s Q L o) (hta : ccTa (cc s) = false) (ht : o = .next t) :
    (∃ m, Q m ∧ t = ccDone m) ∨ (∃ m, (m = s ∨ L m) ∧ t = ccWait m) ∨ ∃ kind code v, t = trapped s kind code v := by
  obtain ⟨r, hr, rfl⟩ := h
  cases r with
  | done m => exact .inl ⟨m, hr, (Host.Outcome.next.inj ht).symm⟩
  | wait => exact .inr (.inl ⟨s, .inl rfl, (Host.Outcome.next.inj ht).symm⟩)
  | lost m => exact .inr (.inl ⟨m, .inr hr, (Host.Outcome.next.inj ht).symm⟩)
  | trap kind code v =>
    rw [ccFinish_trap kind code v hta] at ht
    exact .inr (.inr ⟨kind, code, v, (Host.Outcome.next.inj ht).symm⟩)

end

/-- The present core changes as R says, and nothing else does. -/
def CoreTo (s : State) (R : CC → Prop) (m : State) : Prop := ∃ c, m = setCc s c ∧ R c

/-- The state of a core whose load meets a bad word (21 R471). -/
def LostWord (s m : State) : Prop := m = withFab s (coreUncorr s.fab s.site.core)

theorem coreUncorr_ccs (f : Fab) (core : Nat) : (coreUncorr f core).ccs = f.ccs := by
  unfold coreUncorr raiseFault
  repeat' split
  all_goals rfl

/-- All but the cycle count, the count of instructions, the run state and the CSRs that a trap writes. -/
structure CC.Body (c u : CC) : Prop extends CC.Rest c u where
  x : u.x = c.x
  full : u.full = c.full

/-- How a core stands after an instruction that changes only itself: changed as R says, or, where it waits or traps, as it was. -/
theorem OutEnds.core {s t : State} {R : CC → Prop} {L : State → Prop} {o : Out} (h : OutEnds s (CoreTo s R) L o) (hL : ∀ m, L m → LostWord s m)
    (hself : R (cc s)) (hta : ccTa (cc s) = false) (ht : o = .next t) :
    ∃ c, R c ∧ c.Body (ccOf t.fab s.site.core) ∧ (csrsSame c (ccOf t.fab s.site.core) ∨ c = cc s ∧ ∃ kind code v, t = trapped s kind code v) ∧
      (outsideSame s t ∨ L (withFab s (coreUncorr s.fab s.site.core)) ∧ t = ccWait (withFab s (coreUncorr s.fab s.site.core))) := by
  obtain ⟨m, ⟨c, rfl, hc⟩, rfl⟩ | ⟨m, rfl | hm, rfl⟩ | ⟨kind, code, v, rfl⟩ := h.next hta ht
  · refine ⟨c, hc, ?_, ?_, .inl (outsideSame_ccDone s c)⟩
    · rw [ccOf_ccDone]
      exact ⟨⟨rfl, rfl, rfl, portsSame.refl c⟩, rfl, rfl⟩
    · rw [ccOf_ccDone]
      exact .inl (csrsSame.refl c)
  · refine ⟨cc m, hself, ?_, ?_, .inl (outsideSame_setCc m _ _)⟩
    · rw [ccOf_ccWait]
      exact ⟨⟨rfl, rfl, rfl, portsSame.refl _⟩, rfl, rfl⟩
    · rw [ccOf_ccWait]
      exact .inl (csrsSame.refl _)
  · obtain rfl := hL m hm
    have hcc : cc (withFab s (coreUncorr s.fab s.site.core)) = cc s := congrArg (fun l : Tab CC => tget ({} : CC) l s.site.core) (coreUncorr_ccs s.fab s.site.core)
    have hu := ccOf_ccWait (withFab s (coreUncorr s.fab s.site.core))
    rw [hcc, withFab_site] at hu
    refine ⟨cc s, hself, ?_, ?_, .inr ⟨hm, rfl⟩⟩
    · rw [hu]
      exact ⟨⟨rfl, rfl, rfl, portsSame.refl _⟩, rfl, rfl⟩
    · rw [hu]
      exact .inl (csrsSame.refl _)
  · refine ⟨cc s, hself, ?_, .inr ⟨rfl, kind, code, v, rfl⟩, .inl (outsideSame_setCc s _ _)⟩
    rw [ccOf_trapped]
    exact ⟨⟨rfl, rfl, rfl, portsSame.refl _⟩, rfl, rfl⟩

section
variable {c d u : CC}

theorem csrsSame.trans (h : csrsSame c d) (h' : csrsSame d u) : csrsSame c u := by
  obtain ⟨h1, h2, h3, h4, h5, h6, h7, h8, h9, h10, h11⟩ := h
  obtain ⟨k1, k2, k3, k4, k5, k6, k7, k8, k9, k10, k11⟩ := h'
  exact ⟨k1.trans h1, k2.trans h2, k3.trans h3, k4.trans h4, k5.trans h5, k6.trans h6, k7.trans h7, k8.trans h8, k9.trans h9, k10.trans h10,
    k11.trans h11⟩

theorem portsSame.trans (h : portsSame c d) (h' : portsSame d u) : portsSame c u := by
  obtain ⟨h1, h2, h3, h4, h5, h6, h7, h8⟩ := h
  obtain ⟨k1, k2, k3, k4, k5, k6, k7, k8⟩ := h'
  exact ⟨k1.trans h1, k2.trans h2, k3.trans h3, k4.trans h4, k5.trans h5, k6.trans h6, k7.trans h7, k8.trans h8⟩

theorem CC.Rest.trans (h : c.Rest d) (h' : d.Rest u) : c.Rest u :=
  ⟨h'.dsram.trans h.dsram, h'.isram.trans h.isram, h'.owed.trans h.owed, h.ports.trans h'.ports⟩

theorem CC.Body.rget (h : d.Body u) (r : Nat) : rget u r = rget d r := by rw [Machine.rget, h.x, Machine.rget]

theorem CC.Body.isFull (h : d.Body u) (r : Nat) : isFull u r = isFull d r := by rw [Machine.isFull, h.full, Machine.isFull]

end

/-! ### Integer, load, branch and jump instructions (09 R253-R260) -/

/-- A core changes in its program counter and the register d at most. -/
structure CC.Writes (d : Option (BitVec 5)) (c u : CC) : Prop where
  rest : c.Rest u
  csrs : csrsSame c u
  regs : RegsSame (fun r => some r = d) c u

section
variable {d : Option (BitVec 5)} {c u : CC}

theorem CC.Writes.refl (d : Option (BitVec 5)) (c : CC) : c.Writes d c := ⟨CC.Rest.refl c, csrsSame.refl c, fun _ _ => ⟨rfl, rfl⟩⟩

theorem CC.Writes.pc {n : BitVec 16} (h : c.Writes d u) : c.Writes d { u with pc := n } := ⟨{ h.rest with }, h.csrs, h.regs⟩

theorem writes_rset (c : CC) (d : BitVec 5) (v : Word) : c.Writes (some d) (rset c d.toNat v) := by
  refine ⟨(CC.Rest.refl c).rset, csrsSame_rset (csrsSame.refl c), fun r hr => ?_⟩
  have hne : r.toNat ≠ d.toNat := fun h => hr (congrArg some (BitVec.eq_of_toNat_eq h))
  exact ⟨rget_rset_ne hne, isFull_rset_ne hne⟩

end

/-- An instruction that writes the register d of the present core at most, or meets a bad word. -/
abbrev PlainEnds (s : State) (d : Option (BitVec 5)) (o : Out) : Prop := OutEnds s (CoreTo s ((cc s).Writes d)) (LostWord s) o

section
variable {s : State} {d a b : BitVec 5} {p q : BitVec 1}

/-- A write of the destination, and the program counter. -/
theorem ends_write {v : Word} {pc : BitVec 16} {L : State → Prop} {n : Nat} :
    (toDest s (cc s) n { rset (cc s) d.toNat v with pc := pc }).Ends (CoreTo s ((cc s).Writes (some d))) L :=
  ends_toDest ⟨_, rfl, (writes_rset _ _ _).pc⟩

theorem ccAlu_plain {f : Word → Word → Word} : PlainEnds s (some d) (ccAlu s d a b p q f) := outEnds_ccFinish (ends_srcCheck ends_write)

theorem ccAlu1_plain {f : Word → Word} : PlainEnds s (some d) (ccAlu1 s d a p f) := outEnds_ccFinish (ends_srcCheck ends_write)

theorem ccAlu0_plain {v : Word} : PlainEnds s (some d) (ccAlu0 s d v) := outEnds_ccFinish ends_write

theorem ccLoad_plain {i : BitVec 15} {w : Nat} {f : Nat → Word} : PlainEnds s (some d) (ccLoad s d a p i w f) :=
  outEnds_ccFinish (ends_srcCheck (ite_keeps trivial (ends_sramCheck (ends_sramRead rfl fun _ => ends_write))))

theorem ccBranch_plain {o : BitVec 14} {f : Word → Word → Bool} : PlainEnds s none (ccBranch s a b p q o f) :=
  outEnds_ccFinish (ends_srcCheck ⟨_, rfl, ite_keeps (CC.Writes.refl _ _).pc (CC.Writes.refl _ _).pc⟩)

theorem execJ_plain {o : BitVec 21} : PlainEnds s none (execJ d o s) := outEnds_ccFinish (r := .done _) ⟨_, rfl, (CC.Writes.refl _ _).pc⟩

theorem execJal_plain {o : BitVec 21} : PlainEnds s (some d) (execJal d o s) := outEnds_ccFinish ends_write

theorem execFeTst_plain : PlainEnds s (some d) (execFeTst d a b p q s) := outEnds_ccFinish ends_write

theorem execFeAny_plain : PlainEnds s (some d) (execFeAny d a b p q s) := outEnds_ccFinish (ends_srcCheck (ite_keeps trivial ends_write))

theorem execFeWait_plain : PlainEnds s none (execFeWait d a b p q s) :=
  outEnds_ccFinish (ends_srcCheck (k := .done _) ⟨_, rfl, (CC.Writes.refl _ _).pc⟩)

theorem execWfe_plain : PlainEnds s none (execWfe d a b p q s) :=
  outEnds_ccFinish (ite_keeps (P := CRes.Ends _ _) ⟨_, rfl, (CC.Writes.refl _ _).pc⟩ trivial)

theorem execJalr_plain {i : BitVec 15} : PlainEnds s (some d) (execJalr d a p i s) := outEnds_ccFinish (ends_srcCheck (ite_keeps trivial ends_write))

end

/-- Every plain instruction writes its destination at most. -/
theorem exec_plain {s : State} {i : Instr} {d : Option (BitVec 5)} (hd : plainDest i = some d) : PlainEnds s d (exec i s) := by
  cases i <;> dsimp only [exec]
  case add | sub | and | or | xor | sll | srl | sra | slt | sltu | min | max | minu | maxu | addw | subw | sllw | srlw | sraw | mul | mulh
      | mulhu | mulhsu | div | divu | rem | remu =>
    obtain rfl := Option.some.inj hd
    exact ccAlu_plain
  case clz | ctz | popc | bswap | addi | andi | ori | xori | slti | sltiu | slli | srli | srai | slliw | srliw | sraiw =>
    obtain rfl := Option.some.inj hd
    exact ccAlu1_plain
  case lui | pcadd =>
    obtain rfl := Option.some.inj hd
    exact ccAlu0_plain
  case feTst =>
    obtain rfl := Option.some.inj hd
    exact execFeTst_plain
  case feAny =>
    obtain rfl := Option.some.inj hd
    exact execFeAny_plain
  case feWait =>
    obtain rfl := Option.some.inj hd
    exact execFeWait_plain
  case wfe =>
    obtain rfl := Option.some.inj hd
    exact execWfe_plain
  case lb | lh | lw | ld | lbu | lhu | lwu =>
    obtain rfl := Option.some.inj hd
    exact ccLoad_plain
  case beq | bne | blt | bge | bltu | bgeu =>
    obtain rfl := Option.some.inj hd
    exact ccBranch_plain
  case j =>
    obtain rfl := Option.some.inj hd
    exact execJ_plain
  case jal =>
    obtain rfl := Option.some.inj hd
    exact execJal_plain
  case jalr =>
    obtain rfl := Option.some.inj hd
    exact execJalr_plain
  all_goals exact nomatch hd

/-- Settles O17: a plain instruction completes with its destination written, waits, traps, or meets a bad word. -/
theorem plainInstructionsFrame : Obligations.PlainInstructionsFrame := by
  intro i d s t hd hta ht c u
  obtain ⟨e, hwrites, hbody, hcsrs, hout⟩ := (exec_plain hd).core (fun _ h => h) (CC.Writes.refl d (cc s)) hta ht
  have hrest : c.Rest u := hwrites.rest.trans hbody.toRest
  refine ⟨hout.imp id And.right, fun _ => by rw [hrest.dsram], fun _ => by rw [hrest.isram], hrest.owed, hrest.ports, fun r hr => ?_, rfl, rfl,
    hcsrs.imp hwrites.csrs.trans And.right⟩
  obtain ⟨hget, hfull⟩ := hwrites.regs r hr
  exact ⟨(hbody.rget _).trans hget, (hbody.isFull _).trans hfull⟩

/-! ### Stores (09 R258) -/

/-- A core after a store of n bytes at e. -/
structure CC.Stores (e n : Nat) (c u : CC) : Prop where
  dsram : ∀ x, x < e ∨ e + n ≤ x → mget u.dsram x = mget c.dsram x
  isram : u.isram = c.isram
  owed : u.owed = c.owed
  ports : portsSame c u
  x : u.x = c.x
  full : u.full = c.full
  csrs : csrsSame c u

theorem CC.Stores.refl (e n : Nat) (c : CC) : c.Stores e n c := ⟨fun _ _ => rfl, rfl, rfl, portsSame.refl c, rfl, rfl, csrsSame.refl c⟩

theorem stores_sramWrite (c : CC) (e n v : Nat) : c.Stores e n (adv (sramWrite c e n v)) :=
  ⟨fun _ hx => mget_mputN_outside _ _ _ _ hx, rfl, rfl, portsSame.refl c, rfl, rfl, csrsSame.refl c⟩

theorem ccStore_stores {s : State} {d a : BitVec 5} {p q : BitVec 1} {i : BitVec 14} {w : Nat} :
    OutEnds s (CoreTo s ((cc s).Stores (val s a + i.signExtend 64).toNat w)) (fun _ => False) (ccStore s d a p q i w) :=
  outEnds_ccFinish (ends_srcCheck (ite_keeps trivial (ends_sramCheck ⟨_, rfl, stores_sramWrite _ _ _ _⟩)))

theorem exec_store {s : State} {i : Instr} {n : Nat} {d a : BitVec 5} {o : BitVec 14} (hi : storeParts i = some (n, d, a, o)) :
    OutEnds s (CoreTo s ((cc s).Stores (val s a + o.signExtend 64).toNat n)) (fun _ => False) (exec i s) := by
  cases i <;> dsimp only [exec]
  case sb | sh | sw | sd =>
    cases hi
    exact ccStore_stores
  all_goals exact nomatch hi

/-- Settles O18: a store completes with its bytes written, waits, or traps. -/
theorem storesFrame : Obligations.StoresFrame := by
  intro i n d a o s t hi hta ht c u e
  obtain ⟨m, hm, hbody, hcsrs, hout⟩ := (exec_store hi).core (fun _ h => h.elim) (CC.Stores.refl _ _ (cc s)) hta ht
  refine ⟨hout.resolve_right fun h => h.1, fun x hx => ?_, fun x => ?_, hbody.x.trans hm.x, hbody.full.trans hm.full, hbody.owed.trans hm.owed,
    hm.ports.trans hbody.ports, ?_⟩
  · rw [hbody.dsram, hm.dsram x hx]
  · rw [hbody.isram, hm.isram]
  · obtain hsame | ⟨rfl, kind, code, v, htrap⟩ := hcsrs
    · exact .inl (hm.csrs.trans hsame)
    · exact .inr ⟨kind, code, v, htrap, hbody.dsram⟩

end Sys2Proof.Machine
end

section
/-! SUPPORT. What the full/empty writes, the CSR instructions, tret and the stream commands leave unchanged (09 R262-R264, R272, 10 R278-R303). -/

namespace Sys2Proof.Machine

/-! ### Full/empty writes, CSR instructions and tret (09 R262-R264, R272) -/

/-- A core after fe.clr of d. -/
structure CC.Clears (d : BitVec 5) (c u : CC) : Prop where
  rest : c.Rest u
  x : u.x = c.x
  full : ∀ r : BitVec 5, r ≠ d → isFull u r.toNat = isFull c r.toNat

theorem toNat_ne {n : Nat} {a b : BitVec n} (h : a ≠ b) : a.toNat ≠ b.toNat := fun h' => h (BitVec.eq_of_toNat_eq h')

theorem clears_rclear (c : CC) (d : BitVec 5) : c.Clears d (adv (rclear c d.toNat)) :=
  ⟨{ (CC.Rest.refl c).rclear (r := d.toNat) with }, rclear_x, fun _ hr => isFull_rclear_ne (toNat_ne hr)⟩

/-- fe.clr completes, or waits: it takes no trap. -/
theorem execFeClr_csrs {s t : State} {d a b : BitVec 5} {p q : BitVec 1} (h : exec (.feClr d a b p q) s = .next t) :
    csrsSame (cc s) (ccOf t.fab s.site.core) := by
  have hexec : exec (.feClr d a b p q) s = ccFinish s (toDest s (cc s) d.toNat (adv (rclear (cc s) d.toNat))) := rfl
  rw [hexec] at h
  cases howed : isOwed (cc s) d.toNat with
  | true =>
    rw [toDest_owed _ howed] at h
    obtain rfl : ccWait s = t := Host.Outcome.next.inj h
    rw [ccOf_ccWait]
    exact csrsSame.refl (cc s)
  | false =>
    rw [toDest_free _ howed] at h
    obtain rfl : ccDone (setCc s (adv (rclear (cc s) d.toNat))) = t := Host.Outcome.next.inj h
    rw [ccOf_ccDone]
    exact csrsSame_rclear (csrsSame.refl (cc s))

/-- A core after fe.take of a into d. -/
structure CC.Takes (d a : BitVec 5) (c u : CC) : Prop where
  rest : c.Rest u
  csrs : csrsSame c u
  regs : ∀ r : BitVec 5, r ≠ d → rget u r.toNat = rget c r.toNat ∧ (r ≠ a → isFull u r.toNat = isFull c r.toNat)

theorem takes_rset (c : CC) (d a : BitVec 5) (v : Word) : c.Takes d a (adv (rset (rclear c a.toNat) d.toNat v)) := by
  refine ⟨{ ((CC.Rest.refl c).rclear (r := a.toNat)).rset (r := d.toNat) (v := v) with },
    csrsSame_rset (r := d.toNat) (v := v) (csrsSame_rclear (r := a.toNat) (csrsSame.refl c)), fun r hr => ⟨?_, fun hra => ?_⟩⟩
  · calc rget (rset (rclear c a.toNat) d.toNat v) r.toNat = rget (rclear c a.toNat) r.toNat := rget_rset_ne (toNat_ne hr)
      _ = rget c r.toNat := by rw [rget, rclear_x, rget]
  · exact (isFull_rset_ne (toNat_ne hr)).trans (isFull_rclear_ne (toNat_ne hra))

/-- The CSRs of a core but for number n (09 R264). -/
structure CsrKept (n : Nat) (c u : CC) : Prop where
  skind : u.skind = c.skind
  scode : u.scode = c.scode
  tstat : n ≠ 0x000 → u.tstat = c.tstat
  tvec : n ≠ 0x001 → u.tvec = c.tvec
  tepc : n ≠ 0x002 → u.tepc = c.tepc
  tcause : n ≠ 0x003 → u.tcause = c.tcause
  tval : n ≠ 0x004 → u.tval = c.tval
  tscr : n ≠ 0x005 → u.tscr = c.tscr
  evpend : n ≠ 0x010 → u.evpend = c.evpend
  evmask : n ≠ 0x011 → u.evmask = c.evmask
  tcmp : n ≠ 0x012 → u.tcmp = c.tcmp

theorem CsrKept.refl (n : Nat) (c : CC) : CsrKept n c c := by constructor <;> intros <;> rfl

theorem CsrKept.trans {n : Nat} {c d u : CC} (h : CsrKept n c d) (h' : csrsSame d u) : CsrKept n c u := by
  obtain ⟨htstat, htvec, htepc, htcause, htval, htscr, hevpend, hevmask, htcmp, hskind, hscode⟩ := h'
  exact ⟨hskind.trans h.skind, hscode.trans h.scode, fun k => htstat.trans (h.tstat k), fun k => htvec.trans (h.tvec k),
    fun k => htepc.trans (h.tepc k), fun k => htcause.trans (h.tcause k), fun k => htval.trans (h.tval k), fun k => htscr.trans (h.tscr k),
    fun k => hevpend.trans (h.evpend k), fun k => hevmask.trans (h.evmask k), fun k => htcmp.trans (h.tcmp k)⟩

theorem csrPut_kept (c : CC) (n : Nat) (v : Word) : CsrKept n c (csrPut c n v) := by
  unfold csrPut
  split <;> constructor <;> simp

theorem csrPut_rest (c : CC) (n : Nat) (v : Word) : c.Rest (csrPut c n v) := by
  unfold csrPut
  split <;> exact ⟨rfl, rfl, rfl, portsSame.refl c⟩

/-- A core after a CSR instruction that names d and n. -/
structure CC.CsrWrites (d : BitVec 5) (n : Nat) (c u : CC) : Prop where
  rest : c.Rest u
  regs : RegsSame (fun r => r = d) c u
  csrs : CsrKept n c u

theorem csrWrites_refl (d : BitVec 5) (n : Nat) (c : CC) : c.CsrWrites d n c := ⟨CC.Rest.refl c, fun _ _ => ⟨rfl, rfl⟩, CsrKept.refl n c⟩

theorem csrWrites_csrPut (d : BitVec 5) (n : Nat) (c : CC) (v : Word) : c.CsrWrites d n (csrPut c n v) := by
  refine ⟨csrPut_rest c n v, fun r _ => ?_, csrPut_kept c n v⟩
  obtain ⟨hx, hfull, -⟩ := sameRegs_csrPut c n v
  exact ⟨by rw [rget, hx, rget], by rw [isFull, hfull, isFull]⟩

theorem CC.CsrWrites.rset {d : BitVec 5} {n : Nat} {c u : CC} {v : Word} (h : c.CsrWrites d n u) : c.CsrWrites d n (adv (rset u d.toNat v)) := by
  refine ⟨{ h.rest.rset (r := d.toNat) (v := v) with }, fun r hr => ?_,
    h.csrs.trans (csrsSame_rset (r := d.toNat) (v := v) (csrsSame.refl u))⟩
  obtain ⟨hget, hfull⟩ := h.regs r hr
  exact ⟨(rget_rset_ne (toNat_ne hr)).trans hget, (isFull_rset_ne (toNat_ne hr)).trans hfull⟩

/-- A core after tret. -/
structure CC.Returns (c u : CC) : Prop where
  rest : c.Rest u
  x : u.x = c.x
  full : u.full = c.full
  csrs : csrsSame { c with tstat := u.tstat } u

section
variable {s : State} {d a b : BitVec 5} {p q : BitVec 1}

theorem execFeClr_ends : OutEnds s (CoreTo s ((cc s).Clears d)) (fun _ => False) (exec (.feClr d a b p q) s) :=
  outEnds_ccFinish (ends_toDest ⟨_, rfl, clears_rclear _ _⟩)

theorem execFeTake_ends : OutEnds s (CoreTo s ((cc s).Takes d a)) (fun _ => False) (exec (.feTake d a b p q) s) :=
  outEnds_ccFinish (ends_srcCheck (ends_toDest ⟨_, rfl, takes_rset _ _ _ _⟩))

theorem execTret_ends : OutEnds s (CoreTo s (cc s).Returns) (fun _ => False) (exec (.tret d a b p q) s) :=
  outEnds_ccFinish (ite_keeps (P := CRes.Ends _ _) trivial
    ⟨_, rfl, ⟨rfl, rfl, rfl, portsSame.refl _⟩, rfl, rfl, csrsSame.refl { cc s with tstat := (trapReturn (cc s)).tstat }⟩)

theorem ccCsr_ends {op : Nat} {n : BitVec 12} : OutEnds s (CoreTo s ((cc s).CsrWrites d n.toNat)) (fun _ => False) (ccCsr s op d a p n) := by
  refine outEnds_ccFinish (ite_keeps trivial (ite_keeps trivial (ite_keeps trivial (ends_srcCheck (ends_toDest ⟨_, rfl, ?_⟩)))))
  exact CC.CsrWrites.rset (ite_keeps (csrWrites_csrPut _ _ _ _) (csrWrites_refl _ _ _))

end

/-! ### What a command does to its core -/

/-- A core that a command with reply register r has changed: no register or SRAM word, no full or owed bit but r's, no CSR but the pending events. -/
structure CC.Commanded (r : BitVec 5) (c u : CC) : Prop where
  x : u.x = c.x
  dsram : u.dsram = c.dsram
  isram : u.isram = c.isram
  started : u.started = c.started
  regs : ∀ x : BitVec 5, x ≠ r → isFull u x.toNat = isFull c x.toNat ∧ isOwed u x.toNat = isOwed c x.toNat
  csrs : csrsSame { c with evpend := u.evpend } u

section
variable {r : BitVec 5} {c d u : CC}

theorem CC.Commanded.refl (r : BitVec 5) (c : CC) : c.Commanded r c := ⟨rfl, rfl, rfl, rfl, fun _ _ => ⟨rfl, rfl⟩, csrsSame.refl c⟩

theorem CC.Commanded.kept (h : c.Commanded r d) (k : d.Kept u) : c.Commanded r u where
  x := k.x.trans h.x
  dsram := k.dsram.trans h.dsram
  isram := k.isram.trans h.isram
  started := k.started.trans h.started
  regs x hx := by
    obtain ⟨hfull, howed⟩ := h.regs x hx
    exact ⟨by rw [isFull, k.full, ← hfull, isFull], by rw [isOwed, k.owed, ← howed, isOwed]⟩
  csrs := by
    obtain ⟨htstat, htvec, htepc, htcause, htval, htscr, -, hevmask, htcmp, hskind, hscode⟩ := h.csrs
    exact ⟨k.tstat.trans htstat, k.tvec.trans htvec, k.tepc.trans htepc, k.tcause.trans htcause, k.tval.trans htval, k.tscr.trans htscr, rfl,
      k.evmask.trans hevmask, k.tcmp.trans htcmp, k.skind.trans hskind, k.scode.trans hscode⟩

theorem isFull_rowe_ne {r x : Nat} (h : x ≠ r) : isFull (rowe c r) x = isFull c x := by
  have hclear := isFull_rclear_ne (c := c) h
  unfold rclear at hclear
  unfold rowe
  split
  · rfl
  next hr =>
    rw [if_neg hr] at hclear
    exact hclear

theorem isOwed_rowe_ne {r x : Nat} (h : x ≠ r) : isOwed (rowe c r) x = isOwed c x := by
  unfold rowe
  split
  · rfl
  · simp [isOwed, getLsbD_bit_ne h]

/-- Owing the reply register a fill is what a command may do to the registers. -/
theorem CC.Commanded.rowe (h : c.Commanded r d) : c.Commanded r (rowe d r.toNat) := by
  have hregs (x : BitVec 5) (hx : x ≠ r) :
      isFull (Machine.rowe d r.toNat) x.toNat = isFull c x.toNat ∧ isOwed (Machine.rowe d r.toNat) x.toNat = isOwed c x.toNat := by
    obtain ⟨hfull, howed⟩ := h.regs x hx
    exact ⟨(isFull_rowe_ne (toNat_ne hx)).trans hfull, (isOwed_rowe_ne (toNat_ne hx)).trans howed⟩
  unfold Machine.rowe at hregs ⊢
  split
  · exact h
  next hr =>
    simp only [if_neg hr] at hregs
    exact { h with regs := hregs }

theorem CC.Commanded.adv (h : c.Commanded r d) : c.Commanded r (adv d) := { h with }

theorem commanded_adv (r : BitVec 5) (c : CC) : c.Commanded r (adv c) := (CC.Commanded.refl r c).adv

theorem commanded_issued (r : BitVec 5) (c : CC) (mems : BitVec 9) (hub : Bool) : c.Commanded r (issued c r.toNat mems hub) :=
  { (commanded_adv r c).rowe with }

theorem commanded_owing (r : BitVec 5) (c : CC) : c.Commanded r (adv (rowe c r.toNat)) := (CC.Commanded.refl r c).rowe.adv

end

end Sys2Proof.Machine
end

section
/-! SUPPORT. What each stream command does outside its registers: to the cores, and to the bytes of the tiles (10 R277-R303). -/

namespace Sys2Proof.Machine

/-! ### Round controller, ports and commands of the fabric -/

/-- A fabric that a command with reply register r of the present core has changed: that core as a command may, and no byte of a tile memory. -/
structure Fab.Commanded (s : State) (r : BitVec 5) (g : Fab) : Prop where
  core : (cc s).Commanded r (ccOf g s.site.core)
  tiles : WritesOnly 0 (fun _ => False) s.fab g

section
variable {s : State} {r : BitVec 5} {f : Fab}

theorem Fab.Commanded.refl (s : State) (r : BitVec 5) : Fab.Commanded s r s.fab := ⟨CC.Commanded.refl r _, WritesOnly.refl⟩

/-- A change of the present core as a command may. -/
theorem commanded_setCc {c : CC} (h : (cc s).Commanded r c) : Fab.Commanded s r (setCc s c).fab := by
  refine ⟨?_, WritesOnly.refl.sameElems rfl⟩
  rw [ccOf_setCc_same]
  exact h

theorem Fab.Commanded.modCc {n : Nat} {k : CC → CC} (h : Fab.Commanded s r f) (hk : (ccOf f n).Kept (k (ccOf f n))) :
    Fab.Commanded s r (modCc f n k) := by
  refine ⟨?_, h.tiles.core⟩
  by_cases hn : s.site.core = n
  · subst hn
    rw [ccOf_modCc_same]
    exact h.core.kept hk
  · rw [ccOf_modCc_ne _ _ hn]
    exact h.core

theorem Fab.Commanded.elem {k : Nat} {u : Elem → Elem} (h : Fab.Commanded s r f) (hu : ∀ e, SameTiles e (u e)) :
    Fab.Commanded s r (modElem f k u) := ⟨h.core, h.tiles.elem hu⟩

theorem Fab.Commanded.region {rid : Nat} {u : Region → Region} (h : Fab.Commanded s r f) : Fab.Commanded s r (modRegion f rid u) :=
  ⟨h.core, h.tiles.region⟩

theorem Fab.Commanded.sendFill {core reg : Nat} {v : Word} (h : Fab.Commanded s r f) : Fab.Commanded s r (sendFill f core reg v) :=
  ite_keeps (P := Fab.Commanded s r) h ⟨h.core, h.tiles.sameElems rfl⟩

theorem Fab.Commanded.cmdDone {core id : Nat} (h : Fab.Commanded s r f) : Fab.Commanded s r (cmdDone f core id) :=
  h.modCc (by constructor <;> rfl)

theorem Fab.Commanded.cmdReply {core id reg : Nat} {v : Word} (h : Fab.Commanded s r f) : Fab.Commanded s r (cmdReply f core id reg v) :=
  h.cmdDone.sendFill

theorem Fab.Commanded.regionEvent {g : Region} {m : BitVec 6} (h : Fab.Commanded s r f) : Fab.Commanded s r (regionEvent f g m) :=
  foldl_keeps h fun _ _ h1 => h1.modCc (by constructor <;> rfl)

theorem kept_serveOne {c : CC} {port : Nat} : OptAll (fun q => c.Kept q.1) (serveOne c port) := by
  unfold serveOne
  dsimp only
  split
  · exact trivial
  split
  · exact { CC.Kept.refl c with }
  split
  · exact trivial
  · exact { CC.Kept.refl c with }

theorem kept_serveSink {n : Nat} {c : CC} {port : Nat} : c.Kept (serveSink n c port).1 := by
  induction n generalizing c with
  | zero => exact CC.Kept.refl c
  | succ n ih =>
    unfold serveSink
    split
    · exact CC.Kept.refl c
    next heq => exact CC.Kept.trans (kept_serveOne.get heq) ih

theorem Fab.Commanded.serveCore {core port : Nat} (h : Fab.Commanded s r f) : Fab.Commanded s r (serveCore f core port) :=
  foldl_keeps (P := Fab.Commanded s r) (h.modCc kept_serveSink) fun _ _ h1 => h1.sendFill

theorem Fab.Commanded.vinBoth {core port : Nat} {g : Vin → Vin} (h : Fab.Commanded s r f) : Fab.Commanded s r (vinBoth f core port g) := by
  unfold Machine.vinBoth
  dsimp only
  split
  · exact h.modCc { CC.Kept.refl _ with }
  · exact (h.modCc { CC.Kept.refl _ with }).modCc { CC.Kept.refl _ with }

theorem Fab.Commanded.earlyEdge {core ctx : Nat} (h : Fab.Commanded s r f) : Fab.Commanded s r (earlyEdge f core ctx) := by
  unfold Machine.earlyEdge
  split
  · exact h
  · exact ite_keeps h.region h

theorem Fab.Commanded.wcSettle {core : Nat} (h : Fab.Commanded s r f) : Fab.Commanded s r (wcSettle f core) :=
  foldl_keeps (P := Fab.Commanded s r) (h.modCc { CC.Kept.refl _ with }) fun _ _ h1 => h1.sendFill

theorem Fab.Commanded.kwrRun {key plane : Nat} (h : Fab.Commanded s r f) : Fab.Commanded s r (kwrRun f key plane) :=
  foldl_keeps (P := Fab.Commanded s r) (h.elem fun _ => ⟨rfl, rfl⟩) fun _ _ h1 => h1.cmdDone

theorem Fab.Commanded.sendDrift {did kind : Nat} {reply : Option (Nat × Nat × Nat)} (h : Fab.Commanded s r f) :
    Fab.Commanded s r (sendDrift f did kind reply) := h.region

theorem Fab.Commanded.selectSpine {g : Region} {n : Nat} (h : Fab.Commanded s r f) : Fab.Commanded s r (selectSpine f g n) :=
  foldl_keeps (P := Fab.Commanded s r) h fun _ _ h1 => h1.elem fun _ => ⟨rfl, rfl⟩

theorem Fab.Commanded.endLease {rid : Nat} (h : Fab.Commanded s r f) : Fab.Commanded s r (endLease f rid) := by
  unfold Machine.endLease
  split
  · exact h
  · exact h.region.selectSpine

theorem Fab.Commanded.agPush {key : Nat} {x : AgCmd} (h : Fab.Commanded s r f) : Fab.Commanded s r (agPush f key x) := h.elem fun _ => ⟨rfl, rfl⟩

theorem Fab.Commanded.raiseFault {core ctx : Nat} {x : FaultRec} (h : Fab.Commanded s r f) : Fab.Commanded s r (raiseFault f core ctx x) := by
  unfold Machine.raiseFault
  split
  · exact h
  · exact h.region

theorem Fab.Commanded.coreUncorr {core : Nat} (h : Fab.Commanded s r f) : Fab.Commanded s r (coreUncorr f core) := by
  unfold Machine.coreUncorr
  split
  · exact h
  split
  · exact h
  · exact ite_keeps h h.raiseFault

end

/-! ### How a command ends (10 R278) -/

/-- The state of a command that completes, or that meets a bad word. -/
def Commands (s : State) (r : BitVec 5) (m : State) : Prop := m.site = s.site ∧ Fab.Commanded s r m.fab

/-- An instruction that ends as a command does. -/
abbrev CommandEnds (s : State) (r : BitVec 5) (o : Out) : Prop := OutEnds s (Commands s r) (Commands s r) o

section
variable {s : State} {r : BitVec 5}

theorem ends_ccCmd {word : Word} {reg : Nat} {req bad : Bool} {desc : Option (Nat × Bool)} {wait : Bool} {body : Word → CRes}
    (hbody : ∀ x, (body x).Ends (Commands s r) (Commands s r)) : CommandEnds s r (ccCmd s word reg req bad desc wait body) :=
  outEnds_ccFinish (ite_keeps trivial (ite_keeps trivial (ends_srcCheck (ite_keeps trivial (hbody _)))))

theorem ends_withBlock {d : Word} {n : Nat} {k : Nat → CRes} (hk : ∀ x, (k x).Ends (Commands s r) (Commands s r)) :
    (withBlock s d n k).Ends (Commands s r) (Commands s r) :=
  ite_keeps trivial (ite_keeps trivial (ends_sramRead ⟨rfl, (Fab.Commanded.refl s r).coreUncorr⟩ hk))

/-- A command that completes with its core and the fabric changed. -/
theorem ends_thenFab {m : State} {g : Fab → Fab} (hsite : m.site = s.site) (h : Fab.Commanded s r (g m.fab)) :
    (thenFab m g).Ends (Commands s r) (Commands s r) := ⟨hsite, h⟩

theorem ends_quick : (CRes.done (quick s r.toNat)).Ends (Commands s r) (Commands s r) := ⟨rfl, commanded_setCc (commanded_owing r _)⟩

theorem commanded_quick : Fab.Commanded s r (quick s r.toNat).fab := commanded_setCc (commanded_owing r _)

theorem commanded_issue {mems : BitVec 9} {hub : Bool} : Fab.Commanded s r (setCc s (issued (cc s) r.toNat mems hub)).fab :=
  commanded_setCc (commanded_issued r _ _ _)

end

/-! ### The commands -/

section
variable {s : State} {r a : BitVec 5} {p : BitVec 1}

theorem execInject_ends {l : BitVec 3} {n : BitVec 4} : CommandEnds s 0 (execInject a p l n s) := by
  unfold execInject
  exact ends_ccCmd fun _ => ends_thenFab rfl (commanded_setCc (commanded_adv _ _)).vinBoth

theorem execVend_ends {n : BitVec 4} : CommandEnds s 0 (execVend a p n s) := by
  unfold execVend
  exact ends_ccCmd fun _ => ends_thenFab rfl (commanded_setCc (commanded_adv _ _)).vinBoth

theorem execRdout_ends {n : BitVec 4} : CommandEnds s r (execRdout r a p n s) := by
  unfold execRdout
  refine ends_ccCmd fun _ => ends_thenFab rfl (Fab.Commanded.serveCore (commanded_setCc ?_))
  exact { commanded_owing r (cc s) with }

theorem execAccrst_ends {j : BitVec 3} : CommandEnds s 0 (execAccrst a p j s) := by
  unfold execAccrst
  refine ends_ccCmd fun _ => ite_keeps trivial (ends_thenFab rfl (Fab.Commanded.serveCore (commanded_setCc ?_)))
  exact { commanded_adv 0 (cc s) with }

theorem execRdacc_ends {j : BitVec 3} : CommandEnds s r (execRdacc r a p j s) := by
  unfold execRdacc
  exact ends_ccCmd fun _ => ends_thenFab rfl commanded_quick.sendFill

theorem execVbind_ends {n : BitVec 4} : CommandEnds s 0 (execVbind a p n s) := by
  unfold execVbind
  exact ends_ccCmd fun _ => ite_keeps trivial (ends_thenFab rfl (commanded_setCc (commanded_adv _ _)).vinBoth)

theorem execRmark_ends : CommandEnds s 0 (execRmark a p s) := by
  unfold execRmark
  exact ends_ccCmd fun _ => ite_keeps trivial (ends_thenFab rfl commanded_quick.earlyEdge)

theorem execWcommit_ends : CommandEnds s r (execWcommit r a p s) := by
  unfold execWcommit
  refine ends_ccCmd fun _ => ite_keeps trivial (ends_thenFab rfl (Fab.Commanded.wcSettle (commanded_setCc ?_)))
  exact { commanded_owing r (cc s) with }

theorem ccFence_ends {sc : Nat} : CommandEnds s 0 (ccFence s sc) := ends_ccCmd fun _ => ends_quick

theorem ccDrain_ends {m : BitVec 9} : CommandEnds s 0 (ccDrain s m) := ends_ccCmd fun _ => ends_quick

theorem execKwr_ends : CommandEnds s 0 (execKwr a p s) := by
  unfold execKwr
  refine ite_keeps (outEnds_ccFinish trivial) (ends_ccCmd fun _ => ends_withBlock fun _ => ?_)
  extract_lets place
  clear_value place
  cases place with
  | none => exact trivial
  | some key =>
    refine ite_keeps trivial (ends_thenFab rfl (Fab.Commanded.kwrRun (Fab.Commanded.elem (Fab.Commanded.cmdDone ?_) fun _ => ⟨rfl, rfl⟩)))
    exact commanded_issue (r := 0)

theorem execCopy_ends {n : BitVec 4} : CommandEnds s r (execCopy r a p n s) := by
  unfold execCopy
  refine ends_ccCmd fun _ => ends_withBlock fun _ => ite_keeps trivial (ite_keeps trivial ?_)
  split
  · exact trivial
  split
  · exact trivial
  · exact ends_thenFab rfl commanded_issue.agPush

theorem execSbind_ends {n : BitVec 4} : CommandEnds s r (execSbind r a p n s) := by
  unfold execSbind
  exact ends_ccCmd fun _ => ends_withBlock fun _ => ite_keeps trivial (ends_thenFab rfl commanded_issue.agPush)

theorem execAflush_ends {n : BitVec 4} : CommandEnds s r (execAflush r a p n s) := by
  unfold execAflush
  exact ends_ccCmd fun _ => ite_keeps trivial (ends_thenFab rfl commanded_issue.agPush)

theorem ccAmo_ends {op : Nat} {n : BitVec 4} : CommandEnds s r (ccAmo s op r a p n) := by
  unfold ccAmo
  refine ends_ccCmd fun _ => ends_withBlock fun _ => ?_
  refine ite_keeps trivial (ite_keeps trivial (ite_keeps trivial (ite_keeps trivial (ite_keeps trivial (ends_thenFab rfl ?_)))))
  refine Fab.Commanded.elem (commanded_setCc ?_) fun _ => ⟨rfl, rfl⟩
  exact ite_keeps (P := (cc s).Commanded r) { commanded_issued r (cc s) 1 false with } (commanded_issued r _ _ _)

theorem execSwap_ends : CommandEnds s r (execSwap r a p s) := by
  unfold execSwap
  refine ends_ccCmd fun d => ends_withBlock fun b => ite_keeps trivial ?_
  split
  · exact ⟨rfl, commanded_setCc (commanded_adv r (cc s))⟩
  extract_lets t refuse
  have ht : Fab.Commanded s r t.fab := commanded_issue
  have hrefuse (code : Word) : (refuse code).Ends (Commands s r) (Commands s r) := ends_thenFab rfl ht.cmdReply.regionEvent
  exact ite_keeps (hrefuse 3) (ite_keeps (hrefuse 2) (ends_thenFab rfl ht.region))

theorem ccDrift_ends {kind cmd : Nat} : CommandEnds s r (ccDrift s kind cmd r a p) := by
  unfold ccDrift
  refine ends_ccCmd fun d => ite_keeps trivial ?_
  extract_lets t answer
  have ht : Fab.Commanded s r t.fab := commanded_issue
  have hanswer (v : Word) : (answer v).Ends (Commands s r) (Commands s r) := ends_thenFab rfl ht.cmdReply
  split
  · exact hanswer 1
  split
  · exact hanswer 1
  exact ite_keeps (ends_thenFab rfl ht.region) (ite_keeps (hanswer 2) (ite_keeps (ends_thenFab rfl ht.region.cmdReply)
    (ends_thenFab rfl ht.sendDrift)))

theorem execLease_ends : CommandEnds s r (execLease r a p s) := by
  unfold execLease
  refine ends_ccCmd fun d => ite_keeps trivial ?_
  extract_lets t
  have ht : Fab.Commanded s r t.fab := commanded_issue
  split
  · exact ends_thenFab rfl ht.cmdReply
  · have hnext : Fab.Commanded s r { t.fab with nextLease := t.fab.nextLease + 1 } := ⟨ht.core, ht.tiles.sameElems rfl⟩
    exact ite_keeps (ends_thenFab rfl ht.cmdReply) (ends_thenFab rfl hnext.region.selectSpine.cmdReply)

theorem execLeaseEnd_ends : CommandEnds s 0 (execLeaseEnd a p s) := by
  unfold execLeaseEnd
  refine ends_ccCmd fun _ => ?_
  split
  · exact ends_quick
  · exact ite_keeps (ends_thenFab rfl commanded_quick.endLease) ends_quick

theorem execLaunch_ends : CommandEnds s r (execLaunch r a p s) := by
  unfold execLaunch
  refine ends_ccCmd fun _ => ite_keeps trivial (ite_keeps trivial ?_)
  dsimp only
  split
  · exact ⟨rfl, commanded_issue⟩
  · exact ⟨rfl, commanded_issue⟩

theorem ccXinv_ends {kind cmd : Nat} : CommandEnds s 0 (ccXinv s kind cmd a p) := by
  unfold ccXinv
  refine ite_keeps (outEnds_ccFinish trivial) (ends_ccCmd fun _ => ?_)
  exact ite_keeps trivial (ite_keeps trivial ⟨rfl, commanded_issue⟩)

end

theorem exec_command {s : State} {i : Instr} {r : BitVec 5} (hi : commandReply i = some r) : CommandEnds s r (exec i s) := by
  cases i <;> dsimp only [exec]
  case inject => cases hi; exact execInject_ends
  case vend => cases hi; exact execVend_ends
  case rdout => cases hi; exact execRdout_ends
  case accrst => cases hi; exact execAccrst_ends
  case rdacc => cases hi; exact execRdacc_ends
  case vbind => cases hi; exact execVbind_ends
  case rmark => cases hi; exact execRmark_ends
  case wcommit => cases hi; exact execWcommit_ends
  case fencePl | fenceRg | fencePt | fenceSy => cases hi; exact ccFence_ends
  case drainDm | drainSp | drainHm | drainCf => cases hi; exact ccDrain_ends
  case kwr => cases hi; exact execKwr_ends
  case copy => cases hi; exact execCopy_ends
  case sbind => cases hi; exact execSbind_ends
  case aflush => cases hi; exact execAflush_ends
  case amoAddCmd | amoMinCmd | amoMaxCmd | amoAndCmd | amoOrCmd | amoXorCmd | amoXchgCmd | amoCasCmd => cases hi; exact ccAmo_ends
  case swap => cases hi; exact execSwap_ends
  case revoke | relend => cases hi; exact ccDrift_ends
  case lease => cases hi; exact execLease_ends
  case leaseEnd => cases hi; exact execLeaseEnd_ends
  case launch => cases hi; exact execLaunch_ends
  case xinvVa | xinvFn | xinvPart => cases hi; exact ccXinv_ends
  all_goals exact nomatch hi

/-- A command that completes. -/
theorem Commands.done {s m : State} {r : BitVec 5} (h : Commands s r m) : Commands s r (ccDone m) := by
  obtain ⟨hsite, hcore, htiles⟩ := h
  refine ⟨hsite, ?_, htiles.sameElems rfl⟩
  rw [← hsite] at hcore ⊢
  rw [ccDone, ccOf_setCc_same]
  exact { hcore with }

/-- A command that waits. -/
theorem Commands.wait {s m : State} {r : BitVec 5} (h : Commands s r m) : Commands s r (ccWait m) := by
  obtain ⟨hsite, hcore, htiles⟩ := h
  refine ⟨hsite, ?_, htiles.sameElems rfl⟩
  rw [← hsite] at hcore ⊢
  rw [ccOf_ccWait]
  exact { hcore with }

/-- What a command leaves, whether it completes, waits, meets a bad word or traps. -/
theorem exec_command_next {s t : State} {i : Instr} {r : BitVec 5} (hi : commandReply i = some r) (hta : ccTa (cc s) = false)
    (ht : exec i s = .next t) : Commands s r t ∨ ∃ kind code v, t = trapped s kind code v := by
  obtain ⟨m, hm, rfl⟩ | ⟨m, hm, rfl⟩ | htrap := (exec_command hi).next hta ht
  · exact .inl hm.done
  · obtain rfl | hm := hm
    · exact .inl (Commands.wait ⟨rfl, Fab.Commanded.refl _ r⟩)
    · exact .inl hm.wait
  · exact .inr htrap

/-! ### The claim -/

/-- An instruction that meets no bad word changes nothing but its core. -/
theorem OutEnds.coreOnly {s t : State} {R : CC → Prop} {o : Out} (h : OutEnds s (CoreTo s R) (fun _ => False) o) (hself : R (cc s))
    (hta : ccTa (cc s) = false) (ht : o = .next t) :
    outsideSame s t ∧ ∃ e, R e ∧ e.Body (ccOf t.fab s.site.core) ∧
      (csrsSame e (ccOf t.fab s.site.core) ∨ ∃ kind code v, t = trapped s kind code v) := by
  obtain ⟨e, he, hbody, hcsrs, hout⟩ := h.core (fun _ h => h.elim) hself hta ht
  exact ⟨hout.resolve_right fun h => h.1, e, he, hbody, hcsrs.imp id And.right⟩

section
variable {s t : State} {i : Instr} {d a b : BitVec 5} {p q : BitVec 1} {n : BitVec 12} (hta : ccTa (cc s) = false)
include hta

theorem feClr_frame (ht : exec (.feClr d a b p q) s = .next t) :
    outsideSame s t ∧ (cc s).Rest (ccOf t.fab s.site.core) ∧ (cc s).Clears d (ccOf t.fab s.site.core) := by
  obtain ⟨hout, e, he, hbody, -⟩ := execFeClr_ends.coreOnly ⟨CC.Rest.refl _, rfl, fun _ _ => rfl⟩ hta ht
  have hrest := he.rest.trans hbody.toRest
  exact ⟨hout, hrest, hrest, hbody.x.trans he.x, fun r hr => (hbody.isFull _).trans (he.full r hr)⟩

theorem feTake_frame (ht : exec (.feTake d a b p q) s = .next t) :
    outsideSame s t ∧ (cc s).Rest (ccOf t.fab s.site.core) ∧ (csrsSame (cc s) (ccOf t.fab s.site.core) ∨ ∃ kind code v, t = trapped s kind code v) ∧
      ∀ r : BitVec 5, r ≠ d → rget (ccOf t.fab s.site.core) r.toNat = rget (cc s) r.toNat ∧
        (r ≠ a → isFull (ccOf t.fab s.site.core) r.toNat = isFull (cc s) r.toNat) := by
  obtain ⟨hout, e, he, hbody, hcsrs⟩ := execFeTake_ends.coreOnly ⟨CC.Rest.refl _, csrsSame.refl _, fun _ _ => ⟨rfl, fun _ => rfl⟩⟩ hta ht
  refine ⟨hout, he.rest.trans hbody.toRest, hcsrs.imp he.csrs.trans id, fun r hr => ?_⟩
  obtain ⟨hget, hfull⟩ := he.regs r hr
  exact ⟨(hbody.rget _).trans hget, fun hra => (hbody.isFull _).trans (hfull hra)⟩

theorem csr_frame (hi : i = .csrrw d a p n ∨ i = .csrrs d a p n ∨ i = .csrrc d a p n) (ht : exec i s = .next t) :
    outsideSame s t ∧ (cc s).Rest (ccOf t.fab s.site.core) ∧ RegsSame (fun r => r = d) (cc s) (ccOf t.fab s.site.core) ∧
      (CsrKept n.toNat (cc s) (ccOf t.fab s.site.core) ∨ ∃ kind code v, t = trapped s kind code v) := by
  have hends : OutEnds s (CoreTo s ((cc s).CsrWrites d n.toNat)) (fun _ => False) (exec i s) := by
    obtain rfl | rfl | rfl := hi <;> exact ccCsr_ends
  obtain ⟨hout, e, he, hbody, hcsrs⟩ := hends.coreOnly (csrWrites_refl _ _ _) hta ht
  refine ⟨hout, he.rest.trans hbody.toRest, fun r hr => ?_, hcsrs.imp he.csrs.trans id⟩
  obtain ⟨hget, hfull⟩ := he.regs r hr
  exact ⟨(hbody.rget _).trans hget, (hbody.isFull _).trans hfull⟩

theorem tret_frame (ht : exec (.tret d a b p q) s = .next t) :
    outsideSame s t ∧ (cc s).Rest (ccOf t.fab s.site.core) ∧ (ccOf t.fab s.site.core).x = (cc s).x ∧ (ccOf t.fab s.site.core).full = (cc s).full ∧
      (csrsSame { cc s with tstat := (ccOf t.fab s.site.core).tstat } (ccOf t.fab s.site.core) ∨ ∃ kind code v, t = trapped s kind code v) := by
  obtain ⟨hout, e, he, hbody, hcsrs⟩ := execTret_ends.coreOnly ⟨CC.Rest.refl _, rfl, rfl, csrsSame.refl _⟩ hta ht
  refine ⟨hout, he.rest.trans hbody.toRest, hbody.x.trans he.x, hbody.full.trans he.full, hcsrs.imp (fun h => ?_) id⟩
  have htstat : (ccOf t.fab s.site.core).tstat = e.tstat := h.1
  rw [htstat]
  exact he.csrs.trans h

end

/-- Settles O19: each of the four kinds of instruction by how it ends, and the commands by theirs. -/
theorem systemInstructionsFrame : Obligations.SystemInstructionsFrame := by
  constructor
  · intro i d a b p q n s t hta ht c u csr traps
    refine ⟨fun hi => ?_, fun hi => ?_, fun hi => ?_, fun hi => ?_, fun hi => ?_⟩
    · have hrest : outsideSame s t ∧ c.Rest u := by
        obtain rfl | rfl | rfl | hcsr := hi
        · exact (feClr_frame hta ht).imp_right And.left
        · exact (feTake_frame hta ht).imp_right And.left
        · exact (tret_frame hta ht).imp_right And.left
        · exact (csr_frame hta hcsr ht).imp_right And.left
      obtain ⟨hout, hdsram, hisram, howed, hports⟩ := hrest
      exact ⟨hout, hdsram, hisram, howed, hports⟩
    · subst hi
      obtain ⟨-, -, -, hx, hfull⟩ := feClr_frame hta ht
      exact ⟨hx, execFeClr_csrs ht, hfull⟩
    · subst hi
      obtain ⟨-, -, hframe⟩ := feTake_frame hta ht
      exact hframe
    · obtain ⟨-, -, hregs, hcsrs⟩ := csr_frame hta hi ht
      have hn {k : BitVec 12} (h : n ≠ k) : n.toNat ≠ k.toNat := toNat_ne h
      exact ⟨hregs, hcsrs.symm.imp id fun k => ⟨k.skind, k.scode, fun h => k.tstat (hn h), fun h => k.tvec (hn h), fun h => k.tepc (hn h),
        fun h => k.tcause (hn h), fun h => k.tval (hn h), fun h => k.tscr (hn h), fun h => k.evpend (hn h), fun h => k.evmask (hn h),
        fun h => k.tcmp (hn h)⟩⟩
    · subst hi
      obtain ⟨-, -, hx, hfull, hcsrs⟩ := tret_frame hta ht
      exact ⟨hx, hfull, hcsrs.symm⟩
  · intro i r s t hi hta ht c u
    obtain ⟨-, hcore, htiles⟩ | ⟨kind, code, v, rfl⟩ := exec_command_next hi hta ht
    · exact ⟨hcore.x, hcore.dsram, hcore.isram, hcore.started, hcore.regs, .inl hcore.csrs, htiles.tilesSame⟩
    · have hu : u = trapEntry (ccTick s.free c) kind code v c.pc := ccOf_trapped s kind code v
      rw [hu]
      exact ⟨rfl, rfl, rfl, rfl, fun _ _ => ⟨rfl, rfl⟩, .inr ⟨kind, code, v, rfl⟩, fun _ _ => ⟨rfl, rfl⟩⟩

end Sys2Proof.Machine
end

section
/-! SUPPORT. Stream commands that meet their conditions: how they issue, wait and trap (10 R278-R281). -/

namespace Sys2Proof.Machine

theorem ofNat_fld (x lo n : Nat) : BitVec.ofNat n (fld x lo n) = BitVec.ofNat n (x / 2 ^ lo) :=
  BitVec.eq_of_toNat_eq (by simp [fld])

section
variable {s t : State} {word : Word} {r a : BitVec 5} {req bad w wait : Bool} {body : Word → CRes}

/-- A command issues, and its body completes on the value of its descriptor register. -/
theorem ccCmd_desc_done (h : canIssue s r [a]) (hreq : (req && r.toNat == 0) = false) (hbad : bad = false) (hwait : wait = false)
    (hbody : body (val s a) = .done t) : ccCmd s word r.toNat req bad (some (a.toNat, w)) wait body = .next (ccDone t) := by
  subst hbad hwait
  rw [ccCmd_desc h hreq, hbody]
  rfl

/-- The same for a command without a descriptor. -/
theorem ccCmd_none_done (h : canIssue s r []) (hreq : (req && r.toNat == 0) = false) (hbad : bad = false) (hwait : wait = false)
    (hbody : body 0 = .done t) : ccCmd s word r.toNat req bad none wait body = .next (ccDone t) := by
  subst hbad hwait
  rw [ccCmd_none h hreq, hbody]
  rfl

/-- The same for a command that reads a block of the data SRAM. -/
theorem ccCmd_block_done {n b : Nat} {body : Word → Nat → CRes} (h : canIssue s r [a]) (hreq : (req && r.toNat == 0) = false)
    (hwait : wait = false) (hblock : blockAt s a n b) (hn : 0 < n) (hbody : body (val s a) b = .done t) :
    ccCmd s word r.toNat req false (some (a.toNat, w)) wait (fun d => withBlock s d n (body d)) = .next (ccDone t) :=
  ccCmd_desc_done h hreq rfl hwait ((withBlock_next _ hblock hn).trans hbody)

/-- A command whose port is in the wrong state traps with ILLOP (10 R278). -/
theorem ccCmd_illop {reg : Nat} {desc : Option (Nat × Bool)} (hbad : bad = true) (hta : ccTa (cc s) = false) :
    ccCmd s word reg req bad desc wait body = .next (trapped s 0 1 word) := by
  simp only [ccCmd, hbad, if_true, ite_self]
  exact ccFinish_trap 0 1 word hta

/-- A command without a descriptor waits for room in its queue, or for what it drains. -/
theorem ccCmd_none_wait {reg : Nat} (hwait : wait = true) : ccCmd s word reg false false none wait body = .next (ccWait s) := by
  have hcheck (k : CRes) : srcCheck (cc s) [] k = k := srcCheck_full k nofun
  simp [ccCmd, hwait, hcheck, ccFinish]

end

/-- A supervisor-only command in user mode (09 R252). -/
theorem user_command_priv {s : State} {word : Word} {o : Out} (hmode : ccMode (cc s) = false) (hta : ccTa (cc s) = false) :
    (if !ccMode (cc s) then ccFinish s (.trap 0 4 word) else o) = .next (trapped s 0 4 word) := by
  rw [hmode]
  exact ccFinish_trap 0 4 word hta

end Sys2Proof.Machine
end

section
/-! OBLIGATIONS. Commands to the round controller: ports, replies, fences, drains and kwr (10 R283-R287, R293-R296, R303). -/

namespace Sys2Proof.Machine

/-- Settles O20: each command by its checks, then by its body on the bound or unbound port. -/
theorem portCommands : Obligations.PortCommands := by
  intro s a p l n c k s1 v d
  have hbound {b : Word} (hb : v.bind = some b) : v.bind.isNone = false := by rw [hb]; rfl
  have hfree (hb : v.bind = none) : v.bind.isNone = true := Option.isNone_iff_eq_none.mpr hb
  refine ⟨fun b hb hroom => ⟨fun h => ?inject, fun h => ?vend⟩, fun hb h hd => ?vbind, fun hd h => ?rmark, fun hb hta => ?injectTrap,
    fun hb hta => ?vendTrap, fun hb hta => ?vbindTrap⟩ <;> dsimp only [exec]
  case inject =>
    unfold execInject
    refine ccCmd_desc_done h rfl (hbound hb) (decide_eq_false (Nat.not_le.mpr hroom)) ?_
    change thenFab _ _ = _
    rw [hb, ofNat_fld]
    rfl
  case vend =>
    unfold execVend
    refine ccCmd_none_done h rfl (hbound hb) (decide_eq_false (Nat.not_le.mpr hroom)) ?_
    change thenFab _ _ = _
    rw [hb]
    rfl
  case vbind =>
    unfold execVbind
    refine ccCmd_desc_done h rfl (Option.isSome_eq_false_iff.mpr (hfree hb)) rfl ?_
    exact if_neg (by simp [d, hd])
  case rmark =>
    unfold execRmark
    refine ccCmd_desc_done h rfl rfl rfl ((if_neg (not_not.mpr (Nat.div_eq_of_lt hd))).trans ?_)
    rw [Nat.mod_eq_of_lt hd]
    rfl
  case injectTrap =>
    unfold execInject
    exact ⟨_, ccCmd_illop (hfree hb) hta⟩
  case vendTrap =>
    unfold execVend
    exact ⟨_, ccCmd_illop (hfree hb) hta⟩
  case vbindTrap =>
    unfold execVbind
    exact ⟨_, ccCmd_illop hb hta⟩

/-- Settles O21: each command by its checks, then by its body. -/
theorem replyCommands : Obligations.ReplyCommands := by
  intro s r a p n j c k d u
  refine ⟨fun h hacc hroom => ?rdout, fun h hd hbit hport hwaiting => ?accrst, fun h hr => ?rdacc, fun h hr hzero => ?wcommit⟩ <;>
    dsimp only [exec]
  case rdout =>
    unfold execRdout
    exact ccCmd_none_done h rfl (by rw [hacc]; rfl) (decide_eq_false (Nat.not_le.mpr hroom)) rfl
  case accrst =>
    unfold execAccrst
    refine ccCmd_desc_done h rfl rfl rfl (if_neg ?_)
    rintro (hhigh | hbit4 | htaken | hwait)
    · exact hhigh (Nat.div_eq_of_lt hd)
    · exact Bool.noConfusion (hbit.symm.trans hbit4)
    · obtain ⟨hen, htaken⟩ := Bool.and_eq_true_iff.mp htaken
      split at htaken
      next i hi => exact bne_iff_ne.mp htaken (hport hen i hi)
      next => exact Bool.noConfusion htaken
    · exact hwait hwaiting
  case rdacc =>
    unfold execRdacc
    exact ccCmd_none_done h (reply_ne_zero hr) rfl rfl rfl
  case wcommit =>
    unfold execWcommit
    exact ccCmd_desc_done h (reply_ne_zero hr) rfl rfl (if_neg (not_not.mpr hzero))

/-- Settles O22: every fence and drain waits for the memories it covers. -/
theorem fencesAndDrains : Obligations.FencesAndDrains := by
  intro s a p m i hi
  have hdrain : exec i s = ccDrain s m := by
    simp only [List.mem_cons, List.not_mem_nil, or_false, Prod.mk.injEq] at hi
    rcases hi with ⟨rfl, rfl⟩ | ⟨rfl, rfl⟩ | ⟨rfl, rfl⟩ | ⟨rfl, rfl⟩ | ⟨rfl, rfl⟩ | ⟨rfl, rfl⟩ | ⟨rfl, rfl⟩ | ⟨rfl, rfl⟩ <;> rfl
  rw [hdrain, ccDrain]
  exact ⟨fun h ho => ccCmd_none_done h rfl rfl ho rfl, ccCmd_none_wait⟩

/-- Settles O23: in supervisor mode the body of kwr on its block, in user mode the mode check that stands before every other. -/
theorem constantRegisterWrites : Obligations.ConstantRegisterWrites := by
  constructor
  · intro s a p b rid key g hmode h hblock hregion hkey hkind h19 h128 c old s1
    dsimp only [exec]
    rw [execKwr, if_neg (supervisor_passes hmode)]
    refine ccCmd_block_done h rfl rfl hblock (by decide) ?_
    simp only [hregion, hkey]
    refine if_neg ?_
    rintro (h | h | h)
    exacts [h h19, h h128, h hkind]
  · intro s a p hmode hta
    dsimp only [exec, execXinvVa, execXinvFn, execXinvPart, ccXinv, execKwr]
    exact ⟨⟨_, user_command_priv hmode hta⟩, ⟨_, user_command_priv hmode hta⟩, ⟨_, user_command_priv hmode hta⟩,
      ⟨_, user_command_priv hmode hta⟩⟩

end Sys2Proof.Machine
end

section
/-! OBLIGATIONS. Commands to AG nodes and memory tiles (10 R288-R292, R297, R298). -/

namespace Sys2Proof.Machine

/-- A check of a copy's addresses that passes at the corners of both sides finds none to trap for (10 R288). -/
theorem copySides_find_none {b : Nat} {P : Nat × Nat → Bool} (hsrc : ∀ y ∈ corners b copySrc, P (copySsp b, y) = false)
    (hdst : ∀ y ∈ corners b copyDst, P (copyDsp b, y) = false) :
    (((corners b copySrc).map fun y => (copySsp b, y)) ++ (corners b copyDst).map fun y => (copyDsp b, y)).find? P = none := by
  rw [List.find?_eq_none]
  intro x hx
  obtain hx | hx := List.mem_append.mp hx <;> obtain ⟨y, hy, rfl⟩ := List.mem_map.mp hx
  · simp [hsrc y hy]
  · simp [hdst y hy]

/-- Settles O24: each command by its checks, then by the checks of its block. -/
theorem agNodeCommands : Obligations.AgNodeCommands := by
  intro s r a p n b h hroom c key send x
  refine ⟨fun rid g hregion hblock hrel h232 h296 h330 h368 h384 hcnt0 hcnt1 hssp hdsp hhost hacq hlatch hsrc hdst => ?copy,
    fun hr hblock h3 h6 h11 => ?sbind, fun hd => ?aflush⟩ <;> dsimp only [exec]
  case copy =>
    unfold execCopy
    refine ccCmd_block_done h rfl hroom hblock (by decide) ?_
    simp only [hregion]
    refine (if_neg (ne_true_of_eq_false hrel)).trans ((if_neg ?_).trans ?_)
    · simp [h232, h296, h330, h368, h384, hcnt0, hcnt1, hssp, hdsp, hhost, hacq, hlatch]
    · rw [copySides_find_none (P := fun y => spaceProt g y.1 y.2) (fun y hy => (hsrc y hy).1) fun y hy => (hdst y hy).1]
      dsimp only
      rw [copySides_find_none (P := fun y => y.2 % 64 != 0) (fun y hy => by simp [(hsrc y hy).2]) fun y hy => by simp [(hdst y hy).2]]
      rfl
  case sbind =>
    unfold execSbind
    refine ccCmd_block_done h (reply_ne_zero hr) hroom hblock (by decide) (if_neg ?_)
    simp [h3, h6, h11]
  case aflush =>
    unfold execAflush
    exact ccCmd_desc_done h rfl rfl hroom (if_neg (not_not.mpr (Nat.div_eq_of_lt hd)))

/-- Settles O25: one body for the eight operations, by the checks of its block. -/
theorem atomicCommands : Obligations.AtomicCommands := by
  intro s r a p n b rid g op mk hmk h hblock hregion hroom hacq hrel h39 h192 hplace halign c c1 s1 q
  have hexec : exec (mk r a p n) s = ccAmo s op r a p n := by
    simp only [List.mem_cons, List.not_mem_nil, or_false, Prod.mk.injEq] at hmk
    rcases hmk with ⟨rfl, rfl⟩ | ⟨rfl, rfl⟩ | ⟨rfl, rfl⟩ | ⟨rfl, rfl⟩ | ⟨rfl, rfl⟩ | ⟨rfl, rfl⟩ | ⟨rfl, rfl⟩ | ⟨rfl, rfl⟩ <;> rfl
  rw [hexec, ccAmo]
  refine ccCmd_block_done h rfl (decide_eq_false (Nat.not_le.mpr hroom)) hblock (by decide) ?_
  obtain ⟨place, hplace, hmine⟩ := hplace
  simp only [hregion, hplace]
  refine (if_neg ?_).trans ((if_neg (ne_true_of_eq_false hrel)).trans ((if_neg ?_).trans ((if_neg ?_).trans (if_neg (not_not.mpr halign)))))
  · simpa using hacq
  · simp [h39, h192]
  · simp [hmine]

end Sys2Proof.Machine
end

section
/-! OBLIGATIONS. Commands to the sequencer: swap, revoke and relend (10 R299, R300, 15 R412). -/

namespace Sys2Proof.Machine

/-- Settles O26: each command by its checks, then by the state of its context. -/
theorem sequencerCommands : Obligations.SequencerCommands := by
  intro s r a p rid g h hroom hregion c s1
  refine ⟨fun b hblock h2 h6 h128 hne hbound hdrift hswap htick => ?swap, fun did x hd hin => ⟨fun hrestart hlent => ?revoke,
    fun hrestart hown hlent hswap => ?relend, fun hown => ?later⟩⟩ <;> dsimp only [exec]
  case swap =>
    unfold execSwap
    refine ccCmd_block_done h rfl hroom hblock (by decide) ?_
    simp only [hregion]
    refine (if_neg ?_).trans ((if_neg ?_).trans (if_neg ?_))
    · simp [h2, h6, h128, hne]
    · simp [hbound, hdrift, hswap]
    · have hfld : fld b 64 64 < 2 ^ 64 := Nat.mod_lt _ (by decide)
      rw [BitVec.toNat_ofNat, Nat.mod_eq_of_lt hfld]
      exact Nat.not_lt.mpr htick
  case' revoke => rw [execRevoke]
  case' relend => rw [execRelend]
  case' later => rw [execRelend]
  all_goals
    rw [ccDrift]
    refine ccCmd_desc_done h rfl rfl hroom ((if_neg (not_not.mpr (Nat.div_eq_of_lt hd))).trans ?_)
    simp only [Nat.mod_eq_of_lt hd, hregion, hin]
  case revoke => exact (if_neg (by simp [hrestart])).trans ((if_neg (by simp [hlent])).trans (if_neg (by simp)))
  case relend => exact (if_neg (by simp [hrestart, hown])).trans ((if_neg (by simp [hlent])).trans (if_neg (by simp [hswap])))
  case later => exact if_pos (.inr ⟨trivial, hown⟩)

end Sys2Proof.Machine
end

section
/-! OBLIGATIONS. Commands to the hub: leases, launches and invalidations (10 R301, R302, 02 R64, R65, 22 R484). -/

namespace Sys2Proof.Machine

/-- The operand of an invalidation of this kind names functions of a partition that has cnt of them beside function 0 (02 R64). -/
def InvalOperand (kind : Nat) (v : Word) (cnt : Nat) : Prop :=
  match kind with
  | 0 => fld v.toNat 52 12 = 0 ∧ fld v.toNat 5 7 = 0 ∧ v.toNat % 32 ≤ cnt
  | 1 => v.toNat < 32 ∧ v.toNat ≤ cnt
  | _ => v = 0

/-- An invalidation command in supervisor mode that names functions of its partition and has room enters the partition's list (02 R64, R65). -/
theorem ccXinv_done {s : State} {kind cmd part : Nat} {a : BitVec 5} {p : BitVec 1} (hmode : ccMode (cc s) = true) (h : canIssue s 0 [a])
    (hpart : corePart s.hub s.site.core = some part) (hroom : ((partOf s.hub part).invals.countP fun i => i.core == some s.site.core) < 8)
    (hoperand : InvalOperand kind (val s a) (vfCnt (partOf s.hub part))) :
    ccXinv s kind cmd a p = .next (ccDone { setCc s (issued (cc s) 0 0x100 false) with hub := modPart s.hub part fun q =>
      { q with invals := q.invals ++ [{ kind := kind, fn := (val s a).toNat % 32, va := fld (val s a).toNat 12 40 * 4096
                                        core := some s.site.core, id := (cc s).nextId }] } }) := by
  rw [ccXinv, if_neg (supervisor_passes hmode)]
  simp only [hpart]
  refine ccCmd_desc_done h rfl rfl rfl ((if_neg ?_).trans (if_neg (Nat.not_le.mpr hroom)))
  match kind with
  | 0 =>
    obtain ⟨h52, h5, hfn⟩ := hoperand
    simp [h52, h5, hfn]
  | 1 =>
    obtain ⟨hlow, hfn⟩ := hoperand
    simp [Nat.div_eq_of_lt hlow, Nat.mod_eq_of_lt hlow, hfn]
  | _ + 2 =>
    have hzero : val s a = 0 := hoperand
    simp [hzero]

/-- Settles O27: each command by its checks, the lease by the hub's estimate, the three invalidations by their one body. -/
theorem hubCommands : Obligations.HubCommands := by
  intro s r a p rid g hregion c k d
  refine ⟨fun h hroom hr hpos hmax hfree hlen => ?lease, fun h hroom hheld hmine => ?leaseEnd, fun h hroom hmax halign => ?launch,
    fun part hpart h hmode hroom => ⟨fun h52 h5 hfn => ?va, fun hd hfn => ?fn, fun hd => ?part⟩⟩ <;> dsimp only [exec]
  case lease =>
    have hdur : ¬((val s a).toNat = 0 ∨ 983040 < (val s a).toNat) := not_or.mpr ⟨hpos.ne', Nat.not_lt.mpr hmax⟩
    unfold execLease
    cases Config.leaseFits s.free <;> refine ccCmd_desc_done h (reply_ne_zero hr) rfl hroom ((if_neg hdur).trans ?_) <;> simp only [hregion]
    case true => exact if_neg (by simp [hfree, hlen])
    case false => exact if_pos (by simp)
  case leaseEnd =>
    unfold execLeaseEnd
    refine ccCmd_none_done h rfl rfl hroom ?_
    simp only [hregion]
    exact if_pos ⟨hheld, hmine⟩
  case launch =>
    unfold execLaunch
    refine ccCmd_desc_done h rfl rfl hroom ((if_neg (Nat.not_le.mpr hmax)).trans ((if_neg (not_not.mpr halign)).trans ?_))
    simp only [hregion]
    rfl
  case va => exact ccXinv_done hmode h hpart hroom ⟨h52, h5, hfn⟩
  case fn => exact ccXinv_done hmode h hpart hroom ⟨hd, hfn⟩
  case part => exact ccXinv_done hmode h hpart hroom hd

end Sys2Proof.Machine
end

section
/-! SUPPORT. Lanes of a line: what reading a lane gives, packing lanes, and operations that compute each lane on its own (03 R13, 11 R307). -/

namespace Sys2Proof.Machine

/-! ### Reading and packing lanes -/

theorem laneAt_lt (n : Nat) (l : Line) (i : Nat) : laneAt n l i < 2 ^ n := Nat.mod_lt _ (Nat.two_pow_pos n)

/-- No lane lies beyond the 512 bits of a line. -/
theorem laneAt_eq_zero {n i : Nat} (l : Line) (h : 512 ≤ n * i) : laneAt n l i = 0 := by
  rw [laneAt, fld, Nat.div_eq_of_lt (BitVec.toNat_lt_twoPow_of_le h), Nat.zero_mod]

theorem packLanes_lt (n : Nat) (l : List Nat) : packLanes n l < 2 ^ (n * l.length) := by
  induction l with
  | nil => exact Nat.one_pos
  | cons x r ih =>
    rw [packLanes, List.length_cons, Nat.mul_succ, Nat.add_comm (n * r.length), Nat.pow_add]
    calc x % 2 ^ n + 2 ^ n * packLanes n r
        < 2 ^ n * (packLanes n r + 1) := by rw [Nat.mul_succ, Nat.add_comm]; exact Nat.add_lt_add_left (Nat.mod_lt _ (Nat.two_pow_pos n)) _
      _ ≤ 2 ^ n * 2 ^ (n * r.length) := Nat.mul_le_mul_left _ ih

/-- Packed lanes that fit a word are the word's value. -/
theorem toNat_ofNat_packLanes {n m : Nat} {l : List Nat} (h : n * l.length ≤ m) : (BitVec.ofNat m (packLanes n l)).toNat = packLanes n l :=
  (BitVec.toNat_ofNat _ _).trans (Nat.mod_eq_of_lt ((packLanes_lt n l).trans_le (Nat.pow_le_pow_right Nat.two_pos h)))

/-- Lane i of packed lanes is the low bits of entry i. -/
theorem fld_packLanes (n : Nat) (l : List Nat) (i : Nat) : fld (packLanes n l) (n * i) n = l.getD i 0 % 2 ^ n := by
  induction l generalizing i with
  | nil => simp [packLanes, fld]
  | cons x r ih =>
    cases i with
    | zero => simp [packLanes, fld]
    | succ i =>
      have hrest : (x % 2 ^ n + 2 ^ n * packLanes n r) / 2 ^ n = packLanes n r := by
        rw [Nat.add_mul_div_left _ _ (Nat.two_pow_pos n), Nat.div_eq_of_lt (Nat.mod_lt _ (Nat.two_pow_pos n)), Nat.zero_add]
      rw [fld, packLanes, Nat.mul_succ, Nat.add_comm (n * i), Nat.pow_add, ← Nat.div_div_eq_div_mul, hrest, List.getD_cons_succ]
      exact ih i

/-- A line packed from one value per lane holds the low bits of each. -/
theorem laneAt_pack {n i : Nat} (v : Nat → Nat) (h : i < 512 / n) : laneAt n (pack n ((List.range (512 / n)).map v)) i = v i % 2 ^ n := by
  have hfits : n * ((List.range (512 / n)).map v).length ≤ 512 := by
    rw [List.length_map, List.length_range]
    exact Nat.mul_div_le 512 n
  rw [laneAt, pack, toNat_ofNat_packLanes hfits, fld_packLanes]
  simp [List.getD_eq_getElem?_getD, h]

theorem lanes_eq_map_laneAt (n : Nat) (l : Line) : lanes n l = (List.range (512 / n)).map (laneAt n l) := rfl

theorem map_lanes {α : Type} (f : Nat → α) (n : Nat) (a : Line) : (lanes n a).map f = (List.range (512 / n)).map fun i => f (laneAt n a i) :=
  List.map_map

theorem zipWith_lanes {α : Type} (f : Nat → Nat → α) (n : Nat) (a b : Line) :
    List.zipWith f (lanes n a) (lanes n b) = (List.range (512 / n)).map fun i => f (laneAt n a i) (laneAt n b i) := by
  simp [lanes_eq_map_laneAt, List.zipWith_map]

theorem zipWith_zip_lanes {α : Type} (f : Nat × Nat → Nat → α) (n : Nat) (a b c : Line) :
    List.zipWith f ((lanes n a).zip (lanes n b)) (lanes n c) =
      (List.range (512 / n)).map fun i => f (laneAt n a i, laneAt n b i) (laneAt n c i) := by
  simp [lanes_eq_map_laneAt, List.zip, List.zipWith_map, List.zipWith_self]

/-- The lane widths divide a line (11 R307). -/
theorem laneBits_cases (fm : Nat) : laneBits fm = 8 ∨ laneBits fm = 16 ∨ laneBits fm = 32 := by
  unfold laneBits
  split <;> decide

/-- A list of lanes, read as zero beyond its end, is the line's lanes. -/
theorem getD_lanes {n : Nat} (hn : n ∣ 512) (l : Line) (i : Nat) : (lanes n l).getD i 0 = laneAt n l i := by
  rw [lanes_eq_map_laneAt]
  by_cases hi : i < 512 / n
  · simp [List.getD_eq_getElem?_getD, hi]
  · have hbeyond : 512 ≤ n * i := (Nat.mul_div_cancel' hn).symm.trans_le (Nat.mul_le_mul_left n (Nat.not_lt.mp hi))
    rw [laneAt_eq_zero l hbeyond]
    simp [List.getD_eq_getElem?_getD, Nat.not_lt.mp hi]

/-! ### Values that fit a lane -/

theorem wrapTo_lt (n : Nat) (v : Int) : wrapTo n v < 2 ^ n := by
  have hpos : (0 : Int) < 2 ^ n := by positivity
  rw [wrapTo, Int.toNat_lt (Int.emod_nonneg _ hpos.ne')]
  exact_mod_cast Int.emod_lt_of_pos v hpos

theorem fitInt_lt (fm : Nat) (sat : Bool) (v : Int) : (fitInt fm sat v).1 < 2 ^ elemBits fm := wrapTo_lt _ _

/-! ### Operations that compute each lane on its own -/

/-- The line whose lane i holds the value of q i, and whether some lane raises its flag: the shape of every operation on independent lanes. -/
def lanewise (n : Nat) (q : Nat → Nat × Bool) : Line × Bool :=
  (pack n ((List.range (512 / n)).map fun i => (q i).1), (List.range (512 / n)).any fun i => (q i).2)

/-- The condition of a lanewise result tells whether some lane raises its flag. -/
theorem lanewise_cond (n : Nat) (q : Nat → Nat × Bool) : (lanewise n q).2 = true ↔ ∃ i, i < 512 / n ∧ (q i).2 = true := by
  simp [lanewise]

theorem laneAt_lanewise {n i : Nat} (q : Nat → Nat × Bool) (h : i < 512 / n) : laneAt n (lanewise n q).1 i = (q i).1 % 2 ^ n := laneAt_pack _ h

/-- A list of lane results, packed with its flags, is lanewise. -/
theorem packed_eq_lanewise (n : Nat) (q : Nat → Nat × Bool) :
    (pack n (((List.range (512 / n)).map q).map fun r => r.1), ((List.range (512 / n)).map q).any fun r => r.2) = lanewise n q := by
  simp [lanewise, Function.comp_def]

/-- A list of lane values, packed and tested value by value, is lanewise. -/
theorem tested_eq_lanewise (n : Nat) (v : Nat → Nat) (t : Nat → Bool) :
    (pack n ((List.range (512 / n)).map v), ((List.range (512 / n)).map v).any t) = lanewise n fun i => (v i, t (v i)) := by
  simp [lanewise, Function.comp_def]

section
variable {s : State} {op : Nat} {w : Slot} {lf : Slot → Line → Line → Line → Line × Bool}

/-- A vector operation that fires with this line and condition. -/
theorem vec_result {r : Line} {k : Bool} (h : vecFires s op w) (hlf : lf w (srcA s op w) (srcB s op w) (srcC s op w) = (r, k)) :
    vec s op w lf = .next (vecDone s op w r k) :=
  (vec_next h).trans (by rw [hlf])

/-- A vector operation that fires with a lanewise result (11 R309, R317). -/
theorem vec_lanewise {n : Nat} {q : Nat → Nat × Bool} (h : vecFires s op w)
    (hlf : lf w (srcA s op w) (srcB s op w) (srcC s op w) = lanewise n q) :
    ∃ (r : Line) (k : Bool), vec s op w lf = .next (vecDone s op w r k) ∧ (∀ i, i < 512 / n → laneAt n r i = (q i).1 % 2 ^ n) ∧
      (k = true ↔ ∃ i, i < 512 / n ∧ (q i).2 = true) :=
  ⟨_, _, vec_result h hlf, fun _ hi => laneAt_lanewise q hi, lanewise_cond n q⟩

/-- The same with the lanes' values and flags in other words. -/
theorem vec_lanewise_of {n : Nat} {q : Nat → Nat × Bool} {v : Nat → Nat} {p : Nat → Prop} (h : vecFires s op w)
    (hlf : lf w (srcA s op w) (srcB s op w) (srcC s op w) = lanewise n q) (hv : ∀ i, (q i).1 % 2 ^ n = v i) (hp : ∀ i, (q i).2 = true ↔ p i) :
    ∃ (r : Line) (k : Bool), vec s op w lf = .next (vecDone s op w r k) ∧ (∀ i, i < 512 / n → laneAt n r i = v i) ∧
      (k = true ↔ ∃ i, i < 512 / n ∧ p i) := by
  obtain ⟨r, k, hvec, hlanes, hk⟩ := vec_lanewise h hlf
  exact ⟨r, k, hvec, fun i hi => (hlanes i hi).trans (hv i), hk.trans (exists_congr fun i => and_congr_right fun _ => hp i)⟩

end

end Sys2Proof.Machine
end

section
/-! OBLIGATIONS. Float operations on independent lanes (11 R316-R318, R325). -/

namespace Sys2Proof.Machine

/-- The encoding of a lane of a float operation: the exact value of the lanes' values, rounded once (11 R316). -/
def floatLane (g : Nat → FVal → FVal → FVal → FVal) (w : Slot) (sat : Bool) (a b c : Line) (i : Nat) : Nat :=
  let fm := w.fmt.toNat
  let n := laneBits fm
  (fencode fm w.rnd.toNat sat (g w.rnd.toNat (fdecode fm (laneAt n a i)) (fdecode fm (laneAt n b i)) (fdecode fm (laneAt n c i)))).bits

/-- The line of a float operation and whether some lane is NaN. -/
def floatLine (g : Nat → FVal → FVal → FVal → FVal) (w : Slot) (sat : Bool) (a b c : Line) : Line × Bool :=
  lanewise (laneBits w.fmt.toNat) fun i => (floatLane g w sat a b c i, isNaNBits w.fmt.toNat (floatLane g w sat a b c i))

theorem fl1_eq (g : Nat → FVal → FVal) (w : Slot) (a b c : Line) : fl1 g w a b c = floatLine (fun r x _ _ => g r x) w (w.sat == 1) a b c := by
  simp only [fl1, map_lanes]
  exact tested_eq_lanewise _ _ _

theorem fl2_eq (g : Nat → FVal → FVal → FVal) (w : Slot) (a b c : Line) :
    fl2 g w a b c = floatLine (fun r x y _ => g r x y) w (w.sat == 1) a b c := by
  simp only [fl2, zipWith_lanes]
  exact tested_eq_lanewise _ _ _

theorem fl3_eq (g : Nat → FVal → FVal → FVal → FVal) (w : Slot) (a b c : Line) : fl3 g w a b c = floatLine g w (w.sat == 1) a b c := by
  simp only [fl3, zipWith_zip_lanes]
  exact tested_eq_lanewise _ _ _

/-- Each float operation is a vector operation with the line of its own exact value; vrnd alone takes no sat (11 R318). -/
theorem floatOps_exec {e : Nat × (Slot → Instr) × (Nat → FVal → FVal → FVal → FVal)} (he : e ∈ floatOps) (w : Slot) (s : State) :
    ∃ lf, exec (e.2.1 w) s = vec s e.1 w lf ∧ ∀ a b c, lf w a b c = floatLine e.2.2 w (w.sat == 1 && e.1 != 0x00A) a b c := by
  simp only [floatOps, List.mem_cons, List.not_mem_nil, or_false] at he
  rcases he with rfl | rfl | rfl | rfl | rfl | rfl | rfl | rfl | rfl | rfl | rfl | rfl | rfl | rfl | rfl
  all_goals dsimp only [exec]
  all_goals exact ⟨_, rfl, fun a b c => by simp [fl1_eq, fl2_eq, fl3_eq, floatLine, floatLane]⟩

/-- Settles O28: each operation's line is computed lane by lane. -/
theorem floatLanes : Obligations.FloatLanes := by
  intro e he s w h
  obtain ⟨lf, hexec, hlf⟩ := floatOps_exec he w s
  rw [hexec]
  exact vec_lanewise h (hlf _ _ _)

end Sys2Proof.Machine
end

section
/-! OBLIGATIONS. Complex operations and permutes (11 R320, R327). -/

namespace Sys2Proof.Machine

/-! ### Complex lanes -/

/-- A CI16 lane as its two INT16 parts (03 R79). -/
def complexParts (l : Line) (i : Nat) : Int × Int := (cre (laneAt 32 l i), cim (laneAt 32 l i))

/-- The low half of a 32-bit lane is the 16-bit lane of twice its number, the high half the one after. -/
theorem laneAt_halves (l : Line) (i : Nat) :
    laneAt 16 l (2 * i) = laneAt 32 l i % 65536 ∧ laneAt 16 l (2 * i + 1) = laneAt 32 l i / 65536 := by
  have hlow : 16 * (2 * i) = 32 * i := by omega
  have hhigh : 16 * (2 * i + 1) = 32 * i + 16 := by omega
  simp only [laneAt, fld, hlow, hhigh, Nat.pow_add 2 (32 * i) 16, ← Nat.div_div_eq_div_mul]
  omega

/-- The 16-bit lanes of a line whose 32-bit lanes are fitted complex values are the fitted parts. -/
theorem laneAt_cfit {l : Line} {i : Nat} {sat : Bool} {re im : Int} (h : laneAt 32 l i = (cfit sat re im).1 % 2 ^ 32) :
    laneAt 16 l (2 * i) = (fitInt 2 sat re).1 ∧ laneAt 16 l (2 * i + 1) = (fitInt 2 sat im).1 := by
  obtain ⟨hlow, hhigh⟩ := laneAt_halves l i
  have hre : (fitInt 2 sat re).1 < 65536 := fitInt_lt 2 sat re
  have him : (fitInt 2 sat im).1 < 65536 := fitInt_lt 2 sat im
  rw [hlow, hhigh, h, cfit]
  dsimp only
  omega

/-- A vector operation that fires with a fitted complex value in each lane (11 R315, R317). -/
theorem vec_complex {s : State} {op : Nat} {w : Slot} {lf : Slot → Line → Line → Line → Line × Bool} {sat : Bool} {re im : Nat → Int}
    (h : vecFires s op w) (hlf : lf w (srcA s op w) (srcB s op w) (srcC s op w) = lanewise 32 fun i => cfit sat (re i) (im i)) :
    ∃ (r : Line) (k : Bool), vec s op w lf = .next (vecDone s op w r k) ∧
      (∀ i, i < 16 → laneAt 16 r (2 * i) = (fitInt 2 sat (re i)).1 ∧ laneAt 16 r (2 * i + 1) = (fitInt 2 sat (im i)).1) ∧
      (k = true ↔ ∃ i, i < 16 ∧ ((fitInt 2 sat (re i)).2 = true ∨ (fitInt 2 sat (im i)).2 = true)) := by
  obtain ⟨r, k, hexec, hlanes, hk⟩ := vec_lanewise h hlf
  refine ⟨r, k, hexec, fun i hi => laneAt_cfit (hlanes i hi), hk.trans ?_⟩
  simp [cfit]

/-- The line of a complex operation: each lane's exact parts, each fitted as INT16 (11 R320). -/
theorem cx_eq (g : Nat → Nat → Int × Int → Int × Int → Int × Int → Int × Int) (w : Slot) (a b c : Line) :
    cx g w a b c = lanewise 32 fun i =>
      cfit (w.sat == 1) (g w.rnd.toNat w.imm.toNat (complexParts a i) (complexParts b i) (complexParts c i)).1
        (g w.rnd.toNat w.imm.toNat (complexParts a i) (complexParts b i) (complexParts c i)).2 := by
  simp only [cx, zipWith_zip_lanes]
  exact packed_eq_lanewise 32 _

/-- Each complex operation is a vector operation with its own exact parts. -/
theorem complexOps_exec {e : Nat × (Slot → Instr) × (Nat → Nat → Int × Int → Int × Int → Int × Int → Int × Int)}
    (he : e ∈ complexOps) (w : Slot) (s : State) : exec (e.2.1 w) s = vec s e.1 w (cx e.2.2) := by
  simp only [complexOps, List.mem_cons, List.not_mem_nil, or_false] at he
  rcases he with rfl | rfl | rfl | rfl | rfl | rfl | rfl | rfl | rfl
  all_goals rfl

/-- Settles O30: each operation's line is computed lane by lane, and a lane is its two parts. -/
theorem complexLanes : Obligations.ComplexLanes := by
  intro e he s w h
  rw [complexOps_exec he w s]
  exact vec_complex h (cx_eq e.2.2 w _ _ _)

/-! ### Permutes -/

/-- Each permute is a vector operation that moves lanes as its map says, and its condition is any set bit. -/
theorem permuteOps_exec {e : Nat × (Slot → Instr) × (Nat → Nat → (Nat → Nat) → (Nat → Nat) → (Nat → Nat) → Nat → Nat)}
    (he : e ∈ permuteOps) (w : Slot) (s : State) : exec (e.2.1 w) s = vec s e.1 w (perm fun w n a b c i => e.2.2 w.imm.toNat n a b c i) := by
  simp only [permuteOps, List.mem_cons, List.not_mem_nil, or_false] at he
  rcases he with rfl | rfl | rfl | rfl | rfl | rfl | rfl | rfl | rfl | rfl | rfl
  all_goals rfl

/-- Settles O33: the lanes of the packed line are those that the map names. -/
theorem permuteLanes : Obligations.PermuteLanes := by
  intro e he s w h n
  rw [permuteOps_exec he w s]
  exact ⟨_, vec_result h rfl, fun i hi => laneAt_pack _ hi⟩

end Sys2Proof.Machine
end

section
/-! OBLIGATIONS. Integer operations, shifts and bitwise operations (11 R315, R317, R319). -/

namespace Sys2Proof.Machine

/-! ### Exact results, fitted -/

/-- The line of an integer operation: each lane's exact result, fitted (11 R315). -/
def intLine (g : Int → Int → Int → Int) (w : Slot) (a b c : Line) : Line × Bool :=
  let fm := w.fmt.toNat
  let n := laneBits fm
  lanewise n fun i => fitInt fm (w.sat == 1) (g (ival fm (laneAt n a i)) (ival fm (laneAt n b i)) (ival fm (laneAt n c i)))

theorem in2_eq (g : Int → Int → Int) (w : Slot) (a b c : Line) : in2 g w a b c = intLine (fun x y _ => g x y) w a b c := by
  simp only [in2, zipWith_lanes]
  exact packed_eq_lanewise _ _

theorem in3_eq (g : Int → Int → Int → Int) (w : Slot) (a b c : Line) : in3 g w a b c = intLine g w a b c := by
  simp only [in3, zipWith_zip_lanes]
  exact packed_eq_lanewise _ _

theorem in1_eq (g : Int → Int) (w : Slot) (a b c : Line) : in1 g w a b c = intLine (fun x _ _ => g x) w a b c := in2_eq _ w a a 0

/-- Each integer operation is a vector operation with the line of its own exact result (11 R319). -/
theorem integerOps_exec {e : Nat × (Slot → Instr) × (Int → Int → Int → Int)} (he : e ∈ integerOps) (w : Slot) (s : State) :
    ∃ lf, exec (e.2.1 w) s = vec s e.1 w lf ∧ ∀ a b c, lf w a b c = intLine e.2.2 w a b c := by
  simp only [integerOps, List.mem_cons, List.not_mem_nil, or_false] at he
  rcases he with rfl | rfl | rfl | rfl | rfl | rfl | rfl | rfl
  all_goals dsimp only [exec]
  all_goals exact ⟨_, rfl, fun a b c => by simp only [in1_eq, in2_eq, in3_eq, Int.natCast_natAbs]⟩

/-- Each bitwise operation is a vector operation that combines its sources bit by bit. -/
theorem bitOps_exec {e : Nat × (Slot → Instr) × (Bool → Bool → Bool)} (he : e ∈ bitOps) (w : Slot) (s : State) :
    ∃ g, exec (e.2.1 w) s = vec s e.1 w (bw2 g) ∧ ∀ a b i, i < 512 → (g a b).getLsbD i = e.2.2 (a.getLsbD i) (b.getLsbD i) := by
  simp only [bitOps, List.mem_cons, List.not_mem_nil, or_false] at he
  rcases he with rfl | rfl | rfl | rfl
  all_goals dsimp only [exec]
  all_goals exact ⟨_, rfl, fun a b i hi => by simp [hi]⟩

/-! ### Shifts by the lane width or more -/

theorem elemBits_of_integer {fm : Nat} (h : fm ∈ [1, 2, 3, 11]) : elemBits fm = laneBits fm := by
  revert fm
  decide

/-- A result outside the range on the same side, with the same low bits, is fitted alike. -/
theorem fitInt_congr {fm : Nat} {sat : Bool} {u v : Int} (hout : (u < imin fm ∧ v < imin fm) ∨ (imax fm < u ∧ imax fm < v))
    (hlow : wrapTo (elemBits fm) u = wrapTo (elemBits fm) v) : fitInt fm sat u = fitInt fm sat v := by
  have hclamp : min (max u (imin fm)) (imax fm) = min (max v (imin fm)) (imax fm) := by omega
  have hflag : (decide (u < imin fm) || decide (imax fm < u)) = (decide (v < imin fm) || decide (imax fm < v)) := by
    obtain ⟨hu, hv⟩ | ⟨hu, hv⟩ := hout <;> simp [hu, hv]
  cases sat <;> simp [fitInt, hclamp, hflag, hlow]

theorem elemBits_pos (fm : Nat) : 0 < elemBits fm := by
  unfold elemBits
  split <;> decide

/-- The range of an integer format lies within its width, taken with either sign. -/
theorem range_lt_width (fm : Nat) : -2 ^ elemBits fm < imin fm ∧ imax fm < 2 ^ elemBits fm := by
  have hpos : (0 : Int) < 2 ^ (elemBits fm - 1) := by positivity
  have htwice : (2 : Int) ^ elemBits fm = 2 * 2 ^ (elemBits fm - 1) := (mul_pow_sub_one (elemBits_pos fm).ne' 2).symm
  by_cases hfm : fm = 11
  · subst hfm
    decide
  · rw [imin, imax, if_neg hfm, if_neg hfm]
    omega

/-- A left shift by more than the width fits as one by the width does: both lose every bit, and lie outside the range unless they are zero. -/
theorem fitInt_shift_min {fm n : Nat} (hn : elemBits fm = n) (sat : Bool) (v : Int) (y : Nat) :
    fitInt fm sat (v * 2 ^ min y n) = fitInt fm sat (v * 2 ^ y) := by
  subst hn
  obtain hy | hy := Nat.le_total y (elemBits fm)
  · rw [Nat.min_eq_left hy]
  · rw [Nat.min_eq_right hy]
    have hmore : v * 2 ^ y = v * 2 ^ (y - elemBits fm) * 2 ^ elemBits fm := by rw [mul_assoc, ← pow_add, Nat.sub_add_cancel hy]
    have hlow : wrapTo (elemBits fm) (v * 2 ^ elemBits fm) = wrapTo (elemBits fm) (v * 2 ^ y) := by
      rw [hmore, wrapTo, wrapTo, Int.mul_emod_left, Int.mul_emod_left]
    have hpow : (2 : Int) ^ elemBits fm ≤ 2 ^ y := pow_le_pow_right₀ (by decide) hy
    have hpos : (0 : Int) < 2 ^ elemBits fm := by positivity
    obtain ⟨hmin, hmax⟩ := range_lt_width fm
    obtain hv | rfl | hv := lt_trichotomy v 0
    · exact fitInt_congr (.inl ⟨by nlinarith, by nlinarith⟩) hlow
    · simp
    · exact fitInt_congr (.inr ⟨by nlinarith, by nlinarith⟩) hlow

theorem div_two_pow_min {x n : Nat} (hx : x < 2 ^ n) (y : Nat) : x / 2 ^ min y n = x / 2 ^ y := by
  obtain hy | hy := Nat.le_total y n
  · rw [Nat.min_eq_left hy]
  · rw [Nat.min_eq_right hy, Nat.div_eq_of_lt hx, Nat.div_eq_of_lt (hx.trans_le (Nat.pow_le_pow_right Nat.two_pos hy))]

theorem mod_two_pow_min {x n : Nat} (hx : x < 2 ^ n) (y : Nat) : x % 2 ^ min y n = x % 2 ^ y := by
  obtain hy | hy := Nat.le_total y n
  · rw [Nat.min_eq_left hy]
  · rw [Nat.min_eq_right hy, Nat.mod_eq_of_lt hx, Nat.mod_eq_of_lt (hx.trans_le (Nat.pow_le_pow_right Nat.two_pos hy))]

theorem roundMag_zero (rnd : Nat) (neg : Bool) (s : Nat) : roundMag rnd neg 0 s = 0 := by simp [roundMag]

/-- A magnitude below half of the last place rounds as a quarter does. -/
theorem roundMag_of_lt_half {rnd m s : Nat} {neg : Bool} (hm : 0 < m) (hs : m < 2 ^ s) : roundMag rnd neg m (s + 1) = roundMag rnd neg 1 2 := by
  have hlt : m < 2 ^ (s + 1) := hs.trans (Nat.pow_lt_pow_right Nat.one_lt_two (Nat.lt_succ_self s))
  have hquot : m / 2 ^ (s + 1) = 0 := Nat.div_eq_of_lt hlt
  have hrem : m % 2 ^ (s + 1) = m := Nat.mod_eq_of_lt hlt
  simp only [roundMag, hquot, hrem, Nat.add_sub_cancel, hm.ne']
  match rnd with
  | 0 | 1 | 2 | 3 => simp [hs.not_gt]
  | _ + 4 => simp [hs]

theorem roundMagFar_of_lt_half {rnd m s : Nat} {neg : Bool} (hs : m < 2 ^ s) :
    roundMagFar rnd neg m (s + 1) = if m = 0 then 0 else roundMag rnd neg 1 2 := by
  by_cases hm : m = 0
  · simp [roundMagFar, hm, roundMag_zero]
  · rw [roundMagFar, roundMag_of_lt_half (Nat.pos_of_ne_zero hm) hs]
    simp [hm]

/-- A rounding shift by more than one place beyond every bit rounds as one by one place beyond does. -/
theorem rndshift_min (rnd : Nat) {v : Int} {n : Nat} (hv : v.natAbs < 2 ^ n) (y : Nat) : rndshift rnd v (min y (n + 1)) = rndshift rnd v y := by
  obtain hy | hy := Nat.le_total y (n + 1)
  · rw [Nat.min_eq_left hy]
  · obtain ⟨d, rfl⟩ := Nat.exists_eq_add_of_le hy
    have hfar : v.natAbs < 2 ^ (n + d) := hv.trans_le (Nat.pow_le_pow_right Nat.two_pos (Nat.le_add_right n d))
    rw [Nat.min_eq_right hy, Nat.add_right_comm, rndshift, rndshift, roundMagFar_of_lt_half hv, roundMagFar_of_lt_half hfar]

theorem natAbs_sext_lt {n : Nat} (hn : 0 < n) (x : Nat) : (sext n x).natAbs < 2 ^ n := by
  have hlt : x % 2 ^ n < 2 ^ n := Nat.mod_lt _ (Nat.two_pow_pos n)
  have hcast : ((2 : Int) ^ n) = ((2 ^ n : Nat) : Int) := by norm_cast
  have htwice : 2 ^ n = 2 * 2 ^ (n - 1) := (mul_pow_sub_one hn.ne' 2).symm
  have hpos : 0 < 2 ^ (n - 1) := Nat.two_pow_pos _
  unfold sext
  split <;> omega

theorem natAbs_ival_lt {fm n : Nat} (hn : elemBits fm = n) (x : Nat) : (ival fm x).natAbs < 2 ^ n := by
  subst hn
  unfold ival
  split
  next h =>
    subst h
    exact Nat.mod_lt x (by decide)
  next => exact natAbs_sext_lt (elemBits_pos fm) x

/-- A shift discards a nonzero bit exactly when the value is not a multiple, and no less when the amount is limited to one place beyond every bit. -/
theorem discards_iff {v : Int} {n : Nat} (hv : v.natAbs < 2 ^ n) (y : Nat) : (v.natAbs % 2 ^ min y (n + 1) != 0) = true ↔ v % 2 ^ y ≠ 0 := by
  have hlt : v.natAbs < 2 ^ (n + 1) := hv.trans (Nat.pow_lt_pow_right Nat.one_lt_two (Nat.lt_succ_self n))
  rw [mod_two_pow_min hlt, bne_iff_ne, ne_eq, ne_eq, ← Nat.dvd_iff_mod_eq_zero, ← Int.dvd_iff_emod_eq_zero, ← Int.natCast_dvd]
  norm_cast

/-- vshl fits each lane shifted by at most the lane width. -/
theorem exec_vshl (w : Slot) (s : State) : exec (.vshl w) s = vec s 0x028 w fun w a b _ =>
    let fm := w.fmt.toNat
    let n := laneBits fm
    lanewise n fun i => fitInt fm (w.sat == 1) (ival fm (laneAt n a i) * 2 ^ min (laneAt n b i) n) := by
  dsimp only [exec]
  simp only [execVshl, shAmt, zipWith_lanes, packed_eq_lanewise]

/-- vshr gives each lane's quotient, and tells of a remainder. -/
theorem exec_vshr (w : Slot) (s : State) : exec (.vshr w) s = vec s 0x029 w fun w a b _ =>
    let n := laneBits w.fmt.toNat
    lanewise n fun i => (laneAt n a i / 2 ^ min (laneAt n b i) n, laneAt n a i % 2 ^ min (laneAt n b i) n != 0) := by
  dsimp only [exec]
  simp only [execVshr, shAmt, zipWith_lanes, packed_eq_lanewise]

/-- vsra rounds each lane's quotient, and tells of a remainder. -/
theorem exec_vsra (w : Slot) (s : State) : exec (.vsra w) s = vec s 0x02A w fun w a b _ =>
    let n := laneBits w.fmt.toNat
    let x (i : Nat) : Int := ival w.fmt.toNat (laneAt n a i)
    let y (i : Nat) : Nat := min (laneAt n b i) (n + 1)
    lanewise n fun i => (wrapTo n (rndshift w.rnd.toNat (x i) (y i)), (x i).natAbs % 2 ^ y i != 0) := by
  dsimp only [exec]
  simp only [execVsra, shAmt, zipWith_lanes, packed_eq_lanewise]

/-- Settles O29: each operation's line is computed lane by lane; a shift amount beyond the lane width acts as one at its limit. -/
theorem integerLanes : Obligations.IntegerLanes := by
  intro s w fm n sat
  refine ⟨fun e he h => ?exact, fun e he h => ?bits, fun h hfm => ?vshl, fun h hfm => ?vshr, fun h hfm => ?vsra⟩
  case exact =>
    obtain ⟨lf, hexec, hlf⟩ := integerOps_exec he w s
    rw [hexec]
    exact vec_lanewise h (hlf _ _ _)
  case bits =>
    obtain ⟨g, hexec, hbit⟩ := bitOps_exec he w s
    rw [hexec]
    exact ⟨_, vec_result h rfl, hbit _ _⟩
  case vshl =>
    intro v
    have hn : elemBits fm = n := elemBits_of_integer hfm
    rw [exec_vshl]
    have hfit (i : Nat) := fitInt_shift_min hn sat (ival fm (laneAt n (srcA s 0x028 w) i)) (laneAt n (srcB s 0x028 w) i)
    refine vec_lanewise_of h rfl (fun i => ?_) fun i => iff_of_eq (congrArg (·.2 = true) (hfit i))
    exact (Nat.mod_eq_of_lt (hn ▸ fitInt_lt fm sat _)).trans (congrArg Prod.fst (hfit i))
  case vshr =>
    intro x y
    have hx (i : Nat) : x i < 2 ^ n := laneAt_lt n _ i
    rw [exec_vshr]
    refine vec_lanewise_of h rfl (fun i => ?_) fun i => bne_iff_ne.trans (not_congr (mod_two_pow_min (hx i) (y i) ▸ Iff.rfl))
    exact (Nat.mod_eq_of_lt ((Nat.div_le_self _ _).trans_lt (hx i))).trans (div_two_pow_min (hx i) (y i))
  case vsra =>
    intro x y
    have hx (i : Nat) : (x i).natAbs < 2 ^ n := natAbs_ival_lt (elemBits_of_integer hfm) _
    rw [exec_vsra]
    refine vec_lanewise_of h rfl (fun i => ?_) fun i => discards_iff (hx i) (y i)
    exact (Nat.mod_eq_of_lt (wrapTo_lt n _)).trans (congrArg (wrapTo n) (rndshift_min _ (hx i) (y i)))

end Sys2Proof.Machine
end

section
/-! OBLIGATIONS. Comparisons, select and clamp (11 R317, R321). -/

namespace Sys2Proof.Machine

/-- A comparison of two lanes: less, equal and ordered, none of them where one is NaN (11 R321). -/
theorem laneCmp_eq (fm x y : Nat) :
    let nan : Bool := isFloat fm && (isNaNBits fm x || isNaNBits fm y)
    let lt : Bool := if isFloat fm then FVal.cmp (fdecode fm x) (fdecode fm y) == .lt else decide (ival fm x < ival fm y)
    let eq : Bool := if isFloat fm then FVal.cmp (fdecode fm x) (fdecode fm y) == .eq else ival fm x == ival fm y
    laneCmp fm x y = (!nan && lt, !nan && eq, !nan) := by
  cases hf : isFloat fm
  case false => simp [laneCmp, hf]
  case true =>
    by_cases hnan : fdecode fm x = .nan ∨ fdecode fm y = .nan
    · have hbits : (isNaNBits fm x || isNaNBits fm y) = true := by simpa [isNaNBits] using hnan
      simp [laneCmp, hf, hnan, hbits]
    · have hbits : (isNaNBits fm x || isNaNBits fm y) = false := by simpa [isNaNBits] using hnan
      simp [laneCmp, hf, hnan, hbits]

/-- The outcome of a comparison in each lane. -/
def cmpLane (g : Bool → Bool → Bool → Bool) (w : Slot) (a b : Line) (i : Nat) : Bool :=
  let n := laneBits w.fmt.toNat
  let q := laneCmp w.fmt.toNat (laneAt n a i) (laneAt n b i)
  g q.1 q.2.1 q.2.2

theorem cmp2_eq (g : Bool → Bool → Bool → Bool) (w : Slot) (a b c : Line) :
    cmp2 (fun q => g q.1 q.2.1 q.2.2) w a b c =
      lanewise (laneBits w.fmt.toNat) fun i => (if cmpLane g w a b i then 2 ^ laneBits w.fmt.toNat - 1 else 0, cmpLane g w a b i) := by
  simp only [cmp2, zipWith_lanes, lanewise, List.map_map, List.any_map]
  rfl

/-- Each comparison is a vector operation with its own outcome in each lane. -/
theorem compareOps_exec {e : Nat × (Slot → Instr) × (Bool → Bool → Bool → Bool)} (he : e ∈ compareOps) (w : Slot) (s : State) :
    exec (e.2.1 w) s = vec s e.1 w (cmp2 fun q => e.2.2 q.1 q.2.1 q.2.2) := by
  simp only [compareOps, List.mem_cons, List.not_mem_nil, or_false] at he
  rcases he with rfl | rfl | rfl | rfl | rfl | rfl
  all_goals rfl

/-- vsel packs each lane from the source that its condition lane names. -/
theorem exec_vsel (w : Slot) (s : State) : exec (.vsel w) s = vec s 0x056 w fun w a b c =>
    let n := laneBits w.fmt.toNat
    let r := pack n ((List.range (512 / n)).map fun i => if laneAt n c i ≠ 0 then laneAt n a i else laneAt n b i)
    (r, r != 0) := by
  dsimp only [exec]
  simp only [execVsel, zipWith_zip_lanes]

/-- vclamp bounds each lane, and tells of a NaN or of a lane that it changed. -/
theorem exec_vclamp (w : Slot) (s : State) : exec (.vclamp w) s = vec s 0x057 w fun w a b c =>
    let fm := w.fmt.toNat
    let n := laneBits fm
    let v (i : Nat) : Nat := laneMin fm (laneMax fm (laneAt n a i) (laneAt n b i)) (laneAt n c i)
    lanewise n fun i => (v i, if isFloat fm then isNaNBits fm (v i) else v i != laneAt n a i) := by
  have hne (n : Nat) (v x : Nat → Nat) : ((List.range n).map v != (List.range n).map x) = (List.range n).any fun i => v i != x i := by
    rw [Bool.eq_iff_iff]
    simp
  dsimp only [exec]
  rw [execVclamp]
  congr 1
  funext w a b c
  simp only [zipWith_zip_lanes]
  simp only [lanes_eq_map_laneAt, lanewise, hne, List.any_map]
  split <;> rfl

/-- Settles O31: each operation's line is computed lane by lane. -/
theorem compareLanes : Obligations.CompareLanes := by
  intro s w fm n
  refine ⟨fun e he h => ?compare, fun h => ?select, fun h => ?clamp⟩
  case compare =>
    intro x y nan lt eq t
    have ht (i : Nat) : cmpLane e.2.2 w (srcA s e.1 w) (srcB s e.1 w) i = t i := by
      rw [cmpLane, laneCmp_eq]
    rw [compareOps_exec he w s]
    refine vec_lanewise_of h (cmp2_eq e.2.2 w _ _ _) (fun i => ?_) fun i => iff_of_eq (congrArg (· = true) (ht i))
    have hpos : 0 < 2 ^ n := Nat.two_pow_pos n
    rw [ht]
    refine Nat.mod_eq_of_lt (b := 2 ^ n) ?_
    split
    · exact Nat.sub_one_lt hpos.ne'
    · exact hpos
  case select =>
    rw [exec_vsel]
    refine ⟨_, vec_result h rfl, fun i hi => (laneAt_pack _ hi).trans (Nat.mod_eq_of_lt ?_)⟩
    split <;> exact laneAt_lt _ _ _
  case clamp =>
    intro x v
    rw [exec_vclamp]
    refine vec_lanewise_of h rfl (fun i => rfl) fun i => ?_
    split
    · exact Iff.rfl
    · exact bne_iff_ne

end Sys2Proof.Machine
end

section
/-! OBLIGATIONS. Reductions (11 R317, R326). -/

namespace Sys2Proof.Machine

/-! ### A tree that picks one of each pair -/

section
variable {α : Type} {op : α → α → α} {R : α → α → Prop}

theorem length_pairUp (op : α → α → α) (l : List α) : (tree.pairUp op l).length = (l.length + 1) / 2 := by
  induction l using tree.pairUp.induct with
  | case1 x y r ih => simp [tree.pairUp, ih]; omega
  | case2 l hl =>
    obtain _ | ⟨x, _ | ⟨y, r⟩⟩ := l
    · simp [tree.pairUp]
    · simp [tree.pairUp]
    · exact (hl x y r rfl).elim

theorem mem_of_mem_pairUp (hpick : ∀ x y, op x y = x ∨ op x y = y) {l : List α} {z : α} (h : z ∈ tree.pairUp op l) : z ∈ l := by
  induction l using tree.pairUp.induct with
  | case1 x y r ih =>
    rw [tree.pairUp, List.mem_cons] at h
    obtain rfl | h := h
    · obtain hxy | hxy := hpick x y <;> simp [hxy]
    · simp [ih h]
  | case2 l hl =>
    rwa [tree.pairUp] at h
    exact hl

/-- Every entry has one above it among the combined pairs. -/
theorem exists_above_pairUp (hrefl : ∀ x, R x x) (hleft : ∀ x y, R x (op x y)) (hright : ∀ x y, R y (op x y)) {l : List α} {x : α}
    (h : x ∈ l) : ∃ z ∈ tree.pairUp op l, R x z := by
  induction l using tree.pairUp.induct with
  | case1 u v r ih =>
    simp only [tree.pairUp, List.mem_cons, exists_eq_or_imp]
    simp only [List.mem_cons] at h
    obtain rfl | rfl | h := h
    · exact .inl (hleft _ _)
    · exact .inl (hright _ _)
    · exact .inr (ih h)
  | case2 l hl =>
    rw [tree.pairUp]
    · exact ⟨x, h, hrefl x⟩
    · exact hl

/-- A tree over a nonempty list that its levels suffice for leaves one of the list's entries, above which none stands. -/
theorem tree_pick (hpick : ∀ x y, op x y = x ∨ op x y = y) (hrefl : ∀ x, R x x) (htrans : ∀ x y z, R x y → R y z → R x z)
    (hleft : ∀ x y, R x (op x y)) (hright : ∀ x y, R y (op x y)) (n : Nat) {l : List α} (hne : l ≠ []) (hlen : l.length ≤ 2 ^ n) :
    ∃ r ∈ l, tree op n l = [r] ∧ ∀ x ∈ l, R x r := by
  induction n generalizing l with
  | zero =>
    match l, hne with
    | [r], _ => exact ⟨r, by simp, rfl, by simp [hrefl]⟩
    | _ :: _ :: _, _ => simp at hlen
  | succ n ih =>
    have hpos : 0 < l.length := List.length_pos_iff.mpr hne
    have hne' : tree.pairUp op l ≠ [] := List.length_pos_iff.mp (by rw [length_pairUp]; omega)
    obtain ⟨r, hr, htree, habove⟩ := ih hne' (by rw [length_pairUp]; omega)
    refine ⟨r, mem_of_mem_pairUp hpick hr, htree, fun x hx => ?_⟩
    obtain ⟨z, hz, hxz⟩ := exists_above_pairUp hrefl hleft hright hx
    exact htrans x z r hxz (habove z hz)

end

/-! ### Reductions of a line -/

/-- An integer sum is exact and fitted once. -/
theorem redSum_integer (leafF : (FVal → Nat) → Nat → Nat → Nat) (leafI : Int → Int → Int) {w : Slot} (a b c : Line)
    (h : isFloat w.fmt.toNat = false) :
    let fm := w.fmt.toNat
    let n := laneBits fm
    let r := fitInt fm (w.sat == 1) ((List.range (512 / n)).map fun i => leafI (ival fm (laneAt n a i)) (ival fm (laneAt n b i))).sum
    redSum leafF leafI w a b c = (lane0 r.1, r.2) := by
  simp [redSum, h, zipWith_lanes, List.sum_eq_foldl]

/-- A float sum rounds each leaf and each combination, neighbours first. -/
theorem redSum_float (leafF : (FVal → Nat) → Nat → Nat → Nat) (leafI : Int → Int → Int) {w : Slot} (a b c : Line)
    (h : isFloat w.fmt.toNat = true) :
    let fm := w.fmt.toNat
    let n := laneBits fm
    let fin (v : FVal) : Nat := (fencode fm w.rnd.toNat (w.sat == 1) v).bits
    let r := (tree (fun u v => fin (FVal.add w.rnd.toNat (fdecode fm u) (fdecode fm v))) 6
      ((List.range (512 / n)).map fun i => leafF fin (laneAt n a i) (laneAt n b i))).headD 0
    redSum leafF leafI w a b c = (lane0 r, isNaNBits fm r) := by
  simp [redSum, h, zipWith_lanes]

/-- A pick over float lanes starts from the lanes' canonical encodings. -/
theorem redPick_float {g : Nat → Nat → Nat → Nat} {pick : Nat → Nat → Nat} {w : Slot} (a b c : Line) (h : isFloat w.fmt.toNat = true)
    (hg : g w.fmt.toNat = pick) :
    let fm := w.fmt.toNat
    let n := laneBits fm
    let r := (tree pick 6 ((List.range (512 / n)).map fun i => (fencode fm 0 false (fdecode fm (laneAt n a i))).bits)).headD 0
    redPick g w a b c = (lane0 r, isNaNBits fm r) := by
  simp [redPick, h, hg, map_lanes]

/-- A pick over integer lanes leaves a lane above which none stands, and no condition. -/
theorem redPick_integer {g : Nat → Nat → Nat → Nat} {R : Nat → Nat → Prop} {w : Slot} (a b c : Line) (h : isFloat w.fmt.toNat = false)
    (hpick : ∀ x y, g w.fmt.toNat x y = x ∨ g w.fmt.toNat x y = y) (hrefl : ∀ x, R x x) (htrans : ∀ x y z, R x y → R y z → R x z)
    (hleft : ∀ x y, R x (g w.fmt.toNat x y)) (hright : ∀ x y, R y (g w.fmt.toNat x y)) :
    let n := laneBits w.fmt.toNat
    ∃ r, redPick g w a b c = (lane0 r, false) ∧ (∃ i ∈ List.range (512 / n), r = laneAt n a i) ∧
      ∀ i ∈ List.range (512 / n), R (laneAt n a i) r := by
  intro n
  have hlen : 0 < (lanes n a).length ∧ (lanes n a).length ≤ 2 ^ 6 := by
    rw [lanes, List.length_map, List.length_range]
    obtain hn | hn | hn := laneBits_cases w.fmt.toNat <;> simp [n, hn]
  obtain ⟨r, hr, htree, habove⟩ := tree_pick hpick hrefl htrans hleft hright 6 (List.length_pos_iff.mp hlen.1) hlen.2
  rw [lanes_eq_map_laneAt] at hr habove
  obtain ⟨i, hi, rfl⟩ := List.mem_map.mp hr
  refine ⟨_, ?_, ⟨i, hi, rfl⟩, List.forall_mem_map.mp habove⟩
  simp [redPick, h, n, htree]

section
variable {fm : Nat}

theorem laneMax_float (h : isFloat fm = true) :
    laneMax fm = fun x y => (fencode fm 0 false (FVal.max (fdecode fm x) (fdecode fm y))).bits := by
  funext x y
  simp [laneMax, h]

theorem laneMin_float (h : isFloat fm = true) :
    laneMin fm = fun x y => (fencode fm 0 false (FVal.min (fdecode fm x) (fdecode fm y))).bits := by
  funext x y
  simp [laneMin, h]

/-- The greater of two integer lanes is one of them, and neither exceeds it. -/
theorem laneMax_integer (h : isFloat fm = false) (x y : Nat) : (laneMax fm x y = x ∨ laneMax fm x y = y) ∧
    ival fm x ≤ ival fm (laneMax fm x y) ∧ ival fm y ≤ ival fm (laneMax fm x y) := by
  simp only [laneMax, h, Bool.false_eq_true, if_false]
  split
  · exact ⟨.inr rfl, by omega, le_rfl⟩
  · exact ⟨.inl rfl, le_rfl, by omega⟩

/-- The lesser of two integer lanes is one of them, and exceeds neither. -/
theorem laneMin_integer (h : isFloat fm = false) (x y : Nat) : (laneMin fm x y = x ∨ laneMin fm x y = y) ∧
    ival fm (laneMin fm x y) ≤ ival fm x ∧ ival fm (laneMin fm x y) ≤ ival fm y := by
  simp only [laneMin, h, Bool.false_eq_true, if_false]
  split
  · exact ⟨.inl rfl, le_rfl, by omega⟩
  · exact ⟨.inr rfl, by omega, le_rfl⟩

end

theorem isFloat_of_integer {fm : Nat} (h : fm ∈ [1, 2, 3, 11]) : isFloat fm = false := by
  revert fm
  decide

/-- Settles O34: sums by `redSum_integer` and `redSum_float`, picks by `redPick_integer` and `redPick_float`. -/
theorem reductions : Obligations.Reductions := by
  intro s w fm n num
  refine ⟨fun hfm => ?integer, fun hf => ?float⟩
  case integer =>
    have hf : isFloat fm = false := isFloat_of_integer hfm
    refine ⟨fun h => ?sum, fun h => ?dot, fun h => ?max, fun h => ?min⟩ <;> dsimp only [exec]
    case sum => exact ⟨_, _, vec_result h (redSum_integer _ _ _ _ _ hf), rfl⟩
    case dot => exact ⟨_, _, vec_result h (redSum_integer _ _ _ _ _ hf), rfl⟩
    case max =>
      obtain ⟨r, hr, hmem, habove⟩ := redPick_integer (g := laneMax) (R := fun x y => ival fm x ≤ ival fm y) (srcA s 0x079 w) (srcB s 0x079 w)
        (srcC s 0x079 w) hf (fun x y => (laneMax_integer hf x y).1) (fun _ => le_rfl) (fun _ _ _ => le_trans)
        (fun x y => (laneMax_integer hf x y).2.1) fun x y => (laneMax_integer hf x y).2.2
      exact ⟨r, vec_result h hr, hmem, habove⟩
    case min =>
      obtain ⟨r, hr, hmem, hbelow⟩ := redPick_integer (g := laneMin) (R := fun x y => ival fm y ≤ ival fm x) (srcA s 0x07A w) (srcB s 0x07A w)
        (srcC s 0x07A w) hf (fun x y => (laneMin_integer hf x y).1) (fun _ => le_rfl) (fun _ _ _ hxy hyz => hyz.trans hxy)
        (fun x y => (laneMin_integer hf x y).2.1) fun x y => (laneMin_integer hf x y).2.2
      exact ⟨r, vec_result h hr, hmem, hbelow⟩
  case float =>
    intro fin add pick line
    refine ⟨fun h => ?sum, fun h => ?dot, fun h => ?max, fun h => ?min⟩ <;> dsimp only [exec]
    case sum => exact vec_result h (redSum_float _ _ _ _ _ hf)
    case dot => exact vec_result h (redSum_float _ _ _ _ _ hf)
    case max => exact vec_result h (redPick_float _ _ _ hf (laneMax_float hf))
    case min => exact vec_result h (redPick_float _ _ _ hf (laneMin_float hf))

end Sys2Proof.Machine
end

section
/-! OBLIGATIONS. Butterflies (11 R317, R328, R329). -/

namespace Sys2Proof.Machine

/-- A CI16 lane of a butterfly: both parts, each halved under SCL and fitted (11 R328). -/
def bflyParts (w : Slot) (re im : Int) : Nat × Bool :=
  ((bflyInt 2 w re).1 + 65536 * (bflyInt 2 w im).1, (bflyInt 2 w re).2 || (bflyInt 2 w im).2)

theorem laneBits_dvd (fm : Nat) : laneBits fm ∣ 512 := by
  obtain h | h | h := laneBits_cases fm <;> rw [h] <;> decide

section
variable {w : Slot} (a b c : Line)

/-- Butterflies on integer lanes: each lane's sum or difference, halved under SCL, fitted (11 R328). -/
theorem bflyCalc_integer (hfloat : w.fmt.toNat ≠ 7) (hcomplex : w.fmt.toNat ≠ 4) :
    let fm := w.fmt.toNat
    let h := 2 ^ w.imm.toNat
    let x (i : Nat) : Int := ival fm (laneAt (laneBits fm) a i)
    bflyCalc w a b c = lanewise (laneBits fm) fun i => bflyInt fm w (if i / h % 2 = 0 then x i + x (i + h) else x (i - h) - x i) := by
  simp only [bflyCalc, if_neg hfloat, if_neg hcomplex, getD_lanes (laneBits_dvd _), packed_eq_lanewise, beq_iff_eq]

/-- Butterflies on CI16 lanes: the same for each part (11 R328). -/
theorem bflyCalc_complex (hfmt : w.fmt.toNat = 4) :
    let h := 2 ^ w.imm.toNat
    let v (f : Nat → Int) (i : Nat) : Int :=
      if i / h % 2 = 0 then f (laneAt 32 a i) + f (laneAt 32 a (i + h)) else f (laneAt 32 a (i - h)) - f (laneAt 32 a i)
    bflyCalc w a b c = lanewise 32 fun i => bflyParts w (v cre i) (v cim i) := by
  have hn : laneBits 4 = 32 := rfl
  have h32 : 32 ∣ 512 := by decide
  have h47 : ¬4 = 7 := by decide
  simp only [bflyCalc, hfmt, hn, if_neg h47, if_true, getD_lanes h32, beq_iff_eq]
  exact packed_eq_lanewise 32 _

/-- Butterflies on FP32 lanes: each sum or difference, halved exactly under SCL, rounded once (11 R328). -/
theorem bflyCalc_float (hfmt : w.fmt.toNat = 7) :
    let h := 2 ^ w.imm.toNat
    let x (i : Nat) : FVal := fdecode 7 (laneAt 32 a i)
    let sum (i : Nat) : FVal :=
      if i / h % 2 = 0 then FVal.add w.rnd.toNat (x i) (x (i + h)) else FVal.add w.rnd.toNat (x (i - h)) (x i).neg
    let v (i : Nat) : Nat :=
      (fencode 7 w.rnd.toNat (w.sat == 1) (if w.md.toNat % 2 = 1 then FVal.mul (sum i) (.fin false 1 (-1)) else sum i)).bits
    bflyCalc w a b c = lanewise 32 fun i => (v i, isNaNBits 7 (v i)) := by
  have hn : laneBits 7 = 32 := rfl
  have h32 : 32 ∣ 512 := by decide
  simp only [bflyCalc, hfmt, hn, getD_lanes h32, tested_eq_lanewise, beq_iff_eq, if_true]

/-- Butterflies with a twiddle: each part's sum or difference with the product at the upper lane of the pair (11 R329). -/
theorem bflytCalc_eq :
    let h := 2 ^ w.imm.toNat
    let re (l : Line) (i : Nat) : Int := cre (laneAt 32 l i)
    let im (l : Line) (i : Nat) : Int := cim (laneAt 32 l i)
    let pr (i : Nat) : Int := rndshift w.rnd.toNat (re a (i + h) * re b (i + h) - im a (i + h) * im b (i + h)) 15
    let pi (i : Nat) : Int := rndshift w.rnd.toNat (re a (i + h) * im b (i + h) + im a (i + h) * re b (i + h)) 15
    let v (i : Nat) : Int := if i / h % 2 = 0 then re a i + pr i else re a (i - h) - pr (i - h)
    let u (i : Nat) : Int := if i / h % 2 = 0 then im a i + pi i else im a (i - h) - pi (i - h)
    bflytCalc w a b c = lanewise 32 fun i => bflyParts w (v i) (u i) := by
  have h32 : 32 ∣ 512 := by decide
  simp only [bflytCalc, getD_lanes h32]
  refine (packed_eq_lanewise 32 _).trans (congrArg (lanewise 32) (funext fun i => ?_))
  by_cases hlow : i / 2 ^ w.imm.toNat % 2 = 0 <;> simp [hlow, bflyParts]

end

/-- Settles O35: each format's butterflies are computed lane by lane. -/
theorem butterflies : Obligations.Butterflies := by
  intro s w h low scl fit re im
  refine ⟨fun hf hfmt => ?integer, fun hf hfmt => ?complex, fun hf hfmt => ?float, fun hf => ?twiddle⟩
  case integer =>
    intro fm n x v
    have hfloat : fm ≠ 7 ∧ fm ≠ 4 ∧ elemBits fm = n := by
      obtain hw | hw := hfmt <;> simp [fm, n, hw, elemBits, laneBits]
    obtain ⟨h7, h4, hn⟩ := hfloat
    have hlt (i : Nat) : (v i).1 < 2 ^ n := hn ▸ fitInt_lt fm _ _
    exact vec_lanewise_of hf (bflyCalc_integer _ _ _ h7 h4) (fun i => Nat.mod_eq_of_lt (hlt i)) fun i => Iff.rfl
  case complex =>
    intro a v u
    exact vec_complex hf (bflyCalc_complex _ _ _ (by rw [hfmt]; rfl))
  case float =>
    intro x sum v
    exact vec_lanewise hf (bflyCalc_float _ _ _ (by rw [hfmt]; rfl))
  case twiddle =>
    intro a b pr pi v u
    exact vec_complex hf (bflytCalc_eq _ _ _)

end Sys2Proof.Machine
end

section
/-! SUPPORT. Every step keeps every spine in its range (22 R479, R480): what each function of the model does to the clocks. All but device time, the
spines and the machine's restart leave them as they are (`clk_…`). -/

namespace Sys2Proof.Machine

variable {s : State}

/-! ### The clocks of what a function answers -/

/-- A step's next state, where it has one, has clocks with the property. -/
def OutClk (P : Clk → Prop) : Out → Prop
  | .next t => P t.clk
  | .fault _ => True
  | .refused _ => True

@[simp] theorem outClk_next {P : Clk → Prop} {t : State} : OutClk P (.next t) ↔ P t.clk := Iff.rfl

theorem OutClk.mono {P Q : Clk → Prop} {o : Out} (h : ∀ c, P c → Q c) (ho : OutClk P o) : OutClk Q o := by
  cases o with
  | next t => exact h _ ho
  | fault _ => trivial
  | refused _ => trivial

/-- The state in which an instruction of a control core ends, where it names one, has these clocks. -/
def CRes.HasClk (c : Clk) : CRes → Prop
  | .done t => t.clk = c
  | .lost t => t.clk = c
  | .wait => True
  | .trap _ _ _ => True

@[simp] theorem hasClk_done {c : Clk} {t : State} : (CRes.done t).HasClk c ↔ t.clk = c := Iff.rfl

@[simp] theorem hasClk_lost {c : Clk} {t : State} : (CRes.lost t).HasClk c ↔ t.clk = c := Iff.rfl

@[simp] theorem hasClk_wait {c : Clk} : CRes.wait.HasClk c ↔ True := Iff.rfl

@[simp] theorem hasClk_trap {c : Clk} {k n : Nat} {v : Word} : (CRes.trap k n v).HasClk c ↔ True := Iff.rfl

@[simp] theorem hasClk_ite {c : Clk} {p : Prop} [Decidable p] {a b : CRes} :
    (if p then a else b).HasClk c ↔ if p then a.HasClk c else b.HasClk c := by
  split <;> rfl

/-- The state that one side of a copy leaves, where it names one, has these clocks. -/
def CopyRes.HasClk (c : Clk) : CopyRes → Prop
  | .done t _ _ => t.clk = c
  | .refused t _ _ => t.clk = c
  | .refill _ => True
  | .bank _ _ => True
  | .fault _ _ _ _ => True

theorem clk_ite {c : Prop} [Decidable c] {a b : State} {k : Clk} (ha : a.clk = k) (hb : b.clk = k) : (if c then a else b).clk = k := by
  split <;> assumption

/-- What each step of a fold leaves, the fold leaves. -/
theorem foldl_same {α β γ : Type} {p : β → γ} {g : β → α → β} {l : List α} {b : β} (h : ∀ b a, p (g b a) = p b) :
    p (l.foldl g b) = p b := by
  induction l generalizing b with
  | nil => rfl
  | cons a l ih => exact ih.trans (h b a)

@[simp] theorem clk_foldl {α : Type} {g : State → α → State} {l : List α} (h : ∀ s a, (g s a).clk = s.clk) : (l.foldl g s).clk = s.clk :=
  foldl_same h

@[simp] theorem outClk_onFab {P : Clk → Prop} {g : Fab → Fab} : OutClk P (onFab s g) ↔ P s.clk := Iff.rfl

@[simp] theorem outClk_onHub {P : Clk → Prop} {g : Hub → Hub} : OutClk P (onHub s g) ↔ P s.clk := Iff.rfl

@[simp] theorem outClk_onClk {P : Clk → Prop} {g : Clk → Clk} : OutClk P (onClk s g) ↔ P (g s.clk) := Iff.rfl

@[simp] theorem outClk_onSec {P : Clk → Prop} {g : Sec → Sec} : OutClk P (onSec s g) ↔ P s.clk := Iff.rfl

@[simp] theorem outClk_onMem {P : Clk → Prop} {g : MemSys → MemSys} : OutClk P (onMem s g) ↔ P s.clk := Iff.rfl

/-! ### The named operations over the state -/

@[simp] theorem clk_fillBucket {rid : Nat} : (fillBucket s rid).clk = s.clk := rfl

@[simp] theorem clk_takeFree : (takeFree s).2.clk = s.clk := rfl

/-! ### Fault reports (15 R419-R422) -/

@[simp] theorem clk_repDone {rid : Option Nat} : (repDone s rid).clk = s.clk := by
  unfold repDone
  split <;> rfl

@[simp] theorem clk_postNext {part fn : Nat} : (postNext s part fn).clk = s.clk := by
  unfold postNext
  dsimp only
  repeat' split
  all_goals simp

@[simp] theorem clk_postRun {part fn : Nat} : (postRun s part fn).clk = s.clk := by
  simp [postRun]

@[simp] theorem clk_postLine {part fn : Nat} {rid : Option Nat} {line : Line} : (postLine s part fn rid line).clk = s.clk := by
  simp [postLine]

@[simp] theorem clk_poisonReport {part pa : Nat} : (poisonReport s part pa).clk = s.clk := by
  simp [poisonReport]

@[simp] theorem clk_poisonPost : (poisonPost s).clk = s.clk := by
  simp [poisonPost]

@[simp] theorem clk_postReport {core ctx : Nat} {p : Rep} : (postReport s core ctx p).clk = s.clk := by
  unfold postReport
  split <;> simp

@[simp] theorem clk_haltReport {core : Nat} : (haltReport s core).clk = s.clk := by
  unfold haltReport
  split <;> simp

/-! ### Completion of a control-core instruction (09 R249-R251) -/

@[simp] theorem clk_setCc {c : CC} : (setCc s c).clk = s.clk := rfl

@[simp] theorem hasClk_srcCheck {c : CC} {srcs : List (Nat × Bool)} {k : CRes} {clk : Clk} (hk : k.HasClk clk) : (srcCheck c srcs k).HasClk clk := by
  unfold srcCheck
  split
  · exact trivial
  · exact ite_keeps trivial hk

@[simp] theorem hasClk_toDest {c : CC} {d : Nat} {c' : CC} : (toDest s c d c').HasClk s.clk := by
  unfold toDest
  split <;> simp

@[simp] theorem clk_ccDone : (ccDone s).clk = s.clk := rfl

@[simp] theorem clk_ccWait : (ccWait s).clk = s.clk := rfl

@[simp] theorem clk_ccTrap {kind code : Nat} {val : Word} {epc : BitVec 16} : (ccTrap s kind code val epc).clk = s.clk := by
  unfold ccTrap
  dsimp only
  split <;> simp

@[simp] theorem clk_ccFinish {r : CRes} (h : r.HasClk s.clk) : OutClk (· = s.clk) (ccFinish s r) := by
  cases r with
  | done t => exact (clk_ccDone).trans h
  | wait => exact clk_ccWait
  | lost t => exact (clk_ccWait).trans h
  | trap kind code val => exact clk_ccTrap

@[simp] theorem hasClk_sramRead {a n : Nat} {k : Nat → CRes} (h : ∀ v, (k v).HasClk s.clk) : (sramRead s a n k).HasClk s.clk := by
  unfold sramRead
  split
  · exact rfl
  · exact h _

/-! ### Integer instructions (09 R253-R257) -/

@[simp] theorem clk_ccAlu {d a b : BitVec 5} {p q : BitVec 1} {f : Word → Word → Word} : OutClk (· = s.clk) (ccAlu s d a b p q f) :=
  clk_ccFinish (hasClk_srcCheck hasClk_toDest)

@[simp] theorem clk_ccAlu1 {d a : BitVec 5} {p : BitVec 1} {f : Word → Word} : OutClk (· = s.clk) (ccAlu1 s d a p f) :=
  clk_ccFinish (hasClk_srcCheck hasClk_toDest)

@[simp] theorem clk_ccAlu0 {d : BitVec 5} {v : Word} : OutClk (· = s.clk) (ccAlu0 s d v) := by
  simp [ccAlu0]

/-! ### Loads, stores and branches (09 R258-R260) -/

@[simp] theorem hasClk_sramCheck {e : Word} {width : Nat} {k : CRes} {c : Clk} (hk : k.HasClk c) : (sramCheck e width k).HasClk c :=
  ite_keeps trivial (ite_keeps trivial hk)

@[simp] theorem clk_ccLoad {d a : BitVec 5} {p : BitVec 1} {i : BitVec 15} {width : Nat} {f : Nat → Word} :
    OutClk (· = s.clk) (ccLoad s d a p i width f) :=
  clk_ccFinish (hasClk_srcCheck (ite_keeps trivial (hasClk_sramCheck (hasClk_sramRead fun _ => hasClk_toDest))))

@[simp] theorem clk_ccStore {d a : BitVec 5} {p q : BitVec 1} {i : BitVec 14} {width : Nat} : OutClk (· = s.clk) (ccStore s d a p q i width) :=
  clk_ccFinish (hasClk_srcCheck (ite_keeps trivial (hasClk_sramCheck rfl)))

@[simp] theorem clk_ccBranch {a b : BitVec 5} {p q : BitVec 1} {o : BitVec 14} {f : Word → Word → Bool} :
    OutClk (· = s.clk) (ccBranch s a b p q o f) := by
  simp [ccBranch]

@[simp] theorem clk_execJ {_d : BitVec 5} {o : BitVec 21} : OutClk (· = s.clk) (execJ _d o s) := rfl

@[simp] theorem clk_execJal {d : BitVec 5} {o : BitVec 21} : OutClk (· = s.clk) (execJal d o s) := by
  simp [execJal]

@[simp] theorem clk_execJalr {d a : BitVec 5} {p : BitVec 1} {i : BitVec 15} : OutClk (· = s.clk) (execJalr d a p i s) := by
  simp [execJalr]

/-! ### Full/empty instructions, traps and CSRs (09 R261-R275) -/

@[simp] theorem clk_execFeClr {d _a _b : BitVec 5} {_p _q : BitVec 1} : OutClk (· = s.clk) (execFeClr d _a _b _p _q s) := by
  simp [execFeClr]

@[simp] theorem clk_execFeTst {d a _b : BitVec 5} {_p _q : BitVec 1} : OutClk (· = s.clk) (execFeTst d a _b _p _q s) := by
  simp [execFeTst]

@[simp] theorem clk_execFeWait {_d a _b : BitVec 5} {p _q : BitVec 1} : OutClk (· = s.clk) (execFeWait _d a _b p _q s) := by
  simp [execFeWait]

@[simp] theorem clk_execFeTake {d a _b : BitVec 5} {p _q : BitVec 1} : OutClk (· = s.clk) (execFeTake d a _b p _q s) := by
  simp [execFeTake]

@[simp] theorem clk_execFeAny {d a _b : BitVec 5} {p _q : BitVec 1} : OutClk (· = s.clk) (execFeAny d a _b p _q s) := by
  simp [execFeAny]

@[simp] theorem clk_execTrap {_d _a b : BitVec 5} {_p _q : BitVec 1} : OutClk (· = s.clk) (execTrap _d _a b _p _q s) := by
  simp [execTrap]

@[simp] theorem clk_execTret {d a b : BitVec 5} {p q : BitVec 1} : OutClk (· = s.clk) (execTret d a b p q s) := by
  simp [execTret]

@[simp] theorem clk_execWfe {_d _a _b : BitVec 5} {_p _q : BitVec 1} : OutClk (· = s.clk) (execWfe _d _a _b _p _q s) := by
  simp [execWfe]

@[simp] theorem clk_execBrk {_d _a _b : BitVec 5} {_p _q : BitVec 1} : OutClk (· = s.clk) (execBrk _d _a _b _p _q s) := by
  simp [execBrk]

@[simp] theorem clk_ccCsr {op : Nat} {d a : BitVec 5} {p : BitVec 1} {n : BitVec 12} : OutClk (· = s.clk) (ccCsr s op d a p n) := by
  simp [ccCsr]

@[simp] theorem clk_execIllegalInstruction {w : BitVec 32} : OutClk (· = s.clk) (execIllegalInstruction w s) := by
  simp [execIllegalInstruction]

@[simp] theorem clk_execEventTrap {core : Nat} : OutClk (· = s.clk) (execEventTrap core s) := by
  unfold execEventTrap
  dsimp only
  split <;> simp

@[simp] theorem clk_execTimerEvent {core : Nat} : OutClk (· = s.clk) (execTimerEvent core s) := by
  unfold execTimerEvent
  split <;> rfl

@[simp] theorem clk_execRegisterFill {idx : Nat} : OutClk (· = s.clk) (execRegisterFill idx s) := rfl

/-! ### Stream commands (10 R277-R303) -/

@[simp] theorem clk_ccCmd {word : Word} {reg : Nat} {req bad : Bool} {desc : Option (Nat × Bool)} {wait : Bool} {body : Word → CRes}
    (h : ∀ v, (body v).HasClk s.clk) : OutClk (· = s.clk) (ccCmd s word reg req bad desc wait body) :=
  clk_ccFinish (ite_keeps trivial (ite_keeps trivial (hasClk_srcCheck (ite_keeps trivial (h _)))))

@[simp] theorem hasClk_withBlock {d : Word} {n : Nat} {k : Nat → CRes} (h : ∀ v, (k v).HasClk s.clk) : (withBlock s d n k).HasClk s.clk :=
  ite_keeps trivial (ite_keeps trivial (hasClk_sramRead h))

@[simp] theorem clk_quick {reg : Nat} : (quick s reg).clk = s.clk := rfl

@[simp] theorem hasClk_thenFab {c : Clk} {g : Fab → Fab} : (thenFab s g).HasClk c ↔ s.clk = c := Iff.rfl

@[simp] theorem clk_execInject {a : BitVec 5} {p : BitVec 1} {l : BitVec 3} {n : BitVec 4} : OutClk (· = s.clk) (execInject a p l n s) := by
  simp [execInject]

@[simp] theorem clk_execVend {a : BitVec 5} {p : BitVec 1} {n : BitVec 4} : OutClk (· = s.clk) (execVend a p n s) := by
  simp [execVend]

@[simp] theorem clk_execRdout {r a : BitVec 5} {p : BitVec 1} {n : BitVec 4} : OutClk (· = s.clk) (execRdout r a p n s) := by
  simp [execRdout]

@[simp] theorem clk_execAccrst {a : BitVec 5} {p : BitVec 1} {j : BitVec 3} : OutClk (· = s.clk) (execAccrst a p j s) := by
  simp [execAccrst]

@[simp] theorem clk_execRdacc {r a : BitVec 5} {p : BitVec 1} {j : BitVec 3} : OutClk (· = s.clk) (execRdacc r a p j s) := by
  simp [execRdacc]

@[simp] theorem clk_execVbind {a : BitVec 5} {p : BitVec 1} {n : BitVec 4} : OutClk (· = s.clk) (execVbind a p n s) := by
  simp [execVbind]

@[simp] theorem clk_execRmark {a : BitVec 5} {p : BitVec 1} : OutClk (· = s.clk) (execRmark a p s) := by
  simp [execRmark]

@[simp] theorem clk_execWcommit {r a : BitVec 5} {p : BitVec 1} : OutClk (· = s.clk) (execWcommit r a p s) := by
  simp [execWcommit]

@[simp] theorem clk_ccFence {sc : Nat} : OutClk (· = s.clk) (ccFence s sc) := by
  simp [ccFence]

@[simp] theorem clk_ccDrain {m : BitVec 9} : OutClk (· = s.clk) (ccDrain s m) := by
  simp [ccDrain]

@[simp] theorem clk_execKwr {a : BitVec 5} {p : BitVec 1} : OutClk (· = s.clk) (execKwr a p s) := by
  unfold execKwr
  refine ite_keeps (clk_ccFinish trivial) (clk_ccCmd fun _ => hasClk_withBlock fun _ => ?_)
  dsimp only
  split
  · exact trivial
  · exact ite_keeps trivial rfl

@[simp] theorem clk_execCopy {r a : BitVec 5} {p : BitVec 1} {n : BitVec 4} : OutClk (· = s.clk) (execCopy r a p n s) := by
  unfold execCopy
  refine clk_ccCmd fun _ => hasClk_withBlock fun _ => ite_keeps trivial (ite_keeps trivial ?_)
  split
  · exact trivial
  split
  · exact trivial
  · exact rfl

@[simp] theorem clk_execSbind {r a : BitVec 5} {p : BitVec 1} {n : BitVec 4} : OutClk (· = s.clk) (execSbind r a p n s) := by
  simp [execSbind]

@[simp] theorem clk_execAflush {r a : BitVec 5} {p : BitVec 1} {n : BitVec 4} : OutClk (· = s.clk) (execAflush r a p n s) := by
  simp [execAflush]

@[simp] theorem clk_ccAmo {op : Nat} {r a : BitVec 5} {p : BitVec 1} {n : BitVec 4} : OutClk (· = s.clk) (ccAmo s op r a p n) := by
  simp [ccAmo]

@[simp] theorem clk_execSwap {r a : BitVec 5} {p : BitVec 1} : OutClk (· = s.clk) (execSwap r a p s) := by
  unfold execSwap
  split <;> simp

@[simp] theorem clk_ccDrift {kind cmd : Nat} {r a : BitVec 5} {p : BitVec 1} : OutClk (· = s.clk) (ccDrift s kind cmd r a p) := by
  unfold ccDrift
  refine clk_ccCmd fun _ => ite_keeps trivial ?_
  dsimp only
  split
  · exact rfl
  split
  · exact rfl
  · exact ite_keeps rfl (ite_keeps rfl (ite_keeps rfl rfl))

@[simp] theorem clk_execLease {r a : BitVec 5} {p : BitVec 1} : OutClk (· = s.clk) (execLease r a p s) := by
  unfold execLease
  split <;> simp

@[simp] theorem clk_execLeaseEnd {_a : BitVec 5} {_p : BitVec 1} : OutClk (· = s.clk) (execLeaseEnd _a _p s) := by
  unfold execLeaseEnd
  split <;> simp

@[simp] theorem clk_execLaunch {r a : BitVec 5} {p : BitVec 1} : OutClk (· = s.clk) (execLaunch r a p s) := by
  unfold execLaunch
  split <;> simp

@[simp] theorem clk_ccXinv {kind cmd : Nat} {a : BitVec 5} {p : BitVec 1} : OutClk (· = s.clk) (ccXinv s kind cmd a p) := by
  unfold ccXinv
  dsimp only
  split <;> simp

/-! ### Memory-tile operations and events (05 R133-R138, 06 R165-R170, 13 R371-R378) -/

@[simp] theorem clk_execCreditSend {key idx : Nat} : OutClk (· = s.clk) (execCreditSend key idx s) := by
  unfold execCreditSend
  split <;> rfl

@[simp] theorem clk_execCreditArrival {idx : Nat} : OutClk (· = s.clk) (execCreditArrival idx s) := by
  unfold execCreditArrival
  split <;> rfl

@[simp] theorem clk_execBounceArrival {key sel : Nat} : OutClk (· = s.clk) (execBounceArrival key sel s) := by
  unfold execBounceArrival
  split <;> rfl

@[simp] theorem clk_execQuotaWindowClear {key : Nat} : OutClk (· = s.clk) (execQuotaWindowClear key s) := rfl

@[simp] theorem clk_execDomainSequence {key plane dom : Nat} : OutClk (· = s.clk) (execDomainSequence key plane dom s) := by
  unfold execDomainSequence
  dsimp only
  repeat' split
  all_goals simp

@[simp] theorem clk_execSectionRetire {key plane dom : Nat} : OutClk (· = s.clk) (execSectionRetire key plane dom s) := by
  unfold execSectionRetire
  dsimp only
  repeat' split
  all_goals simp

@[simp] theorem clk_cmdFault {key : Nat} {q : MemReq} {cause kind : Nat} : (cmdFault s key q cause kind).clk = s.clk := by
  unfold cmdFault
  dsimp only
  split <;> simp

@[simp] theorem clk_cmdAccept {key : Nat} {q : MemReq} : (cmdAccept s key q).clk = s.clk := by
  unfold cmdAccept
  dsimp only
  repeat' split
  all_goals simp

@[simp] theorem clk_execBankAccept {key bank : Nat} : OutClk (· = s.clk) (execBankAccept key bank s) := by
  unfold execBankAccept
  dsimp only
  repeat' split
  all_goals simp

/-! ### Switches, links and ports (07 R180-R191, 10 R286) -/

@[simp] theorem clk_execTokenArrival {key sel : Nat} : OutClk (· = s.clk) (execTokenArrival key sel s) := by
  unfold execTokenArrival
  dsimp only
  repeat' split
  all_goals simp

@[simp] theorem clk_execSwitchRoute {key : Nat} {wide : Bool} {dir src : Nat} : OutClk (· = s.clk) (execSwitchRoute key wide dir src s) := by
  unfold execSwitchRoute
  dsimp only
  repeat' split
  all_goals simp

@[simp] theorem clk_execPermitReturn {key sel : Nat} : OutClk (· = s.clk) (execPermitReturn key sel s) := by
  unfold execPermitReturn
  split <;> rfl

@[simp] theorem clk_execBurstHeaderArrival {key sel : Nat} : OutClk (· = s.clk) (execBurstHeaderArrival key sel s) := by
  unfold execBurstHeaderArrival
  dsimp only
  repeat' split
  all_goals simp

@[simp] theorem clk_execSinkArrival {core sel : Nat} : OutClk (· = s.clk) (execSinkArrival core sel s) := by
  unfold execSinkArrival
  dsimp only
  repeat' split
  all_goals simp

@[simp] theorem clk_execVinPortEmit {core port : Nat} : OutClk (· = s.clk) (execVinPortEmit core port s) := by
  unfold execVinPortEmit
  dsimp only
  repeat' split
  all_goals simp

/-! ### AG nodes (04 R115-R122, 10 R288-R292) -/

@[simp] theorem clk_strRaise {key n i : Nat} {round : BitVec 32} {cause : Nat} {info0 info1 : Word} :
    (strRaise s key n i round cause info0 info1).clk = s.clk := rfl

@[simp] theorem clk_strRefill {key n i fn va : Nat} {half : Option (Nat × Nat)} : (strRefill s key n i fn va half).clk = s.clk := by
  unfold strRefill
  split <;> rfl

@[simp] theorem clk_readIssue {key n i : Nat} : (readIssue s key n i).clk = s.clk := by
  unfold readIssue
  dsimp only
  split <;> simp

@[simp] theorem clk_readSp {key n i : Nat} : (readSp s key n i).clk = s.clk := by
  unfold readSp
  dsimp only
  split <;> simp

@[simp] theorem clk_execStreamReadReturn {key idx : Nat} : OutClk (· = s.clk) (execStreamReadReturn key idx s) := by
  unfold execStreamReadReturn
  dsimp only
  repeat' split
  all_goals simp

@[simp] theorem clk_storeIssue {key n i : Nat} {t : Token} : (storeIssue s key n i t).clk = s.clk := by
  unfold storeIssue
  dsimp only
  repeat' split
  all_goals simp

@[simp] theorem clk_storeSp {key n i : Nat} {t : Token} : (storeSp s key n i t).clk = s.clk := by
  unfold storeSp
  dsimp only
  repeat' split
  all_goals simp

@[simp] theorem clk_accIssue {key n i : Nat} {t : Token} : (accIssue s key n i t).clk = s.clk := by
  unfold accIssue
  dsimp only
  repeat' split
  all_goals simp

@[simp] theorem clk_copyFail {key : Nat} {c : AgCmd} {ctx cause : Nat} {info0 info1 : Word} :
    (copyFail s key c ctx cause info0 info1).clk = s.clk := by
  simp [copyFail]

theorem hasClk_copyLine {key : Nat} {c : AgCmd} {sp a ctx : Nat} {wr : Option (Line × BitVec 16)} : (copyLine s key c sp a ctx wr).HasClk s.clk := by
  unfold copyLine
  extract_lets part fn info dummy reg
  refine ite_keeps trivial (ite_keeps trivial ?_)
  split
  · split <;> exact trivial
  · split <;> exact rfl
  split
  · exact trivial
  · exact trivial
  extract_lets pa route r t
  have ht : t.clk = s.clk := clk_poisonPost
  split
  · split
    · exact trivial
    refine ite_keeps trivial ?_
    split
    · exact ite_keeps trivial rfl
    split
    · exact trivial
    · split <;> first | exact trivial | exact rfl
  split
  · split
    · exact trivial
    · exact ht
    · split <;> exact ht
  · extract_lets r
    split
    · exact rfl
    all_goals exact trivial

@[simp] theorem clk_copyStep {key : Nat} {c : AgCmd} : (copyStep s key c).clk = s.clk := by
  unfold copyStep
  extract_lets b total ctx latch sp wr
  refine clk_ite rfl (clk_ite clk_copyFail ?_)
  have hline : (copyLine s key c sp (copyAddr c) ctx wr).HasClk s.clk := hasClk_copyLine
  split
  next t d tag heq =>
    rw [heq] at hline
    have ht : t.clk = s.clk := hline
    exact clk_ite ht (clk_ite ht ht)
  · rfl
  · exact clk_ite rfl rfl
  next t cause i0 heq =>
    rw [heq] at hline
    exact clk_copyFail.trans hline
  next cause i0 i1 too heq =>
    dsimp only
    split
    · exact clk_copyFail
    · exact clk_ite clk_copyFail clk_copyFail

@[simp] theorem clk_sbindStep {key : Nat} {c : AgCmd} : (sbindStep s key c).clk = s.clk := by
  unfold sbindStep
  dsimp only
  repeat' split
  all_goals simp

@[simp] theorem clk_aflushStep {key : Nat} {c : AgCmd} : (aflushStep s key c).clk = s.clk := by
  unfold aflushStep
  dsimp only
  repeat' split
  all_goals simp

@[simp] theorem clk_cmdRun {key : Nat} {c : AgCmd} : (cmdRun s key c).clk = s.clk := by
  unfold cmdRun
  dsimp only
  split <;> simp

@[simp] theorem clk_cmdTurn {key : Nat} : (cmdTurn s key).clk = s.clk := by
  unfold cmdTurn
  split
  · rfl
  · exact clk_cmdRun
  · split
    · rfl
    · exact clk_cmdRun

@[simp] theorem clk_execStreamAccess {key : Nat} : OutClk (· = s.clk) (execStreamAccess key s) := by
  unfold execStreamAccess
  dsimp only
  repeat' split
  all_goals simp

/-! ### Walkers, refills and invalidations (02 R54-R72) -/

@[simp] theorem clk_execWalk {die idx : Nat} : OutClk (· = s.clk) (execWalk die idx s) := by
  unfold execWalk
  dsimp only
  repeat' split
  all_goals simp

@[simp] theorem clk_refillStream {w : Walk} {a : TEnt ⊕ (Nat × Nat × Nat)} : (refillStream s w a).clk = s.clk := by
  unfold refillStream
  dsimp only
  repeat' split
  all_goals simp

@[simp] theorem clk_refillCommand {w : Walk} {a : TEnt ⊕ (Nat × Nat × Nat)} : (refillCommand s w a).clk = s.clk := by
  unfold refillCommand
  dsimp only
  repeat' split
  all_goals simp

@[simp] theorem clk_refillHeld {w : Walk} {a : TEnt ⊕ (Nat × Nat × Nat)} : (refillHeld s w a).clk = s.clk := by
  unfold refillHeld
  dsimp only
  repeat' split
  all_goals simp

@[simp] theorem clk_postAll {part : Nat} : (postAll s part).clk = s.clk := by
  simp [postAll]

@[simp] theorem clk_refillHub {w : Walk} {a : TEnt ⊕ (Nat × Nat × Nat)} : (refillHub s w a).clk = s.clk := by
  simp [refillHub]

@[simp] theorem clk_execRefillReturn {die idx : Nat} : OutClk (· = s.clk) (execRefillReturn die idx s) := by
  unfold execRefillReturn
  dsimp only
  repeat' split
  all_goals simp

@[simp] theorem clk_modAgs {part : Nat} {g : Nat → Elem → Elem} : (modAgs s part g).clk = s.clk := rfl

@[simp] theorem clk_invReach {part idx : Nat} {v : Inval} : (invReach s part idx v).clk = s.clk := rfl

@[simp] theorem clk_invWake {part : Nat} {v : Inval} : (invWake s part v).clk = s.clk := rfl

@[simp] theorem clk_execInvalidationComplete {part idx : Nat} : OutClk (· = s.clk) (execInvalidationComplete part idx s) := by
  unfold execInvalidationComplete
  dsimp only
  repeat' split
  all_goals simp

/-! ### What a stop does to a region (07 R200, 15 R429) -/

@[simp] theorem clk_moveCores {src dst : List Nat} : (moveCores s src dst).clk = s.clk := rfl

@[simp] theorem clk_writeSave {p : Part} {r : Region} {id : Nat} {cores virt slots : List Nat} {reason : Nat} {dtime : Word} :
    (writeSave s p r id cores virt slots reason dtime).clk = s.clk := rfl

@[simp] theorem clk_saveLaunch {rid : Nat} {r : Region} {reason keep : Nat} : (saveLaunch s rid r reason keep).clk = s.clk := by
  unfold saveLaunch
  dsimp only
  repeat' split
  all_goals simp

/-! ### Round controllers (04 R111-R125, 07 R194-R205) -/

@[simp] theorem clk_execRoundEntry {key plane : Nat} : OutClk (· = s.clk) (execRoundEntry key plane s) := by
  unfold execRoundEntry
  dsimp only
  repeat' split
  all_goals simp

@[simp] theorem clk_execEndMark {key plane : Nat} : OutClk (· = s.clk) (execEndMark key plane s) := by
  unfold execEndMark
  dsimp only
  repeat' split
  all_goals simp

@[simp] theorem clk_execEarlyEdgeRequest {key plane : Nat} : OutClk (· = s.clk) (execEarlyEdgeRequest key plane s) := by
  unfold execEarlyEdgeRequest
  dsimp only
  repeat' split
  all_goals simp

@[simp] theorem clk_execNonedgeSignal {rid plane : Nat} : OutClk (· = s.clk) (execNonedgeSignal rid plane s) := by
  unfold execNonedgeSignal
  dsimp only
  repeat' split
  all_goals simp

@[simp] theorem clk_holdPerform {key : Nat} {h : Held} : (holdPerform s key h).clk = s.clk := by
  unfold holdPerform
  dsimp only
  split <;> simp

@[simp] theorem clk_performAll {fuel : Nat} {l : List (Nat × Nat × List Held)} : (performAll fuel s l).clk = s.clk := by
  induction fuel generalizing s l with
  | zero => rfl
  | succ n ih =>
    refine clk_ite rfl ?_
    dsimp only
    split
    · exact ih.trans clk_holdPerform
    · rfl

@[simp] theorem clk_commitRegion {ctx rid : Nat} : (commitRegion ctx s rid).clk = s.clk := by
  unfold commitRegion
  split
  · rfl
  extract_lets n held second t f1 f2 f3 f4 f5 l u
  have ht : t.clk = s.clk := clk_ite rfl clk_performAll
  exact clk_ite ht ht

@[simp] theorem clk_execRoundCommit {rid plane : Nat} : OutClk (· = s.clk) (execRoundCommit rid plane s) := by
  unfold execRoundCommit
  dsimp only
  repeat' split
  all_goals simp

@[simp] theorem clk_reportFaults {rid ctx effect : Nat} {both : BitVec 32 → Bool} : (reportFaults s rid ctx effect both).clk = s.clk := by
  unfold reportFaults
  dsimp only
  split <;> simp

@[simp] theorem clk_applyDiscard {rid ctx : Nat} : (applyDiscard s rid ctx).1.clk = s.clk := by
  unfold applyDiscard
  dsimp only
  repeat' split
  all_goals simp

@[simp] theorem clk_stopReport {rid ctx effect : Nat} : (stopReport s rid ctx effect).clk = s.clk := by
  simp [stopReport]

@[simp] theorem clk_actNow {rid ctx : Nat} : (actNow s rid ctx).clk = s.clk := by
  unfold actNow
  dsimp only
  repeat' split
  all_goals simp

@[simp] theorem clk_applyGated {rid ctx : Nat} : (applyGated s rid ctx).clk = s.clk := by
  unfold applyGated
  split <;> simp

@[simp] theorem clk_execRoundDiscard {rid : Nat} : OutClk (· = s.clk) (execRoundDiscard rid s) := by
  unfold execRoundDiscard
  dsimp only
  repeat' split
  all_goals simp

@[simp] theorem clk_execGateSignalArrival {key : Nat} : OutClk (· = s.clk) (execGateSignalArrival key s) := by
  unfold execGateSignalArrival
  dsimp only
  repeat' split
  all_goals simp

@[simp] theorem clk_holdAgain {key : Nat} {h : Held} : (holdAgain s key h).1.clk = s.clk := by
  unfold holdAgain
  dsimp only
  repeat' split
  all_goals simp

@[simp] theorem clk_nodeAgain {who : Held → Bool} {key : Nat} : (nodeAgain who s key).1.clk = s.clk :=
  foldl_same (p := fun b : State × List Held × Bool => b.1.clk) fun b h => by
    dsimp only
    split <;> simp

@[simp] theorem clk_regionAgain {who : Held → Bool} {r : Region} : (regionAgain who s r).1.clk = s.clk :=
  foldl_same (p := fun b : State × Bool => b.1.clk) fun _ _ => clk_nodeAgain

@[simp] theorem clk_restartPair {rid : Nat} : (restartPair s rid).clk = s.clk := by
  unfold restartPair
  extract_lets rs a
  have ha : a.1.clk = s.clk := foldl_same (p := fun b : State × Bool => b.1.clk) fun b q => by split <;> simp
  exact clk_ite ha ha

@[simp] theorem clk_driftResume {did : Nat} : (driftResume s did).clk = s.clk := by
  unfold driftResume
  split
  · rfl
  · exact ite_keeps (P := fun t : State => t.clk = s.clk) clk_regionAgain clk_regionAgain

@[simp] theorem clk_mendFrame {rid : Nat} {r : Region} {q : Nat × Nat × Nat × Nat} : (mendFrame s rid r q).1.clk = s.clk := by
  unfold mendFrame
  dsimp only
  repeat' split
  all_goals simp

@[simp] theorem clk_rescan {rid : Nat} {r : Region} : (rescan s rid r).1.clk = s.clk :=
  foldl_same (p := fun b : State × Rescan => b.1.clk) fun b q => by
    dsimp only
    split <;> simp

@[simp] theorem clk_rescanPair {rid : Nat} : (rescanPair s rid).1.clk = s.clk :=
  foldl_same (p := fun b : State × Rescan => b.1.clk) fun b q => by split <;> simp

@[simp] theorem clk_rescanStop {rid : Nat} {r : Region} {q : Nat × Nat × Nat × Nat} : (rescanStop s rid r q).clk = s.clk := by
  simp [rescanStop]

@[simp] theorem clk_execReplay {rid : Nat} : OutClk (· = s.clk) (execReplay rid s) := by
  unfold execReplay
  dsimp only
  repeat' split
  all_goals simp

@[simp] theorem clk_execTimingError {key : Nat} : OutClk (· = s.clk) (execTimingError key s) := by
  unfold execTimingError
  dsimp only
  repeat' split
  all_goals simp

@[simp] theorem clk_execBreakpointStop {key plane slot : Nat} : OutClk (· = s.clk) (execBreakpointStop key plane slot s) := by
  unfold execBreakpointStop
  dsimp only
  repeat' split
  all_goals simp

@[simp] theorem clk_execQuiesceDetect {rid plane : Nat} : OutClk (· = s.clk) (execQuiesceDetect rid plane s) := by
  unfold execQuiesceDetect
  dsimp only
  repeat' split
  all_goals simp

@[simp] theorem clk_kwrDrop {k n : Nat} : (kwrDrop s k n).clk = s.clk := by
  unfold kwrDrop
  dsimp only
  split <;> simp

@[simp] theorem clk_dropOwed {cores : List Nat} : (dropOwed s cores).clk = s.clk := rfl

@[simp] theorem clk_driftAgain {did : Nat} {d : Region} : (driftAgain s did d).clk = s.clk := rfl

@[simp] theorem clk_readsComplete {r : Region} {mine : Nat → Bool} : (readsComplete s r mine).clk = s.clk := by
  refine clk_foldl fun s k => clk_foldl fun s i => clk_ite ?_ rfl
  have h := clk_execStreamReadReturn (key := k) (idx := i) (s := s)
  split
  next t ht => rwa [ht] at h
  · rfl

@[simp] theorem clk_driftFaults {o did n : Nat} : (driftFaults s o did n).clk = s.clk := by
  simp only [driftFaults]
  repeat' split
  all_goals simp

@[simp] theorem clk_driftSaveAs {did reason keep : Nat} : (driftSaveAs s did reason keep).clk = s.clk := by
  unfold driftSaveAs
  extract_lets t
  split
  · rfl
  extract_lets o u v own ctxs w
  have hv : v.clk = s.clk := clk_driftFaults.trans clk_readsComplete
  exact clk_ite (clk_driftAgain.trans hv) (clk_saveLaunch.trans hv)

@[simp] theorem clk_driftSave {did : Nat} : (driftSave s did).clk = s.clk := clk_driftSaveAs

@[simp] theorem clk_driftsOut {rid keep : Nat} : (driftsOut s rid keep).clk = s.clk := clk_foldl fun _ _ => clk_driftSaveAs

@[simp] theorem clk_preloadsEnd {rid : Nat} {r : Region} : (preloadsEnd s rid r).clk = s.clk := by
  simp [preloadsEnd]

@[simp] theorem clk_freeRegion {rid : Nat} : (freeRegion s rid).clk = s.clk := by
  unfold freeRegion
  extract_lets t u
  have hu : u.clk = s.clk := clk_driftsOut
  split
  · exact hu
  · exact clk_ite (clk_preloadsEnd.trans hu) (clk_preloadsEnd.trans hu)

@[simp] theorem clk_retireEvent {rid ctx : Nat} {r : Region} : (retireEvent s rid ctx r).clk = s.clk := by
  unfold retireEvent
  dsimp only
  split <;> simp

@[simp] theorem clk_retireCtx {rid ctx : Nat} : (retireCtx s rid ctx).clk = s.clk := by
  unfold retireCtx
  split
  · rfl
  extract_lets second t drift last u f1 f2 f3 f4 f5 v
  have ht : t.clk = s.clk := clk_ite rfl clk_retireEvent
  have hv : v.clk = s.clk := clk_ite (clk_driftsOut.trans ht) ht
  clear_value v drift
  cases drift with
  | some d => exact hv
  | none =>
    dsimp only
    split
    · exact hv
    · exact clk_ite hv (clk_freeRegion.trans hv)

@[simp] theorem clk_execRetirementSweep {rid plane : Nat} : OutClk (· = s.clk) (execRetirementSweep rid plane s) := by
  unfold execRetirementSweep
  dsimp only
  repeat' split
  all_goals simp

/-! ### Launch records and image loads (08 R213-R217, 14 R383-R398) -/

@[simp] theorem clk_fetchRec {part fn q va minClass : Nat} : (fetchRec s part fn q va minClass).1.clk = s.clk := by
  simp [fetchRec]

@[simp] theorem clk_fetchReport {part fn : Nat} {info : Word} : (fetchReport s part fn info).clk = s.clk := by
  simp [fetchReport]

@[simp] theorem clk_fetchQueue {part fn q : Nat} : (fetchQueue s part fn q).clk = s.clk := by
  unfold fetchQueue
  dsimp only
  repeat' split
  all_goals simp

@[simp] theorem clk_fetchChild {part fn : Nat} : (fetchChild s part fn).clk = s.clk := by
  unfold fetchChild
  dsimp only
  repeat' split
  all_goals simp

@[simp] theorem clk_execLaunchFetch {part fn q : Nat} : OutClk (· = s.clk) (execLaunchFetch part fn q s) := by
  unfold execLaunchFetch
  dsimp only
  repeat' split
  all_goals simp

@[simp] theorem clk_refusePlaced {rid code cause : Nat} : (refusePlaced s rid code cause).clk = s.clk := by
  unfold refusePlaced
  split
  · rfl
  extract_lets l t u
  have hu : u.clk = s.clk := clk_ite clk_postReport clk_postReport
  refine (clk_foldl fun s q => ?_).trans hu
  split
  · rfl
  · exact clk_ite rfl clk_freeRegion

@[simp] theorem clk_loadFail {idx code cause : Nat} {l : Load} : (loadFail s idx l code cause).clk = s.clk := by
  unfold loadFail
  dsimp only
  split <;> simp

@[simp] theorem clk_prepareStart {rid : Nat} : (prepareStart s rid).clk = s.clk := by
  unfold prepareStart
  split
  · rfl
  extract_lets l step binds a b
  refine clk_ite clk_refusePlaced ?_
  clear_value b
  cases b with
  | none => exact clk_refusePlaced
  | some f => rfl

@[simp] theorem clk_startCore {core : Nat} {sup : Bool} : (startCore s core sup).clk = s.clk := rfl

@[simp] theorem clk_execStartTokenArrival {core : Nat} : OutClk (· = s.clk) (execStartTokenArrival core s) := by
  unfold execStartTokenArrival
  dsimp only
  repeat' split
  all_goals simp

@[simp] theorem clk_loadEnd {idx : Nat} {l : Load} : (loadEnd s idx l).clk = s.clk := by
  unfold loadEnd
  refine clk_ite clk_loadFail ?_
  split
  · exact clk_ite clk_loadFail rfl
  · exact clk_ite clk_loadFail clk_prepareStart

@[simp] theorem clk_loadFrame {idx : Nat} {l : Load} {v : BitVec 256} : (loadFrame s idx l v).clk = s.clk := by
  unfold loadFrame
  extract_lets bad n last keep
  have hbad : bad.clk = s.clk := clk_loadFail
  refine clk_ite (clk_ite rfl hbad) (clk_ite hbad (clk_ite ?_ (clk_ite (clk_ite clk_loadEnd hbad) (clk_ite rfl hbad))))
  split
  · exact hbad
  · rfl

@[simp] theorem clk_execPlaneLoadFrame {idx : Nat} : OutClk (· = s.clk) (execPlaneLoadFrame idx s) := by
  unfold execPlaneLoadFrame
  split
  · exact rfl
  extract_lets core held a r l' src t
  have ht : t.clk = s.clk := clk_poisonPost
  refine ite_keeps rfl ?_
  split
  · exact ht
  · exact clk_loadFrame.trans ht
  · exact clk_postReport.trans ht
  · exact ite_keeps (clk_loadFail.trans ht) ht
  · exact clk_loadFail.trans ht

/-! ### The scheduler, swaps, lending, saves and restores (14 R396-R409, 15 R429-R437) -/

@[simp] theorem clk_beginLaunch {rid : Nat} {warm cold : Bool} : (beginLaunch s rid warm cold).clk = s.clk := by
  unfold beginLaunch
  split
  · rfl
  · exact clk_ite clk_prepareStart rfl

@[simp] theorem clk_placeLaunch {l : Launch} {spots : List (Nat × Nat)} {n : Nat} {warm : Bool} :
    (placeLaunch s l spots n warm).clk = s.clk := clk_foldl fun _ _ => clk_beginLaunch

@[simp] theorem clk_placeDrift {l : Launch} {host n : Nat} {warm : Bool} : (placeDrift s l host n warm).clk = s.clk := by
  unfold placeDrift
  split
  · rfl
  · exact clk_beginLaunch

@[simp] theorem clk_execSchedulerDecision {part : Nat} : OutClk (· = s.clk) (execSchedulerDecision part s) := by
  unfold execSchedulerDecision
  dsimp only
  repeat' split
  all_goals simp

@[simp] theorem clk_execNotbeforeReached {part idx : Nat} : OutClk (· = s.clk) (execNotbeforeReached part idx s) := by
  unfold execNotbeforeReached
  split <;> rfl

@[simp] theorem clk_execBatchPromotion {part idx : Nat} : OutClk (· = s.clk) (execBatchPromotion part idx s) := by
  simp only [execBatchPromotion]
  repeat' split
  all_goals rfl

@[simp] theorem clk_execSwapCheck {rid : Nat} : OutClk (· = s.clk) (execSwapCheck rid s) := by
  simp only [execSwapCheck]
  repeat' split
  all_goals rfl

@[simp] theorem clk_execSwapTick {rid : Nat} : OutClk (· = s.clk) (execSwapTick rid s) := by
  unfold execSwapTick
  dsimp only
  repeat' split
  all_goals simp

@[simp] theorem clk_execRevokeArrival {key plane : Nat} : OutClk (· = s.clk) (execRevokeArrival key plane s) := by
  unfold execRevokeArrival
  split <;> rfl

@[simp] theorem clk_execRelendArrival {key plane : Nat} : OutClk (· = s.clk) (execRelendArrival key plane s) := by
  unfold execRelendArrival
  split <;> rfl

@[simp] theorem clk_execLendWithdraw {rid : Nat} : OutClk (· = s.clk) (execLendWithdraw rid s) := by
  unfold execLendWithdraw
  dsimp only
  repeat' split
  all_goals simp

@[simp] theorem clk_execDistributorSend {key plane : Nat} : OutClk (· = s.clk) (execDistributorSend key plane s) := by
  unfold execDistributorSend
  dsimp only
  repeat' split
  all_goals simp

@[simp] theorem clk_execStageSample {key plane : Nat} : OutClk (· = s.clk) (execStageSample key plane s) := by
  unfold execStageSample
  dsimp only
  repeat' split
  all_goals simp

@[simp] theorem clk_saveRegion {rid reason : Nat} : (saveRegion s rid reason).clk = s.clk := by
  unfold saveRegion
  extract_lets rs need t
  have ht : t.clk = s.clk := clk_foldl fun _ _ => clk_driftsOut
  clear_value rs t
  split
  · split
    · extract_lets s1 part ib s2 s3 ia
      have h2 : s2.clk = s.clk := clk_saveLaunch.trans ht
      exact clk_saveLaunch.trans h2
    · exact ht
  · split
    · exact clk_saveLaunch.trans ht
    · exact ht

@[simp] theorem clk_saveAnswer {part reason : Nat} : (saveAnswer s part reason).clk = s.clk := by
  unfold saveAnswer
  split <;> rfl

@[simp] theorem clk_execPreemption {rid : Nat} : OutClk (· = s.clk) (execPreemption rid s) := by
  unfold execPreemption
  split
  · exact rfl
  extract_lets n room reason t
  have ht : t.clk = s.clk := clk_foldl fun _ _ => by split <;> simp
  refine ite_keeps rfl (ite_keeps (clk_saveAnswer.trans clk_saveRegion) (ite_keeps rfl (ite_keeps ht ?_)))
  exact (clk_saveAnswer.trans clk_saveRegion).trans ht

@[simp] theorem clk_restoreAt {x : Saved} {q : Nat × Nat} {rid : Nat} : (restoreAt s x q rid).clk = s.clk := rfl

@[simp] theorem clk_slotsRead {part : Nat} {x : Saved} : (slotsRead s part x).1.clk = s.clk := by
  unfold slotsRead
  split <;> rfl

@[simp] theorem clk_saveDropped {part id : Nat} {x : Saved} : (saveDropped s part id x).clk = s.clk := by
  unfold saveDropped
  split <;> simp

@[simp] theorem clk_corruptBack {part i : Nat} {l : Launch} {saves : List (Nat × Saved)} {x : Saved} {cause : Nat} :
    (corruptBack s part i l saves x cause).clk = s.clk := by
  simp [corruptBack]

@[simp] theorem clk_restoreDrift {x : Saved} {host : Nat} : (restoreDrift s x host).clk = s.clk := by
  unfold restoreDrift
  split <;> simp

@[simp] theorem clk_execRestoreSavedLaunch {part idx : Nat} : OutClk (· = s.clk) (execRestoreSavedLaunch part idx s) := by
  unfold execRestoreSavedLaunch
  split
  · exact rfl
  split
  · exact rfl
  extract_lets y saves a b t x' y' won rid
  refine ite_keeps rfl ?_
  split
  · exact clk_corruptBack
  have ht : t.clk = s.clk := by
    unfold t b
    cases y with
    | none => exact clk_slotsRead
    | some q => exact clk_slotsRead.trans clk_slotsRead
  split
  · exact clk_restoreDrift.trans ht
  · extract_lets s1 s2
    have h2 : s2.clk = s.clk := by
      unfold s2
      have h1 : s1.clk = s.clk := clk_restoreAt.trans ht
      clear_value y' s1
      split
      · extract_lets s3
        have h3 : s3.clk = s.clk := clk_restoreAt.trans h1
        exact h3
      · exact h1
    clear_value s2
    exact ite_keeps h2 (clk_restartPair.trans h2)
  · exact ht

/-! ### Host accesses, device time, leases, audit and patrol (21 R473-R475, 22 R478-R485, 23 R489-R491) -/

@[simp] theorem clk_poisoned {l : Line} : (poisoned s l).clk = s.clk := rfl

@[simp] theorem clk_hostRead {part off : Nat} {cache : Bool} : (hostRead s part off cache).clk = s.clk := by
  unfold hostRead
  dsimp only
  repeat' split
  all_goals simp

@[simp] theorem clk_hostWrite {part off : Nat} {mask : BitVec 64} {v : Line} : (hostWrite s part off mask v).clk = s.clk := by
  unfold hostWrite
  dsimp only
  repeat' split
  all_goals simp

@[simp] theorem clk_execPeerInboundAccess {part : Nat} {write : Bool} {off : Nat} {mask : BitVec 64} {v : BitVec 512} :
    OutClk (· = s.clk) (execPeerInboundAccess part write off mask v s) := by
  unfold execPeerInboundAccess
  split <;> simp

@[simp] theorem clk_execBackInvalidate {addr : Nat} : OutClk (· = s.clk) (execBackInvalidate addr s) := rfl

@[simp] theorem clk_cfgRetry : (cfgRetry s).clk = s.clk := rfl

@[simp] theorem clk_execHdmDecoderCommit {pf : Nat} : OutClk (· = s.clk) (execHdmDecoderCommit pf s) := by
  simp only [execHdmDecoderCommit]
  repeat' split
  all_goals rfl

@[simp] theorem clk_execVfEnableWrite {pf n : Nat} {en : Bool} : OutClk (· = s.clk) (execVfEnableWrite pf n en s) := by
  simp only [execVfEnableWrite]
  repeat' split
  all_goals rfl

@[simp] theorem clk_chargeEnergy : (chargeEnergy s).clk = s.clk := rfl

@[simp] theorem clk_execDroopStretch {core : Nat} : OutClk (· = s.clk) (execDroopStretch core s) := by
  unfold execDroopStretch
  split <;> rfl

@[simp] theorem clk_execBucketRefill {rid : Nat} : OutClk (· = s.clk) (execBucketRefill rid s) := by
  unfold execBucketRefill
  dsimp only
  repeat' split
  all_goals simp

@[simp] theorem clk_execLeaseExpiry {rid : Nat} : OutClk (· = s.clk) (execLeaseExpiry rid s) := by
  simp only [execLeaseExpiry]
  repeat' split
  all_goals rfl

@[simp] theorem clk_execLeaseRevoke : OutClk (· = s.clk) (execLeaseRevoke s) := by
  unfold execLeaseRevoke
  dsimp only
  repeat' split
  all_goals simp

@[simp] theorem clk_auditStart {core row : Nat} : (auditStart s core row).clk = s.clk := rfl

@[simp] theorem clk_auditStep {core row : Nat} : (auditStep s core row).clk = s.clk := by
  unfold auditStep
  dsimp only
  repeat' split
  all_goals simp

theorem clk_patrolOnce {part kind addr : Nat} {go : State → State} (h : ∀ t, (go t).clk = t.clk) :
    (patrolOnce s part kind addr go).clk = s.clk := clk_ite rfl (h _)

@[simp] theorem clk_patrolHbm {pa found : Nat} : (patrolHbm s pa found).clk = s.clk := by
  refine clk_ite rfl (clk_patrolOnce fun t => ?_)
  have hcount : (if found = 1 then { t with hub := rasAdd t.hub (tget 0xFF s.mem.owner (groupOf pa)) 3 1 } else t).clk = t.clk := clk_ite rfl rfl
  exact clk_ite hcount (clk_poisonPost.trans hcount)

@[simp] theorem clk_patrolBank {key word found : Nat} : (patrolBank s key word found).clk = s.clk := by
  unfold patrolBank
  split
  · rfl
  · exact clk_ite rfl (clk_patrolOnce fun _ => clk_ite rfl (clk_ite rfl rfl))

@[simp] theorem clk_patrolPlane {key n found : Nat} : (patrolPlane s key n found).clk = s.clk := by
  unfold patrolPlane
  dsimp only
  split
  · rfl
  · exact clk_ite rfl (clk_patrolOnce fun _ => clk_ite rfl rfl)

@[simp] theorem clk_execPatrolRead {kind addr found : Nat} : OutClk (· = s.clk) (execPatrolRead kind addr found s) := by
  unfold execPatrolRead
  split <;> simp

/-! ### Resets, boot and bring-up (01 R39-R43, 23 R492-R505) -/

@[simp] theorem clk_cfgWritePart {n : Nat} {v : Word} : (cfgWritePart s n v).clk = s.clk := by
  unfold cfgWritePart
  dsimp only
  split <;> simp

@[simp] theorem clk_execScrubComplete {part : Nat} : OutClk (· = s.clk) (execScrubComplete part s) := by
  unfold execScrubComplete
  dsimp only
  repeat' split
  all_goals simp

@[simp] theorem clk_partReset {part cause : Nat} {abort : Bool} : (partReset s part cause abort).clk = s.clk := by
  unfold partReset
  dsimp only
  split <;> simp

@[simp] theorem clk_execPrstReq {part : Nat} : OutClk (· = s.clk) (execPrstReq part s) := by
  simp [execPrstReq]

@[simp] theorem clk_execPrstRel {part : Nat} : OutClk (· = s.clk) (execPrstRel part s) := by
  unfold execPrstRel
  dsimp only
  split <;> simp

@[simp] theorem clk_execPartitionBootDone {part : Nat} : OutClk (· = s.clk) (execPartitionBootDone part s) := by
  unfold execPartitionBootDone
  dsimp only
  split <;> simp

@[simp] theorem clk_modMregs {i : Nat} {v : Line} : (modMregs s i v).clk = s.clk := rfl

@[simp] theorem clk_execPowerClockFault : OutClk (· = s.clk) (execPowerClockFault s) := by
  unfold execPowerClockFault
  split <;> simp

/-! ### Mailbox commands (23 R496-R502) -/

@[simp] theorem clk_mbDone {pf : Nat} {result : Nat} {reply : List Byte} : (mbDone s pf result reply).clk = s.clk := rfl

theorem outClk_mbRun {P : Clk → Prop} {pf : Nat} {c : MbCmd} {body : Part → State} (hs : P s.clk) (hb : ∀ p, P (body p).clk) :
    OutClk P (mbRun s pf c body) := by
  refine ite_keeps hs ?_
  split
  · exact hb _
  · exact hs

@[simp] theorem clk_execGetinfo {pf : Nat} : OutClk (· = s.clk) (execGetinfo pf s) := outClk_mbRun rfl fun _ => rfl

@[simp] theorem clk_execGetfail {pf : Nat} : OutClk (· = s.clk) (execGetfail pf s) := outClk_mbRun rfl fun _ => rfl

@[simp] theorem clk_forceParts {n : Nat} {v : Word} : (forceParts s n v).clk = s.clk := by
  simp [forceParts]

@[simp] theorem clk_execPartset {pf : Nat} : OutClk (· = s.clk) (execPartset pf s) := by
  refine outClk_mbRun rfl fun p => clk_ite rfl (clk_ite rfl ?_)
  exact clk_cfgWritePart.trans (clk_ite clk_forceParts rfl)

@[simp] theorem clk_execFwstage {pf : Nat} : OutClk (· = s.clk) (execFwstage pf s) := by
  unfold execFwstage
  refine outClk_mbRun rfl fun p => ?_
  extract_lets kind hpa len img code sec
  exact clk_ite clk_mbDone (clk_ite clk_mbDone (clk_ite clk_mbDone clk_mbDone))

@[simp] theorem clk_execSvnlock {pf : Nat} : OutClk (· = s.clk) (execSvnlock pf s) := outClk_mbRun rfl fun _ => clk_ite rfl (clk_ite rfl rfl)

@[simp] theorem clk_execOwnerkey {pf : Nat} : OutClk (· = s.clk) (execOwnerkey pf s) := outClk_mbRun rfl fun _ => clk_ite rfl (clk_ite rfl rfl)

@[simp] theorem clk_execAttest {pf : Nat} : OutClk (· = s.clk) (execAttest pf s) := outClk_mbRun rfl fun _ => rfl

@[simp] theorem clk_execMailboxUnknownOp {pf : Nat} : OutClk (· = s.clk) (execMailboxUnknownOp pf s) := by
  unfold execMailboxUnknownOp
  dsimp only
  split <;> simp

/-! ### The MMIO registers (01 R21-R28, 14 R383-R387) -/

@[simp] theorem clk_refuse {req : Requester} {cause : Nat} : (refuse s req cause).clk = s.clk := by
  unfold refuse
  split <;> rfl

@[simp] theorem clk_execLqdbWrite {part fn q : Nat} {tail : BitVec 32} : OutClk (· = s.clk) (execLqdbWrite part fn q tail s) := by
  unfold execLqdbWrite
  dsimp only
  split <;> simp

@[simp] theorem clk_execLqerrClear {part fn q : Nat} : OutClk (· = s.clk) (execLqerrClear part fn q s) := by
  unfold execLqerrClear
  dsimp only
  split <;> simp

@[simp] theorem clk_execEvdbWrite {part fn e : Nat} {v : BitVec 64} : OutClk (· = s.clk) (execEvdbWrite part fn e v s) := by
  unfold execEvdbWrite
  split <;> rfl

@[simp] theorem clk_xinvCmd {part : Nat} {v : Word} : OutClk (· = s.clk) (xinvCmd part v s) := by
  unfold xinvCmd
  dsimp only
  repeat' split
  all_goals simp

@[simp] theorem clk_rstat {part page code : Nat} : (rstat s part page code).clk = s.clk := rfl

theorem clk_rcmd {part page : Nat} {v : Word} {body : Nat → Region → State} (hb : ∀ n r, (body n r).clk = s.clk) :
    OutClk (· = s.clk) (rcmd part page v s body) := by
  refine ite_keeps rfl (ite_keeps rfl ?_)
  split
  · exact rfl
  · exact hb _ _

@[simp] theorem clk_execRcmdResume {part page : Nat} {v : BitVec 64} : OutClk (· = s.clk) (execRcmdResume part page v s) := by
  refine clk_rcmd fun rid r => clk_ite (clk_ite rfl rfl) (clk_ite rfl ?_)
  exact clk_restartPair

@[simp] theorem clk_abortDrop {r : Region} : (abortDrop s r).clk = s.clk := rfl

@[simp] theorem clk_abortRegion {rid : Nat} : (abortRegion s rid).clk = s.clk := by
  unfold abortRegion
  extract_lets t
  have ht : t.clk = s.clk := clk_driftsOut
  clear_value t
  split
  · exact ht
  · extract_lets live own second u f1 f2
    have hu : u.clk = s.clk := clk_ite ht ((clk_foldl fun _ _ => clk_retireEvent).trans ht)
    exact clk_freeRegion.trans (clk_abortDrop.trans hu)

@[simp] theorem clk_abortDrift {did : Nat} {d : Region} : (abortDrift s did d).clk = s.clk := by
  unfold abortDrift
  split <;> simp

@[simp] theorem clk_execRcmdAbort {part page : Nat} {v : BitVec 64} : OutClk (· = s.clk) (execRcmdAbort part page v s) :=
  clk_rcmd fun _ _ => clk_rstat.trans (clk_ite clk_abortDrift (clk_foldl fun _ _ => clk_abortRegion))

@[simp] theorem clk_execRcmdPurge {part page : Nat} {v : BitVec 64} : OutClk (· = s.clk) (execRcmdPurge part page v s) :=
  clk_rcmd fun _ _ => clk_ite rfl (clk_rstat.trans (clk_foldl fun _ _ => clk_retireCtx))

@[simp] theorem clk_execRcmdSave {part page : Nat} {v : BitVec 64} : OutClk (· = s.clk) (execRcmdSave part page v s) :=
  ite_keeps rfl (clk_rcmd fun _ _ => clk_ite rfl (clk_ite (clk_rstat.trans clk_driftSaveAs) rfl))

@[simp] theorem clk_execRcmdRefusedOp {part page : Nat} {_v : BitVec 64} : OutClk (· = s.clk) (execRcmdRefusedOp part page _v s) := by
  unfold execRcmdRefusedOp
  split <;> rfl

@[simp] theorem clk_rcmdWrite {part page : Nat} {v : Word} : OutClk (· = s.clk) (rcmdWrite part page v s) := by
  unfold rcmdWrite
  split <;> simp

@[simp] theorem clk_plCode {part code : Nat} : (plCode s part code).clk = s.clk := rfl

@[simp] theorem clk_execPlcmdWrite {part : Nat} {v : BitVec 64} : OutClk (· = s.clk) (execPlcmdWrite part v s) := by
  unfold execPlcmdWrite
  dsimp only
  repeat' split
  all_goals simp

@[simp] theorem clk_execConfigSpaceWrite {req : Requester} {core addr : Nat} {v : BitVec 256} :
    OutClk (· = s.clk) (execConfigSpaceWrite req core addr v s) := by
  simp only [execConfigSpaceWrite]
  repeat' split
  all_goals simp

@[simp] theorem clk_execCoreWindowCsrWrite {req : Requester} {core csr : Nat} {v : BitVec 64} :
    OutClk (· = s.clk) (execCoreWindowCsrWrite req core csr v s) := by
  unfold execCoreWindowCsrWrite
  dsimp only
  repeat' split
  all_goals simp

@[simp] theorem clk_pageWrite {part f o : Nat} {vf : Bool} {w x : Word} {lo hi : Bool} : OutClk (· = s.clk) (pageWrite s part f o vf w x lo hi) := by
  unfold pageWrite
  repeat' split
  all_goals simp

@[simp] theorem clk_bootWrite {part o : Nat} {w x : Word} : OutClk (· = s.clk) (bootWrite s part o w x) := by
  simp only [bootWrite]
  repeat' split
  all_goals simp

@[simp] theorem clk_windowWrite {req : Requester} {n o off size : Nat} {v : Word} : OutClk (· = s.clk) (windowWrite s req n o off size v) := by
  unfold windowWrite
  dsimp only
  repeat' split
  all_goals simp

/-! ### The SPDM responder (23 R503) -/

@[simp] theorem clk_spdmReply {pf : Nat} {st : Nat → Nat} {reply : List Byte} : OutClk (· = s.clk) (spdmReply s pf st reply) := by
  simp only [spdmReply]
  repeat' split
  all_goals rfl

@[simp] theorem clk_execNegotiateAlgorithms {pf algs : Nat} : OutClk (· = s.clk) (execNegotiateAlgorithms pf algs s) := by
  unfold execNegotiateAlgorithms
  split <;> simp

@[simp] theorem clk_execGetMeasurements {pf index : Nat} {nonce : BitVec 256} : OutClk (· = s.clk) (execGetMeasurements pf index nonce s) := by
  unfold execGetMeasurements
  split <;> simp

/-! ### The next tile cycle (log 2) -/

@[simp] theorem clk_auditTick {key : Nat} : (auditTick s key).clk = s.clk := by
  unfold auditTick
  dsimp only
  repeat' split
  all_goals simp

@[simp] theorem clk_tileCycle {key : Nat} : (tileCycle s key).clk = s.clk := by
  unfold tileCycle
  dsimp only
  repeat' split
  all_goals simp

/-! ### Errors in stored words (21 R470-R473) -/

@[simp] theorem clk_sramCorrected {core : Nat} : (sramCorrected s core).clk = s.clk := by
  unfold sramCorrected
  split <;> rfl

@[simp] theorem clk_upset {at_ : UpsetAt} {found bit : Nat} : (upset at_ found bit s).clk = s.clk := by
  unfold upset
  dsimp only
  repeat' split
  all_goals simp

/-! ### What an action does (01 R33, 14 R401) -/

@[simp] theorem clk_charged {a : Action} : (charged s a).clk = s.clk := rfl

@[simp] theorem clk_takeAction : (takeAction s).2.clk = s.clk := by
  unfold takeAction
  split <;> rfl

@[simp] theorem clk_fetchSlot {word : Nat} : (fetchSlot s word).clk = s.clk := rfl

@[simp] theorem clk_fetchWordCore {w : Nat} : (fetchWordCore s w).clk = s.clk := rfl

/-! ### Ranges of the spines (22 R479, R480) -/

/-- What `SpinesInRange` says, of the clocks alone. -/
def Clk.Ranged (c : Clk) : Prop :=
  ∀ n, n < 8 → (16 ≤ spMult c n ∧ spMult c n ≤ if n = 7 then 92 else 91) ∧ (16 ≤ spCur c n ∧ spCur c n ≤ if n = 7 then 92 else 91)

theorem Clk.Ranged.of_same {c d : Clk} (h : c.Ranged) (hm : d.mult = c.mult) (hc : d.cur = c.cur) : d.Ranged := fun n hn => by
  unfold spMult spCur
  rw [hm, hc]
  exact h n hn

theorem ranged_reset : ({} : Clk).Ranged := fun n _ => by
  by_cases h7 : n = 7 <;> simp [spMult, spCur, tget, h7]

theorem ranged_setMult {c : Clk} {n m : Nat} (h : c.Ranged) (hm : multOk n m = true) : ({ c with mult := tins c.mult n m } : Clk).Ranged := by
  intro k hk
  obtain ⟨hmult, hcur⟩ := h k hk
  refine ⟨?_, hcur⟩
  by_cases hkn : k = n
  · subst hkn
    have hset : spMult { c with mult := tins c.mult k m } k = m := tget_tins_same _ _ _ _
    rw [hset]
    exact of_decide_eq_true hm
  · have hset : spMult { c with mult := tins c.mult n m } k = spMult c k := tget_tins_ne _ _ _ hkn
    rwa [hset]

theorem ranged_execSpineStep {n : Nat} (h : s.clk.Ranged) : OutClk Clk.Ranged (execSpineStep n s) := by
  by_cases hn : n < 8
  · obtain ⟨t, ht, hmult, hother, heq, hup, hdown⟩ := execSpineStep_moves (s := s) hn
    rw [ht]
    intro k hk
    have hm : spMult t.clk k = spMult s.clk k := by
      unfold spMult
      rw [hmult]
    obtain ⟨hmk, hck⟩ := h k hk
    refine ⟨by rwa [hm], ?_⟩
    by_cases hkn : k = n
    · subst hkn
      rcases Nat.lt_trichotomy (spCur s.clk k) (spMult s.clk k) with hlt | he | hgt
      · rw [hup hlt]
        omega
      · rwa [heq he]
      · have := hdown hgt
        omega
    · rwa [hother k hkn]
  · rw [execSpineStep, if_pos (by omega)]
    exact h

theorem clkPeriod_same (c : Clk) : (clkPeriod c).mult = c.mult ∧ (clkPeriod c).cur = c.cur := by
  unfold clkPeriod
  dsimp only
  split
  · exact ⟨rfl, rfl⟩
  · split
    · exact ⟨rfl, rfl⟩
    · split <;> exact ⟨rfl, rfl⟩

theorem ranged_execDeviceTimePeriod (h : s.clk.Ranged) : OutClk Clk.Ranged (execDeviceTimePeriod s) :=
  h.of_same (clkPeriod_same _).1 (clkPeriod_same _).2

theorem ranged_execDtsetWrite {v : BitVec 64} (h : s.clk.Ranged) : OutClk Clk.Ranged (execDtsetWrite v s) :=
  ite_keeps (h.of_same rfl rfl) h

theorem ranged_execDtfreqWrite {v : BitVec 64} (h : s.clk.Ranged) : OutClk Clk.Ranged (execDtfreqWrite v s) :=
  ite_keeps (h.of_same rfl rfl) h

theorem ranged_execSpineset {pf : Nat} (h : s.clk.Ranged) : OutClk Clk.Ranged (execSpineset pf s) := by
  refine outClk_mbRun h fun p => ?_
  dsimp only
  split
  · exact h
  · split
    next hok => exact ranged_setMult h hok
    · exact h

theorem ranged_execPowerUp (h : s.clk.Ranged) : OutClk Clk.Ranged (execPowerUp s) := by
  unfold execPowerUp
  split
  · unfold bringUp
    dsimp only
    repeat' split
    all_goals exact h
  · exact ranged_reset

theorem ranged_execDevreset {pf : Nat} (h : s.clk.Ranged) : OutClk Clk.Ranged (execDevreset pf s) := outClk_mbRun h fun _ => ranged_reset

theorem ranged_hubBlockWrite {req : Requester} {o : Nat} {w : Word} (h : s.clk.Ranged) : OutClk Clk.Ranged (hubBlockWrite s req o w) :=
  ite_keeps h (ite_keeps (ranged_execDtfreqWrite h) (ite_keeps (h.of_same rfl rfl) (ite_keeps (ranged_execDtsetWrite h) h)))

theorem ranged_of_kept {o : Out} (h : s.clk.Ranged) (ho : OutClk (· = s.clk) o) : OutClk Clk.Ranged o :=
  ho.mono fun c (hc : c = s.clk) => hc ▸ h

theorem ranged_execRegisterWrite {req : Requester} {off size : Nat} {v : BitVec 64} (h : s.clk.Ranged) :
    OutClk Clk.Ranged (execRegisterWrite req off size v s) := by
  unfold execRegisterWrite
  extract_lets base w x lo hi vf t u
  have hu : u.clk.Ranged := h
  clear_value u w
  split
  · exact h
  · exact hu
  · exact ranged_of_kept hu (clk_refuse)
  · exact ranged_of_kept hu (clk_refuse)
  · exact ranged_of_kept hu (clk_refuse)
  split
  · exact ranged_hubBlockWrite hu
  · split
    · exact ranged_of_kept hu clk_pageWrite
    · exact ite_keeps (ranged_of_kept hu clk_bootWrite) hu
  · exact ranged_of_kept hu clk_windowWrite
  · exact hu

/-! ### Every instruction and event -/

theorem clk_execWord {i : Instr} (hi : (encodeWord i).isSome) : OutClk (· = s.clk) (exec i s) := by
  cases i <;> dsimp only [exec]
  case add | sub | and | or | xor | sll | srl | sra | slt | sltu | min | max | minu | maxu | addw | subw | sllw | srlw | sraw | mul | mulh |
      mulhu | mulhsu | div | divu | rem | remu => exact clk_ccAlu
  case clz | ctz | popc | bswap | addi | andi | ori | xori | slti | sltiu | slli | srli | srai | slliw | srliw | sraiw => exact clk_ccAlu1
  case feClr => exact clk_execFeClr
  case feTst => exact clk_execFeTst
  case feWait => exact clk_execFeWait
  case feTake => exact clk_execFeTake
  case feAny => exact clk_execFeAny
  case trap => exact clk_execTrap
  case tret => exact clk_execTret
  case wfe => exact clk_execWfe
  case brk => exact clk_execBrk
  case lui | pcadd => exact clk_ccAlu0
  case lb | lh | lw | ld | lbu | lhu | lwu => exact clk_ccLoad
  case sb | sh | sw | sd => exact clk_ccStore
  case beq | bne | blt | bge | bltu | bgeu => exact clk_ccBranch
  case j => exact clk_execJ
  case jal => exact clk_execJal
  case jalr => exact clk_execJalr
  case csrrw | csrrs | csrrc => exact clk_ccCsr
  case illegalInstruction => exact clk_execIllegalInstruction
  case inject => exact clk_execInject
  case vend => exact clk_execVend
  case rdout => exact clk_execRdout
  case accrst => exact clk_execAccrst
  case rdacc => exact clk_execRdacc
  case vbind => exact clk_execVbind
  case rmark => exact clk_execRmark
  case wcommit => exact clk_execWcommit
  case fencePl | fenceRg | fencePt | fenceSy => exact clk_ccFence
  case drainDm | drainSp | drainHm | drainCf => exact clk_ccDrain
  case kwr => exact clk_execKwr
  case copy => exact clk_execCopy
  case sbind => exact clk_execSbind
  case aflush => exact clk_execAflush
  case amoAddCmd | amoMinCmd | amoMaxCmd | amoAndCmd | amoOrCmd | amoXorCmd | amoXchgCmd | amoCasCmd => exact clk_ccAmo
  case swap => exact clk_execSwap
  case revoke | relend => exact clk_ccDrift
  case lease => exact clk_execLease
  case leaseEnd => exact clk_execLeaseEnd
  case launch => exact clk_execLaunch
  case xinvVa | xinvFn | xinvPart => exact clk_ccXinv
  all_goals exact nomatch hi

theorem clk_execSlot {i : Instr} {n : Nat} (hi : encodeSlot i = some n) : OutClk (· = s.clk) (exec i s) := by
  have hmoves : OutMoves s (exec i s) := exec_slot_moves hi
  cases hout : exec i s with
  | next t =>
    rw [hout] at hmoves
    obtain ⟨g, rfl, -⟩ := hmoves
    exact rfl
  | fault _ => exact trivial
  | refused _ => exact trivial

theorem ranged_execEvent {i : Instr} (hi : ((encodeWord i).isNone && (encodeSlot i).isNone) = true) (h : s.clk.Ranged) :
    OutClk Clk.Ranged (exec i s) := by
  have kept {o : Out} : OutClk (· = s.clk) o → OutClk Clk.Ranged o := ranged_of_kept h
  cases i <;> dsimp only [exec]
  case bucketRefill => exact kept clk_execBucketRefill
  case leaseExpiry => exact kept clk_execLeaseExpiry
  case swapCheck => exact kept clk_execSwapCheck
  case swapTick => exact kept clk_execSwapTick
  case notbeforeReached => exact kept clk_execNotbeforeReached
  case quotaWindowClear => exact kept clk_execQuotaWindowClear
  case eventTrap => exact kept clk_execEventTrap
  case timerEvent => exact kept clk_execTimerEvent
  case registerFill => exact kept clk_execRegisterFill
  case sinkArrival => exact kept clk_execSinkArrival
  case vinPortEmit => exact kept clk_execVinPortEmit
  case sectionRetire => exact kept clk_execSectionRetire
  case domainSequence => exact kept clk_execDomainSequence
  case bankAccept => exact kept clk_execBankAccept
  case bounceArrival => exact kept clk_execBounceArrival
  case creditSend => exact kept clk_execCreditSend
  case creditArrival => exact kept clk_execCreditArrival
  case tokenArrival => exact kept clk_execTokenArrival
  case switchRoute => exact kept clk_execSwitchRoute
  case permitReturn => exact kept clk_execPermitReturn
  case burstHeaderArrival => exact kept clk_execBurstHeaderArrival
  case streamAccess => exact kept clk_execStreamAccess
  case streamReadReturn => exact kept clk_execStreamReadReturn
  case walk => exact kept clk_execWalk
  case refillReturn => exact kept clk_execRefillReturn
  case invalidationComplete => exact kept clk_execInvalidationComplete
  case earlyEdgeRequest => exact kept clk_execEarlyEdgeRequest
  case roundEntry => exact kept clk_execRoundEntry
  case endMark => exact kept clk_execEndMark
  case nonedgeSignal => exact kept clk_execNonedgeSignal
  case roundCommit => exact kept clk_execRoundCommit
  case roundDiscard => exact kept clk_execRoundDiscard
  case gateSignalArrival => exact kept clk_execGateSignalArrival
  case replay => exact kept clk_execReplay
  case timingError => exact kept clk_execTimingError
  case breakpointStop => exact kept clk_execBreakpointStop
  case quiesceDetect => exact kept clk_execQuiesceDetect
  case retirementSweep => exact kept clk_execRetirementSweep
  case launchFetch => exact kept clk_execLaunchFetch
  case schedulerDecision => exact kept clk_execSchedulerDecision
  case batchPromotion => exact kept clk_execBatchPromotion
  case planeLoadFrame => exact kept clk_execPlaneLoadFrame
  case startTokenArrival => exact kept clk_execStartTokenArrival
  case revokeArrival => exact kept clk_execRevokeArrival
  case relendArrival => exact kept clk_execRelendArrival
  case lendWithdraw => exact kept clk_execLendWithdraw
  case distributorSend => exact kept clk_execDistributorSend
  case stageSample => exact kept clk_execStageSample
  case preemption => exact kept clk_execPreemption
  case restoreSavedLaunch => exact kept clk_execRestoreSavedLaunch
  case scrubComplete => exact kept clk_execScrubComplete
  case auditVisit => exact kept clk_auditStep
  case patrolRead => exact kept clk_execPatrolRead
  case spineStep => exact ranged_execSpineStep h
  case droopStretch => exact kept clk_execDroopStretch
  case leaseRevoke => exact kept clk_execLeaseRevoke
  case partset => exact kept clk_execPartset
  case getinfo => exact kept clk_execGetinfo
  case getfail => exact kept clk_execGetfail
  case spineset => exact ranged_execSpineset h
  case fwstage => exact kept clk_execFwstage
  case svnlock => exact kept clk_execSvnlock
  case ownerkey => exact kept clk_execOwnerkey
  case attest => exact kept clk_execAttest
  case devreset => exact ranged_execDevreset h
  case mailboxUnknownOp => exact kept clk_execMailboxUnknownOp
  case prstReq => exact kept clk_execPrstReq
  case prstRel => exact kept clk_execPrstRel
  case watchdogExpiry => exact kept clk_partReset
  case partitionBootDone => exact kept clk_execPartitionBootDone
  case powerUp => exact ranged_execPowerUp h
  case powerClockFault => exact kept clk_execPowerClockFault
  case xinvCmdVa | xinvCmdFn | xinvCmdPart | xinvCmdReserved => exact kept clk_xinvCmd
  case lqdbWrite => exact kept clk_execLqdbWrite
  case lqerrClear => exact kept clk_execLqerrClear
  case evdbWrite => exact kept clk_execEvdbWrite
  case rcmdResume => exact kept clk_execRcmdResume
  case rcmdAbort => exact kept clk_execRcmdAbort
  case rcmdPurge => exact kept clk_execRcmdPurge
  case rcmdSave => exact kept clk_execRcmdSave
  case rcmdRefusedOp => exact kept clk_execRcmdRefusedOp
  case plcmdWrite => exact kept clk_execPlcmdWrite
  case configSpaceWrite => exact kept clk_execConfigSpaceWrite
  case coreWindowCsrWrite | ccstatResume => exact kept clk_execCoreWindowCsrWrite
  case dtsetWrite => exact ranged_execDtsetWrite h
  case dtadjWrite => exact h.of_same rfl rfl
  case dtfreqWrite => exact ranged_execDtfreqWrite h
  case ppsinEdge => exact h.of_same rfl rfl
  case registerWrite => exact ranged_execRegisterWrite h
  case cxlMemRead => exact kept clk_hostRead
  case cxlMemWrite => exact kept clk_hostWrite
  case peerInboundAccess => exact kept clk_execPeerInboundAccess
  case backInvalidate => exact kept clk_execBackInvalidate
  case getVersion | getCapabilities | getDigests | getCertificate | challenge => exact kept clk_spdmReply
  case negotiateAlgorithms => exact kept clk_execNegotiateAlgorithms
  case getMeasurements => exact kept clk_execGetMeasurements
  case deviceTimePeriod => exact ranged_execDeviceTimePeriod h
  case ppscapRead => exact h.of_same rfl rfl
  case vfEnableWrite => exact kept clk_execVfEnableWrite
  case hdmDecoderCommit => exact kept clk_execHdmDecoderCommit
  case powerDown => exact ranged_reset
  all_goals exact nomatch hi

theorem ranged_exec {i : Instr} (h : s.clk.Ranged) : OutClk Clk.Ranged (exec i s) := by
  cases hword : encodeWord i with
  | some w => exact ranged_of_kept h (clk_execWord (by rw [hword]; rfl))
  | none =>
    cases hslot : encodeSlot i with
    | some n => exact ranged_of_kept h (clk_execSlot hslot)
    | none => exact ranged_execEvent (by rw [hword, hslot]; rfl) h

/-! ### What an action does (01 R33, 14 R401) -/

theorem ranged_coreFetch (h : s.clk.Ranged) : OutClk Clk.Ranged (coreFetch s) := by
  unfold coreFetch
  refine ite_keeps (ranged_of_kept h (clk_ccFinish trivial)) (ite_keeps (ranged_of_kept h (clk_ccFinish rfl)) ?_)
  split
  · exact ranged_exec h
  · exact h

theorem ranged_coreAct {n : Nat} (h : s.clk.Ranged) : OutClk Clk.Ranged (coreAct n s) :=
  ite_keeps h (ite_keeps (ranged_of_kept h clk_execTimerEvent) (ite_keeps (ranged_of_kept h clk_execEventTrap) (ranged_coreFetch h)))

theorem ranged_issueAct {key : Nat} {cls : IssueClass} (h : s.clk.Ranged) : OutClk Clk.Ranged (issueAct key cls s) := by
  unfold issueAct
  split
  · exact ranged_of_kept h clk_execBreakpointStop
  · exact h
  dsimp only
  split
  · exact ranged_exec h
  · exact h

theorem ranged_act {a : Action} (h : s.clk.Ranged) : OutClk Clk.Ranged (act a s) := by
  unfold act
  split
  · exact ranged_coreAct h
  · exact ranged_issueAct h
  · exact ite_keeps (ranged_exec h) h
  · exact ite_keeps (ranged_exec h) h
  · exact ranged_of_kept h clk_tileCycle
  · exact ranged_of_kept h clk_upset

/-! ### A step (log 1) -/

theorem ranged_step (h : s.clk.Ranged) : OutClk Clk.Ranged (step s) := by
  have htake : (takeAction s).2.clk.Ranged := by rwa [clk_takeAction]
  exact ite_keeps (ranged_act htake) htake

/-- Settles O58: device time, the spines' steps, SPINESET and the machine's restart keep the ranges, and nothing else of a step moves the clocks'
multipliers. -/
theorem spinesStayInRange : Obligations.SpinesStayInRange := by
  intro s t h hstep
  have hout : OutClk Clk.Ranged (step s) := ranged_step h
  rwa [hstep] at hout

end Sys2Proof.Machine
end

section
/-! OBLIGATIONS. The arbiter of an issue class (14 R401, R403). -/

namespace Sys2Proof.Machine

/-! ### The least key -/

/-- On keys of one length the arbiter's comparison is the lexicographic order of the library. -/
theorem lexLt_iff {l m : List Nat} (h : l.length = m.length) : lexLt l m = true ↔ l < m := by
  induction l generalizing m with
  | nil => simp [lexLt, List.length_eq_zero_iff.mp h.symm]
  | cons x l ih =>
    cases m with
    | nil => simp at h
    | cons y m => simp [lexLt, List.cons_lt_cons_iff, ih (Nat.succ.inj h)]

/-- A first entry that differs decides alone. -/
theorem lexLt_iff_of_ne {x y : Nat} {l m : List Nat} (h : x ≠ y) : lexLt (x :: l) (y :: m) = true ↔ x :: l < y :: m := by
  simp [lexLt, List.cons_lt_cons_iff, h]

theorem leastBy_eq_none {k : Nat × Nat → List Nat} {l : List (Nat × Nat)} : leastBy k l = none ↔ l = [] := by
  cases l with
  | nil => simp [leastBy]
  | cons q l =>
    simp only [leastBy, reduceCtorEq, iff_false]
    split
    · simp
    · split <;> simp

/-- What is chosen is of least key, and the first of that key: before every other in any order that the list is in. -/
theorem leastBy_least {k : Nat × Nat → List Nat} {R : Nat × Nat → Nat × Nat → Prop} (hk : ∀ x y, lexLt (k x) (k y) = true ↔ k x < k y)
    (hrefl : ∀ x, R x x) {l : List (Nat × Nat)} {q r : Nat × Nat} (hl : l.Pairwise R) (hq : leastBy k l = some q) (hr : r ∈ l) :
    q ∈ l ∧ k q ≤ k r ∧ (k q = k r → R q r) := by
  induction l generalizing q r with
  | nil => simp at hr
  | cons a l ih =>
    obtain ⟨ha, hl⟩ := List.pairwise_cons.mp hl
    have hself : q = a → r = a → q ∈ a :: l ∧ k q ≤ k r ∧ (k q = k r → R q r) := by
      rintro rfl rfl
      exact ⟨List.mem_cons_self, le_rfl, fun _ => hrefl _⟩
    cases hb : leastBy k l with
    | none =>
      have hnil : l = [] := leastBy_eq_none.mp hb
      subst hnil
      simp only [leastBy, Option.some.injEq] at hq
      exact hself hq.symm (List.mem_singleton.mp hr)
    | some b =>
      simp only [leastBy, hb, hk] at hq
      split at hq
      next hlt =>
        obtain rfl : b = q := Option.some.inj hq
        obtain ⟨c, hc⟩ : ∃ c, c ∈ l := List.exists_mem_of_ne_nil l fun hnil => by simp [hnil, leastBy] at hb
        have hbl : b ∈ l := (ih hl hb hc).1
        rcases List.mem_cons.mp hr with rfl | hr
        · exact ⟨List.mem_cons_of_mem _ hbl, hlt.le, fun he => absurd he hlt.ne⟩
        · obtain ⟨hmem, hle, hR⟩ := ih hl hb hr
          exact ⟨List.mem_cons_of_mem _ hmem, hle, hR⟩
      next hge =>
        obtain rfl : a = q := Option.some.inj hq
        rcases List.mem_cons.mp hr with rfl | hr
        · exact hself rfl rfl
        · exact ⟨List.mem_cons_self, (not_lt.mp hge).trans (ih hl hb hr).2.1, fun _ => ha _ hr⟩

/-! ### Ready slots and their keys -/

/-- The ready slots stand plane by plane. -/
theorem readySlots_pairwise (f : Fab) (key : Nat) (cls : IssueClass) : (readySlots f key cls).Pairwise fun x y => x.1 ≤ y.1 := by
  refine List.pairwise_flatMap.mpr ⟨fun plane _ => ?_, ?_⟩
  · exact List.pairwise_map.mpr (List.pairwise_of_forall fun _ _ => le_rfl)
  · have hplanes : [0, 1, 2, 3].Pairwise fun m n : Nat => m ≤ n := by decide
    refine hplanes.imp fun {m n} hmn x hx y hy => ?_
    obtain ⟨_, _, rfl⟩ := List.mem_map.mp hx
    obtain ⟨_, _, rfl⟩ := List.mem_map.mp hy
    exact hmn

/-- The age of a slot of a run; 0 for one that is not ready. -/
def slotAge (p : Plane) (n : Nat) : Nat := (slotOfRun p.run n).age.getD 0

/-- The source stage whose SMASK holds a slot. -/
def slotStage (p : Plane) (n : Nat) : Option StageE := p.stages.find? fun y => !y.dist && y.w3.getLsbD n

theorem issueKey_drift {key plane n : Nat} {p : Plane} (h : isDrift key p = true) : issueKey key plane n p = [1, slotAge p n, plane, n] := by
  simp [issueKey, h, slotAge]

/-- Where an owner's slot stands among those of its age: outside every SMASK, else by its stage's priority. -/
def stageRank : Option StageE → List Nat
  | some x => [1, 64 - x.prio]
  | none => [0, 0]

theorem issueKey_owner {key plane n : Nat} {p : Plane} (h : isDrift key p = false) :
    issueKey key plane n p = [0, slotAge p n] ++ stageRank (slotStage p n) ++ [b2n p.succ, n] := by
  simp only [issueKey, h, slotAge, slotStage, Bool.false_eq_true, if_false]
  split <;> simp [stageRank, *]

theorem b2n_le {a b : Bool} : b2n a ≤ b2n b ↔ (a = true → b = true) := by
  cases a <;> cases b <;> simp [b2n]

/-- A lexicographic comparison, from its first entry. -/
theorem cons_le_cons {a b : Nat} {l m : List Nat} : a :: l ≤ b :: m ↔ a ≤ b ∧ (a = b → l ≤ m) := by
  simp only [← not_lt (α := List Nat), List.cons_lt_cons_iff]
  by_cases h : m < l <;> simp only [h, and_true, and_false, not_true, not_false_iff, or_false, imp_false, implies_true] <;> omega

theorem stageRank_congr {o u : Option StageE} (h : o.map (fun y => y.prio) = u.map fun y => y.prio) : stageRank o = stageRank u := by
  cases o <;> cases u <;> simp_all [stageRank]

/-- A slot outside every SMASK stands first, then the higher priority (14 R403). -/
theorem stageRank_le {o u : Option StageE} {l m : List Nat} (h : stageRank o ++ l ≤ stageRank u ++ m) :
    (u = none → o = none) ∧ ∀ y z, o = some y → u = some z → z.prio ≤ 16 → z.prio ≤ y.prio := by
  constructor
  · rintro rfl
    cases o with
    | none => rfl
    | some y => simp [stageRank, cons_le_cons] at h
  · rintro y z rfl rfl hz
    simp only [stageRank, List.cons_append, List.nil_append, cons_le_cons, le_refl, forall_const, true_and] at h
    omega

/-- The arbiter compares the keys of two slots by the order of the library: those of a kind have one length, and the kinds differ at once. -/
theorem lexLt_keyOfSlot {f : Fab} {key : Nat} (x y : Nat × Nat) :
    lexLt (keyOfSlot f key x) (keyOfSlot f key y) = true ↔ keyOfSlot f key x < keyOfSlot f key y := by
  have hlen (o : Option StageE) : (stageRank o).length = 2 := by cases o <;> rfl
  unfold keyOfSlot
  cases hx : isDrift key (planeOf (elemOf f key) x.1) <;> cases hy : isDrift key (planeOf (elemOf f key) y.1)
  · rw [issueKey_owner hx, issueKey_owner hy]
    exact lexLt_iff (by simp [hlen])
  · rw [issueKey_owner hx, issueKey_drift hy]
    exact lexLt_iff_of_ne (by decide)
  · rw [issueKey_drift hx, issueKey_owner hy]
    exact lexLt_iff_of_ne (by decide)
  · rw [issueKey_drift hx, issueKey_drift hy]
    exact lexLt_iff rfl

/-- Settles O3: the chosen slot has the least key, and is the first of the ready slots with it; the keys are compared entry by entry. -/
theorem arbiterChoosesByKey : Obligations.ArbiterChoosesByKey := by
  intro f key cls e drift age stage succ
  refine ⟨leastBy_eq_none, fun q r hq hr => ?_⟩
  have hplanes := readySlots_pairwise f key cls
  obtain ⟨hmem, hle, hfirst⟩ := leastBy_least lexLt_keyOfSlot (fun x => le_refl x.1) hplanes hq hr
  refine ⟨hmem, ?_⟩
  have hdrift {x : Nat × Nat} (hx : drift x = true) : keyOfSlot f key x = [1, age x, x.1, x.2] := issueKey_drift hx
  have howner {x : Nat × Nat} (hx : drift x = false) : keyOfSlot f key x = [0, age x] ++ stageRank (stage x) ++ [b2n (succ x), x.2] :=
    issueKey_owner hx
  cases hdq : drift q <;> cases hdr : drift r
  · rw [howner hdq, howner hdr] at hle hfirst
    simp only [List.cons_append, List.nil_append, cons_le_cons, le_refl, forall_const, true_and] at hle
    obtain ⟨hage, hle⟩ := hle
    refine ⟨nofun, fun _ => hage, fun _ _ he => ?_, nofun⟩
    have hle := hle he
    have htail (hs : stageRank (stage q) = stageRank (stage r)) :
        (succ q = true → succ r = true) ∧ (succ q = succ r → q.2 ≤ r.2 ∧ (q.2 = r.2 → q.1 ≤ r.1)) := by
      obtain ⟨x, y, hxy⟩ : ∃ x y, stageRank (stage r) = [x, y] := by cases stage r <;> exact ⟨_, _, rfl⟩
      rw [hs, hxy] at hle hfirst
      simp only [List.cons_append, List.nil_append, cons_le_cons, le_refl, forall_const, true_and, b2n_le] at hle
      obtain ⟨hsucc, hslot⟩ := hle
      exact ⟨hsucc, fun hb => ⟨(hslot (congrArg b2n hb)).1, fun hn => hfirst (by rw [he, hb, hn])⟩⟩
    obtain ⟨hnone, hprio⟩ := stageRank_le hle
    exact ⟨hnone, hprio, fun hp => htail (stageRank_congr hp)⟩
  · simp
  · rw [hdrift hdq, howner hdr] at hle
    simp [cons_le_cons] at hle
  · rw [hdrift hdq, hdrift hdr] at hle
    simp only [cons_le_cons, le_refl, forall_const, true_and] at hle
    exact ⟨fun _ => rfl, fun _ => hle.1, nofun, fun _ he => (hle.2 he).imp_right fun h hp => (h hp).1⟩

end Sys2Proof.Machine
end

section
/-! OBLIGATIONS. Operand halves, accumulators and matrix multiplies (12 R336-R350). -/

namespace Sys2Proof.Machine

variable {s : State} {w : Slot}

/-! ### Accumulators (R347-R349) -/

/-- The sixteen cells of the two rows that a drain gives. -/
def drainCell (m : MAcc) (q i : Nat) : Nat := (tget 0 m.cells (16 * q + i)).toNat

/-- A cell as a drain gives it: an integer as it stands, a float scaled by the band scales and rounded (12 R348). -/
def drainValue (m : MAcc) (q rnd : Nat) (sat : Bool) (i : Nat) : Nat :=
  if m.int then drainCell m q i
  else (fencode 7 rnd sat (FVal.mul (fdecode 7 (drainCell m q i)) (FVal.mul (fdecode 6 m.ba.toNat) (fdecode 6 m.bb.toNat)))).bits

theorem laneAt_drainLine {m : MAcc} {q rnd i : Nat} {sat : Bool} (hi : i < 16) :
    laneAt 32 (drainLine m q rnd sat).1 i = drainValue m q rnd sat i % 2 ^ 32 := by
  unfold drainLine drainValue
  split <;> exact laneAt_pack _ hi

theorem drainLine_cond_int {m : MAcc} {q rnd : Nat} {sat : Bool} (hm : m.int = true) :
    (drainLine m q rnd sat).2 = true ↔ (drainLine m q rnd sat).1 ≠ 0 := by
  simp [drainLine, hm, anyBit]

theorem drainLine_cond_float {m : MAcc} {q rnd : Nat} {sat : Bool} (hm : m.int = false) :
    (drainLine m q rnd sat).2 = true ↔ ∃ i, i < 16 ∧ isNaNBits 7 (drainValue m q rnd sat i) = true := by
  simp [drainLine, drainValue, drainCell, hm]

/-- A drain to the local store with a legal pair loses exactly where an older fill needs one of its banks (04 R113). -/
theorem drainLoses_iff {x : FireCtx} (hop : x.op = 0x103) (hls : bit x.w.md.toNat 0 = true) (hok : pairOk (pairOf x x.w.b.toNat).2 = true) :
    drainLoses x = true ↔
      ∃ g ∈ x.e.ct.fills, ∃ r ∈ g.reads, ∃ b ∈ r.1, b ∈ lsBanks (drainAddr x).2 (drainAddr x).1 64 := by
  have hbanks : drainBanks x = lsBanks (drainAddr x).2 (drainAddr x).1 64 := if_pos ⟨hop, hls, hok⟩
  simp only [drainLoses, hbanks, fillBanks, List.any_eq_true, List.contains_iff_mem, List.mem_flatMap]
  constructor
  · rintro ⟨b, hb, g, hg, r, hr, hbr⟩
    exact ⟨g, hg, r, hr, b, hbr, hb⟩
  · rintro ⟨g, hg, r, hr, b, hbr, hb⟩
    exact ⟨b, hb, g, hg, r, hr, hbr⟩

/-- A drain to queues, or whose pair is refused, takes no bank. -/
theorem drainLoses_eq_false {x : FireCtx} (h : ¬(bit x.w.md.toNat 0 = true ∧ pairOk (pairOf x x.w.b.toNat).2 = true)) : drainLoses x = false := by
  have hbanks : drainBanks x = [] := if_neg fun hc => h hc.2
  simp [drainLoses, hbanks]

/-- A slot that fires leaves the fabric that its body makes. -/
theorem fire_eq {op : Nat} {body : FireCtx → Fab → Fab} {g : Fab} (h : fires s op w) (hg : body (seen s op w) (began s op w) = g) :
    fire s op w body = .next (withFab s g) := by
  rw [fire_next h, hg]

/-- Settles O37: each operation is the branch of its `exec` function that its guard names, through the fabric of a slot that fires. -/
theorem accumulatorOperations : Obligations.AccumulatorOperations := by
  intro s w
  refine ⟨?zero, ?band, ?drain, ?stat⟩
  case zero =>
    intro x h
    dsimp only [exec, execMzero]
    exact fire_next h
  case stat =>
    intro x m clr h
    dsimp only [exec, execMstat]
    exact fire_next h
  case band =>
    intro x h
    dsimp only [exec, execMband]
    rw [fire_next h]
    refine ⟨fun hi => ?_, fun hi => ?_⟩
    · simp [x, hi, popped]
    · simp [x, hi]
  case drain =>
    intro x m q cell k v clr p a banks older
    have hlose (hls : bit w.md.toNat 0 = true) (hok : pairOk p.2 = true) : drainLoses x = true ↔ older := drainLoses_iff rfl hls hok
    have hkeep (h : bit w.md.toNat 0 = true → pairOk p.2 = true → ¬older) : drainLoses x = false := by
      by_cases hc : bit w.md.toNat 0 = true ∧ pairOk p.2 = true
      · exact Bool.eq_false_iff.mpr fun hd => h hc.1 hc.2 ((hlose hc.1 hc.2).mp hd)
      · exact drainLoses_eq_false hc
    have hfires {c : Out} (hold : bit w.md.toNat 0 = true → pairOk p.2 = true → ¬older) {t : Out} (h : t = c) :
        (if drainLoses x then .next s else t) = c := (if_neg (Bool.eq_false_iff.mp (hkeep hold))).trans h
    refine ⟨fun hls hok hold => if_pos ((hlose hls hok).mpr hold), fun h => ⟨fun hty hold => hfires hold (fire_eq h (if_pos hty)), fun hty => ?_⟩⟩
    have hpair (hok : pairOk p.2 = true) : ¬(!pairOk p.2) = true := by rw [hok]; exact Bool.false_ne_true
    have hint : ¬(w.fmt == 3) ≠ m.int := not_not.mpr hty
    refine ⟨fun hls hok => ?_, fun hls hok hold ha => ?_, (drainLine m q w.rnd.toNat (w.sat == 1)).1,
      (drainLine m q w.rnd.toNat (w.sat == 1)).2, fun i => laneAt_drainLine, drainLine_cond_float, drainLine_cond_int, fun hls => ?_,
      fun hls hok hold ha hroom => ?_⟩
    · have hno : (!pairOk p.2) = true := by rw [hok]; rfl
      exact hfires (fun _ hok' => absurd hok' (by simp [hok])) (fire_eq h ((if_neg hint).trans ((if_pos hls).trans (if_pos hno))))
    · exact hfires (fun _ _ => hold) (fire_eq h ((if_neg hint).trans ((if_pos hls).trans ((if_neg (hpair hok)).trans (if_pos ha)))))
    · exact hfires (fun hls' => absurd hls' (by simp [hls])) (fire_eq h ((if_neg hint).trans (if_neg (by simp [hls]))))
    · have hbanks : drainBanks x = banks := if_pos ⟨rfl, hls, hok⟩
      have hplace : ¬(!lsRoom x.e x.plane x.p.run.round (lsLines (drainAddr x).2 (drainAddr x).1 64)) = true := by
        rw [show lsRoom x.e x.plane x.p.run.round (lsLines (drainAddr x).2 (drainAddr x).1 64) = true from hroom]
        exact Bool.false_ne_true
      refine hfires (fun _ _ => hold) (fire_eq h ((if_neg hint).trans ((if_pos hls).trans ((if_neg (hpair hok)).trans
        ((if_neg (not_not.mpr ha)).trans ((if_neg hplace).trans ?_))))))
      rw [hbanks]
      rfl

end Sys2Proof.Machine
end

section
/-! OBLIGATIONS. Matrix multiplies and loads of operand halves (12 R336-R346, R350). -/

namespace Sys2Proof.Machine

variable {s : State} {w : Slot}

/-! ### Passes that write each entry of a table once -/

section
variable {σ α : Type} [DecidableEq α] {d : α} {π : σ → Tab α} {g : σ → Nat → σ} {val : Nat → α → α}

/-- A pass over other indices leaves an entry as it is. -/
theorem tget_foldl_notMem (hg : ∀ u i, π (g u i) = tput d (π u) i (val i (tget d (π u) i))) :
    ∀ (l : List Nat) (u : σ) {c : Nat}, c ∉ l → tget d (π (l.foldl g u)) c = tget d (π u) c
  | [], _, _, _ => rfl
  | i :: l, u, c, hc => by
    obtain ⟨hci, hcl⟩ := (not_or.mp (mt List.mem_cons.mpr hc))
    rw [List.foldl_cons, tget_foldl_notMem hg l _ hcl, hg, tget_tput_ne d _ _ hci]

/-- A pass that writes each entry once writes it from its old value. -/
theorem tget_foldl_mem (hg : ∀ u i, π (g u i) = tput d (π u) i (val i (tget d (π u) i))) :
    ∀ {l : List Nat} (u : σ) {c : Nat}, l.Nodup → c ∈ l → tget d (π (l.foldl g u)) c = val c (tget d (π u) c)
  | i :: l, u, c, hl, hc => by
    obtain ⟨hil, hl⟩ := List.nodup_cons.mp hl
    rw [List.foldl_cons]
    rcases List.mem_cons.mp hc with rfl | hc
    · rw [tget_foldl_notMem hg l _ hil, hg, tget_tput_same]
    · have hci : c ≠ i := fun h => hil (h ▸ hc)
      rw [tget_foldl_mem hg _ hl hc, hg, tget_tput_ne d _ _ hci]

/-- The pass over the first n indices. -/
theorem tget_foldl_range (hg : ∀ u i, π (g u i) = tput d (π u) i (val i (tget d (π u) i))) {n c : Nat} (u : σ) (hc : c < n) :
    tget d (π ((List.range n).foldl g u)) c = val c (tget d (π u) c) :=
  tget_foldl_mem hg u List.nodup_range (List.mem_range.mpr hc)
end

/-! ### Matrix multiplies (R343-R346, R350) -/

/-- A multiply that meets its conditions. -/
theorem mma_fits {op : Nat} (h : mmaFits s op w) :
    let x := seen s op w
    let n := (mmaParts s op w).2.2.2
    let last (b : Nat) (h : Nat) (f : Fab) : Fab := if bit w.md.toNat b ∧ n = mmaSteps op - 1 then modHalf f x.key h halfRead else f
    let next (f : Fab) : Fab :=
      if bit w.md.toNat 7 then addPend f x (.a x.plane (w.c.toNat - 0x18) (BitVec.ofNat 32 ((n + 1) % mmaSteps op))) else f
    mma s op w = .next (withFab s (last 9 (w.md.toNat / 8 % 8) (last 8 (w.md.toNat % 8) (next
      (modAcc (popped s op w) x (w.dst.toNat - 0x50) fun _ => mmaAcc s op w))))) := by
  intro x n last next
  obtain ⟨hf, hstep, hint, hfmt⟩ := h
  refine fire_eq hf ((if_neg ?_).trans rfl)
  rintro (hc | hc | hc)
  · exact absurd hstep (Nat.not_lt.mpr hc)
  · exact hc hint
  · exact Bool.noConfusion (hfmt.symm.trans ((Bool.not_eq_true' _).mp hc))

/-- A multiply that fails a condition is ILLOP. -/
theorem mma_not_fits {op : Nat} (hf : fires s op w) (h : ¬mmaFits s op w) :
    mma s op w = .next (withFab s (slotRaise (began s op w) (seen s op w) 1 none 0 0)) := by
  refine fire_eq hf (if_pos ?_)
  by_contra hc
  push Not at hc
  obtain ⟨hstep, hint, hfmt⟩ := hc
  exact h ⟨hf, hstep, hint, by_contra fun hall => hfmt ((Bool.not_eq_true' _).mpr (Bool.eq_false_iff.mpr hall))⟩

/-- The elements of a row that the group of step n takes. -/
def mmaRow (op n : Nat) (o : MOp) (i : Nat) : List FVal :=
  (List.range (mmaG op)).map fun k => mmaElem (o.rows.getD i 0) (o.fmts.getD i 0) (o.scales.getD i 0) (n * mmaG op + k)

/-- A float cell plus the exact sum of the products of two rows, rounded once (12 R344). -/
def mmaCell (ra rb : List FVal) (v : BitVec 32) : Nat :=
  (fencode 7 0 false (FVal.add 0 (fdecode 7 v.toNat) (sumExact (List.zipWith FVal.mul ra rb)))).bits

/-- The float forms as one pass over the cells. -/
theorem mmaFloat_eq {op : Nat} {m : MAcc} {a b : MOp} {n : Nat} :
    let ra := (List.range 8).map (mmaRow op n a)
    let rb := (List.range 8).map (mmaRow op n b)
    mmaFloat op m a b n = (List.range 64).foldl (fun m c =>
      let v := mmaCell (ra.getD (c / 8) []) (rb.getD (c % 8) []) (tget 0 m.cells c)
      { m with cells := tput 0 m.cells c (BitVec.ofNat 32 v), nanf := m.nanf || isNaNBits 7 v }) m := by
  unfold mmaFloat
  rfl

/-- A cell after one group of a float form. -/
theorem tget_mmaFloat {op : Nat} {m : MAcc} {a b : MOp} {n c : Nat} (hc : c < 64) :
    let e (o : MOp) (i k : Nat) : FVal := mmaElem (o.rows.getD i 0) (o.fmts.getD i 0) (o.scales.getD i 0) (n * mmaG op + k)
    tget 0 (mmaFloat op m a b n).cells c = BitVec.ofNat 32 (fencode 7 0 false (FVal.add 0 (fdecode 7 (tget 0 m.cells c).toNat)
      (sumExact ((List.range (mmaG op)).map fun k => FVal.mul (e a (c / 8) k) (e b (c % 8) k))))).bits := by
  intro e
  have hr : c / 8 < 8 := by omega
  have hl : c % 8 < 8 := by omega
  rw [mmaFloat_eq]
  generalize ha : (List.range 8).map (mmaRow op n a) = ra
  generalize hb : (List.range 8).map (mmaRow op n b) = rb
  rw [tget_foldl_range (π := MAcc.cells) (val := fun c v => BitVec.ofNat 32 (mmaCell (ra.getD (c / 8) []) (rb.getD (c % 8) []) v))
    (fun _ _ => rfl) m hc]
  simp [← ha, ← hb, List.getD_eq_getElem?_getD, hr, hl, mmaCell, mmaRow, List.zipWith_map, List.zipWith_self, e]

/-- A cell after one group of mma.i8. -/
theorem tget_mmaI8 {sat : Bool} {m : MAcc} {a b : MOp} {n c : Nat} (hc : c < 64) :
    let z (o : MOp) (i k : Nat) : Int := mmaInt (o.rows.getD i 0) (o.fmts.getD i 0) (2 * n + k)
    tget 0 (mmaI8 sat m a b n).cells c = BitVec.ofNat 32 (fitInt 3 sat (sext 32 (tget 0 m.cells c).toNat +
      z a (c / 8) 0 * z b (c % 8) 0 + z a (c / 8) 1 * z b (c % 8) 1)).1 := by
  intro z
  exact tget_foldl_range (π := MAcc.cells) (val := fun c v => BitVec.ofNat 32 (fitInt 3 sat (sext 32 v.toNat +
    z a (c / 8) 0 * z b (c % 8) 0 + z a (c / 8) 1 * z b (c % 8) 1)).1) (fun _ _ => rfl) m hc

/-! ### Loads of operand halves (R336, R340-R342) -/

/-- The i-th address that an mload reads of a pair. -/
def mloadAddr (q : Nat × Nat) (i : Nat) : Nat := (pBase q.1 + i * pPitch q.1) % 2 ^ 17

/-- The tag that an mload gives its rows. -/
def mloadTag (x : FireCtx) : BitVec 16 :=
  BitVec.ofNat 16 ((if bit x.w.md.toNat 5 then latchScale x.p.run x.w.a.toNat else x.w.imm.toNat / 256) * 256 + x.w.fmt.toNat)

/-- Row i of a half from the local store. -/
def mloadRow (x : FireCtx) (u : Half) (i : Nat) : Half :=
  let q := pairOf x x.w.a.toNat
  halfRow u i (BitVec.ofNat 512 (lsRead x.e.ct.ls (pRot q.2) (mloadAddr q i) 64)) (mloadTag x) (rowMarks x.e.ct (pRot q.2) (mloadAddr q i))

/-- What an mload makes of a half from the local store. -/
def mloadHalf (x : FireCtx) (u : Half) : Half :=
  let q := pairOf x x.w.a.toNat
  let form := fld x.w.md.toNat 2 2
  { (if form = 0 then (List.range 8).foldl (mloadRow x) u
      else mloadT x.e.ct u (pRot q.2) (pBase q.1) (pPitch q.1) (fld x.w.imm.toNat 5 2) (if form = 2 then 2 else 1) (mloadTag x)) with
    owner := some x.plane }

/-- The fills and the pair after an mload from the local store. -/
def mloadEnd (x : FireCtx) (f : Fab) : Fab :=
  let q := pairOf x x.w.a.toNat
  let f := modElem f x.key fun e => { e with ct := { e.ct with fills := e.ct.fills ++ [mloadFill x (pRot q.2) (pBase q.1) (pPitch q.1)] } }
  if bit x.w.md.toNat 4 then pairInc x x.w.a.toNat f else f

/-- The addresses that an mload checks. -/
def mloadAddrs (x : FireCtx) : List Nat :=
  (List.range (if fld x.w.md.toNat 2 2 = 1 then 16 else 8)).map (mloadAddr (pairOf x x.w.a.toNat))

/-- An mload from the local store by the addresses that it checks. -/
theorem mload_local (hf : fires s 0x100 w) (hsel : selKind w.a.toNat = 4) (hok : pairOk (pairOf (seen s 0x100 w) w.a.toNat).2 = true) :
    let x := seen s 0x100 w
    exec (.mload w) s = .next (withFab s (match (mloadAddrs x).find? fun a => a % fmtSize w.fmt.toNat != 0 with
      | some a => slotRaise (began s 0x100 w) x 3 none a 4
      | none => mloadEnd x (modHalf (popped s 0x100 w) x.key (w.md.toNat % 4) (mloadHalf x)))) := by
  intro x
  have hpair : ¬(!pairOk (pairOf x w.a.toNat).2) = true := by rw [hok]; exact Bool.false_ne_true
  dsimp only [exec, execMload]
  refine fire_eq hf ((if_pos hsel).trans ((if_neg hpair).trans ?_))
  rfl

/-- No address is out of line. -/
theorem mload_fine (hf : fires s 0x100 w) (hsel : selKind w.a.toNat = 4) (hok : pairOk (pairOf (seen s 0x100 w) w.a.toNat).2 = true)
    (hfine : ∀ i, i < (if fld w.md.toNat 2 2 = 1 then 16 else 8) →
      mloadAddr (pairOf (seen s 0x100 w) w.a.toNat) i % fmtSize w.fmt.toNat = 0) :
    let x := seen s 0x100 w
    exec (.mload w) s = .next (withFab s (mloadEnd x (modHalf (popped s 0x100 w) x.key (w.md.toNat % 4) (mloadHalf x)))) := by
  intro x
  have hnone : ((mloadAddrs x).find? fun a => a % fmtSize w.fmt.toNat != 0) = none := by
    refine List.find?_eq_none.mpr fun a ha => ?_
    obtain ⟨i, hi, rfl⟩ := List.mem_map.mp ha
    rw [bne_iff_ne, not_not]
    exact hfine i (List.mem_range.mp hi)
  rw [mload_local hf hsel hok, hnone]

/-- The first address is out of line. -/
theorem mload_misaligned (hf : fires s 0x100 w) (hsel : selKind w.a.toNat = 4) (hok : pairOk (pairOf (seen s 0x100 w) w.a.toNat).2 = true)
    (hbad : mloadAddr (pairOf (seen s 0x100 w) w.a.toNat) 0 % fmtSize w.fmt.toNat ≠ 0) :
    let x := seen s 0x100 w
    exec (.mload w) s = .next (withFab s (slotRaise (began s 0x100 w) x 3 none (mloadAddr (pairOf x w.a.toNat) 0) 4)) := by
  intro x
  obtain ⟨n, hn⟩ : ∃ n, (if fld x.w.md.toNat 2 2 = 1 then 16 else 8) = n + 1 := by split <;> exact ⟨_, rfl⟩
  have hsome : ((mloadAddrs x).find? fun a => a % fmtSize w.fmt.toNat != 0) = some (mloadAddr (pairOf x w.a.toNat) 0) := by
    rw [mloadAddrs, hn, List.range_succ_eq_map, List.map_cons]
    exact List.find?_cons_of_pos (bne_iff_ne.mpr hbad)
  rw [mload_local hf hsel hok, hsome]

/-- What the end of an mload leaves of the halves. -/
theorem halves_mloadEnd (x : FireCtx) (f : Fab) : (elemOf (mloadEnd x f) x.key).ct.halves = (elemOf f x.key).ct.halves := by
  unfold mloadEnd
  split <;> simp [pairInc, addPend]

/-- A pass over the rows of a half gives each its line and its tag. -/
theorem tget_halfRow_foldl (line : Nat → Line) (tag : BitVec 16) (marks : Nat → Nat) (u : Half) {n i : Nat} (hi : i < n) :
    let r := (List.range n).foldl (fun u i => halfRow u i (line i) tag (marks i)) u
    tget 0 r.rows i = line i ∧ tget 0 r.tags i = tag :=
  ⟨tget_foldl_range (π := Half.rows) (val := fun i _ => line i) (fun _ _ => rfl) u hi,
    tget_foldl_range (π := Half.tags) (val := fun _ _ => tag) (fun _ _ => rfl) u hi⟩

/-- Settles O36: the local-store forms by the addresses that they check, the rows by the pass that writes each once. -/
theorem operandBufferLoads : Obligations.OperandBufferLoads := by
  refine ⟨fun s w hf => ?_, fun h bits n hfull => ?filled⟩
  case filled => simp [halfFill, hfull]
  intro x f sel h tag q form addr fine inc fill row
  refine ⟨fun hsel hok hfine hform => ?_, fun hsel hok hfine hform => ?_, mload_misaligned hf, fun hsel hok => ?_, fun hsel hclash => ?_⟩
  · intro t
    have hhalf : mloadHalf x = fun u => { (List.range 8).foldl row u with owner := some x.plane } := by
      funext u
      exact congrArg (fun u : Half => { u with owner := some x.plane }) (if_pos hform)
    refine ⟨?_, fun i hi => ?_⟩
    · rw [mload_fine hf hsel hok hfine, hhalf]
      rfl
    · have hsame : tget {} (elemOf t.fab x.key).ct.halves h =
          { (List.range 8).foldl row (tget {} (elemOf (popped s 0x100 w) x.key).ct.halves h) with owner := some x.plane } := by
        refine (congrArg (tget {} · h) (halves_mloadEnd x _)).trans ?_
        simp [modHalf]
      rw [hsame]
      generalize tget {} (elemOf (popped s 0x100 w) x.key).ct.halves h = u
      dsimp only [row]
      exact tget_halfRow_foldl (fun i => BitVec.ofNat 512 (lsRead x.e.ct.ls (pRot q.2) (addr i) 64)) tag
        (fun i => rowMarks x.e.ct (pRot q.2) (addr i)) u hi
  · have hhalf : mloadHalf x = fun u =>
        { mloadT x.e.ct u (pRot q.2) (pBase q.1) (pPitch q.1) (fld w.imm.toNat 5 2) (if form = 2 then 2 else 1) tag with owner := some x.plane } := by
      funext u
      exact congrArg (fun u : Half => { u with owner := some x.plane }) (if_neg hform)
    rw [mload_fine hf hsel hok hfine, hhalf]
    rfl
  · have hpair : (!pairOk q.2) = true := by rw [hok]; rfl
    dsimp only [exec, execMload]
    exact fire_eq hf ((if_pos hsel).trans (if_pos hpair))
  · dsimp only [exec, execMload]
    refine fire_eq hf ((if_neg hsel).trans ?_)
    rw [hclash]
    rfl

/-- Settles O38: the five forms are one multiply, and each cell is written once by the pass over them. -/
theorem matrixMultiplies : Obligations.MatrixMultiplies := by
  refine ⟨fun s w op mk hop => ?_, fun op sat m a b n c hc => ⟨tget_mmaFloat hc, tget_mmaI8 hc⟩⟩
  have hexec : exec (mk w) s = mma s op w := by
    simp only [List.mem_cons, Prod.mk.injEq, List.not_mem_nil, or_false] at hop
    rcases hop with ⟨rfl, rfl⟩ | ⟨rfl, rfl⟩ | ⟨rfl, rfl⟩ | ⟨rfl, rfl⟩ | ⟨rfl, rfl⟩ <;> rfl
  intro x q n last next
  rw [hexec]
  exact ⟨mma_fits, mma_not_fits⟩

end Sys2Proof.Machine
end

section
/-! OBLIGATIONS. Device time (23 R506, R507). -/

namespace Sys2Proof.Machine

/-- A period takes a pending load. -/
theorem clkPeriod_load {c : Clk} {v : BitVec 64} (h : c.load = some v) : (clkPeriod c).dtime = v := by
  simp [clkPeriod, h]

/-- With nothing pending a period moves the counter by 0, 1 or 2. -/
theorem clkPeriod_dtime {c : Clk} (h : c.load = none) :
    (clkPeriod c).dtime = c.dtime ∨ (clkPeriod c).dtime = c.dtime + 1 ∨ (clkPeriod c).dtime = c.dtime + 2 := by
  simp only [clkPeriod, h]
  split
  case isTrue => exact .inr (.inr rfl)
  case isFalse =>
    split
    · exact .inl rfl
    · exact .inr (.inl rfl)

/-- Whether every partition is in reset. -/
theorem partsInReset_iff {h : Hub} : ([0, 1, 2, 3].all fun p => (partOf h p).prstState == 0) = true ↔
    ∀ p ∈ [0, 1, 2, 3], (partOf h p).prstState = 0 := by
  simp only [List.all_eq_true, beq_iff_eq]

/-- Settles O54: each write and capture by the guard of its `exec` function, the period by the two lemmas on `clkPeriod`. -/
theorem deviceTimeEvents : Obligations.DeviceTimeEvents := by
  intro s v
  refine ⟨⟨_, rfl, rfl, rfl, rfl, rfl, fun w hw => clkPeriod_load hw, fun hn => clkPeriod_dtime hn⟩, fun hr hp => ?load, fun h => ?ignored, rfl,
    ⟨fun ht => if_pos ht, fun ht => if_neg fun hc => ?trim⟩, rfl, rfl⟩
  case load => exact if_pos ⟨hr, partsInReset_iff.mpr hp⟩
  case ignored =>
    refine if_neg fun hc => ?_
    rcases h with hr | ⟨p, hp, hne⟩
    · exact Bool.noConfusion (hc.1.symm.trans hr)
    · exact hne (partsInReset_iff.mp hc.2 p hp)
  case trim => omega

end Sys2Proof.Machine
end

section
/-! OBLIGATIONS. Mailbox commands and SPDM messages (23 R496-R505). -/

namespace Sys2Proof.Machine

variable {s : State} {pf : Nat}

/-! ### Mailbox commands (R496-R502) -/

/-- A command that passes its checks takes effect. -/
theorem mbRun_takes {c : MbCmd} {body : Part → State} {t : State} (h : mailboxTakes s pf c) (ht : body (partOf s.hub pf) = t) :
    mbRun s pf c body = .next t := by
  obtain ⟨hbusy, hop, hcheck⟩ := h
  unfold mbRun
  rw [if_neg (by simp [hbusy, hop])]
  split
  case h_1 => rw [ht]
  case h_2 hne => exact absurd hcheck hne

/-- A command that fails its checks ends with their RESULT. -/
theorem mbRun_fails {c : MbCmd} {body : Part → State} (hbusy : (partOf s.hub pf).mbBusy = true) (hop : (partOf s.hub pf).mbOp.toNat = c.op)
    (hcheck : mbCheck s pf c ≠ 0) : mbRun s pf c body = .next (mbDone s pf (mbCheck s pf c) []) := by
  unfold mbRun
  rw [if_neg (by simp [hbusy, hop])]
  split
  case h_1 h => exact absurd h hcheck
  case h_2 => rfl

/-- GETINFO. -/
theorem execGetinfo_takes (h : mailboxTakes s pf mbGetinfo) : ∃ l, l.length = 64 ∧ execGetinfo pf s = .next (mbDone s pf 0 l) := by
  unfold execGetinfo
  exact ⟨_, length_natBytes 64 _, mbRun_takes h rfl⟩

/-- GETFAIL. -/
theorem execGetfail_takes (h : mailboxTakes s pf mbGetfail) :
    execGetfail pf s = .next (mbDone s pf 0 (s.sec.failing.flatMap fun w => natBytes 8 w.toNat)) := by
  unfold execGetfail
  exact mbRun_takes h rfl

/-- PARTSET without FORCE. -/
theorem execPartset_takes (h : mailboxTakes s pf mbPartset) (hn : mbReq (partOf s.hub pf) 0 8 < 4) (hforce : mbReq (partOf s.hub pf) 16 8 = 0) :
    let n := mbReq (partOf s.hub pf) 0 8
    let x := cfgFields (BitVec.ofNat 64 (mbReq (partOf s.hub pf) 8 8))
    let code := cfgCode s.hub n x false
    let s1 := { s with hub := { s.hub with partCode := code, partOf := n } }
    execPartset pf s = if code = 0 then .next (mbDone (cfgWritePart s1 n x) pf 0 (natBytes 8 (partStat s1.hub).toNat))
      else .next (mbDone s1 pf 5 (natBytes 8 (partStat s1.hub).toNat)) := by
  intro n x code s1
  have hvalid : ¬(4 ≤ n ∨ 2 ≤ mbReq (partOf s.hub pf) 16 8) := by omega
  have hsoft : ¬mbReq (partOf s.hub pf) 16 8 = 1 := by omega
  have hcode : cfgCode s.hub n x (decide (mbReq (partOf s.hub pf) 16 8 = 1)) = code := by rw [decide_eq_false hsoft]
  unfold execPartset
  split
  case isTrue hc =>
    refine mbRun_takes h ((if_neg hvalid).trans ?_)
    rw [hcode, if_neg (not_not.mpr hc), if_neg hsoft]
  case isFalse hc =>
    refine mbRun_takes h ((if_neg hvalid).trans ?_)
    rw [hcode, if_pos hc]

/-- SPINESET. -/
theorem execSpineset_takes (h : mailboxTakes s pf mbSpineset) (hn : mbReq (partOf s.hub pf) 0 8 < 8) :
    let n := mbReq (partOf s.hub pf) 0 8
    let m := mbReq (partOf s.hub pf) 8 8
    let t := if multOk n m then { s with clk := { s.clk with mult := tins s.clk.mult n m } } else s
    execSpineset pf s = .next (mbDone t pf 0 (natBytes 8 (spfreq t.clk n).toNat)) := by
  unfold execSpineset
  exact mbRun_takes h (if_neg (Nat.not_le.mpr hn))

/-- FWSTAGE of a partition's image. -/
theorem execFwstage_takes (h : mailboxTakes s pf mbFwstage) (hkind : mbReq (partOf s.hub pf) 0 8 = 2) (hstage : s.sec.stage ≠ 4) :
    let n := min (mbReq (partOf s.hub pf) 16 8) (256 + 0xFFFF00)
    let img := natBytes n (mgetN s.mem.host (mbReq (partOf s.hub pf) 8 8) n)
    let code := vcode s.sec 2 (some pf) img
    let t := { s with sec := if code = 0 then { s.sec with flash := tins s.sec.flash (stageSlot s.sec pf 2) img } else s.sec }
    execFwstage pf s = .next (mbDone t pf (if code = 0 then 0 else 5) (natBytes 8 code)) := by
  unfold execFwstage
  refine mbRun_takes h ((if_neg fun hc => hstage hc.1).trans ((if_neg (by omega)).trans ((if_neg (by omega)).trans ?_)))
  rw [hkind, if_pos rfl]

/-- FWSTAGE in the safe state of an image that is not the hub's. -/
theorem execFwstage_safe (h : mailboxTakes s pf mbFwstage) (hstage : s.sec.stage = 4) (hkind : mbReq (partOf s.hub pf) 0 8 ≠ 1) :
    execFwstage pf s = .next (mbDone s pf 6 []) := by
  unfold execFwstage
  exact mbRun_takes h (if_pos ⟨hstage, hkind⟩)

/-- FWSTAGE of no KIND. -/
theorem execFwstage_noKind (h : mailboxTakes s pf mbFwstage) (hstage : s.sec.stage ≠ 4) (hone : mbReq (partOf s.hub pf) 0 8 ≠ 1)
    (htwo : mbReq (partOf s.hub pf) 0 8 ≠ 2) : execFwstage pf s = .next (mbDone s pf 3 []) := by
  unfold execFwstage
  exact mbRun_takes h ((if_neg fun hc => hstage hc.1).trans (if_pos ⟨hone, htwo⟩))

/-- SVNLOCK of a running partition's image. -/
theorem execSvnlock_takes (h : mailboxTakes s pf mbSvnlock) (hkind : mbReq (partOf s.hub pf) 0 8 = 2) (hn : mbReq (partOf s.hub pf) 8 8 < 4)
    (hrun : (partOf s.hub (mbReq (partOf s.hub pf) 8 8)).prstState = 2) :
    let svn := (partOf s.hub (mbReq (partOf s.hub pf) 8 8)).bootSvn
    let new := if (svnFloor s.sec 2).toNat < svn.toNat then svn else svnFloor s.sec 2
    execSvnlock pf s = .next (mbDone { s with sec := { s.sec with floors := tins s.sec.floors 2 new } } pf 0 (natBytes 8 new.toNat)) := by
  unfold execSvnlock
  refine mbRun_takes h ((if_neg (by omega)).trans ((if_neg fun hc => hc.2 hrun).trans ?_))
  rw [hkind, if_neg (by omega)]

/-- OWNERKEY of a partition in reset. -/
theorem execOwnerkey_takes (h : mailboxTakes s pf mbOwnerkey) (hn : mbReq (partOf s.hub pf) 0 8 < 4)
    (hreset : (partOf s.hub (mbReq (partOf s.hub pf) 0 8)).prstState = 0) :
    execOwnerkey pf s = .next (mbDone { s with sec := { s.sec with
      ownerKeys := tins s.sec.ownerKeys (mbReq (partOf s.hub pf) 0 8) (BitVec.ofNat 256 (mbReq (partOf s.hub pf) 8 32)) } } pf 0 []) := by
  unfold execOwnerkey
  exact mbRun_takes h ((if_neg (Nat.not_le.mpr hn)).trans (if_neg (not_not.mpr hreset)))

/-- ATTEST. -/
theorem execAttest_takes (h : mailboxTakes s pf mbAttest) :
    execAttest pf s = .next (mbDone s pf 0 (attestReport s pf (mbReq (partOf s.hub pf) 0 32))) := by
  unfold execAttest
  exact mbRun_takes h rfl

/-- DEVRESET. -/
theorem execDevreset_takes (h : mailboxTakes s pf mbDevreset) : execDevreset pf s = .next (deviceReset s) := by
  unfold execDevreset
  exact mbRun_takes h rfl

/-- A request whose OP is not assigned. -/
theorem execMailboxUnknownOp_ends (hbusy : (partOf s.hub pf).mbBusy = true) (hop : ∀ c ∈ mbCmds, c.op ≠ (partOf s.hub pf).mbOp.toNat) :
    execMailboxUnknownOp pf s = .next (mbDone s pf (if s.sec.stage = 4 then 6 else 1) []) := by
  refine if_neg ?_
  rintro (hidle | hknown)
  · simp [hbusy] at hidle
  · obtain ⟨c, hc, heq⟩ := List.any_eq_true.mp hknown
    exact hop c hc (beq_iff_eq.mp heq)

/-- Every command of the mailbox runs through `mbRun` under its own record. -/
theorem exec_eq_mbRun {c : MbCmd} {mk : Nat → Instr} (h : (c, mk) ∈ [(mbGetinfo, Instr.getinfo), (mbGetfail, .getfail), (mbPartset, .partset),
    (mbSpineset, .spineset), (mbFwstage, .fwstage), (mbSvnlock, .svnlock), (mbOwnerkey, .ownerkey), (mbAttest, .attest), (mbDevreset, .devreset)]) :
    ∃ body, exec (mk pf) s = mbRun s pf c body := by
  simp only [List.mem_cons, Prod.mk.injEq, List.not_mem_nil, or_false] at h
  rcases h with ⟨rfl, rfl⟩ | ⟨rfl, rfl⟩ | ⟨rfl, rfl⟩ | ⟨rfl, rfl⟩ | ⟨rfl, rfl⟩ | ⟨rfl, rfl⟩ | ⟨rfl, rfl⟩ | ⟨rfl, rfl⟩ | ⟨rfl, rfl⟩
  all_goals
    dsimp only [exec, execGetinfo, execGetfail, execPartset, execSpineset, execFwstage, execSvnlock, execOwnerkey, execAttest, execDevreset]
    exact ⟨_, rfl⟩

/-! ### SPDM messages (R503) -/

/-- Before STAGE reaches 3 a message is to be retried. -/
theorem spdmReply_retry {st : Nat → Nat} {l : List Byte} (h : s.sec.stage.toNat < 3) : spdmReply s pf st l = .next (cfgRetry s) := if_pos h

/-- The state with an answer in the DOE mailbox of a physical function. -/
def spdmAnswered (s : State) (pf n : Nat) (l : List Byte) : State := { s with hub := modPart s.hub pf fun p => { p with doe := l, spdm := n } }

/-- A function that answers leaves its reply in its DOE mailbox. -/
theorem spdmReply_answers {st : Nat → Nat} {l : List Byte} (h3 : 3 ≤ s.sec.stage.toNat) (h4 : s.sec.stage ≠ 4 ∨ pf = 0) :
    spdmReply s pf st l = .next (spdmAnswered s pf (st (partOf s.hub pf).spdm) l) := by
  unfold spdmReply
  rw [if_neg (Nat.not_lt.mpr h3), if_neg (by tauto)]
  rfl

section
variable (h3 : 3 ≤ s.sec.stage.toNat) (h4 : s.sec.stage ≠ 4 ∨ pf = 0)
include h3 h4

theorem execGetVersion_answers : ∃ l, execGetVersion pf s = .next (spdmAnswered s pf 1 l) := ⟨_, spdmReply_answers h3 h4⟩

theorem execGetCapabilities_answers : ∃ l, execGetCapabilities pf s = .next (spdmAnswered s pf (max (partOf s.hub pf).spdm 2) l) :=
  ⟨_, spdmReply_answers h3 h4⟩

theorem execNegotiateAlgorithms_answers (a : Nat) :
    ∃ l, execNegotiateAlgorithms pf a s = .next (spdmAnswered s pf (if bit a 0 && bit a 1 then 3 else (partOf s.hub pf).spdm) l) := by
  unfold execNegotiateAlgorithms
  simp only [Bool.and_eq_true]
  split
  case isTrue => exact ⟨_, spdmReply_answers h3 h4⟩
  case isFalse => exact ⟨_, spdmReply_answers h3 h4⟩

theorem execGetDigests_answers : ∃ l, execGetDigests pf s = .next (spdmAnswered s pf (partOf s.hub pf).spdm l) := ⟨_, spdmReply_answers h3 h4⟩

theorem execGetCertificate_answers (o n : Nat) :
    ∃ l, l.length ≤ n ∧ execGetCertificate pf o n s = .next (spdmAnswered s pf (partOf s.hub pf).spdm l) :=
  ⟨_, List.length_take_le _ _, spdmReply_answers h3 h4⟩

theorem execChallenge_answers (x : BitVec 256) : ∃ l, execChallenge pf x s = .next (spdmAnswered s pf (partOf s.hub pf).spdm l) :=
  ⟨_, spdmReply_answers h3 h4⟩

theorem execGetMeasurements_answers (i : Nat) (x : BitVec 256) (hi : 1 ≤ i) (hi' : i ≤ 4) : ∃ h g, execGetMeasurements pf i x s =
    .next (spdmAnswered s pf (partOf s.hub pf).spdm (h ++ natBytes 64 (mregOf s pf (i - 1)).toNat ++ g)) :=
  ⟨_, _, (if_neg (by omega)).trans (spdmReply_answers h3 h4)⟩
end

/-- Settles O56: the mailbox commands by what `mbRun` does, the messages by what `spdmReply` does. -/
theorem mailboxAndSpdm : Obligations.MailboxAndSpdm := by
  intro s pf p arg ends
  refine ⟨execGetinfo_takes, execGetfail_takes, execPartset_takes, execSpineset_takes, execFwstage_takes, execFwstage_safe, execFwstage_noKind,
    execSvnlock_takes, execOwnerkey_takes, execAttest_takes, execDevreset_takes, execMailboxUnknownOp_ends, ?fails, ?retry, ?spdm⟩
  case fails =>
    intro c mk hc hbusy hop hcheck
    obtain ⟨body, hbody⟩ := exec_eq_mbRun hc
    rw [hbody]
    exact mbRun_fails hbusy hop hcheck
  case retry =>
    intro h
    have hversion : execGetVersion pf s = .next (cfgRetry s) := spdmReply_retry h
    have hdigests : execGetDigests pf s = .next (cfgRetry s) := spdmReply_retry h
    exact ⟨hversion, hdigests⟩
  case spdm =>
    intro h3 h4 answers
    exact ⟨execGetVersion_answers h3 h4, execGetCapabilities_answers h3 h4, execNegotiateAlgorithms_answers h3 h4, execGetDigests_answers h3 h4,
      execGetCertificate_answers h3 h4, execChallenge_answers h3 h4, execGetMeasurements_answers h3 h4⟩

end Sys2Proof.Machine
end

section
/-! OBLIGATIONS. Movement operations: steering, tags, merges, joins, counter chains and comparators (13 R360-R367). -/

namespace Sys2Proof.Machine

variable {s : State} {w : Slot}

/-! ### Steering, filtering, replication, delay, tags (R360, R361, R364, R366) -/

/-- The tag of tagset and tagchk as one sum of a byte. -/
theorem tagOf_eq (x : FireCtx) : tagOf x = (scalarOf x x.w.b.toNat + x.w.imm.toNat) % 256 := (Nat.add_mod _ _ _).symm

theorem execPass_next (h : fires s 0x200 w) :
    execPass w s = .next (withFab s (forwardOne (began s 0x200 w) (seen s 0x200 w) w.a.toNat)) := fire_next h

theorem execDrop_next (h : fires s 0x201 w) : execDrop w s = .next (withFab s (putPwe (popped s 0x201 w) (seen s 0x201 w) false)) := fire_next h

theorem execSteer_next (h : fires s 0x203 w) :
    let x := seen s 0x203 w
    let q := if control x w.b.toNat then w.dst.toNat else w.imm.toNat % 256
    execSteer w s = .next (withFab s (putPwe (emitTo (popped s 0x203 w) x q (carry x q w.a.toNat (fireLvl x))) x (control x w.b.toNat))) :=
  fire_next h

theorem execFilt_next {t : Token} (ht : headOf (seen s 0x204 w).e w.a.toNat = some t) (h : fires s 0x204 w) :
    let x := seen s 0x204 w
    let ok := Nat.land t.ctag.toNat (w.imm.toNat / 256) == w.imm.toNat % 256
    execFilt w s = .next (withFab s (putPwe
      (if ok then emitTo (popped s 0x204 w) x w.dst.toNat (carry x w.dst.toNat w.a.toNat (fireLvl x)) else popped s 0x204 w) x ok)) := by
  refine fire_eq h ?_
  rw [ht]
  rfl

theorem execRepl_next (h : fires s 0x205 w) :
    let x := seen s 0x205 w
    execRepl w s = .next (withFab s (putPwe ((w.dst.toNat :: outQueues (isDrift x.key x.p) w.imm.toNat).foldl
      (fun f q => emitTo f x q (replCopy x w.a.toNat q)) (popped s 0x205 w)) x (tokCond (replCopy x w.a.toNat w.dst.toNat)))) := fire_next h

theorem execLastm_next (h : fires s 0x20D w) :
    let x := seen s 0x20D w
    let t := carry x w.dst.toNat w.a.toNat (BitVec.ofNat 3 (accWord x.e w.b.toNat))
    execLastm w s = .next (withFab s (putPwe (emitTo (popped s 0x20D w) x w.dst.toNat t) x (tokCond t))) := fire_next h

theorem execTagset_next {t : Token} (ht : headOf (seen s 0x20E w).e w.a.toNat = some t) (h : fires s 0x20E w) :
    let x := seen s 0x20E w
    let u := forwardToken x w.a.toNat w.dst.toNat t (fireLvl x) (some (BitVec.ofNat 8 (scalarOf x w.b.toNat + w.imm.toNat)))
    execTagset w s = .next (withFab s (putPwe (emitTo (popped s 0x20E w) x w.dst.toNat u) x (tokCond u))) := by
  intro x u
  have htag : BitVec.ofNat 8 (tagOf x) = BitVec.ofNat 8 (scalarOf x w.b.toNat + w.imm.toNat) := by
    rw [tagOf_eq]
    exact BitVec.eq_of_toNat_eq (by simp only [BitVec.toNat_ofNat]; exact Nat.mod_mod _ _)
  refine fire_eq h ?_
  rw [ht]
  dsimp only
  rw [htag]
  rfl

theorem execDelay_next {t : Token} (ht : headOf (seen s 0x202 w).e w.a.toNat = some t) (h : fires s 0x202 w) :
    let x := seen s 0x202 w
    let l := (slotOfRun x.p.run x.slot).line.getD (List.replicate (w.imm.toNat % 16) {}) ++ [t]
    let h := l.headD {}
    let u := forwardToken x w.a.toNat w.dst.toNat h h.lvl none
    let u := if h.check = 0 ∧ h.data = 0 then stamp (isWideSel w.dst.toNat) u else u
    execDelay w s = .next (withFab s
      (putPwe (emitTo (modSelf (popped s 0x202 w) x fun q => { q with line := some (l.drop 1) }) x w.dst.toNat u) x (tokCond u))) := by
  refine fire_eq h ?_
  rw [ht]
  rfl

/-- The tag of the head differs from the expected one under the mask of a tagchk. -/
def tagDiffers (w : Slot) (t : Token) (tag : Nat) : Prop := Nat.land (Nat.xor t.ctag.toNat tag) (w.imm.toNat / 256) ≠ 0

theorem execTagchk_next {t : Token} (ht : headOf (seen s 0x20F w).e w.a.toNat = some t)
    (heq : ¬tagDiffers w t ((scalarOf (seen s 0x20F w) w.b.toNat + w.imm.toNat) % 256)) (h : fires s 0x20F w) :
    execTagchk w s = .next (withFab s (forwardOne (began s 0x20F w) (seen s 0x20F w) w.a.toNat)) := by
  refine fire_eq h ?_
  rw [ht, tagOf_eq]
  exact if_neg heq

theorem execTagchk_raises {t : Token} (ht : headOf (seen s 0x20F w).e w.a.toNat = some t)
    (hne : tagDiffers w t ((scalarOf (seen s 0x20F w) w.b.toNat + w.imm.toNat) % 256)) (h : fires s 0x20F w) :
    let x := seen s 0x20F w
    execTagchk w s = .next (withFab s (slotRaise (began s 0x20F w) x 8 (some w.a.toNat)
      ((scalarOf x w.b.toNat + w.imm.toNat) % 256 * 256 + t.ctag.toNat) (t.data.toNat % 2 ^ 64))) := by
  refine fire_eq h ?_
  rw [ht, tagOf_eq]
  exact if_pos hne

/-- Settles O39, operation by operation, each by the lemma of its outcome above. -/
theorem steeringResults : Obligations.SteeringResults := by
  intro s w
  exact ⟨execPass_next, execDrop_next, execSteer_next, fun _ => execFilt_next, execRepl_next, execLastm_next, fun _ => execTagset_next,
    fun _ ht => ⟨execTagchk_next ht, execTagchk_raises ht⟩, fun _ => execDelay_next⟩

/-! ### Merges, joins, counter chains, comparators (R361-R365, R367) -/

theorem execMergeO_next {q : Nat} (hq : mergeHit (seen s 0x206 w).e s.site.plane (slotOfRun (seen s 0x206 w).p.run s.site.slot).next w = some q)
    (h : fires s 0x206 w) :
    let x := seen s 0x206 w
    execMergeO w s = .next (withFab s (modSelf (forwardOne (began s 0x206 w) x q) x fun t => { t with next := t.next + 1 })) := by
  intro x
  have hhit : mergeHit x.e x.plane (slotOfRun x.p.run x.slot).next w = some q := hq
  refine fire_eq h ?_
  rw [hhit]

theorem execMergeC_next (h : fires s 0x207 w) :
    let x := seen s 0x207 w
    execMergeC w s = .next (withFab s (forwardOne (began s 0x207 w) x (if control x w.c.toNat then w.a.toNat else w.b.toNat))) := fire_next h

/-- The input that merge.u pops: the one it points to where both hold heads, else the one that holds a head (13 R361). -/
theorem popsOf_mergeU {x : FireCtx} (hop : x.op = 0x208) (hkind : x.w.kindc ≠ 1) :
    popsOf x = if holdsHead x.e x.plane x.w.a.toNat && holdsHead x.e x.plane x.w.b.toNat then
        [if (slotOfRun x.p.run x.slot).ptr then x.w.b.toNat else x.w.a.toNat]
      else if holdsHead x.e x.plane x.w.a.toNat then [x.w.a.toNat] else [x.w.b.toNat] := by
  unfold popsOf
  rw [if_neg hkind, hop]
  rfl

theorem execMergeU_next (hkind : w.kindc ≠ 1) (h : fires s 0x208 w) :
    let x := seen s 0x208 w
    let ha := holdsHead x.e s.site.plane w.a.toNat
    let hb := holdsHead x.e s.site.plane w.b.toNat
    execMergeU w s = .next (withFab s (if ha && hb then
        modSelf (forwardOne (began s 0x208 w) x (if (slotOfRun x.p.run s.site.slot).ptr then w.b.toNat else w.a.toNat)) x
          fun t => { t with ptr := !t.ptr }
      else forwardOne (began s 0x208 w) x (if ha then w.a.toNat else w.b.toNat))) := by
  intro x ha hb
  have hpops : (popsOf x).headD w.a.toNat = if ha && hb then (if (slotOfRun x.p.run x.slot).ptr then w.b.toNat else w.a.toNat)
    else if ha then w.a.toNat else w.b.toNat := by
    rw [popsOf_mergeU rfl hkind]
    exact (apply_ite (List.headD · w.a.toNat) _ _ _).trans (congrArg _ (apply_ite (List.headD · w.a.toNat) _ _ _))
  refine fire_eq h ?_
  rw [hpops]
  split
  case isTrue hboth => exact if_pos hboth
  case isFalse hone => exact if_neg hone

/-- A join for any rule that agrees with its own. -/
theorem join_next {op e : Nat} {want want' : Nat → Nat → Bool × Bool} (hwant : want = want') (h : fires s op w) :
    let x := seen s op w
    let k := want' (joinKey x w.a.toNat) (joinKey x w.b.toNat)
    let f := if k.1 then emitTo (popped s op w) x w.dst.toNat (carry x w.dst.toNat w.a.toNat (fireLvl x)) else popped s op w
    join s op w e want = .next (withFab s (putPwe (if k.2 then emitTo f x e (carry x e w.b.toNat (fireLvl x)) else f) x (k.1 || k.2))) := by
  subst hwant
  exact fire_next h

theorem execCnt_next (hn : scalarOf (seen s 0x20C w) w.b.toNat % 2 ^ 32 ≠ 0) (h : fires s 0x20C w) :
    let x := seen s 0x20C w
    let n := scalarOf x w.b.toNat % 2 ^ 32
    let t := if w.a.toNat = 0x60 then 2 ^ 63 else accWord x.e w.a.toNat
    let e := bit t 63
    let q := slotOfRun x.p.run s.site.slot
    let last : Bool := decide (q.idx.toNat = n - 1)
    let k := fld w.imm.toNat 8 3
    let idx : BitVec 32 := if !e then q.idx else if last then 0 else q.idx + 1
    let out := if e && last then chainTok true k else chainTok false (t % 8)
    let ix := w.imm.toNat % 256
    let f := modSelf (popped s 0x20C w) x fun r => { r with idx := idx, done := r.done || (e && last && bit w.imm.toNat 11) }
    let f := if e then emitTo f x ix (newToken x ix (BitVec.ofNat 512 (k * 2 ^ 61 + idx.toNat)) 0) else f
    execCnt w s = .next (withFab s (putPwe (emitTo f x w.dst.toNat (newToken x w.dst.toNat out 0)) x (out != 0))) :=
  fire_eq h (if_neg hn)

theorem execCnt_raises (hn : scalarOf (seen s 0x20C w) w.b.toNat % 2 ^ 32 = 0) (h : fires s 0x20C w) :
    execCnt w s = .next (withFab s (slotRaise (began s 0x20C w) (seen s 0x20C w) 1 none 0 0)) := fire_eq h (if_pos hn)

theorem execAccRst_resets {t : Token} (ht : headOf (seen s 0x211 w).e w.a.toNat = some t)
    (hl : 1 ≤ t.lvl.toNat ∧ t.lvl.toNat ≤ w.imm.toNat % 8) (h : fires s 0x211 w) :
    let x := seen s 0x211 w
    let r := w.b.toNat
    let u := newToken x w.dst.toNat (tokenSrc x r) t.lvl
    execAccRst w s = .next (withFab s (putPwe (addPend (emitTo (popped s 0x211 w) x w.dst.toNat u) x
      (if r < 0x10 then .v x.plane r 0 else .a x.plane (r - 0x18) 0)) x (w.dst.toNat != 0x60 && tokCond u))) := by
  refine fire_eq h ?_
  rw [ht]
  exact if_pos hl

theorem execAccRst_keeps {t : Token} (ht : headOf (seen s 0x211 w).e w.a.toNat = some t)
    (hl : ¬(1 ≤ t.lvl.toNat ∧ t.lvl.toNat ≤ w.imm.toNat % 8)) (h : fires s 0x211 w) :
    execAccRst w s = .next (withFab s (popped s 0x211 w)) := by
  refine fire_eq h ?_
  rw [ht]
  exact if_neg hl

section
variable {a b : Token} (ha : headOf (seen s 0x210 w).e w.a.toNat = some a) (hb : headOf (seen s 0x210 w).e w.b.toNat = some b)
include ha hb

theorem execCmpx_equal (heq : a.data = b.data ∧ a.lvl = b.lvl ∧ a.ctag = b.ctag) (h : fires s 0x210 w) :
    let x := seen s 0x210 w
    execCmpx w s = .next (withFab s (modSelf (forwardOne (began s 0x210 w) x w.a.toNat) x fun q => { q with twinSent := false })) := by
  refine fire_eq h ?_
  rw [ha, hb]
  exact if_pos heq

theorem execCmpx_replays (hne : ¬(a.data = b.data ∧ a.lvl = b.lvl ∧ a.ctag = b.ctag))
    (hfirst : twinReplayed (began s 0x210 w) (seen s 0x210 w) = false) (h : fires s 0x210 w) :
    execCmpx w s = .next (withFab s (slotRaise (began s 0x210 w) (seen s 0x210 w) 0 none 0 7)) := by
  refine fire_eq h ?_
  rw [ha, hb]
  exact (if_neg hne).trans (if_neg (by rw [hfirst]; exact Bool.false_ne_true))

theorem execCmpx_raises (hne : ¬(a.data = b.data ∧ a.lvl = b.lvl ∧ a.ctag = b.ctag))
    (hsecond : twinReplayed (began s 0x210 w) (seen s 0x210 w) = true) (h : fires s 0x210 w) :
    execCmpx w s = .next (withFab s (slotRaise (began s 0x210 w) (seen s 0x210 w) 0x0D (some w.a.toNat)
      (Nat.xor (a.data.toNat % 2 ^ 64) (b.data.toNat % 2 ^ 64)) (sideband a * 2 ^ 32 + sideband b))) := by
  refine fire_eq h ?_
  rw [ha, hb]
  exact (if_neg hne).trans (if_pos hsecond)
end

/-- The rules of the three joins as the statement writes them. -/
theorem join_wants :
    (fun a b => (decide (a < b) || (a == joinEnd && b == joinEnd), false)) =
      (fun a b => (decide (a < b ∨ (a = 0xFFFFFFFF ∧ b = 0xFFFFFFFF)), false) : Nat → Nat → Bool × Bool) ∧
    (fun a b => (a == b, a == b)) = (fun a b => (decide (a = b), decide (a = b)) : Nat → Nat → Bool × Bool) ∧
    (fun a b => (false, decide (b < a) || (a == joinEnd && b == joinEnd))) =
      (fun a b => (false, decide (b < a ∨ (a = 0xFFFFFFFF ∧ b = 0xFFFFFFFF))) : Nat → Nat → Bool × Bool) := by
  refine ⟨?_, rfl, ?_⟩ <;> funext a b <;> simp only [Bool.decide_or, Bool.decide_and] <;> rfl

/-- Settles O40, operation by operation, each by the lemma of its outcome above. -/
theorem mergeJoinCountResults : Obligations.MergeJoinCountResults := by
  intro s w
  refine ⟨fun _ => execMergeO_next, execMergeC_next, execMergeU_next, ?joins, ⟨execCnt_next, execCnt_raises⟩,
    fun _ ht => ⟨execAccRst_resets ht, execAccRst_keeps ht⟩,
    fun _ _ ha hb => ⟨execCmpx_equal ha hb, execCmpx_replays ha hb, execCmpx_raises ha hb⟩⟩
  intro op e mk want hop
  obtain ⟨hlt, heq, hgt⟩ := join_wants
  simp only [List.mem_cons, Prod.mk.injEq, List.not_mem_nil, or_false] at hop
  rcases hop with ⟨rfl, rfl, rfl, rfl⟩ | ⟨rfl, rfl, rfl, rfl⟩ | ⟨rfl, rfl, rfl, rfl⟩
  · exact join_next hlt
  · exact join_next heq
  · exact join_next hgt

end Sys2Proof.Machine
end

section
/-! OBLIGATIONS. Stops, discards, replays and reports (15 R410-R425, 21 R468, R472). -/

namespace Sys2Proof.Machine

variable {s : State} {key rid plane slot : Nat} {r : Region}

/-! ### Discards and reports of the round controller (R410-R412) -/

/-- A fault of a running region sends the gate signal. -/
theorem execRoundDiscard_stops {ctx : Nat} (hr : region? s.fab rid = some r) (ho : r.owner = none) (hp : r.phase ≠ 2)
    (hn : nextFault s.fab rid r = some ctx) (hk : dkindOf (pairFaults s.fab rid ctx) ≠ .stray)
    (hd : (ctxOf r ctx).drift = false) (h0 : r.phase = 0) :
    ∃ cause, execRoundDiscard rid s =
      .next (withFab s (stopPair s.fab rid cause ctx (if (firstFault (pairFaults s.fab rid ctx)).any noDiscard then 2 else 1))) := by
  refine ⟨((firstFault (pairFaults s.fab rid ctx)).map fun x => x.cause).getD 0, ?_⟩
  unfold execRoundDiscard
  simp only [hr, ho, hn, Option.isSome_none, Bool.false_eq_true, if_false, if_neg hp, hk, hd, or_self, if_pos h0]
  rfl

/-- With every element gated the discard is applied. -/
theorem execRoundDiscard_applies {ctx : Nat} (hr : region? s.fab rid = some r) (ho : r.owner = none) (hp : r.phase ≠ 2)
    (hn : nextFault s.fab rid r = some ctx) (hk : dkindOf (pairFaults s.fab rid ctx) ≠ .stray)
    (hd : (ctxOf r ctx).drift = false) (h0 : r.phase ≠ 0)
    (hg : allGated s.fab rid = true) (hs : r.restart = false) : execRoundDiscard rid s = .next (applyGated s rid ctx) := by
  unfold execRoundDiscard
  simp only [hr, ho, hn, Option.isSome_none, Bool.false_eq_true, if_false, if_neg hp, hk, hd, or_self, if_neg h0, hg, hs, Bool.not_true]

/-- A stop without discard whose elements are all gated. -/
theorem execRoundDiscard_gated (hr : region? s.fab rid = some r) (ho : r.owner = none) (hp : r.phase = 2) (hg : allGated s.fab rid = true) :
    execRoundDiscard rid s = .next (applyGated s rid r.stopCtx) := by
  unfold execRoundDiscard
  simp only [hr, ho, Option.isSome_none, Bool.false_eq_true, if_false, if_pos hp, hg, if_true]

/-- A fault that discards nothing is reported as the region stops. -/
theorem applyGated_reports {ctx : Nat} (h : (firstFault (pairFaults s.fab rid ctx)).any noDiscard = true) :
    let t := stopReport s rid ctx 2
    applyGated s rid ctx = withFab t (setPhase t.fab rid fun r => if r.phase = 3 then { r with stays := true } else { r with phase := 4 }) := if_pos h

/-- Any other fault discards, and the region replays or stops. -/
theorem applyGated_discards {ctx : Nat} (h : (firstFault (pairFaults s.fab rid ctx)).any noDiscard = false) :
    let q := applyDiscard s rid ctx
    applyGated s rid ctx = withFab q.1 (setPhase q.1.fab rid fun r =>
      if q.2 && r.phase != 4 then { r with restart := true }
      else { r with phase := if r.phase = 3 then 3 else 4, stays := r.phase == 3, stop := some (r.stop.getD 0), stopCtx := ctx }) :=
  if_neg (by rw [h]; exact Bool.false_ne_true)

/-! ### Gate signals and replays (R411, R415, R416) -/

/-- The gate signal at a node. -/
theorem execGateSignalArrival_ag (hr : regionOf s.fab (keyCore key) = some (rid, r)) (hg : key ∈ r.gates) (hk : kindOf key = .ag) :
    let g := modRegion (modElem s.fab key fun e => { e with gated := true }) rid fun r => { r with gates := r.gates.filter fun k => k != key }
    execGateSignalArrival key s = .next (withFab s
      (if (region? g rid).any fun r => r.gates.isEmpty then modRegion g rid fun r => { r with gateAt := s.clk.dtime } else g)) := by
  intro g
  have hgate : gateElem s.fab rid key = g := by simp [gateElem, hk, g]
  have hcontains : (!r.gates.contains key) = false := by simpa using hg
  unfold execGateSignalArrival
  simp only [hr, hcontains, Bool.false_eq_true, if_false, onFab, hgate, hk, reduceCtorEq]
  rfl

/-- The state after a rescan, by how it has ended. -/
def rescanEnd (s : State) (rid : Nat) (r : Region) : Rescan → State
  | .done => restartPair s rid
  | .waits => s
  | .fails q => rescanStop s rid r q

section
variable (hr : region? s.fab rid = some r) (hs : r.restart = true)
include hr hs

/-- A replay of gated regions goes as the rescan of their planes ends. -/
theorem execReplay_gated (ho : r.owner = none) (h0 : r.phase ≠ 0) (h3 : r.phase < 3) (hg : allGated s.fab rid = true) :
    execReplay rid s = .next (rescanEnd (rescanPair s rid).1 rid r (rescanPair s rid).2) := by
  unfold execReplay
  simp only [hr, hs, ho, hg, h0, Nat.not_le.mpr h3, Bool.not_true, Bool.false_eq_true, Option.isSome_none, or_self, if_false]
  cases (rescanPair s rid).2 with
  | done => rfl
  | waits => rfl
  | fails q => rfl

/-- A restored drift context resumes. -/
theorem execReplay_drift (ho : r.owner.isSome = true) : execReplay rid s = .next (driftResume s rid) := by
  unfold execReplay
  simp only [hr, hs, ho, Bool.not_true, Bool.false_eq_true, if_false, if_true]
end

/-! ### Bad words, timing errors, breakpoints, quiescence (R413, R423-R425, R472) -/

/-- A frame that the firing reads fails its parity check. -/
theorem fire_badWord {op n : Nat} {w : Slot} {body : FireCtx → Fab → Fab} (hr : slotReady s.fab s.site.key s.site.plane s.site.slot op w = true)
    (hb : backlogFull (seen s op w) = false) (hw : badWord (seen s op w) = some n) :
    fire s op w body = .next (withFab s (slotRaise (began s op w) (seen s op w) 0x0B none
      (cfgAddr s.site.key s.site.plane n (if n = s.site.slot / 2 then 16 * (s.site.slot % 2) else 0)).toNat 3)) := by
  have hfull : ¬backlogFull (fireCtx s.fab s.site op w) = true := Bool.eq_false_iff.mp hb
  have hword : badWord (fireCtx s.fab s.site op w) = some n := hw
  unfold fire
  refine (if_pos hr).trans ((if_neg hfull).trans ?_)
  rw [hword]
  rfl

section
variable (hk : kindOf key = .compute ∨ kindOf key = .ag) (hh : halted s.fab key = false)
include hk hh

/-- The first timing error: the open operations issue again. -/
theorem execTimingError_first (ht : (elemOf s.fab key).terr = []) (ho : ∃ q ∈ (elemOf s.fab key).opens, (elemOf s.fab key).cyc < q.2 + 2) :
    execTimingError key s = .next (withFab s (modElem s.fab key fun e =>
      { e with issued := allClasses, terr := (openOps e).map fun q => (q.1, e.cyc) })) := by
  have hopen : ¬(openOps (elemOf s.fab key)).isEmpty = true := by simpa [openOps] using ho
  unfold execTimingError
  refine (if_neg (by rw [hh]; simpa using Classical.or_iff_not_imp_left.mp hk)).trans ?_
  simp only [ht]
  exact if_neg hopen

/-- A second timing error is UNCORR of kind 6. -/
theorem execTimingError_second {n c : Nat} {l : List (Nat × Nat)} (ht : (elemOf s.fab key).terr = (n, c) :: l)
    (hc : c + 4 < (elemOf s.fab key).cyc) :
    execTimingError key s = .next (withFab s (((elemOf s.fab key).terr.map fun t => t.1).dedup.foldl (fun f n => raiseFault f (keyCore key) n
      { cause := 0x0B, key := key, round := (planeOf (elemOf s.fab key) n).run.round, info1 := 6 })
      (modElem s.fab key fun e => { e with terr := [] }))) := by
  unfold execTimingError
  refine (if_neg (by rw [hh]; simpa using Classical.or_iff_not_imp_left.mp hk)).trans ?_
  simp only [ht]
  exact if_neg (Nat.not_le.mpr hc)
end

/-- A breakpoint that takes effect. -/
theorem execBreakpointStop_stops (hr : regionOf s.fab (keyCore key) = some (rid, r)) (hp : r.phase = 0)
    (hb : brkDue (elemOf s.fab key) key plane slot = true)
    (hready : slotReady s.fab key plane slot (swOp (slotWordOf (planeOf (elemOf s.fab key) plane) slot))
      (slotFields (slotWordOf (planeOf (elemOf s.fab key) plane) slot)) = true) :
    ∃ x : FaultRec, x.cause = 0x0F ∧ x.key = key ∧ x.slot = some slot ∧ x.round = (planeOf (elemOf s.fab key) plane).run.round ∧
      execBreakpointStop key plane slot s = .next (withFab s (breakStop s.fab key plane slot x)) := by
  unfold execBreakpointStop
  simp only [hr, hp, hb, hready]
  exact ⟨_, rfl, rfl, rfl, rfl, if_neg (by simp)⟩

/-- What a breakpoint does in the region of its element. -/
theorem breakStop_eq {x : FaultRec} (hr : regionOf s.fab (keyCore key) = some (rid, r)) :
    let g := raiseFault (modElem s.fab key fun e => modPlane e plane fun p => { p with brkskip := true, brkslot := slot }) (keyCore key) plane x
    breakStop s.fab key plane slot x = if (driftIn g rid plane).isSome
      then modElem g key fun e => modPlane e plane fun p => { p with revoked := true } else gateElem (stopPair g rid 0x0F plane 2) rid key := by
  unfold breakStop
  simp only [hr]

/-- A context without an excuse that has been idle for 4096 cycles. -/
theorem execQuiesceDetect_stops (hr : region? s.fab rid = some r) (hl : ctxLive r plane = true) (hb : ctxBound s.fab r plane = true)
    (hp : r.phase = 0) (hd : (ctxOf r plane).drift = false) (hi : 4096 ≤ (ctxOf r plane).idle)
    (hlent : ∀ d, driftIn s.fab rid plane = some d → d.2.lent = true)
    (hq : quietExcused s.fab r plane = false) :
    ∃ x : FaultRec, x.cause = 0x0A ∧ x.info0 = BitVec.ofNat 64 (blockedKeys s.fab r plane).length ∧
      execQuiesceDetect rid plane s = .next (withFab s (stopPair (raiseFault (modRegion s.fab rid fun r => modCtx r plane fun c =>
        { c with idle := 0, faults := c.faults.filter fun y => y.cause != 0 }) (r.y0 * 8 + r.x0) plane x) rid 0x0A plane 2)) := by
  have hrevoked : ((driftIn s.fab rid plane).any fun d => !d.2.lent) = false := by
    cases h : driftIn s.fab rid plane with
    | none => rfl
    | some d => simp [hlent d h]
  unfold execQuiesceDetect
  simp only [hr, hl, hb, hp, hrevoked, hq, hd, Nat.not_lt.mpr hi, Bool.not_true, Bool.false_eq_true, ne_eq, not_true_eq_false, or_self, if_false]
  exact ⟨_, rfl, rfl, rfl⟩

/-! ### The retirement sweep (R424) -/

/-- A sweep that finds no token retires the context. -/
theorem execRetirementSweep_retires (hr : region? s.fab rid = some r)
    (hclean : ∀ q ∈ ctxPair s.fab rid plane, ∃ g, region? s.fab q = some g ∧
      sweepDue s.fab g plane = true ∧ ∀ k ∈ regionKeys g, strayIn s.fab k plane = []) :
    execRetirementSweep rid plane s = .next ((ctxPair s.fab rid plane).foldl (fun s q => retireCtx s q plane) s) := by
  have hfound : ((ctxPair s.fab rid plane).flatMap fun q => match region? s.fab q with
      | none => []
      | some r => (regionKeys r).flatMap fun k => (strayIn s.fab k plane).map fun t => (k, t)) = [] := by
    refine List.flatMap_eq_nil_iff.mpr fun q hq => ?_
    obtain ⟨g, hg, -, hnone⟩ := hclean q hq
    rw [hg]
    exact List.flatMap_eq_nil_iff.mpr fun k hk => by rw [hnone k hk]; rfl
  have hdue : ((ctxPair s.fab rid plane).all fun q => (region? s.fab q).any fun g => sweepDue s.fab g plane) = true := by
    refine List.all_eq_true.mpr fun q hq => ?_
    obtain ⟨g, hg, hdue, -⟩ := hclean q hq
    rw [hg]
    exact hdue
  unfold execRetirementSweep
  extract_lets rs found
  have hempty : found = [] := hfound
  simp only [hr, rs, hdue, hempty, Bool.not_true, Bool.false_eq_true, if_false]

/-- Settles O51, clause by clause, each by the lemma of its event above. -/
theorem stopEvents : Obligations.StopEvents := by
  intro s key rid plane slot r f e
  refine ⟨fun ctx hr ho hp hn => ?discard, fun hr ho hp hg hx => ?gated, execGateSignalArrival_ag,
    fun hr hs => ⟨fun ho h0 h3 hg => ?replay, execReplay_drift hr hs⟩, fun _ _ _ _ => fire_badWord,
    fun hk hh => ⟨execTimingError_first hk hh, fun _ _ _ => execTimingError_second hk hh⟩, fun hr hp hb hready => ?breakpoint,
    execQuiesceDetect_stops, execRetirementSweep_retires⟩
  case discard =>
    intro x hk hd
    refine ⟨execRoundDiscard_stops hr ho hp hn hk hd, fun h0 hg hs hx => ?_⟩
    exact (execRoundDiscard_applies hr ho hp hn hk hd h0 hg hs).trans (congrArg _ (applyGated_discards hx))
  case gated => exact (execRoundDiscard_gated hr ho hp hg).trans (congrArg _ (applyGated_reports hx))
  case replay =>
    have hgo : exec (.replay rid) s = _ := execReplay_gated hr hs ho h0 h3 hg
    intro q
    refine ⟨fun hq => ?_, fun hq => ?_, fun b hq => ?_⟩
    all_goals exact hgo.trans (congrArg (fun e => Host.Outcome.next (rescanEnd q.1 rid r e)) hq)
  case breakpoint =>
    obtain ⟨x, hc, hkey, hslot, hround, heq⟩ := execBreakpointStop_stops hr hp hb hready
    exact ⟨x, hc, hkey, hslot, hround, heq.trans (congrArg (Host.Outcome.next <| withFab s ·) (breakStop_eq hr))⟩

end Sys2Proof.Machine
end

section
/-! OBLIGATIONS. Launches from fetch to start, swaps, drifts, saves and restores (14 R385-R409, 15 R427-R436, 16 R437-R440). -/

namespace Sys2Proof.Machine

variable {s : State} {part fn q idx rid key plane : Nat}

/-! ### Fetch, scheduling and candidates (R385-R396) -/

/-- A running partition fetches for a function of its own that does not wait. -/
theorem launchFetch_admits (hr : partEn (partOf s.hub part) = true ∧ (partOf s.hub part).prstState = 2) (hfn : fn ≤ vfCnt (partOf s.hub part))
    (hw : thas (partOf s.hub part).fwait (9 * fn + q) = false) :
    ¬(!partEn (partOf s.hub part) ∨ (partOf s.hub part).prstState ≠ 2 ∨ vfCnt (partOf s.hub part) < fn ∨
      thas (partOf s.hub part).fwait (9 * fn + q)) := by
  obtain ⟨hen, hst⟩ := hr
  simp [hen, hst, hw, Nat.not_lt.mpr hfn]

theorem execLaunchFetch_queue (hr : partEn (partOf s.hub part) = true ∧ (partOf s.hub part).prstState = 2) (hfn : fn ≤ vfCnt (partOf s.hub part))
    (hw : thas (partOf s.hub part).fwait (9 * fn + q) = false) (hq : q < 8) : execLaunchFetch part fn q s = .next (fetchQueue s part fn q) :=
  (if_neg (launchFetch_admits hr hfn hw)).trans (if_pos hq)

theorem execLaunchFetch_child (hr : partEn (partOf s.hub part) = true ∧ (partOf s.hub part).prstState = 2) (hfn : fn ≤ vfCnt (partOf s.hub part))
    (hw : thas (partOf s.hub part).fwait (9 * fn + q) = false) (hq : q = 8) : execLaunchFetch part fn q s = .next (fetchChild s part fn) :=
  (if_neg (launchFetch_admits hr hfn hw)).trans ((if_neg (by omega)).trans (if_pos hq))

/-- The scheduler places the record that it picks. -/
theorem execSchedulerDecision_places (hr : partEn (partOf s.hub part) = true ∧ (partOf s.hub part).prstState = 2) :
    let s1 := { s with hub := modPart s.hub part fun p => noteSince p s.clk.dtime }
    ∀ (i : Nat) (l : Launch) (a : List (Nat × Nat)) (n : Nat) (warm : Bool), pickLaunch s1 part = some (i, l, .place a n warm) →
      execSchedulerDecision part s = .next (placeLaunch { s1 with hub := modPart s1.hub part fun p => wonPart p i l } l a n warm) := by
  intro s1 i l a n warm hpick
  obtain ⟨hen, hst⟩ := hr
  unfold execSchedulerDecision
  refine (if_neg (by simp [hen, hst])).trans ?_
  simp only [show pickLaunch { s with hub := modPart s.hub part fun p => noteSince p s.clk.dtime } part = _ from hpick]
  rfl

theorem execBatchPromotion_promotes {l : Launch} (hl : (partOf s.hub part).accepted[idx]? = some l) (hc : lClass l = 2)
    (hcand : isCandidate (partOf s.hub part) s.clk.dtime idx = true) (hold : ∃ t, l.since = some t ∧ 491520 ≤ (s.clk.dtime - t).toNat) :
    execBatchPromotion part idx s = .next { s with hub := modPart s.hub part fun p =>
      { p with accepted := lmod p.accepted idx fun l => { l with promoted := true } } } := by
  obtain ⟨t, ht, hage⟩ := hold
  unfold execBatchPromotion
  rw [hl]
  exact if_pos ⟨hc, hcand, by simpa [ht] using hage⟩

theorem execNotbeforeReached_notes (hcand : isCandidate (partOf s.hub part) s.clk.dtime idx = true) :
    execNotbeforeReached part idx s = .next { s with hub := modPart s.hub part fun p =>
      { p with accepted := lmod p.accepted idx fun l => { l with since := some (l.since.getD s.clk.dtime) } } } := if_pos hcand

/-! ### Loads (R213-R217) -/

/-- A load of a launch is not held: a swap holds preloads alone. -/
theorem launchLoad_not_held {l : Load} (hw : l.wait = 0) (hrid : l.rid.isSome = true) :
    ¬(l.wait ≠ 0 ∨ (match regionOf s.fab (l.y0 * 8 + l.x0) with
      | some (_, r) => l.rid.isNone && swapHeld r l.plane
      | none => false) = true) := by
  rintro (h | h)
  · exact h hw
  · obtain ⟨rid, hrid⟩ := Option.isSome_iff_exists.mp hrid
    split at h <;> simp [hrid] at h

section
variable {l : Load} {m : MemSys} {x : HubX} (hl : s.fab.loads[idx]? = some l) (hw : l.wait = 0) (hrid : l.rid.isSome = true)
include hl hw hrid

theorem execPlaneLoadFrame_ok {line : Line} (hread : hubRead s.hub s.mem l.x l.part l.fn (l.image.toNat + 32 * l.k) = (m, x, .ok line)) :
    let l1 : Load := { l with x := {} }
    let s1 := poisonPost { s with mem := m, fab := { s.fab with loads := lmod s.fab.loads idx fun _ => l1 } }
    execPlaneLoadFrame idx s = .next (loadFrame (withFab s1 (loadState s1.fab l1 .incomplete .loading)) idx l1
      (BitVec.ofNat 256 (line.toNat / 2 ^ (8 * ((l.image.toNat + 32 * l.k) % 64))))) := by
  unfold execPlaneLoadFrame
  simp only [hl, hread]
  exact if_neg (launchLoad_not_held hw hrid)

theorem execPlaneLoadFrame_wait (hread : hubRead s.hub s.mem l.x l.part l.fn (l.image.toNat + 32 * l.k) = (m, x, .wait)) :
    execPlaneLoadFrame idx s =
      .next (poisonPost { s with mem := m, fab := { s.fab with loads := lmod s.fab.loads idx fun _ => { l with x := x } } }) := by
  unfold execPlaneLoadFrame
  simp only [hl, hread]
  exact if_neg (launchLoad_not_held hw hrid)
end

/-! ### Start tokens (R274, R398) -/

/-- A plane of an element is bound. -/
def planeBound (f : Fab) (k n : Nat) : Prop := (planeOf (elemOf f k) n).st = .bound

/-- Plane n of the elements of a core, those of a list, becomes bound. -/
def bindElems (core n : Nat) (l : List Nat) (f : Fab) : Fab :=
  l.foldl (fun f e => if hasPlanes (100 * core + e) then bindPlane f (100 * core + e) n false else f) f

theorem planeBound_bindPlane_same (f : Fab) (k n : Nat) (succ : Bool) : planeBound (bindPlane f k n succ) k n := by
  simp [planeBound, bindPlane, planeOf, modPlane]

theorem planeBound_bindPlane {f : Fab} {j k n : Nat} {succ : Bool} (h : planeBound f j n) : planeBound (bindPlane f k n succ) j n := by
  by_cases hjk : j = k
  · subst hjk
    exact planeBound_bindPlane_same f j n succ
  · unfold planeBound bindPlane
    rw [elemOf_modElem_ne f _ hjk]
    exact h

theorem planeBound_bindElems_keeps {core n k : Nat} : ∀ (l : List Nat) {f : Fab}, planeBound f k n → planeBound (bindElems core n l f) k n
  | [], _, h => h
  | e :: l, f, h => by
    refine planeBound_bindElems_keeps l (f := if hasPlanes (100 * core + e) then bindPlane f (100 * core + e) n false else f) ?_
    split
    · exact planeBound_bindPlane h
    · exact h

theorem planeBound_bindElems {core n : Nat} : ∀ {l : List Nat} {f : Fab} {e : Nat}, e ∈ l → hasPlanes (100 * core + e) = true →
    planeBound (bindElems core n l f) (100 * core + e) n
  | a :: l, f, e, he, hp => by
    rcases List.mem_cons.mp he with rfl | he
    · refine planeBound_bindElems_keeps l (f := if hasPlanes (100 * core + e) then bindPlane f (100 * core + e) n false else f) ?_
      rw [if_pos hp]
      exact planeBound_bindPlane_same f _ n false
    · exact planeBound_bindElems (l := l) he hp

/-- A fabric with the elements of another, and with the same cores started. -/
def sameStarted (f g : Fab) : Prop := g.elems = f.elems ∧ ∀ n, (ccOf g n).started = (ccOf f n).started

/-- The bindings of ports leave the elements, and every core started or not. -/
theorem sameStarted_bindPorts (r : Region) (f : Fab) (core : Nat) : sameStarted f (bindPorts r f core) := by
  refine foldl_keeps (P := sameStarted f) ⟨rfl, fun _ => rfl⟩ fun g v hg => ite_keeps (P := sameStarted f) ⟨hg.1, fun n => ?_⟩ hg
  by_cases hn : n = core
  · subst hn
    rw [ccOf_modCc_same]
    exact hg.2 n
  · rw [ccOf_modCc_ne g _ hn]
    exact hg.2 n

/-- A change of every entry that keeps a part of each keeps that part of what an index reads. -/
theorem tget_map_part {α β : Type} {d : α} {part : α → β} {g : α → α} (hg : ∀ x, part (g x) = part x) :
    ∀ (t : Tab α) (k : Nat), part (tget d (t.map fun q => (q.1, g q.2)) k) = part (tget d t k)
  | [], _ => rfl
  | (j, x) :: t, k => by
    simp only [List.map_cons, tget]
    split
    · exact hg x
    · exact tget_map_part hg t k

/-- Dropped replies leave the planes. -/
theorem planeBound_dropOwed {cores : List Nat} {k n : Nat} (h : planeBound s.fab k n) : planeBound (dropOwed s cores).fab k n := by
  have hplanes : (elemOf (dropOwed s cores).fab k).planes = (elemOf s.fab k).planes :=
    tget_map_part (part := Elem.planes) (g := dropReplies cores) (fun _ => rfl) _ _
  unfold planeBound planeOf
  rw [hplanes]
  exact h

/-- The planes of a core bound, in the state as its control core starts. -/
def startBound (s : State) (core rid : Nat) (r : Region) (g : Region → Region) : State :=
  withFab s (modRegion (bindElems core r.plane (List.range 100) s.fab) rid g)

/-- The control core started, where the launch starts it, with its ports bound. -/
def startPorts (s : State) (core : Nat) (r : Region) : State :=
  if startsCore r then withFab (startCore s core (r.launch.fn == 0)) (bindPorts r (startCore s core (r.launch.fn == 0)).fab core) else s

theorem startPorts_started {core : Nat} {r : Region} (h : startsCore r = true) : (ccOf (startPorts s core r).fab core).started = true := by
  unfold startPorts
  rw [if_pos h]
  refine ((sameStarted_bindPorts r _ core).2 core).trans ?_
  simp [startCore]

theorem startPorts_mem (s : State) (core : Nat) (r : Region) : (startPorts s core r).mem = s.mem := by
  unfold startPorts
  split <;> rfl

theorem planeBound_startPorts {core k n : Nat} {r : Region} (h : planeBound s.fab k n) : planeBound (startPorts s core r).fab k n := by
  unfold startPorts
  split
  case isTrue =>
    unfold planeBound elemOf
    rw [withFab, (sameStarted_bindPorts r _ core).1]
    exact planeBound_dropOwed h
  case isFalse => exact h

/-- The start token of an owner launch without a twin. -/
theorem execStartTokenArrival_owner {core : Nat} {r : Region} (hs : startAt s.fab core = some (rid, r)) (ht : r.twin = none) (ho : r.owner = none) :
    ∃ g g', execStartTokenArrival core s = .next (fillBucket
      (withFab (startPorts (startBound s core rid r g) core r) (modRegion (startPorts (startBound s core rid r g) core r).fab rid g')) rid) := by
  unfold execStartTokenArrival startPorts startBound bindElems
  cases hc : startsCore r
  all_goals
    simp only [hs, ht, ho, hc, Option.bind_none, Option.isSome_none, Option.any_none, Option.getD_none, Bool.not_true, Bool.not_false, Bool.and_true,
      Bool.false_eq_true, if_false, if_true]
    generalize List.foldl _ s.fab (List.range 100) = f
    exact ⟨_, _, rfl⟩

theorem execStartTokenArrival_binds {core : Nat} {r : Region} (hs : startAt s.fab core = some (rid, r)) (ht : r.twin = none) (ho : r.owner = none) :
    ∃ t, execStartTokenArrival core s = .next t ∧ t.mem = s.mem ∧
      (∀ e, e < 100 → hasPlanes (100 * core + e) = true → (planeOf (elemOf t.fab (100 * core + e)) r.plane).st = .bound) ∧
      ((ccOf t.fab core).started = true ∨ bit r.launch.lrec.toNat 25 = false) := by
  obtain ⟨g, g', heq⟩ := execStartTokenArrival_owner hs ht ho
  refine ⟨_, heq, startPorts_mem _ core r, fun e he hp => ?_, ?_⟩
  · exact planeBound_startPorts (planeBound_bindElems (List.mem_range.mpr he) hp)
  · cases hc : bit r.launch.lrec.toNat 25 with
    | true => exact .inl (startPorts_started (by simp [startsCore, ho, hc]))
    | false => exact .inr rfl

/-! ### Swaps and drifts (R299, R404, R407-R409) -/

section
variable {r : Region} {w : Swap} (hr : region? s.fab rid = some r) (hw : r.swap = some w)
include hr hw

theorem execSwapCheck_checks (hc : w.checked = none) (ht : horizonCome s.clk.dtime w.tick = true) : execSwapCheck rid s =
    .next (withFab s (modRegion s.fab rid fun r => { r with swap := some { w with checked := some (swapOk s.fab r w) } })) := by
  unfold execSwapCheck
  simp only [hr, hw]
  exact if_neg (by simp [hc, ht])

theorem execSwapTick_refuses (hd : w.done = false) (hc : w.checked = some false) (ht : w.tick.toNat ≤ s.clk.dtime.toNat) :
    execSwapTick rid s = .next (withFab s (swapRefuse s.fab rid r w)) := by
  unfold execSwapTick
  simp only [hr, hw]
  exact (if_neg (by simp [hd, hc, ht])).trans (if_pos (by simp [hc]))

theorem execSwapTick_swaps (hd : w.done = false) (hc : w.checked = some true) (hp : r.phase = 0) (ht : w.tick.toNat ≤ s.clk.dtime.toNat) :
    let lent := (s.fab.regions.filter fun q => q.2.owner == some rid && q.2.lent).map fun q => q.1
    let g := kwrAll ((planeKeys r).foldl (fun f k => bindPlane f k w.new true) s.fab) (planeKeys r) w.new
    let g := ((planeKeys r).filter fun k => kindOf k == .ag).foldl (fun f k => modElem f k (endStreams w.old)) g
    let g := modRegion g rid fun r => { r with swap := some { w with done := true, relend := lent }, ctxs := tins r.ctxs w.new {} }
    execSwapTick rid s = .next (withFab s (lent.foldl (fun f d => sendDrift f d 1 none) (cmdReply g w.core w.id w.reg 0))) := by
  unfold execSwapTick
  simp only [hr, hw]
  exact (if_neg (by simp [hd, hc, ht])).trans (if_neg (by simp [hc, hp]))
end

section
variable {did : Nat} {d : Region} (hk : kindOf key = .ag)
include hk

theorem execRevokeArrival_ag (hm : driftMsg s.fab key plane 1 = some (did, d)) : execRevokeArrival key plane s =
    .next (withFab s (msgDone (modElem s.fab key fun e => modPlane (settlePend plane e) plane fun p => { p with revoked := true }) did key)) := by
  have hkind : ¬kindOf key = .compute := by simp [hk]
  unfold execRevokeArrival
  simp only [hm, if_neg hkind]
  rfl
end

theorem execRelendArrival_resumes {did : Nat} {d : Region} (hm : driftMsg s.fab key plane 2 = some (did, d)) :
    ∃ g, execRelendArrival key plane s = .next (withFab s (msgDone g did key)) ∧ (planeOf (elemOf g key) plane).revoked = false := by
  unfold execRelendArrival
  simp only [hm]
  exact ⟨_, rfl, by simp⟩

theorem execLendWithdraw_notices {r : Region} (hr : region? s.fab rid = some r) (hw : r.withdraw = none)
    (hd : (s.fab.regions.filter fun q => q.2.owner == some rid) ≠ []) (hn : needsPlanes s rid r = true) :
    execLendWithdraw rid s = .next (withFab s (modRegion s.fab rid fun r' =>
      (s.fab.regions.filter fun q => q.2.owner == some rid).foldl (fun r d => modCtx r d.2.plane fun c => { c with early := true, earlyDone := none })
        { r' with withdraw := some (ownerRound s.fab r) })) := by
  unfold execLendWithdraw
  simp only [hr, hw]
  exact if_neg (by rw [hn]; simpa [List.isEmpty_iff] using hd)

/-! ### Distributors and stage samples (R402, R403) -/

theorem execDistributorSend_sends {j r : Nat} {x : StageE} {t : Token} (hd : distNext (elemOf s.fab key) plane = some (j, x, t, r))
    (hs : planeStill s.fab key plane = false) (hi : IssueClass.movement ∉ (elemOf s.fab key).issued)
    (hpop : (popPlane s.fab key plane (stDq x) t).2 = true) :
    let p := planeOf (elemOf s.fab key) plane
    execDistributorSend key plane s = .next (withFab s (pushOut
      (modElem (busy (popPlane s.fab key plane (stDq x) t).1 key plane) key fun e =>
        modRun { openWindow e plane with issued := .movement :: e.issued } plane fun v => { v with dists := tmod {} v.dists j (distStep x r) })
      key (stOq x r) (distToken key p (stOq x r) (tget {} p.run.dists j).seq t))) := by
  have hgo : ¬(planeStill s.fab key plane = true ∨ (elemOf s.fab key).issued.contains .movement = true) := by simp [hs, hi]
  have hpopped : ¬(!(popPlane s.fab key plane (stDq x) t).2) = true := by rw [hpop]; exact Bool.false_ne_true
  unfold execDistributorSend
  refine (if_neg hgo).trans ?_
  simp only [hd]
  exact congrArg (Host.Outcome.next <| withFab s ·) (if_neg hpopped)

/-- A change of an element by what it makes of the element as it stands. -/
theorem modElem_congr {f : Fab} {k : Nat} {g g' : Elem → Elem} (h : g (elemOf f k) = g' (elemOf f k)) : modElem f k g = modElem f k g' :=
  congrArg (fun e => { f with elems := tins f.elems k e }) h

/-- A change of a plane by what it makes of the plane as it stands. -/
theorem modPlane_congr {e : Elem} {n : Nat} {g g' : Plane → Plane} (h : g (planeOf e n) = g' (planeOf e n)) : modPlane e n g = modPlane e n g' :=
  congrArg (fun p => { e with planes := tins e.planes n p }) h

theorem execStageSample_reports {x : StageE} {g : Region} {i d j : Nat} (hx : (planeOf (elemOf s.fab key) plane).stages = [x])
    (hr : regionOf s.fab (keyCore key) = some (rid, g)) (hdist : x.dist = false) (hs : planeStill s.fab key plane = false)
    (hc : (planeOf (elemOf s.fab key) plane).cyc0 < (elemOf s.fab key).cyc)
    (h64 : ((elemOf s.fab key).cyc - (planeOf (elemOf s.fab key) plane).cyc0) % 64 = 0) (hi : stReplica x (relPlace g key) = some i)
    (hd : relKey g (fld x.w0.toNat 0 7) (fld x.w0.toNat 7 7) = some d) (hdk : d ≠ key)
    (hj : (planeOf (elemOf s.fab d) plane).stages.findIdx? (fun y => y.dist && sameStage x y) = some j) :
    let n := stageCount (elemOf s.fab key) plane x i
    execStageSample key plane s = .next (withFab s (modElem (modElem s.fab key fun e => modPlane e plane fun p =>
      { p with stages := p.stages.map fun y => if y = x then { x with prio := n } else y }) d fun e =>
      modRun e plane fun u => { u with dists := tmod {} u.dists j fun v => { v with est := tput 0 v.est i n } })) := by
  intro n
  unfold execStageSample
  simp only [hr]
  refine (if_neg (by simp [hs, hc, h64])).trans (congrArg (Host.Outcome.next <| withFab s ·) ?_)
  simp only [hx, List.foldl_cons, List.foldl_nil, hdist, Bool.false_eq_true, if_false, hi, stageReport, hd, elemOf_modElem_ne _ _ hdk, hj]
  exact congrArg (fun f => modElem f d _) (modElem_congr (modPlane_congr (by simp [hx, hdist, hi, n])))

/-! ### Pre-emption and restore (R429, R436) -/

section
variable {r : Region} (hr : region? s.fab rid = some r) (hs : r.saveDue = true)
include hr hs

theorem execPreemption_stops (hp : r.phase = 0) : execPreemption rid s = .next (withFab s (stopPair s.fab rid 1 0 3)) := by
  unfold execPreemption
  simp only [hr]
  exact if_pos ⟨hs, hp⟩

theorem execPreemption_saves (hp : r.phase = 4)
    (hroom : r.w * r.h * (if r.twin.isSome then 2 else 1) ≤ (freeSlots (partOf s.hub r.launch.part)).length) :
    execPreemption rid s = .next (saveAnswer (saveRegion s rid 1) r.launch.part 1) := by
  unfold execPreemption
  simp only [hr]
  exact (if_neg (by simp [hp])).trans (if_pos ⟨hs, hp, decide_eq_true hroom⟩)
end

section
variable {l : Launch} {sid : Nat} {x : Saved} {plan : Plan} (hpick : pickLaunch s part = some (idx, l, plan)) (hl : l.saved = some sid)
  (hx : (partOf s.hub part).saved.find? (fun q => q.1 == sid) = some (sid, x))
include hpick hl hx

theorem execRestoreSavedLaunch_corrupt {cause : Nat}
    (hlost : ((((sid, x) :: (x.partner.bind fun j => (partOf s.hub part).saved.find? fun z => z.1 == j).toList).findSome? fun q =>
      saveLost s part q.2) = some cause)) :
    execRestoreSavedLaunch part idx s = .next (corruptBack s part idx l
      ((sid, x) :: (x.partner.bind fun j => (partOf s.hub part).saved.find? fun z => z.1 == j).toList) x cause) := by
  unfold execRestoreSavedLaunch
  simp only [hpick, hl, Option.bind_some, hx, hlost]
  exact if_neg (not_not.mpr rfl)

section
variable (hp : x.partner = none) (hfine : saveLost s part x = none)
include hp hfine

theorem execRestoreSavedLaunch_drift {host : Nat} (hplan : plan = .backDrift host) :
    let a := slotsRead s part x
    execRestoreSavedLaunch part idx s =
      .next (restoreDrift { a.1 with hub := modPart a.1.hub part fun p => savedGone (wonPart p idx l) sid a.2 } a.2 host) := by
  subst hplan
  unfold execRestoreSavedLaunch
  simp only [hpick, hl, Option.bind_some, hx, hp, Option.bind_none, Option.toList_none, List.findSome?_cons, hfine, List.findSome?_nil]
  exact if_neg (not_not.mpr rfl)

theorem execRestoreSavedLaunch_region {spot : Nat × Nat} (hplan : plan = .back [spot]) :
    let a := slotsRead s part x
    let won := { a.1 with hub := modPart a.1.hub part fun p => savedGone (wonPart p idx l) sid a.2 }
    let n := won.fab.nextRid
    let t := restoreAt (withFab won { won.fab with nextRid := n + 2 }) a.2 spot n
    execRestoreSavedLaunch part idx s = .next (if a.2.region.phase = 4 then t else restartPair t n) := by
  subst hplan
  unfold execRestoreSavedLaunch
  simp only [hpick, hl, Option.bind_some, hx, hp, Option.bind_none, Option.toList_none, List.findSome?_cons, hfine, List.findSome?_nil]
  exact (if_neg (not_not.mpr rfl)).trans (apply_ite Host.Outcome.next _ _ _).symm
end
end

/-- Settles O52, clause by clause, each by the lemma of its event above. -/
theorem schedulingEvents : Obligations.SchedulingEvents := by
  intro s part fn q idx rid key plane f p e runs
  refine ⟨fun hr hfn hw => ⟨execLaunchFetch_queue hr hfn hw, execLaunchFetch_child hr hfn hw⟩, execSchedulerDecision_places,
    fun _ => execBatchPromotion_promotes, execNotbeforeReached_notes, fun _ _ _ _ hl hw hrid => ⟨execPlaneLoadFrame_ok hl hw hrid,
    execPlaneLoadFrame_wait hl hw hrid⟩, fun _ _ => execStartTokenArrival_binds, fun _ _ hr hw => ⟨execSwapCheck_checks hr hw,
    execSwapTick_refuses hr hw, execSwapTick_swaps hr hw⟩, fun _ _ hk => ⟨execRevokeArrival_ag hk, execRelendArrival_resumes⟩,
    fun _ => execLendWithdraw_notices, fun _ _ _ _ => execDistributorSend_sends, fun _ _ _ _ _ => execStageSample_reports,
    fun _ hr hs => ⟨execPreemption_stops hr hs, execPreemption_saves hr hs⟩, fun _ _ _ _ hpick hl hx => ?restore⟩
  exact ⟨fun _ hplan hp hfine => execRestoreSavedLaunch_drift hpick hl hx hp hfine hplan,
    fun _ hplan hp hfine => execRestoreSavedLaunch_region hpick hl hx hp hfine hplan, fun _ => execRestoreSavedLaunch_corrupt hpick hl hx⟩

end Sys2Proof.Machine
end
